-- ==== Sys2Proof/Word.lean ====
section
/-!
DEFINITION. The widths the manual gives registers and addresses, and nothing else: the plainest arithmetic on them
is BitVec's own. Field extraction, byte order and sparse maps stand in Sys2Proof/Machine/Bits.lean and
Sys2Proof/Machine/Sparse.lean.
-/

namespace Sys2Proof

/-- A byte of any memory (R63, R191). -/
abbrev Byte := BitVec 8

/-- A 32-bit instruction word, vector element, mask or status word (R25, R36, R205). -/
abbrev Word32 := BitVec 32

/-- A 64-bit scalar register or system register (R25, R154). -/
abbrev Word64 := BitVec 64

/-- A 52-bit virtual address, the width of a PC (R109, R345). -/
abbrev Addr52 := BitVec 52

end Sys2Proof
end

