-- ==== Sys2Proof/Machine/Bits.lean ====
section
/-!
DEFINITION. Bit fields, sign extension and byte order (R18, R36, R62, R63).
-/

namespace Sys2Proof.Machine

/-- Bits [lo + n - 1 : lo] of the number x. -/
def field (x lo n : Nat) : Nat := x / 2 ^ lo % 2 ^ n

/-- Bit k of x. -/
def bitAt (x k : Nat) : Bool := x / 2 ^ k % 2 = 1

/-- The n-bit pattern x read as two's complement (R62). -/
def signedOf (n x : Nat) : Int :=
  if x % 2 ^ n < 2 ^ (n - 1) then ((x % 2 ^ n : Nat) : Int) else ((x % 2 ^ n : Nat) : Int) - (2 ^ n : Nat)

/-- The n-bit two's complement pattern of an integer (R62). -/
def patternOf (n : Nat) (i : Int) : Nat := (i % ((2 ^ n : Nat) : Int)).toNat

/-- The n little-endian bytes of x (R63). -/
def bytesOf : Nat → Nat → List Byte
  | 0, _ => []
  | n + 1, x => BitVec.ofNat 8 x :: bytesOf n (x / 256)

/-- The number whose little-endian bytes are bs (R63). -/
def ofBytes : List Byte → Nat
  | [] => 0
  | b :: bs => b.toNat + 256 * ofBytes bs

/-- Number of set bits among the low n bits of x. -/
def popCount : Nat → Nat → Nat
  | 0, _ => 0
  | n + 1, x => x % 2 + popCount n (x / 2)

/-- The lowest set bit at or above position k among n positions, if any. -/
def lowestFrom : Nat → Nat → Nat → Option Nat
  | 0, _, _ => none
  | n + 1, k, x => if x % 2 = 1 then some k else lowestFrom n (k + 1) (x / 2)

/-- The lowest set bit among the low n bits of x, if any. -/
def lowestBit (n x : Nat) : Option Nat := lowestFrom n 0 x

/-- Trailing zero bits of an n-bit pattern: n when it is zero. -/
def trailingZeros (n x : Nat) : Nat := (lowestBit n x).getD n

/-- The n-bit pattern x with bit i moved to bit n - 1 - i. -/
def reverseBits : Nat → Nat → Nat
  | 0, _ => 0
  | n + 1, x => (x % 2) * 2 ^ n + reverseBits n (x / 2)

/-- Leading zero bits of an n-bit pattern: n when it is zero. -/
def leadingZeros (n x : Nat) : Nat := trailingZeros n (reverseBits n (x % 2 ^ n))

/-- An n-bit pattern rotated left by k. -/
def rotateLeft (n x k : Nat) : Nat :=
  let y := x % 2 ^ n
  (y * 2 ^ (k % n) + y / 2 ^ (n - k % n)) % 2 ^ n

/-- The mask whose bits l below n are p l. -/
def maskUpTo (p : Nat → Bool) : Nat → BitVec 32
  | 0 => 0
  | n + 1 => if p n then maskUpTo p n ||| BitVec.twoPow 32 n else maskUpTo p n

/-- The 32-bit mask whose bit l is p l. -/
def maskOf (p : Nat → Bool) : BitVec 32 := maskUpTo p 32

/-- The lanes of a mask, in ascending order (R31). -/
def lanesOf (m : BitVec 32) : List Nat := (List.range 32).filter fun l => m.getLsbD l

/-- Is a a multiple of w? -/
def aligned (a w : Nat) : Bool := a % w = 0

/-- x with bits [lo + n - 1 : lo] replaced by the low n bits of y. -/
def putField (x lo n y : Nat) : Nat :=
  x / 2 ^ (lo + n) * 2 ^ (lo + n) + (y % 2 ^ n) * 2 ^ lo + x % 2 ^ lo

/-- The numbers a, a + 1, ..., a + n - 1. -/
def span (a n : Nat) : List Nat := (List.range n).map (a + ·)

/-- The first n bytes of a list, with zeros after its end. -/
def fitBytes (n : Nat) (l : List Byte) : List Byte := (List.range n).map fun i => l.getD i 0

end Sys2Proof.Machine
end

