-- ==== Sys2Proof/Syntax.lean ====
section
/-!
DEFINITION. The instructions and events of spec/opcode_table.json, one constructor per row (R38, R47 to R49). A step of
the machine is one instruction issued by one split, or one event. Operand fields hold the numbers the encoding gives
them; the codes of R39 are inductive types. h is the hint byte (R40): of a one-word format it is absent with LEN 0b00
or 0b10, and an extended format always has one. The events have no encoding; their operands say which object of the
machine the event is about, and what the outside brings with it.
-/

namespace Sys2Proof

/-- An operand b of a format V form (R39 BK, R160). -/
inductive VOp where
  | vec (r : Nat)
  | scalar (r : Nat)
  | imm (x : Nat)
  deriving DecidableEq, Repr

/-- A signed field of the first words, or the 64-bit literal that replaces it (R44, R46). -/
inductive Off where
  | small (k : Int)
  | lit (x : Nat)
  deriving DecidableEq, Repr

/-- A scalar register, or the literal that replaces it (R46). -/
inductive RegLit where
  | reg (r : Nat)
  | lit (x : Nat)
  deriving DecidableEq, Repr

/-- Element types in the order of their codes (R39 TY). -/
inductive Ty where
  | f32 | f16 | bf16 | e4m3 | i8 | i16 | i32 | i64 | n8 | n16 | n32 | n64
  deriving DecidableEq, Repr

/-- Rounding codes (R39 M3 as rounding). -/
inductive Rm where
  | rne | rtz | rup | rdn
  deriving DecidableEq, Repr

/-- Combining codes (R39). -/
inductive Comb where
  | add | min | max | and | or | xor | xchg
  deriving DecidableEq, Repr

/-- Order codes (R39 ORD): plain, acquire, release, both. -/
inductive MemOrd where
  | plain | acq | rel | ar
  deriving DecidableEq, Repr

/-- Scope codes (R39 SCOPE): lane, group, gang, band, span, device, system. -/
inductive Scope where
  | lane | group | gang | band | span | device | system
  deriving DecidableEq, Repr

/-- The order, scope and critical bit of a format L form (R42, R194). -/
structure Sync where
  ord : MemOrd
  scope : Scope
  crit : Bool
  deriving DecidableEq, Repr

/-- Counter classes (R39 CLS, R203). -/
inductive Cls where
  | cp | gs | pv | rd | tx | ix | mx | fx | cl
  deriving DecidableEq, Repr

/-- Window permissions (R39 PERM). -/
inductive Perm where
  | r | w | rw
  deriving DecidableEq, Repr

/-- System registers (R50). -/
inductive SysReg where
  | lane | group | gang | band | span | grid | split | ctxid | partid | accown | wsphase | clock | vtime
  | fltcause | fltaddr | fltpc | tlost | edge
  deriving DecidableEq, Repr

/-- Conditions of VCMP (R45, R176). -/
inductive Cond where
  | eq | ne | lt | le | gt | ge | ord | uno
  deriving DecidableEq, Repr

/-- The address operand of a format L form (R187): BSC, BASE and the offset. -/
structure Addr where
  scalar : Bool
  base : Nat
  off : Off
  deriving DecidableEq, Repr

/-- The barrier operand: does the operation complete into barrier bar (R42 BE)? -/
structure BarOp where
  be : Bool
  bar : Nat
  deriving DecidableEq, Repr

/-- Kinds of a collective (R213). -/
inductive CollKind where
  | ared | rscat | agath | bcast
  deriving DecidableEq, Repr

/-- Operations of a collective (R213). -/
inductive CollOp where
  | sum | max | min
  deriving DecidableEq, Repr

/-- Where MSTAT takes the base of its operand from (R230). -/
inductive StatSrc where
  | base (sa : Nat)
  | ring (r sb : Nat)
  deriving DecidableEq, Repr

/-- Where a saved gang is put back: its number, the core, and a group context per group (R320, R337). -/
structure Placement where
  gang : Nat
  core : Nat
  places : List Nat
  deriving DecidableEq, Repr

/-- What acknowledges a shoot-down: a core of this chip, or another chip (R355). -/
inductive AckNode where
  | core (c : Nat)
  | chip (c : Nat)
  deriving DecidableEq, Repr

/-- An entry of a flashback table (R316): the PC of the point, the class (0 vector, 1 scalar, 2 mask) and number of each
saved register, and the PC of the recipe. -/
structure FlashPoint where
  point : Nat
  saved : List (Nat × Nat)
  recipe : Option Nat
  deriving DecidableEq, Repr

/-- A function that Umber has translated: where it stands in the code heap, its words, the words that fill the stub, its
flashback points, and where in the code heap the image's flashback table stands from then on (R326, R327); the physical registers
that hold the virtual ones of the image between its stretches of code, where they are others, and the offsets of the spills,
reloads and moves that Umber has added. -/
structure Translation where
  base : Nat
  words : List Nat
  stubWords : List Nat
  points : List FlashPoint
  table : Nat
  homes : List (Nat × Nat)
  spills : List Nat
  deriving DecidableEq, Repr

/-- What the sensors of a die read, in degrees (R398): the hottest of its arrays, and its coolant inlet. -/
structure Sensors where
  array : Nat
  inlet : Nat
  deriving DecidableEq, Repr

/-- A flit as it stands between CRC check and handling (R359): header fields and the payload bytes in use. -/
structure Flit where
  dst : Nat
  src : Nat
  kind : Nat
  len : Nat
  seq : Nat
  payload : List Byte
  deriving DecidableEq, Repr

/-- The one signed firmware image (R391, R392): its two parts, the security version and the signature. -/
structure FwImage where
  monitor : List Byte
  umber : List Byte
  svn : Nat
  sig : List Byte
  deriving DecidableEq, Repr

/-- A master that Indigo can freeze (R396): a core, an engine channel of a core, a link port, or the Umber of a die. -/
inductive Master where
  | core (c : Nat)
  | channel (c : Nat)
  | port (p : Nat)
  | umber (die : Nat)
  | indigo (die : Nat)
  deriving DecidableEq, Repr

/-- The rows of spec/opcode_table.json: 216 instruction forms, then 90 events. -/
inductive Instr where
  /-- JOIN (R146). Matches the topmost join record with the token and makes the split joining, or continues when no record matches. -/
  | join (tok : Nat) (h : Option Nat)
  /-- RET (R144). Moves the split to the scalar indirect return address in the link register without dividing. -/
  | ret (sa : Nat) (h : Option Nat)
  /-- EXIT (R147). Retires the lanes of em at user level, or leaves the handler at supervisor level, without waiting for engine operations. -/
  | exit (h : Option Nat)
  /-- TRET (R149). Removes the topmost trap record and resumes its lanes at the record's PC, or takes the privilege trap at user level. -/
  | tret (h : Option Nat)
  /-- YIELD (R151). Sets the split's AGE to 0 and continues. -/
  | yield (h : Option Nat)
  /-- SLEEP (R152). Makes the split wait for a cycle count taken from a scalar or a literal; a flashback point. -/
  | sleep (c : RegLit) (h : Option Nat)
  /-- BRI (R142). Moves the whole split to the scalar indirect target. -/
  | bri (sa : Nat) (h : Option Nat)
  /-- CALLI (R143). Computes per-lane call targets, checks alignment, header fetch and budget, writes s63 and divides the calling lanes by target. -/
  | calli (sa : Nat) (va : Nat) (tok : Nat) (h : Option Nat)
  /-- BRIV (R142). Computes per-lane targets and divides the split by target, trapping lanes with misaligned targets. -/
  | briv (sa : Nat) (va : Nat) (tok : Nat) (h : Option Nat)
  /-- BR (R138). Sends the whole split to the direct long target. -/
  | br (t : Off) (h : Option Nat)
  /-- CALL (R143). Writes the return address into s63 and branches as BR. -/
  | call (t : Off) (h : Option Nat)
  /-- BZ (R138). Branches the whole split when the scalar is zero. -/
  | bz (sa : Nat) (t : Off) (h : Option Nat)
  /-- BNZ (R138). Branches the whole split when the scalar is nonzero. -/
  | bnz (sa : Nat) (t : Off) (h : Option Nat)
  /-- BLTZ (R138). Branches the whole split when the signed scalar is negative. -/
  | bltz (sa : Nat) (t : Off) (h : Option Nat)
  /-- BGEZ (R138). Branches the whole split when the signed scalar is zero or positive. -/
  | bgez (sa : Nat) (t : Off) (h : Option Nat)
  /-- BGTZ (R138). Branches the whole split when the signed scalar is positive. -/
  | bgtz (sa : Nat) (t : Off) (h : Option Nat)
  /-- BLEZ (R138). Branches the whole split when the signed scalar is zero or negative. -/
  | blez (sa : Nat) (t : Off) (h : Option Nat)
  /-- BRV (R139). Divergent branch that sends lanes set in the mask to the target and pushes a join record when both parts are nonempty. -/
  | brv (m : Nat) (t : Off) (tok : Nat) (h : Option Nat)
  /-- BRK (R140). Loop break that opens a region, or removes breaking lanes from join records and divides or moves the split to the target. -/
  | brk (m : Nat) (t : Off) (tok : Nat) (h : Option Nat)
  /-- BALL (R138). Branches the whole split when every lane of em is set in the mask. -/
  | ball (m : Nat) (t : Off) (h : Option Nat)
  /-- BNONE (R138). Branches the whole split when no lane of em is set in the mask. -/
  | bnone (m : Nat) (t : Off) (h : Option Nat)
  /-- SRD (R154). Reads a system register into a scalar or into each lane of a vector register. -/
  | srd (vx : Bool) (reg : Nat) (sys : SysReg) (h : Option Nat)
  /-- SWR (R155). Writes a system register that has no behaviour of its own under the access rules, taking effect at retirement. -/
  | swr (vx : Bool) (reg : Nat) (sys : SysReg) (h : Option Nat)
  /-- TRAP (R148). Raises a trap on em with cause 0x8000 plus the code. -/
  | trap (code : Nat) (h : Option Nat)
  /-- SPAWN (R153). Creates one group in the spawning gang on the same core and returns its GROUP INDEX or a failure code. -/
  | spawn (sd : Nat) (va : Nat) (entry : Nat) (h : Option Nat)
  /-- MMOV (R157). Copies a mask register. -/
  | mmov (md : Nat) (ma : Nat) (h : Option Nat)
  /-- MAND (R157). Writes the AND of two masks. -/
  | mand (md : Nat) (ma : Nat) (mb : Nat) (h : Option Nat)
  /-- MOR (R157). Writes the OR of two masks. -/
  | mor (md : Nat) (ma : Nat) (mb : Nat) (h : Option Nat)
  /-- MXOR (R157). Writes the XOR of two masks. -/
  | mxor (md : Nat) (ma : Nat) (mb : Nat) (h : Option Nat)
  /-- MANDN (R157). Writes ma AND NOT mb. -/
  | mandn (md : Nat) (ma : Nat) (mb : Nat) (h : Option Nat)
  /-- MNOT (R157). Writes the complement of a mask. -/
  | mnot (md : Nat) (ma : Nat) (h : Option Nat)
  /-- MSET (R157). Sets a mask from bits [31:0] of a scalar or of the literal. -/
  | mset (md : Nat) (b : RegLit) (h : Option Nat)
  /-- MPOP (R157). Writes the number of set bits of a mask into a scalar. -/
  | mpop (sd : Nat) (ma : Nat) (h : Option Nat)
  /-- MFIRST (R157). Writes the lowest set bit's number of a mask, or -1, into a scalar. -/
  | mfirst (sd : Nat) (ma : Nat) (h : Option Nat)
  /-- BALLOT (R157). Vote that writes the mask ANDed with em into a scalar. -/
  | ballot (sd : Nat) (ma : Nat) (h : Option Nat)
  /-- VANY (R157). Vote that writes 1 when any lane of em is set in the mask. -/
  | vany (sd : Nat) (ma : Nat) (h : Option Nat)
  /-- VALL (R157). Vote that writes 1 when every lane of em is set in the mask. -/
  | vall (sd : Nat) (ma : Nat) (h : Option Nat)
  /-- MSAVE (R157). Packs an even mask and its successor into a scalar. -/
  | msave (sd : Nat) (ma : Nat) (h : Option Nat)
  /-- MRESTORE (R157). Unpacks a scalar into an even mask and its successor. -/
  | mrestore (md : Nat) (sa : Nat) (h : Option Nat)
  /-- SADD (R164). Scalar add with b from SB. -/
  | sadd (sd : Nat) (sa : Nat) (sb : Nat) (h : Option Nat)
  /-- SSUB (R164). Scalar subtract with b from SB. -/
  | ssub (sd : Nat) (sa : Nat) (sb : Nat) (h : Option Nat)
  /-- SMUL (R164). Low 64 bits of the scalar product, b from SB. -/
  | smul (sd : Nat) (sa : Nat) (sb : Nat) (h : Option Nat)
  /-- SMULH (R164). High 64 bits of the signed scalar product, b from SB. -/
  | smulh (sd : Nat) (sa : Nat) (sb : Nat) (h : Option Nat)
  /-- SDIV (R165). Signed scalar division that never traps, b from SB. -/
  | sdiv (sd : Nat) (sa : Nat) (sb : Nat) (h : Option Nat)
  /-- SDIVU (R165). Unsigned scalar division that never traps, b from SB. -/
  | sdivu (sd : Nat) (sa : Nat) (sb : Nat) (h : Option Nat)
  /-- SREM (R165). Signed scalar remainder, b from SB. -/
  | srem (sd : Nat) (sa : Nat) (sb : Nat) (h : Option Nat)
  /-- SREMU (R165). Unsigned scalar remainder, b from SB. -/
  | sremu (sd : Nat) (sa : Nat) (sb : Nat) (h : Option Nat)
  /-- SAND (R164). Scalar AND, b from SB. -/
  | sand (sd : Nat) (sa : Nat) (sb : Nat) (h : Option Nat)
  /-- SOR (R164). Scalar OR, b from SB. -/
  | sor (sd : Nat) (sa : Nat) (sb : Nat) (h : Option Nat)
  /-- SXOR (R164). Scalar XOR, b from SB. -/
  | sxor (sd : Nat) (sa : Nat) (sb : Nat) (h : Option Nat)
  /-- SANDN (R164). Scalar a AND NOT b, b from SB. -/
  | sandn (sd : Nat) (sa : Nat) (sb : Nat) (h : Option Nat)
  /-- SSHL (R164). Scalar shift left by b[5:0], b from SB. -/
  | sshl (sd : Nat) (sa : Nat) (sb : Nat) (h : Option Nat)
  /-- SSHR (R164). Scalar logical shift right, b from SB. -/
  | sshr (sd : Nat) (sa : Nat) (sb : Nat) (h : Option Nat)
  /-- SSRA (R164). Scalar arithmetic shift right, b from SB. -/
  | ssra (sd : Nat) (sa : Nat) (sb : Nat) (h : Option Nat)
  /-- SROT (R164). Scalar rotate left, b from SB. -/
  | srot (sd : Nat) (sa : Nat) (sb : Nat) (h : Option Nat)
  /-- SMIN (R164). Signed scalar minimum, b from SB. -/
  | smin (sd : Nat) (sa : Nat) (sb : Nat) (h : Option Nat)
  /-- SMAX (R164). Signed scalar maximum, b from SB. -/
  | smax (sd : Nat) (sa : Nat) (sb : Nat) (h : Option Nat)
  /-- SMINU (R164). Unsigned scalar minimum, b from SB. -/
  | sminu (sd : Nat) (sa : Nat) (sb : Nat) (h : Option Nat)
  /-- SMAXU (R164). Unsigned scalar maximum, b from SB. -/
  | smaxu (sd : Nat) (sa : Nat) (sb : Nat) (h : Option Nat)
  /-- SMOV (R164). Copies the scalar SB into sd. -/
  | smov (sd : Nat) (sb : Nat) (h : Option Nat)
  /-- SSEQ (R164). Writes 1 when the scalars are equal, b from SB. -/
  | sseq (sd : Nat) (sa : Nat) (sb : Nat) (h : Option Nat)
  /-- SSLT (R164). Writes 1 when a is less than b signed, b from SB. -/
  | sslt (sd : Nat) (sa : Nat) (sb : Nat) (h : Option Nat)
  /-- SSLTU (R164). Writes 1 when a is less than b unsigned, b from SB. -/
  | ssltu (sd : Nat) (sa : Nat) (sb : Nat) (h : Option Nat)
  /-- SBFX (R166). Extracts a bit field of a described by b from SB. -/
  | sbfx (sd : Nat) (sa : Nat) (sb : Nat) (h : Option Nat)
  /-- SBFI (R166). Inserts the low bits of a into a field of sd described by b from SB. -/
  | sbfi (sd : Nat) (sa : Nat) (sb : Nat) (h : Option Nat)
  /-- SCLZ (R164). Counts leading zero bits of a scalar. -/
  | sclz (sd : Nat) (sa : Nat) (h : Option Nat)
  /-- SCTZ (R164). Counts trailing zero bits of a scalar. -/
  | sctz (sd : Nat) (sa : Nat) (h : Option Nat)
  /-- SPOP (R164). Counts set bits of a scalar. -/
  | spop (sd : Nat) (sa : Nat) (h : Option Nat)
  /-- SBREV (R164). Reverses the bits of a scalar. -/
  | sbrev (sd : Nat) (sa : Nat) (h : Option Nat)
  /-- SADD_IMM (R164). Scalar add with b from IMM6 or the literal. -/
  | saddImm (sd : Nat) (sa : Nat) (b : Off) (h : Option Nat)
  /-- SSUB_IMM (R164). Scalar subtract with an immediate b. -/
  | ssubImm (sd : Nat) (sa : Nat) (b : Off) (h : Option Nat)
  /-- SMUL_IMM (R164). Low 64 bits of the product with an immediate b. -/
  | smulImm (sd : Nat) (sa : Nat) (b : Off) (h : Option Nat)
  /-- SMULH_IMM (R164). High 64 bits of the signed product with an immediate b. -/
  | smulhImm (sd : Nat) (sa : Nat) (b : Off) (h : Option Nat)
  /-- SDIV_IMM (R165). Signed division by an immediate b. -/
  | sdivImm (sd : Nat) (sa : Nat) (b : Off) (h : Option Nat)
  /-- SDIVU_IMM (R165). Unsigned division by an immediate b. -/
  | sdivuImm (sd : Nat) (sa : Nat) (b : Off) (h : Option Nat)
  /-- SREM_IMM (R165). Signed remainder by an immediate b. -/
  | sremImm (sd : Nat) (sa : Nat) (b : Off) (h : Option Nat)
  /-- SREMU_IMM (R165). Unsigned remainder by an immediate b. -/
  | sremuImm (sd : Nat) (sa : Nat) (b : Off) (h : Option Nat)
  /-- SAND_IMM (R164). Scalar AND with an immediate b. -/
  | sandImm (sd : Nat) (sa : Nat) (b : Off) (h : Option Nat)
  /-- SOR_IMM (R164). Scalar OR with an immediate b. -/
  | sorImm (sd : Nat) (sa : Nat) (b : Off) (h : Option Nat)
  /-- SXOR_IMM (R164). Scalar XOR with an immediate b. -/
  | sxorImm (sd : Nat) (sa : Nat) (b : Off) (h : Option Nat)
  /-- SANDN_IMM (R164). Scalar a AND NOT an immediate b. -/
  | sandnImm (sd : Nat) (sa : Nat) (b : Off) (h : Option Nat)
  /-- SSHL_IMM (R164). Scalar shift left by an immediate. -/
  | sshlImm (sd : Nat) (sa : Nat) (b : Off) (h : Option Nat)
  /-- SSHR_IMM (R164). Scalar logical shift right by an immediate. -/
  | sshrImm (sd : Nat) (sa : Nat) (b : Off) (h : Option Nat)
  /-- SSRA_IMM (R164). Scalar arithmetic shift right by an immediate. -/
  | ssraImm (sd : Nat) (sa : Nat) (b : Off) (h : Option Nat)
  /-- SROT_IMM (R164). Scalar rotate left by an immediate. -/
  | srotImm (sd : Nat) (sa : Nat) (b : Off) (h : Option Nat)
  /-- SMIN_IMM (R164). Signed minimum with an immediate b. -/
  | sminImm (sd : Nat) (sa : Nat) (b : Off) (h : Option Nat)
  /-- SMAX_IMM (R164). Signed maximum with an immediate b. -/
  | smaxImm (sd : Nat) (sa : Nat) (b : Off) (h : Option Nat)
  /-- SMINU_IMM (R164). Unsigned minimum with an immediate b. -/
  | sminuImm (sd : Nat) (sa : Nat) (b : Off) (h : Option Nat)
  /-- SMAXU_IMM (R164). Unsigned maximum with an immediate b. -/
  | smaxuImm (sd : Nat) (sa : Nat) (b : Off) (h : Option Nat)
  /-- SMOV_IMM (R164). Writes an immediate into a scalar. -/
  | smovImm (sd : Nat) (b : Off) (h : Option Nat)
  /-- SSEQ_IMM (R164). Writes 1 when a equals an immediate b. -/
  | sseqImm (sd : Nat) (sa : Nat) (b : Off) (h : Option Nat)
  /-- SSLT_IMM (R164). Writes 1 when a is signed-less than an immediate b. -/
  | ssltImm (sd : Nat) (sa : Nat) (b : Off) (h : Option Nat)
  /-- SSLTU_IMM (R164). Writes 1 when a is unsigned-less than an immediate b. -/
  | ssltuImm (sd : Nat) (sa : Nat) (b : Off) (h : Option Nat)
  /-- SBFX_IMM (R166). Extracts a bit field described by an immediate b. -/
  | sbfxImm (sd : Nat) (sa : Nat) (b : Off) (h : Option Nat)
  /-- SBFI_IMM (R166). Inserts a bit field described by an immediate b. -/
  | sbfiImm (sd : Nat) (sa : Nat) (b : Off) (h : Option Nat)
  /-- VCMP (R176). Compares per lane under the condition in MIN and writes the lane's bit of the destination mask, setting EDGE on floating types. -/
  | vcmp (cond : Cond) (md : Nat) (va : Nat) (b : VOp) (ty : Ty) (h : Nat)
  /-- VSHFL (R184). Delivers to each lane the element and tangents of a source lane named by its own b. -/
  | vshfl (vd : Nat) (va : Nat) (b : VOp) (ty : Ty) (h : Nat)
  /-- VSHUP (R184). Delivers to each lane the element of lane l minus b. -/
  | vshup (vd : Nat) (va : Nat) (b : VOp) (ty : Ty) (h : Nat)
  /-- VSHDN (R184). Delivers to each lane the element of lane l plus b. -/
  | vshdn (vd : Nat) (va : Nat) (b : VOp) (ty : Ty) (h : Nat)
  /-- VSHXOR (R184). Delivers to each lane the element of lane l XOR b. -/
  | vshxor (vd : Nat) (va : Nat) (b : VOp) (ty : Ty) (h : Nat)
  /-- VBCAST (R184). Delivers the element of lane b to every lane of em. -/
  | vbcast (vd : Nat) (va : Nat) (b : VOp) (ty : Ty) (h : Nat)
  /-- VGRED (R185). Combines the elements of em in a fixed binary tree and writes the result into every lane of em. -/
  | vgred (vd : Nat) (va : Nat) (op : Comb) (ty : Ty) (h : Nat)
  /-- VSCAN (R185). Writes into each lane the left-to-right combination of the lanes of em up to it. -/
  | vscan (vd : Nat) (va : Nat) (op : Comb) (ty : Ty) (h : Nat)
  /-- VADD_INT (R167). Vector integer add modulo the type width. -/
  | vaddInt (vd : Nat) (va : Nat) (b : VOp) (ty : Ty) (h : Nat)
  /-- VSUB_INT (R167). Vector integer subtract modulo the type width. -/
  | vsubInt (vd : Nat) (va : Nat) (b : VOp) (ty : Ty) (h : Nat)
  /-- VMUL_INT (R167). Low bits of the vector integer product. -/
  | vmulInt (vd : Nat) (va : Nat) (b : VOp) (ty : Ty) (h : Nat)
  /-- VMULH (R167). High bits of the vector integer product. -/
  | vmulh (vd : Nat) (va : Nat) (b : VOp) (ty : Ty) (h : Nat)
  /-- VMAD (R167). Vector integer multiply-add modulo the type width. -/
  | vmad (vd : Nat) (va : Nat) (b : VOp) (vc : Nat) (ty : Ty) (h : Nat)
  /-- VABSD (R167). Saturated absolute difference. -/
  | vabsd (vd : Nat) (va : Nat) (b : VOp) (ty : Ty) (h : Nat)
  /-- VADDS (R167). Saturating vector integer add. -/
  | vadds (vd : Nat) (va : Nat) (b : VOp) (ty : Ty) (h : Nat)
  /-- VSUBS (R167). Saturating vector integer subtract. -/
  | vsubs (vd : Nat) (va : Nat) (b : VOp) (ty : Ty) (h : Nat)
  /-- VMIN_INT (R167). Vector integer minimum. -/
  | vminInt (vd : Nat) (va : Nat) (b : VOp) (ty : Ty) (h : Nat)
  /-- VMAX_INT (R167). Vector integer maximum. -/
  | vmaxInt (vd : Nat) (va : Nat) (b : VOp) (ty : Ty) (h : Nat)
  /-- VAND (R167). Vector bitwise AND. -/
  | vand (vd : Nat) (va : Nat) (b : VOp) (ty : Ty) (h : Nat)
  /-- VOR (R167). Vector bitwise OR. -/
  | vor (vd : Nat) (va : Nat) (b : VOp) (ty : Ty) (h : Nat)
  /-- VXOR (R167). Vector bitwise XOR. -/
  | vxor (vd : Nat) (va : Nat) (b : VOp) (ty : Ty) (h : Nat)
  /-- VANDN (R167). Vector a AND NOT b. -/
  | vandn (vd : Nat) (va : Nat) (b : VOp) (ty : Ty) (h : Nat)
  /-- VNOT (R167). Vector bitwise complement. -/
  | vnot (vd : Nat) (va : Nat) (ty : Ty) (h : Nat)
  /-- VSHL (R167). Vector shift left by b mod width. -/
  | vshl (vd : Nat) (va : Nat) (b : VOp) (ty : Ty) (h : Nat)
  /-- VSHR (R167). Vector logical shift right. -/
  | vshr (vd : Nat) (va : Nat) (b : VOp) (ty : Ty) (h : Nat)
  /-- VSRA (R167). Vector arithmetic shift right. -/
  | vsra (vd : Nat) (va : Nat) (b : VOp) (ty : Ty) (h : Nat)
  /-- VROT (R167). Vector rotate left. -/
  | vrot (vd : Nat) (va : Nat) (b : VOp) (ty : Ty) (h : Nat)
  /-- VBFX (R168). Vector bit-field extract. -/
  | vbfx (vd : Nat) (va : Nat) (b : VOp) (ty : Ty) (h : Nat)
  /-- VBFI (R168). Vector bit-field insert into c. -/
  | vbfi (vd : Nat) (va : Nat) (b : VOp) (vc : Nat) (h : Nat)
  /-- VCLZ (R167). Counts leading zeros per lane. -/
  | vclz (vd : Nat) (va : Nat) (h : Nat)
  /-- VPOP (R167). Counts set bits per lane. -/
  | vpop (vd : Nat) (va : Nat) (h : Nat)
  /-- VBREV (R167). Reverses the bits of each element. -/
  | vbrev (vd : Nat) (va : Nat) (h : Nat)
  /-- VSEL (R169). Selects a or b per lane by a mask, carrying the delivered element's tangents. -/
  | vsel (vd : Nat) (va : Nat) (b : VOp) (mc : Nat) (ty : Ty) (h : Nat)
  /-- VMOV (R170). Copies b into vd with its tangents. -/
  | vmov (vd : Nat) (b : VOp) (ty : Ty) (h : Nat)
  /-- VPRMT (R169). Byte permute of a and b under c. -/
  | vprmt (vd : Nat) (va : Nat) (b : VOp) (vc : Nat) (h : Nat)
  /-- VADD_FP (R171). Floating add, rounded once in mode M3, with tangents. -/
  | vaddFp (vd : Nat) (va : Nat) (b : VOp) (ty : Ty) (rm : Rm) (h : Nat)
  /-- VSUB_FP (R171). Floating subtract. -/
  | vsubFp (vd : Nat) (va : Nat) (b : VOp) (ty : Ty) (rm : Rm) (h : Nat)
  /-- VMUL_FP (R171). Floating multiply. -/
  | vmulFp (vd : Nat) (va : Nat) (b : VOp) (ty : Ty) (rm : Rm) (h : Nat)
  /-- VFMA (R171). Fused multiply-add a times b plus c, one rounding. -/
  | vfma (vd : Nat) (va : Nat) (b : VOp) (vc : Nat) (ty : Ty) (rm : Rm) (h : Nat)
  /-- VFMS (R171). Fused a times b minus c. -/
  | vfms (vd : Nat) (va : Nat) (b : VOp) (vc : Nat) (ty : Ty) (rm : Rm) (h : Nat)
  /-- VFNMA (R171). Fused c minus a times b. -/
  | vfnma (vd : Nat) (va : Nat) (b : VOp) (vc : Nat) (ty : Ty) (rm : Rm) (h : Nat)
  /-- VMIN_FP (R173). Floating minimum with NaN and tie rules. -/
  | vminFp (vd : Nat) (va : Nat) (b : VOp) (ty : Ty) (h : Nat)
  /-- VMAX_FP (R173). Floating maximum with NaN and tie rules. -/
  | vmaxFp (vd : Nat) (va : Nat) (b : VOp) (ty : Ty) (h : Nat)
  /-- VABS (R171). Clears the sign bit. -/
  | vabs (vd : Nat) (va : Nat) (ty : Ty) (h : Nat)
  /-- VNEG (R171). Inverts the sign bit. -/
  | vneg (vd : Nat) (va : Nat) (ty : Ty) (h : Nat)
  /-- VCPYSGN (R171). Magnitude of a with the sign bit of b. -/
  | vcpysgn (vd : Nat) (va : Nat) (b : VOp) (ty : Ty) (h : Nat)
  /-- VRCP (R171). Correctly rounded reciprocal. -/
  | vrcp (vd : Nat) (va : Nat) (ty : Ty) (rm : Rm) (h : Nat)
  /-- VRSQ (R171). Correctly rounded reciprocal square root. -/
  | vrsq (vd : Nat) (va : Nat) (ty : Ty) (rm : Rm) (h : Nat)
  /-- VSQRT (R171). Correctly rounded square root. -/
  | vsqrt (vd : Nat) (va : Nat) (ty : Ty) (rm : Rm) (h : Nat)
  /-- VEXP2 (R171). Correctly rounded 2 to the power a. -/
  | vexp2 (vd : Nat) (va : Nat) (ty : Ty) (h : Nat)
  /-- VLOG2 (R171). Correctly rounded base-2 logarithm. -/
  | vlog2 (vd : Nat) (va : Nat) (ty : Ty) (h : Nat)
  /-- VSIN (R171). Correctly rounded sine in radians. -/
  | vsin (vd : Nat) (va : Nat) (ty : Ty) (h : Nat)
  /-- VCOS (R171). Correctly rounded cosine in radians. -/
  | vcos (vd : Nat) (va : Nat) (ty : Ty) (h : Nat)
  /-- VFLOOR (R171). Largest integer not above a, setting EDGE. -/
  | vfloor (vd : Nat) (va : Nat) (ty : Ty) (h : Nat)
  /-- VCEIL (R171). Smallest integer not below a. -/
  | vceil (vd : Nat) (va : Nat) (ty : Ty) (h : Nat)
  /-- VTRUNC (R171). Rounds toward zero to an integer. -/
  | vtrunc (vd : Nat) (va : Nat) (ty : Ty) (h : Nat)
  /-- VROUND (R171). Rounds to an integer in mode M3. -/
  | vround (vd : Nat) (va : Nat) (ty : Ty) (rm : Rm) (h : Nat)
  /-- VFRACT (R171). a minus floor(a), rounded down. -/
  | vfract (vd : Nat) (va : Nat) (ty : Ty) (h : Nat)
  /-- VCLASS (R174). Writes a one-hot class word of the operand. -/
  | vclass (vd : Nat) (va : Nat) (ty : Ty) (h : Nat)
  /-- TSEED (R177). Sets one tangent slot and clears the others. -/
  | tseed (vd : Nat) (k : Nat) (b : VOp) (h : Nat)
  /-- TZERO (R177). Clears one or all tangent slots. -/
  | tzero (vd : Nat) (slot : Option Nat) (h : Nat)
  /-- TGET (R177). Copies a tangent slot into a value element. -/
  | tget (vd : Nat) (va : Nat) (k : Nat) (h : Nat)
  /-- TSET (R177). Sets one tangent slot, leaving the others. -/
  | tset (vd : Nat) (k : Nat) (b : VOp) (h : Nat)
  /-- TMOV (R177). Copies one tangent slot to another bit for bit. -/
  | tmov (vd : Nat) (j : Nat) (va : Nat) (k : Nat) (h : Nat)
  /-- VCVT (R179). Converts each element from TS to TY in mode M3. -/
  | vcvt (vd : Nat) (va : Nat) (ty : Ty) (ts : Ty) (rm : Rm) (h : Nat)
  /-- VCVTSR (R180). Converts F32 elements with stochastic rounding using n random bits of b. -/
  | vcvtsr (vd : Nat) (va : Nat) (b : VOp) (n : Nat) (ty : Ty) (h : Nat)
  /-- VRAND (R181). Draws 32 bits from each lane's generator state and steps the state. -/
  | vrand (vd : Nat) (va : Nat) (h : Nat)
  /-- VRSEED (R181). Seeds each lane's generator state. -/
  | vrseed (vd : Nat) (va : Nat) (h : Nat)
  /-- VPACK (R182). Converts a and b and packs them into vd. -/
  | vpack (vd : Nat) (va : Nat) (b : VOp) (ty : Ty) (ts : Ty) (hi : Bool) (rm : Rm) (h : Nat)
  /-- VUNPK (R183). Extracts and widens one packed element. -/
  | vunpk (vd : Nat) (va : Nat) (k : Nat) (ty : Ty) (ts : Ty) (h : Nat)
  /-- LD (R195). Loads one element per lane from scratchpad. -/
  | ld (vd : Nat) (a : Addr) (ty : Ty) (du : Bool) (o : Sync) (h : Nat)
  /-- ST (R195). Stores one element per lane to scratchpad. -/
  | st (vd : Nat) (a : Addr) (ty : Ty) (du : Bool) (o : Sync) (h : Nat)
  /-- LDT (R196). Loads a 32-row array transposed into n registers. -/
  | ldt (vd : Nat) (a : Addr) (ty : Ty) (du : Bool) (n : Nat) (h : Nat)
  /-- STT (R196). Stores n registers as a 32-row array. -/
  | stt (vd : Nat) (a : Addr) (ty : Ty) (du : Bool) (n : Nat) (h : Nat)
  /-- LDW (R200). Loads one element per lane from the weight store. -/
  | ldw (vd : Nat) (a : Addr) (ty : Ty) (h : Nat)
  /-- SLD (R197). Loads one scratchpad element into a scalar. -/
  | sld (sd : Nat) (a : Addr) (ty : Ty) (o : Sync) (h : Nat)
  /-- SST (R197). Stores a scalar element to scratchpad. -/
  | sst (sd : Nat) (a : Addr) (ty : Ty) (o : Sync) (h : Nat)
  /-- ATOM (R198). Per-lane scratchpad read-modify-write in ascending lane order, returning the old value. -/
  | atom (vd : Nat) (a : Addr) (vc : Nat) (op : Comb) (ty : Ty) (o : Sync) (h : Nat)
  /-- ACAS (R198). Per-lane scratchpad compare-and-swap on bit patterns. -/
  | acas (vd : Nat) (a : Addr) (vc : Nat) (ty : Ty) (o : Sync) (h : Nat)
  /-- CPY (R207). Reads a 256-byte descriptor, translates its sides and starts a tensor copy on the cp counter. -/
  | cpy (sa : Nat) (bk : BarOp) (h : Nat)
  /-- GATH (R210). Starts a per-lane gather through a window. -/
  | gath (vd : Nat) (va : Nat) (w : Nat) (off : Int) (ty : Ty) (h : Nat)
  /-- SCAT (R210). Starts a per-lane scatter through a window. -/
  | scat (vd : Nat) (va : Nat) (w : Nat) (off : Int) (ty : Ty) (h : Nat)
  /-- PLD (R210). Starts a per-lane load from private memory. -/
  | pld (vd : Nat) (va : Nat) (w : Nat) (off : Int) (ty : Ty) (h : Nat)
  /-- PST (R210). Starts a per-lane store to private memory. -/
  | pst (vd : Nat) (va : Nat) (w : Nat) (off : Int) (ty : Ty) (h : Nat)
  /-- RED (R211). Starts a reduction at memory, combining lanes that share an address. -/
  | red (vd : Nat) (va : Nat) (w : Nat) (off : Int) (op : Comb) (ty : Ty) (ord : MemOrd) (crit : Bool) (h : Nat)
  /-- AMG (R211). Starts a per-lane atomic at memory that returns the old value. -/
  | amg (vd : Nat) (va : Nat) (w : Nat) (off : Int) (op : Comb) (ty : Ty) (ord : MemOrd) (crit : Bool) (h : Nat)
  /-- TEX (R212). Starts a filtered texture sample whose footprint comes from tangents. -/
  | tex (vd : Nat) (va : Nat) (sa : Nat) (l0 : Bool) (h : Nat)
  /-- TEXG (R212). Starts a four-texel gather of channel 0. -/
  | texg (vd : Nat) (va : Nat) (sa : Nat) (l0 : Bool) (h : Nat)
  /-- ISECT (R212). Starts per-lane ray traversal of a bounding-volume hierarchy. -/
  | isect (vd : Nat) (va : Nat) (sa : Nat) (bk : BarOp) (h : Nat)
  /-- VISQ (R212). Starts per-lane visibility queries in a tile hierarchy. -/
  | visq (vd : Nat) (va : Nat) (sa : Nat) (bk : BarOp) (h : Nat)
  /-- COLL (R213). Starts a collective across ranks of a collective group, releasing at system scope at issue. -/
  | coll (kind : CollKind) (op : CollOp) (ty : Ty) (sa : Nat) (bar : Nat) (group : Nat) (h : Nat)
  /-- WBIND (R202). Binds a window to a translated base with a limit and permission. -/
  | wbind (w : Nat) (perm : Perm) (sa : Nat) (lim : RegLit) (h : Option Nat)
  /-- WINV (R202). Invalidates a window. -/
  | winv (w : Nat) (h : Option Nat)
  /-- WAITC (R214). Waits until a counter class reads at most n; a flashback point. -/
  | waitc (cls : Cls) (n : Nat) (h : Option Nat)
  /-- BINIT (R215). Re-arms a barrier's expected arrivals and clears its counts and status. -/
  | binit (bar : Nat) (n : RegLit) (h : Option Nat)
  /-- EXPECT (R215). Adds expected bytes to the barrier phase and runs Check. -/
  | expect (bar : Nat) (n : RegLit) (h : Option Nat)
  /-- ARRIVE (R215). Returns the generation, counts one arrival and runs Check. -/
  | arrive (sd : Nat) (bar : Nat) (rel : Bool) (crit : Bool) (h : Option Nat)
  /-- WAITB (R216). Waits for the barrier generation to change from the input, then writes the status. -/
  | waitb (sd : Nat) (bar : Nat) (acq : Bool) (crit : Bool) (h : Option Nat)
  /-- TESTB (R215). Returns the barrier status and generation. -/
  | testb (sd : Nat) (bar : Nat) (h : Option Nat)
  /-- FENCE (R219). Orders the group's older and younger accesses at a scope. -/
  | fence (sc : Scope) (ord : MemOrd) (h : Option Nat)
  /-- MSTAT (R230). Checks and sends a stationary-operand load to the sequencer. -/
  | mstat (ws : Bool) (src : StatSrc) (sc : Nat) (bk : BarOp) (ty : Ty) (off : Int) (h : Nat)
  /-- MLOOP (R237). Checks and sends a multi-step stream into tiles to the sequencer after a power grant. -/
  | mloop (t : Nat) (back : Bool) (sa : Nat) (sb : Nat) (sc : Nat) (bk : BarOp) (ty : Ty) (h : Nat)
  /-- MZERO (R245). Binds a handle to a run, makes it live and clears it. -/
  | mzero (t : Nat) (first : Nat) (count : Nat) (bk : BarOp) (h : Nat)
  /-- MDRAIN (R243). Writes a handle's tiles, scaled and converted, to scratchpad or a window. -/
  | mdrain (t : Nat) (win : Option Nat) (sa : Nat) (sb : Nat) (add : Bool) (bk : BarOp) (ty : Ty) (off : Int) (h : Nat)
  /-- MBIND (R245). Binds a handle to a run and makes it live without writing. -/
  | mbind (t : Nat) (first : Nat) (count : Nat) (h : Nat)
  /-- MFREE (R245). Frees a handle's run and unbinds it. -/
  | mfree (t : Nat) (h : Nat)
  /-- MRINIT (R242). Initialises a weight version ring with K versions. -/
  | mrinit (ring : Nat) (k : Nat) (h : Nat)
  /-- MRPUSH (R242). Writes a tagged base into a ring slot. -/
  | mrpush (ring : Nat) (sa : Nat) (sb : Nat) (h : Nat)
  /-- MRREL (R242). Invalidates a ring slot holding the tag. -/
  | mrrel (ring : Nat) (sb : Nat) (h : Nat)
  /-- MQSR (R246). Returns MXSTAT, optionally clearing it, or the bank or plane word. -/
  | mqsr (sd : Nat) (sel : Nat) (h : Nat)
  /-- FINIT (R263). Binds a factor handle and makes the slot live at dimension n with G = 0. -/
  | finit (f : Nat) (slot : Nat) (n : Nat) (h : Nat)
  /-- FUPD (R264). Absorbs a vector into the factor tile by plane rotations. -/
  | fupd (f : Nat) (va : Nat) (h : Nat)
  /-- FDOWN (R265). Removes a vector by hyperbolic rotations under the margin test. -/
  | fdown (f : Nat) (va : Nat) (h : Nat)
  /-- FSOLVE (R267). Solves U x = b or U-transpose x = b in place. -/
  | fsolve (f : Nat) (va : Nat) (tr : Bool) (h : Nat)
  /-- FLOGDET (R268). Writes the log-determinant of G into a scalar. -/
  | flogdet (f : Nat) (sd : Nat) (h : Nat)
  /-- FDRAIN (R269). Writes the packed factor image to scratchpad. -/
  | fdrain (f : Nat) (sa : Nat) (off : Int) (h : Nat)
  /-- FLOAD (R269). Replaces the tile from a packed image transactionally. -/
  | fload (f : Nat) (sa : Nat) (off : Int) (h : Nat)
  /-- FFREE (R270). Unbinds the handle and frees its slot. -/
  | ffree (f : Nat) (h : Nat)
  /-- NOP (R159). Does nothing for one issue cycle. -/
  | nop (h : Option Nat)
  /-- HINT (R159). Carries a hint byte and changes no state. -/
  | hint (h : Option Nat)
  /-- PREF (R159). Asks fetch to bring in code ahead without faulting. -/
  | pref (h : Option Nat)
  /-- ILLEGAL_INSTRUCTION_WORD (R51). A split reaches a word sequence that is no instruction of R47 and takes the illegal-instruction trap at decode with a detail code. -/
  | illegalInstructionWord (detail : Nat)
  /-- ACCOWN_SWITCH (R249). SWR to ACCOWN that, after the previous owner's arrived matrix operations complete, spills and refills tiles and changes the bank's owner. -/
  | accownSwitch (gid : Nat) (e : Nat)
  /-- SPLIT_PROMOTION (R129). A ready split whose AGE reaches 256 is promoted ahead of unpromoted splits. -/
  | splitPromotion (gid : Nat) (e : Nat)
  /-- CRITICAL_LIMIT_EXPIRY (R130). A group critical for the context's critical limit stops being critical. -/
  | criticalLimitExpiry (gid : Nat)
  /-- SLEEP_EXPIRY (R152). A sleeping split becomes runnable when CLOCK reaches its wake time. -/
  | sleepExpiry (gid : Nat) (e : Nat)
  /-- REFRESH_WINDOW (R200). Every 2,200 cycles a weight-store bank enters refresh. -/
  | refreshWindow (die : Nat)
  /-- REFRESH_WINDOW_END (R200). A refresh window ends after 220 cycles. -/
  | refreshWindowEnd (die : Nat)
  /-- SCRATCHPAD_LOAD_DELIVERY (R199). A scratchpad or weight-store load delivers its data after its latency. -/
  | scratchpadLoadDelivery (gid : Nat) (k : Nat)
  /-- ENGINE_OPERATION_COMPLETE (R203). An engine operation completes, lands its register results and retires from its counter in issue order. -/
  | engineOperationComplete (gid : Nat) (id : Nat)
  /-- BARRIER_LANDING (R204). An engine adds landed bytes to a barrier after they are visible, and Check runs. -/
  | barrierLanding (gid : Nat) (id : Nat) (n : Nat)
  /-- WRITE_APPLY (R281). A die applies a held HBM write once its vector clock satisfies the write's stamp. -/
  | writeApply (die : Nat) (k : Nat)
  /-- MATRIX_OPERATION_EXECUTE (R224). The sequencer carries out the next arrived matrix operation on tiles and planes. -/
  | matrixOperationExecute (q : Nat)
  /-- FACTOR_OPERATION_EXECUTE (R258). The sweeper carries out the next arrived factor operation as one step. -/
  | factorOperationExecute (q : Nat)
  /-- POWER_GRANT (R397). The die governor grants units to a waiting request, releasing its hold. -/
  | powerGrant (die : Nat)
  /-- GRANT_EXPIRY (R397). A grant ends after 2,200 cycles and continuing work requests again. -/
  | grantExpiry (die : Nat) (k : Nat)
  /-- RAY_ADMIT (R387). A queued ray takes a free stack within its context's quota. -/
  | rayAdmit (gid : Nat) (id : Nat) (lane : Nat)
  /-- RAY_COMPLETE (R387). A ray's traversal ends, its results land and its stack frees. -/
  | rayComplete (gid : Nat) (id : Nat) (lane : Nat)
  /-- GROUP_RETIRE (R133). A group with no lanes whose counters read zero releases its resources; the last group frees the gang and counts its event. -/
  | groupRetire (gid : Nat)
  /-- LAUNCH (R318). Queue command that loads the image, checks the descriptor and admits the grid. -/
  | launch (ctx : Nat) (qu : Nat)
  /-- WSLOAD (R310). Queue command that copies into the weight store once no grid is resident on its dies. -/
  | wsload (ctx : Nat) (qu : Nat)
  /-- WSLOAD_COMPLETE (R308). A WSLOAD completes when its last byte is written. -/
  | wsloadComplete (ctx : Nat) (qu : Nat)
  /-- WAITEV (R309). Queue command that starts once an event has counted k retired gangs. -/
  | waitev (ctx : Nat) (qu : Nat)
  /-- SIGNAL (R308). Queue command that writes a value at system scope once earlier commands have completed. -/
  | signal (ctx : Nat) (qu : Nat)
  /-- SIGNAL_COMPLETE (R308). A SIGNAL completes when its write is performed at system scope. -/
  | signalComplete (ctx : Nat) (qu : Nat)
  /-- QUEUE_NOP (R308). Queue command that does nothing. -/
  | queueNop (ctx : Nat) (qu : Nat)
  /-- WPTR_WRITE (R307). The host driver advances a queue's write pointer, making the queue examine its head command. -/
  | wptrWrite (ctx : Nat) (qu : Nat) (val : Nat)
  /-- RPTR_REWRITE (R312). The host driver rewrites RPTR and clears ERR, returning a stopped queue to idle. -/
  | rptrRewrite (ctx : Nat) (qu : Nat) (val : Nat)
  /-- GANG_DISPATCH (R320). A gang is dispatched whole onto a core of its band's quarter when resources free. -/
  | gangDispatch (grid : Nat) (core : Nat) (places : List Nat)
  /-- STALL_WINDOW (R323). At the end of each 65,536-cycle window the dispatcher judges grid stalls. -/
  | stallWindow
  /-- STALL_GANG_SAVE (R324). After its operations complete, a chosen gang is rewound to its waits, saved and its core freed. -/
  | stallGangSave (gang : Nat)
  /-- GANG_RESTORE (R324). A saved gang is redispatched on its band's quarter and resumes at its waits. -/
  | gangRestore (gang : Nat) (core : Nat) (places : List Nat)
  /-- PREEMPTION_REQUEST (R335). A pre-emption request defers critical groups, rewinds groups at points and puts others in drain mode. -/
  | preemptionRequest (ctx : Nat)
  /-- DRAIN_TIMER_EXPIRY (R335). A drain timer runs out before a point issues, forcing a reset of the context. -/
  | drainTimerExpiry (gid : Nat)
  /-- QUANTUM_EXPIRY (R333). The resident context's time slice ends while another waits, starting switch-out. -/
  | quantumExpiry (part : Nat)
  /-- CONTEXT_SAVE (R336). Once every group is at a point and every operation complete, the context's state is written to its save area. -/
  | contextSave (ctx : Nat)
  /-- CONTEXT_RESTORE (R337). The slice scheduler picks a context and its groups, gangs, barriers and slots are restored and recipes run. -/
  | contextRestore (part : Nat) (places : List Placement)
  /-- FORCED_RESET (R338). Retires a context's work, aborts its operations and resets its queues, touching no other context. -/
  | forcedReset (ctx : Nat)
  /-- CONTEXT_CREATE (R330). Indigo creates a context with PART and CTX at the host driver's request. -/
  | contextCreate (vf : Nat) (ctx : Nat)
  /-- CONTEXT_DESTROY (R333). The host driver destroys an idle context, freeing its save area, code heap and rings. -/
  | contextDestroy (ctx : Nat)
  /-- CONTEXT_DESCRIPTOR_WRITE (R330). The host driver writes a context descriptor through Umber while no group is resident. -/
  | contextDescriptorWrite (ctx : Nat) (raw : Nat)
  /-- PARTITION_ADD (R342). Indigo clears a quarter and adds it to a partition. -/
  | partitionAdd (part : Nat) (q : Nat)
  /-- PARTITION_WITHDRAW (R342). Bands on a quarter are pre-empted and saved and an owned bank spilled before it leaves. -/
  | partitionWithdraw (part : Nat) (q : Nat)
  /-- QUARTER_RELEASE (R342). Once every band is saved and no fused grid runs, the quarter is cleared and dropped from QMASK. -/
  | quarterRelease (q : Nat)
  /-- BAND_RESUME (R342). A saved band resumes on a free quarter of the same die in the partition. -/
  | bandResume (grid : Nat) (span : Nat) (band : Nat) (q : Nat) (places : List Placement)
  /-- VF_BIND (R341). The hypervisor binds a virtual function to a partition. -/
  | vfBind (vf : Nat) (part : Nat)
  /-- VF_SUSPEND (R344). The hypervisor suspends a virtual function between guest-journal steps. -/
  | vfSuspend (vf : Nat)
  /-- VF_RESUME (R340). The hypervisor resumes a virtual function, rewriting VTOFF and continuing the journal. -/
  | vfResume (vf : Nat)
  /-- GUEST_SWITCH_STEP (R343). Umber carries out one idempotent journaled step of a guest context switch and advances STEP. -/
  | guestSwitchStep (vf : Nat) (places : List Placement)
  /-- TRANSLATION_UPDATE (R346). Indigo changes a context's translation descriptor at the host driver's request. -/
  | translationUpdate (ctx : Nat) (raw : Nat)
  /-- WSMAP_UPDATE (R349). Indigo accepts or refuses a change to a weight-store map. -/
  | wsmapUpdate (ctx : Nat) (raw : List Nat)
  /-- SHOOT_DOWN (R355). Indigo multicasts a shoot-down of a range to every die and named chip. -/
  | shootDown (ctx : Nat) (va : Nat) (len : Nat) (chips : List Nat)
  /-- SHOOT_DOWN_ACK (R355). A core drops TLB entries and window frames and acknowledges once its operations in the range complete. -/
  | shootDownAck (id : Nat) (node : AckNode)
  /-- SHOOT_DOWN_TIMEOUT (R356). A chip silent for 1,048,576 cycles is fenced and the shoot-down completes. -/
  | shootDownTimeout (id : Nat) (chip : Nat)
  /-- ESCALATION_RESUME (R352). The host driver's resume request removes an escalation record and the split continues. -/
  | escalationResume (gid : Nat)
  /-- TRANSLATION_PUBLISH (R327). Umber commits a translated function, writes its stub word and releases waiting requests. -/
  | translationPublish (ctx : Nat) (stub : Nat) (work : Option Translation)
  /-- HEAP_RESUME (R328). The host driver grows the code heap and resumes the lanes, restarting translation. -/
  | heapResume (ctx : Nat)
  /-- COLLECTIVE_GROUP_WRITE (R364). The host driver writes a collective group table entry through Umber. -/
  | collectiveGroupWrite (ctx : Nat) (g : Nat) (ranks : List (Nat × Nat)) (rank : Nat)
  /-- HOST_WRITE (R288). A host write into device memory through the uncached mapping is stamped by die 0. -/
  | hostWrite (pa : Nat) (bytes : List Byte)
  /-- READ_REQUEST (R359). A received read-request flit is checked and served. -/
  | readRequest (port : Nat) (f : Flit)
  /-- READ_DATA (R359). A received read-data flit delivers data to a waiting operation. -/
  | readData (port : Nat) (f : Flit)
  /-- WRITE (R359). A received write flit is checked and applied at its home. -/
  | write (port : Nat) (f : Flit)
  /-- ACKNOWLEDGEMENT (R359). A received acknowledgement flit completes a peer write. -/
  | acknowledgement (port : Nat) (f : Flit)
  /-- COLLECTIVE (R359). A received collective flit carries a rank's contribution to the fold. -/
  | collective (port : Nat) (f : Flit)
  /-- SHOOT_DOWN_FLIT (R359). A received shoot-down flit fans the request out on this chip. -/
  | shootDownFlit (port : Nat) (f : Flit)
  /-- REPLAY_REQUEST (R359). A received replay request makes the sender resend from the named SEQ. -/
  | replayRequest (port : Nat) (f : Flit)
  /-- IDLE_FLIT (R359). A received idle flit carries nothing. -/
  | idleFlit (port : Nat) (f : Flit)
  /-- LINK_TRAINING (R362). Indigo requests training of a port. -/
  | linkTraining (port : Nat)
  /-- TRAINING_COMPLETE (R362). Training ends with the port up, degraded or down and the route updated. -/
  | trainingComplete (port : Nat) (lanes : Nat) (peer : Nat)
  /-- LINK_TIMEOUT (R362). A request unanswered for 1,048,576 cycles fences the port. -/
  | linkTimeout (port : Nat)
  /-- PORT_RESET (R362). Indigo resets a fenced port to down at the host driver's request. -/
  | portReset (port : Nat)
  /-- HEAD_DESCRIPTOR (R369). Umber checks a head descriptor from the host driver and stages or refuses it. -/
  | headDescriptor (head : Nat) (raw : Nat)
  /-- FRAME_LATCH (R372). At the latch Madder reads the present word, pose and staged descriptor and fixes the frame's kind. -/
  | frameLatch (head : Nat)
  /-- CANDIDATE_COMPLETE (R374). A band's fixed-path or network candidate finishes its work. -/
  | candidateComplete (head : Nat) (band : Nat) (code : Nat)
  /-- BAND_DEADLINE (R374). At a band's deadline it takes the lowest complete candidate and abandons unfinished work. -/
  | bandDeadline (head : Nat) (band : Nat)
  /-- FRAME_END (R375). At the end of the last active line Madder writes the frame's status record. -/
  | frameEnd (head : Nat)
  /-- ENCODER_TILE_ROW (R379). An encoder writes a tile row's bytes to the bitstream ring with a release. -/
  | encoderTileRow (head : Nat) (row : Nat)
  /-- HEAD_REBIND (R380). Indigo binds a head to a partition from the next frame boundary. -/
  | headRebind (head : Nat) (part : Nat)
  /-- PACKAGE_RESET (R399). Reset clears CLOCK, trains Pradan and runs the boot ROM's verification of the firmware image. -/
  | packageReset
  /-- RECOVERY_IMAGE_LOAD (R391). An image reloaded through Pradan is verified, written and the reset repeated. -/
  | recoveryImageLoad (img : FwImage)
  /-- DEVICE_READY (R399). Umber starts, the chip number is set and Kazvel trains, and queues are accepted. -/
  | deviceReady (chip : Nat)
  /-- COMMIT_IMAGE (R392). Indigo blows fuses to raise the rollback floor to the running image's SVN. -/
  | commitImage
  /-- ATTESTATION_REQUEST (R394). Indigo issues a signed attestation report for one partition. -/
  | attestationRequest (part : Nat) (nonce : List Byte)
  /-- VIOLATION (R396). A violation freezes the offending master, fences its port and faults its contexts. -/
  | violation (m : Master)
  /-- MASTER_RELEASE (R396). Indigo resets and releases a frozen master at the host driver's request. -/
  | masterRelease (m : Master)
  /-- THERMAL_THROTTLE (R398). An array sensor passing 95 or 105 degrees cuts the governor's units to 4 or 2. -/
  | thermalThrottle (die : Nat) (temp : Sensors)
  /-- THERMAL_RESTORE (R398). Sensors falling below 90 degrees return the governor to 8 units. -/
  | thermalRestore (die : Nat) (temp : Sensors)
  /-- THERMAL_STOP (R398). At 115 degrees Indigo stops every arithmetic clock, notifies the host and resets all contexts. -/
  | thermalStop (die : Nat) (temp : Sensors)
  /-- BAD_CRC_FLIT (R359). A receiver gets a Kazvel flit with a bad CRC or a reserved KIND, discards it and sends a replay request. -/
  | badCrcFlit (port : Nat) (f : Flit)
  /-- STACK_QUOTA_ASSIGNMENT (R387). Umber assigns a context its quota of traversal stacks on an intersection unit, which governs ray admission. -/
  | stackQuotaAssignment (q : Nat) (ctx : Nat) (quota : Nat)
  /-- ARITHMETIC_CLOCK_RESTART (R398). After a thermal stop, the arithmetic clock of every die restarts once all contexts have been reset. -/
  | arithmeticClockRestart
  deriving DecidableEq, Repr

end Sys2Proof
end

