-- ==== Sys2Proof/Config.lean ====
section
/-!
DEFINITION. What the manual leaves open, as constants with no body: nothing can evaluate them, so a claim holds
whatever they are. n is always the field fresh of the state, which every step advances; the further arguments name the
value among those of one step.
-/

namespace Sys2Proof

/-- A 32-bit value the manual does not give: a register or a tile element after an event that discards it (log 5). -/
opaque Config.freeWord : Nat → Nat → Word32

/-- A 64-bit value the manual does not give (log 5). -/
opaque Config.freeDouble : Nat → Nat → Word64

/-- Is a read of HBM at this physical address served at the home (R282 leaves it to the implementation)? -/
opaque Config.atHome : Nat → Nat → Bool

/-- Does a TLB entry serve the access to this virtual page (R348, R357)? -/
opaque Config.tlbServes : Nat → Nat → Bool

/-- Does the peer read buffer serve a read of this physical address (R287)? -/
opaque Config.bufServes : Nat → Nat → Bool

/-- The Caeruth public key in ROM (R391), whose numbers the manual does not give. -/
opaque Config.caeruthKey : Nat × Nat

/-- The bytes by which the signature of a firmware image takes in its header with the SVN (R391, R392), whose layout the manual does
not give. -/
opaque Config.headerBytes : Nat → List Byte

/-- The nonce of a signature (R394). -/
opaque Config.signNonce : Nat → Nat → Nat

/-- How the numbers that a part of a save-area record holds are laid into its bytes (R337): 0 the header, 1 a split-table entry, 2 the
bindings, 3 the point, 4 a stamp, 5 the head of a factor slot. -/
opaque Config.recordLayout : Nat → List Nat → List Byte

/-- What the layer records of a network leave open (R378): which channel and place of the input element k of a sum is, what stands
outside the picture, where the weight of element k for an output channel stands in its layer, which channel depth-to-space moves
to a place, and which channels of the last layer are the colour. -/
opaque Config.netElement : Nat → Nat → Nat → Nat × Nat × Nat
opaque Config.netEdge : Nat
opaque Config.netWeightPlace : Nat → Nat → Nat → Nat → Nat → Nat
opaque Config.netSpace : Nat → Nat → Nat → Nat → Nat
opaque Config.netColour : Nat → Nat

/-- How the values of a pixel are laid into a channel of a network's input, and what the warp by flow delivers (R377, R378). -/
opaque Config.netInput : Nat → Nat → List Nat → Nat
opaque Config.netWarp : Nat → Nat → Nat

/-- The rate that Umber sets for an encoder (R379). -/
opaque Config.encoderRate : Nat → Nat

/-- The bytes an encoder writes for a tile row, at its rate and from the bands it codes (R379). -/
opaque Config.tileRow : Nat → Nat → List Nat → List Byte

/-- The bytes by which MPART takes in the binding of a head and the CTX of its descriptor (R393), whose layout the manual
does not give. -/
opaque Config.bindingBytes : Nat → Nat → List Byte

end Sys2Proof
end

