-- ==== Sys2Proof/Decode.lean ====
section
/-!
DEFINITION. Decoding (R35 to R54) and encoding of instruction words. decodeWords is total: a word sequence that is no
instruction is rejected with the first failing check of R51, details 1 to 5. The operand limits (detail 6) and the
access check of system registers (detail 7) depend on the group that issues and stand with the meanings.
-/

namespace Sys2Proof

open Machine

/-- Why a word sequence is no instruction: the checks of R51 that need only the words, in their order. -/
inductive Reject where
  | unassignedMajor
  | reservedMinor
  | badLength
  | reservedBit
  | reservedCode
  | truncated
  deriving DecidableEq, Repr

/-- The detail code of R51. -/
def Reject.detail : Reject → Nat
  | .unassignedMajor => 1
  | .reservedMinor => 2
  | .badLength => 3
  | .reservedBit => 4
  | .reservedCode => 5
  | .truncated => 3

/-- What decoding answers. -/
inductive Decoded where
  | instr (i : Instr)
  | reject (r : Reject)
  deriving DecidableEq, Repr

/-! ## Codes of R39 and R50 -/

def Ty.code : Ty → Nat
  | .f32 => 0 | .f16 => 1 | .bf16 => 2 | .e4m3 => 3 | .i8 => 4 | .i16 => 5 | .i32 => 6 | .i64 => 7
  | .n8 => 8 | .n16 => 9 | .n32 => 10 | .n64 => 11

def Ty.ofCode : Nat → Option Ty
  | 0 => some .f32 | 1 => some .f16 | 2 => some .bf16 | 3 => some .e4m3 | 4 => some .i8 | 5 => some .i16
  | 6 => some .i32 | 7 => some .i64 | 8 => some .n8 | 9 => some .n16 | 10 => some .n32 | 11 => some .n64
  | _ => none

/-- Bits of an element of the type (R57, R62). -/
def Ty.width : Ty → Nat
  | .f32 | .i32 | .n32 => 32
  | .f16 | .bf16 | .i16 | .n16 => 16
  | .e4m3 | .i8 | .n8 => 8
  | .i64 | .n64 => 64

/-- Bytes of an element of the type (R63). -/
def Ty.bytes (t : Ty) : Nat := t.width / 8

def Ty.isFloat : Ty → Bool
  | .f32 | .f16 | .bf16 | .e4m3 => true
  | _ => false

def Ty.isSigned : Ty → Bool
  | .i8 | .i16 | .i32 | .i64 => true
  | _ => false

def Ty.isInt (t : Ty) : Bool := !t.isFloat

/-- F32, F16 and BF16: the types of major 0x38 (R171). -/
def Ty.isFp3 : Ty → Bool
  | .f32 | .f16 | .bf16 => true
  | _ => false

/-- The 32-bit integer types. -/
def Ty.isInt32 : Ty → Bool
  | .i32 | .n32 => true
  | _ => false

/-- F32, I32 and N32. -/
def Ty.is32 : Ty → Bool
  | .f32 | .i32 | .n32 => true
  | _ => false

/-- I32, N32, I64 and N64 (R167). -/
def Ty.isWideInt : Ty → Bool
  | .i32 | .n32 | .i64 | .n64 => true
  | _ => false

/-- The types of ATOM, ACAS, RED and AMG (R194, R210). -/
def Ty.isAtomic : Ty → Bool
  | .f32 | .i32 | .n32 | .i64 | .n64 => true
  | _ => false

def Rm.code : Rm → Nat
  | .rne => 0 | .rtz => 1 | .rup => 2 | .rdn => 3

def Rm.ofCode : Nat → Option Rm
  | 0 => some .rne | 1 => some .rtz | 2 => some .rup | 3 => some .rdn | _ => none

def Comb.code : Comb → Nat
  | .add => 0 | .min => 1 | .max => 2 | .and => 3 | .or => 4 | .xor => 5 | .xchg => 6

def Comb.ofCode : Nat → Option Comb
  | 0 => some .add | 1 => some .min | 2 => some .max | 3 => some .and | 4 => some .or | 5 => some .xor
  | 6 => some .xchg | _ => none

def MemOrd.code : MemOrd → Nat
  | .plain => 0 | .acq => 1 | .rel => 2 | .ar => 3

def MemOrd.ofCode : Nat → MemOrd
  | 0 => .plain | 1 => .acq | 2 => .rel | _ => .ar

def Scope.code : Scope → Nat
  | .lane => 0 | .group => 1 | .gang => 2 | .band => 3 | .span => 4 | .device => 5 | .system => 6

def Scope.ofCode : Nat → Option Scope
  | 0 => some .lane | 1 => some .group | 2 => some .gang | 3 => some .band | 4 => some .span | 5 => some .device
  | 6 => some .system | _ => none

def Cls.code : Cls → Nat
  | .cp => 0 | .gs => 1 | .pv => 2 | .rd => 3 | .tx => 4 | .ix => 5 | .mx => 6 | .fx => 7 | .cl => 8

def Cls.ofCode : Nat → Option Cls
  | 0 => some .cp | 1 => some .gs | 2 => some .pv | 3 => some .rd | 4 => some .tx | 5 => some .ix | 6 => some .mx
  | 7 => some .fx | 8 => some .cl | _ => none

def Perm.code : Perm → Nat
  | .r => 1 | .w => 2 | .rw => 3

def Perm.ofCode : Nat → Option Perm
  | 1 => some .r | 2 => some .w | 3 => some .rw | _ => none

def SysReg.code : SysReg → Nat
  | .lane => 0 | .group => 1 | .gang => 2 | .band => 3 | .span => 4 | .grid => 5 | .split => 8 | .ctxid => 9
  | .partid => 0xA | .accown => 0x10 | .wsphase => 0x11 | .clock => 0x18 | .vtime => 0x19 | .fltcause => 0x20
  | .fltaddr => 0x21 | .fltpc => 0x22 | .tlost => 0x28 | .edge => 0x29

def SysReg.ofCode : Nat → Option SysReg
  | 0 => some .lane | 1 => some .group | 2 => some .gang | 3 => some .band | 4 => some .span | 5 => some .grid
  | 8 => some .split | 9 => some .ctxid | 0xA => some .partid | 0x10 => some .accown | 0x11 => some .wsphase
  | 0x18 => some .clock | 0x19 => some .vtime | 0x20 => some .fltcause | 0x21 => some .fltaddr
  | 0x22 => some .fltpc | 0x28 => some .tlost | 0x29 => some .edge | _ => none

def Cond.code : Cond → Nat
  | .eq => 0 | .ne => 1 | .lt => 2 | .le => 3 | .gt => 4 | .ge => 5 | .ord => 6 | .uno => 7

def Cond.ofCode : Nat → Option Cond
  | 0 => some .eq | 1 => some .ne | 2 => some .lt | 3 => some .le | 4 => some .gt | 5 => some .ge | 6 => some .ord
  | 7 => some .uno | _ => none

def CollKind.code : CollKind → Nat
  | .ared => 0 | .rscat => 1 | .agath => 2 | .bcast => 3

def CollKind.ofCode : Nat → CollKind
  | 0 => .ared | 1 => .rscat | 2 => .agath | _ => .bcast

def CollOp.code : CollOp → Nat
  | .sum => 0 | .max => 1 | .min => 2

def CollOp.ofCode : Nat → Option CollOp
  | 0 => some .sum | 1 => some .max | 2 => some .min | _ => none

/-! ## Words -/

/-- The words of an instruction, split as R35 and R37 name them. lit is the 64-bit literal where LEN has one. -/
structure Frame where
  len : Nat
  w0 : Nat
  e1 : Nat
  e2 : Nat
  lit : Option Nat
  deriving DecidableEq, Repr

/-- Number of 32-bit words by LEN (R35). -/
def wordCount (w0 : Nat) : Nat := if w0 % 4 = 0 then 1 else if w0 % 4 = 3 then 5 else 3

/-- Name the words by LEN (R35); none where there are too few. -/
def Frame.ofWords : List Nat → Option Frame
  | [] => none
  | w0 :: ws =>
    if w0 % 4 = 0 then some ⟨0, w0, 0, 0, none⟩
    else if w0 % 4 = 1 then
      match ws with
      | e1 :: e2 :: _ => some ⟨1, w0, e1, e2, none⟩
      | _ => none
    else if w0 % 4 = 2 then
      match ws with
      | lo :: hi :: _ => some ⟨2, w0, 0, 0, some (lo + 4294967296 * hi)⟩
      | _ => none
    else
      match ws with
      | e1 :: e2 :: lo :: hi :: _ => some ⟨3, w0, e1, e2, some (lo + 4294967296 * hi)⟩
      | _ => none

/-- The words of an instruction, by LEN. -/
def Frame.words (f : Frame) : List Nat :=
  match f.len, f.lit with
  | 0, _ => [f.w0]
  | 1, _ => [f.w0, f.e1, f.e2]
  | 2, some x => [f.w0, x % 4294967296, x / 4294967296]
  | _, some x => [f.w0, f.e1, f.e2, x % 4294967296, x / 4294967296]
  | _, none => [f.w0, f.e1, f.e2]

/-- How a one-word form uses the literal (R46). -/
inductive LitUse where
  | never | may | must
  deriving DecidableEq, Repr

/-- Is LEN permitted for a one-word form (R37)? -/
def lenOk1 (u : LitUse) (f : Frame) : Bool :=
  match u with
  | .never => f.lit.isNone
  | .may => true
  | .must => f.lit.isSome

/-- Is LEN permitted for an extended form (R37)? Only major 0x58 takes the literal. -/
def lenOkX (u : LitUse) (f : Frame) : Bool :=
  match u with
  | .never => f.len == 1
  | _ => f.len == 1 || f.len == 3

/-- EXT1 [31:8] and EXT2 of a one-word form are reserved (R37). -/
def extZero (f : Frame) : Bool := f.e1 / 256 == 0 && f.e2 == 0

/-- The hint byte of a one-word form. -/
def hint1 (f : Frame) : Option Nat := if f.len = 1 ∨ f.len = 3 then some (f.e1 % 256) else none

/-- The hint byte of an extended form. -/
def hintX (f : Frame) : Nat := f.e1 % 256

/-- Checks 3, 4 and 5 of R51 for a one-word form: z says that the reserved bits of the form are zero, r is the
instruction when no field code is reserved. -/
def form1 (u : LitUse) (f : Frame) (z : Bool) (r : Option Instr) : Decoded :=
  if !lenOk1 u f then .reject .badLength
  else if !(z && extZero f) then .reject .reservedBit
  else match r with
    | some i => .instr i
    | none => .reject .reservedCode

/-- Checks 3, 4 and 5 of R51 for an extended form. -/
def formX (u : LitUse) (f : Frame) (z : Bool) (r : Option Instr) : Decoded :=
  if !lenOkX u f then .reject .badLength
  else if !z then .reject .reservedBit
  else match r with
    | some i => .instr i
    | none => .reject .reservedCode

/-- The signed field of n bits, or the literal in its place (R44, R46). -/
def offOf (n raw : Nat) (f : Frame) : Off :=
  match f.lit with
  | none => .small (signedOf n raw)
  | some x => .lit x

/-- The register field, or the literal in its place (R46). -/
def regLitOf (raw : Nat) (f : Frame) : RegLit :=
  match f.lit with
  | none => .reg raw
  | some x => .lit x

/-- The field that a literal replaces must then be zero (R44, R46). -/
def litZero (raw : Nat) (f : Frame) : Bool := f.lit.isNone || raw == 0

/-- The literal keeps within n bits. -/
def litFits (n : Nat) (f : Frame) : Bool :=
  match f.lit with
  | none => true
  | some x => x / 2 ^ n == 0

/-- some x when the code is allowed. -/
def allow {α : Type} (b : Bool) (x : α) : Option α := if b then some x else none

/-! ## One-word formats (R41) -/

/-- Major 0x00, format X (R141). -/
def decodeX (f : Frame) : Decoded :=
  let va := field f.w0 19 8
  let sa := field f.w0 13 6
  let tok := field f.w0 9 4
  let h := hint1 f
  match field f.w0 27 5 with
  | 1 => form1 .never f (va == 0 && sa == 0) (some (.join tok h))
  | 2 => form1 .never f (va == 0 && tok == 0) (some (.ret sa h))
  | 3 => form1 .never f (va == 0 && sa == 0 && tok == 0) (some (.exit h))
  | 4 => form1 .never f (va == 0 && sa == 0 && tok == 0) (some (.tret h))
  | 5 => form1 .never f (va == 0 && sa == 0 && tok == 0) (some (.yield h))
  | 6 => form1 .may f (va == 0 && tok == 0 && litZero sa f) (some (.sleep (regLitOf sa f) h))
  | 7 => form1 .never f (va == 0 && tok == 0) (some (.bri sa h))
  | 8 => form1 .never f true (some (.calli sa va tok h))
  | 9 => form1 .never f true (some (.briv sa va tok h))
  | _ => .reject .reservedMinor

/-- Majors 0x01 and 0x02, format J. -/
def decodeJ (call : Bool) (f : Frame) : Decoded :=
  let off := field f.w0 9 23
  let t := offOf 23 off f
  form1 .may f (litZero off f) (some (if call then .call t (hint1 f) else .br t (hint1 f)))

/-- Major 0x03, format BS (R138). -/
def decodeBS (f : Frame) : Decoded :=
  let sa := field f.w0 23 6
  let off := field f.w0 9 14
  let t := offOf 14 off f
  let h := hint1 f
  let z := litZero off f
  match field f.w0 29 3 with
  | 0 => form1 .may f z (some (.bz sa t h))
  | 1 => form1 .may f z (some (.bnz sa t h))
  | 2 => form1 .may f z (some (.bltz sa t h))
  | 3 => form1 .may f z (some (.bgez sa t h))
  | 4 => form1 .may f z (some (.bgtz sa t h))
  | 5 => form1 .may f z (some (.blez sa t h))
  | _ => .reject .reservedMinor

/-- The majors of format BM (R138 to R140). -/
inductive BMajor where
  | brv | brk | ball | bnone
  deriving DecidableEq, Repr

def decodeBM (k : BMajor) (f : Frame) : Decoded :=
  let mk := field f.w0 27 5
  let tok := field f.w0 23 4
  let off := field f.w0 9 14
  let t := offOf 14 off f
  let h := hint1 f
  let z := litZero off f
  match k with
  | .brv => form1 .may f z (allow (decide (mk ≤ 16)) (.brv mk t tok h))
  | .brk => form1 .may f z (allow (decide (mk ≤ 16)) (.brk mk t tok h))
  | .ball => form1 .may f (z && tok == 0) (allow (decide (mk ≤ 16)) (.ball mk t h))
  | .bnone => form1 .may f (z && tok == 0) (allow (decide (mk ≤ 16)) (.bnone mk t h))

/-- Major 0x08, format SR. REG [7:6] of a scalar is a reserved code (R154); so is it for SWR, whose field is the
same (log 20). -/
def decodeSR (f : Frame) : Decoded :=
  let vx := field f.w0 30 1 == 1
  let reg := field f.w0 22 8
  let r := (SysReg.ofCode (field f.w0 12 10)).bind fun y =>
    allow (vx || decide (reg < 64))
      (if field f.w0 31 1 = 1 then .swr vx reg y (hint1 f) else .srd vx reg y (hint1 f))
  form1 .never f (field f.w0 9 3 == 0) r

/-- Major 0x09, format TR (R148). -/
def decodeTR (f : Frame) : Decoded :=
  let code := field f.w0 9 16
  form1 .never f (field f.w0 25 7 == 0) (allow (decide (code < 0x8000)) (.trap code (hint1 f)))

/-- Major 0x0A, format SP (R153). -/
def decodeSP (f : Frame) : Decoded :=
  let x := f.lit.getD 0
  form1 .must f (field f.w0 9 9 == 0 && x % 4 == 0) (some (.spawn (field f.w0 26 6) (field f.w0 18 8) x (hint1 f)))

/-- Is the field a mask code that may be a source (R39, R157)? -/
def srcMask (k : Nat) : Bool := decide (k ≤ 16)

/-- Is the field a mask code that may be a destination (R39, R157)? -/
def dstMask (k : Nat) : Bool := decide (k < 16)

/-- An even mask 0 to 14 (R157, MSAVE and MRESTORE). -/
def evenMask (k : Nat) : Bool := decide (k < 16) && k % 2 == 0

/-- Major 0x10, format M (R157). -/
def decodeM (f : Frame) : Decoded :=
  let d := field f.w0 21 6
  let a := field f.w0 15 6
  let b := field f.w0 9 6
  let h := hint1 f
  match field f.w0 27 5 with
  | 0 => form1 .never f (b == 0) (allow (dstMask d && srcMask a) (.mmov d a h))
  | 1 => form1 .never f true (allow (dstMask d && srcMask a && srcMask b) (.mand d a b h))
  | 2 => form1 .never f true (allow (dstMask d && srcMask a && srcMask b) (.mor d a b h))
  | 3 => form1 .never f true (allow (dstMask d && srcMask a && srcMask b) (.mxor d a b h))
  | 4 => form1 .never f true (allow (dstMask d && srcMask a && srcMask b) (.mandn d a b h))
  | 5 => form1 .never f (b == 0) (allow (dstMask d && srcMask a) (.mnot d a h))
  | 6 => form1 .may f (a == 0 && litZero b f && litFits 32 f) (allow (dstMask d) (.mset d (regLitOf b f) h))
  | 7 => form1 .never f (b == 0) (allow (srcMask a) (.mpop d a h))
  | 8 => form1 .never f (b == 0) (allow (srcMask a) (.mfirst d a h))
  | 9 => form1 .never f (b == 0) (allow (srcMask a) (.ballot d a h))
  | 10 => form1 .never f (b == 0) (allow (srcMask a) (.vany d a h))
  | 11 => form1 .never f (b == 0) (allow (srcMask a) (.vall d a h))
  | 12 => form1 .never f (b == 0) (allow (evenMask a) (.msave d a h))
  | 13 => form1 .never f (b == 0) (allow (evenMask d) (.mrestore d a h))
  | _ => .reject .reservedMinor

/-- Major 0x18, format S with operand b in SB (R48, R164). -/
def decodeS (f : Frame) : Decoded :=
  let d := field f.w0 21 6
  let a := field f.w0 15 6
  let b := field f.w0 9 6
  let h := hint1 f
  match field f.w0 27 5 with
  | 0 => form1 .never f true (some (.sadd d a b h))
  | 1 => form1 .never f true (some (.ssub d a b h))
  | 2 => form1 .never f true (some (.smul d a b h))
  | 3 => form1 .never f true (some (.smulh d a b h))
  | 4 => form1 .never f true (some (.sdiv d a b h))
  | 5 => form1 .never f true (some (.sdivu d a b h))
  | 6 => form1 .never f true (some (.srem d a b h))
  | 7 => form1 .never f true (some (.sremu d a b h))
  | 8 => form1 .never f true (some (.sand d a b h))
  | 9 => form1 .never f true (some (.sor d a b h))
  | 10 => form1 .never f true (some (.sxor d a b h))
  | 11 => form1 .never f true (some (.sandn d a b h))
  | 12 => form1 .never f true (some (.sshl d a b h))
  | 13 => form1 .never f true (some (.sshr d a b h))
  | 14 => form1 .never f true (some (.ssra d a b h))
  | 15 => form1 .never f true (some (.srot d a b h))
  | 16 => form1 .never f true (some (.smin d a b h))
  | 17 => form1 .never f true (some (.smax d a b h))
  | 18 => form1 .never f true (some (.sminu d a b h))
  | 19 => form1 .never f true (some (.smaxu d a b h))
  | 20 => form1 .never f (a == 0) (some (.smov d b h))
  | 21 => form1 .never f true (some (.sseq d a b h))
  | 22 => form1 .never f true (some (.sslt d a b h))
  | 23 => form1 .never f true (some (.ssltu d a b h))
  | 24 => form1 .never f true (some (.sbfx d a b h))
  | 25 => form1 .never f true (some (.sbfi d a b h))
  | 26 => form1 .never f (b == 0) (some (.sclz d a h))
  | 27 => form1 .never f (b == 0) (some (.sctz d a h))
  | 28 => form1 .never f (b == 0) (some (.spop d a h))
  | 29 => form1 .never f (b == 0) (some (.sbrev d a h))
  | _ => .reject .reservedMinor

/-- Major 0x19, format S with IMM6 or the literal (R41, R46, R48). -/
def decodeSI (f : Frame) : Decoded :=
  let d := field f.w0 21 6
  let a := field f.w0 15 6
  let raw := field f.w0 9 6
  let b := offOf 6 raw f
  let z := litZero raw f
  let h := hint1 f
  match field f.w0 27 5 with
  | 0 => form1 .may f z (some (.saddImm d a b h))
  | 1 => form1 .may f z (some (.ssubImm d a b h))
  | 2 => form1 .may f z (some (.smulImm d a b h))
  | 3 => form1 .may f z (some (.smulhImm d a b h))
  | 4 => form1 .may f z (some (.sdivImm d a b h))
  | 5 => form1 .may f z (some (.sdivuImm d a b h))
  | 6 => form1 .may f z (some (.sremImm d a b h))
  | 7 => form1 .may f z (some (.sremuImm d a b h))
  | 8 => form1 .may f z (some (.sandImm d a b h))
  | 9 => form1 .may f z (some (.sorImm d a b h))
  | 10 => form1 .may f z (some (.sxorImm d a b h))
  | 11 => form1 .may f z (some (.sandnImm d a b h))
  | 12 => form1 .may f z (some (.sshlImm d a b h))
  | 13 => form1 .may f z (some (.sshrImm d a b h))
  | 14 => form1 .may f z (some (.ssraImm d a b h))
  | 15 => form1 .may f z (some (.srotImm d a b h))
  | 16 => form1 .may f z (some (.sminImm d a b h))
  | 17 => form1 .may f z (some (.smaxImm d a b h))
  | 18 => form1 .may f z (some (.sminuImm d a b h))
  | 19 => form1 .may f z (some (.smaxuImm d a b h))
  | 20 => form1 .may f (z && a == 0) (some (.smovImm d b h))
  | 21 => form1 .may f z (some (.sseqImm d a b h))
  | 22 => form1 .may f z (some (.ssltImm d a b h))
  | 23 => form1 .may f z (some (.ssltuImm d a b h))
  | 24 => form1 .may f z (some (.sbfxImm d a b h))
  | 25 => form1 .may f z (some (.sbfiImm d a b h))
  | _ => .reject .reservedMinor

/-- Major 0x61, format WB (R202). -/
def decodeWB (f : Frame) : Decoded :=
  let w := field f.w0 24 3
  let p := field f.w0 21 3
  let sa := field f.w0 15 6
  let sb := field f.w0 9 6
  let h := hint1 f
  match field f.w0 27 5 with
  | 0 => form1 .may f (litZero sb f) ((Perm.ofCode p).map fun q => .wbind w q sa (regLitOf sb f) h)
  | 1 => form1 .never f (p == 0 && sa == 0 && sb == 0) (some (.winv w h))
  | _ => .reject .reservedMinor

/-- Major 0x68, format W (R214). -/
def decodeW (f : Frame) : Decoded :=
  match field f.w0 27 5 with
  | 0 => form1 .never f (field f.w0 9 3 == 0)
      ((Cls.ofCode (field f.w0 23 4)).map fun c => .waitc c (field f.w0 12 11) (hint1 f))
  | _ => .reject .reservedMinor

/-- Major 0x69, format BA (R215). -/
def decodeBA (f : Frame) : Decoded :=
  let bar := field f.w0 22 5
  let sd := field f.w0 16 6
  let o := field f.w0 14 2
  let crit := field f.w0 13 1 == 1
  let h := hint1 f
  let z := field f.w0 9 4 == 0
  match field f.w0 27 5 with
  | 0 => form1 .may f (z && o == 0 && !crit && litZero sd f && litFits 16 f) (some (.binit bar (regLitOf sd f) h))
  | 1 => form1 .may f (z && o == 0 && !crit && litZero sd f && litFits 40 f) (some (.expect bar (regLitOf sd f) h))
  | 2 => form1 .never f (z && (o != 0 || !crit)) (allow (o == 0 || o == 2) (.arrive sd bar (o == 2) crit h))
  | 3 => form1 .never f (z && (o != 0 || !crit)) (allow (o == 0 || o == 1) (.waitb sd bar (o == 1) crit h))
  | 4 => form1 .never f (z && o == 0 && !crit) (some (.testb sd bar h))
  | _ => .reject .reservedMinor

/-- Major 0x6A, format F (R219). -/
def decodeF (f : Frame) : Decoded :=
  let o := field f.w0 27 2
  form1 .never f (field f.w0 9 18 == 0)
    ((Scope.ofCode (field f.w0 29 3)).bind fun c => allow (o != 3) (.fence c (MemOrd.ofCode o) (hint1 f)))

/-- Major 0x7F, format N (R159). -/
def decodeN (f : Frame) : Decoded :=
  let z := field f.w0 9 18 == 0
  match field f.w0 27 5 with
  | 0 => form1 .never f z (some (.nop (hint1 f)))
  | 1 => form1 .never f z (some (.hint (hint1 f)))
  | 2 => form1 .never f z (some (.pref (hint1 f)))
  | _ => .reject .reservedMinor

/-! ## Format V (R42, R45, R160) -/

/-- The fields of a format V instruction. -/
structure VFields where
  vd : Nat
  va : Nat
  bk : Nat
  vb : Nat
  vc : Nat
  tyCode : Nat
  m3 : Nat
  imm : Nat
  bit8 : Nat
  h : Nat
  deriving DecidableEq, Repr

def vFields (f : Frame) : VFields :=
  { vd := field f.w0 19 8, va := field f.w0 11 8, bk := field f.w0 9 2, vb := field f.e1 24 8,
    vc := field f.e1 16 8, tyCode := field f.e1 12 4, m3 := field f.e1 9 3, imm := f.e2, bit8 := field f.e1 8 1,
    h := hintX f }

def VFields.ty (v : VFields) : Option Ty := Ty.ofCode v.tyCode

/-- The width that bounds an immediate: that of the type, or 32 where the type code is reserved. -/
def VFields.width (v : VFields) : Nat := match v.ty with
  | some t => t.width
  | none => 32

/-- The reserved bits of an operand b of width w are zero (R43, R160). -/
def VFields.bZero (v : VFields) (w : Nat) : Bool :=
  match v.bk with
  | 0 => v.imm == 0
  | 1 => v.imm == 0 && decide (v.vb < 64)
  | 2 => v.vb == 0 && (decide (32 ≤ w) || v.imm / 2 ^ w == 0)
  | _ => v.imm == 0

/-- Operand b of width w, when its code is allowed (R160). -/
def VFields.b (v : VFields) (w : Nat) : Option VOp :=
  match v.bk with
  | 0 => allow (w != 64 || v.vb % 2 == 0) (.vec v.vb)
  | 1 => allow (w != 64) (.scalar v.vb)
  | 2 => some (.imm v.imm)
  | _ => none

/-- A form without operand b carries BK, VB and EXT2 zero (R160). -/
def VFields.noB (v : VFields) : Bool := v.bk == 0 && v.vb == 0 && v.imm == 0

/-- The type, where p allows it and 64-bit registers r are even (R63). -/
def VFields.tyIn (v : VFields) (p : Ty → Bool) (rs : List Nat) : Option Ty :=
  v.ty.bind fun t => allow (p t && (t.width != 64 || rs.all fun r => r % 2 == 0)) t

/-- The rounding code of a form that rounds (R39). -/
def VFields.rm (v : VFields) : Option Rm := Rm.ofCode v.m3

/-- A form V instruction with operand b and no third source. -/
def vBin (f : Frame) (p : Ty → Bool) (mk : VFields → VOp → Ty → Instr) : Decoded :=
  let v := vFields f
  formX .never f (v.bit8 == 0 && v.bZero v.width && v.vc == 0)
    ((v.tyIn p [v.vd, v.va]).bind fun t => (v.b t.width).bind fun b => allow (v.m3 == 0) (mk v b t))

/-- A form V instruction with operand b and the third source VC. -/
def vTri (f : Frame) (p : Ty → Bool) (mk : VFields → VOp → Ty → Instr) : Decoded :=
  let v := vFields f
  formX .never f (v.bit8 == 0 && v.bZero v.width)
    ((v.tyIn p [v.vd, v.va, v.vc]).bind fun t => (v.b t.width).bind fun b => allow (v.m3 == 0) (mk v b t))

/-- A form V instruction with VD and VA only. -/
def vUn (f : Frame) (p : Ty → Bool) (mk : VFields → Ty → Instr) : Decoded :=
  let v := vFields f
  formX .never f (v.bit8 == 0 && v.noB && v.vc == 0)
    ((v.tyIn p [v.vd, v.va]).bind fun t => allow (v.m3 == 0) (mk v t))

/-- A rounding form with operand b and no third source (R171). -/
def vBinR (f : Frame) (mk : VFields → VOp → Ty → Rm → Instr) : Decoded :=
  let v := vFields f
  formX .never f (v.bit8 == 0 && v.bZero v.width && v.vc == 0)
    ((v.tyIn Ty.isFp3 []).bind fun t => (v.b t.width).bind fun b => v.rm.map fun m => mk v b t m)

/-- A rounding form with operand b and VC (R171). -/
def vTriR (f : Frame) (mk : VFields → VOp → Ty → Rm → Instr) : Decoded :=
  let v := vFields f
  formX .never f (v.bit8 == 0 && v.bZero v.width)
    ((v.tyIn Ty.isFp3 []).bind fun t => (v.b t.width).bind fun b => v.rm.map fun m => mk v b t m)

/-- A rounding form with VD and VA only (R171). -/
def vUnR (f : Frame) (mk : VFields → Ty → Rm → Instr) : Decoded :=
  let v := vFields f
  formX .never f (v.bit8 == 0 && v.noB && v.vc == 0)
    ((v.tyIn Ty.isFp3 []).bind fun t => v.rm.map fun m => mk v t m)

/-- N32 only. -/
def Ty.isN32 (t : Ty) : Bool := t == .n32

/-- Integer types of 8 to 32 bits (R167). -/
def Ty.isInt8to32 (t : Ty) : Bool := t.isInt && t.width != 64

/-- The types of VCMP (R176). -/
def Ty.isCmp (t : Ty) : Bool := t.isFp3 || t.isInt

/-- Major 0x11: VCMP, MIN the condition (R45, R176). MIN 8 to 31 is a reserved code (log 21). -/
def decodeCmp (f : Frame) : Decoded :=
  let v := vFields f
  formX .never f (v.bit8 == 0 && v.bZero v.width && v.vc == 0 && v.vd / 64 == 0)
    ((Cond.ofCode (field f.w0 27 5)).bind fun c => (v.tyIn Ty.isCmp [v.va]).bind fun t =>
      (v.b t.width).bind fun b =>
        allow (v.m3 == 0 && decide (v.vd < 16) && (t.isFloat || decide (c.code < 6))) (.vcmp c v.vd v.va b t v.h))

/-- VSHUP, VSHDN, VSHXOR and VBCAST take no vector operand b (R184). -/
def notVec : VOp → Bool
  | .vec _ => false
  | _ => true

def vShift (f : Frame) (mk : VFields → VOp → Ty → Instr) : Decoded :=
  let v := vFields f
  formX .never f (v.bit8 == 0 && v.bZero v.width && v.vc == 0)
    ((v.tyIn Ty.is32 []).bind fun t => (v.b t.width).bind fun b => allow (v.m3 == 0 && notVec b) (mk v b t))

/-- The combining codes of VGRED and VSCAN by type (R185). -/
def combOk (op : Comb) (t : Ty) : Bool :=
  match op with
  | .add | .min | .max => t.isFp3 || t.isInt32
  | .and | .or | .xor => t.isInt32
  | .xchg => false

def vComb (f : Frame) (mk : VFields → Comb → Ty → Instr) : Decoded :=
  let v := vFields f
  formX .never f (v.bit8 == 0 && v.noB && v.vc == 0)
    (v.ty.bind fun t => (Comb.ofCode v.m3).bind fun op => allow (combOk op t) (mk v op t))

/-- Major 0x12: cross-lane forms (R184, R185). -/
def decodeCross (f : Frame) : Decoded :=
  match field f.w0 27 5 with
  | 0 => vBin f Ty.is32 fun v b t => .vshfl v.vd v.va b t v.h
  | 1 => vShift f fun v b t => .vshup v.vd v.va b t v.h
  | 2 => vShift f fun v b t => .vshdn v.vd v.va b t v.h
  | 3 => vShift f fun v b t => .vshxor v.vd v.va b t v.h
  | 4 => vShift f fun v b t => .vbcast v.vd v.va b t v.h
  | 5 => vComb f fun v op t => .vgred v.vd v.va op t v.h
  | 6 => vComb f fun v op t => .vscan v.vd v.va op t v.h
  | _ => .reject .reservedMinor

/-- VSEL: the selecting mask code stands in VC (R45, R169). -/
def decodeVsel (f : Frame) : Decoded :=
  let v := vFields f
  formX .never f (v.bit8 == 0 && v.bZero v.width && v.vc / 64 == 0)
    ((v.tyIn Ty.is32 []).bind fun t => (v.b t.width).bind fun b =>
      allow (v.m3 == 0 && decide (v.vc ≤ 16)) (.vsel v.vd v.va b v.vc t v.h))

/-- VMOV: VA is zero (R167). -/
def decodeVmov (f : Frame) : Decoded :=
  let v := vFields f
  formX .never f (v.bit8 == 0 && v.bZero v.width && v.vc == 0 && v.va == 0)
    ((v.tyIn Ty.is32 []).bind fun t => (v.b t.width).bind fun b => allow (v.m3 == 0) (.vmov v.vd b t v.h))

/-- Major 0x28: vector integer forms (R167). -/
def decodeVInt (f : Frame) : Decoded :=
  match field f.w0 27 5 with
  | 0 => vBin f Ty.isInt fun v b t => .vaddInt v.vd v.va b t v.h
  | 1 => vBin f Ty.isInt fun v b t => .vsubInt v.vd v.va b t v.h
  | 2 => vBin f Ty.isInt8to32 fun v b t => .vmulInt v.vd v.va b t v.h
  | 3 => vBin f Ty.isInt8to32 fun v b t => .vmulh v.vd v.va b t v.h
  | 4 => vTri f Ty.isInt8to32 fun v b t => .vmad v.vd v.va b v.vc t v.h
  | 5 => vBin f Ty.isInt fun v b t => .vabsd v.vd v.va b t v.h
  | 6 => vBin f Ty.isInt fun v b t => .vadds v.vd v.va b t v.h
  | 7 => vBin f Ty.isInt fun v b t => .vsubs v.vd v.va b t v.h
  | 8 => vBin f Ty.isInt fun v b t => .vminInt v.vd v.va b t v.h
  | 9 => vBin f Ty.isInt fun v b t => .vmaxInt v.vd v.va b t v.h
  | 10 => vBin f Ty.isWideInt fun v b t => .vand v.vd v.va b t v.h
  | 11 => vBin f Ty.isWideInt fun v b t => .vor v.vd v.va b t v.h
  | 12 => vBin f Ty.isWideInt fun v b t => .vxor v.vd v.va b t v.h
  | 13 => vBin f Ty.isWideInt fun v b t => .vandn v.vd v.va b t v.h
  | 14 => vUn f Ty.isWideInt fun v t => .vnot v.vd v.va t v.h
  | 15 => vBin f Ty.isInt fun v b t => .vshl v.vd v.va b t v.h
  | 16 => vBin f Ty.isInt fun v b t => .vshr v.vd v.va b t v.h
  | 17 => vBin f Ty.isInt fun v b t => .vsra v.vd v.va b t v.h
  | 18 => vBin f Ty.isInt fun v b t => .vrot v.vd v.va b t v.h
  | 19 => vBin f Ty.isInt32 fun v b t => .vbfx v.vd v.va b t v.h
  | 20 => vTri f Ty.isN32 fun v b _ => .vbfi v.vd v.va b v.vc v.h
  | 21 => vUn f Ty.isN32 fun v _ => .vclz v.vd v.va v.h
  | 22 => vUn f Ty.isN32 fun v _ => .vpop v.vd v.va v.h
  | 23 => vUn f Ty.isN32 fun v _ => .vbrev v.vd v.va v.h
  | 24 => decodeVsel f
  | 25 => decodeVmov f
  | 26 => vTri f Ty.isN32 fun v b _ => .vprmt v.vd v.va b v.vc v.h
  | _ => .reject .reservedMinor

/-- Major 0x38: vector floating-point forms (R171). -/
def decodeVFp (f : Frame) : Decoded :=
  match field f.w0 27 5 with
  | 0 => vBinR f fun v b t m => .vaddFp v.vd v.va b t m v.h
  | 1 => vBinR f fun v b t m => .vsubFp v.vd v.va b t m v.h
  | 2 => vBinR f fun v b t m => .vmulFp v.vd v.va b t m v.h
  | 3 => vTriR f fun v b t m => .vfma v.vd v.va b v.vc t m v.h
  | 4 => vTriR f fun v b t m => .vfms v.vd v.va b v.vc t m v.h
  | 5 => vTriR f fun v b t m => .vfnma v.vd v.va b v.vc t m v.h
  | 6 => vBin f Ty.isFp3 fun v b t => .vminFp v.vd v.va b t v.h
  | 7 => vBin f Ty.isFp3 fun v b t => .vmaxFp v.vd v.va b t v.h
  | 8 => vUn f Ty.isFp3 fun v t => .vabs v.vd v.va t v.h
  | 9 => vUn f Ty.isFp3 fun v t => .vneg v.vd v.va t v.h
  | 10 => vBin f Ty.isFp3 fun v b t => .vcpysgn v.vd v.va b t v.h
  | 11 => vUnR f fun v t m => .vrcp v.vd v.va t m v.h
  | 12 => vUnR f fun v t m => .vrsq v.vd v.va t m v.h
  | 13 => vUnR f fun v t m => .vsqrt v.vd v.va t m v.h
  | 14 => vUn f Ty.isFp3 fun v t => .vexp2 v.vd v.va t v.h
  | 15 => vUn f Ty.isFp3 fun v t => .vlog2 v.vd v.va t v.h
  | 16 => vUn f Ty.isFp3 fun v t => .vsin v.vd v.va t v.h
  | 17 => vUn f Ty.isFp3 fun v t => .vcos v.vd v.va t v.h
  | 18 => vUn f Ty.isFp3 fun v t => .vfloor v.vd v.va t v.h
  | 19 => vUn f Ty.isFp3 fun v t => .vceil v.vd v.va t v.h
  | 20 => vUn f Ty.isFp3 fun v t => .vtrunc v.vd v.va t v.h
  | 21 => vUnR f fun v t m => .vround v.vd v.va t m v.h
  | 22 => vUn f Ty.isFp3 fun v t => .vfract v.vd v.va t v.h
  | 23 => vUn f Ty.isFp3 fun v t => .vclass v.vd v.va t v.h
  | _ => .reject .reservedMinor

/-- A tangent form has TY 0 and M3 0 (R177). -/
def VFields.tan0 (v : VFields) : Bool := v.tyCode == 0 && v.m3 == 0

/-- Major 0x39: tangent forms (R177). -/
def decodeTan (f : Frame) : Decoded :=
  let v := vFields f
  let ok := v.bit8 == 0
  match field f.w0 27 5 with
  | 0 => formX .never f (ok && v.bZero 32 && v.va == 0 && v.vc / 8 == 0)
      ((v.b 32).bind fun b => allow v.tan0 (.tseed v.vd (v.vc % 8) b v.h))
  | 1 => formX .never f
      (ok && v.noB && v.va == 0 && (if v.vc / 128 = 1 then v.vc % 128 == 0 else v.vc / 8 == 0))
      (allow v.tan0 (.tzero v.vd (if v.vc / 128 = 1 then none else some (v.vc % 8)) v.h))
  | 2 => formX .never f (ok && v.noB && v.vc % 16 == 0 && v.vc / 128 == 0)
      (allow v.tan0 (.tget v.vd v.va (v.vc / 16 % 8) v.h))
  | 3 => formX .never f (ok && v.bZero 32 && v.va == 0 && v.vc / 8 == 0)
      ((v.b 32).bind fun b => allow v.tan0 (.tset v.vd (v.vc % 8) b v.h))
  | 4 => formX .never f (ok && v.noB && v.vc / 8 % 2 == 0 && v.vc / 128 == 0)
      (allow v.tan0 (.tmov v.vd (v.vc % 8) v.va (v.vc / 16 % 8) v.h))
  | _ => .reject .reservedMinor

/-- Destinations of VPACK with a kept half, and those without (R182). -/
def packNarrow (t : Ty) : Bool := t == .e4m3 || t == .i8 || t == .n8

def packWide (t : Ty) : Bool := t == .f16 || t == .bf16 || t == .i16 || t == .n16

/-- Pairs of VUNPK (R183). -/
def unpkOk (t ts : Ty) (k : Nat) : Bool :=
  (packNarrow ts || (packWide ts && decide (k < 2))) && (t == .f32 || (t.isInt32 && ts.isInt))

/-- Major 0x50: conversions and random bits (R179 to R183). -/
def decodeCvt (f : Frame) : Decoded :=
  let v := vFields f
  let ok := v.bit8 == 0
  match field f.w0 27 5 with
  | 0 => formX .never f (ok && v.noB && v.vc / 16 == 0)
      (v.ty.bind fun t => (Ty.ofCode (v.vc % 16)).bind fun ts => v.rm.bind fun m =>
        allow (t != ts && (t.width != 64 || v.vd % 2 == 0) && (ts.width != 64 || v.va % 2 == 0) &&
          (t.isFloat || ts.isFloat || m == .rne)) (.vcvt v.vd v.va t ts m v.h))
  | 1 => formX .never f (ok && v.bZero 32)
      (v.ty.bind fun t => (v.b 32).bind fun b =>
        allow (v.m3 == 0 && t != .f32 && t.width != 64) (.vcvtsr v.vd v.va b v.vc t v.h))
  | 2 => formX .never f (ok && v.noB && v.vc == 0)
      (allow (v.tyCode == 11 && v.m3 == 0 && v.va % 2 == 0 && v.vd != v.va && v.vd != v.va + 1)
        (.vrand v.vd v.va v.h))
  | 3 => formX .never f (ok && v.noB && v.vc == 0)
      (allow (v.tyCode == 11 && v.m3 == 0 && v.va % 2 == 0 && v.vd % 2 == 0) (.vrseed v.vd v.va v.h))
  | 4 => formX .never f
      (ok && v.bZero 32 && v.vc / 32 == 0 &&
        (v.vc / 16 == 0 || !(match v.ty with | some t => packWide t | none => false)))
      (v.ty.bind fun t => (Ty.ofCode (v.vc % 16)).bind fun ts => v.rm.bind fun m => (v.b 32).bind fun b =>
        allow ((packWide t || packNarrow t) && ts.is32 && (t.isFloat || ts.isFloat || m == .rne))
          (.vpack v.vd v.va b t ts (v.vc / 16 == 1) m v.h))
  | 5 => formX .never f (ok && v.noB && v.vc / 64 == 0)
      (v.ty.bind fun t => (Ty.ofCode (v.vc % 16)).bind fun ts =>
        allow (v.m3 == 0 && unpkOk t ts (v.vc / 16 % 4)) (.vunpk v.vd v.va (v.vc / 16 % 4) t ts v.h))
  | _ => .reject .reservedMinor

/-! ## Format L (R42, R194) -/

structure LFields where
  vd : Nat
  base : Nat
  bsc : Bool
  du : Bool
  off : Nat
  tyCode : Nat
  m3 : Nat
  bit8 : Nat
  vc : Nat
  ord : Nat
  scope : Nat
  crit : Bool
  rest : Nat
  h : Nat
  deriving DecidableEq, Repr

def lFields (f : Frame) : LFields :=
  { vd := field f.w0 19 8, base := field f.w0 11 8, bsc := field f.w0 10 1 == 1, du := field f.w0 9 1 == 1,
    off := field f.e1 16 16, tyCode := field f.e1 12 4, m3 := field f.e1 9 3, bit8 := field f.e1 8 1,
    vc := field f.e2 24 8, ord := field f.e2 22 2, scope := field f.e2 19 3, crit := field f.e2 18 1 == 1,
    rest := field f.e2 0 18, h := hintX f }

/-- Reserved bits that every form of major 0x58 has: bit 8, EXT2 [17:0], BASE [7:6] of a scalar, OFF16 beside a
literal, and SCOPE and CRIT with ORD 0 (R187, R194). -/
def LFields.zero (l : LFields) (f : Frame) : Bool :=
  l.bit8 == 0 && l.rest == 0 && (!l.bsc || decide (l.base < 64)) && litZero l.off f &&
    (l.ord != 0 || (l.scope == 0 && !l.crit))

def LFields.addr (l : LFields) (f : Frame) : Addr := ⟨l.bsc, l.base, offOf 16 l.off f⟩

def LFields.ty (l : LFields) (p : Ty → Bool) (rs : List Nat) : Option Ty :=
  (Ty.ofCode l.tyCode).bind fun t => allow (p t && (t.width != 64 || rs.all fun r => r % 2 == 0)) t

/-- The order, scope and critical bit, where the order is one the form takes. -/
def LFields.sync (l : LFields) (p : MemOrd → Bool) : Option Sync :=
  (Scope.ofCode l.scope).bind fun c => allow (p (MemOrd.ofCode l.ord)) ⟨MemOrd.ofCode l.ord, c, l.crit⟩

def ordAcq : MemOrd → Bool
  | .plain | .acq => true
  | _ => false

def ordRel : MemOrd → Bool
  | .plain | .rel => true
  | _ => false

def ordAny : MemOrd → Bool := fun _ => true

def anyTy : Ty → Bool := fun _ => true

/-- .D is defined with F32 only (R95, R194). -/
def duOk (du : Bool) (t : Ty) : Bool := !du || t == .f32

/-- The combining codes of ATOM, RED and AMG by type (R194, R210). -/
def atomOk (op : Comb) (t : Ty) : Bool :=
  t != .f32 || op == .add || op == .min || op == .max || op == .xchg

/-- Major 0x58: scratchpad and weight-store access (R194). An ORD that a form does not have is a reserved bit. -/
def decodeL (f : Frame) : Decoded :=
  let l := lFields f
  let z := l.zero f
  let a := l.addr f
  let noOrd := l.ord == 0
  match field f.w0 27 5 with
  | 0 => formX .may f (z && l.vc == 0)
      ((l.ty anyTy [l.vd]).bind fun t => (l.sync ordAcq).bind fun o =>
        allow (duOk l.du t && l.m3 == 0) (.ld l.vd a t l.du o l.h))
  | 1 => formX .may f (z && l.vc == 0)
      ((l.ty anyTy [l.vd]).bind fun t => (l.sync ordRel).bind fun o =>
        allow (duOk l.du t && l.m3 == 0) (.st l.vd a t l.du o l.h))
  | 2 => formX .may f (z && noOrd)
      ((l.ty Ty.is32 []).bind fun t =>
        allow (duOk l.du t && l.m3 == 0 && l.bsc && decide (1 ≤ l.vc) && decide (l.vc ≤ 32))
          (.ldt l.vd a t l.du l.vc l.h))
  | 3 => formX .may f (z && noOrd)
      ((l.ty Ty.is32 []).bind fun t =>
        allow (duOk l.du t && l.m3 == 0 && l.bsc && decide (1 ≤ l.vc) && decide (l.vc ≤ 32))
          (.stt l.vd a t l.du l.vc l.h))
  | 4 => formX .may f (z && noOrd && !l.du && l.vc == 0)
      ((l.ty anyTy [l.vd]).bind fun t => allow (l.m3 == 0) (.ldw l.vd a t l.h))
  | 5 => formX .may f (z && !l.du && l.vc == 0 && decide (l.vd < 64))
      ((l.ty anyTy []).bind fun t => (l.sync ordAcq).bind fun o =>
        allow (l.m3 == 0 && l.bsc) (.sld l.vd a t o l.h))
  | 6 => formX .may f (z && !l.du && l.vc == 0 && decide (l.vd < 64))
      ((l.ty anyTy []).bind fun t => (l.sync ordRel).bind fun o =>
        allow (l.m3 == 0 && l.bsc) (.sst l.vd a t o l.h))
  | 7 => formX .may f (z && !l.du)
      ((l.ty Ty.isAtomic [l.vd, l.vc]).bind fun t => (Comb.ofCode l.m3).bind fun op => (l.sync ordAny).bind fun o =>
        allow (atomOk op t) (.atom l.vd a l.vc op t o l.h))
  | 8 => formX .may f (z && !l.du)
      ((l.ty Ty.isAtomic [l.vd, l.vc]).bind fun t => (l.sync ordAny).bind fun o =>
        allow (l.m3 == 0) (.acas l.vd a l.vc t o l.h))
  | _ => .reject .reservedMinor

/-! ## Format E (R42, R49, R210 to R213) -/

structure EFields where
  vd : Nat
  va : Nat
  ord : Nat
  sa : Nat
  bar : Nat
  be : Bool
  win : Nat
  tyCode : Nat
  op : Nat
  crit : Bool
  imm : Nat
  h : Nat
  deriving DecidableEq, Repr

def eFields (f : Frame) : EFields :=
  { vd := field f.w0 19 8, va := field f.w0 11 8, ord := field f.w0 9 2, sa := field f.e1 26 6,
    bar := field f.e1 21 5, be := field f.e1 20 1 == 1, win := field f.e1 17 3, tyCode := field f.e1 13 4,
    op := field f.e1 9 4, crit := field f.e1 8 1 == 1, imm := f.e2, h := hintX f }

def EFields.ty (e : EFields) (p : Ty → Bool) (rs : List Nat) : Option Ty :=
  (Ty.ofCode e.tyCode).bind fun t => allow (p t && (t.width != 64 || rs.all fun r => r % 2 == 0)) t

/-- GATH, SCAT, PLD and PST (R210). -/
def eLane (f : Frame) (mk : EFields → Int → Ty → Instr) : Decoded :=
  let e := eFields f
  formX .never f (e.sa == 0 && e.bar == 0 && !e.be && e.op == 0 && e.ord == 0 && !e.crit)
    ((e.ty anyTy [e.vd]).map fun t => mk e (signedOf 32 e.imm) t)

/-- RED and AMG (R210); RED takes no XCHG. -/
def eAtom (f : Frame) (xchg : Bool) (mk : EFields → Int → Comb → Ty → Instr) : Decoded :=
  let e := eFields f
  formX .never f (e.sa == 0 && e.bar == 0 && !e.be && e.op / 8 == 0)
    ((e.ty Ty.isAtomic [e.vd]).bind fun t => (Comb.ofCode (e.op % 8)).bind fun op =>
      allow (atomOk op t && (xchg || op != .xchg)) (mk e (signedOf 32 e.imm) op t))

/-- TEX and TEXG (R212). -/
def eTex (f : Frame) (mk : EFields → Bool → Instr) : Decoded :=
  let e := eFields f
  formX .never f (e.bar == 0 && !e.be && e.win == 0 && e.op / 4 == 0 && e.ord == 0 && !e.crit && e.imm == 0)
    (allow (e.tyCode == 0 && decide (e.op % 4 < 2)) (mk e (e.op % 4 == 1)))

/-- ISECT and VISQ (R212). -/
def eRay (f : Frame) (mk : EFields → Instr) : Decoded :=
  let e := eFields f
  formX .never f (e.win == 0 && e.op == 0 && e.ord == 0 && !e.crit && e.imm == 0) (allow (e.tyCode == 0) (mk e))

/-- Major 0x60: engine commands (R207, R210 to R213). -/
def decodeE (f : Frame) : Decoded :=
  let e := eFields f
  match field f.w0 27 5 with
  | 0 => formX .never f (e.vd == 0 && e.va == 0 && e.ord == 0 && e.win == 0 && e.tyCode == 0 && e.op == 0 &&
      !e.crit && e.imm == 0) (some (.cpy e.sa ⟨e.be, e.bar⟩ e.h))
  | 1 => eLane f fun e o t => .gath e.vd e.va e.win o t e.h
  | 2 => eLane f fun e o t => .scat e.vd e.va e.win o t e.h
  | 3 => eLane f fun e o t => .pld e.vd e.va e.win o t e.h
  | 4 => eLane f fun e o t => .pst e.vd e.va e.win o t e.h
  | 5 => eAtom f false fun e o c t => .red e.vd e.va e.win o c t (MemOrd.ofCode e.ord) e.crit e.h
  | 6 => eAtom f true fun e o c t => .amg e.vd e.va e.win o c t (MemOrd.ofCode e.ord) e.crit e.h
  | 7 => eTex f fun e l0 => .tex e.vd e.va e.sa l0 e.h
  | 8 => eTex f fun e l0 => .texg e.vd e.va e.sa l0 e.h
  | 9 => eRay f fun e => .isect e.vd e.va e.sa ⟨e.be, e.bar⟩ e.h
  | 10 => eRay f fun e => .visq e.vd e.va e.sa ⟨e.be, e.bar⟩ e.h
  | 11 => formX .never f (e.vd == 0 && e.va == 0 && e.ord == 0 && e.win == 0 && !e.crit && !e.be &&
      e.imm / 65536 == 0 && (decide (e.op / 4 < 2) || e.op % 4 == 0))
      ((Ty.ofCode e.tyCode).bind fun t => (CollOp.ofCode (e.op % 4)).bind fun o =>
        allow (t == .f32 || t == .bf16) (.coll (CollKind.ofCode (e.op / 4)) o t e.sa e.bar e.imm e.h))
  | _ => .reject .reservedMinor

/-! ## Format MX (R42, R229) -/

structure MXFields where
  t : Nat
  sa : Nat
  sb : Nat
  dir : Nat
  sc : Nat
  bar : Nat
  be : Bool
  tyCode : Nat
  q : Nat
  imm : Nat
  h : Nat
  deriving DecidableEq, Repr

def mxFields (f : Frame) : MXFields :=
  { t := field f.w0 23 4, sa := field f.w0 17 6, sb := field f.w0 11 6, dir := field f.w0 9 2,
    sc := field f.e1 26 6, bar := field f.e1 21 5, be := field f.e1 20 1 == 1, tyCode := field f.e1 16 4,
    q := field f.e1 8 8, imm := f.e2, h := hintX f }

/-- E4M3 and BF16 (R229). -/
def matTy (t : Ty) : Bool := t == .e4m3 || t == .bf16

/-- No barrier operand: BAR and BE zero. -/
def MXFields.noBar (m : MXFields) : Bool := m.bar == 0 && !m.be

def MXFields.bk (m : MXFields) : BarOp := ⟨m.be, m.bar⟩

/-- Major 0x6C: matrix and ring instructions (R229). -/
def decodeMX (f : Frame) : Decoded :=
  let m := mxFields f
  let ty := Ty.ofCode m.tyCode
  match field f.w0 27 5 with
  | 0 =>
    let versioned := m.q / 2 % 2 == 1
    formX .never f
      (m.t == 0 && m.dir == 0 &&
        (if versioned then m.sa == 0 else m.sb == 0 && m.q / 4 == 0) && (m.sc == 0 || m.tyCode != 2))
      (ty.bind fun t => allow (matTy t)
        (.mstat (m.q % 2 == 1) (if versioned then .ring (m.q / 4) m.sb else .base m.sa) m.sc m.bk t
          (signedOf 32 m.imm) m.h))
  | 1 => formX .never f (m.q == 0 && m.imm == 0)
      (ty.bind fun t => allow (matTy t && (m.dir == 1 || m.dir == 2))
        (.mloop m.t (m.dir == 2) m.sa m.sb m.sc m.bk t m.h))
  | 2 => formX .never f
      (m.sa == 0 && m.sb == 0 && m.dir == 0 && m.sc == 0 && m.tyCode == 0 && m.q == 0 && m.imm / 2097152 == 0)
      (allow (m.imm / 1024 != 0) (.mzero m.t (m.imm % 1024) (m.imm / 1024) m.bk m.h))
  | 3 => formX .never f
      (m.dir == 0 && m.sc == 0 && m.q / 32 == 0 && (m.q / 2 % 2 == 1 || m.q / 4 == 0))
      (ty.bind fun t => allow (t.isFloat && (m.q % 2 == 0 || t == .f32 || t == .bf16))
        (.mdrain m.t (if m.q / 2 % 2 = 1 then some (m.q / 4) else none) m.sa m.sb (m.q % 2 == 1) m.bk t
          (signedOf 32 m.imm) m.h))
  | 4 => formX .never f
      (m.sa == 0 && m.sb == 0 && m.dir == 0 && m.sc == 0 && m.tyCode == 0 && m.q == 0 && m.noBar &&
        m.imm / 2097152 == 0)
      (allow (m.imm / 1024 != 0) (.mbind m.t (m.imm % 1024) (m.imm / 1024) m.h))
  | 5 => formX .never f
      (m.sa == 0 && m.sb == 0 && m.dir == 0 && m.sc == 0 && m.tyCode == 0 && m.q == 0 && m.noBar && m.imm == 0)
      (some (.mfree m.t m.h))
  | 6 => formX .never f
      (m.t == 0 && m.sa == 0 && m.sb == 0 && m.dir == 0 && m.sc == 0 && m.tyCode == 0 && m.noBar &&
        m.q % 4 == 0 && m.imm / 16 == 0)
      (allow (m.imm != 0 && decide (m.imm ≤ 8)) (.mrinit (m.q / 4) m.imm m.h))
  | 7 => formX .never f
      (m.t == 0 && m.dir == 0 && m.sc == 0 && m.tyCode == 0 && m.noBar && m.q % 4 == 0 && m.imm == 0)
      (some (.mrpush (m.q / 4) m.sa m.sb m.h))
  | 8 => formX .never f
      (m.t == 0 && m.sa == 0 && m.dir == 0 && m.sc == 0 && m.tyCode == 0 && m.noBar && m.q % 4 == 0 && m.imm == 0)
      (some (.mrrel (m.q / 4) m.sb m.h))
  | 9 => formX .never f
      (m.t == 0 && m.sa == 0 && m.sb == 0 && m.dir == 0 && m.tyCode == 0 && m.noBar && m.q / 4 == 0 && m.imm == 0)
      (some (.mqsr m.sc m.q m.h))
  | _ => .reject .reservedMinor

/-! ## Format FX (R42, R261) -/

structure FXFields where
  f : Nat
  va : Nat
  sa : Nat
  rest : Nat
  vb : Nat
  q : Nat
  tyCode : Nat
  rest1 : Nat
  imm : Nat
  h : Nat
  deriving DecidableEq, Repr

def fxFields (f : Frame) : FXFields :=
  { f := field f.w0 25 2, va := field f.w0 17 8, sa := field f.w0 11 6, rest := field f.w0 9 2,
    vb := field f.e1 24 8, q := field f.e1 16 8, tyCode := field f.e1 12 4, rest1 := field f.e1 8 4, imm := f.e2,
    h := hintX f }

/-- Major 0x74: factor operations (R261). -/
def decodeFX (f : Frame) : Decoded :=
  let x := fxFields f
  let z := x.rest == 0 && x.vb == 0 && x.rest1 == 0
  let go := fun (z' : Bool) (i : Instr) => formX .never f (z && z') (allow (x.tyCode == 0) i)
  match field f.w0 27 5 with
  | 0 => go (x.va == 0 && x.sa == 0 && x.q == 0 && x.imm / 8 % 32 == 0 && x.imm / 65536 == 0)
      (.finit x.f (x.imm % 8) (x.imm / 256) x.h)
  | 1 => go (x.sa == 0 && x.q == 0 && x.imm == 0) (.fupd x.f x.va x.h)
  | 2 => go (x.sa == 0 && x.q == 0 && x.imm == 0) (.fdown x.f x.va x.h)
  | 3 => go (x.sa == 0 && x.q / 2 == 0 && x.imm == 0) (.fsolve x.f x.va (x.q == 1) x.h)
  | 4 => go (x.va == 0 && x.q == 0 && x.imm == 0) (.flogdet x.f x.sa x.h)
  | 5 => go (x.va == 0 && x.q == 0) (.fdrain x.f x.sa (signedOf 32 x.imm) x.h)
  | 6 => go (x.va == 0 && x.q == 0) (.fload x.f x.sa (signedOf 32 x.imm) x.h)
  | 7 => go (x.va == 0 && x.sa == 0 && x.q == 0 && x.imm == 0) (.ffree x.f x.h)
  | _ => .reject .reservedMinor

/-! ## The opcode map (R47) -/

/-- Decode the words of one instruction by its major opcode. -/
def decodeFrame (f : Frame) : Decoded :=
  match field f.w0 2 7 with
  | 0x00 => decodeX f
  | 0x01 => decodeJ false f
  | 0x02 => decodeJ true f
  | 0x03 => decodeBS f
  | 0x04 => decodeBM .brv f
  | 0x05 => decodeBM .brk f
  | 0x06 => decodeBM .ball f
  | 0x07 => decodeBM .bnone f
  | 0x08 => decodeSR f
  | 0x09 => decodeTR f
  | 0x0A => decodeSP f
  | 0x10 => decodeM f
  | 0x11 => decodeCmp f
  | 0x12 => decodeCross f
  | 0x18 => decodeS f
  | 0x19 => decodeSI f
  | 0x28 => decodeVInt f
  | 0x38 => decodeVFp f
  | 0x39 => decodeTan f
  | 0x50 => decodeCvt f
  | 0x58 => decodeL f
  | 0x60 => decodeE f
  | 0x61 => decodeWB f
  | 0x68 => decodeW f
  | 0x69 => decodeBA f
  | 0x6A => decodeF f
  | 0x6C => decodeMX f
  | 0x74 => decodeFX f
  | 0x7F => decodeN f
  | _ => .reject .unassignedMajor

/-- Decode the first instruction of a list of 32-bit words. -/
def decodeWords (ws : List Nat) : Decoded :=
  match Frame.ofWords ws with
  | some f => decodeFrame f
  | none => .reject .truncated

/-- The little-endian 32-bit words of a byte list (R36). -/
def wordsOf : List Byte → List Nat
  | b0 :: b1 :: b2 :: b3 :: bs => ofBytes [b0, b1, b2, b3] :: wordsOf bs
  | _ => []

/-- Decode the instruction at the head of a byte list. -/
def decode (bs : List Byte) : Decoded := decodeWords (wordsOf bs)

/-! ## Encoding (R41, R42, R45 to R49, R55) -/

/-- The field of n bits an offset fills; zero beside the literal. -/
def Off.field (n : Nat) : Off → Nat
  | .small k => patternOf n k
  | .lit _ => 0

def Off.lit? : Off → Option Nat
  | .small _ => none
  | .lit x => some x

def RegLit.regField : RegLit → Nat
  | .reg r => r
  | .lit _ => 0

def RegLit.lit? : RegLit → Option Nat
  | .reg _ => none
  | .lit x => some x

/-- Operand b of a form that has none. -/
def vecZero : VOp := .vec 0

def VOp.bk : VOp → Nat
  | .vec _ => 0 | .scalar _ => 1 | .imm _ => 2

def VOp.vb : VOp → Nat
  | .vec r => r | .scalar r => r | .imm _ => 0

def VOp.imm32 : VOp → Nat
  | .imm x => x | _ => 0

def StatSrc.sa : StatSrc → Nat
  | .base r => r | .ring _ _ => 0

def StatSrc.sb : StatSrc → Nat
  | .base _ => 0 | .ring _ sb => sb

def StatSrc.q : StatSrc → Nat
  | .base _ => 0 | .ring r _ => 2 + 4 * r

/-- LEN of a one-word format. -/
def len1 (h lit : Option Nat) : Nat := h.isSome.toNat + 2 * lit.isSome.toNat

/-- A one-word format: the fields above bit 8, the hint byte and the literal. -/
def enc1 (maj body : Nat) (h lit : Option Nat) : Frame :=
  ⟨len1 h lit, body + maj * 4 + len1 h lit, h.getD 0, 0, lit⟩

def encX (mn va sa tok : Nat) (h lit : Option Nat) : Frame :=
  enc1 0x00 (mn * 2 ^ 27 + va * 2 ^ 19 + sa * 2 ^ 13 + tok * 2 ^ 9) h lit

def encM (mn d a b : Nat) (h lit : Option Nat) : Frame :=
  enc1 0x10 (mn * 2 ^ 27 + d * 2 ^ 21 + a * 2 ^ 15 + b * 2 ^ 9) h lit

def encS (maj mn d a b : Nat) (h lit : Option Nat) : Frame :=
  enc1 maj (mn * 2 ^ 27 + d * 2 ^ 21 + a * 2 ^ 15 + b * 2 ^ 9) h lit

def encBA (mn bar sd o : Nat) (crit : Bool) (h lit : Option Nat) : Frame :=
  enc1 0x69 (mn * 2 ^ 27 + bar * 2 ^ 22 + sd * 2 ^ 16 + o * 2 ^ 14 + crit.toNat * 2 ^ 13) h lit

def encV (maj mn vd va : Nat) (b : VOp) (vc ty m3 h : Nat) : Frame :=
  ⟨1, mn * 2 ^ 27 + vd * 2 ^ 19 + va * 2 ^ 11 + b.bk * 2 ^ 9 + maj * 4 + 1,
    b.vb * 2 ^ 24 + vc * 2 ^ 16 + ty * 2 ^ 12 + m3 * 2 ^ 9 + h, b.imm32, none⟩

def encL (mn vd : Nat) (a : Addr) (du : Bool) (ty m3 vc : Nat) (o : Sync) (h : Nat) : Frame :=
  ⟨1 + 2 * a.off.lit?.isSome.toNat,
    mn * 2 ^ 27 + vd * 2 ^ 19 + a.base * 2 ^ 11 + a.scalar.toNat * 2 ^ 10 + du.toNat * 2 ^ 9 + 0x58 * 4 +
      (1 + 2 * a.off.lit?.isSome.toNat),
    a.off.field 16 * 2 ^ 16 + ty * 2 ^ 12 + m3 * 2 ^ 9 + h,
    vc * 2 ^ 24 + o.ord.code * 2 ^ 22 + o.scope.code * 2 ^ 19 + o.crit.toNat * 2 ^ 18, a.off.lit?⟩

def encE (mn vd va o sa : Nat) (bk : BarOp) (w ty op : Nat) (crit : Bool) (imm h : Nat) : Frame :=
  ⟨1, mn * 2 ^ 27 + vd * 2 ^ 19 + va * 2 ^ 11 + o * 2 ^ 9 + 0x60 * 4 + 1,
    sa * 2 ^ 26 + bk.bar * 2 ^ 21 + bk.be.toNat * 2 ^ 20 + w * 2 ^ 17 + ty * 2 ^ 13 + op * 2 ^ 9 +
      crit.toNat * 2 ^ 8 + h, imm, none⟩

def encMX (mn t sa sb dir sc : Nat) (bk : BarOp) (ty q imm h : Nat) : Frame :=
  ⟨1, mn * 2 ^ 27 + t * 2 ^ 23 + sa * 2 ^ 17 + sb * 2 ^ 11 + dir * 2 ^ 9 + 0x6C * 4 + 1,
    sc * 2 ^ 26 + bk.bar * 2 ^ 21 + bk.be.toNat * 2 ^ 20 + ty * 2 ^ 16 + q * 2 ^ 8 + h, imm, none⟩

def encFX (mn f va sa q imm h : Nat) : Frame :=
  ⟨1, mn * 2 ^ 27 + f * 2 ^ 25 + va * 2 ^ 17 + sa * 2 ^ 11 + 0x74 * 4 + 1, q * 2 ^ 16 + h, imm, none⟩

/-- The encoding of an instruction; an event has none. -/
def encodeFrame : Instr → Option Frame
  | .join tok h => some (encX 1 0 0 tok h none)
  | .ret sa h => some (encX 2 0 sa 0 h none)
  | .exit h => some (encX 3 0 0 0 h none)
  | .tret h => some (encX 4 0 0 0 h none)
  | .yield h => some (encX 5 0 0 0 h none)
  | .sleep c h => some (encX 6 0 c.regField 0 h c.lit?)
  | .bri sa h => some (encX 7 0 sa 0 h none)
  | .calli sa va tok h => some (encX 8 va sa tok h none)
  | .briv sa va tok h => some (encX 9 va sa tok h none)
  | .br t h => some (enc1 0x01 (512 * t.field 23) h t.lit?)
  | .call t h => some (enc1 0x02 (512 * t.field 23) h t.lit?)
  | .bz sa t h => some (enc1 0x03 (0 * 2 ^ 29 + sa * 2 ^ 23 + t.field 14 * 2 ^ 9) h t.lit?)
  | .bnz sa t h => some (enc1 0x03 (1 * 2 ^ 29 + sa * 2 ^ 23 + t.field 14 * 2 ^ 9) h t.lit?)
  | .bltz sa t h => some (enc1 0x03 (2 * 2 ^ 29 + sa * 2 ^ 23 + t.field 14 * 2 ^ 9) h t.lit?)
  | .bgez sa t h => some (enc1 0x03 (3 * 2 ^ 29 + sa * 2 ^ 23 + t.field 14 * 2 ^ 9) h t.lit?)
  | .bgtz sa t h => some (enc1 0x03 (4 * 2 ^ 29 + sa * 2 ^ 23 + t.field 14 * 2 ^ 9) h t.lit?)
  | .blez sa t h => some (enc1 0x03 (5 * 2 ^ 29 + sa * 2 ^ 23 + t.field 14 * 2 ^ 9) h t.lit?)
  | .brv m t tok h => some (enc1 0x04 (m * 2 ^ 27 + tok * 2 ^ 23 + t.field 14 * 2 ^ 9) h t.lit?)
  | .brk m t tok h => some (enc1 0x05 (m * 2 ^ 27 + tok * 2 ^ 23 + t.field 14 * 2 ^ 9) h t.lit?)
  | .ball m t h => some (enc1 0x06 (m * 2 ^ 27 + 0 * 2 ^ 23 + t.field 14 * 2 ^ 9) h t.lit?)
  | .bnone m t h => some (enc1 0x07 (m * 2 ^ 27 + 0 * 2 ^ 23 + t.field 14 * 2 ^ 9) h t.lit?)
  | .srd vx reg sys h => some (enc1 0x08 (0 * 2 ^ 31 + vx.toNat * 2 ^ 30 + reg * 2 ^ 22 + sys.code * 2 ^ 12) h none)
  | .swr vx reg sys h => some (enc1 0x08 (1 * 2 ^ 31 + vx.toNat * 2 ^ 30 + reg * 2 ^ 22 + sys.code * 2 ^ 12) h none)
  | .trap code h => some (enc1 0x09 (code * 2 ^ 9) h none)
  | .spawn sd va entry h => some (enc1 0x0A (sd * 2 ^ 26 + va * 2 ^ 18) h (some entry))
  | .mmov md ma h => some (encM 0 md ma 0 h none)
  | .mand md ma mb h => some (encM 1 md ma mb h none)
  | .mor md ma mb h => some (encM 2 md ma mb h none)
  | .mxor md ma mb h => some (encM 3 md ma mb h none)
  | .mandn md ma mb h => some (encM 4 md ma mb h none)
  | .mnot md ma h => some (encM 5 md ma 0 h none)
  | .mset md b h => some (encM 6 md 0 b.regField h b.lit?)
  | .mpop sd ma h => some (encM 7 sd ma 0 h none)
  | .mfirst sd ma h => some (encM 8 sd ma 0 h none)
  | .ballot sd ma h => some (encM 9 sd ma 0 h none)
  | .vany sd ma h => some (encM 10 sd ma 0 h none)
  | .vall sd ma h => some (encM 11 sd ma 0 h none)
  | .msave sd ma h => some (encM 12 sd ma 0 h none)
  | .mrestore md sa h => some (encM 13 md sa 0 h none)
  | .sadd sd sa sb h => some (encS 0x18 0 sd sa sb h none)
  | .saddImm sd sa b h => some (encS 0x19 0 sd sa (b.field 6) h b.lit?)
  | .ssub sd sa sb h => some (encS 0x18 1 sd sa sb h none)
  | .ssubImm sd sa b h => some (encS 0x19 1 sd sa (b.field 6) h b.lit?)
  | .smul sd sa sb h => some (encS 0x18 2 sd sa sb h none)
  | .smulImm sd sa b h => some (encS 0x19 2 sd sa (b.field 6) h b.lit?)
  | .smulh sd sa sb h => some (encS 0x18 3 sd sa sb h none)
  | .smulhImm sd sa b h => some (encS 0x19 3 sd sa (b.field 6) h b.lit?)
  | .sdiv sd sa sb h => some (encS 0x18 4 sd sa sb h none)
  | .sdivImm sd sa b h => some (encS 0x19 4 sd sa (b.field 6) h b.lit?)
  | .sdivu sd sa sb h => some (encS 0x18 5 sd sa sb h none)
  | .sdivuImm sd sa b h => some (encS 0x19 5 sd sa (b.field 6) h b.lit?)
  | .srem sd sa sb h => some (encS 0x18 6 sd sa sb h none)
  | .sremImm sd sa b h => some (encS 0x19 6 sd sa (b.field 6) h b.lit?)
  | .sremu sd sa sb h => some (encS 0x18 7 sd sa sb h none)
  | .sremuImm sd sa b h => some (encS 0x19 7 sd sa (b.field 6) h b.lit?)
  | .sand sd sa sb h => some (encS 0x18 8 sd sa sb h none)
  | .sandImm sd sa b h => some (encS 0x19 8 sd sa (b.field 6) h b.lit?)
  | .sor sd sa sb h => some (encS 0x18 9 sd sa sb h none)
  | .sorImm sd sa b h => some (encS 0x19 9 sd sa (b.field 6) h b.lit?)
  | .sxor sd sa sb h => some (encS 0x18 10 sd sa sb h none)
  | .sxorImm sd sa b h => some (encS 0x19 10 sd sa (b.field 6) h b.lit?)
  | .sandn sd sa sb h => some (encS 0x18 11 sd sa sb h none)
  | .sandnImm sd sa b h => some (encS 0x19 11 sd sa (b.field 6) h b.lit?)
  | .sshl sd sa sb h => some (encS 0x18 12 sd sa sb h none)
  | .sshlImm sd sa b h => some (encS 0x19 12 sd sa (b.field 6) h b.lit?)
  | .sshr sd sa sb h => some (encS 0x18 13 sd sa sb h none)
  | .sshrImm sd sa b h => some (encS 0x19 13 sd sa (b.field 6) h b.lit?)
  | .ssra sd sa sb h => some (encS 0x18 14 sd sa sb h none)
  | .ssraImm sd sa b h => some (encS 0x19 14 sd sa (b.field 6) h b.lit?)
  | .srot sd sa sb h => some (encS 0x18 15 sd sa sb h none)
  | .srotImm sd sa b h => some (encS 0x19 15 sd sa (b.field 6) h b.lit?)
  | .smin sd sa sb h => some (encS 0x18 16 sd sa sb h none)
  | .sminImm sd sa b h => some (encS 0x19 16 sd sa (b.field 6) h b.lit?)
  | .smax sd sa sb h => some (encS 0x18 17 sd sa sb h none)
  | .smaxImm sd sa b h => some (encS 0x19 17 sd sa (b.field 6) h b.lit?)
  | .sminu sd sa sb h => some (encS 0x18 18 sd sa sb h none)
  | .sminuImm sd sa b h => some (encS 0x19 18 sd sa (b.field 6) h b.lit?)
  | .smaxu sd sa sb h => some (encS 0x18 19 sd sa sb h none)
  | .smaxuImm sd sa b h => some (encS 0x19 19 sd sa (b.field 6) h b.lit?)
  | .smov sd sb h => some (encS 0x18 20 sd 0 sb h none)
  | .smovImm sd b h => some (encS 0x19 20 sd 0 (b.field 6) h b.lit?)
  | .sseq sd sa sb h => some (encS 0x18 21 sd sa sb h none)
  | .sseqImm sd sa b h => some (encS 0x19 21 sd sa (b.field 6) h b.lit?)
  | .sslt sd sa sb h => some (encS 0x18 22 sd sa sb h none)
  | .ssltImm sd sa b h => some (encS 0x19 22 sd sa (b.field 6) h b.lit?)
  | .ssltu sd sa sb h => some (encS 0x18 23 sd sa sb h none)
  | .ssltuImm sd sa b h => some (encS 0x19 23 sd sa (b.field 6) h b.lit?)
  | .sbfx sd sa sb h => some (encS 0x18 24 sd sa sb h none)
  | .sbfxImm sd sa b h => some (encS 0x19 24 sd sa (b.field 6) h b.lit?)
  | .sbfi sd sa sb h => some (encS 0x18 25 sd sa sb h none)
  | .sbfiImm sd sa b h => some (encS 0x19 25 sd sa (b.field 6) h b.lit?)
  | .sclz sd sa h => some (encS 0x18 26 sd sa 0 h none)
  | .sctz sd sa h => some (encS 0x18 27 sd sa 0 h none)
  | .spop sd sa h => some (encS 0x18 28 sd sa 0 h none)
  | .sbrev sd sa h => some (encS 0x18 29 sd sa 0 h none)
  | .vcmp cond md va b ty h => some (encV 0x11 cond.code (md) (va) (b) (0) (ty.code) (0) h)
  | .vshfl vd va b ty h => some (encV 0x12 0 (vd) (va) (b) (0) (ty.code) (0) h)
  | .vshup vd va b ty h => some (encV 0x12 1 (vd) (va) (b) (0) (ty.code) (0) h)
  | .vshdn vd va b ty h => some (encV 0x12 2 (vd) (va) (b) (0) (ty.code) (0) h)
  | .vshxor vd va b ty h => some (encV 0x12 3 (vd) (va) (b) (0) (ty.code) (0) h)
  | .vbcast vd va b ty h => some (encV 0x12 4 (vd) (va) (b) (0) (ty.code) (0) h)
  | .vgred vd va op ty h => some (encV 0x12 5 (vd) (va) (vecZero) (0) (ty.code) (op.code) h)
  | .vscan vd va op ty h => some (encV 0x12 6 (vd) (va) (vecZero) (0) (ty.code) (op.code) h)
  | .vaddInt vd va b ty h => some (encV 0x28 0 (vd) (va) (b) (0) (ty.code) (0) h)
  | .vsubInt vd va b ty h => some (encV 0x28 1 (vd) (va) (b) (0) (ty.code) (0) h)
  | .vmulInt vd va b ty h => some (encV 0x28 2 (vd) (va) (b) (0) (ty.code) (0) h)
  | .vmulh vd va b ty h => some (encV 0x28 3 (vd) (va) (b) (0) (ty.code) (0) h)
  | .vmad vd va b vc ty h => some (encV 0x28 4 (vd) (va) (b) (vc) (ty.code) (0) h)
  | .vabsd vd va b ty h => some (encV 0x28 5 (vd) (va) (b) (0) (ty.code) (0) h)
  | .vadds vd va b ty h => some (encV 0x28 6 (vd) (va) (b) (0) (ty.code) (0) h)
  | .vsubs vd va b ty h => some (encV 0x28 7 (vd) (va) (b) (0) (ty.code) (0) h)
  | .vminInt vd va b ty h => some (encV 0x28 8 (vd) (va) (b) (0) (ty.code) (0) h)
  | .vmaxInt vd va b ty h => some (encV 0x28 9 (vd) (va) (b) (0) (ty.code) (0) h)
  | .vand vd va b ty h => some (encV 0x28 10 (vd) (va) (b) (0) (ty.code) (0) h)
  | .vor vd va b ty h => some (encV 0x28 11 (vd) (va) (b) (0) (ty.code) (0) h)
  | .vxor vd va b ty h => some (encV 0x28 12 (vd) (va) (b) (0) (ty.code) (0) h)
  | .vandn vd va b ty h => some (encV 0x28 13 (vd) (va) (b) (0) (ty.code) (0) h)
  | .vnot vd va ty h => some (encV 0x28 14 (vd) (va) (vecZero) (0) (ty.code) (0) h)
  | .vshl vd va b ty h => some (encV 0x28 15 (vd) (va) (b) (0) (ty.code) (0) h)
  | .vshr vd va b ty h => some (encV 0x28 16 (vd) (va) (b) (0) (ty.code) (0) h)
  | .vsra vd va b ty h => some (encV 0x28 17 (vd) (va) (b) (0) (ty.code) (0) h)
  | .vrot vd va b ty h => some (encV 0x28 18 (vd) (va) (b) (0) (ty.code) (0) h)
  | .vbfx vd va b ty h => some (encV 0x28 19 (vd) (va) (b) (0) (ty.code) (0) h)
  | .vbfi vd va b vc h => some (encV 0x28 20 (vd) (va) (b) (vc) (10) (0) h)
  | .vclz vd va h => some (encV 0x28 21 (vd) (va) (vecZero) (0) (10) (0) h)
  | .vpop vd va h => some (encV 0x28 22 (vd) (va) (vecZero) (0) (10) (0) h)
  | .vbrev vd va h => some (encV 0x28 23 (vd) (va) (vecZero) (0) (10) (0) h)
  | .vsel vd va b mc ty h => some (encV 0x28 24 (vd) (va) (b) (mc) (ty.code) (0) h)
  | .vmov vd b ty h => some (encV 0x28 25 (vd) (0) (b) (0) (ty.code) (0) h)
  | .vprmt vd va b vc h => some (encV 0x28 26 (vd) (va) (b) (vc) (10) (0) h)
  | .vaddFp vd va b ty rm h => some (encV 0x38 0 (vd) (va) (b) (0) (ty.code) (rm.code) h)
  | .vsubFp vd va b ty rm h => some (encV 0x38 1 (vd) (va) (b) (0) (ty.code) (rm.code) h)
  | .vmulFp vd va b ty rm h => some (encV 0x38 2 (vd) (va) (b) (0) (ty.code) (rm.code) h)
  | .vfma vd va b vc ty rm h => some (encV 0x38 3 (vd) (va) (b) (vc) (ty.code) (rm.code) h)
  | .vfms vd va b vc ty rm h => some (encV 0x38 4 (vd) (va) (b) (vc) (ty.code) (rm.code) h)
  | .vfnma vd va b vc ty rm h => some (encV 0x38 5 (vd) (va) (b) (vc) (ty.code) (rm.code) h)
  | .vminFp vd va b ty h => some (encV 0x38 6 (vd) (va) (b) (0) (ty.code) (0) h)
  | .vmaxFp vd va b ty h => some (encV 0x38 7 (vd) (va) (b) (0) (ty.code) (0) h)
  | .vabs vd va ty h => some (encV 0x38 8 (vd) (va) (vecZero) (0) (ty.code) (0) h)
  | .vneg vd va ty h => some (encV 0x38 9 (vd) (va) (vecZero) (0) (ty.code) (0) h)
  | .vcpysgn vd va b ty h => some (encV 0x38 10 (vd) (va) (b) (0) (ty.code) (0) h)
  | .vrcp vd va ty rm h => some (encV 0x38 11 (vd) (va) (vecZero) (0) (ty.code) (rm.code) h)
  | .vrsq vd va ty rm h => some (encV 0x38 12 (vd) (va) (vecZero) (0) (ty.code) (rm.code) h)
  | .vsqrt vd va ty rm h => some (encV 0x38 13 (vd) (va) (vecZero) (0) (ty.code) (rm.code) h)
  | .vexp2 vd va ty h => some (encV 0x38 14 (vd) (va) (vecZero) (0) (ty.code) (0) h)
  | .vlog2 vd va ty h => some (encV 0x38 15 (vd) (va) (vecZero) (0) (ty.code) (0) h)
  | .vsin vd va ty h => some (encV 0x38 16 (vd) (va) (vecZero) (0) (ty.code) (0) h)
  | .vcos vd va ty h => some (encV 0x38 17 (vd) (va) (vecZero) (0) (ty.code) (0) h)
  | .vfloor vd va ty h => some (encV 0x38 18 (vd) (va) (vecZero) (0) (ty.code) (0) h)
  | .vceil vd va ty h => some (encV 0x38 19 (vd) (va) (vecZero) (0) (ty.code) (0) h)
  | .vtrunc vd va ty h => some (encV 0x38 20 (vd) (va) (vecZero) (0) (ty.code) (0) h)
  | .vround vd va ty rm h => some (encV 0x38 21 (vd) (va) (vecZero) (0) (ty.code) (rm.code) h)
  | .vfract vd va ty h => some (encV 0x38 22 (vd) (va) (vecZero) (0) (ty.code) (0) h)
  | .vclass vd va ty h => some (encV 0x38 23 (vd) (va) (vecZero) (0) (ty.code) (0) h)
  | .tseed vd k b h => some (encV 0x39 0 (vd) (0) (b) (k) (0) (0) h)
  | .tzero vd slot h => some (encV 0x39 1 (vd) (0) (vecZero) (slot.elim 128 id) (0) (0) h)
  | .tget vd va k h => some (encV 0x39 2 (vd) (va) (vecZero) (16 * k) (0) (0) h)
  | .tset vd k b h => some (encV 0x39 3 (vd) (0) (b) (k) (0) (0) h)
  | .tmov vd j va k h => some (encV 0x39 4 (vd) (va) (vecZero) (16 * k + j) (0) (0) h)
  | .vcvt vd va ty ts rm h => some (encV 0x50 0 (vd) (va) (vecZero) (ts.code) (ty.code) (rm.code) h)
  | .vcvtsr vd va b n ty h => some (encV 0x50 1 (vd) (va) (b) (n) (ty.code) (0) h)
  | .vrand vd va h => some (encV 0x50 2 (vd) (va) (vecZero) (0) (11) (0) h)
  | .vrseed vd va h => some (encV 0x50 3 (vd) (va) (vecZero) (0) (11) (0) h)
  | .vpack vd va b ty ts hi rm h => some (encV 0x50 4 (vd) (va) (b) (16 * hi.toNat + ts.code) (ty.code) (rm.code) h)
  | .vunpk vd va k ty ts h => some (encV 0x50 5 (vd) (va) (vecZero) (16 * k + ts.code) (ty.code) (0) h)
  | .ld vd a ty du o h => some (encL 0 vd a du ty.code (0) (0) o h)
  | .st vd a ty du o h => some (encL 1 vd a du ty.code (0) (0) o h)
  | .ldt vd a ty du n h => some (encL 2 vd a du ty.code (0) (n) ⟨.plain, .lane, false⟩ h)
  | .stt vd a ty du n h => some (encL 3 vd a du ty.code (0) (n) ⟨.plain, .lane, false⟩ h)
  | .ldw vd a ty h => some (encL 4 vd a false ty.code (0) (0) ⟨.plain, .lane, false⟩ h)
  | .sld sd a ty o h => some (encL 5 sd a false ty.code (0) (0) o h)
  | .sst sd a ty o h => some (encL 6 sd a false ty.code (0) (0) o h)
  | .atom vd a vc op ty o h => some (encL 7 vd a false ty.code (op.code) (vc) o h)
  | .acas vd a vc ty o h => some (encL 8 vd a false ty.code (0) (vc) o h)
  | .cpy sa bk h => some (encE 0 (0) (0) (0) (sa) bk (0) (0) (0) false (0) h)
  | .gath vd va w off ty h => some (encE 1 (vd) (va) (0) (0) ⟨false, 0⟩ (w) (ty.code) (0) false (patternOf 32 off) h)
  | .scat vd va w off ty h => some (encE 2 (vd) (va) (0) (0) ⟨false, 0⟩ (w) (ty.code) (0) false (patternOf 32 off) h)
  | .pld vd va w off ty h => some (encE 3 (vd) (va) (0) (0) ⟨false, 0⟩ (w) (ty.code) (0) false (patternOf 32 off) h)
  | .pst vd va w off ty h => some (encE 4 (vd) (va) (0) (0) ⟨false, 0⟩ (w) (ty.code) (0) false (patternOf 32 off) h)
  | .red vd va w off op ty ord crit h => some (encE 5 (vd) (va) (ord.code) (0) ⟨false, 0⟩ (w) (ty.code) (op.code) crit (patternOf 32 off) h)
  | .amg vd va w off op ty ord crit h => some (encE 6 (vd) (va) (ord.code) (0) ⟨false, 0⟩ (w) (ty.code) (op.code) crit (patternOf 32 off) h)
  | .tex vd va sa l0 h => some (encE 7 (vd) (va) (0) (sa) ⟨false, 0⟩ (0) (0) (l0.toNat) false (0) h)
  | .texg vd va sa l0 h => some (encE 8 (vd) (va) (0) (sa) ⟨false, 0⟩ (0) (0) (l0.toNat) false (0) h)
  | .isect vd va sa bk h => some (encE 9 (vd) (va) (0) (sa) bk (0) (0) (0) false (0) h)
  | .visq vd va sa bk h => some (encE 10 (vd) (va) (0) (sa) bk (0) (0) (0) false (0) h)
  | .coll kind op ty sa bar group h => some (encE 11 (0) (0) (0) (sa) ⟨false, bar⟩ (0) (ty.code) (4 * kind.code + op.code) false (group) h)
  | .wbind w perm sa lim h => some (enc1 0x61 (w * 2 ^ 24 + perm.code * 2 ^ 21 + sa * 2 ^ 15 + lim.regField * 2 ^ 9) h lim.lit?)
  | .winv w h => some (enc1 0x61 (2 ^ 27 + w * 2 ^ 24) h none)
  | .waitc cls n h => some (enc1 0x68 (cls.code * 2 ^ 23 + n * 2 ^ 12) h none)
  | .binit bar n h => some (encBA 0 bar n.regField 0 false h n.lit?)
  | .expect bar n h => some (encBA 1 bar n.regField 0 false h n.lit?)
  | .arrive sd bar rel crit h => some (encBA 2 bar sd (2 * rel.toNat) crit h none)
  | .waitb sd bar acq crit h => some (encBA 3 bar sd acq.toNat crit h none)
  | .testb sd bar h => some (encBA 4 bar sd 0 false h none)
  | .fence sc ord h => some (enc1 0x6A (sc.code * 2 ^ 29 + ord.code * 2 ^ 27) h none)
  | .mstat ws src sc bk ty off h => some (encMX 0 (0) (src.sa) (src.sb) (0) (sc) bk (ty.code) (ws.toNat + src.q) (patternOf 32 off) h)
  | .mloop t back sa sb sc bk ty h => some (encMX 1 (t) (sa) (sb) (1 + back.toNat) (sc) bk (ty.code) (0) (0) h)
  | .mzero t first count bk h => some (encMX 2 (t) (0) (0) (0) (0) bk (0) (0) (first + 1024 * count) h)
  | .mdrain t win sa sb add bk ty off h => some (encMX 3 (t) (sa) (sb) (0) (0) bk (ty.code) (add.toNat + win.elim 0 (fun w => 2 + 4 * w)) (patternOf 32 off) h)
  | .mbind t first count h => some (encMX 4 (t) (0) (0) (0) (0) ⟨false, 0⟩ (0) (0) (first + 1024 * count) h)
  | .mfree t h => some (encMX 5 (t) (0) (0) (0) (0) ⟨false, 0⟩ (0) (0) (0) h)
  | .mrinit ring k h => some (encMX 6 (0) (0) (0) (0) (0) ⟨false, 0⟩ (0) (4 * ring) (k) h)
  | .mrpush ring sa sb h => some (encMX 7 (0) (sa) (sb) (0) (0) ⟨false, 0⟩ (0) (4 * ring) (0) h)
  | .mrrel ring sb h => some (encMX 8 (0) (0) (sb) (0) (0) ⟨false, 0⟩ (0) (4 * ring) (0) h)
  | .mqsr sd sel h => some (encMX 9 (0) (0) (0) (0) (sd) ⟨false, 0⟩ (0) (sel) (0) h)
  | .finit f slot n h => some (encFX 0 f (0) (0) (0) (slot + 256 * n) h)
  | .fupd f va h => some (encFX 1 f (va) (0) (0) (0) h)
  | .fdown f va h => some (encFX 2 f (va) (0) (0) (0) h)
  | .fsolve f va tr h => some (encFX 3 f (va) (0) (tr.toNat) (0) h)
  | .flogdet f sd h => some (encFX 4 f (0) (sd) (0) (0) h)
  | .fdrain f sa off h => some (encFX 5 f (0) (sa) (0) (patternOf 32 off) h)
  | .fload f sa off h => some (encFX 6 f (0) (sa) (0) (patternOf 32 off) h)
  | .ffree f h => some (encFX 7 f (0) (0) (0) (0) h)
  | .nop h => some (enc1 0x7F (0 * 2 ^ 27) h none)
  | .hint h => some (enc1 0x7F (1 * 2 ^ 27) h none)
  | .pref h => some (enc1 0x7F (2 * 2 ^ 27) h none)
  | .accownSwitch _ _ => none
  | .splitPromotion _ _ => none
  | .criticalLimitExpiry _ => none
  | .sleepExpiry _ _ => none
  | .refreshWindow _ => none
  | .refreshWindowEnd _ => none
  | .scratchpadLoadDelivery _ _ => none
  | .engineOperationComplete _ _ => none
  | .barrierLanding _ _ _ => none
  | .writeApply _ _ => none
  | .matrixOperationExecute _ => none
  | .factorOperationExecute _ => none
  | .powerGrant _ => none
  | .grantExpiry _ _ => none
  | .rayAdmit _ _ _ => none
  | .rayComplete _ _ _ => none
  | .groupRetire _ => none
  | .launch _ _ => none
  | .wsload _ _ => none
  | .wsloadComplete _ _ => none
  | .waitev _ _ => none
  | .signal _ _ => none
  | .signalComplete _ _ => none
  | .queueNop _ _ => none
  | .wptrWrite _ _ _ => none
  | .rptrRewrite _ _ _ => none
  | .gangDispatch _ _ _ => none
  | .stallWindow => none
  | .stallGangSave _ => none
  | .gangRestore _ _ _ => none
  | .preemptionRequest _ => none
  | .drainTimerExpiry _ => none
  | .quantumExpiry _ => none
  | .contextSave _ => none
  | .contextRestore _ _ => none
  | .forcedReset _ => none
  | .contextCreate _ _ => none
  | .contextDestroy _ => none
  | .contextDescriptorWrite _ _ => none
  | .partitionAdd _ _ => none
  | .partitionWithdraw _ _ => none
  | .quarterRelease _ => none
  | .bandResume _ _ _ _ _ => none
  | .vfBind _ _ => none
  | .vfSuspend _ => none
  | .vfResume _ => none
  | .guestSwitchStep _ _ => none
  | .translationUpdate _ _ => none
  | .wsmapUpdate _ _ => none
  | .shootDown _ _ _ _ => none
  | .shootDownAck _ _ => none
  | .shootDownTimeout _ _ => none
  | .escalationResume _ => none
  | .translationPublish _ _ _ => none
  | .heapResume _ => none
  | .collectiveGroupWrite _ _ _ _ => none
  | .hostWrite _ _ => none
  | .readRequest _ _ => none
  | .readData _ _ => none
  | .write _ _ => none
  | .acknowledgement _ _ => none
  | .collective _ _ => none
  | .shootDownFlit _ _ => none
  | .replayRequest _ _ => none
  | .idleFlit _ _ => none
  | .linkTraining _ => none
  | .trainingComplete _ _ _ => none
  | .linkTimeout _ => none
  | .portReset _ => none
  | .headDescriptor _ _ => none
  | .frameLatch _ => none
  | .candidateComplete _ _ _ => none
  | .bandDeadline _ _ => none
  | .frameEnd _ => none
  | .encoderTileRow _ _ => none
  | .headRebind _ _ => none
  | .packageReset => none
  | .recoveryImageLoad _ => none
  | .deviceReady _ => none
  | .commitImage => none
  | .attestationRequest _ _ => none
  | .violation _ => none
  | .masterRelease _ => none
  | .thermalThrottle _ _ => none
  | .thermalRestore _ _ => none
  | .thermalStop _ _ => none
  | .illegalInstructionWord _ => none
  | .badCrcFlit _ _ => none
  | .stackQuotaAssignment _ _ _ => none
  | .arithmeticClockRestart => none

/-- The words of an instruction, in address order; none for an event. -/
def encodeWords (i : Instr) : List Nat := ((encodeFrame i).map Frame.words).getD []

/-- The bytes of an instruction, in address order (R36); none for an event. -/
def encode (i : Instr) : List Byte := (encodeWords i).flatMap (bytesOf 4)

/-- The instruction that decoding reads from nbits bits numbered as spec/opcode_table.json numbers them, bit 0 the least
significant of the first word; every bit above nbits is zero. -/
def decodeTableWord (nbits w : Nat) : Option Instr :=
  match decode (bytesOf 20 (w % 2 ^ nbits)) with
  | .instr i => some i
  | .reject _ => none

end Sys2Proof
end

