-- ==== Sys2Proof/Machine/Sparse.lean ====
section
/-!
DEFINITION. Sparse maps: lists of key and value pairs, keys strictly rising, no value equal to what an absent key
reads as. Memories, register files, tables and the sets of objects of the machine are held in this one form, so that
equal contents are equal data.
-/

namespace Sys2Proof.Machine

/-- Pairs of a key and a value. A byte memory of this form is a list of Host.Cell. -/
abbrev Sparse (α : Type) := List (Nat × α)

/-- The value at key k, or d where k is not listed. -/
def Sparse.get {α : Type} (d : α) : Sparse α → Nat → α
  | [], _ => d
  | (j, v) :: m, k => if j = k then v else Sparse.get d m k

/-- Put v at key k, in the order of the keys. -/
def Sparse.put {α : Type} : Sparse α → Nat → α → Sparse α
  | [], k, v => [(k, v)]
  | (j, w) :: m, k, v =>
    if k < j then (k, v) :: (j, w) :: m else if k = j then (k, v) :: m else (j, w) :: Sparse.put m k v

/-- Take the entry at key k away. -/
def Sparse.drop {α : Type} (m : Sparse α) (k : Nat) : Sparse α := m.filter fun p => decide (p.1 ≠ k)

/-- Put v at key k; putting d takes the entry away. -/
def Sparse.set {α : Type} [DecidableEq α] (d : α) (m : Sparse α) (k : Nat) (v : α) : Sparse α :=
  if v = d then Sparse.drop m k else Sparse.put m k v

/-- Every key of m lies above lo. -/
def Sparse.above {α : Type} (lo : Nat) : Sparse α → Bool
  | [] => true
  | (j, _) :: _ => decide (lo < j)

/-- The canonical form: keys strictly rising, no listed value equal to d. -/
def Sparse.wf {α : Type} [DecidableEq α] (d : α) : Sparse α → Bool
  | [] => true
  | (j, v) :: m => decide (v ≠ d) && Sparse.above j m && Sparse.wf d m

/-- The keys that are listed. -/
def Sparse.keys {α : Type} (m : Sparse α) : List Nat := m.map Prod.fst

/-- Change the value at k by f. -/
def Sparse.modify {α : Type} [DecidableEq α] (d : α) (m : Sparse α) (k : Nat) (f : α → α) : Sparse α :=
  Sparse.set d m k (f (Sparse.get d m k))

/-- Every listed value v at key k becomes f k v; entries that come to read as d are taken away. -/
def Sparse.mapVals {α : Type} [DecidableEq α] (d : α) (f : Nat → α → α) : Sparse α → Sparse α
  | [] => []
  | (k, v) :: m => if f k v = d then Sparse.mapVals d f m else (k, f k v) :: Sparse.mapVals d f m

/-- Put a list of values at rising keys from k on. -/
def Sparse.setRange {α : Type} [DecidableEq α] (d : α) (m : Sparse α) (k : Nat) : List α → Sparse α
  | [] => m
  | v :: vs => Sparse.setRange d (Sparse.set d m k v) (k + 1) vs

/-- The n values from key k on. -/
def Sparse.getRange {α : Type} (d : α) (m : Sparse α) (k n : Nat) : List α :=
  (List.range n).map fun i => Sparse.get d m (k + i)

/-- The entries whose key lies outside [lo, hi): the others read as d again. -/
def Sparse.clearRange {α : Type} (m : Sparse α) (lo hi : Nat) : Sparse α :=
  m.filter fun p => decide (p.1 < lo) || decide (hi ≤ p.1)

/-- A memory: bytes by address; what an unlisted address reads as is 0 (R399 clears every memory). -/
abbrev Memory := Sparse (BitVec 8)

/-- The canonical form of a memory. -/
def Memory.wf (m : Memory) : Bool := Sparse.wf 0 m

end Sys2Proof.Machine
end

