-- ==== Sys2Proof/Machine/State.lean ====
section
/-!
DEFINITION. The state of one D8: every piece of state the manual gives the machine, as plain data. Register files,
memories, tables and the sets of groups, gangs, grids, contexts and the like are sparse maps (Machine/Sparse.lean), each
with the value that an unlisted key reads as. Five fields are the model's own: agenda, cur, was, fresh and
stands.
-/

namespace Sys2Proof.Machine

/-- A stamp or vector clock: eight counts, one per die (R279, R281); an unlisted die counts 0. -/
abbrev Stamp := Sparse Nat

/-- What the manual attaches to a byte of HBM beside its value: its place in coherence order (R276), the stamp of the
write that put it there (R279), the poison marker, and whether an uncorrectable data error stands in the byte (R205; nothing
inside the device brings one about, and a write ends it, log 59). -/
structure Mark where
  seq : Nat
  stamp : Stamp
  poison : Bool
  bad : Bool
  deriving DecidableEq, Repr

/-- A byte no write has changed since memory was cleared: no stamp, no poison, no error (R279). -/
def Mark.clear : Mark := ⟨0, [], false, false⟩

/-! ## Groups -/

/-- A register that the scoreboard can hold pending (R127). A vector register stands for its tangents too. -/
inductive RegId where
  | v (r : Nat)
  | s (r : Nat)
  | m (r : Nat)
  | w (r : Nat)
  | t (r : Nat)
  | f (r : Nat)
  deriving DecidableEq, Repr

/-- STATE of a split-table entry (R109, R110). -/
inductive SplitState where
  | runnable | waiting | joining | held
  deriving DecidableEq, Repr

/-- What a waiting split waits for, and how the wait ends (R152, R214, R216): next is the PC after the wait. A joining split keeps the length of its JOIN. -/
inductive Wait where
  | none
  | counter (cls : Cls) (n : Nat) (next : Addr52)
  | barrier (bar : Nat) (gen : Nat) (sd : Nat) (acq crit : Bool) (next : Addr52)
  | sleep (count wake : Nat) (next : Addr52)
  | join (words : Nat)
  deriving DecidableEq, Repr

/-- What holds a split at issue beside the scoreboard: a power request (R238, R258, R397), a grant given and not yet
used, a switch of the accumulator bank (R249), a translation request (R327), a host escalation (R352). -/
inductive Hold where
  | none | power | granted | translation | escalation
  | accown (release : Bool) (next : Addr52)
  deriving DecidableEq, Repr

/-- An entry of the split table (R109). promoted is the CLOCK value at which the split was promoted (R129). -/
structure Split where
  v : Bool
  state : SplitState
  hstate : SplitState
  sup : Bool
  pc : Addr52
  mask : Word32
  tok : Nat
  age : Nat
  promoted : Option Nat
  wait : Wait
  hold : Hold
  deriving DecidableEq, Repr

/-- A free entry. -/
def Split.free : Split := ⟨false, .runnable, .runnable, false, 0, 0, 16, 0, none, .none, .none⟩

/-- KIND of a reconvergence-stack entry (R111). -/
inductive EntryKind where
  | joining | deferred | join | trap
  deriving DecidableEq, Repr

/-- A reconvergence-stack entry (R111). words is the length of the JOIN at PC of a joining entry, which word 0 at that PC
gives (R36); 0 for the other kinds. -/
structure StackEntry where
  cause : Nat
  tok : Nat
  kind : EntryKind
  sup : Bool
  mask : Word32
  pc : Addr52
  words : Nat
  deriving DecidableEq, Repr

/-- A window register (R202). sup keeps the S bit of the leaf behind FRAME, so that the fast path refuses a user split that
the leaf refuses (R189, R347). -/
structure Window where
  valid : Bool
  base : Nat
  perm : Perm
  frame : Nat
  flim : Nat
  sup : Bool
  deriving DecidableEq, Repr

/-- An unbound window. -/
def Window.unbound : Window := ⟨false, 0, .r, 0, 0, false⟩

/-- The binding of a tile handle: first tile and count, or none (R221). -/
abbrev Run := Option (Nat × Nat)

/-- The binding of a factor handle: slot and dimension, or none (R254). -/
abbrev FBind := Option (Nat × Nat)

/-- An entry of the lane fault file: LCAUSE, ACC, SPACE and ADDR (R353, R354). -/
structure LaneFault where
  lcause : Nat
  acc : Nat
  space : Nat
  addr : Nat
  deriving DecidableEq, Repr

/-- An entry nothing has written. -/
def LaneFault.zero : LaneFault := ⟨0, 0, 0, 0⟩

/-- A scratchpad or weight-store load that has issued and not delivered (R199, R200): its destinations, and the CLOCK
value at which it delivers. -/
structure Delivery where
  dests : List RegId
  due : Nat
  deriving DecidableEq, Repr

/-- What a kernel declares and its groups and gang need to know (R27, R79, R131, R314). -/
structure Decl where
  c : Nat
  d : Nat
  n : Nat
  bf16 : Bool
  roles : List Nat
  spad : Nat
  barmask : Nat
  deriving DecidableEq, Repr

/-- No declaration. -/
def Decl.none : Decl := ⟨0, 0, 0, false, [], 0, 0⟩

/-! ## Engine operations -/

/-- Where an engine finds a byte: the scratchpad of a gang, the weight store of a die, physical memory, nowhere
(an address that no mapping backs reads as poison), or a translation that an engine could not make. -/
inductive Place where
  | spad (gang : Nat) (a : Nat)
  | ws (die : Nat) (off : Nat)
  | phys (pa : Nat)
  | unread
  deriving DecidableEq, Repr

/-- One lane's element of a lane engine form (R210): its lane, its virtual address, the place of its element and the data
it carries. -/
structure LaneItem where
  lane : Nat
  va : Nat
  place : Place
  data : Nat
  carry : Stamp
  deriving DecidableEq, Repr

/-- The lane engine forms (R210, R211). -/
inductive LaneForm where
  | load | store | red | amg
  deriving DecidableEq, Repr

/-- A side of a copy, as the descriptor names it and as its pages were translated at issue: scratchpad of the gang, a
window with its frames (virtual page number to physical page base, in 64 KiB pages), or the weight store with the map
in force. -/
inductive Side where
  | spad (gang : Nat)
  | window (base : Nat) (frames : Sparse Nat)
  | ws (die : Nat) (map : Sparse Nat)
  deriving DecidableEq, Repr

/-- A copy descriptor read at issue (R207): its 256 bytes as one number, the records of its duplication map (R74, R76), the
two sides, and what the kernel declares, for the dual mode (R96, R101). -/
structure CopyWork where
  raw : Nat
  dup : List Nat
  src : Side
  dst : Side
  decl : Decl
  deriving DecidableEq, Repr

/-- A ray or a sample of one lane (R383, R385, R387): its operands, and whether it has been admitted or has finished
with the five result words. -/
structure Ray where
  lane : Nat
  args : List Nat
  carry : Stamp
  admitted : Bool
  result : Option (List Nat)
  deriving DecidableEq, Repr

/-- One texture sample: its lane, u and v, and the four footprint tangents as FP32 bits (R102, R390). -/
structure Sample where
  lane : Nat
  u : Nat
  v : Nat
  foot : List Nat
  carry : Stamp
  deriving DecidableEq, Repr

/-- A matrix operation as it arrives at the sequencer (R224, R225), with what it read at issue. -/
inductive MatrixOp where
  | mstat (ty : Ty) (ws : Bool) (addr : Nat) (map : Option Nat)
  | mloop (t : Run) (back : Bool) (ty : Ty) (addr : Nat) (incS : Int) (incA count : Nat)
  | mzero (t : Run)
  | mdrain (t : Run) (dst : Side) (addr : Nat) (scale : Nat) (add : Bool) (ty : Ty)
  | mbind (t : Run)
  | mfree (t : Run)
  deriving DecidableEq, Repr

/-- A factor operation as it reaches the sweeper (R258), with the vector or the address it read at issue. -/
inductive FactorOp where
  | finit
  | fupd (x : List Nat)
  | fdown (x : List Nat)
  | fsolve (va : Nat) (x : List Nat) (tr : Bool)
  | flogdet (sd : Nat)
  | fdrain (addr : Nat)
  | fload (addr : Nat)
  | ffree
  deriving DecidableEq, Repr

/-- A collective as the rank of this device joins it (R213, R365): the command and its descriptor, the number it has on its
group, whether the descriptor is ill-formed, its two sides, and the count of ranks with this rank's number. -/
structure CollWork where
  kind : CollKind
  op : CollOp
  ty : Ty
  group : Nat
  no : Nat
  desc : Nat
  bad : Bool
  src : Side
  dst : Side
  ranks : Nat
  rank : Nat
  deriving DecidableEq, Repr

/-- What an operation does (R203, R225, R258). -/
inductive OpKind where
  | empty
  | copy (w : CopyWork)
  | lanes (form : LaneForm) (vd : Nat) (ty : Ty) (op : Comb) (ord : MemOrd) (crit : Bool) (items : List LaneItem)
  | tex (gather : Bool) (vd : Nat) (desc : Nat) (win : Window) (level0 : Bool) (samples : List Sample)
  | ray (vis : Bool) (vd : Nat) (desc : Nat) (win : Window) (rays : List Ray)
  | coll (w : CollWork)
  | matrix (m : MatrixOp)
  | factor (f slot n : Nat) (x : FactorOp)
  deriving DecidableEq, Repr

/-- A write an operation has still to perform: the place and bytes of one indivisible element, or, for a tile of an
add-on-store, the places of its elements and the F32 patterns to be added to what stands there (R243, R244). -/
structure Pending where
  place : Place
  bytes : List Byte
  poison : Bool
  adds : List (Place × Nat)
  ty : Ty
  deriving DecidableEq, Repr

/-- An operation of a group that has issued and not retired (R203). begun: its sources have been read or the sequencer or
sweeper has carried it out; writes: what it has still to write; results: what lands in registers at completion; asked, got
and lost: the addresses for which a request has gone out over a link, the bytes that answers have brought, and the addresses whose
request was lost with its port; cut: the chips whose port left while a request of the operation was in flight on it (R363); pages: the virtual pages of 64 KiB that the
lanes' translations at issue went through (R355). -/
structure Op where
  id : Nat
  cls : Cls
  pc : Addr52
  sup : Bool
  kind : OpKind
  bar : Option Nat
  nominal : Nat
  begun : Bool
  writes : List Pending
  results : List (RegId × Nat × Nat)
  dests : List RegId
  counted : Nat
  status : Word32
  fault : Option Word64
  carry : Stamp
  stamp : Stamp
  laneStamps : Sparse Stamp
  asked : List Nat
  got : Sparse (Option Byte)
  lost : List Nat
  cut : List Nat
  pages : List Nat
  done : Bool
  deriving DecidableEq, Repr

/-! ## Group records -/

/-- Life of a group (R108). -/
inductive GroupLife where
  | free | resident | trapped | frozen | flashed | retiring
  deriving DecidableEq, Repr

/-- Registers a flashback point saves: all, or those of its table entry (R30, R316). -/
inductive SavedSet where
  | all
  | some (regs : List RegId)
  deriving DecidableEq, Repr

/-- A recipe that runs (R30): the lanes that have not returned from it, the PC of the point, and the value of s63 to write
back when s63 is in the saved set. -/
structure Recipe where
  lanes : Word32
  point : Addr52
  link : Option Word64
  deriving DecidableEq, Repr

/-- A fence that has issued and is not complete (R219): its scope and order, the lanes of em at its issue, and the number from
which operations are younger than it. -/
structure Fence where
  scope : Scope
  ord : MemOrd
  lanes : Word32
  upTo : Nat
  deriving DecidableEq, Repr

/-- The control snapshot of a flashback point (R334), with the recipes that run at it (R30) and the fences that are not
complete (R219). -/
structure Snapshot where
  splits : Sparse Split
  stack : List StackEntry
  w : Sparse Window
  t : Sparse Run
  f : Sparse FBind
  crit : Nat
  mxstat : Word32
  latch : Option Word64
  tlost : Word32
  edge : Word32
  recipes : List Recipe
  fences : List Fence
  deriving DecidableEq, Repr

/-- The rewind record (R334). entry is the split-table entry that stands at the point. -/
structure Rewind where
  pc : Addr52
  entry : Nat
  saved : SavedSet
  recipe : Option Nat
  snap : Snapshot
  deriving DecidableEq, Repr

/-- SIZE and INDEX of the levels above the lane (R16, R17). -/
structure Position where
  groupSize : Nat
  groupIdx : Nat
  gangSize : Nat
  gangIdx : Nat
  bandSize : Nat
  bandIdx : Nat
  spanSize : Nat
  spanIdx : Nat
  gridSize : Nat
  gridIdx : Nat
  deriving DecidableEq, Repr

/-- A group (R106 to R108). The stack stands topmost entry first. wrote is the maximum of the stamps of the group's own
writes, and clsStamp that of the completed operations of each class (R283, R284). seen gives, for byte a and observer l (a
lane, or 32 for the group's other engine reads) under 64 a + l, the place in coherence order of what a read at the home
returned (R276, R282). recipes are those that run, innermost first. -/
structure Group where
  life : GroupLife
  ctx : Nat
  grid : Nat
  gang : Nat
  prio : Nat
  decl : Decl
  pos : Position
  v : Sparse Word32
  tan : Sparse Word32
  s : Sparse Word64
  m : Sparse Word32
  w : Sparse Window
  t : Sparse Run
  f : Sparse FBind
  ops : List Op
  deliveries : List Delivery
  tlost : Word32
  edge : Word32
  splits : Sparse Split
  stack : List StackEntry
  crit : Nat
  critSince : Nat
  critSpent : Bool
  mxstat : Word32
  latch : Option Word64
  faults : Sparse LaneFault
  faultLane : Nat
  faultWord : Word64
  horizon : Sparse Stamp
  groupHorizon : Stamp
  wrote : Stamp
  clsStamp : Sparse Stamp
  seen : Sparse Nat
  fences : List Fence
  rewind : Bool
  record : Option Rewind
  recipes : List Recipe
  drain : Option Nat
  preempt : Bool
  escalated : Bool
  answered : Bool
  exitPc : Addr52
  waitedCycles : Nat
  waitSince : Nat
  gctx : Nat
  deriving DecidableEq, Repr

/-- A free group context. -/
def Group.free : Group :=
  { life := .free, ctx := 0, grid := 0, gang := 0, prio := 0, decl := Decl.none,
    pos := ⟨0, 0, 0, 0, 0, 0, 0, 0, 0, 0⟩, v := [], tan := [], s := [], m := [], w := [], t := [], f := [],
    ops := [], deliveries := [], tlost := 0, edge := 0, splits := [], stack := [], crit := 0, critSince := 0,
    critSpent := false, mxstat := 0, latch := none, faults := [], faultLane := 0, faultWord := 0, horizon := [],
    groupHorizon := [], wrote := [], clsStamp := [], seen := [], fences := [], rewind := false, record := none, recipes := [],
    drain := none, preempt := false,
    escalated := false, answered := false, exitPc := 0, waitedCycles := 0, waitSince := 0, gctx := 0 }

/-! ## Gangs and grids -/

/-- A barrier object (R300) with its stamp (R284). gathered holds the stamps of the open phase; collNow and collGens say
whether the open phase, and which earlier ones, counted bytes of a collective (R287). -/
structure Barrier where
  status : Word32
  gen : Nat
  arrived : Nat
  exparr : Nat
  landed : Nat
  expb : Nat
  stamp : Stamp
  gathered : Stamp
  collNow : Bool
  collGens : List Nat
  deriving DecidableEq, Repr

/-- A barrier slot as arming leaves it with no arrivals expected. -/
def Barrier.zero : Barrier := ⟨0, 0, 0, 0, 0, 0, [], [], false, []⟩

/-- Life of a gang (R325). -/
inductive GangLife where
  | undispatched | resident | saved | retired
  deriving DecidableEq, Repr

/-- A gang (R15, R96, R320, R325): its scratchpad, its barriers, and while it is saved its groups. errs gives the status bits of
R205 that stand in a byte of the scratchpad, which an engine that reads it raises (R259, R266); nothing inside the device brings
one about, and a write ends it (log 59). -/
structure Gang where
  life : GangLife
  ctx : Nat
  grid : Nat
  core : Nat
  span : Nat
  band : Nat
  idx : Nat
  decl : Decl
  spad : Memory
  errs : Sparse Nat
  bars : Sparse Barrier
  launched : Nat
  nextIdx : Nat
  saved : List Group
  chosen : Bool
  savedAt : Nat
  deriving DecidableEq, Repr

/-- No gang. -/
def Gang.none : Gang :=
  { life := .retired, ctx := 0, grid := 0, core := 0, span := 0, band := 0, idx := 0, decl := Decl.none, spad := [],
    errs := [], bars := [], launched := 0, nextIdx := 0, saved := [], chosen := false, savedAt := 0 }

/-- A weight-store map entry in units of bytes (R349). -/
structure WsEntry where
  base : Nat
  phys : Nat
  len : Nat
  wr : Bool
  rd : Bool
  dies : Nat
  deriving DecidableEq, Repr

/-- A factor slot (R253, R255): its dimension, the band that owns it, and the stored elements by 128 k + j. -/
structure FactorSlot where
  live : Bool
  n : Nat
  grid : Nat
  span : Nat
  band : Nat
  u : Sparse Word32
  deriving DecidableEq, Repr

/-- A free factor slot. -/
def FactorSlot.free : FactorSlot := ⟨false, 0, 0, 0, 0, []⟩

/-- A band saved off its quarter: which band, and its live factor slots (R257, R342). -/
structure SavedBand where
  span : Nat
  band : Nat
  slots : Sparse FactorSlot
  deriving DecidableEq, Repr

/-- A grid (R319 to R325). quarters gives the device quarter of each band by 4 span + band, and left the quarter that a band
without one was withdrawn from (R342). lastRetire and lastFlip hold one more than a clock value, or 0 (R323). -/
structure Grid where
  live : Bool
  ctx : Nat
  queue : Nat
  evid : Nat
  prio : Nat
  image : Nat
  entry : Nat
  datalen : Nat
  decl : Decl
  spans : Nat
  bands : Nat
  gangs : Nat
  groups : Nat
  diemap : List Nat
  fmode : List Nat
  cor : Bool
  args : List Word64
  wsmap : List WsEntry
  quarters : Sparse Nat
  left : Sparse Nat
  dispatched : Nat
  retired : Nat
  lastRetire : Nat
  lastFlip : Nat
  savedBands : List SavedBand
  deriving DecidableEq, Repr

/-- No grid. -/
def Grid.none : Grid :=
  { live := false, ctx := 0, queue := 0, evid := 0, prio := 0, image := 0, entry := 0, datalen := 0,
    decl := Decl.none, spans := 0, bands := 0, gangs := 0, groups := 0, diemap := [], fmode := [], cor := false,
    args := [], wsmap := [], quarters := [], left := [], dispatched := 0, retired := 0, lastRetire := 0, lastFlip := 0,
    savedBands := [] }

/-! ## Quarters and dies -/

/-- The stationary operand in effect for a context (R231, R232): its type, where its source lies, its duplication map,
its bytes as loaded (after the map), the fusion mode of the block it was loaded into, and whether another context's MSTAT
or MLOOP has arrived since. -/
structure Stationary where
  mode : Nat
  ty : Ty
  ws : Bool
  gang : Nat
  addr : Nat
  dup : List Nat
  wsmap : List WsEntry
  bytes : Sparse Byte
  stale : Bool
  deriving DecidableEq, Repr

/-- A TLB entry (R348): the context, the virtual base and size of the page, its frame and permissions. -/
structure TlbEntry where
  ctx : Nat
  va : Nat
  size : Nat
  frame : Nat
  rd : Bool
  wr : Bool
  x : Bool
  sup : Bool
  deriving DecidableEq, Repr

/-- An operation waiting at the sequencer or the sweeper, by group and number (R224, R258). -/
structure OpRef where
  gid : Nat
  id : Nat
  deriving DecidableEq, Repr

/-- A quarter (R11): accumulator bank and owner (R220, R247), sequencer (R224), stationary operands (R232), factor
slots and sweeper (R253, R258), TLB (R348), intersection unit (R387), partition and fusion (R239, R342): the mode, the lead
quarter and the live grids that keep the block fused. -/
structure Quarter where
  owned : Bool
  octx : Nat
  tiles : Sparse Word32
  live : Sparse Bool
  seq : List OpRef
  stat : Sparse (Option Stationary)
  slots : Sparse FactorSlot
  sweep : List OpRef
  tlb : List TlbEntry
  quota : Sparse Nat
  part : Option Nat
  leaving : Bool
  fuse : Nat
  fuseGrids : List Nat
  lead : Nat
  deriving DecidableEq, Repr

/-- A quarter as a package reset leaves it. -/
def Quarter.reset : Quarter :=
  { owned := false, octx := 0, tiles := [], live := [], seq := [], stat := [], slots := [], sweep := [], tlb := [],
    quota := [], part := none, leaving := false, fuse := 0, fuseGrids := [], lead := 0 }

/-- A run of bytes that a write puts at a physical address, with the poison marker it gives them (R205). -/
structure Part where
  pa : Nat
  bytes : List Byte
  poison : Bool
  deriving DecidableEq, Repr

/-- An HBM write announced to a die (R281): the die it originated on, its stamp, its place in coherence order, and its
bytes. -/
structure HeldWrite where
  src : Nat
  stamp : Stamp
  seq : Nat
  parts : List Part
  deriving DecidableEq, Repr

/-- Who asks the governor for units (R397): a split of a group, an operation that goes on, or a band of a head. -/
inductive PowerUser where
  | split (gid e : Nat)
  | op (gid id : Nat)
  | band (head b : Nat)
  deriving DecidableEq, Repr

/-- A power request or a grant: its user, its units and the CLOCK value at which it was made or given. -/
structure Power where
  user : PowerUser
  units : Nat
  since : Nat
  deriving DecidableEq, Repr

/-- A WSLOAD in progress on a die (R308, R310): the queue and the number of its entry there, and its operands. -/
structure WsLoad where
  ctx : Nat
  queue : Nat
  entry : Nat
  src : Nat
  off : Nat
  len : Nat
  deriving DecidableEq, Repr

/-- A die (R10): its HBM as it sees it, the marks of those bytes, its vector clock, the writes it holds (R281), its
weight store, governor (R397), peer read buffer (R287), hottest array sensor and coolant inlet temperature (R398), the WSLOADs that run on it, what its
Madder and encoders have written (R375, R379), and the rate of each encoder (R379). -/
structure Die where
  mem : Memory
  marks : Sparse Mark
  vc : Stamp
  held : List HeldWrite
  ws : Memory
  units : Nat
  grants : List Power
  requests : List Power
  peerBuf : Sparse (Option Byte)
  arrayTemp : Nat
  inletTemp : Nat
  wsloads : List WsLoad
  display : Stamp
  rates : Sparse Nat
  deriving DecidableEq, Repr

/-- A die as bring-up leaves it: memory and weight store cleared, 8 grant units. -/
def Die.reset : Die :=
  { mem := [], marks := [], vc := [], held := [], ws := [], units := 8, grants := [], requests := [], peerBuf := [],
    arrayTemp := 0, inletTemp := 0, wsloads := [], display := [], rates := [] }

/-! ## Contexts and partitions -/

/-- STATE of a queue (R306). -/
inductive QueueState where
  | idle | running | blocked | stopped
  deriving DecidableEq, Repr

/-- A command that has started and not completed (R308): its entry number, the grid of a LAUNCH, and the stamp of the
write of a SIGNAL. -/
structure Started where
  entry : Nat
  grid : Option Nat
  stamp : Option Stamp
  deriving DecidableEq, Repr

/-- A queue descriptor (R306) and the commands of it that run. Of STATE only whether it is stopped is kept: the rest follows from
the pointers and the head command (R312). -/
structure Queue where
  base : Nat
  rsize : Nat
  prio : Nat
  stopped : Bool
  err : Nat
  wptr : Nat
  rptr : Nat
  running : List Started
  deriving DecidableEq, Repr

/-- A queue at creation. -/
def Queue.idle : Queue := ⟨0, 0, 0, false, 0, 0, 0, []⟩

/-- An entry of the collective group table (R364): the ranks as chip and context, and this device's rank. -/
structure CollEntry where
  ranks : List (Nat × Nat)
  rank : Nat
  deriving DecidableEq, Repr

/-- State of a context (R333). -/
inductive CtxState where
  | absent | idle | resident | switching | saved | faulted
  deriving DecidableEq, Repr

/-- How far the translation of a function has come (R327): none is there, a lane has reached the stub, all but word 0 of the stub
is written, word 0 is written, or it is published. -/
inductive StubState where
  | stub | translating | written | opened | published
  deriving DecidableEq, Repr

/-- Does any of a translation stand in the code heap? -/
def StubState.stands : StubState → Bool
  | .stub => false
  | .translating => false
  | _ => true

/-- A function of a tile-form image by the PC of its stub (R326, R327): its state, what die 0 had written when it came into that
state, the first word of the stub, its flashback points, where its translation stands, and the homes of the virtual registers
there. -/
structure Stub where
  pc : Nat
  state : StubState
  need : Stamp
  word : Nat
  points : List FlashPoint
  base : Nat
  len : Nat
  homes : List (Nat × Nat)
  deriving DecidableEq, Repr

/-- What the load of an image keeps (R314, R316 to R318): its base, form, kernel entry, code and data lengths, what it
declares, its flashback points, and the entries of its functions with their budgets, all as addresses. -/
structure Image where
  base : Nat
  form : Nat
  entry : Nat
  codeLen : Nat
  dataLen : Nat
  decl : Decl
  points : List FlashPoint
  functions : List (Nat × Nat)
  deriving DecidableEq, Repr

/-- A context: descriptor (R330), translation descriptor (R346), weight-store map (R349), queues, events,
collective groups, spill record by 1024 quarter + tile (R249), which holds one more than the quarter in whose save area the image
stands, counters (R339), images, the bases of images that the load has rejected (R318), and what a switch saved. -/
structure Context where
  state : CtxState
  vtoff : Word64
  handler : Addr52
  savebase : Nat
  accsave : Nat
  errrec : Nat
  records : Nat
  quantum : Nat
  drainlim : Nat
  critlim : Nat
  part : Nat
  vf : Nat
  pool : Nat
  phwm : Nat
  plim : Nat
  pbase : Nat
  wsmapAddr : Nat
  root : Nat
  wsmap : List WsEntry
  queues : Sparse Queue
  events : Sparse Nat
  colls : Sparse (Option CollEntry)
  collCount : Sparse Nat
  spill : Sparse Nat
  counters : Sparse Nat
  images : List Image
  rejected : List Nat
  stubs : List Stub
  served : Sparse Nat
  sliceStart : Nat
  lastSeen : Word64
  deriving DecidableEq, Repr

/-- No context. -/
def Context.absent : Context :=
  { state := .absent, vtoff := 0, handler := 0, savebase := 0, accsave := 0, errrec := 0, records := 0, quantum := 0, drainlim := 0,
    critlim := 0, part := 0, vf := 0, pool := 0, phwm := 0, plim := 0, pbase := 0, wsmapAddr := 0, root := 0,
    wsmap := [], queues := [], events := [], colls := [], collCount := [], spill := [], counters := [],
    images := [], rejected := [], stubs := [], served := [], sliceStart := 0, lastSeen := 0 }

/-- The guest journal (R343). -/
structure Journal where
  inctx : Nat
  outctx : Nat
  step : Nat
  deriving DecidableEq, Repr

/-- A partition (R341): its quarters, the virtual function bound to it, the resident context and the one last
resident. -/
structure Partition where
  qmask : Word32
  vf : Option Nat
  resident : Option Nat
  last : Option Nat
  deriving DecidableEq, Repr

/-- A partition with no quarter. -/
def Partition.empty : Partition := ⟨0, none, none, none⟩

/-- A virtual function (R341, R344): its partition, its journal, and whether it is suspended, since when, or is to be. -/
structure VirtFn where
  part : Option Nat
  suspended : Bool
  since : Nat
  suspendAsked : Bool
  journal : Journal
  deriving DecidableEq, Repr

/-- A virtual function bound to nothing. -/
def VirtFn.none : VirtFn := ⟨Option.none, false, 0, false, ⟨0, 0xFFFF, 0⟩⟩

/-! ## Links, collectives, shoot-downs -/

/-- STATE of a port (R361). -/
inductive PortState where
  | down | training | up | degraded | fenced
  deriving DecidableEq, Repr

/-- What a flit that waits for an answer asks for; signal stands for the write of a SIGNAL, whose queue and entry Asked names as
gid 16 ctx + queue and id (R308). -/
inductive AskKind where
  | read | write | coll | signal
  deriving DecidableEq, Repr

/-- A flit that waits for an answer over a port: the operation, the SEQ of the flit, the bytes it names, what it asks for, and
when it was sent (R362). -/
structure Asked where
  gid : Nat
  id : Nat
  seq : Nat
  pa : Nat
  len : Nat
  kind : AskKind
  since : Nat
  deriving DecidableEq, Repr

/-- A link port (R358, R361, R362): status word fields, the SEQ of the next flit to send and to receive, the flits kept for
replay, all that have left the port since it trained (queue), the requests unanswered, the times of recent replays, and the
elements that have come of an add-on-store tile not yet whole (R244). -/
structure Port where
  state : PortState
  width : Nat
  replays : Nat
  peer : Nat
  seqOut : Nat
  seqIn : Nat
  sent : List Flit
  queue : List Flit
  asked : List Asked
  replayTimes : List Nat
  tile : List Flit
  trained : Bool
  deriving DecidableEq, Repr

/-- A port that is down. -/
def Port.down : Port := ⟨.down, 0, 0, 0, 0, 0, [], [], [], [], [], false⟩

/-- A flit of a collective that waits for a route to its chip, or for the port on which it was in flight to be trained again
(R363, R367). -/
structure CollWait where
  gid : Nat
  id : Nat
  chip : Nat
  port : Option Nat
  payload : List Byte
  deriving DecidableEq, Repr

/-- A collective of this device in progress (R365): the context, group number and count, the operation that joined here, the
header that a rank's must equal, the ranks whose header has come, element i of rank r under 2^40 r + i with its poison, the
ranks aborted or fenced, and whether the result stands among the operation's writes. -/
structure Coll where
  ctx : Nat
  group : Nat
  no : Nat
  here : Option OpRef
  header : Nat
  joined : List Nat
  parts : Sparse (Option (Nat × Bool))
  bad : Bool
  aborted : List Nat
  lost : List Nat
  folded : Bool
  deriving DecidableEq, Repr

/-- A shoot-down in progress or complete (R355, R356): its range, the chips named, the cores and chips that have not
answered, those fenced, the clock of die 0 at the request, which counts the writes of the tables that come before it, the
port, chip and SEQ of a request that came from another chip, and DONE. -/
structure Shoot where
  id : Nat
  ctx : Nat
  va : Nat
  len : Nat
  chips : List Nat
  cores : List Nat
  waiting : List Nat
  fenced : List Nat
  since : Nat
  need : Stamp
  origin : Option (Nat × Nat × Nat)
  done : Bool
  deriving DecidableEq, Repr

/-! ## Display -/

/-- A complete candidate of a band (R374): its code, and the band as it would be scanned. -/
structure Cand where
  band : Nat
  code : Nat
  pixels : List Nat
  deriving DecidableEq, Repr

/-- A refresh of a head from its latch on (R372): the descriptor in force, when line 0 is scanned, its frames A and B and the
FRAMENO of B, its kind, and per band the candidates that are complete and the code taken. -/
structure Refresh where
  desc : Nat
  start : Nat
  frameA : Option Nat
  frameB : Option Nat
  srcNo : Nat
  newB : Bool
  synth : Bool
  pose : List Word32
  poseOld : Bool
  cands : List Cand
  codes : List (Nat × Nat)
  deriving DecidableEq, Repr

/-- A tile row that an encoder has still to write (R379): its number, the descriptor of its refresh, and its bands as scanned. -/
structure TileRow where
  row : Nat
  desc : Nat
  pixels : List Nat
  deriving DecidableEq, Repr

/-- A head (R368 to R380): partition and the one to come, the descriptor in force, whether the context it serves has faulted
or been reset since that came in force, the descriptor staged, what its reads carry (R371), frames A and B with the last FRAMENO used, the last pose,
whether the last frame was synthesised, when the next latch may fall, the refreshes under way (oldest first), the lines last
scanned by band, the output frame count, and the tile rows that an encoder has still to write with the bytes it has written.
Descriptors and frame records are held as the numbers their 64 bytes give. -/
structure Head where
  part : Option Nat
  rebind : Option (Option Nat)
  desc : Option Nat
  dead : Bool
  staged : Option Nat
  carry : Stamp
  running : Bool
  frameA : Option Nat
  frameB : Option Nat
  g : Nat
  synth : Bool
  pose : List Word32
  latchAt : Nat
  frames : List Refresh
  lines : Sparse (List Nat)
  count : Nat
  rows : List TileRow
  written : Nat
  deriving DecidableEq, Repr

/-- An idle head. -/
def Head.idle : Head :=
  { part := none, rebind := none, desc := none, dead := false, staged := none, carry := [], running := false, frameA := none,
    frameB := none, g := 0, synth := false, pose := [], latchAt := 0, frames := [], lines := [], count := 0, rows := [],
    written := 0 }

/-! ## Custody -/

/-- States of bring-up (R399). -/
inductive BringUp where
  | rom | monitor | recovery | ready
  deriving DecidableEq, Repr

/-- The firmware image in flash and the running one, the fuses blown of the floor and the device secret in its fuses, the certificate
chain in flash, the private scalar that Indigo holds (0 before the boot ROM has derived it), the measurements, and the reports
issued, each with the chain (R391 to R395). -/
structure Firmware where
  flash : FwImage
  running : FwImage
  floor : Nat
  secret : List Byte
  chain : List Byte
  key : Nat
  mind : List Byte
  mumb : List Byte
  reports : List (List Byte × List Byte)
  deriving DecidableEq, Repr

/-- What the device tells the host driver, in order (R108, R312, R327, R352, R396, R398). -/
inductive Notice where
  | doubleFault (ctx gid : Nat)
  | faulted (ctx : Nat)
  | queueError (ctx queue err : Nat)
  | translation (ctx gid pc : Nat)
  | heapFull (ctx pc : Nat)
  | escalation (ctx gid cause : Nat)
  | headRefused (head : Nat)
  | mapRefused (ctx : Nat)
  | violation (m : Master)
  | thermalStop
  | recovery
  deriving DecidableEq, Repr

/-! ## The machine -/

/-- Who moves in a step, and how many cycles pass before it moves (the model's own; log 1). -/
inductive Who where
  | event (i : Instr)
  | issue (slot : Nat)
  | idle
  deriving DecidableEq, Repr

/-- One turn of the agenda. -/
structure Turn where
  cycles : Nat
  who : Who
  deriving DecidableEq, Repr

/-- The split that issues: group context 64 core + number, and split-table entry (the model's own; log 1). -/
structure Cursor where
  gid : Nat
  entry : Nat
  deriving DecidableEq, Repr

/-- The whole machine. was is the split at cur as it stood before it was chosen, which a snapshot keeps (R334), and stands says,
within a turn, that the instruction tried has been held at issue (the model's own; log 67). clock counts cycles of the arithmetic clock since package reset; CLOCK shows it modulo 2^64 (R156).
busy gives, by issue slot, the clock from which it is free again (R105). Groups are keyed by 64 core + group context number, gangs by the number of their dispatch, quarters
by 4 die + Q, contexts by CTX. -/
structure State where
  agenda : List Turn
  cur : Cursor
  was : Split
  fresh : Nat
  stands : Bool
  clock : Nat
  bringUp : BringUp
  clockStopped : Bool
  busy : Sparse Nat
  chip : Nat
  groups : Sparse Group
  gangs : Sparse Gang
  grids : Sparse Grid
  quarters : Sparse Quarter
  dies : Sparse Die
  contexts : Sparse Context
  parts : Sparse Partition
  vfs : Sparse VirtFn
  ports : Sparse Port
  routes : Sparse (List Nat)
  fencedChips : List Nat
  colls : List Coll
  collWaits : List CollWait
  shoots : List Shoot
  heads : Sparse Head
  hostMem : Memory
  peerMem : Memory
  nextSeq : Nat
  nextOp : Nat
  nextGrid : Nat
  fw : Firmware
  frozen : List Master
  notices : List Notice
  windowStart : Nat
  deriving DecidableEq, Repr

/-- Why a step stops with a fault. No meaning of this model raises one: every access outside a memory has the trap, the
status or the poison that the manual gives it. The one constructor stands so that the type is inhabited. It would be
safe. -/
inductive Fault where
  | never
  deriving DecidableEq, Repr

/-- Why a step is refused. notModelled is raised by exec for an instruction that has no meaning yet: safe, because
nothing is claimed about it. -/
inductive Refusal where
  | notModelled (mnemonic : String)
  deriving DecidableEq, Repr

/-- The machine right after a package reset (R399): CLOCK 0, Pradan trained, no group, context or partition. -/
def State.reset : State :=
  { agenda := [], cur := ⟨0, 0⟩, was := Split.free, fresh := 0, stands := false, clock := 0, bringUp := .rom, clockStopped := false, busy := [], chip := 0,
    groups := [], gangs := [], grids := [], quarters := [], dies := [], contexts := [], parts := [], vfs := [],
    ports := [(16, { Port.down with state := .up, width := 32 })], routes := [], fencedChips := [], colls := [], collWaits := [],
    shoots := [], heads := [], hostMem := [], peerMem := [], nextSeq := 0, nextOp := 0, nextGrid := 0,
    fw := ⟨⟨[], [], 0, []⟩, ⟨[], [], 0, []⟩, 0, List.replicate 48 0, [], 0, [], [], []⟩, frozen := [], notices := [], windowStart := 0 }

end Sys2Proof.Machine
end

