-- ==== Sys2Proof/Machine/Ops.lean ====
section
/-!
DEFINITION. The named operations over the state: objects by number, the registers of a group, the reconvergence stack
(R111 to R119), taking a trap and leaving it (R121 to R123), scratchpad bytes (R187, R191), barriers (R215) and what wakes
a waiting split (R110, R214, R216).
-/

namespace Sys2Proof.Machine

/-- The outcome of one step. -/
abbrev Out := Host.Outcome State Fault Refusal

/-! ## Objects by number -/

def State.group (s : State) (gid : Nat) : Group := Sparse.get Group.free s.groups gid
def State.setGroup (s : State) (gid : Nat) (g : Group) : State :=
  { s with groups := Sparse.set Group.free s.groups gid g }
def State.gang (s : State) (k : Nat) : Gang := Sparse.get Gang.none s.gangs k
def State.setGang (s : State) (k : Nat) (g : Gang) : State := { s with gangs := Sparse.set Gang.none s.gangs k g }
def State.grid (s : State) (k : Nat) : Grid := Sparse.get Grid.none s.grids k
def State.setGrid (s : State) (k : Nat) (g : Grid) : State := { s with grids := Sparse.set Grid.none s.grids k g }
def State.quarter (s : State) (q : Nat) : Quarter := Sparse.get Quarter.reset s.quarters q
def State.setQuarter (s : State) (q : Nat) (x : Quarter) : State :=
  { s with quarters := Sparse.set Quarter.reset s.quarters q x }
def State.die (s : State) (d : Nat) : Die := Sparse.get Die.reset s.dies d
def State.setDie (s : State) (d : Nat) (x : Die) : State := { s with dies := Sparse.set Die.reset s.dies d x }
def State.context (s : State) (c : Nat) : Context := Sparse.get Context.absent s.contexts c
def State.setContext (s : State) (c : Nat) (x : Context) : State :=
  { s with contexts := Sparse.set Context.absent s.contexts c x }
def State.part (s : State) (p : Nat) : Partition := Sparse.get Partition.empty s.parts p
def State.setPart (s : State) (p : Nat) (x : Partition) : State :=
  { s with parts := Sparse.set Partition.empty s.parts p x }
def State.vf (s : State) (p : Nat) : VirtFn := Sparse.get VirtFn.none s.vfs p
def State.setVf (s : State) (p : Nat) (x : VirtFn) : State := { s with vfs := Sparse.set VirtFn.none s.vfs p x }
def State.port (s : State) (p : Nat) : Port := Sparse.get Port.down s.ports p
def State.setPort (s : State) (p : Nat) (x : Port) : State := { s with ports := Sparse.set Port.down s.ports p x }
def State.head (s : State) (h : Nat) : Head := Sparse.get Head.idle s.heads h
def State.setHead (s : State) (h : Nat) (x : Head) : State := { s with heads := Sparse.set Head.idle s.heads h x }

/-- Is the Umber of the die frozen, so that no command starts on it (R396)? -/
def State.umberStands (s : State) (die : Nat) : Bool := s.frozen.contains (.umber die)

/-- Is the core of the group frozen, so that its state is kept as it is (R396)? -/
def State.coreStands (s : State) (gid : Nat) : Bool := s.frozen.contains (.core (gid / 64))

/-- What the host driver or a firmware domain asks is done only once the device is ready (R399). -/
def State.whenReady (s t : State) : State := if s.bringUp == .ready then t else s

def State.notify (s : State) (n : Notice) : State := { s with notices := s.notices ++ [n] }

/-- The free choice of which of n things comes next (log 24). -/
def State.pick (s : State) (n : Nat) : Nat := (Config.freeWord s.fresh (8192 + n)).toNat % n

/-- Device core, quarter and die of a group context (R4). -/
def coreOf (gid : Nat) : Nat := gid / 64
def quarterOf (gid : Nat) : Nat := gid / 1024
def dieOf (gid : Nat) : Nat := gid / 4096

/-! ## Stamps (R279, R281) -/

def Stamp.at (σ : Stamp) (d : Nat) : Nat := Sparse.get 0 σ d

/-- The element-wise maximum over the eight dies. -/
def Stamp.max (σ τ : Stamp) : Stamp :=
  (List.range 8).foldl (fun acc d => Sparse.set 0 acc d (Nat.max (σ.at d) (τ.at d))) []

def Stamp.maxAll (l : List Stamp) : Stamp := l.foldl Stamp.max []

/-- Every count of σ has been reached by τ. -/
def Stamp.le (σ τ : Stamp) : Bool := (List.range 8).all fun d => decide (σ.at d ≤ τ.at d)

/-! ## Registers of a group (R25, R106) -/

def Group.split (g : Group) (e : Nat) : Split := Sparse.get Split.free g.splits e
def Group.setSplit (g : Group) (e : Nat) (x : Split) : Group := { g with splits := Sparse.set Split.free g.splits e x }

/-- s0 reads zero (R25). -/
def Group.readS (g : Group) (r : Nat) : Word64 := if r = 0 then 0 else Sparse.get 0 g.s r

/-- A write to s0 is discarded (R25). -/
def Group.writeS (g : Group) (r : Nat) (x : Word64) : Group :=
  if r = 0 then g else { g with s := Sparse.set 0 g.s r x }

def Group.readV (g : Group) (r l : Nat) : Word32 := Sparse.get 0 g.v (32 * r + l)
def Group.writeV (g : Group) (r l : Nat) (x : Word32) : Group :=
  { g with v := Sparse.set 0 g.v (32 * r + l) x }

def Group.readM (g : Group) (k : Nat) : Word32 := Sparse.get 0 g.m k
def Group.writeM (g : Group) (k : Nat) (x : Word32) : Group := { g with m := Sparse.set 0 g.m k x }

/-- Is the register in the dual range (R79)? -/
def Group.dual (g : Group) (r : Nat) : Bool := decide (r < g.decl.n)

/-- The bits of tangent slot d of register r in lane l; zero outside the dual range (R34). -/
def Group.readT (g : Group) (r d l : Nat) : Word32 :=
  if g.dual r then Sparse.get 0 g.tan ((256 * d + r) * 32 + l) else 0

/-- Write a tangent slot of a register of the dual range. -/
def Group.writeT (g : Group) (r d l : Nat) (x : Word32) : Group :=
  if g.dual r then { g with tan := Sparse.set 0 g.tan ((256 * d + r) * 32 + l) x } else g

def Group.window (g : Group) (w : Nat) : Window := Sparse.get Window.unbound g.w w
def Group.setWindow (g : Group) (w : Nat) (x : Window) : Group := { g with w := Sparse.set Window.unbound g.w w x }
def Group.tile (g : Group) (t : Nat) : Run := Sparse.get none g.t t
def Group.setTile (g : Group) (t : Nat) (x : Run) : Group := { g with t := Sparse.set none g.t t x }
def Group.factor (g : Group) (f : Nat) : FBind := Sparse.get none g.f f
def Group.setFactor (g : Group) (f : Nat) (x : FBind) : Group := { g with f := Sparse.set none g.f f x }

/-- Does a saved set hold the register (R30, R334)? The default set is every scalar, every mask and every vector register
below C. -/
def SavedSet.has (c : Nat) (r : RegId) : SavedSet → Bool
  | .some rs => rs.contains r
  | .all => match r with
    | .v k => decide (k < c)
    | .s k => decide (k ≠ 0)
    | .m _ => true
    | _ => false

/-- A write of the register clears rewind-allowed when the register is in the record's saved set (R334). -/
def Group.noteWrite (g : Group) (r : RegId) : Group :=
  match g.record with
  | none => g
  | some rec => if rec.saved.has g.decl.c r then { g with rewind := false } else g

/-- An irrevocable effect clears rewind-allowed (R334). -/
def Group.irrevocable (g : Group) : Group := { g with rewind := false }

/-- Horizon of a lane (R279). -/
def Group.laneHorizon (g : Group) (l : Nat) : Stamp := Sparse.get [] g.horizon l

/-- What an access of lane l carries (R279). -/
def Group.carryLane (g : Group) (l : Nat) : Stamp := Stamp.max (g.laneHorizon l) g.groupHorizon

/-- What a fetch of code for the lanes of a mask carries (R279, R348). -/
def Group.carryMask (g : Group) (m : Word32) : Stamp :=
  (lanesOf m).foldl (fun σ l => Stamp.max σ (g.laneHorizon l)) g.groupHorizon

/-- By byte, the place in coherence order of what an observer of the group has read at the home: a lane, or 32 for the reads of
engine operations that belong to no lane (R276, R282). -/
def Group.least (g : Group) (obs : Nat) : Nat → Nat := fun pa => Sparse.get 0 g.seen (64 * pa + obs)

/-- Merge a stamp into the group horizon. -/
def Group.mergeHorizon (g : Group) (σ : Stamp) : Group := { g with groupHorizon := Stamp.max g.groupHorizon σ }

/-- Join every horizon of the group (R280). -/
def Group.joinHorizons (g : Group) : Group :=
  let σ := (List.range 32).foldl (fun acc l => Stamp.max acc (g.laneHorizon l)) g.groupHorizon
  { g with groupHorizon := σ, horizon := (List.range 32).foldl (fun m l => Sparse.set [] m l σ) g.horizon }

/-- Number of operations of a class that have issued and not retired: the completion counter (R203). -/
def Group.counter (g : Group) (c : Cls) : Nat := (g.ops.filter fun o => decide (o.cls = c)).length

/-! ## The critical depth (R130) -/

def Group.raiseCrit (g : Group) (clock : Nat) : Group :=
  { g with crit := Nat.min 15 (g.crit + 1), critSince := if g.crit = 0 then clock else g.critSince,
           critSpent := if g.crit = 0 then false else g.critSpent }

def Group.lowerCrit (g : Group) : Group :=
  { g with crit := g.crit - 1, critSpent := if g.crit ≤ 1 then false else g.critSpent }

/-- The effect of an order and CRIT bit on the critical depth (R130). -/
def Group.critStep (g : Group) (clock : Nat) (o : MemOrd) (crit : Bool) : Group :=
  if crit then
    match o with
    | .acq => g.raiseCrit clock
    | .rel => g.lowerCrit
    | .plain | .ar => g
  else g

/-- Is the group critical (R130)? -/
def Group.isCritical (g : Group) : Bool := decide (0 < g.crit) && !g.critSpent

/-! ## Split table and reconvergence stack (R109 to R119) -/

/-- The free entries in ascending order. -/
def Group.freeEntries (g : Group) : List Nat := (List.range 4).filter fun e => !(g.split e).v

def Group.validEntries (g : Group) : List Nat := (List.range 4).filter fun e => (g.split e).v

def Group.depth (g : Group) : Nat := g.stack.length

/-- A runnable split. -/
def Split.run (pc : Addr52) (mask : Word32) (tok : Nat) (sup : Bool) : Split :=
  { Split.free with v := true, pc := pc, mask := mask, tok := tok, sup := sup }

/-- The token of the topmost join record whose MASK contains the lanes, or 16 (R117). -/
def tokenOf (m : Word32) : List StackEntry → Nat
  | [] => 16
  | x :: xs => if x.kind = .join ∧ m &&& ~~~x.mask = 0 then x.tok else tokenOf m xs

/-- Lanes that stand at a JOIN with token t: in joining splits and in joining stack entries. -/
def Group.joinedLanes (g : Group) (t : Nat) : Word32 :=
  let inTable := g.validEntries.foldl
    (fun m e => if (g.split e).state = .joining ∧ (g.split e).tok = t then m ||| (g.split e).mask else m) 0
  g.stack.foldl (fun m x => if x.kind = .joining ∧ x.tok = t then m ||| x.mask else m) inTable

/-- PC and JOIN length of the JOIN that lane l stands at, by split table, then stack. -/
def Group.joinAt (g : Group) (t l : Nat) : Addr52 × Nat :=
  let inTable := g.validEntries.find? fun e =>
    decide ((g.split e).state = .joining) && decide ((g.split e).tok = t) && (g.split e).mask.getLsbD l
  match inTable with
  | some e => ((g.split e).pc, match (g.split e).wait with | .join n => n | _ => 1)
  | none =>
    match g.stack.find? fun x => decide (x.kind = .joining) && decide (x.tok = t) && x.mask.getLsbD l with
    | some x => (x.pc, x.words)
    | none => (0, 1)

/-- The topmost join record whose region is complete, by its place (R117). -/
def completeRecord (g : Group) : Nat → List StackEntry → Option (Nat × StackEntry)
  | _, [] => none
  | k, x :: xs =>
    if x.kind = .join ∧ x.mask &&& ~~~(g.joinedLanes x.tok) = 0 then some (k, x) else completeRecord g (k + 1) xs

/-- The level of the lanes that stand at the JOINs of the region. -/
def Group.joinLevel (g : Group) (t : Nat) (m : Word32) : Bool :=
  match g.validEntries.find? fun e =>
      decide ((g.split e).state = .joining) && decide ((g.split e).tok = t) && decide ((g.split e).mask &&& m ≠ 0) with
  | some e => (g.split e).sup
  | none =>
    match g.stack.find? fun x => decide (x.kind = .joining) && decide (x.tok = t) && decide (x.mask &&& m ≠ 0) with
    | some x => x.sup
    | none => false

/-- Close the region of record x at place k (R117). -/
def Group.closeRegion (g : Group) (k : Nat) (x : StackEntry) : Group :=
  let t := x.tok
  let m := x.mask
  let inTable := g.validEntries.filter fun e =>
    decide ((g.split e).state = .joining) && decide ((g.split e).tok = t) && decide ((g.split e).mask &&& m ≠ 0)
  let lane := (lowestBit 32 m.toNat).getD 0
  let (jpc, jn) := g.joinAt t lane
  let sup := g.joinLevel t m
  let stack' := (g.stack.eraseIdx k).filter fun y =>
    !(decide (y.kind = .joining) && decide (y.tok = t) && decide (y.mask &&& m ≠ 0))
  let tok' := tokenOf m stack'
  let pc' := jpc + BitVec.ofNat 52 (4 * jn)
  let g1 := inTable.foldl (fun g e => g.setSplit e Split.free) { g with stack := stack' }
  if m = 0 then g1
  else
    match inTable with
    | e :: _ => g1.setSplit e (Split.run pc' m tok' sup)
    | [] =>
      match g1.freeEntries with
      | e :: _ => g1.setSplit e (Split.run pc' m tok' sup)
      | [] => { g1 with stack := ⟨0, tok', .deferred, sup, m, pc', 0⟩ :: g1.stack }

/-- Close every complete region; each closing removes a record. -/
def Group.closeRegions : Nat → Group → Group
  | 0, g => g
  | n + 1, g =>
    match completeRecord g 0 g.stack with
    | some (k, x) => Group.closeRegions n (g.closeRegion k x)
    | none => g

/-- The place of the topmost eligible deferred entry: no trap record lies above it (R115). -/
def eligible : Nat → List StackEntry → Option (Nat × StackEntry)
  | _, [] => none
  | k, x :: xs =>
    match x.kind with
    | .deferred => some (k, x)
    | .trap => none
    | _ => eligible (k + 1) xs

/-- Pop deferred entries into free split entries, and spill joining splits where none is free (R115, R118). -/
def Group.popSpill : Nat → Group → Group
  | 0, g => g
  | n + 1, g =>
    match eligible 0 g.stack with
    | none => g
    | some (k, x) =>
      match g.freeEntries with
      | e :: _ =>
        Group.popSpill n ({ g with stack := g.stack.eraseIdx k }.setSplit e (Split.run x.pc x.mask x.tok x.sup))
      | [] =>
        match (g.validEntries.filter fun e => decide ((g.split e).state = .joining)).reverse with
        | [] => g
        | e :: _ =>
          let y := g.split e
          let len := match y.wait with | .join n => n | _ => 1
          Group.popSpill n
            ({ g with stack := ⟨0, y.tok, .joining, y.sup, y.mask, y.pc, len⟩ :: g.stack }.setSplit e Split.free)

/-- Bring table and stack to rest: regions close, deferred entries pop (R115, R117, R118). -/
def Group.settle (g : Group) : Group := Group.popSpill 80 (Group.closeRegions 33 g)

/-- Take lanes out of every join record, and empty records away (R114, R120). -/
def dropLanes (m : Word32) (l : List StackEntry) : List StackEntry :=
  (l.map fun x => if x.kind = .join then { x with mask := x.mask &&& ~~~m } else x).filter fun x =>
    !(decide (x.kind = .join) && decide (x.mask = 0))

/-- Is any trap record on the stack? -/
def Group.trapped (g : Group) : Bool := g.stack.any fun x => decide (x.kind = .trap)

/-- Divide split e by parts (mask and next PC) with token t at pc (R113); none when the stack would pass depth 30. -/
def Group.divide (g : Group) (e : Nat) (t : Nat) (pc : Addr52) (opens : Bool) (parts : List (Word32 × Addr52)) :
    Option Group :=
  let x := g.split e
  let n := if opens then 1 else 0
  let free := g.freeEntries
  let needed := n + (parts.length - 1 - free.length)
  if 30 < g.depth + needed then none
  else
    let g1 := if opens then { g with stack := ⟨0, t, .join, x.sup, x.mask, pc, 0⟩ :: g.stack } else g
    match parts with
    | [] => some g1
    | (m0, p0) :: rest =>
      let g2 := g1.setSplit e { x with mask := m0, pc := p0, tok := t }
      let g3 := (rest.zip free).foldl (fun g p => g.setSplit p.2 (Split.run p.1.2 p.1.1 t x.sup)) g2
      let left := rest.drop free.length
      some { g3 with stack := (left.map fun p => (⟨0, t, .deferred, x.sup, p.1, p.2, 0⟩ : StackEntry)) ++ g3.stack }

/-! ## Taking a trap (R121, R123) and leaving it (R122) -/

/-- Heads that serve the context take code 3 until a new descriptor comes in force (R380). -/
def State.deadenHeads (s : State) (c : Nat) : State :=
  { s with heads := Sparse.mapVals Head.idle (fun _ h => match h.desc with
      | some d => if d % 2 ^ 16 = c then { h with dead := true } else h
      | none => h) s.heads }

/-- May groups of the context issue: is it resident, or being switched out (R333, R335)? -/
def Context.issues (c : Context) : Bool := c.state == .resident || c.state == .switching

/-- The context of a frozen group is faulted: it gives up residency at once (R123, R333). One that is neither resident nor being
switched out stays as it is (R20). -/
def State.faultContext (s : State) (c : Nat) : State :=
  let x := s.context c
  if !x.issues then s
  else
    let s1 := s.setContext c { x with state := .faulted }
    let p := s1.part x.part
    let s2 := if p.resident = some c then s1.setPart x.part { p with resident := none, last := some c } else s1
    (s2.deadenHeads c).notify (.faulted c)

/-- A double fault freezes the group and faults its context (R123). -/
def State.doubleFault (s : State) (gid : Nat) : State :=
  let g := s.group gid
  (s.setGroup gid { g with life := .frozen }).faultContext g.ctx |>.notify (.doubleFault g.ctx gid)

/-- Lowest lane of a mask, or 0. -/
def lowLane (m : Word32) : Nat := (lowestBit 32 m.toNat).getD 0

/-- Does a cause write the lane fault file (R353)? -/
def filesFault (cause : Nat) : Bool := cause == 0x24 || (decide (0x30 ≤ cause) && decide (cause ≤ 0x33))

/-- Every other split becomes held (R121 step 6). -/
def Group.holdOthers (g : Group) (e : Nat) : Group :=
  (List.range 4).foldl (fun g k =>
    let x := g.split k
    if k ≠ e ∧ x.v ∧ x.state ≠ .held then g.setSplit k { x with state := .held, hstate := x.state } else g) g

/-- Steps 3 to 6 of R121 on the group: split e of group g traps at pc in the lanes fm. The lanes that the split still
holds are its MASK without fm. -/
def Group.pushTrap (g : Group) (e : Nat) (fm : Word32) (cause : Nat) (pc handler : Addr52) : Group :=
  let x := g.split e
  let rest := x.mask &&& ~~~fm
  let below := if rest = 0 then g.stack else ⟨0, x.tok, .deferred, x.sup, rest, x.pc, 0⟩ :: g.stack
  let g1 := { g with stack := ⟨cause, x.tok, .trap, x.sup, fm, pc, 0⟩ :: below, life := .trapped,
                     faultLane := lowLane fm }
  (g1.setSplit e { (Split.run handler fm 16 true) with age := x.age }).holdOthers e

/-- The trap of split e of group gid at pc, in the lanes fm, for a cause (R121). The instruction has completed in the
other lanes of the split, whose PC, MASK and token are as that left them. faults gives the lane fault entries. -/
def State.trap (s : State) (gid e : Nat) (fm : Word32) (cause : Nat) (pc : Addr52)
    (faults : List (Nat × LaneFault)) : State :=
  let g := s.group gid
  let x := g.split e
  let rest := x.mask &&& ~~~fm
  let pushes := if rest = 0 then 1 else 2
  if 32 < g.depth + pushes then s.doubleFault gid
  else
    let g1 := if filesFault cause then
        { g with faults := faults.foldl (fun m p => Sparse.set LaneFault.zero m p.1 p.2) g.faults } else g
    s.setGroup gid ({ g1 with rewind := false }.pushTrap e fm cause pc (s.context g.ctx).handler)

/-- Held splits return to their former states when no trap record remains (R122). -/
def Group.releaseHeld (g : Group) : Group :=
  if g.trapped then g
  else
    { (List.range 4).foldl (fun g k =>
        let x := g.split k
        if x.v ∧ x.state = .held then
          g.setSplit k { x with state := x.hstate, age := if x.hstate = .runnable then 0 else x.age }
        else g) g with life := .resident }

/-- May TRET or a supervisor EXIT leave the handler: nothing above the topmost trap record, no other supervisor split
(R123)? -/
def Group.mayLeave (g : Group) (e : Nat) : Bool :=
  (match g.stack with
    | x :: _ => decide (x.kind = .trap)
    | [] => false) &&
  (List.range 4).all fun k => decide (k = e) || !(g.split k).v || !(g.split k).sup

/-- TRET on the group (R122). -/
def Group.tret (g : Group) (e : Nat) : Group :=
  match g.stack with
  | [] => g
  | r :: rest =>
    ({ g with stack := rest }.setSplit e
      { (g.split e) with pc := r.pc, mask := r.mask, tok := r.tok, sup := r.sup }).releaseHeld.settle

/-- A supervisor EXIT on the group (R122). -/
def Group.supExit (g : Group) (e : Nat) : Group :=
  match g.stack with
  | [] => g
  | r :: rest => ({ g with stack := dropLanes r.mask rest }.setSplit e Split.free).releaseHeld.settle

/-- A user EXIT on the group (R120). -/
def Group.userExit (g : Group) (e : Nat) : Group :=
  ({ g with stack := dropLanes (g.split e).mask g.stack }.setSplit e Split.free).settle

/-- A group with no lane left in any split or stack entry is retiring (R108). -/
def Group.checkRetiring (g : Group) : Group :=
  if g.validEntries = [] ∧ g.stack = [] ∧ g.life ≠ .free then { g with life := .retiring } else g

/-! ## Scratchpad (R187, R191) -/

/-- The bytes of the gang's scratchpad beyond which an address is out of range: Z (R96, R187). -/
def Decl.occupancy (d : Decl) : Nat :=
  if d.d = 0 then d.spad else d.spad + d.d * (if d.bf16 then d.spad / 2 else d.spad)

def Gang.readSpad (g : Gang) (a n : Nat) : Nat := ofBytes (Sparse.getRange 0 g.spad a n)

/-- A write of bytes, which ends the errors that stand in them. -/
def Gang.putSpad (g : Gang) (a : Nat) (bs : List Byte) : Gang :=
  { g with spad := Sparse.setRange 0 g.spad a bs, errs := Sparse.clearRange g.errs a (a + bs.length) }

/-- The status bits that stand in n bytes (R205). -/
def Gang.spadStatus (g : Gang) (a n : Nat) : Nat := (Sparse.getRange 0 g.errs a n).foldl (· ||| ·) 0

/-- An element of n bytes that a matrix operation reads: one with a status enters as zero (R226). -/
def Gang.sound (g : Gang) (a n : Nat) : Nat := if g.spadStatus a n = 0 then g.readSpad a n else 0

def Gang.writeSpad (g : Gang) (a n x : Nat) : Gang := g.putSpad a (bytesOf n x)

def State.readSpad (s : State) (gang a n : Nat) : Nat := (s.gang gang).readSpad a n

def State.writeSpad (s : State) (gang a n x : Nat) : State := s.setGang gang ((s.gang gang).writeSpad a n x)

/-! ## Waking (R110, R214, R216) and barriers (R215) -/

def Gang.bar (g : Gang) (b : Nat) : Barrier := Sparse.get Barrier.zero g.bars b
def Gang.setBar (g : Gang) (b : Nat) (x : Barrier) : Gang := { g with bars := Sparse.set Barrier.zero g.bars b x }

/-- Check of R215: does the phase end? The second component says so. -/
def Barrier.check (b : Barrier) : Barrier × Bool :=
  if b.arrived = b.exparr ∧ b.landed = b.expb then
    ({ b with gen := (b.gen + 1) % 2 ^ 32, arrived := 0, landed := 0, expb := 0, stamp := Stamp.max b.stamp b.gathered,
              gathered := [], collNow := false, collGens := if b.collNow then b.gen :: b.collGens else b.collGens }, true)
  else (b, false)

/-- End of a WAITC of the group (R214, R260, R284): with the factor latch set, WAITC fx traps instead. -/
def State.finishCounter (s : State) (gid e : Nat) (cls : Cls) (next : Addr52) : State :=
  let g := s.group gid
  let x := g.split e
  match cls, g.latch with
  | .fx, some word =>
    (s.setGroup gid { g with latch := none, faultWord := word,
                             splits := Sparse.set Split.free g.splits e { x with state := .runnable, wait := .none } }).trap
      gid e x.mask 0x48 x.pc []
  | _, _ =>
    s.setGroup gid ((g.mergeHorizon (Sparse.get [] g.clsStamp cls.code)).setSplit e
      { x with state := .runnable, wait := .none, pc := next, age := 0 })

/-- Did a phase that ended since generation gen count bytes of a collective (R287)? -/
def Barrier.collSince (b : Barrier) (gen : Nat) : Bool :=
  b.collGens.any fun k => decide ((k + 2 ^ 32 - gen) % 2 ^ 32 < (b.gen + 2 ^ 32 - gen) % 2 ^ 32)

/-- End of a WAITB for the phase of generation gen (R216, R218, R284); an acquire drops the peer read buffer where a phase for which
it has waited counted bytes of a collective (R287). -/
def State.finishBarrier (s0 : State) (gid e bar gen sd : Nat) (acq crit : Bool) (next : Addr52) : State :=
  let g := s0.group gid
  let d := s0.die (dieOf gid)
  let s := if acq ∧ ((s0.gang g.gang).bar bar).collSince gen then
      s0.setDie (dieOf gid) { d with peerBuf := [] } else s0
  let b := (s.gang g.gang).bar bar
  let g1 := ((g.writeS sd (b.status.setWidth 64)).noteWrite (.s sd)).mergeHorizon b.stamp
  let g2 := if acq then g1.joinHorizons.critStep s.clock .acq crit else g1
  s.setGroup gid (g2.setSplit e { (g2.split e) with state := .runnable, wait := .none, pc := next, age := 0 })

/-- Does the group live so that its splits go on? -/
def Group.runs (g : Group) : Bool := g.life == .resident || g.life == .trapped

/-- Wake split e of the group if what it waits for holds. A gang chosen by stall resolution stays at its waits (R324), and
a frozen core as it is (R396). -/
def State.wakeSplit (s : State) (gid e : Nat) : State :=
  let g := s.group gid
  let x := g.split e
  if x.v ∧ x.state = .waiting ∧ g.runs ∧ !(s.gang g.gang).chosen ∧ !s.coreStands gid then
    match x.wait with
    | .counter cls n next => if g.counter cls ≤ n then s.finishCounter gid e cls next else s
    | .barrier bar gen sd acq crit next =>
      if ((s.gang g.gang).bar bar).gen ≠ gen then s.finishBarrier gid e bar gen sd acq crit next else s
    | _ => s
  else s

/-- Wake every split of the group whose condition holds. -/
def State.wakeGroup (s : State) (gid : Nat) : State := (List.range 4).foldl (fun s e => s.wakeSplit gid e) s

/-- Wake the groups of a gang. -/
def State.wakeGang (s : State) (gang : Nat) : State :=
  (s.groups.filter fun p => decide (p.2.gang = gang)).foldl (fun s p => s.wakeGroup p.1) s

/-- Put a barrier back after an ARRIVE, an EXPECT or a landing: Check, and on a flip wake the waiters (R215, R302). -/
def State.checkBarrier (s : State) (gang b : Nat) (x : Barrier) : State :=
  let (y, flip) := x.check
  let s1 := s.setGang gang ((s.gang gang).setBar b y)
  if flip then
    let k := (s1.gang gang).grid
    (s1.setGrid k { (s1.grid k) with lastFlip := s1.clock + 1 }).wakeGang gang
  else s1

/-! ## The issuing split -/

def State.grp (s : State) : Group := s.group s.cur.gid
def State.setGrp (s : State) (g : Group) : State := s.setGroup s.cur.gid g
def State.spl (s : State) : Split := s.grp.split s.cur.entry

/-- The execution mask of the issuing split. -/
def State.em (s : State) : Word32 := s.spl.mask

/-- Its program counter. -/
def State.pc (s : State) : Addr52 := s.spl.pc

/-- The instruction tried is held at issue: it does not issue, and its slot turns to another split (R128; log 67). -/
def State.stand (s : State) : State := { s with stands := true }

/-- A mask operand: m0 to m15, or em (R39). -/
def State.maskOp (s : State) (k : Nat) : Word32 := if k = 16 then s.em else s.grp.readM k

/-- Move the issuing split to a PC. -/
def State.goto (s : State) (pc : Addr52) : State :=
  s.setGrp (s.grp.setSplit s.cur.entry { s.spl with pc := pc })

/-- PC plus n words (R36). -/
def State.pcPlus (s : State) (n : Nat) : Addr52 := s.pc + BitVec.ofNat 52 (4 * n)

/-- Continue at the next sequential PC after an instruction of n words. -/
def State.advance (s : State) (n : Nat) : State := s.goto (s.pcPlus n)

/-- The trap of the issuing split. -/
def State.trapCur (s : State) (fm : Word32) (cause : Nat) (pc : Addr52) (faults : List (Nat × LaneFault)) : State :=
  s.trap s.cur.gid s.cur.entry fm cause pc faults

/-- The whole split traps at its own PC, and nothing else changes (R121 with Fm = em). -/
def State.trapAll (s : State) (cause : Nat) : State := s.trapCur s.em cause s.pc []

/-- The illegal-instruction trap with a detail code (R51, R150). -/
def State.illegal (s : State) (detail : Nat) : State := s.trapAll (0x10 + detail)

/-- The whole split traps with one lane fault entry for every lane (R354). -/
def State.trapEntry (s : State) (cause : Nat) (f : LaneFault) : State :=
  s.trapCur s.em cause s.pc ((lanesOf s.em).map fun l => (l, f))

/-- Words of a one-word format by its hint byte and literal (R35). -/
def words1 (h : Option Nat) (lit : Bool) : Nat := 1 + (if h.isSome then 2 else 0) + (if lit then 2 else 0)

/-- Write a scalar register of the issuing group. -/
def State.putS (s : State) (r : Nat) (x : Word64) : State := s.setGrp ((s.grp.writeS r x).noteWrite (.s r))

/-- Write a mask register of the issuing group. -/
def State.putM (s : State) (k : Nat) (x : Word32) : State := s.setGrp ((s.grp.writeM k x).noteWrite (.m k))

end Sys2Proof.Machine
end

