-- ==== Sys2Proof/Machine/Memory.lean ====
section
/-!
DEFINITION. Physical memory (R273, R345), the writes and reads of HBM under the vector clocks (R276, R279, R281, R282),
peer and host memory (R287, R288, R360, R362), and reading and writing at a place.
-/

namespace Sys2Proof.Machine

/-- What lies at a physical address (R345). -/
inductive PhysKind where
  | hbm (d : Nat)
  | peer (chip : Nat)
  | host
  | unbacked
  deriving DecidableEq, Repr

/-- The memory type of a physical address (R345, R360). -/
def physKind (pa : Nat) : PhysKind :=
  if pa / 2 ^ 36 < 8 ∧ pa % 2 ^ 36 < 0xC00000000 then .hbm (pa / 2 ^ 36)
  else if 2 ^ 47 ≤ pa ∧ pa < 3 * 2 ^ 46 then .peer (pa / 2 ^ 39 % 128)
  else if 3 * 2 ^ 46 ≤ pa ∧ pa < 2 ^ 48 then .host
  else .unbacked

/-- Status bits of R205. -/
def stDerr : Nat := 1
def stPoison : Nat := 2
def stAbort : Nat := 4
def stIllf : Nat := 8
def stLink : Nat := 16

/-- What a read of an element returns: its bytes, zero where a failure affects it (R205), the stamps of the writes it
returned (R279), and the status bits it raises. -/
structure Got where
  bytes : List Byte
  stamp : Stamp
  status : Nat
  deriving DecidableEq, Repr

/-- A read that fails with a status: zero bits. -/
def Got.fail (n status : Nat) : Got := ⟨List.replicate n 0, [], status⟩

def Got.num (g : Got) : Nat := ofBytes g.bytes

/-! ## HBM -/

def Die.mark (d : Die) (pa : Nat) : Mark := Sparse.get Mark.clear d.marks pa

/-- A die takes one byte of a write, unless it holds a byte later in coherence order (R276). -/
def Die.putByte (d : Die) (pa : Nat) (b : Byte) (m : Mark) : Die :=
  if (d.mark pa).seq ≤ m.seq then
    { d with mem := Sparse.set 0 d.mem pa b, marks := Sparse.set Mark.clear d.marks pa m }
  else d

def Die.putBytes (d : Die) (pa : Nat) (m : Mark) : List Byte → Die
  | [] => d
  | b :: bs => (d.putByte pa b m).putBytes (pa + 1) m bs

/-- A die applies a write and advances the entry of the die it comes from (R281). -/
def Die.apply (d : Die) (w : HeldWrite) : Die :=
  let x := w.parts.foldl (fun d p => d.putBytes p.pa ⟨w.seq, w.stamp, p.poison, false⟩ p.bytes) d
  { x with vc := Sparse.set 0 x.vc w.src (w.stamp.at w.src) }

/-- May the die apply the write (R281)? -/
def Die.admits (d : Die) (w : HeldWrite) : Bool :=
  (List.range 8).all fun k =>
    if k = w.src then decide (d.vc.at k + 1 = w.stamp.at k) else decide (w.stamp.at k ≤ d.vc.at k)

/-- A write of HBM by die e (R281): it takes the next count and a stamp, die e applies it at once with the dies of now, and
every other die is told of it. Coherence order is the order of origination (log 13). -/
def State.writeParts (s : State) (e : Nat) (now : List Nat) (parts : List Part) (carry : Stamp) : State × Stamp :=
  let d := s.die e
  let σ := Sparse.set 0 (Stamp.max d.vc carry) e (d.vc.at e + 1)
  let w : HeldWrite := ⟨e, σ, s.nextSeq + 1, parts⟩
  ((List.range 8).foldl (fun s k =>
      if k = e ∨ k ∈ now then s.setDie k ((s.die k).apply w)
      else s.setDie k { (s.die k) with held := (s.die k).held ++ [w] }) { s with nextSeq := s.nextSeq + 1 }, σ)

/-- The write of one run of bytes. -/
def State.writeHbm (s : State) (e : Nat) (now : List Nat) (pa : Nat) (bytes : List Byte) (carry : Stamp)
    (poison : Bool) : State × Stamp := s.writeParts e now [⟨pa, bytes, poison⟩] carry

/-- n bytes of HBM as a die sees them: zero bits, and the status, where one of them is poisoned or bad (R205). -/
def Die.read (d : Die) (pa n : Nat) : Got :=
  let ks := span pa n
  let p := ks.any fun k => (d.mark k).poison
  let e := ks.any fun k => (d.mark k).bad
  ⟨if p || e then List.replicate n 0 else Sparse.getRange 0 d.mem pa n, Stamp.maxAll (ks.map fun k => (d.mark k).stamp),
   (if p then stPoison else 0) + (if e then stDerr else 0)⟩

/-- May a die serve an access that carries the stamp (R279)? -/
def State.ready (s : State) (die : Nat) (carry : Stamp) : Bool := carry.le (s.die die).vc

/-- Is every byte of the die at least at the given place in coherence order? -/
def Die.reaches (d : Die) (pa n : Nat) (least : Nat → Nat) : Bool :=
  (span pa n).all fun k => decide (least k ≤ (d.mark k).seq)

/-- May the home serve a read of the die: has it applied what the read carries, and does it hold no byte older than the die's
or than what the observer has read (R276, R279, R281)? -/
def State.homeServes (s : State) (die home : Nat) (carry : Stamp) (pa n : Nat) (least : Nat → Nat) : Bool :=
  s.ready home carry && (s.die home).reaches pa n least && (s.die home).reaches pa n fun k => ((s.die die).mark k).seq

/-- Is a read of HBM served at the home: where the die holds bytes older than the observer has read, or where the implementation
has it so and what is read differs (R276, R282)? -/
def State.servedHome (s : State) (die home : Nat) (carry : Stamp) (pa n : Nat) (least : Nat → Nat) : Bool :=
  let here := (s.die die).read pa n
  let there := (s.die home).read pa n
  !(s.die die).reaches pa n least ||
    (!(decide (here.bytes = there.bytes) && decide (here.status = there.status)) &&
      s.homeServes die home carry pa n least && Config.atHome s.fresh pa)

/-- An engine read of HBM (R282): from the state of the issuing die or from the home. least gives, by byte, the place in
coherence order of what the observer has read. -/
def State.readHbm (s : State) (die home : Nat) (carry : Stamp) (pa n : Nat) (least : Nat → Nat := fun _ => 0) : Got :=
  (s.die (if s.servedHome die home carry pa n least then home else die)).read pa n

/-- Has the home of the bytes applied everything that an indivisible update of die e at the home must follow (R211, R244):
what it carries, every older write of e, and the latest write of those bytes? -/
def State.homeReady (s : State) (e home : Nat) (carry : Stamp) (pa n : Nat) : Bool :=
  s.ready home (Stamp.max carry (s.die e).vc) &&
  (span pa n).all fun k => (List.range 8).all fun d => decide (((s.die d).mark k).seq ≤ ((s.die home).mark k).seq)

/-! ## Peer and host memory -/

/-- Is the port usable (R362)? -/
def Port.usable (p : Port) : Bool := p.state == .up || p.state == .degraded

/-- Can the peer chip be reached (R356, R360, R362)? -/
def State.peerUp (s : State) (chip : Nat) : Bool :=
  !(s.fencedChips.contains chip) && decide (Sparse.get [] s.routes chip ≠ [])

/-- The port an access to a peer takes (R360): entry address bits [15:8] mod m. -/
def State.peerPort (s : State) (chip pa : Nat) : Nat :=
  let r := Sparse.get [] s.routes chip
  r.getD (pa / 256 % 256 % r.length) 0

/-- Can host memory be reached over Pradan (R362)? -/
def State.hostUp (s : State) : Bool := (s.port 16).usable

/-- The bytes of the peer read buffer of a die, where it holds all of them (R287). -/
def Die.buffered (d : Die) (pa n : Nat) : Option (List Byte) :=
  let l := (span pa n).map fun k => Sparse.get none d.peerBuf k
  if l.all Option.isSome then some (l.map fun b => b.getD 0) else none

/-- A read of peer memory (R287): from the home, or from the buffer where it differs and the implementation serves it. -/
def State.readPeer (s : State) (die pa n : Nat) : Got :=
  let there := Sparse.getRange 0 s.peerMem pa n
  match (s.die die).buffered pa n with
  | some old => if old ≠ there ∧ Config.bufServes s.fresh pa then ⟨old, [], 0⟩ else ⟨there, [], 0⟩
  | none => ⟨there, [], 0⟩

/-- Lines fetched over Kazvel stay in the buffer of the die (R287). -/
def State.bufferPeer (s : State) (die pa : Nat) (bytes : List Byte) : State :=
  let d := s.die die
  s.setDie die { d with peerBuf := Sparse.setRange none d.peerBuf pa (bytes.map some) }

/-- A write of the die to peer bytes drops them from its buffer, so that its later reads keep issue order (R192, R287). -/
def State.unbuffer (s : State) (die pa n : Nat) : State :=
  let d := s.die die
  s.setDie die { d with peerBuf := Sparse.clearRange d.peerBuf pa (pa + n) }

/-- Every line of the die's buffer is dropped (R287). -/
def State.dropPeerBuf (s : State) (die : Nat) : State := s.setDie die { (s.die die) with peerBuf := [] }

/-! ## By physical address -/

/-- Read n bytes at a physical address for the die. -/
def State.readPhys (s : State) (die : Nat) (carry : Stamp) (pa n : Nat) (least : Nat → Nat := fun _ => 0) : Got :=
  match physKind pa with
  | .hbm home => s.readHbm die home carry pa n least
  | .peer chip => if s.peerUp chip then s.readPeer die pa n else Got.fail n (stPoison + stLink)
  | .host => if s.hostUp then ⟨Sparse.getRange 0 s.hostMem pa n, [], 0⟩ else Got.fail n (stPoison + stLink)
  | .unbacked => Got.fail n stPoison

/-- Write bytes at a physical address for the die: the new state, the write's stamp, and the status it raises. -/
def State.writePhys (s : State) (die pa : Nat) (bytes : List Byte) (carry : Stamp) (poison : Bool) :
    State × Stamp × Nat :=
  match physKind pa with
  | .hbm _ =>
    let r := s.writeHbm die [] pa bytes carry poison
    (r.1, r.2, 0)
  | .peer chip =>
    if s.peerUp chip then
      ({ s.unbuffer die pa bytes.length with peerMem := Sparse.setRange 0 s.peerMem pa bytes }, [], 0)
    else (s, [], stPoison + stLink)
  | .host =>
    if s.hostUp then ({ s with hostMem := Sparse.setRange 0 s.hostMem pa bytes }, [], 0)
    else (s, [], stPoison + stLink)
  | .unbacked => (s, [], stPoison)

/-- An indivisible update at the home (R211, R244): what was read there, and the state after the new bytes are written. -/
def State.updatePhys (s : State) (die pa n : Nat) (carry : Stamp) (poison : Bool) (f : List Byte → List Byte) :
    State × Got × Stamp :=
  match physKind pa with
  | .hbm home =>
    let old := (s.die home).read pa n
    let bad := poison || decide (old.status ≠ 0)
    let r := s.writeHbm die [home] pa (if bad then List.replicate n 0 else f old.bytes) carry bad
    (r.1, old, r.2)
  | .peer chip =>
    if s.peerUp chip then
      let old := Sparse.getRange 0 s.peerMem pa n
      ({ s.unbuffer die pa n with peerMem := Sparse.setRange 0 s.peerMem pa (f old) }, ⟨old, [], 0⟩, [])
    else (s, Got.fail n (stPoison + stLink), [])
  | .host =>
    if s.hostUp then
      let old := Sparse.getRange 0 s.hostMem pa n
      ({ s with hostMem := Sparse.setRange 0 s.hostMem pa (f old) }, ⟨old, [], 0⟩, [])
    else (s, Got.fail n (stPoison + stLink), [])
  | .unbacked => (s, Got.fail n stPoison, [])

/-- May the update be carried out now? -/
def State.updateReady (s : State) (die pa n : Nat) (carry : Stamp) : Bool :=
  match physKind pa with
  | .hbm home => s.ready die carry && s.homeReady die home carry pa n
  | .host => s.ready 0 carry
  | _ => true

/-! ## By place -/

/-- Read n bytes at a place for an engine of the die. -/
def State.readPlace (s : State) (die : Nat) (carry : Stamp) (p : Place) (n : Nat) (least : Nat → Nat := fun _ => 0) : Got :=
  match p with
  | .spad k a =>
    let st := (s.gang k).spadStatus a n
    if st = 0 then ⟨bytesOf n (s.readSpad k a n), [], 0⟩ else Got.fail n st
  | .ws d off => ⟨Sparse.getRange 0 (s.die d).ws off n, [], 0⟩
  | .phys pa => s.readPhys die carry pa n least
  | .unread => Got.fail n stPoison

/-- Write bytes at a place; the weight store has no store and nowhere takes nothing. -/
def State.writePlace (s : State) (die : Nat) (carry : Stamp) (p : Place) (bytes : List Byte) (poison : Bool) :
    State × Stamp × Nat :=
  match p with
  | .spad k a => (s.setGang k ((s.gang k).putSpad a bytes), [], 0)
  | .ws _ _ => (s, [], 0)
  | .phys pa => s.writePhys die pa bytes carry poison
  | .unread => (s, [], stPoison)

/-- May an access of n bytes at the place go on (R276, R279, R288)? HBM waits for what the access carries, and for bytes no older
than the observer has read; host memory waits until die 0, whose port serves it, has applied what the access carries. -/
def State.placeReady (s : State) (die : Nat) (carry : Stamp) (p : Place) (n : Nat) (least : Nat → Nat := fun _ => 0) : Bool :=
  match p with
  | .phys pa => match physKind pa with
    | .hbm home => s.ready die carry && ((s.die die).reaches pa n least || s.homeServes die home carry pa n least)
    | .host => s.ready 0 carry
    | _ => true
  | _ => true

/-! ## The weight store (R349) -/

/-- The map entry that holds the weight-store address (R349). -/
def wsEntry (map : List WsEntry) (a : Nat) : Option WsEntry :=
  map.find? fun e => decide (e.len ≠ 0) && decide (e.base ≤ a) && decide (a < e.base + e.len)

/-- The place of a weight-store byte for an engine of the die: none where no readable entry holds it on that die. -/
def wsByte (map : List WsEntry) (die a : Nat) : Option Nat :=
  match wsEntry map a with
  | some e => if e.rd && bitAt e.dies die then some (a - e.base + e.phys) else none
  | none => none

/-- n bytes of the weight store at a context address, each through its own entry; none when out of range. -/
def State.readWs (s : State) (map : List WsEntry) (die a n : Nat) : Option (List Byte) :=
  let l := (span a n).map fun k => (wsByte map die k).map fun off => Sparse.get 0 (s.die die).ws off
  if l.all Option.isSome then some (l.map fun b => b.getD 0) else none

end Sys2Proof.Machine
end

