-- ==== Sys2Proof/Machine/Pages.lean ====
section
/-!
DEFINITION. Page tables, the quarter TLB and the checks of a virtual access (R189, R202, R346 to R350), and reading code
(R53, R348).
-/

namespace Sys2Proof.Machine

/-- The kind of access a page must allow (R347). -/
inductive Access where
  | read
  | write
  | both
  | fetch
  deriving DecidableEq, Repr

/-- A level of the tables: the lowest index bit, the index bits, whether a leaf may stand here, and the size of the tables
below (R347). -/
structure Level where
  shift : Nat
  bits : Nat
  leaf : Bool
  below : Nat
  deriving DecidableEq, Repr

/-- The four levels. -/
def levels : List Level := [⟨39, 13, false, 4096⟩, ⟨30, 9, true, 4096⟩, ⟨21, 9, true, 256⟩, ⟨16, 5, true, 0⟩]

/-- The cached form of a leaf that maps the virtual address. -/
def leafOf (ctx va shift e : Nat) : TlbEntry :=
  { ctx := ctx, va := va / 2 ^ shift * 2 ^ shift, size := 2 ^ shift, frame := field e 8 40 * 256, rd := bitAt e 60,
    wr := bitAt e 61, x := bitAt e 62, sup := bitAt e 63 }

/-- The walk from a table on (R347): none is not present. Permissions of table entries are not read. -/
def State.walk (s : State) (die : Nat) (carry : Stamp) (ctx va : Nat) : Nat → List Level → Option TlbEntry
  | _, [] => none
  | base, lv :: rest =>
    let e := (s.readPhys die carry (base + 8 * field va lv.shift lv.bits) 8).num
    let a := field e 8 40 * 256
    if bitAt e 0 && decide (field e 48 12 = 0) && decide (field e 3 5 = 0) then
      match field e 1 2 with
      | 0 => if lv.below = 0 ∨ a % lv.below ≠ 0 then none else s.walk die carry ctx va a rest
      | 1 => if lv.leaf ∧ a % 2 ^ lv.shift = 0 then some (leafOf ctx va lv.shift e) else none
      | _ => none
    else none

/-- What a translation finds. -/
inductive Found where
  | leaf (e : TlbEntry)
  | absent
  | hold
  deriving DecidableEq, Repr

def foundOf : Option TlbEntry → Found
  | some e => .leaf e
  | none => .absent

/-- The TLB entry of the quarter that maps the address (R348). -/
def Quarter.lookup (q : Quarter) (ctx va : Nat) : Option TlbEntry :=
  q.tlb.find? fun e => decide (e.ctx = ctx) && decide (e.va ≤ va) && decide (va < e.va + e.size)

/-- Find the leaf for an address of a context (R348, R350): a cached leaf that differs from the tables serves where the
implementation has it so; a walk is held until the die has applied what the access carries. -/
def State.find (s : State) (q ctx va : Nat) (carry : Stamp) : Found :=
  let c := s.context ctx
  if c.pbase ≤ va ∧ va < c.plim ∧ c.phwm ≤ va then .absent
  else
    let w := if s.ready (q / 4) carry then foundOf (s.walk (q / 4) carry ctx va c.root levels) else .hold
    match (s.quarter q).lookup ctx va with
    | none => w
    | some e => if w = .leaf e then w else if Config.tlbServes s.fresh (va / 65536) then .leaf e else w

/-- Keep a leaf in the TLB of the quarter, which holds 2,048 entries (R348). -/
def State.cache (s : State) (q : Nat) (e : TlbEntry) : State :=
  let x := s.quarter q
  if x.tlb.contains e then s else s.setQuarter q { x with tlb := (e :: x.tlb).take 2048 }

/-- Does the leaf allow the access at the level (R347)? -/
def leafAllows (acc : Access) (sup : Bool) (e : TlbEntry) : Bool :=
  (sup || !e.sup) &&
  match acc with
  | .read => e.rd
  | .write => e.wr
  | .both => e.rd && e.wr
  | .fetch => e.x

/-- The outcome of a checked translation. -/
inductive Xlate where
  | ok (pa : Nat) (e : TlbEntry)
  | fault (cause : Nat)
  | hold
  deriving DecidableEq, Repr

/-- Translate and check one address (R347). -/
def State.xlate (s : State) (q ctx va : Nat) (acc : Access) (sup : Bool) (carry : Stamp) : Xlate :=
  match s.find q ctx va carry with
  | .hold => .hold
  | .absent => .fault 0x30
  | .leaf e => if leafAllows acc sup e then .ok (e.frame + (va - e.va)) e else .fault 0x31

/-- Is the address in the context's private region (R350)? -/
def Context.isPrivate (c : Context) (va : Nat) : Bool := decide (c.pbase ≤ va) && decide (va < c.plim)

/-- Does a window's permission hold the access kind (R202)? -/
def permAllows (acc : Access) : Perm → Bool
  | .r => acc == .read
  | .w => acc == .write
  | .rw => acc != .fetch

/-- The checks of one lane's engine access, in the order of R189. frame is where the fast path of the window leads; a user split
is refused there as the leaf refuses it (R347). -/
def State.laneCheck (s : State) (q ctx : Nat) (w : Window) (o : Int) (width : Nat) (acc : Access) (isPriv sup : Bool)
    (carry : Stamp) : Xlate :=
  let a := (w.base : Int) + o
  if !w.valid then .fault 0x31
  else if o % (width : Int) ≠ 0 then .fault 0x32
  else if o < 0 ∨ (2 : Int) ^ 52 ≤ a then .fault 0x33
  else if !permAllows acc w.perm then .fault 0x31
  else if (s.context ctx).isPrivate a.toNat != isPriv then .fault 0x31
  else if isPriv && decide ((s.context ctx).phwm ≤ a.toNat) then .fault 0x30
  else if o < (w.flim : Int) then
    if w.sup && !sup then .fault 0x31 else .ok (w.frame + o.toNat) ⟨ctx, 0, 0, 0, false, false, false, false⟩
  else s.xlate q ctx a.toNat acc sup carry

/-- Keep the leaf a check went through; the fast path went through none. -/
def State.cacheOf (s : State) (q : Nat) : Xlate → State
  | .ok _ e => if e.size = 0 then s else s.cache q e
  | _ => s

/-- LCAUSE of a cause (R354). -/
def lcauseOf (cause : Nat) : Nat := if cause = 0x24 then 4 else cause - 0x30

/-- ACC of an access kind (R354). -/
def accCode : Access → Nat
  | .read => 0
  | .write => 1
  | .both => 2
  | .fetch => 3

/-! ## Code -/

/-- Why words of code are not there: the walk is held (R348), or the word at an address cannot be fetched (R53). -/
inductive NoCode where
  | held
  | fault (va : Nat)
  deriving DecidableEq, Repr

/-- n words of code from a virtual address on, wrapping at 2^52, with the leaves used (R53). The walks carry what the split that
fetches carries (R348); the words themselves are read as the die holds them (log 9). -/
def State.fetchWords (s : State) (q ctx : Nat) (sup : Bool) (carry : Stamp) (va : Nat) :
    Nat → Except NoCode (List Nat × List TlbEntry)
  | 0 => .ok ([], [])
  | n + 1 =>
    match s.xlate q ctx (va % 2 ^ 52) .fetch sup carry with
    | .hold => .error .held
    | .fault _ => .error (.fault (va % 2 ^ 52))
    | .ok pa e =>
      match s.fetchWords q ctx sup carry (va + 4) n with
      | .error a => .error a
      | .ok (ws, es) => .ok ((s.readPhys (q / 4) [] pa 4).num :: ws, e :: es)

end Sys2Proof.Machine
end

