-- ==== Sys2Proof/Machine/Points.lean ====
section
/-!
DEFINITION. Flashback points (R30, R316, R334, R335): taking one, rewinding to it, and the counters of R339; the creation
of a group and the resources of a core (R14, R81, R107, R132, R299).
-/

namespace Sys2Proof.Machine

/-- Add n to counter k of a context that is resident or being switched out (R339). -/
def State.count (s : State) (ctx k n : Nat) : State :=
  let c := s.context ctx
  if c.issues then s.setContext ctx { c with counters := Sparse.modify 0 c.counters k fun x => (x + n) % 2 ^ 64 } else s

/-- Does a request or a grant belong to a split of the group? -/
def Power.ofGroup (p : Power) (gid : Nat) : Bool :=
  match p.user with
  | .split g _ => decide (g = gid)
  | _ => false

/-- What the splits of a group have asked of the governor or been granted ends; the cycles waited are counted (R339, R397). -/
def State.endRequests (s : State) (gid : Nat) : State :=
  let d := s.die (dieOf gid)
  let waited := ((d.requests.filter fun p => p.ofGroup gid).map fun p => s.clock - p.since).sum
  (s.setDie (dieOf gid) { d with requests := d.requests.filter (fun p => !p.ofGroup gid),
                                 grants := d.grants.filter fun p => !p.ofGroup gid }).count (s.group gid).ctx 1 waited

/-- The image the group's grid runs (R318). -/
def State.image (s : State) (g : Group) : Option Image :=
  (s.context g.ctx).images.find? fun i => decide (i.base = (s.grid g.grid).image)

/-- The flashback-table entry of a PC (R316). -/
def State.flashEntry (s : State) (g : Group) (pc : Nat) : Option FlashPoint :=
  match s.image g with
  | some i => i.points.find? fun p => decide (p.point = pc)
  | none => none

/-- The register of a code of R316. -/
def regOfCode (c : Nat × Nat) : RegId :=
  match c.1 with
  | 0 => .v c.2
  | 1 => .s c.2
  | _ => .m c.2

/-- The control snapshot (R334). -/
def Group.snapshot (g : Group) : Snapshot :=
  { splits := g.splits, stack := g.stack, w := g.w, t := g.t, f := g.f, crit := g.crit, mxstat := g.mxstat,
    latch := g.latch, tlost := g.tlost, edge := g.edge, recipes := g.recipes, fences := g.fences }

/-- Split e issues a flashback point at pc, with its table entry or by the default rule; the snapshot has the AGE and promotion
that the split had before it was chosen (R334). -/
def Group.takePoint (g : Group) (e : Nat) (was : Split) (pc : Addr52) (p : Option FlashPoint) : Group :=
  { g with
    rewind := true
    record := some
      { pc := pc, entry := e,
        saved := match p with
          | some x => .some (x.saved.map regOfCode)
          | none => .all,
        recipe := match p with
          | some x => x.recipe
          | none => none,
        snap := (g.setSplit e { (g.split e) with age := was.age, promoted := was.promoted }).snapshot } }

/-- A split that stood held for a power grant asks again (R397). -/
def Split.unheld (x : Split) : Split :=
  if x.hold = .power ∨ x.hold = .granted then { x with hold := .none } else x

/-- A recipe that ends or is given up leaves s63 as the saved set holds it (R30), a write as any other (R334). -/
def Group.unlinkOne (g : Group) (r : Recipe) : Group :=
  match r.link with
  | some x => (g.writeS 63 x).noteWrite (.s 63)
  | none => g

/-- The recipes that are given up when the group goes back to those of a snapshot: the ones begun since, innermost first. -/
def Group.unlink (g : Group) (kept : List Recipe) : Group :=
  (g.recipes.take (g.recipes.length - kept.length)).foldl Group.unlinkOne g

/-- Rewind to the point (R335 step 2): the snapshot is restored and the group stops issuing. -/
def Group.flashBack (g : Group) : Group :=
  match g.record with
  | none => g
  | some r =>
    { g.unlink r.snap.recipes with
      life := .flashed, splits := Sparse.mapVals Split.free (fun _ x => x.unheld) r.snap.splits, stack := r.snap.stack, w := r.snap.w,
      t := r.snap.t, f := r.snap.f, crit := r.snap.crit, mxstat := r.snap.mxstat, latch := r.snap.latch,
      tlost := r.snap.tlost, edge := r.snap.edge, drain := none, preempt := false, recipes := r.snap.recipes,
      fences := g.fences.filter fun f => r.snap.fences.contains f }

/-- Rewind a group of the device and count it (R339). -/
def State.rewindGroup (s : State) (gid : Nat) : State :=
  ((s.endRequests gid).setGroup gid (s.group gid).flashBack).count (s.group gid).ctx 3 1

/-- Does the group rewind at the next point: is it in drain mode and not critical (R335)? -/
def Group.drains (g : Group) : Bool := g.drain.isSome && !g.isCritical

/-- Has the drain timer of the group expired, so that its context is reset (R335)? -/
def Group.drained (g : Group) (clock : Nat) : Bool :=
  match g.drain with
  | some t => decide (t ≤ clock)
  | none => false

/-- The issuing split issues a flashback point: the point is taken, and in drain mode the group is rewound at once (R335
step 3); otherwise the instruction goes on with k. -/
def State.atPoint (s : State) (k : State → State) : State :=
  let g := s.grp
  let s1 := s.setGrp (g.takePoint s.cur.entry s.was s.pc (s.flashEntry g s.pc.toNat))
  if g.drains then s1.rewindGroup s.cur.gid else k s1

/-- Is the split held on a request that Umber or the host driver answers (R327, R352)? -/
def Split.onRequest (x : Split) : Bool := x.hold == .translation || x.hold == .escalation

/-- Is every split of the group waiting, joining or held, by a trap or on a request, so that none issues again before
something outside the group happens (R335)? -/
def Group.allStand (g : Group) : Bool :=
  g.validEntries.all fun e =>
    let x := g.split e
    x.state != .runnable || x.onRequest

/-- The record by which a group that stands with rewind-allowed clear is rewound (R335; log 40): that of the TRAP where a split
is held on a request, and otherwise one of the present state, which saves every register. -/
def Group.standingRecord (g : Group) : Group :=
  if g.validEntries.any fun e => (g.split e).onRequest then g
  else
    match g.validEntries with
    | e :: _ => { g with record := some ⟨(g.split e).pc, e, .all, none, g.snapshot⟩ }
    | [] => g

/-- Carry a pre-emption request one step on for a group (R335): deferred while critical, rewound with rewind-allowed set or
when all its splits stand, and otherwise in drain mode from now on; once its drain timer has expired it only awaits the reset. The
state of a frozen core and of a faulted context is kept (R333, R396). -/
def State.preemptGroup (s : State) (gid : Nat) : State :=
  let g := s.group gid
  if g.preempt && g.runs && !g.isCritical && !g.drained s.clock && !s.coreStands gid &&
      (s.context g.ctx).state != .faulted then
    if g.rewind then s.rewindGroup gid
    else if g.allStand then (s.setGroup gid g.standingRecord).rewindGroup gid
    else if g.drain.isNone then
      (s.setGroup gid { g with drain := some (s.clock + (s.context g.ctx).drainlim) }).count g.ctx 4 1
    else s
  else s

/-! ## New groups and the resources of a core -/

/-- A group as dispatch makes it (R107). -/
def newGroup (ctx grid gang prio : Nat) (d : Decl) (pos : Position) (entry : Addr52) (mask : Word32) : Group :=
  { Group.free with
    life := .resident, ctx := ctx, grid := grid, gang := gang, prio := prio, decl := d, pos := pos,
    splits := [(0, Split.run entry mask 16 false)] }

/-- Bytes of the register pool and of the tangent file that a declaration takes (R14, R81). -/
def Decl.pool (d : Decl) : Nat := d.c * 128
def Decl.tangents (d : Decl) : Nat := d.n * d.d * 32 * (if d.bf16 then 2 else 4)

/-- The groups of a core that hold resources. -/
def State.coreGroups (s : State) (core : Nat) : List (Nat × Group) :=
  s.groups.filter fun p => decide (coreOf p.1 = core) && p.2.life != .free

/-- The group contexts of a core that are free, lowest first. -/
def State.freeContexts (s : State) (core : Nat) : List Nat :=
  (List.range 64).filter fun k => (s.group (64 * core + k)).life == .free

/-- Does one more group of the declaration fit the register pool and the tangent file of the core (R14, R81)? -/
def State.poolFits (s : State) (core n : Nat) (d : Decl) : Bool :=
  let l := s.coreGroups core
  decide ((l.map fun p => p.2.decl.pool).sum + n * d.pool ≤ 262144) &&
  decide ((l.map fun p => p.2.decl.tangents).sum + n * d.tangents ≤ 262144)

/-- The resident gangs of a core. -/
def State.coreGangs (s : State) (core : Nat) : List (Nat × Gang) :=
  s.gangs.filter fun p => decide (p.2.core = core) && p.2.life == .resident

/-- Do the scratchpad and the barrier slots of the core hold one more gang of the declaration (R13, R96, R299)? -/
def State.gangFits (s : State) (core : Nat) (d : Decl) : Bool :=
  let l := s.coreGangs core
  decide ((l.map fun p => p.2.decl.occupancy).sum + d.occupancy ≤ 524288) &&
  decide ((l.map fun p => popCount 32 p.2.decl.barmask).sum + popCount 32 d.barmask ≤ 32)

/-- The groups of a gang that have not retired. -/
def State.gangGroups (s : State) (gang : Nat) : List (Nat × Group) :=
  s.groups.filter fun p => decide (p.2.gang = gang) && p.2.life != .free

end Sys2Proof.Machine
end

