-- ==== Sys2Proof/Machine/Bank.lean ====
section
/-!
DEFINITION. The accumulator bank of a quarter (R220 to R223), its ownership and the switch of owners (R247 to R250, R426),
fused blocks (R234, R239) and the weight version rings (R241, R242, R285).
-/

namespace Sys2Proof.Machine

/-! ## Tiles -/

/-- Element i of tile k, by 32 row + column. -/
def Quarter.readTile (x : Quarter) (k i : Nat) : Word32 := Sparse.get 0 x.tiles (1024 * k + i)
def Quarter.writeTile (x : Quarter) (k i : Nat) (w : Word32) : Quarter :=
  { x with tiles := Sparse.set 0 x.tiles (1024 * k + i) w }

/-- All 1,024 elements of a tile. -/
def Quarter.tile (x : Quarter) (k : Nat) : List Word32 := Sparse.getRange 0 x.tiles (1024 * k) 1024
def Quarter.putTile (x : Quarter) (k : Nat) (ws : List Word32) : Quarter :=
  { x with tiles := Sparse.setRange 0 x.tiles (1024 * k) ws }

/-- Every element of a tile becomes +0. -/
def Quarter.clearTile (x : Quarter) (k : Nat) : Quarter :=
  { x with tiles := Sparse.clearRange x.tiles (1024 * k) (1024 * k + 1024) }

def Quarter.isLive (x : Quarter) (k : Nat) : Bool := Sparse.get false x.live k
def Quarter.setLive (x : Quarter) (k : Nat) (b : Bool) : Quarter := { x with live := Sparse.set false x.live k b }

/-- The live tiles of the bank, in ascending order. -/
def Quarter.liveTiles (x : Quarter) : List Nat := Sparse.keys x.live

/-- A tile becomes free: its contents are free values (R222, log 5). -/
def Quarter.freeTile (fresh : Nat) (x : Quarter) (k : Nat) : Quarter :=
  (x.putTile k ((List.range 1024).map fun i => Config.freeWord fresh (2 ^ 20 + 1024 * k + i))).setLive k false

/-- The tiles of a run. -/
def runTiles : Run → List Nat
  | none => []
  | some (f, n) => span f n

/-- The bank as a clear leaves it: unowned, nothing live, every element +0. -/
def Quarter.clearBank (x : Quarter) : Quarter := { x with owned := false, octx := 0, tiles := [], live := [] }

/-! ## Save areas (R249, R330) -/

/-- Where the image of tile k of device quarter q stands in the context's save area. -/
def Context.tileSave (c : Context) (q k : Nat) : Nat := c.accsave + 4194304 * q + 4096 * k

/-- Key of tile k of quarter q in the spill record. -/
def spillKey (q k : Nat) : Nat := 1024 * q + k

/-- What the record holds of tile k of quarter q: 0, or one more than the quarter in whose save area its image stands. -/
def Context.spillOf (c : Context) (q k : Nat) : Nat := Sparse.get 0 c.spill (spillKey q k)
def Context.spilled (c : Context) (q k : Nat) : Bool := c.spillOf q k != 0
def Context.setSpill (c : Context) (q k n : Nat) : Context := { c with spill := Sparse.set 0 c.spill (spillKey q k) n }

/-- Tiles recorded for one quarter are recorded for another, where their band resumes; their images stay in place (R342). -/
def Context.moveSpill (c : Context) (from_ q : Nat) (ks : List Nat) : Context :=
  ks.foldl (fun c k => if c.spilled from_ k then (c.setSpill q k (c.spillOf from_ k)).setSpill from_ k 0 else c) c

/-- The tiles of quarter q in the spill record. -/
def Context.spillTiles (c : Context) (q : Nat) : List Nat := (List.range 1024).filter (c.spilled q)

/-- Discard the images of quarter q. -/
def Context.dropSpill (c : Context) (q : Nat) : Context :=
  { c with spill := Sparse.clearRange c.spill (1024 * q) (1024 * q + 1024) }

/-- The physical pieces of a tile's image in the save area of quarter area, each with its length: none where a page fails
translation. -/
def State.tilePieces (s : State) (q ctx area k : Nat) (acc : Access) : Option (List (Nat × Nat)) :=
  let va := (s.context ctx).tileSave area k
  let n := Nat.min 4096 (65536 - va % 65536)
  let one := fun (a m : Nat) => match s.xlate q ctx a acc true [] with
    | .ok pa _ => some (pa, m)
    | _ => none
  match one va n, (if n = 4096 then some [] else (one (va + n) (4096 - n)).map fun p => [p]) with
  | some p, some l => some (p :: l)
  | _, _ => none

/-- Write bytes over pieces. -/
def State.writePieces (s : State) (die : Nat) : List (Nat × Nat) → List Byte → State
  | [], _ => s
  | (pa, n) :: l, bs => ((s.writePhys die pa (bs.take n) [] false).1).writePieces die l (bs.drop n)

/-- Read the bytes of pieces. -/
def State.readPieces (s : State) (die : Nat) (l : List (Nat × Nat)) : List Byte :=
  l.flatMap fun p => (s.readPhys die [] p.1 p.2).bytes

/-- Words of 4 bytes. -/
def tileWords : List Byte → List Word32
  | a :: b :: c :: d :: l => BitVec.ofNat 32 (ofBytes [a, b, c, d]) :: tileWords l
  | _ => []

/-! ## The switch (R249, R426) -/

/-- Step 2 for one live tile: written out and recorded, or lost. -/
def State.spillTile (s : State) (q ctx k : Nat) (ps : Option (List (Nat × Nat))) : State :=
  match ps with
  | none => s
  | some l =>
    let s1 := s.writePieces (q / 4) l (((s.quarter q).tile k).flatMap fun w => bytesOf 4 w.toNat)
    s1.setContext ctx ((s1.context ctx).setSpill q k (q + 1))

/-- Step 2: every live tile of the previous owner; its context is faulted when a tile is lost. by_ is the context whose own
group causes the switch, which counts the tiles (R339). -/
def State.spillBank (s : State) (q ctx : Nat) (by_ : Option Nat) (ps : List (Nat × Option (List (Nat × Nat)))) : State :=
  let s1 := ps.foldl (fun s p => s.spillTile q ctx p.1 p.2) s
  let n := (ps.filter fun p => p.2.isSome).length
  let s2 := match by_ with
    | some c => s1.count c 5 n
    | none => s1
  if ps.all fun p => p.2.isSome then s2 else s2.faultContext ctx

/-- Steps 3 to 5 for a new owner: its images come back, or its context is faulted and the bank stays unowned. -/
def State.fillBank (s : State) (q ctx : Nat) (ps : List (Nat × Option (List (Nat × Nat)))) : State :=
  let x := (s.quarter q).clearBank
  let s0 := s.setContext ctx ((s.context ctx).dropSpill q)
  if ps.all fun p => p.2.isSome then
    s0.setQuarter q (ps.foldl (fun x p =>
      (x.putTile p.1 (tileWords (s.readPieces (q / 4) (p.2.getD [])))).setLive p.1 true)
      { x with owned := true, octx := ctx })
  else (s0.setQuarter q x).faultContext ctx

/-- The switch of the bank of quarter q to a new owner, or to none. The pages are translated before anything is written. -/
def State.switchBank (s : State) (q : Nat) (next by_ : Option Nat) : State :=
  let x := s.quarter q
  let old := x.liveTiles.map fun k => (k, s.tilePieces q x.octx q k .write)
  let new := match next with
    | some c => ((s.context c).spillTiles q).map fun k => (k, s.tilePieces q c ((s.context c).spillOf q k - 1) k .read)
    | none => []
  let s1 := if x.owned then s.spillBank q x.octx by_ old else s
  match next with
  | some c => s1.fillBank q c new
  | none => s1.setQuarter q (s1.quarter q).clearBank

/-- Go on with k when the group's context owns the bank, taking an unowned one first; trap when another owns it (R248). -/
def State.touchBank (s : State) (k : State → State) : State :=
  let q := quarterOf s.cur.gid
  let x := s.quarter q
  if x.owned then (if x.octx = s.grp.ctx then k s else s.trapAll 0x40)
  else
    let s1 := s.switchBank q (some s.grp.ctx) (some s.grp.ctx)
    if (s1.quarter q).owned then k s1 else s1

/-- Has every matrix operation of the owner that arrived at the quadrant completed (R249 step 1)? -/
def State.bankQuiet (s : State) (q : Nat) : Bool :=
  s.groups.all fun p => decide (quarterOf p.1 ≠ q) || decide (p.2.ctx ≠ (s.quarter q).octx) ||
    p.2.ops.all fun o => o.done || o.cls != .mx

/-- ACCOWN_SWITCH (R249): the switch that a held SWR waits for, and the end of its hold. A split of a faulted context stays at
its SWR (R333, R426). -/
def execAccownSwitch (gid e : Nat) (s : State) : Out :=
  let g := s.group gid
  let q := quarterOf gid
  let x := s.quarter q
  let resume := fun (s : State) (next : Addr52) =>
    s.setGroup gid ((s.group gid).setSplit e { ((s.group gid).split e) with hold := .none, pc := next })
  .next (
    match (g.split e).hold with
    | .accown release next =>
      let mine := x.owned && decide (x.octx = g.ctx)
      if !(s.context g.ctx).issues then s
      else if mine != release then resume s next
      else if x.owned && !s.bankQuiet q then s
      else if release then resume (s.switchBank q none (some g.ctx)) next
      else
        let s1 := s.switchBank q (some g.ctx) (some g.ctx)
        if (s1.quarter q).owned then resume s1 next else s1
    | _ => s)

/-! ## Fused blocks (R234, R239) -/

/-- PE rows and columns of a block in a fusion mode. -/
def blockRows (mode : Nat) : Nat := if mode = 2 ∨ mode = 3 then 512 else 256
def blockCols (mode : Nat) : Nat := if mode = 1 ∨ mode = 3 then 512 else 256

/-- K indices of one pass. -/
def blockK (mode : Nat) (ty : Ty) : Nat := (if ty = .e4m3 then 4 else 2) * blockRows mode

/-- Length of a streamed row, and outputs of a row; 32 outputs make a tile. -/
def rowLength (mode : Nat) (ty : Ty) (back : Bool) : Nat := if back then blockCols mode else blockK mode ty
def outputs (mode : Nat) (ty : Ty) (back : Bool) : Nat := if back then blockK mode ty else blockCols mode

/-- The lead quarter of quarter q, by its number on the die. -/
def Quarter.leadOf (x : Quarter) (q : Nat) : Nat := if x.fuse = 0 then q % 4 else x.lead

/-- Does the quarter lead its block? -/
def Quarter.leads (x : Quarter) (q : Nat) : Bool := decide (x.leadOf q = q % 4)

/-! ## Rings (R241, R242, R285) -/

/-- Where a ring of a context stands: one location for each, above every physical address and ordered as HBM. Byte 0 holds
K; slot i has VALID, TAG and BASE at bytes 16 + 16 i, 20 + 16 i and 24 + 16 i (log 27). -/
def ringAt (ctx ring : Nat) : Nat := 2 ^ 48 + 256 * (64 * ctx + ring)

/-- Bytes of the location that a ring uses. -/
def ringBytes : Nat := 144

/-- May the issuing group change the ring: has its die applied what it carries and every older write of the ring? -/
def State.ringReady (s : State) (ring : Nat) : Bool :=
  let d := dieOf s.cur.gid
  s.homeReady d d s.grp.groupHorizon (ringAt s.grp.ctx ring) ringBytes

/-- n bytes of the ring at an offset, as the issuing die sees them. -/
def State.ringGet (s : State) (ring off n : Nat) : Nat :=
  ((s.die (dieOf s.cur.gid)).read (ringAt s.grp.ctx ring + off) n).num

/-- Write bytes of the ring: one indivisible and irrevocable write of the issuing group. -/
def State.ringPut (s : State) (ring off : Nat) (bytes : List Byte) : State :=
  let r := s.writeHbm (dieOf s.cur.gid) [] (ringAt s.grp.ctx ring + off) bytes s.grp.groupHorizon false
  let g := r.1.grp
  r.1.setGrp { g with wrote := Stamp.max g.wrote r.2 }

/-- The BASE that tag g finds in the ring, if a slot holds it. -/
def State.ringBase (s : State) (ring g : Nat) : Option Nat :=
  let k := s.ringGet ring 0 1
  let off := 16 + 16 * (g % k)
  if k ≠ 0 ∧ s.ringGet ring off 1 = 1 ∧ s.ringGet ring (off + 4) 4 = g then some (s.ringGet ring (off + 8) 8) else none

/-- The stamp of what a lookup of the ring returns. -/
def State.ringStamp (s : State) (ring : Nat) : Stamp :=
  ((s.die (dieOf s.cur.gid)).read (ringAt s.grp.ctx ring) ringBytes).stamp

/-- Every ring of a context becomes uninitialised on every die. -/
def State.clearRings (s : State) (ctx : Nat) : State :=
  let lo := ringAt ctx 0
  let hi := ringAt (ctx + 1) 0
  (List.range 8).foldl (fun s d =>
    let x := s.die d
    s.setDie d { x with
      mem := Sparse.clearRange x.mem lo hi, marks := Sparse.clearRange x.marks lo hi,
      held := x.held.map fun w => { w with parts := w.parts.filter fun p => decide (p.pa < lo) || decide (hi ≤ p.pa) } }) s

end Sys2Proof.Machine
end

