-- ==== Sys2Proof/Machine/Exact.lean ====
section
/-!
DEFINITION. Exact values and their roundings (R57 to R67, R34): a value is NaN, a signed infinity, or a signed
fraction; arithmetic on values is exact, and a rounding happens only in roundTo.
-/

namespace Sys2Proof.Machine

/-- What a floating element stands for (R34): NaN, an infinity, or a sign with the magnitude n / d. -/
inductive XVal where
  | nan
  | inf (neg : Bool)
  | fin (neg : Bool) (n d : Nat)
  deriving DecidableEq, Repr

/-- A floating format (R57): fraction bits, exponent bits, and whether the top exponent is an ordinary binade (E4M3). -/
structure Fmt where
  frac : Nat
  expo : Nat
  e4m3 : Bool
  deriving DecidableEq, Repr

def Fmt.f32 : Fmt := ⟨23, 8, false⟩
def Fmt.f16 : Fmt := ⟨10, 5, false⟩
def Fmt.bf16 : Fmt := ⟨7, 8, false⟩
def Fmt.e4m3Fmt : Fmt := ⟨3, 4, true⟩

/-- The exponent bias of the format (R57): 127, 15, 127 and 7. -/
def Fmt.bias (f : Fmt) : Nat := 2 ^ (f.expo - 1) - 1

/-- The sign bit's weight. -/
def Fmt.signBit (f : Fmt) : Nat := 2 ^ (f.frac + f.expo)

/-- The canonical NaN of the format (R59). -/
def Fmt.canonicalNaN (f : Fmt) : Nat :=
  if f.e4m3 then 0x7F else (2 ^ f.expo - 1) * 2 ^ f.frac + 2 ^ (f.frac - 1)

/-- The magnitude bits of infinity (R57). -/
def Fmt.infBits (f : Fmt) : Nat := (2 ^ f.expo - 1) * 2 ^ f.frac

/-- The magnitude bits of the largest finite element (R57): 0x7E in E4M3. -/
def Fmt.maxBits (f : Fmt) : Nat := if f.e4m3 then 0x7E else f.infBits - 1

/-- A rounding mode (R39, R64); SR carries its random bits and their number (R65). -/
inductive Rnd where
  | rne | rtz | rup | rdn
  | sr (bits n : Nat)
  deriving DecidableEq, Repr

/-- n / d times a power of two with an integer exponent. -/
def scale2 (n d : Nat) (e : Int) : Nat × Nat :=
  if 0 ≤ e then (n * 2 ^ e.toNat, d) else (n, d * 2 ^ (-e).toNat)

/-- The value of the element bits b (R57). Code 0x80 of E4M3 reads as +0 (R61). -/
def Fmt.value (f : Fmt) (b : Nat) : XVal :=
  let neg := bitAt b (f.frac + f.expo)
  let ex := field b f.frac f.expo
  let fr := field b 0 f.frac
  if f.e4m3 && b % 256 = 0x80 then .fin false 0 1
  else if f.e4m3 && b % 128 = 0x7F then .nan
  else if !f.e4m3 && ex = 2 ^ f.expo - 1 then (if fr = 0 then .inf neg else .nan)
  else if ex = 0 then
    let s := scale2 fr 1 (1 - (f.bias : Int) - f.frac)
    .fin neg s.1 s.2
  else
    let s := scale2 (2 ^ f.frac + fr) 1 ((ex : Int) - f.bias - f.frac)
    .fin neg s.1 s.2

/-- ⌊log₂ (n / d)⌋ of a positive fraction. -/
def floorLog2 (n d : Nat) : Int :=
  let k : Int := (n.log2 : Int) - (d.log2 : Int)
  let s := scale2 n d (-k)
  if s.2 ≤ s.1 then k else k - 1

/-- Does the mode take the next grid point above q, when the exact magnitude is (q + r / d) grid steps (R64, R65)? -/
def roundsUp (m : Rnd) (neg : Bool) (q r d : Nat) : Bool :=
  match m with
  | .rne => decide (d < 2 * r) || (decide (2 * r = d) && decide (q % 2 = 1))
  | .rtz => false
  | .rup => !neg && decide (r ≠ 0)
  | .rdn => neg && decide (r ≠ 0)
  | .sr bits n => decide (2 ^ n ≤ r * 2 ^ n / d + bits % 2 ^ n)

/-- What overflow delivers (R64): infinity or the largest finite magnitude; always the latter in E4M3 (R60). -/
def overflowBits (f : Fmt) (m : Rnd) (neg : Bool) : Nat :=
  if f.e4m3 then f.maxBits
  else match m with
    | .rtz => f.maxBits
    | .rup => if neg then f.maxBits else f.infBits
    | .rdn => if neg then f.infBits else f.maxBits
    | _ => f.infBits

/-- The grid exponent of a positive magnitude n / d in the format: its unit in the last place, the subnormal spacing below
the smallest normal (R64). -/
def gridExponent (f : Fmt) (n d : Nat) : Int :=
  max (floorLog2 n d) (1 - (f.bias : Int)) - f.frac

/-- The magnitude bits of a positive n / d rounded in mode m (R64, R65). -/
def roundMagnitude (f : Fmt) (m : Rnd) (neg : Bool) (n d : Nat) : Nat :=
  let u := gridExponent f n d
  let s := scale2 n d (-u)
  let q := s.1 / s.2
  let r := s.1 % s.2
  let q' := if roundsUp m neg q r s.2 then q + 1 else q
  let b := if q' < 2 ^ f.frac then q'
    else (u + f.frac + f.bias).toNat * 2 ^ f.frac + (q' - 2 ^ f.frac)
  if f.maxBits < b then overflowBits f m neg else b

/-- Round an exact value into the format (R64): NaN canonical, E4M3 saturating and without a negative zero (R60). -/
def roundTo (f : Fmt) (m : Rnd) (x : XVal) : Nat :=
  match x with
  | .nan => f.canonicalNaN
  | .inf neg => (if f.e4m3 then f.maxBits else f.infBits) + (if neg then f.signBit else 0)
  | .fin neg n d =>
    let b := if n = 0 then 0 else roundMagnitude f m neg n d
    if f.e4m3 && b = 0 then 0 else b + (if neg then f.signBit else 0)

/-! ### Exact arithmetic -/

def XVal.zero : XVal := .fin false 0 1
def XVal.one : XVal := .fin false 1 1

/-- An integer as an exact value. -/
def XVal.ofInt (i : Int) : XVal := .fin (decide (i < 0)) i.natAbs 1

def XVal.isNaN : XVal → Bool
  | .nan => true
  | _ => false

/-- Exactly zero, of either sign (R82). -/
def XVal.isZero : XVal → Bool
  | .fin _ n _ => n = 0
  | _ => false

def XVal.isFinite : XVal → Bool
  | .fin _ _ _ => true
  | _ => false

def XVal.isInf : XVal → Bool
  | .inf _ => true
  | _ => false

/-- The sign of a value that is no NaN. -/
def XVal.isNeg : XVal → Bool
  | .nan => false
  | .inf g => g
  | .fin g _ _ => g

def XVal.neg : XVal → XVal
  | .nan => .nan
  | .inf g => .inf (!g)
  | .fin g n d => .fin (!g) n d

def XVal.abs : XVal → XVal
  | .nan => .nan
  | .inf _ => .inf false
  | .fin _ n d => .fin false n d

/-- The signed numerator over the denominator d of a finite value. -/
def signedNum (g : Bool) (n : Nat) : Int := if g then -(n : Int) else n

/-- The exact sum (R172): an exact zero sum is +0, or -0 when down says the mode is RDN, except that two zeros of one
sign sum to that zero. -/
def XVal.addIn (down : Bool) : XVal → XVal → XVal
  | .nan, _ => .nan
  | _, .nan => .nan
  | .inf g, .inf h => if g = h then .inf g else .nan
  | .inf g, .fin _ _ _ => .inf g
  | .fin _ _ _, .inf h => .inf h
  | .fin g n d, .fin h m e =>
    let t := signedNum g n * e + signedNum h m * d
    if t = 0 then (if n = 0 ∧ m = 0 ∧ g = h then .fin g 0 1 else .fin down 0 1)
    else .fin (decide (t < 0)) t.natAbs (d * e)

/-- The exact sum, zero sums positive (every mode but RDN). -/
def XVal.add (x y : XVal) : XVal := XVal.addIn false x y

def XVal.sub (x y : XVal) : XVal := XVal.add x y.neg

/-- The exact product: zero times an infinity is NaN (R58). -/
def XVal.mul : XVal → XVal → XVal
  | .nan, _ => .nan
  | _, .nan => .nan
  | .inf g, .inf h => .inf (g != h)
  | .inf g, .fin h n _ => if n = 0 then .nan else .inf (g != h)
  | .fin g n _, .inf h => if n = 0 then .nan else .inf (g != h)
  | .fin g n d, .fin h m e => .fin (g != h) (n * m) (d * e)

/-- The exact quotient under IEEE 754's rules for zeros and infinities. -/
def XVal.div : XVal → XVal → XVal
  | .nan, _ => .nan
  | _, .nan => .nan
  | .inf _, .inf _ => .nan
  | .inf g, .fin h _ _ => .inf (g != h)
  | .fin g _ _, .inf h => .fin (g != h) 0 1
  | .fin g n d, .fin h m e =>
    if m = 0 then (if n = 0 then .nan else .inf (g != h)) else .fin (g != h) (n * e) (d * m)

/-- The structural-zero product of R34: exactly +0 when t is exactly zero, and t times p otherwise. -/
def sz (t p : XVal) : XVal := if t.isZero then XVal.zero else XVal.mul t p

/-- The largest r with r * r ≤ x among the numbers of k bits. -/
def isqrtFrom : Nat → Nat → Nat → Nat
  | 0, r, _ => r
  | k + 1, r, x => if (r + 2 ^ k) * (r + 2 ^ k) ≤ x then isqrtFrom k (r + 2 ^ k) x else isqrtFrom k r x

/-- The integer square root. -/
def isqrt (x : Nat) : Nat := isqrtFrom (x.log2 / 2 + 1) 0 x

/-- The square root of n / d: exact where it is a fraction s / 2^k, and otherwise a fraction strictly inside the same cell
of width 2^-k, finer than every rounding boundary of the formats, so that it rounds as the root does. -/
def sqrtFraction (n d : Nat) : Nat × Nat :=
  let k := 64 + d.log2
  let x := n * 4 ^ k
  let s := isqrt (x / d)
  if s * s * d = x then (s, 2 ^ k) else (2 * s + 1, 2 ^ (k + 1))

/-- The square root with the special operands of R172. -/
def XVal.sqrt : XVal → XVal
  | .nan => .nan
  | .inf g => if g then .nan else .inf false
  | .fin g n d =>
    if n = 0 then .fin g 0 1
    else if g then .nan
    else
      let s := sqrtFraction n d
      .fin false s.1 s.2

/-- Is x < y, x = y? Both finite or infinite, no NaN; zeros of both signs are equal. -/
def XVal.lt : XVal → XVal → Bool
  | .nan, _ => false
  | _, .nan => false
  | .inf g, .inf h => g && !h
  | .inf g, .fin _ _ _ => g
  | .fin _ _ _, .inf h => !h
  | .fin g n d, .fin h m e => decide (signedNum g n * e < signedNum h m * d)

def XVal.eq : XVal → XVal → Bool
  | .nan, _ => false
  | _, .nan => false
  | .inf g, .inf h => g = h
  | .inf _, .fin _ _ _ => false
  | .fin _ _ _, .inf _ => false
  | .fin g n d, .fin h m e => decide (signedNum g n * e = signedNum h m * d)

def XVal.le (x y : XVal) : Bool := XVal.lt x y || XVal.eq x y

/-- Round a finite value to an integer in the mode (R66: SR with u = 1). -/
def roundToInt (m : Rnd) (neg : Bool) (n d : Nat) : Int :=
  let q := n / d
  let r := n % d
  signedNum neg (if roundsUp m neg q r d then q + 1 else q)

/-- A value as an integer of the range [lo, hi] (R66): NaN gives 0, the infinities the limits, everything else rounded and
saturated. -/
def XVal.toInt (m : Rnd) (lo hi : Int) : XVal → Int
  | .nan => 0
  | .inf g => if g then lo else hi
  | .fin g n d => max lo (min hi (roundToInt m g n d))

/-- An integral value rounded in the mode, keeping the sign of x (R171: VFLOOR to VROUND). -/
def XVal.integral (m : Rnd) : XVal → XVal
  | .nan => .nan
  | .inf g => .inf g
  | .fin g n d => .fin g (roundToInt m g n d).natAbs 1

end Sys2Proof.Machine
end

