-- ==== Sys2Proof/Machine/Operands.lean ====
section
/-!
DEFINITION. Operand forms: elements of vector registers by type (R63), operand b of format V (R160), literals and
immediates (R44, R46), addresses of format L (R187), and the operand limits of R52.
-/

namespace Sys2Proof.Machine

/-! ## Elements (R63) -/

/-- The registers an operand of the type occupies from r on. -/
def regsOf (ty : Ty) (r : Nat) : List Nat := if ty.width = 64 then [r, r + 1] else [r]

/-- The pattern of the element of type ty in register r, lane l: only its low bits are read. -/
def Group.elem (g : Group) (ty : Ty) (r l : Nat) : Nat :=
  if ty.width = 64 then (g.readV r l).toNat + 2 ^ 32 * (g.readV (r + 1) l).toNat
  else (g.readV r l).toNat % 2 ^ ty.width

/-- A pattern of the type as a 32-bit register element holds it: signed formats sign-extended, the others with zeros
above. -/
def extend32 (ty : Ty) (x : Nat) : Word32 :=
  if ty.isSigned then BitVec.ofInt 32 (signedOf ty.width x) else BitVec.ofNat 32 (x % 2 ^ ty.width)

/-- A pattern of the type as a 64-bit scalar holds it. -/
def extend64 (ty : Ty) (x : Nat) : Word64 :=
  if ty.isSigned then BitVec.ofInt 64 (signedOf ty.width x) else BitVec.ofNat 64 (x % 2 ^ ty.width)

/-- Write an element of the type. -/
def Group.putElem (g : Group) (ty : Ty) (r l x : Nat) : Group :=
  if ty.width = 64 then (g.writeV r l (BitVec.ofNat 32 x)).writeV (r + 1) l (BitVec.ofNat 32 (x / 2 ^ 32))
  else g.writeV r l (extend32 ty x)

/-- The value of an integer pattern in its type (R62). -/
def intVal (ty : Ty) (x : Nat) : Int := if ty.isSigned then signedOf ty.width x else ((x % 2 ^ ty.width : Nat) : Int)

/-- The range of an integer type (R62). -/
def intMin (ty : Ty) : Int := if ty.isSigned then -((2 ^ (ty.width - 1) : Nat) : Int) else 0
def intMax (ty : Ty) : Int :=
  if ty.isSigned then ((2 ^ (ty.width - 1) : Nat) : Int) - 1 else ((2 ^ ty.width : Nat) : Int) - 1

/-- SAT(x, ty): the pattern of x clamped to the range of the type (R67). -/
def sat (ty : Ty) (x : Int) : Nat := patternOf ty.width (max (intMin ty) (min x (intMax ty)))

/-! ## Operand b (R160) -/

/-- The vector registers operand b names. -/
def vopRegs (ty : Ty) : VOp → List Nat
  | .vec r => regsOf ty r
  | _ => []

/-- Operand b in lane l, as a pattern of the type. -/
def Group.opB (g : Group) (ty : Ty) (b : VOp) (l : Nat) : Nat :=
  match b with
  | .vec r => g.elem ty r l
  | .scalar r => (g.readS r).toNat % 2 ^ ty.width
  | .imm x => if ty = .i64 then patternOf 64 (signedOf 32 x) else x % 2 ^ ty.width

/-- Tangent slot d of operand b: zero of a scalar or an immediate (R26, R89). -/
def Group.tanB (g : Group) (b : VOp) (d l : Nat) : Word32 :=
  match b with
  | .vec r => g.readT r d l
  | _ => 0

/-! ## Offsets, literals and targets -/

/-- A 64-bit literal read as signed (R44, R46). -/
def offValue : Off → Int
  | .small k => k
  | .lit x => signedOf 64 x

def offIsLit : Off → Bool
  | .small _ => false
  | .lit _ => true

def regIsLit : RegLit → Bool
  | .reg _ => false
  | .lit _ => true

/-- Operand b of major 0x19: the immediate sign-extended, or the literal (R41, R46). -/
def offWord : Off → Word64
  | .small k => BitVec.ofInt 64 k
  | .lit x => BitVec.ofNat 64 x

/-- A scalar operand, or the literal in its place. -/
def Group.regLit (g : Group) : RegLit → Word64
  | .reg r => g.readS r
  | .lit x => BitVec.ofNat 64 x

/-- Byte offset of a direct target from the branch's own PC (R44). -/
def targetBytes : Off → Int
  | .small k => 4 * k
  | .lit x => signedOf 64 x

/-- A literal branch offset is a multiple of 4 (R52). -/
def targetOk : Off → Bool
  | .small _ => true
  | .lit x => x % 4 == 0

/-- The direct target, modulo 2^52 (R44, R135). -/
def State.target (s : State) (t : Off) : Addr52 := s.pc + BitVec.ofInt 52 (targetBytes t)

/-- The scalar indirect target: bits [51:0] of the register (R135). -/
def State.scalarTarget (s : State) (sa : Nat) : Addr52 := (s.grp.readS sa).setWidth 52

/-- The lane indirect target (R135). -/
def Group.laneTarget (g : Group) (sa va l : Nat) : Addr52 :=
  (g.readS sa).setWidth 52 + (g.readV va l).setWidth 52

/-! ## Addresses of format L (R187) -/

/-- The address of lane l as a signed sum, before any check: the exact sum, which does not wrap at 64 bits (log 80). -/
def Group.laneAddr (g : Group) (a : Addr) (l : Nat) : Int :=
  (if a.scalar then signedOf 64 (g.readS a.base).toNat else ((g.readV a.base l).toNat : Int)) + offValue a.off

/-- The vector register an address names. -/
def addrRegs (a : Addr) : List Nat := if a.scalar then [] else [a.base]

/-! ## Limits (R52) -/

/-- Every vector register lies below the call-closure budget C. -/
def State.fits (s : State) (rs : List Nat) : Bool := rs.all fun r => decide (r < s.grp.decl.c)

/-- Tangent slots lie below the kernel's D. -/
def State.slotsOk (s : State) (ks : List Nat) : Bool := ks.all fun k => decide (k < s.grp.decl.d)

/-- An instruction whose vector registers rs must lie below C: detail 6 otherwise (R52). -/
def State.guardRegs (s : State) (rs : List Nat) (k : State → State) : Out :=
  .next (if s.fits rs then k s else s.illegal 6)

end Sys2Proof.Machine
end

