-- ==== Sys2Proof/Machine/Flags.lean ====
section
/-!
DEFINITION. The flags TLOST and EDGE (R90, R92, R93), tangents that an instruction drops, clears or copies (R86, R87,
R89), and the shape of a vector instruction: every lane of em reads before any lane writes (R31, R32, R161).
-/

namespace Sys2Proof.Machine

/-- Tangent bits that are exactly zero: +0 or -0 of the tangent format (R82). -/
def tanZero (bf16 : Bool) (x : Word32) : Bool := x == 0 || x == (if bf16 then 0x8000#32 else 0x80000000#32)

/-- Does register r carry a tangent that is not exactly zero in lane l? -/
def Group.hasTan (g : Group) (r l : Nat) : Bool :=
  g.dual r && (List.range g.decl.d).any fun d => !tanZero g.decl.bf16 (g.readT r d l)

/-- Does some register of the list carry one? -/
def Group.anyTan (g : Group) (rs : List Nat) (l : Nat) : Bool := rs.any fun r => g.hasTan r l

def Group.setTlost (g : Group) (l : Nat) : Group := { g with tlost := g.tlost ||| BitVec.twoPow 32 l }
def Group.setEdge (g : Group) (l : Nat) : Group := { g with edge := g.edge ||| BitVec.twoPow 32 l }

def Group.tlostIf (g : Group) (b : Bool) (l : Nat) : Group := if b then g.setTlost l else g
def Group.edgeIf (g : Group) (b : Bool) (l : Nat) : Group := if b then g.setEdge l else g

/-- Write +0 into every tangent slot of the registers in lane l; nothing outside the dual range. -/
def Group.zeroTan (g : Group) (rs : List Nat) (l : Nat) : Group :=
  rs.foldl (fun g r => (List.range g.decl.d).foldl (fun g d => g.writeT r d l 0) g) g

/-- Deliver tangents to register r in lane l: into its slots in the dual range, and otherwise dropped, which sets TLOST
when one of them is not exactly zero (R84, R92). -/
def Group.giveTan (g : Group) (r l : Nat) (t : Nat → Word32) : Group :=
  if g.dual r then (List.range g.decl.d).foldl (fun g d => g.writeT r d l (t d)) g
  else g.tlostIf ((List.range g.decl.d).any fun d => !tanZero g.decl.bf16 (t d)) l

/-- An integer or bit result of registers rs in lane l: +0 tangents, and TLOST when a source carries a tangent (R87). -/
def Group.intTan (g0 : Group) (rs srcs : List Nat) (l : Nat) (g : Group) : Group :=
  (g.zeroTan rs l).tlostIf (g0.anyTan srcs l) l

/-- Run f in every lane of em: f reads the group as it stood (its first argument) and changes the second (R31, R32). -/
def Group.eachLane (g : Group) (em : Word32) (f : Group → Nat → Group → Group) : Group :=
  (lanesOf em).foldl (fun acc l => f g l acc) g

/-- A lane instruction of n words that writes the vector registers rs: f in every lane, then the next PC. -/
def State.laneOp (s : State) (n : Nat) (rs : List Nat) (f : Group → Nat → Group → Group) : State :=
  let g := s.grp
  let g1 := g.eachLane s.em f
  let g2 := if s.em = 0 then g1 else rs.foldl (fun g r => g.noteWrite (.v r)) g1
  (s.setGrp g2).advance n

/-- A vector form: registers below C or detail 6, then f in every lane (R52, R161). -/
def vecForm (regs dests : List Nat) (f : Group → Nat → Group → Group) (s : State) : Out :=
  s.guardRegs regs fun s => s.laneOp 3 dests f

end Sys2Proof.Machine
end

