-- ==== Sys2Proof/Machine/Transcend.lean ====
section
/-!
DEFINITION. The transcendental functions of R172 and R268 (2^a, log₂, sin, cos, ln), correctly rounded: each is enclosed
between two fixed-point numbers of p fractional bits, and p grows until both ends of the enclosure round alike. That
the largest p decides every operand of the formats is DEDUCED (log 6).
-/

namespace Sys2Proof.Machine

/-- Sum of z^(2k+1) / (2k+1) from k on, where t is z^(2k+1) and zz is z², in units of 2^-p (atanh). -/
def atanhSum (p zz : Nat) : Nat → Nat → Nat → Nat
  | 0, _, _ => 0
  | fuel + 1, k, t => t / (2 * k + 1) + atanhSum p zz fuel (k + 1) (t * zz / 2 ^ p)

/-- atanh z for 0 ≤ z ≤ 1/3, in units of 2^-p, from below. -/
def atanhFix (p z : Nat) : Nat := atanhSum p (z * z / 2 ^ p) (p / 3 + 4) 0 z

/-- ln 2 in units of 2^-p, from below. -/
def ln2Fix (p : Nat) : Nat := 2 * atanhFix p (2 ^ p / 3)

/-- The error of the series above, in units of 2^-p. -/
def seriesError (p : Nat) : Nat := 64 * p

/-- ln m of a fraction 1 ≤ n / d < 2, in units of 2^-p, from below. -/
def lnFix (p n d : Nat) : Nat := 2 * atanhFix p ((n - d) * 2 ^ p / (n + d))

/-- Sum of x^k / k! from k on, where t is x^k / k!, in units of 2^-p. -/
def expSum (p x : Nat) : Nat → Nat → Nat → Nat
  | 0, _, _ => 0
  | fuel + 1, k, t => t + expSum p x fuel (k + 1) (t * x / 2 ^ p / (k + 1))

/-- e^x for 0 ≤ x < 1, in units of 2^-p, from below. -/
def expFix (p x : Nat) : Nat := expSum p x (p / 2 + 8) 0 (2 ^ p)

/-- Alternating sum of x^(2k+b) / (2k+b)!, t the term reached and j its exponent, in units of 2^-p. -/
def trigSum (p xx : Nat) : Nat → Nat → Nat → Bool → Int
  | 0, _, _, _ => 0
  | fuel + 1, j, t, minus =>
    (if minus then -(t : Int) else t) + trigSum p xx fuel (j + 2) (t * xx / 2 ^ p / ((j + 1) * (j + 2))) (!minus)

/-- sin x and cos x for 0 ≤ x < 2, in units of 2^-p. -/
def sinFix (p x : Nat) : Int := trigSum p (x * x / 2 ^ p) (p / 4 + 12) 1 x false
def cosFix (p x : Nat) : Int := trigSum p (x * x / 2 ^ p) (p / 4 + 12) 0 (2 ^ p) false

/-- Alternating sum of (1/a)^(2k+1) / (2k+1), in units of 2^-p (atan of 1/a). -/
def atanInvSum (a : Nat) : Nat → Nat → Nat → Bool → Int
  | 0, _, _, _ => 0
  | fuel + 1, k, t, minus =>
    (if minus then -((t / (2 * k + 1) : Nat) : Int) else ((t / (2 * k + 1) : Nat) : Int))
      + atanInvSum a fuel (k + 1) (t / (a * a)) (!minus)

/-- π in units of 2^-q (Machin's formula). -/
def piFix (q : Nat) : Nat :=
  (16 * atanInvSum 5 (q / 4 + 4) 0 (2 ^ q / 5) false - 4 * atanInvSum 239 (q / 14 + 4) 0 (2 ^ q / 239) false).toNat

/-- An integer number of units of 2^-p as an exact value. -/
def fixedValue (p : Nat) (i : Int) : XVal := .fin (decide (i < 0)) i.natAbs (2 ^ p)

/-- The precisions tried, in fractional bits. -/
def precisions : List Nat := [192, 384, 768, 1536]

/-- Round a real known by its enclosures: the first precision at which both ends round alike decides. -/
def roundEnclosed (f : Fmt) (m : Rnd) (enclose : Nat → Int × Int) : List Nat → Nat
  | [] => f.canonicalNaN
  | [p] => roundTo f m (fixedValue p (enclose p).1)
  | p :: ps =>
    let e := enclose p
    let lo := roundTo f m (fixedValue p e.1)
    if lo = roundTo f m (fixedValue p e.2) then lo else roundEnclosed f m enclose ps

/-- Enclosure of 2^(k + r / d), 0 ≤ r < d, scaled so that p bits stay below the point. -/
def encloseExp2 (k : Int) (r d : Nat) (p : Nat) : Int × Int :=
  let v := expFix p (r * ln2Fix p / d)
  let e : Int := v + seriesError p
  if 0 ≤ k then ((v * 2 ^ k.toNat : Nat), e * 2 ^ k.toNat)
  else ((v / 2 ^ (-k).toNat : Nat), e / 2 ^ (-k).toNat + 1)

/-- 2^x rounded nearest-even (R172). A finite x of magnitude at or above 2^12 lies beyond every format's range. -/
def exp2Round (f : Fmt) : XVal → Nat
  | .nan => f.canonicalNaN
  | .inf g => if g then 0 else f.infBits
  | .fin g n d =>
    if 4096 * d ≤ n then (if g then 0 else f.infBits)
    else
      let i := signedNum g n
      let k := i / (d : Int)
      let r := (i % (d : Int)).toNat
      if r = 0 then
        let s := scale2 1 1 k
        roundTo f .rne (.fin false s.1 s.2)
      else roundEnclosed f .rne (encloseExp2 k r d) precisions

/-- Enclosure of k + ln (n / d) / ln 2 for 1 ≤ n / d < 2. -/
def encloseLog2 (k : Int) (n d : Nat) (p : Nat) : Int × Int :=
  let l := lnFix p n d
  let t := ln2Fix p
  (k * 2 ^ p + ((l * 2 ^ p / (t + seriesError p) : Nat) : Int),
   k * 2 ^ p + (((l + seriesError p) * 2 ^ p / t : Nat) : Int) + 1)

/-- log₂ x rounded nearest-even (R172). -/
def log2Round (f : Fmt) : XVal → Nat
  | .nan => f.canonicalNaN
  | .inf g => if g then f.canonicalNaN else f.infBits
  | .fin g n d =>
    if n = 0 then f.infBits + f.signBit
    else if g then f.canonicalNaN
    else
      let k := floorLog2 n d
      let s := scale2 n d (-k)
      if s.1 = s.2 then roundTo f .rne (XVal.ofInt k)
      else roundEnclosed f .rne (encloseLog2 k s.1 s.2) precisions

/-- The quadrant of a positive n / d and the remainder in units of 2^-p, π taken with enough bits for every format. -/
def reduceQuadrant (p n d : Nat) : Nat × Nat :=
  let q := p + 192
  let halfPi := piFix q
  let x := 2 * (n * 2 ^ q / d)
  (x / halfPi, x % halfPi / 2 / 2 ^ 192)

/-- Enclosure of sin (n / d), or of cos when quarter is 1, for a positive n / d. -/
def encloseTrig (quarter n d : Nat) (p : Nat) : Int × Int :=
  let c := reduceQuadrant p n d
  let v := match (c.1 + quarter) % 4 with
    | 0 => sinFix p c.2
    | 1 => cosFix p c.2
    | 2 => -sinFix p c.2
    | _ => -cosFix p c.2
  (v - seriesError p, v + seriesError p)

/-- sin x rounded nearest-even, x in radians (R172). -/
def sinRound (f : Fmt) : XVal → Nat
  | .nan => f.canonicalNaN
  | .inf _ => f.canonicalNaN
  | .fin g n d =>
    if n = 0 then (if g then f.signBit else 0)
    else
      roundEnclosed f .rne (fun p =>
        let e := encloseTrig 0 n d p
        if g then (-e.2, -e.1) else e) precisions

/-- cos x rounded nearest-even, x in radians (R172). -/
def cosRound (f : Fmt) : XVal → Nat
  | .nan => f.canonicalNaN
  | .inf _ => f.canonicalNaN
  | .fin _ n d =>
    if n = 0 then roundTo f .rne XVal.one
    else roundEnclosed f .rne (encloseTrig 1 n d) precisions

/-- Enclosure of c · ln (n / d), for a product n / d of magnitudes (R268). -/
def encloseLn (c n d : Nat) (p : Nat) : Int × Int :=
  let k := floorLog2 n d
  let s := scale2 n d (-k)
  let l := lnFix p s.1 s.2
  let t := ln2Fix p
  let lo := k * t + l - (if k < 0 then k.natAbs * seriesError p else 0)
  let hi := k * t + l + seriesError p + (if 0 ≤ k then k.natAbs * seriesError p else 0)
  (c * lo, c * hi)

/-- c · ln (n / d) rounded nearest-even (R268). -/
def lnRound (f : Fmt) (c n d : Nat) : Nat :=
  if n = d then 0 else roundEnclosed f .rne (encloseLn c n d) precisions

end Sys2Proof.Machine
end

