-- ==== Sys2Proof/Machine/VecFloat.lean ====
section
/-!
DEFINITION. Floating formats of types, tangent arithmetic (R82 to R85) and the vector floating forms, major 0x38 (R171 to R175).
-/

namespace Sys2Proof.Machine

/-- The floating format of a type. -/
def fmtOf : Ty → Fmt
  | .f16 => Fmt.f16
  | .bf16 => Fmt.bf16
  | .e4m3 => Fmt.e4m3Fmt
  | _ => Fmt.f32

/-- The rounding mode of a code (R64). -/
def rndOf : Rm → Rnd
  | .rne => .rne
  | .rtz => .rtz
  | .rup => .rup
  | .rdn => .rdn

/-! ## Tangent arithmetic -/

/-- The tangent format of the kernel (R79). -/
def Group.tanFmt (g : Group) : Fmt := if g.decl.bf16 then Fmt.bf16 else Fmt.f32

/-- What tangent bits stand for. -/
def Group.tanVal (g : Group) (x : Word32) : XVal := g.tanFmt.value x.toNat

/-- RoundT (R82, R84): nearest-even into the tangent format, a zero as +0, NaN canonical. -/
def Group.roundT (g : Group) (x : XVal) : Word32 :=
  let b := roundTo g.tanFmt .rne x
  if b = g.tanFmt.signBit then 0 else BitVec.ofNat 32 b

/-- L of R85. -/
def lnTwo : XVal := Fmt.f32.value 0x3F317218

/-! ## Shapes: y is the value's pattern; e is the expression of R85 on the tangents, the operands' patterns and y -/

/-- One operand. -/
def fpUn (edge : Bool) (f : Fmt → Nat → Nat) (e : Fmt → XVal → Nat → Nat → XVal) (vd va : Nat) (ty : Ty) (s : State) :
    Out :=
  vecForm [vd, va] [vd]
    (fun g l acc =>
      let a := g.elem ty va l
      let y := f (fmtOf ty) a
      ((acc.putElem ty vd l y).giveTan vd l fun d => g.roundT (e (fmtOf ty) (g.tanVal (g.readT va d l)) a y)).edgeIf
        (edge && g.hasTan va l) l) s

/-- Two operands. -/
def fpBin (f : Fmt → Nat → Nat → Nat) (e : XVal → XVal → Fmt → Nat → Nat → XVal) (vd va : Nat) (b : VOp) (ty : Ty)
    (s : State) : Out :=
  vecForm ([vd, va] ++ vopRegs ty b) [vd]
    (fun g l acc =>
      let x := g.elem ty va l
      let y := g.opB ty b l
      (acc.putElem ty vd l (f (fmtOf ty) x y)).giveTan vd l fun d =>
        g.roundT (e (g.tanVal (g.readT va d l)) (g.tanVal (g.tanB b d l)) (fmtOf ty) x y)) s

/-- Three operands. -/
def fpTri (f : Fmt → Nat → Nat → Nat → Nat) (e : XVal → XVal → XVal → Fmt → Nat → Nat → XVal) (vd va : Nat) (b : VOp)
    (vc : Nat) (ty : Ty) (s : State) : Out :=
  vecForm ([vd, va] ++ vopRegs ty b ++ [vc]) [vd]
    (fun g l acc =>
      let x := g.elem ty va l
      let y := g.opB ty b l
      (acc.putElem ty vd l (f (fmtOf ty) x y (g.elem ty vc l))).giveTan vd l fun d =>
        g.roundT (e (g.tanVal (g.readT va d l)) (g.tanVal (g.tanB b d l)) (g.tanVal (g.readT vc d l)) (fmtOf ty) x y)) s

/-! ## Values (R171 to R174) -/

/-- Is the mode the one whose exact zero sums are negative (R172)? -/
def isDown (rm : Rm) : Bool := rm == .rdn

def addF (rm : Rm) (f : Fmt) (a b : Nat) : Nat := roundTo f (rndOf rm) (XVal.addIn (isDown rm) (f.value a) (f.value b))
def subF (rm : Rm) (f : Fmt) (a b : Nat) : Nat :=
  roundTo f (rndOf rm) (XVal.addIn (isDown rm) (f.value a) (f.value b).neg)
def mulF (rm : Rm) (f : Fmt) (a b : Nat) : Nat := roundTo f (rndOf rm) (XVal.mul (f.value a) (f.value b))
def fmaF (rm : Rm) (f : Fmt) (a b c : Nat) : Nat :=
  roundTo f (rndOf rm) (XVal.addIn (isDown rm) (XVal.mul (f.value a) (f.value b)) (f.value c))
def fmsF (rm : Rm) (f : Fmt) (a b c : Nat) : Nat :=
  roundTo f (rndOf rm) (XVal.addIn (isDown rm) (XVal.mul (f.value a) (f.value b)) (f.value c).neg)
def fnmaF (rm : Rm) (f : Fmt) (a b c : Nat) : Nat :=
  roundTo f (rndOf rm) (XVal.addIn (isDown rm) (f.value c) (XVal.mul (f.value a) (f.value b)).neg)

/-- Does VMIN select the second operand (R173)? -/
def minSecond (f : Fmt) (a b : Nat) : Bool := XVal.lt (f.value b) (f.value a)

/-- Does VMAX select the second operand (R173)? -/
def maxSecond (f : Fmt) (a b : Nat) : Bool := XVal.lt (f.value a) (f.value b)

/-- VMIN or VMAX by its selection (R173). -/
def pickF (second : Fmt → Nat → Nat → Bool) (f : Fmt) (a b : Nat) : Nat :=
  if (f.value a).isNaN || (f.value b).isNaN then f.canonicalNaN else if second f a b then b else a

/-- The sign bit of a pattern. -/
def signF (f : Fmt) (a : Nat) : Bool := bitAt a (f.frac + f.expo)

/-- The pattern without its sign bit. -/
def magF (f : Fmt) (a : Nat) : Nat := a % f.signBit

/-- The magnitude of a under a sign; a NaN gives the canonical NaN (R172). -/
def withSign (f : Fmt) (a : Nat) (neg : Bool) : Nat :=
  if (f.value a).isNaN then f.canonicalNaN else magF f a + (if neg then f.signBit else 0)

def absF (f : Fmt) (a : Nat) : Nat := withSign f a false
def negF (f : Fmt) (a : Nat) : Nat := withSign f a (!signF f a)
def cpysgnF (f : Fmt) (a b : Nat) : Nat := withSign f a (signF f b)
def rcpF (rm : Rm) (f : Fmt) (a : Nat) : Nat := roundTo f (rndOf rm) (XVal.div XVal.one (f.value a))

/-- 1 / √a, as the root of the reciprocal, with the special operands of R172. -/
def rsqrtX : XVal → XVal
  | .nan => .nan
  | .inf g => if g then .nan else XVal.zero
  | .fin g n d => if n = 0 then .inf g else if g then .nan else XVal.sqrt (.fin false d n)

def rsqF (rm : Rm) (f : Fmt) (a : Nat) : Nat := roundTo f (rndOf rm) (rsqrtX (f.value a))
def sqrtF (rm : Rm) (f : Fmt) (a : Nat) : Nat := roundTo f (rndOf rm) (XVal.sqrt (f.value a))
def exp2F (f : Fmt) (a : Nat) : Nat := exp2Round f (f.value a)
def log2F (f : Fmt) (a : Nat) : Nat := log2Round f (f.value a)
def sinF (f : Fmt) (a : Nat) : Nat := sinRound f (f.value a)
def cosF (f : Fmt) (a : Nat) : Nat := cosRound f (f.value a)

/-- a rounded to an integer in a mode, keeping the sign of a (R171). -/
def integralF (m : Rnd) (f : Fmt) (a : Nat) : Nat := roundTo f .rne (XVal.integral m (f.value a))

/-- a - floor(a), rounded RDN, a zero difference +0 (R172). -/
def fractF (f : Fmt) (a : Nat) : Nat := roundTo f .rdn (XVal.sub (f.value a) (XVal.integral .rdn (f.value a)))

/-- The class word (R174). -/
def classF (f : Fmt) (a : Nat) : Nat :=
  let neg := signF f a
  let ex := field a f.frac f.expo
  match f.value a with
  | .nan => 2 ^ 8
  | .inf g => if g then 2 ^ 0 else 2 ^ 7
  | .fin _ n _ =>
    if n = 0 then (if neg then 2 ^ 3 else 2 ^ 4)
    else if ex = 0 then (if neg then 2 ^ 2 else 2 ^ 5)
    else if neg then 2 ^ 1 else 2 ^ 6

/-! ## Tangent expressions (R85) -/

def tanMul (ta tb : XVal) (f : Fmt) (a b : Nat) : XVal := XVal.add (sz ta (f.value b)) (sz tb (f.value a))

/-- The derivative of |a|. -/
def absSlope (f : Fmt) (a : Nat) : XVal :=
  let x := f.value a
  if x.isNaN then .nan else if x.isZero then XVal.zero else if x.isNeg then XVal.one.neg else XVal.one

/-- 1 / (p · q), or +∞ where q is zero. -/
def recipSlope (p q : XVal) : XVal := if q.isZero then .inf false else XVal.div XVal.one (XVal.mul p q)

def two : XVal := .fin false 2 1
def minusHalf : XVal := .fin true 1 2

def tanNone (_ : Fmt) (_ : XVal) (_ _ : Nat) : XVal := XVal.zero
def tanSame (_ : Fmt) (ta : XVal) (_ _ : Nat) : XVal := ta
def tanRcp (f : Fmt) (ta : XVal) (_ y : Nat) : XVal := sz ta (XVal.mul (f.value y) (f.value y)).neg
def tanRsq (f : Fmt) (ta : XVal) (_ y : Nat) : XVal :=
  sz ta (XVal.mul (XVal.mul (XVal.mul minusHalf (f.value y)) (f.value y)) (f.value y))

/-- VADD (R171). -/
def execVaddFp (vd va : Nat) (b : VOp) (ty : Ty) (rm : Rm) (_ : Nat) (s : State) : Out :=
  fpBin (addF rm) (fun ta tb _ _ _ => XVal.add ta tb) vd va b ty s

/-- VSUB (R171). -/
def execVsubFp (vd va : Nat) (b : VOp) (ty : Ty) (rm : Rm) (_ : Nat) (s : State) : Out :=
  fpBin (subF rm) (fun ta tb _ _ _ => XVal.sub ta tb) vd va b ty s

/-- VMUL (R171). -/
def execVmulFp (vd va : Nat) (b : VOp) (ty : Ty) (rm : Rm) (_ : Nat) (s : State) : Out :=
  fpBin (mulF rm) tanMul vd va b ty s

/-- VFMA (R171). -/
def execVfma (vd va : Nat) (b : VOp) (vc : Nat) (ty : Ty) (rm : Rm) (_ : Nat) (s : State) : Out :=
  fpTri (fmaF rm) (fun ta tb tc f x y => XVal.add (tanMul ta tb f x y) tc) vd va b vc ty s

/-- VFMS (R171). -/
def execVfms (vd va : Nat) (b : VOp) (vc : Nat) (ty : Ty) (rm : Rm) (_ : Nat) (s : State) : Out :=
  fpTri (fmsF rm) (fun ta tb tc f x y => XVal.sub (tanMul ta tb f x y) tc) vd va b vc ty s

/-- VFNMA (R171). -/
def execVfnma (vd va : Nat) (b : VOp) (vc : Nat) (ty : Ty) (rm : Rm) (_ : Nat) (s : State) : Out :=
  fpTri (fnmaF rm) (fun ta tb tc f x y => XVal.sub tc (tanMul ta tb f x y)) vd va b vc ty s

/-- VMIN and VMAX: the tangent of the selected operand, copied without rounding (R85, R173). -/
def fpPick (second : Fmt → Nat → Nat → Bool) (vd va : Nat) (b : VOp) (ty : Ty) (s : State) : Out :=
  vecForm ([vd, va] ++ vopRegs ty b) [vd]
    (fun g l acc =>
      let x := g.elem ty va l
      let y := g.opB ty b l
      (acc.putElem ty vd l (pickF second (fmtOf ty) x y)).giveTan vd l fun d =>
        if second (fmtOf ty) x y then g.tanB b d l else g.readT va d l) s

/-- VMIN (R173). -/
def execVminFp (vd va : Nat) (b : VOp) (ty : Ty) (_ : Nat) (s : State) : Out :=
  fpPick minSecond vd va b ty s

/-- VMAX (R173). -/
def execVmaxFp (vd va : Nat) (b : VOp) (ty : Ty) (_ : Nat) (s : State) : Out :=
  fpPick maxSecond vd va b ty s

/-- VABS (R171). -/
def execVabs (vd va : Nat) (ty : Ty) (_ : Nat) (s : State) : Out :=
  fpUn false absF (fun f ta a _ => sz ta (absSlope f a)) vd va ty s

/-- VNEG (R171). -/
def execVneg (vd va : Nat) (ty : Ty) (_ : Nat) (s : State) : Out :=
  fpUn false negF (fun _ ta _ _ => ta.neg) vd va ty s

/-- VCPYSGN (R171): b contributes no tangent. -/
def execVcpysgn (vd va : Nat) (b : VOp) (ty : Ty) (_ : Nat) (s : State) : Out :=
  fpBin cpysgnF (fun ta _ f x y => if signF f x = signF f y then ta else ta.neg) vd va b ty s

/-- VRCP (R171). -/
def execVrcp (vd va : Nat) (ty : Ty) (rm : Rm) (_ : Nat) (s : State) : Out :=
  fpUn false (rcpF rm) tanRcp vd va ty s

/-- VRSQ (R171). -/
def execVrsq (vd va : Nat) (ty : Ty) (rm : Rm) (_ : Nat) (s : State) : Out :=
  fpUn false (rsqF rm) tanRsq vd va ty s

/-- VSQRT (R171). -/
def execVsqrt (vd va : Nat) (ty : Ty) (rm : Rm) (_ : Nat) (s : State) : Out :=
  fpUn false (sqrtF rm) (fun f ta _ y => sz ta (recipSlope two (f.value y))) vd va ty s

/-- VEXP2 (R171). -/
def execVexp2 (vd va : Nat) (ty : Ty) (_ : Nat) (s : State) : Out :=
  fpUn false exp2F (fun f ta _ y => sz ta (XVal.mul lnTwo (f.value y))) vd va ty s

/-- VLOG2 (R171). -/
def execVlog2 (vd va : Nat) (ty : Ty) (_ : Nat) (s : State) : Out :=
  fpUn false log2F (fun f ta a _ => sz ta (recipSlope lnTwo (f.value a))) vd va ty s

/-- VSIN (R171). -/
def execVsin (vd va : Nat) (ty : Ty) (_ : Nat) (s : State) : Out :=
  fpUn false sinF (fun f ta a _ => sz ta (f.value (cosF f a))) vd va ty s

/-- VCOS (R171). -/
def execVcos (vd va : Nat) (ty : Ty) (_ : Nat) (s : State) : Out :=
  fpUn false cosF (fun f ta a _ => sz ta (f.value (sinF f a)).neg) vd va ty s

/-- VFLOOR, which sets EDGE (R90, R171). -/
def execVfloor (vd va : Nat) (ty : Ty) (_ : Nat) (s : State) : Out :=
  fpUn true (integralF .rdn) tanNone vd va ty s

/-- VCEIL (R171). -/
def execVceil (vd va : Nat) (ty : Ty) (_ : Nat) (s : State) : Out :=
  fpUn true (integralF .rup) tanNone vd va ty s

/-- VTRUNC (R171). -/
def execVtrunc (vd va : Nat) (ty : Ty) (_ : Nat) (s : State) : Out :=
  fpUn true (integralF .rtz) tanNone vd va ty s

/-- VROUND (R171). -/
def execVround (vd va : Nat) (ty : Ty) (rm : Rm) (_ : Nat) (s : State) : Out :=
  fpUn true (integralF (rndOf rm)) tanNone vd va ty s

/-- VFRACT (R171). -/
def execVfract (vd va : Nat) (ty : Ty) (_ : Nat) (s : State) : Out :=
  fpUn true fractF tanSame vd va ty s

/-- VCLASS: a class word with +0 tangents, which sets EDGE and no TLOST (R90, R174). -/
def execVclass (vd va : Nat) (ty : Ty) (_ : Nat) (s : State) : Out :=
  vecForm [vd, va] [vd]
    (fun g l acc =>
      ((acc.putElem .n32 vd l (classF (fmtOf ty) (g.elem ty va l))).zeroTan [vd] l).edgeIf (g.hasTan va l) l) s

end Sys2Proof.Machine
end

