-- ==== Sys2Proof/Machine/Convert.lean ====
section
/-!
DEFINITION. Conversions and random bits, major 0x50 (R64 to R67, R88, R179 to R183).
-/

namespace Sys2Proof.Machine

/-- The exact value of a pattern of the type (R61, R62). -/
def valueOf (ty : Ty) (x : Nat) : XVal := if ty.isFloat then (fmtOf ty).value x else XVal.ofInt (intVal ty x)

/-- The conversion of R66: a pattern of ts into a pattern of ty. -/
def convert (ty ts : Ty) (m : Rnd) (x : Nat) : Nat :=
  if ty.isFloat then roundTo (fmtOf ty) m (valueOf ts x)
  else if ts.isFloat then patternOf ty.width (XVal.toInt m (intMin ty) (intMax ty) (valueOf ts x))
  else sat ty (intVal ts x)

/-- The tangents and flags of a converted element (R88): unchanged between floating types, otherwise +0 with EDGE from a
floating source. -/
def Group.cvtTan (g0 : Group) (ty ts : Ty) (vd va l : Nat) (g : Group) : Group :=
  if ts.isFloat && ty.isFloat then g.giveTan vd l fun d => g0.readT va d l
  else (g.zeroTan (regsOf ty vd) l).edgeIf (ts.isFloat && g0.hasTan va l) l

/-- VCVT (R179). -/
def execVcvt (vd va : Nat) (ty ts : Ty) (rm : Rm) (_ : Nat) (s : State) : Out :=
  vecForm (regsOf ty vd ++ regsOf ts va) (regsOf ty vd)
    (fun g l acc => g.cvtTan ty ts vd va l (acc.putElem ty vd l (convert ty ts (rndOf rm) (g.elem ts va l)))) s

/-- VCVTSR (R180): b supplies 32 random bits; n outside 1 to 24 is detail 6 (R52). -/
def execVcvtsr (vd va : Nat) (b : VOp) (n : Nat) (ty : Ty) (_ : Nat) (s : State) : Out :=
  if 1 ≤ n ∧ n ≤ 24 then
    vecForm ([vd, va] ++ vopRegs .n32 b) [vd]
      (fun g l acc =>
        g.cvtTan ty .f32 vd va l
          (acc.putElem ty vd l (convert ty .f32 (.sr (g.opB .n32 b l) n) (g.elem .f32 va l)))) s
  else .next (s.illegal 6)

/-- Step, Seed and Bits of the generator (R181). -/
def rngStep (x : Nat) : Nat := (x * 0x5851F42D4C957F2D + 0x14057B7EF767814F) % 2 ^ 64
def rngSeed (x : Nat) : Nat := rngStep ((rngStep 0 + x % 2 ^ 32) % 2 ^ 64)
def rngBits (x : Nat) : Nat := rotateLeft 32 (((x / 2 ^ 18) ^^^ x) / 2 ^ 27) ((32 - x / 2 ^ 59 % 32) % 32)

/-- VRAND: Bits into vd, Step into the pair (R181). -/
def execVrand (vd va : Nat) (_ : Nat) (s : State) : Out :=
  vecForm [vd, va, va + 1] [vd, va, va + 1]
    (fun g l acc =>
      let x := g.elem .n64 va l
      ((acc.putElem .n32 vd l (rngBits x)).putElem .n64 va l (rngStep x)).zeroTan [vd, va, va + 1] l) s

/-- VRSEED (R181). -/
def execVrseed (vd va : Nat) (_ : Nat) (s : State) : Out :=
  vecForm [vd, vd + 1, va] [vd, vd + 1]
    (fun g l acc => (acc.putElem .n64 vd l (rngSeed (g.elem .n32 va l))).zeroTan [vd, vd + 1] l) s

/-- The packed word: old is vd's former element (R182). -/
def packWord (ty : Ty) (hi : Bool) (old x y : Nat) : Nat :=
  if ty.width = 16 then x + 2 ^ 16 * y
  else if hi then putField (putField old 16 8 x) 24 8 y
  else putField (putField old 0 8 x) 8 8 y

/-- VPACK: +0 tangents; TLOST by R87, with vd among the sources where bits of it are kept (R182). -/
def execVpack (vd va : Nat) (b : VOp) (ty ts : Ty) (hi : Bool) (rm : Rm) (_ : Nat) (s : State) : Out :=
  let srcs := va :: vopRegs ts b ++ (if ty.width = 8 then [vd] else [])
  vecForm ([vd, va] ++ vopRegs ts b) [vd]
    (fun g l acc => g.intTan [vd] srcs l
      (acc.putElem .n32 vd l (packWord ty hi (g.elem .n32 vd l) (convert ty ts (rndOf rm) (g.elem ts va l))
        (convert ty ts (rndOf rm) (g.opB ts b l))))) s

/-- VUNPK: element k of the packed word, converted exactly; +0 tangents (R183). -/
def execVunpk (vd va k : Nat) (ty ts : Ty) (_ : Nat) (s : State) : Out :=
  vecForm [vd, va] [vd]
    (fun g l acc =>
      (acc.putElem ty vd l (convert ty ts .rne (field (g.elem .n32 va l) (k * ts.width) ts.width))).zeroTan [vd] l) s

end Sys2Proof.Machine
end

