-- ==== Sys2Proof/Machine/VecInt.lean ====
section
/-!
DEFINITION. Vector integer forms, major 0x28 (R167 to R170), on element patterns of the type's width.
-/

namespace Sys2Proof.Machine

/-! ## Results (R167): a, b, c are patterns of w = ty.width bits -/

def addV (ty : Ty) (a b : Nat) : Nat := (a + b) % 2 ^ ty.width
def subV (ty : Ty) (a b : Nat) : Nat := (a + (2 ^ ty.width - b)) % 2 ^ ty.width
def mulV (ty : Ty) (a b : Nat) : Nat := a * b % 2 ^ ty.width

/-- Bits [2w-1:w] of the product, signed or unsigned by the type. -/
def mulhV (ty : Ty) (a b : Nat) : Nat :=
  patternOf ty.width (intVal ty a * intVal ty b / ((2 ^ ty.width : Nat) : Int))

def madV (ty : Ty) (a b c : Nat) : Nat := (a * b + c) % 2 ^ ty.width

/-- SAT of the exact difference's magnitude. -/
def absdV (ty : Ty) (a b : Nat) : Nat := sat ty ((intVal ty a - intVal ty b).natAbs : Int)
def addsV (ty : Ty) (a b : Nat) : Nat := sat ty (intVal ty a + intVal ty b)
def subsV (ty : Ty) (a b : Nat) : Nat := sat ty (intVal ty a - intVal ty b)
def minV (ty : Ty) (a b : Nat) : Nat := if intVal ty a ≤ intVal ty b then a else b
def maxV (ty : Ty) (a b : Nat) : Nat := if intVal ty a ≤ intVal ty b then b else a
def andV (_ : Ty) (a b : Nat) : Nat := a &&& b
def orV (_ : Ty) (a b : Nat) : Nat := a ||| b
def xorV (_ : Ty) (a b : Nat) : Nat := a ^^^ b
def andnV (ty : Ty) (a b : Nat) : Nat := a &&& (2 ^ ty.width - 1 - b)
def notV (ty : Ty) (a : Nat) : Nat := 2 ^ ty.width - 1 - a

/-- Shifts are by b mod w, b read as unsigned. -/
def shlV (ty : Ty) (a b : Nat) : Nat := a * 2 ^ (b % ty.width) % 2 ^ ty.width
def shrV (ty : Ty) (a b : Nat) : Nat := a / 2 ^ (b % ty.width)

/-- Bit w - 1 is replicated, on an unsigned type too. -/
def sraV (ty : Ty) (a b : Nat) : Nat :=
  patternOf ty.width (signedOf ty.width a / ((2 ^ (b % ty.width) : Nat) : Int))
def rotV (ty : Ty) (a b : Nat) : Nat := rotateLeft ty.width a (b % ty.width)

/-- Position and length of the field b describes, bits above 31 dropped (R168). -/
def posV (b : Nat) : Nat := b % 32
def lenV (b : Nat) : Nat := min (min (b / 256 % 64) 32) (32 - posV b)

/-- The field of a, sign-extended for I32 from its highest kept bit; 0 for an empty field (R168). -/
def bfxV (ty : Ty) (a b : Nat) : Nat :=
  let x := field a (posV b) (lenV b)
  if lenV b = 0 then 0 else if ty = .i32 then patternOf 32 (signedOf (lenV b) x) else x

/-- c with the field replaced by the low bits of a (R168). -/
def bfiV (a b c : Nat) : Nat := putField c (posV b) (lenV b) a

def clzV (a : Nat) : Nat := leadingZeros 32 a
def popV (a : Nat) : Nat := popCount 32 a
def brevV (a : Nat) : Nat := reverseBits 32 a

/-- Byte k of the result of VPRMT: b holds bytes 7 to 4 of X, a bytes 3 to 0 (R169). -/
def prmtByte (a b c k : Nat) : Nat :=
  let sel := field c (4 * k) 4
  let y := field (a + 2 ^ 32 * b) (8 * (sel % 8)) 8
  if sel < 8 then y else if 128 ≤ y then 0xFF else 0

def prmtV (a b c : Nat) : Nat :=
  prmtByte a b c 0 + 2 ^ 8 * prmtByte a b c 1 + 2 ^ 16 * prmtByte a b c 2 + 2 ^ 24 * prmtByte a b c 3

/-! ## The shapes: sources are read before the destination is written, tangents by R87 -/

/-- vd := f a b. -/
def intBin (f : Nat → Nat → Nat) (vd va : Nat) (b : VOp) (ty : Ty) (s : State) : Out :=
  let ds := regsOf ty vd
  let srcs := regsOf ty va ++ vopRegs ty b
  vecForm (ds ++ srcs) ds
    (fun g l acc => g.intTan ds srcs l (acc.putElem ty vd l (f (g.elem ty va l) (g.opB ty b l)))) s

/-- vd := f a b c. -/
def intTri (f : Nat → Nat → Nat → Nat) (vd va : Nat) (b : VOp) (vc : Nat) (ty : Ty) (s : State) : Out :=
  let ds := regsOf ty vd
  let srcs := regsOf ty va ++ vopRegs ty b ++ regsOf ty vc
  vecForm (ds ++ srcs) ds
    (fun g l acc => g.intTan ds srcs l
      (acc.putElem ty vd l (f (g.elem ty va l) (g.opB ty b l) (g.elem ty vc l)))) s

/-- vd := f a. -/
def intUn (f : Nat → Nat) (vd va : Nat) (ty : Ty) (s : State) : Out :=
  let ds := regsOf ty vd
  let srcs := regsOf ty va
  vecForm (ds ++ srcs) ds (fun g l acc => g.intTan ds srcs l (acc.putElem ty vd l (f (g.elem ty va l)))) s

/-! ## The forms -/

/-- VADD (R167). -/
def execVaddInt (vd va : Nat) (b : VOp) (ty : Ty) (_ : Nat) (s : State) : Out :=
  intBin (addV ty) vd va b ty s

/-- VSUB (R167). -/
def execVsubInt (vd va : Nat) (b : VOp) (ty : Ty) (_ : Nat) (s : State) : Out :=
  intBin (subV ty) vd va b ty s

/-- VMUL (R167). -/
def execVmulInt (vd va : Nat) (b : VOp) (ty : Ty) (_ : Nat) (s : State) : Out :=
  intBin (mulV ty) vd va b ty s

/-- VMULH (R167). -/
def execVmulh (vd va : Nat) (b : VOp) (ty : Ty) (_ : Nat) (s : State) : Out :=
  intBin (mulhV ty) vd va b ty s

/-- VABSD (R167). -/
def execVabsd (vd va : Nat) (b : VOp) (ty : Ty) (_ : Nat) (s : State) : Out :=
  intBin (absdV ty) vd va b ty s

/-- VADDS (R167). -/
def execVadds (vd va : Nat) (b : VOp) (ty : Ty) (_ : Nat) (s : State) : Out :=
  intBin (addsV ty) vd va b ty s

/-- VSUBS (R167). -/
def execVsubs (vd va : Nat) (b : VOp) (ty : Ty) (_ : Nat) (s : State) : Out :=
  intBin (subsV ty) vd va b ty s

/-- VMIN (R167). -/
def execVminInt (vd va : Nat) (b : VOp) (ty : Ty) (_ : Nat) (s : State) : Out :=
  intBin (minV ty) vd va b ty s

/-- VMAX (R167). -/
def execVmaxInt (vd va : Nat) (b : VOp) (ty : Ty) (_ : Nat) (s : State) : Out :=
  intBin (maxV ty) vd va b ty s

/-- VAND (R167). -/
def execVand (vd va : Nat) (b : VOp) (ty : Ty) (_ : Nat) (s : State) : Out :=
  intBin (andV ty) vd va b ty s

/-- VOR (R167). -/
def execVor (vd va : Nat) (b : VOp) (ty : Ty) (_ : Nat) (s : State) : Out :=
  intBin (orV ty) vd va b ty s

/-- VXOR (R167). -/
def execVxor (vd va : Nat) (b : VOp) (ty : Ty) (_ : Nat) (s : State) : Out :=
  intBin (xorV ty) vd va b ty s

/-- VANDN (R167). -/
def execVandn (vd va : Nat) (b : VOp) (ty : Ty) (_ : Nat) (s : State) : Out :=
  intBin (andnV ty) vd va b ty s

/-- VSHL (R167). -/
def execVshl (vd va : Nat) (b : VOp) (ty : Ty) (_ : Nat) (s : State) : Out :=
  intBin (shlV ty) vd va b ty s

/-- VSHR (R167). -/
def execVshr (vd va : Nat) (b : VOp) (ty : Ty) (_ : Nat) (s : State) : Out :=
  intBin (shrV ty) vd va b ty s

/-- VSRA (R167). -/
def execVsra (vd va : Nat) (b : VOp) (ty : Ty) (_ : Nat) (s : State) : Out :=
  intBin (sraV ty) vd va b ty s

/-- VROT (R167). -/
def execVrot (vd va : Nat) (b : VOp) (ty : Ty) (_ : Nat) (s : State) : Out :=
  intBin (rotV ty) vd va b ty s

/-- VBFX (R168). -/
def execVbfx (vd va : Nat) (b : VOp) (ty : Ty) (_ : Nat) (s : State) : Out :=
  intBin (bfxV ty) vd va b ty s

/-- VMAD (R167). -/
def execVmad (vd va : Nat) (b : VOp) (vc : Nat) (ty : Ty) (_ : Nat) (s : State) : Out :=
  intTri (madV ty) vd va b vc ty s

/-- VNOT (R167). -/
def execVnot (vd va : Nat) (ty : Ty) (_ : Nat) (s : State) : Out := intUn (notV ty) vd va ty s

/-- VBFI (R168). -/
def execVbfi (vd va : Nat) (b : VOp) (vc : Nat) (_ : Nat) (s : State) : Out := intTri bfiV vd va b vc .n32 s

/-- VCLZ (R167). -/
def execVclz (vd va : Nat) (_ : Nat) (s : State) : Out := intUn clzV vd va .n32 s

/-- VPOP (R167). -/
def execVpop (vd va : Nat) (_ : Nat) (s : State) : Out := intUn popV vd va .n32 s

/-- VBREV (R167). -/
def execVbrev (vd va : Nat) (_ : Nat) (s : State) : Out := intUn brevV vd va .n32 s

/-- VPRMT (R169). -/
def execVprmt (vd va : Nat) (b : VOp) (vc : Nat) (_ : Nat) (s : State) : Out := intTri prmtV vd va b vc .n32 s

/-- The tangents of a selected element go with it into a register of the dual range; VSEL sets no flag where they are dropped
(R86, R169). -/
def Group.passTan (g : Group) (r l : Nat) (t : Nat → Word32) : Group := if g.dual r then g.giveTan r l t else g

/-- VSEL: a where the mask holds the lane, b elsewhere, with the tangents of the element delivered (R86, R169, R170). -/
def execVsel (vd va : Nat) (b : VOp) (mc : Nat) (ty : Ty) (_ : Nat) (s : State) : Out :=
  let k := s.maskOp mc
  vecForm ([vd, va] ++ vopRegs ty b) [vd]
    (fun g l acc =>
      if k.getLsbD l then (acc.putElem ty vd l (g.elem ty va l)).passTan vd l (fun d => g.readT va d l)
      else (acc.putElem ty vd l (g.opB ty b l)).passTan vd l (fun d => g.tanB b d l)) s

/-- VMOV: b and its tangents (R86, R170). -/
def execVmov (vd : Nat) (b : VOp) (ty : Ty) (_ : Nat) (s : State) : Out :=
  vecForm (vd :: vopRegs ty b) [vd]
    (fun g l acc => (acc.putElem ty vd l (g.opB ty b l)).giveTan vd l (fun d => g.tanB b d l)) s

end Sys2Proof.Machine
end

