-- ==== Sys2Proof/Machine/CrossLane.lean ====
section
/-!
DEFINITION. Cross-lane forms, major 0x12 (R184, R185), and the combining of two elements (R39).
-/

namespace Sys2Proof.Machine

/-- Deliver to lane l the element and tangents of lane src, or 0 with +0 tangents where src is no lane of em (R184). -/
def shuffle (src : Nat → Nat → Int) (vd va : Nat) (b : VOp) (ty : Ty) (s : State) : Out :=
  vecForm ([vd, va] ++ vopRegs ty b) [vd]
    (fun g l acc =>
      let k := src l (g.opB ty b l)
      if 0 ≤ k ∧ k < 32 ∧ s.em.getLsbD k.toNat then
        (acc.writeV vd l (g.readV va k.toNat)).giveTan vd l fun d => g.readT va d k.toNat
      else (acc.writeV vd l 0).zeroTan [vd] l) s

/-- VSHFL (R184). -/
def execVshfl (vd va : Nat) (b : VOp) (ty : Ty) (_ : Nat) (s : State) : Out :=
  shuffle (fun _ x => ((x % 32 : Nat) : Int)) vd va b ty s

/-- VSHUP (R184). -/
def execVshup (vd va : Nat) (b : VOp) (ty : Ty) (_ : Nat) (s : State) : Out :=
  shuffle (fun l x => (l : Int) - ((x % 64 : Nat) : Int)) vd va b ty s

/-- VSHDN (R184). -/
def execVshdn (vd va : Nat) (b : VOp) (ty : Ty) (_ : Nat) (s : State) : Out :=
  shuffle (fun l x => ((l + x % 64 : Nat) : Int)) vd va b ty s

/-- VSHXOR (R184). -/
def execVshxor (vd va : Nat) (b : VOp) (ty : Ty) (_ : Nat) (s : State) : Out :=
  shuffle (fun l x => ((l ^^^ x % 32 : Nat) : Int)) vd va b ty s

/-- VBCAST (R184). -/
def execVbcast (vd va : Nat) (b : VOp) (ty : Ty) (_ : Nat) (s : State) : Out :=
  shuffle (fun _ x => ((x % 32 : Nat) : Int)) vd va b ty s

/-! ## Combining -/

/-- Combine two patterns of the type (R39, R185): floating ADD nearest-even, MIN and MAX by R173, integers modulo the
width; XCHG delivers the second. -/
def combine (op : Comb) (ty : Ty) (x y : Nat) : Nat :=
  match op with
  | .add => if ty.isFloat then addF .rne (fmtOf ty) x y else addV ty x y
  | .min => if ty.isFloat then pickF minSecond (fmtOf ty) x y else minV ty x y
  | .max => if ty.isFloat then pickF maxSecond (fmtOf ty) x y else maxV ty x y
  | .and => x &&& y
  | .or => x ||| y
  | .xor => x ^^^ y
  | .xchg => y

/-- An element with its tangents by slot. -/
abbrev Dual := Nat × List Word32

/-- Combine elements with their tangents (R86). -/
def Group.combineDual (g : Group) (op : Comb) (ty : Ty) (x y : Dual) : Dual :=
  (combine op ty x.1 y.1,
   match op with
   | .add => List.zipWith (fun t u => g.roundT (XVal.add (g.tanVal t) (g.tanVal u))) x.2 y.2
   | .min => if minSecond (fmtOf ty) x.1 y.1 then y.2 else x.2
   | .max => if maxSecond (fmtOf ty) x.1 y.1 then y.2 else x.2
   | _ => x.2)

/-- One level of the tree: neighbours combine, a single present child passes (R185). -/
def treeLevel {α : Type} (f : α → α → α) : List (Option α) → List (Option α)
  | x :: y :: rest =>
    (match x, y with
      | some a, some b => some (f a b)
      | some a, none => some a
      | none, z => z) :: treeLevel f rest
  | l => l

/-- The five levels over 32 lanes. -/
def treeFold {α : Type} (f : α → α → α) (l : List (Option α)) : Option α :=
  (treeLevel f (treeLevel f (treeLevel f (treeLevel f (treeLevel f l))))).headD none

/-- Left to right (R185). -/
def scanFold {α : Type} (f : α → α → α) : List α → Option α
  | [] => none
  | x :: xs => some (xs.foldl f x)

/-- The element and tangents of lane l. -/
def Group.dualAt (g : Group) (ty : Ty) (r l : Nat) : Dual :=
  (g.elem ty r l, (List.range g.decl.d).map fun d => g.readT r d l)

/-- Put a combined element: tangents on a floating type, +0 otherwise, where the source's tangents set TLOST (R86, R87). -/
def Group.putDual (g0 : Group) (ty : Ty) (vd va l : Nat) (x : Dual) (g : Group) : Group :=
  if ty.isFloat then (g.putElem ty vd l x.1).giveTan vd l fun d => x.2.getD d 0
  else g0.intTan [vd] [va] l (g.putElem ty vd l x.1)

/-- VGRED (R185). -/
def execVgred (vd va : Nat) (op : Comb) (ty : Ty) (_ : Nat) (s : State) : Out :=
  vecForm [vd, va] [vd]
    (fun g l acc =>
      match treeFold (g.combineDual op ty)
          ((List.range 32).map fun k => if s.em.getLsbD k then some (g.dualAt ty va k) else none) with
      | some x => g.putDual ty vd va l x acc
      | none => acc) s

/-- VSCAN (R185). -/
def execVscan (vd va : Nat) (op : Comb) (ty : Ty) (_ : Nat) (s : State) : Out :=
  vecForm [vd, va] [vd]
    (fun g l acc =>
      match scanFold (g.combineDual op ty) (((lanesOf s.em).filter fun k => k ≤ l).map (g.dualAt ty va)) with
      | some x => g.putDual ty vd va l x acc
      | none => acc) s

end Sys2Proof.Machine
end

