-- ==== Sys2Proof/Machine/Order.lean ====
section
/-!
DEFINITION. What orders the accesses of a group (R193, R219, R279, R280, R283, R284): when an acquire, a release or a fence
may go on, and what it does to the horizons; and the shape of a lane access whose lanes are checked one by one (R121, R188,
R189).
-/

namespace Sys2Proof.Machine

/-! ## When an order holds -/

/-- Does a fence, an acquire or a release of the scope join the horizons (R280)? -/
def joinsLanes : Scope → Bool
  | .lane => false
  | _ => true

/-- Does the scope reach beyond the issuing die (R283)? -/
def beyondDie : Scope → Bool
  | .device => true
  | .system => true
  | _ => false

/-- Does the operation read for lanes (R279, R280)? -/
def Op.readsLanes (o : Op) : Bool :=
  match o.kind with
  | .lanes form _ _ _ _ _ _ => form == .load || form == .amg
  | .tex _ _ _ _ _ _ => true
  | .ray _ _ _ _ _ => true
  | _ => false

/-- Has every older engine read of the group landed (R280)? -/
def Group.readsLanded (g : Group) : Bool := g.ops.all fun o => !o.readsLanes || o.done

/-- Does the operation move data lane by lane (R210, R211)? -/
def Op.movesLanes (o : Op) : Bool :=
  match o.kind with
  | .lanes _ _ _ _ _ _ _ => true
  | _ => false

/-- Is every older lane engine operation of the group complete (R193, R290)? A copy, a collective, a matrix or a factor operation
stays unordered until the group has observed its completion (log 22). -/
def Group.opsDone (g : Group) : Bool := g.ops.all fun o => o.done || !o.movesLanes

/-- The group as a fence sees it: with the operations that are older than it. -/
def Group.before (g : Group) (f : Fence) : Group := { g with ops := g.ops.filter fun o => decide (o.id < f.upTo) }

/-- The lanes for which an operation accesses memory (R219). -/
def Op.lanes (o : Op) : Word32 :=
  match o.kind with
  | .lanes _ _ _ _ _ _ items => items.foldl (fun m i => m ||| BitVec.twoPow 32 i.lane) 0
  | .tex _ _ _ _ _ samples => samples.foldl (fun m i => m ||| BitVec.twoPow 32 i.lane) 0
  | .ray _ _ _ _ rays => rays.foldl (fun m i => m ||| BitVec.twoPow 32 i.lane) 0
  | _ => 0

/-- Have all eight dies applied the writes a stamp counts (R283)? -/
def State.everywhere (s : State) (σ : Stamp) : Bool := (List.range 8).all fun d => σ.le (s.die d).vc

/-- May an instruction that orders at the scope go on, when it releases or fences, or only acquires (R280, R283)? -/
def State.orderReady (s : State) (sc : Scope) (rel : Bool) : Bool :=
  !joinsLanes sc ||
  (s.grp.readsLanded && (!rel || !beyondDie sc || (s.grp.opsDone && s.everywhere s.grp.wrote)))

/-- Is the order one of a release? -/
def isRel : MemOrd → Bool
  | .rel => true
  | .ar => true
  | _ => false

/-- Is the order one of an acquire? -/
def isAcq : MemOrd → Bool
  | .acq => true
  | .ar => true
  | _ => false

/-- Is the operation an acquire that later accesses of the group wait for (R193)? -/
def Op.acquires (o : Op) : Bool :=
  match o.kind with
  | .lanes _ _ _ _ ord _ _ => isAcq ord && !o.done
  | _ => false

/-! ## Fences (R219; log 22) -/

/-- Is what the fence orders performed at its scope (R219, R280, R283; log 22)? -/
def State.fenceReady (s : State) (g : Group) (f : Fence) : Bool :=
  let old := g.before f
  match f.scope with
  | .lane => old.ops.all fun o => o.done || o.lanes &&& f.lanes == 0 || (f.ord == .acq && !o.readsLanes)
  | _ =>
    old.readsLanded &&
    (f.ord == .acq || (old.opsDone && (!beyondDie f.scope || s.everywhere g.wrote)))

/-- The stamps of the reads of the group that are older than the fence (R283; log 22). -/
def Group.readStamps (g : Group) (f : Fence) : Stamp :=
  Stamp.max (Stamp.maxAll (g.clsStamp.map Prod.snd)) (Stamp.maxAll ((g.before f).ops.map Op.stamp))

/-- What the completion of a fence does to the horizons of its group (R280, R283). -/
def Group.passFence (g : Group) (f : Fence) : Group :=
  let g1 := if joinsLanes f.scope then g.joinHorizons else g
  let g2 := if f.ord == .acq || (joinsLanes f.scope && f.ord == .plain) then g1.mergeHorizon (g.readStamps f) else g1
  { g2 with fences := g2.fences.erase f }

/-- A fence of the group completes when what it orders is performed; at system scope the peer read buffer goes (R287). -/
def State.tryFence (s : State) (gid : Nat) (f : Fence) : State :=
  let g := s.group gid
  if s.fenceReady g f then
    let s1 := s.setGroup gid (g.passFence f)
    if f.scope = .system then s1.setDie (dieOf gid) { (s1.die (dieOf gid)) with peerBuf := [] } else s1
  else s

/-- Every fence of the group that may complete does. -/
def State.tryFences (s : State) (gid : Nat) : State :=
  (s.group gid).fences.foldl (fun s f => s.tryFence gid f) s

/-- Every fence of the device that may complete does. -/
def State.allFences (s : State) : State :=
  (s.groups.filter fun p => decide (p.2.fences ≠ [])).foldl (fun s p => s.tryFences p.1) s

/-- Does a fence that is not complete hold a younger memory instruction of lanes em: with .REL only one that stores, arrives or
commands an engine (R219)? -/
def Fence.holds (f : Fence) (em : Word32) (stores : Bool) : Bool :=
  (stores || f.ord != .rel) && (joinsLanes f.scope || decide (f.lanes &&& em ≠ 0))

/-- May a memory instruction of the issuing split go on: has every older acquire of the group been performed (R193), and does
no fence hold it (R219)? -/
def State.accessReady (s : State) (stores : Bool) : Bool :=
  (s.grp.ops.all fun o => !o.acquires) && s.grp.fences.all fun f => !f.holds s.em stores

/-- May a scratchpad access go on? Its order at a scope wider than the gang is the gang's (R274). -/
def State.spadReady (s : State) (stores : Bool) (o : Sync) : Bool :=
  s.accessReady stores &&
  (o.ord == .plain || s.orderReady (if beyondDie o.scope then .gang else o.scope) (isRel o.ord))

/-- Join the horizons when the order is not plain and its scope joins them (R280). -/
def Group.joinFor (g : Group) (o : MemOrd) (sc : Scope) : Group :=
  if o ≠ .plain ∧ joinsLanes sc then g.joinHorizons else g

/-! ## Lane accesses -/

/-- The order in which lanes that store to one address do so, which the manual leaves open (R31; log 23): by free keys. -/
def insertLane (key : Nat → Nat) (l : Nat) : List Nat → List Nat
  | [] => [l]
  | k :: ks => if key l ≤ key k then l :: k :: ks else k :: insertLane key l ks

/-- The lanes of a mask in the order in which they store. -/
def State.storeOrder (s : State) (m : Word32) : List Nat :=
  (lanesOf m).foldr (insertLane fun l => (Config.freeWord s.fresh (4096 + l)).toNat) []

/-- The lanes of em that pass a check. -/
def State.passing (s : State) (chk : Nat → Option Nat) : Word32 := maskOf fun l => s.em.getLsbD l && (chk l).isNone

/-- The cause of the lowest lane of em that fails. -/
def State.firstCause (s : State) (chk : Nat → Option Nat) : Nat := ((lanesOf s.em).findSome? chk).getD 0

/-- The lane fault entries of the lanes that fail (R354). -/
def State.laneFaults (s : State) (acc space : Nat) (addr : Nat → Int) (chk : Nat → Option Nat) :
    List (Nat × LaneFault) :=
  (lanesOf s.em).filterMap fun l =>
    (chk l).map fun c => (l, ⟨c - 0x30, acc, space, patternOf 52 (addr l)⟩)

/-- A lane access of n words: k for the lanes that pass, the next PC, and the trap of the lanes that fail (R121, R188). -/
def State.checkedLanes (s : State) (n acc space : Nat) (addr : Nat → Int) (chk : Nat → Option Nat)
    (k : Word32 → State → State) : State :=
  let ok := s.passing chk
  let s1 := (if ok = 0 then s else k ok s).advance n
  if s.em &&& ~~~ok = 0 then s1
  else s1.trapCur (s.em &&& ~~~ok) (s.firstCause chk) s.pc (s.laneFaults acc space addr chk)

/-- Words of an extended format: three, and two more with a literal (R35, R46). -/
def words3 (o : Off) : Nat := if offIsLit o then 5 else 3

end Sys2Proof.Machine
end

