-- ==== Sys2Proof/Machine/Control.lean ====
section
/-!
DEFINITION. Control instructions, majors 0x00 to 0x07, 0x09 and 0x0A (R135 to R153): branches, divides, calls, JOIN, EXIT,
TRAP and TRET, YIELD, SLEEP and SPAWN; and the illegal-instruction word (R51).
-/

namespace Sys2Proof.Machine

/-- Bring the issuing group's table and stack to rest (R115, R117, R118). -/
def State.settled (s : State) : State := s.setGrp s.grp.settle

/-! ## Uniform branches (R138) -/

/-- Move the whole split to the target when taken; a literal offset that is no multiple of 4 is detail 6 (R52). -/
def branchIf (taken : Bool) (t : Off) (h : Option Nat) (s : State) : Out :=
  .next (if targetOk t then (if taken then s.goto (s.target t) else s.advance (words1 h (offIsLit t)))
    else s.illegal 6)

/-- A scalar as a signed number. -/
def State.sInt (s : State) (r : Nat) : Int := (s.grp.readS r).toInt

/-- BR (R138). -/
def execBr (t : Off) (h : Option Nat) (s : State) : Out := branchIf true t h s

/-- BZ (R138). -/
def execBz (sa : Nat) (t : Off) (h : Option Nat) (s : State) : Out := branchIf (decide (s.sInt sa = 0)) t h s

/-- BNZ (R138). -/
def execBnz (sa : Nat) (t : Off) (h : Option Nat) (s : State) : Out := branchIf (decide (s.sInt sa ≠ 0)) t h s

/-- BLTZ (R138). -/
def execBltz (sa : Nat) (t : Off) (h : Option Nat) (s : State) : Out := branchIf (decide (s.sInt sa < 0)) t h s

/-- BGEZ (R138). -/
def execBgez (sa : Nat) (t : Off) (h : Option Nat) (s : State) : Out := branchIf (decide (0 ≤ s.sInt sa)) t h s

/-- BGTZ (R138). -/
def execBgtz (sa : Nat) (t : Off) (h : Option Nat) (s : State) : Out := branchIf (decide (0 < s.sInt sa)) t h s

/-- BLEZ (R138). -/
def execBlez (sa : Nat) (t : Off) (h : Option Nat) (s : State) : Out := branchIf (decide (s.sInt sa ≤ 0)) t h s

/-- BALL (R138). -/
def execBall (m : Nat) (t : Off) (h : Option Nat) (s : State) : Out :=
  branchIf (decide (s.em &&& ~~~(s.maskOp m) = 0)) t h s

/-- BNONE (R138). -/
def execBnone (m : Nat) (t : Off) (h : Option Nat) (s : State) : Out :=
  branchIf (decide (s.em &&& s.maskOp m = 0)) t h s

/-! ## Divergent branches -/

/-- Send parts to their PCs (R113): parts with one PC move the split, others divide it with token t; none when the stack
would pass depth 30. -/
def State.sendParts (s : State) (t : Nat) (opens : Bool) (parts : List (Word32 × Addr52)) : Option State :=
  match parts with
  | [] => some s
  | p :: ps =>
    if ps.all fun q => decide (q.2 = p.2) then some (s.goto p.2)
    else match s.grp.divide s.cur.entry t s.pc opens parts with
    | some g => some (s.setGrp g)
    | none => none

/-- The parts that hold lanes. -/
def nonempty (parts : List (Word32 × Addr52)) : List (Word32 × Addr52) := parts.filter fun p => decide (p.1 ≠ 0)

/-- BRV (R139). -/
def execBrv (m : Nat) (t : Off) (tok : Nat) (h : Option Nat) (s : State) : Out :=
  let next := s.pcPlus (words1 h (offIsLit t))
  .next (
    if !targetOk t then s.illegal 6
    else if s.em = 0 then s.goto next
    else
      match s.sendParts tok true
          (nonempty [(s.em &&& ~~~(s.maskOp m), next), (s.em &&& s.maskOp m, s.target t)]) with
      | some s1 => s1.settled
      | none => s.trapAll 0x21)

/-- Does the entry stand for a region with token t that covers the lanes? -/
def covers (t : Nat) (m : Word32) (x : StackEntry) : Bool :=
  decide (x.kind = .join) && decide (x.tok = t) && decide (m &&& ~~~x.mask = 0)

/-- Take breaking lanes out of the join records above the topmost one with token t covering em, or out of all when there
is none (R114); records left empty go. -/
def breakLanes (t : Nat) (em brk : Word32) : List StackEntry → List StackEntry
  | [] => []
  | x :: xs =>
    if covers t em x then x :: xs
    else if x.kind = .join then
      (if x.mask &&& ~~~brk = 0 then [] else [{ x with mask := x.mask &&& ~~~brk }]) ++ breakLanes t em brk xs
    else x :: breakLanes t em brk xs

/-- BRK (R140), the three cases in order. -/
def execBrk (m : Nat) (t : Off) (tok : Nat) (h : Option Nat) (s : State) : Out :=
  let n := words1 h (offIsLit t)
  let g := s.grp
  let brk := s.em &&& s.maskOp m
  .next (
    if !targetOk t then s.illegal 6
    else if s.em = 0 then s.advance n
    else if brk = 0 then
      if g.stack.any (covers tok s.em) then s.advance n
      else if 30 < g.depth + 1 then s.trapAll 0x21
      else
        (s.setGrp { g with stack := ⟨0, tok, .join, s.spl.sup, s.em, s.pc, 0⟩ :: g.stack }).advance n
    else
      let s1 := s.setGrp (Group.closeRegions 33 { g with stack := breakLanes tok s.em brk g.stack })
      if s.em &&& ~~~brk = 0 then
        (s1.setGrp (s1.grp.setSplit s.cur.entry { s.spl with pc := s.target t, tok := tok })).settled
      else
        match s1.sendParts tok false [(s.em &&& ~~~brk, s.pcPlus n), (brk, s.target t)] with
        | some s2 => s2.settled
        | none => s.trapAll 0x21)

/-! ## Indirect branches and calls -/

/-- Is the address a multiple of 4? -/
def pcAligned (a : Addr52) : Bool := decide (a.toNat % 4 = 0)

/-- BRI (R142). -/
def execBri (sa : Nat) (_ : Option Nat) (s : State) : Out :=
  .next (if pcAligned (s.scalarTarget sa) then s.goto (s.scalarTarget sa) else s.trapAll 0x23)

/-- Lanes have left the recipe that runs; with the last of them it is over, and s63 comes back from the saved set (R30). -/
def Group.leaveRecipe (g : Group) (m : Word32) : Group :=
  match g.recipes with
  | [] => g
  | r :: rest =>
    if r.lanes &&& ~~~m = 0 then { g.unlinkOne r with recipes := rest }
    else { g with recipes := { r with lanes := r.lanes &&& ~~~m } :: rest }

/-- The RET of the lanes em to a target: it ends a recipe for them where the target is the point (R30). -/
def Group.endRecipe (g : Group) (em : Word32) (target : Addr52) : Group :=
  match g.recipes with
  | [] => g
  | r :: _ => if r.point = target then g.leaveRecipe em else g

/-- RET (R144). -/
def execRet (sa : Nat) (_ : Option Nat) (s : State) : Out :=
  let t := s.scalarTarget sa
  .next (if pcAligned t then (s.goto t).setGrp ((s.goto t).grp.endRecipe s.em t) else s.trapAll 0x23)

/-- CALL (R143). -/
def execCall (t : Off) (h : Option Nat) (s : State) : Out :=
  .next (if targetOk t then (s.putS 63 ((s.pcPlus (words1 h (offIsLit t))).setWidth 64)).goto (s.target t)
    else s.illegal 6)

/-- Put a lane into the part of its target; parts stand in the order of their lowest lanes (R114). -/
def addPart (l : Nat) (t : Addr52) : List (Word32 × Addr52) → List (Word32 × Addr52)
  | [] => [(BitVec.twoPow 32 l, t)]
  | p :: ps => if p.2 = t then (p.1 ||| BitVec.twoPow 32 l, t) :: ps else p :: addPart l t ps

/-- What a lane's indirect target leads to: it goes there, or it fails with a cause and an address. -/
inductive LaneGo where
  | go (t : Addr52)
  | fail (cause addr : Nat)
  deriving DecidableEq, Repr

/-- The parts of the lanes that go. -/
def partsOf (l : List (Nat × LaneGo)) : List (Word32 × Addr52) :=
  l.foldl (fun ps p => match p.2 with | .go t => addPart p.1 t ps | .fail _ _ => ps) []

/-- The lanes that fail. -/
def failMask (l : List (Nat × LaneGo)) : Word32 :=
  l.foldl (fun m p => match p.2 with | .fail _ _ => m ||| BitVec.twoPow 32 p.1 | .go _ => m) 0

/-- The cause of the lowest lane that fails. -/
def failCause (l : List (Nat × LaneGo)) : Nat :=
  match l.findSome? fun p => match p.2 with | .fail c _ => some c | .go _ => none with
  | some c => c
  | none => 0

/-- The lane fault entries of the lanes that fail (R353). LCAUSE has no code for the causes 0x22 and 0x23 (R354), so that of such
a lane is a free value (log 58). -/
def failEntries (fresh : Nat) (l : List (Nat × LaneGo)) : List (Nat × LaneFault) :=
  l.filterMap fun p => match p.2 with
    | .fail c a => some (p.1, ⟨if c = 0x24 then 4 else (Config.freeWord fresh (6 * 4096 + p.1)).toNat % 8, 3, 1, a⟩)
    | .go _ => none

/-- Divide the lanes that go and trap the lanes that fail (R121, R142, R143). -/
def State.lanesGo (s : State) (tok : Nat) (link : Option Word64) (l : List (Nat × LaneGo)) : State :=
  match s.sendParts tok true (partsOf l) with
  | none => s.trapAll 0x21
  | some s1 =>
    let s2 := match link with
      | some x => if partsOf l = [] then s1 else s1.putS 63 x
      | none => s1
    if failMask l = 0 then s2.settled else s2.trapCur (failMask l) (failCause l) s.pc (failEntries s.fresh l)

/-- BRIV (R142). -/
def execBriv (sa va tok : Nat) (h : Option Nat) (s : State) : Out :=
  s.guardRegs [va] fun s =>
    if s.em = 0 then s.advance (words1 h false)
    else s.lanesGo tok none ((lanesOf s.em).map fun l =>
      (l, if pcAligned (s.grp.laneTarget sa va l) then .go (s.grp.laneTarget sa va l) else .fail 0x23 (s.grp.laneTarget sa va l).toNat))

/-- The checks of CALLI on the target of lane l, in order (R143, R315); none where the walk to its header is held (R348). -/
def State.callCheck (s : State) (l : Nat) (t : Addr52) : Option LaneGo :=
  if !pcAligned t then some (.fail 0x23 t.toNat)
  else
    match s.fetchWords (quarterOf s.cur.gid) s.grp.ctx s.spl.sup (s.grp.carryLane l) (t - 16#52).toNat 4 with
    | .error .held => none
    | .error (.fault a) => some (.fail 0x24 a)
    | .ok (ws, _) =>
      let r := field (ws.getD 1 0) 0 8
      some (if r = 0 ∨ 32 < r ∨ s.grp.decl.c < 8 * r then .fail 0x22 t.toNat else .go t)

/-- CALLI (R143). -/
def execCalli (sa va tok : Nat) (h : Option Nat) (s : State) : Out :=
  s.guardRegs [va] fun s =>
    if s.em = 0 then s.advance (words1 h false)
    else
      let cs := (lanesOf s.em).map fun l => (l, s.callCheck l (s.grp.laneTarget sa va l))
      if cs.any fun c => c.2.isNone then s.stand
      else s.lanesGo tok (some ((s.pcPlus (words1 h false)).setWidth 64))
        (cs.map fun c => (c.1, c.2.getD (.fail 0x24 0)))

/-! ## JOIN, EXIT and traps -/

/-- JOIN (R116, R117, R146). -/
def execJoin (tok : Nat) (h : Option Nat) (s : State) : Out :=
  let n := words1 h false
  .next (
    if s.grp.stack.any (covers tok s.em) then
      (s.setGrp (s.grp.setSplit s.cur.entry { s.spl with state := .joining, tok := tok, wait := .join n })).settled
    else s.advance n)

/-- The lanes that have not retired: of splits, and of stack entries that hold lanes (R109). -/
def Group.liveLanes (g : Group) : Word32 :=
  g.stack.foldl (fun m x => if x.kind = .join then m else m ||| x.mask)
    (g.validEntries.foldl (fun m e => m ||| (g.split e).mask) 0)

/-- After a split has gone: the group retires with no lane left, a recipe whose lanes have all retired is over, and waits that
hold are over (R30, R108, R110, R122). -/
def State.afterLeave (s : State) (pc : Addr52) : State :=
  let g := s.grp.leaveRecipe (~~~s.grp.liveLanes)
  (s.setGrp { g.checkRetiring with exitPc := pc }).wakeGroup s.cur.gid

/-- EXIT (R120, R122, R123, R147). -/
def execExit (_ : Option Nat) (s : State) : Out :=
  .next (
    if !s.spl.sup then (s.setGrp (s.grp.userExit s.cur.entry)).afterLeave s.pc
    else if s.grp.mayLeave s.cur.entry then (s.setGrp (s.grp.supExit s.cur.entry)).afterLeave s.pc
    else s.doubleFault s.cur.gid)

/-- TRET (R122, R123, R149). -/
def execTret (_ : Option Nat) (s : State) : Out :=
  .next (
    if !s.spl.sup then s.trapAll 0x20
    else if s.grp.mayLeave s.cur.entry then (s.setGrp (s.grp.tret s.cur.entry)).wakeGroup s.cur.gid
    else s.doubleFault s.cur.gid)

/-- The topmost trap record. -/
def Group.topTrap (g : Group) : Option StackEntry := g.stack.find? fun x => decide (x.kind = .trap)

/-- Raise a request whose record is pushed while the split is held (R327, R352); on an answer it goes on after the TRAP. -/
def State.request (s : State) (cause : Nat) (hold : Hold) (n : Nat) (note : Notice) : State :=
  let g := s.grp
  let x := s.spl
  if 32 < g.depth + 1 then s.doubleFault s.cur.gid
  else
    let g1 := { g with stack := ⟨cause, x.tok, .trap, x.sup, x.mask, x.pc, 0⟩ :: g.stack, life := .trapped,
                       faultLane := lowLane x.mask }
    (s.setGrp ((g1.setSplit s.cur.entry { x with hold := hold, pc := s.pcPlus n }).holdOthers s.cur.entry)).notify note

/-- Is the PC the entry of a function that is not translated (R327)? -/
def Context.untranslated (c : Context) (pc : Nat) : Bool :=
  c.stubs.any fun x => decide (x.pc = pc) && x.state != .published

/-- The function at the PC is being translated from now on (R327). -/
def Context.translate (c : Context) (pc : Nat) : Context :=
  { c with stubs := c.stubs.map fun x => if x.pc = pc ∧ x.state = .stub then { x with state := .translating } else x }

/-- A translation request of the issuing split, for the function at a PC. -/
def State.requestTranslation (s : State) (n pc : Nat) : State :=
  let s1 := s.request 0xFE00 .translation n (.translation s.grp.ctx s.cur.gid pc)
  if 32 < s.grp.depth + 1 then s1 else s1.setContext s.grp.ctx ((s1.context s.grp.ctx).translate pc)

/-- A request that is answered at once: its record comes and goes (R327). -/
def State.answerNow (s : State) (n : Nat) : State :=
  if 32 < s.grp.depth + 1 then s.doubleFault s.cur.gid
  else (s.setGrp { s.grp with faultLane := lowLane s.em }).advance n

/-- TRAP (R148); at supervisor level also the translation request (R327) and the host escalation (R352), which are
flashback points. -/
def execTrap (code : Nat) (h : Option Nat) (s : State) : Out :=
  let n := words1 h false
  let c := s.context s.grp.ctx
  .next (
    if s.spl.sup ∧ code = 0x7E00 then
      s.atPoint fun s =>
        match s.grp.topTrap with
        | some r =>
          if c.untranslated r.pc.toNat then
            s.requestTranslation n r.pc.toNat
          else s.answerNow n
        | none => s.answerNow n
    else if s.spl.sup ∧ 0x7F00 ≤ code then
      s.atPoint fun s =>
        if s.grp.answered then (s.setGrp { s.grp with answered := false }).advance n
        else
          (s.setGrp { s.grp with escalated := true }).request (0x8000 + code) .escalation n
            (.escalation s.grp.ctx s.cur.gid (0x8000 + code))
    else s.trapAll (0x8000 + code))

/-! ## YIELD, SLEEP and SPAWN -/

/-- YIELD (R151). -/
def execYield (h : Option Nat) (s : State) : Out :=
  .next ((s.setGrp (s.grp.setSplit s.cur.entry { s.spl with age := 0 })).advance (words1 h false))

/-- SLEEP (R152). -/
def execSleep (c : RegLit) (h : Option Nat) (s : State) : Out :=
  let n := words1 h (regIsLit c)
  let k := min (s.grp.regLit c).toNat 0xFFFFFFFF
  .next (
    if k = 0 then s.advance n
    else s.atPoint fun s =>
      s.setGrp (s.grp.setSplit s.cur.entry
        { s.spl with state := .waiting, wait := .sleep k (s.clock + k) (s.pcPlus n) }))

/-- The registers a spawned group receives (R132). -/
def Group.spawnLane (src : Group) (va l : Nat) (g : Group) : Group :=
  (List.range 8).foldl (fun g i => (g.writeV i l (src.readV (va + i) l)).giveTan i l fun d => src.readT (va + i) d l) g

/-- The code SPAWN returns when it creates nothing, the causes in the order of R132. -/
def State.spawnRefused (s : State) : Option Int :=
  let g := s.grp
  let core := coreOf s.cur.gid
  if s.spl.sup then some (-5)
  else if s.em = 0 then some (-4)
  else if 16 ≤ (s.gangGroups g.gang).length then some (-3)
  else if s.freeContexts core = [] then some (-1)
  else if !s.poolFits core 1 g.decl then some (-2)
  else none

/-- SPAWN (R132, R153). -/
def execSpawn (sd va entry : Nat) (h : Option Nat) (s : State) : Out :=
  let n := words1 h true
  .next (
    if 248 < va then s.illegal 6
    else if !s.fits (span va 8) then s.illegal 6
    else
      match s.spawnRefused, s.freeContexts (coreOf s.cur.gid) with
      | some c, _ => (s.putS sd (BitVec.ofInt 64 c)).advance n
      | none, [] => s.advance n
      | none, k :: _ =>
        let g := s.grp
        let y := s.gang g.gang
        let pos := { g.pos with groupIdx := y.nextIdx, gridIdx := 0xFFFF }
        let g1 := { newGroup g.ctx g.grid g.gang g.prio g.decl pos (s.pc + BitVec.ofNat 52 entry) s.em with
          preempt := g.preempt }
        let g2 := (lanesOf s.em).foldl (fun acc l => g.spawnLane va l acc) g1
        let s1 := (s.setGroup (64 * coreOf s.cur.gid + k) g2).setGang g.gang { y with nextIdx := y.nextIdx + 1 }
        ((s1.setGrp s1.grp.irrevocable).putS sd (BitVec.ofNat 64 y.nextIdx)).advance n)

/-! ## Words that are no instruction -/

/-- The illegal-instruction trap at decode (R51), whatever em holds. -/
def execIllegalInstructionWord (detail : Nat) (s : State) : Out := .next (s.illegal detail)

end Sys2Proof.Machine
end

