-- ==== Sys2Proof/Machine/System.lean ====
section
/-!
DEFINITION. System registers (R16, R50, R93, R94, R124, R126, R154 to R156, R201, R247, R249, R332, R340, R354) and the
instructions that read and write them, major 0x08.
-/

namespace Sys2Proof.Machine

/-- Does R50 permit SRD of the register? -/
def srdAllowed (sup : Bool) : SysReg → Bool
  | .fltcause => sup
  | .fltaddr => sup
  | .fltpc => sup
  | _ => true

/-- Does R50 permit SWR of the register? -/
def swrAllowed (sup vx : Bool) : SysReg → Bool
  | .tlost => true
  | .edge => true
  | .accown => sup && !vx
  | .fltcause => sup && !vx
  | .fltaddr => sup && !vx
  | .fltpc => sup && !vx
  | _ => false

/-- A position register (R16). -/
def positionWord (size idx : Nat) : Word64 := BitVec.ofNat 64 (size % 2 ^ 16 * 2 ^ 16 + idx % 2 ^ 16)

/-- WSPHASE at a CLOCK value (R201). -/
def wsphaseWord (clock : Nat) : Word64 :=
  let k := clock / 2200
  let r := clock % 2200
  if r < 220 then BitVec.ofNat 64 (2 ^ 20 + k % 16 * 2 ^ 16 + (220 - r))
  else BitVec.ofNat 64 ((k + 1) % 16 * 2 ^ 16 + (2200 - r))

/-- SPLIT for the issuing split (R126). -/
def State.splitWord (s : State) : Word64 :=
  let g := s.grp
  BitVec.ofNat 64 ((if s.spl.sup then 2 ^ 52 else 0) + s.spl.tok % 32 * 2 ^ 47 + g.crit % 16 * 2 ^ 43 +
    g.depth % 64 * 2 ^ 37 + g.validEntries.length % 8 * 2 ^ 34 + s.cur.entry % 4 * 2 ^ 32 + s.em.toNat)

/-- FLTCAUSE of the topmost trap record (R124). -/
def Group.fltCause (g : Group) : Word64 :=
  match g.topTrap with
  | some r => BitVec.ofNat 64 (r.mask.toNat * 2 ^ 16 + r.cause % 2 ^ 16)
  | none => 0

/-- FLTPC of the topmost trap record (R124). -/
def Group.fltPc (g : Group) : Word64 :=
  match g.topTrap with
  | some r => r.pc.setWidth 64
  | none => 0

/-- An entry of the lane fault file under its lane number (R354). -/
def faultWordOf (lane : Nat) (inMask : Bool) (f : LaneFault) : Word64 :=
  BitVec.ofNat 64 (lane % 32 * 2 ^ 59 +
    (if inMask then f.lcause % 8 * 2 ^ 56 + f.acc % 4 * 2 ^ 54 + f.space % 4 * 2 ^ 52 + f.addr % 2 ^ 52 else 0))

/-- FLTADDR (R260, R354). -/
def Group.fltAddr (g : Group) : Word64 :=
  match g.topTrap with
  | some r =>
    if filesFault r.cause then
      faultWordOf g.faultLane (r.mask.getLsbD g.faultLane) (Sparse.get LaneFault.zero g.faults g.faultLane)
    else if r.cause = 0x48 then g.faultWord
    else 0
  | none => 0

/-- ACCOWN of the group's quarter (R247). -/
def State.accownWord (s : State) : Word64 :=
  let q := s.quarter (quarterOf s.cur.gid)
  BitVec.ofNat 64 ((if q.owned then 2 ^ 16 else 0) + q.octx % 2 ^ 16)

/-- CTXID (R332). -/
def State.ctxidWord (s : State) : Word64 :=
  BitVec.ofNat 64 ((s.context s.grp.ctx).vf % 32 * 2 ^ 16 + s.grp.ctx % 2 ^ 16)

/-- PARTID (R332). -/
def State.partidWord (s : State) : Word64 :=
  let p := (s.context s.grp.ctx).part
  let m := (s.part p).qmask.toNat
  BitVec.ofNat 64 (p % 32 * 2 ^ 40 + popCount 32 m * 2 ^ 32 + m)

/-- The whole value of a system register for the issuing split (R154). -/
def State.sysValue (s : State) : SysReg → Word64
  | .lane => positionWord 32 (lowLane s.em)
  | .group => positionWord s.grp.pos.groupSize s.grp.pos.groupIdx
  | .gang => positionWord s.grp.pos.gangSize s.grp.pos.gangIdx
  | .band => positionWord s.grp.pos.bandSize s.grp.pos.bandIdx
  | .span => positionWord s.grp.pos.spanSize s.grp.pos.spanIdx
  | .grid => positionWord s.grp.pos.gridSize s.grp.pos.gridIdx
  | .split => s.splitWord
  | .ctxid => s.ctxidWord
  | .partid => s.partidWord
  | .accown => s.accownWord
  | .wsphase => wsphaseWord s.clock
  | .clock => BitVec.ofNat 64 s.clock
  | .vtime => BitVec.ofNat 64 s.clock + (s.context s.grp.ctx).vtoff
  | .fltcause => s.grp.fltCause
  | .fltaddr => s.grp.fltAddr
  | .fltpc => s.grp.fltPc
  | .tlost => s.grp.tlost.setWidth 64
  | .edge => s.grp.edge.setWidth 64

/-- The element a lane receives (R154). -/
def State.sysLane (s : State) (r : SysReg) (l : Nat) : Word32 :=
  match r with
  | .lane => BitVec.ofNat 32 l
  | .group | .gang | .band | .span | .grid => BitVec.ofNat 32 ((s.sysValue r).toNat % 2 ^ 16)
  | .tlost => if s.grp.tlost.getLsbD l then 1 else 0
  | .edge => if s.grp.edge.getLsbD l then 1 else 0
  | _ => (s.sysValue r).setWidth 32

/-- SRD (R154). -/
def execSrd (vx : Bool) (reg : Nat) (r : SysReg) (h : Option Nat) (s : State) : Out :=
  let n := words1 h false
  .next (
    if vx && !s.fits [reg] then s.illegal 6
    else if !srdAllowed s.spl.sup r then s.illegal 7
    else if vx then s.laneOp n [reg] fun _ l acc => (acc.writeV reg l (s.sysLane r l)).zeroTan [reg] l
    else (s.putS reg (s.sysValue r)).advance n)

/-- The flags of the lanes of em take new bits; the other lanes keep theirs (R94). -/
def newFlags (old em bits : Word32) : Word32 := (old &&& ~~~em) ||| (bits &&& em)

/-- The bits SWR gives TLOST or EDGE: of the scalar, or bit 0 of each lane's element (R94). -/
def State.flagBits (s : State) (vx : Bool) (reg : Nat) : Word32 :=
  if vx then maskOf fun l => (s.grp.readV reg l).getLsbD 0 else (s.grp.readS reg).setWidth 32

/-- Change the topmost trap record. -/
def updTop (f : StackEntry → StackEntry) : List StackEntry → List StackEntry
  | [] => []
  | x :: xs => if x.kind = .trap then f x :: xs else x :: updTop f xs

/-- SWR of ACCOWN (R249): nothing to do, or a hold until the switch has run. -/
def State.writeAccown (s : State) (x : Word64) (n : Nat) : State :=
  let q := s.quarter (quarterOf s.cur.gid)
  let mine := q.owned && decide (q.octx = s.grp.ctx)
  let owned := x.getLsbD 16
  if owned then
    if x.toNat % 2 ^ 16 = s.grp.ctx ∧ !mine then
      s.setGrp (s.grp.setSplit s.cur.entry { s.spl with hold := .accown false (s.pcPlus n) })
    else s.advance n
  else if mine then s.setGrp (s.grp.setSplit s.cur.entry { s.spl with hold := .accown true (s.pcPlus n) })
  else s.advance n

/-- The effect of SWR with the value x (R155); RO fields keep their value. -/
def State.sysWrite (s : State) (r : SysReg) (vx : Bool) (reg n : Nat) : State :=
  let x := s.grp.readS reg
  let g := s.grp
  match r with
  | .tlost => (s.setGrp { g with tlost := newFlags g.tlost s.em (s.flagBits vx reg) }).advance n
  | .edge => (s.setGrp { g with edge := newFlags g.edge s.em (s.flagBits vx reg) }).advance n
  | .accown => s.writeAccown x n
  | .fltcause =>
    (s.setGrp { g with stack := updTop (fun e => { e with cause := x.toNat % 2 ^ 16 }) g.stack }).advance n
  | .fltpc =>
    (s.setGrp { g with
      stack := updTop (fun e => { e with pc := BitVec.ofNat 52 (x.toNat % 2 ^ 52 / 4 * 4) }) g.stack }).advance n
  | .fltaddr =>
    match g.topTrap with
    | some e =>
      if filesFault e.cause then (s.setGrp { g with faultLane := x.toNat / 2 ^ 59 % 32 }).advance n
      else if e.cause = 0x48 then
        (s.setGrp { g with faultWord := BitVec.ofNat 64 (field x.toNat 20 28 * 2 ^ 20) }).advance n
      else s.advance n
    | none => s.advance n
  | _ => s.advance n

/-- SWR (R155). -/
def execSwr (vx : Bool) (reg : Nat) (r : SysReg) (h : Option Nat) (s : State) : Out :=
  .next (
    if vx && !s.fits [reg] then s.illegal 6
    else if !swrAllowed s.spl.sup vx r then s.illegal 7
    else s.sysWrite r vx reg (words1 h false))

end Sys2Proof.Machine
end

