-- ==== Sys2Proof/Machine/Scratch.lean ====
section
/-!
DEFINITION. Scratchpad and weight-store access, major 0x58 (R187, R188, R194 to R200), with the dual forms (R95 to R98).
-/

namespace Sys2Proof.Machine

/-- The bound of a scratchpad access: Z, or .spad for the .D forms (R95, R188). -/
def Decl.bound (d : Decl) (du : Bool) : Nat := if du then d.spad else d.occupancy

/-- The checks of one access of n bytes whose address must be a multiple of w (R188). -/
def spadCheck (bound w n : Nat) (a : Int) : Option Nat :=
  if a % (w : Int) ≠ 0 then some 0x32
  else if a < 0 ∨ (bound : Int) < a + (n : Int) then some 0x33
  else none

/-- Address of slot d of the value at byte a (R96). -/
def Decl.tanAddr (c : Decl) (d a : Nat) : Nat :=
  c.spad + d * (if c.bf16 then c.spad / 2 else c.spad) + a * (if c.bf16 then 2 else 4) / 4

/-- Bytes of a stored tangent. -/
def Decl.tanBytes (c : Decl) : Nat := if c.bf16 then 2 else 4

/-- The tangent slots of the value at byte a, as stored (R96). -/
def State.storedTan (s : State) (g : Group) (a d : Nat) : Word32 :=
  BitVec.ofNat 32 (s.readSpad g.gang (g.decl.tanAddr d a) g.decl.tanBytes)

/-! ## Time (R199) -/

/-- Cycles for which the scratchpad serves the words of an access: the largest number of distinct words of one bank. -/
def bankCycles (words : List Nat) : Nat :=
  let ws := words.eraseDups
  (List.range 32).foldl (fun m b => Nat.max m (ws.filter fun w => w % 32 = b).length) 1

/-- The largest number of lanes that address one word. -/
def sameWord (words : List Nat) : Nat :=
  words.eraseDups.foldl (fun m w => Nat.max m (words.filter fun x => x = w).length) 1

/-- Words of n bytes at a. -/
def wordsAt (a n : Nat) : List Nat := if n ≤ 4 then [a / 4] else span (a / 4) (n / 4)

/-- A load has issued: its destinations are pending until it delivers. -/
def Group.deliver (g : Group) (clock lat : Nat) (dests : List RegId) : Group :=
  { g with deliveries := g.deliveries ++ [⟨dests, clock + lat⟩] }

/-- The registers an instruction has written, noted for the rewind record (R334). -/
def Group.noteAll (g : Group) (rs : List RegId) : Group := rs.foldl Group.noteWrite g

/-! ## LD and ST (R195, R97) -/

/-- The lanes load: value, and tangents from memory or +0. -/
def State.loadLanes (s : State) (vd : Nat) (ty : Ty) (du : Bool) (addr : Nat → Nat) (ok : Word32) : Group :=
  let g := s.grp
  (lanesOf ok).foldl (fun acc l =>
    let acc1 := acc.putElem ty vd l (s.readSpad g.gang (addr l) ty.bytes)
    if du then acc1.giveTan vd l fun d => s.storedTan g (addr l) d
    else acc1.zeroTan (regsOf ty vd) l) g

/-- The words a lane's access touches, the tangents of a dual access among them. -/
def Group.touched (g : Group) (du : Bool) (n : Nat) (a : Nat) : List Nat :=
  wordsAt a n ++ (if du then (List.range g.decl.d).map fun d => g.decl.tanAddr d a / 4 else [])

/-- LD (R195, R97, R199). -/
def execLd (vd : Nat) (a : Addr) (ty : Ty) (du : Bool) (o : Sync) (_ : Nat) (s : State) : Out :=
  s.guardRegs (regsOf ty vd ++ addrRegs a) fun s =>
    if !s.spadReady false o then s.stand
    else
      let g := s.grp
      let s0 := if s.em = 0 then s.setGrp ((g.joinFor o.ord o.scope).critStep s.clock o.ord o.crit) else s
      s0.checkedLanes (words3 a.off) 0 0 (g.laneAddr a) (fun l => spadCheck (g.decl.bound du) ty.bytes ty.bytes (g.laneAddr a l))
        fun ok s =>
          let addr := fun l => (g.laneAddr a l).toNat
          let rs := (regsOf ty vd).map RegId.v
          let lat := 19 + bankCycles ((lanesOf ok).flatMap fun l => g.touched du ty.bytes (addr l))
          let g1 := ((s.loadLanes vd ty du addr ok).noteAll rs).deliver s.clock lat rs
          s.setGrp ((g1.joinFor o.ord o.scope).critStep s.clock o.ord o.crit)

/-- The lanes store: value, and for a dual store the tangents (R97). -/
def Gang.storeLanes (y : Gang) (g : Group) (vd : Nat) (ty : Ty) (du : Bool) (addr : Nat → Nat) (order : List Nat) : Gang :=
  order.foldl (fun y l =>
    let y1 := y.writeSpad (addr l) ty.bytes (g.elem ty vd l)
    if du then
      (List.range g.decl.d).foldl (fun y d =>
        y.writeSpad (g.decl.tanAddr d (addr l)) g.decl.tanBytes (g.readT vd d l).toNat) y1
    else y1) y

/-- Data taken from the dual range drops its tangents (R92). -/
def Group.dropData (g : Group) (rs : List Nat) (ok : Word32) : Group :=
  (lanesOf ok).foldl (fun acc l => acc.tlostIf (g.anyTan rs l) l) g

/-- ST (R195, R97, R98). -/
def execSt (vd : Nat) (a : Addr) (ty : Ty) (du : Bool) (o : Sync) (_ : Nat) (s : State) : Out :=
  s.guardRegs (regsOf ty vd ++ addrRegs a) fun s =>
    if !s.spadReady true o then s.stand
    else
      let g := s.grp
      let s0 := if s.em = 0 then s.setGrp ((g.joinFor o.ord o.scope).critStep s.clock o.ord o.crit) else s
      s0.checkedLanes (words3 a.off) 1 0 (g.laneAddr a) (fun l => spadCheck (g.decl.bound du) ty.bytes ty.bytes (g.laneAddr a l))
        fun ok s =>
          let addr := fun l => (g.laneAddr a l).toNat
          let s1 := s.setGang g.gang ((s.gang g.gang).storeLanes g vd ty du addr (s.storeOrder ok))
          let g1 := (if du then g else g.dropData (regsOf ty vd) ok).irrevocable
          s1.setGrp ((g1.joinFor o.ord o.scope).critStep s.clock o.ord o.crit)

/-! ## LDT and STT (R196, R97) -/

/-- The address of lane l's row of n elements. -/
def rowAddr (base : Int) (n l : Nat) : Int := base + ((4 * n * l : Nat) : Int)

/-- LDT (R196, R97). -/
def execLdt (vd : Nat) (a : Addr) (ty : Ty) (du : Bool) (n : Nat) (_ : Nat) (s : State) : Out :=
  s.guardRegs (span vd n) fun s =>
    if !s.accessReady false then s.stand else
    let g := s.grp
    let row := rowAddr (g.laneAddr a 0) n
    s.checkedLanes (words3 a.off) 0 0 row (fun l => spadCheck (g.decl.bound du) 4 (4 * n) (row l))
      fun ok s =>
        let rs := (span vd n).map RegId.v
        let lat := 19 + bankCycles ((lanesOf ok).flatMap fun l =>
          (List.range n).flatMap fun j => g.touched du 4 ((row l).toNat + 4 * j))
        let g1 := (List.range n).foldl (fun acc j =>
          (lanesOf ok).foldl (fun acc l =>
            let b := (row l).toNat + 4 * j
            let acc1 := acc.putElem ty (vd + j) l (s.readSpad g.gang b 4)
            if du then acc1.giveTan (vd + j) l fun d => s.storedTan g b d
            else acc1.zeroTan [vd + j] l) acc) g
        s.setGrp ((g1.noteAll rs).deliver s.clock lat rs)

/-- STT (R196, R97). -/
def execStt (vd : Nat) (a : Addr) (ty : Ty) (du : Bool) (n : Nat) (_ : Nat) (s : State) : Out :=
  s.guardRegs (span vd n) fun s =>
    if !s.accessReady true then s.stand else
    let g := s.grp
    let row := rowAddr (g.laneAddr a 0) n
    s.checkedLanes (words3 a.off) 1 0 row (fun l => spadCheck (g.decl.bound du) 4 (4 * n) (row l))
      fun ok s =>
        let y := (List.range n).foldl (fun y j =>
          y.storeLanes g (vd + j) ty du (fun l => (row l).toNat + 4 * j) (lanesOf ok)) (s.gang g.gang)
        let s1 := s.setGang g.gang y
        s1.setGrp (if du then g else g.dropData (span vd n) ok).irrevocable

/-! ## LDW (R200) -/

/-- Checks of LDW for the address. -/
def State.wsCheck (s : State) (map : List WsEntry) (die w : Nat) (a : Int) : Option Nat :=
  if a % (w : Int) ≠ 0 then some 0x32
  else if a < 0 ∨ (s.readWs map die a.toNat w).isNone then some 0x33
  else none

/-- Cycles until LDW delivers: 268 when a lane's bank is in refresh (R200). -/
def ldwCycles (clock : Nat) (addrs : List Nat) : Nat :=
  if clock % 2200 < 220 ∧ addrs.any fun a => a / 1024 % 16 = clock / 2200 % 16 then 268 else 48

/-- LDW (R200). -/
def execLdw (vd : Nat) (a : Addr) (ty : Ty) (_ : Nat) (s : State) : Out :=
  s.guardRegs (regsOf ty vd ++ addrRegs a) fun s =>
    if !s.accessReady false then s.stand else
    let g := s.grp
    let map := (s.grid g.grid).wsmap
    let die := dieOf s.cur.gid
    s.checkedLanes (words3 a.off) 0 2 (g.laneAddr a) (fun l => s.wsCheck map die ty.bytes (g.laneAddr a l))
      fun ok s =>
        let rs := (regsOf ty vd).map RegId.v
        let g1 := (lanesOf ok).foldl (fun acc l =>
          let x := ofBytes ((s.readWs map die (g.laneAddr a l).toNat ty.bytes).getD [])
          (acc.putElem ty vd l x).zeroTan (regsOf ty vd) l) g
        let lat := ldwCycles s.clock ((lanesOf ok).map fun l => (g.laneAddr a l).toNat)
        s.setGrp ((g1.noteAll rs).deliver s.clock lat rs)

/-! ## SLD and SST (R197) -/

/-- SLD (R197). -/
def execSld (sd : Nat) (a : Addr) (ty : Ty) (o : Sync) (_ : Nat) (s : State) : Out :=
  .next (
    if !s.spadReady false o then s.stand
    else
      let g := s.grp
      let b := g.laneAddr a 0
      match spadCheck g.decl.occupancy ty.bytes ty.bytes b with
      | some c => s.trapEntry c ⟨c - 0x30, 0, 0, patternOf 52 b⟩
      | none =>
        let g1 := (g.writeS sd (extend64 ty (s.readSpad g.gang b.toNat ty.bytes))).noteWrite (.s sd)
        let g2 := if sd = 0 then g1 else g1.deliver s.clock 20 [.s sd]
        (s.setGrp ((g2.joinFor o.ord o.scope).critStep s.clock o.ord o.crit)).advance (words3 a.off))

/-- SST (R197). -/
def execSst (sd : Nat) (a : Addr) (ty : Ty) (o : Sync) (_ : Nat) (s : State) : Out :=
  .next (
    if !s.spadReady true o then s.stand
    else
      let g := s.grp
      let b := g.laneAddr a 0
      match spadCheck g.decl.occupancy ty.bytes ty.bytes b with
      | some c => s.trapEntry c ⟨c - 0x30, 1, 0, patternOf 52 b⟩
      | none =>
        let s1 := s.writeSpad g.gang b.toNat ty.bytes (g.readS sd).toNat
        (s1.setGrp (((g.irrevocable).joinFor o.ord o.scope).critStep s.clock o.ord o.crit)).advance (words3 a.off))

/-! ## ATOM and ACAS (R198) -/

/-- The read-modify-writes of the lanes, one after another. upd gives the new contents from the old, by lane. -/
def State.atomLanes (s : State) (vd : Nat) (ty : Ty) (addr : Nat → Nat) (upd : Nat → Nat → Nat) (lanes : List Nat) :
    State :=
  lanes.foldl (fun s l =>
    let g := s.grp
    let old := s.readSpad g.gang (addr l) ty.bytes
    let s1 := s.writeSpad g.gang (addr l) ty.bytes (upd l old)
    s1.setGrp ((s1.grp.putElem ty vd l old).zeroTan (regsOf ty vd) l)) s

/-- The shape of both. -/
def atomForm (vd : Nat) (a : Addr) (vc : Nat) (ty : Ty) (o : Sync) (upd : Group → Nat → Nat → Nat) (s : State) : Out :=
  s.guardRegs (regsOf ty vd ++ regsOf ty vc ++ addrRegs a) fun s =>
    if !s.spadReady true o then s.stand
    else
      let g := s.grp
      let s0 := if s.em = 0 then s.setGrp ((g.joinFor o.ord o.scope).critStep s.clock o.ord o.crit) else s
      s0.checkedLanes (words3 a.off) 2 0 (g.laneAddr a)
        (fun l => spadCheck g.decl.occupancy ty.bytes ty.bytes (g.laneAddr a l))
        fun ok s =>
          let addr := fun l => (g.laneAddr a l).toNat
          let rs := (regsOf ty vd).map RegId.v
          let s1 := s.setGrp (g.dropData (regsOf ty vc) ok).irrevocable
          let s2 := s1.atomLanes vd ty addr (upd g) (lanesOf ok)
          let lat := 27 + sameWord ((lanesOf ok).map fun l => addr l / 4)
          let g1 := (s2.grp.noteAll rs).deliver s.clock lat rs
          s2.setGrp ((g1.joinFor o.ord o.scope).critStep s.clock o.ord o.crit)

/-- ATOM (R198). -/
def execAtom (vd : Nat) (a : Addr) (vc : Nat) (op : Comb) (ty : Ty) (o : Sync) (_ : Nat) (s : State) : Out :=
  atomForm vd a vc ty o (fun g l old => combine op ty old (g.elem ty vc l)) s

/-- ACAS (R198). -/
def execAcas (vd : Nat) (a : Addr) (vc : Nat) (ty : Ty) (o : Sync) (_ : Nat) (s : State) : Out :=
  atomForm vd a vc ty o (fun g l old => if old = g.elem ty vd l then g.elem ty vc l else old) s

end Sys2Proof.Machine
end

