-- ==== Sys2Proof/Machine/Engines.lean ====
section
/-!
DEFINITION. Operations of the engines: issue (R203, R206), moving one element (R191, R192, R210, R211), landing into a barrier
(R204, R303), completion and retirement from the counters (R203, R227, R260), the engine error record (R331), and power
requests (R397).
-/

namespace Sys2Proof.Machine

/-! ## Issue -/

/-- Operations of a core that have issued and are not complete (R203). -/
def State.inFlight (s : State) (core : Nat) : Nat :=
  ((s.coreGroups core).map fun p => (p.2.ops.filter fun o => !o.done).length).sum

/-- Is the core full, so that an engine command is held at issue (R203)? -/
def State.coreFull (s : State) : Bool := decide (1024 ≤ s.inFlight (coreOf s.cur.gid))

/-- Is an engine command held at issue (R193, R203, R219)? -/
def State.engineHeld (s : State) : Bool := s.coreFull || !s.accessReady true

/-- An operation of the issuing group as it issues. -/
def State.newOp (s : State) (cls : Cls) (kind : OpKind) : Op :=
  { id := s.nextOp, cls := cls, pc := s.pc, sup := s.spl.sup, kind := kind, bar := none, nominal := 0, begun := false,
    writes := [], results := [], dests := [], counted := 0, status := 0, fault := none, carry := s.grp.groupHorizon,
    stamp := [], laneStamps := [], asked := [], got := [], lost := [], cut := [], pages := [], done := false }

/-- The operation issues: it is counted on its class, and its destinations are pending. -/
def State.addOp (s : State) (o : Op) : State :=
  { s.setGrp { s.grp with ops := s.grp.ops ++ [o] } with nextOp := s.nextOp + 1 }

def Group.op? (g : Group) (id : Nat) : Option Op := g.ops.find? fun o => decide (o.id = id)

/-- Put an operation back. -/
def Group.setOp (g : Group) (x : Op) : Group := { g with ops := g.ops.map fun o => if o.id = x.id then x else o }

def State.setOp (s : State) (gid : Nat) (x : Op) : State := s.setGroup gid ((s.group gid).setOp x)

/-- Raise status bits of an operation. -/
def Op.raise (o : Op) (st : Nat) : Op := { o with status := o.status ||| BitVec.ofNat 32 st }

/-! ## Power (R397) -/

/-- Go on with k when the grant has been given, and otherwise ask for units and hold the split at issue (R238, R258). -/
def State.withGrant (s : State) (units : Nat) (k : State → State) : State :=
  match s.spl.hold with
  | .granted => k (s.setGrp (s.grp.setSplit s.cur.entry { s.spl with hold := .none }))
  | _ =>
    let d := dieOf s.cur.gid
    let x := s.die d
    ((s.setDie d { x with requests := x.requests ++ [⟨.split s.cur.gid s.cur.entry, units, s.clock⟩] }).setGrp
      (s.grp.setSplit s.cur.entry { s.spl with hold := .power })).stand

/-- The grant of the issuing split passes to the operation it issues. -/
def State.passGrant (s : State) (id : Nat) : State :=
  let d := dieOf s.cur.gid
  let x := s.die d
  s.setDie d { x with grants := x.grants.map fun p =>
    if p.user = .split s.cur.gid s.cur.entry then { p with user := .op s.cur.gid id } else p }

/-- Grants and requests of an operation that has ended. -/
def State.endGrant (s : State) (gid id : Nat) : State :=
  let d := dieOf gid
  let x := s.die d
  let waited := ((x.requests.filter fun p => decide (p.user = .op gid id)).map fun p => s.clock - p.since).sum
  (s.setDie d { x with grants := x.grants.filter (fun p => decide (p.user ≠ .op gid id)),
                       requests := x.requests.filter fun p => decide (p.user ≠ .op gid id) }).count (s.group gid).ctx 1 waited

/-! ## Order within a class (R192) -/

/-- Do n bytes at one place and m bytes at another overlap? -/
def overlaps : Place → Nat → Place → Nat → Bool
  | .spad k a, n, .spad j b, m => decide (k = j) && decide (a < b + m) && decide (b < a + n)
  | .phys a, n, .phys b, m => decide (a < b + m) && decide (b < a + n)
  | _, _, _, _ => false

/-- Where a side holds the byte at an offset: a window in 64 KiB pages, the weight store in granules of 64 KiB. 2^63 stands
for a page that has no frame. -/
def sidePlace (side : Side) (off : Nat) : Place :=
  match side with
  | .spad k => .spad k off
  | .window base frames =>
    let va := base + off
    let f := Sparse.get (2 ^ 63) frames (va / 65536)
    if f = 2 ^ 63 then .unread else .phys (f + va % 65536)
  | .ws d map =>
    let f := Sparse.get (2 ^ 63) map (off / 65536)
    if f = 2 ^ 63 then .unread else .ws d (f + off % 65536)

/-! ## Landing into a barrier (R204, R217, R301) -/

/-- Add n landed bytes with their stamp, and status bits, to a barrier of a gang; Check follows. -/
def State.landBarrier (s : State) (gang bar n : Nat) (σ : Stamp) (st : Word32) (coll : Bool) : State :=
  let b := (s.gang gang).bar bar
  s.checkBarrier gang bar
    { b with landed := (b.landed + n) % 2 ^ 40, status := b.status ||| st, gathered := Stamp.max b.gathered σ,
             collNow := b.collNow || coll }

/-- Does the status fail: any bit but INF, NAN and SAT (R303, R331)? -/
def failing (st : Word32) : Bool := decide (st &&& 0xFFFFF8FF#32 ≠ 0)

/-- Count n bytes that an operation has landed, into its barrier if it has one, with the status it has so far (R204, R217).
What a failed operation lands is counted at its completion, in one increment (R303). No bytes are no landing. -/
def State.landed (s : State) (gid : Nat) (o : Op) (n : Nat) (σ : Stamp) : State :=
  if failing o.status ∨ n = 0 then s.setOp gid o
  else
    let s1 := s.setOp gid { o with counted := o.counted + n }
    match o.bar with
    | some b => s1.landBarrier (s1.group gid).gang b n σ o.status (o.cls == Cls.cl)
    | none => s1

/-! ## Moving elements -/

/-- Merge the stamp of a write into what the group has written (R283). -/
def Group.noteWrote (g : Group) (σ : Stamp) : Group := { g with wrote := Stamp.max g.wrote σ }

/-- The registers and values that an element of the type lands as (R63). -/
def resultOf (ty : Ty) (vd l x : Nat) : List (RegId × Nat × Nat) :=
  if ty.width = 64 then [(.v vd, l, x % 2 ^ 32), (.v (vd + 1), l, x / 2 ^ 32)]
  else [(.v vd, l, (extend32 ty x).toNat)]

/-- Change the stamps of a lane and of the operation. -/
def Op.stampLane (o : Op) (l : Nat) (σ : Stamp) : Op :=
  { o with stamp := Stamp.max o.stamp σ, laneStamps := Sparse.modify [] o.laneStamps l fun τ => Stamp.max τ σ }

/-- An indivisible update at a place (R211, R244). -/
def State.updatePlace (s : State) (die : Nat) (carry : Stamp) (p : Place) (n : Nat) (f : List Byte → List Byte) :
    State × Got × Stamp :=
  match p with
  | .spad k a =>
    let old := bytesOf n (s.readSpad k a n)
    (s.setGang k ((s.gang k).putSpad a (f old)), ⟨old, [], 0⟩, [])
  | .phys pa => s.updatePhys die pa n carry false f
  | .ws _ _ => (s, Got.fail n 0, [])
  | .unread => (s, Got.fail n stPoison, [])

/-- May the update be carried out? -/
def State.updateOk (s : State) (die : Nat) (carry : Stamp) (p : Place) (n : Nat) : Bool :=
  match p with
  | .phys pa => s.updateReady die pa n carry
  | _ => true

/-- Are the lanes' elements updated in place? -/
def LaneForm.updates : LaneForm → Bool
  | .red => true
  | .amg => true
  | _ => false

/-- A read served at the home, of bytes that the die holds older, is noted: its observer reads nothing older from now on (R276,
R282). -/
def State.noteRead (s : State) (gid obs : Nat) (carry : Stamp) (p : Place) (n : Nat) : State :=
  match p with
  | .phys pa => match physKind pa with
    | .hbm home =>
      let g := s.group gid
      if s.servedHome (dieOf gid) home carry pa n (g.least obs) then
        s.setGroup gid { g with seen := (span pa n).foldl (fun m k =>
          let seq := ((s.die home).mark k).seq
          if ((s.die (dieOf gid)).mark k).seq < seq then Sparse.set 0 m (64 * k + obs) seq else m) g.seen }
      else s
    | _ => s
  | _ => s

/-- Is the element at a place lost to the operation: its request was lost with its port, or it was not yet asked for over a link
when a request of the operation was lost (R363)? -/
def Op.loses (o : Op) : Place → Bool
  | .phys pa => match physKind pa with
    | .peer _ => o.lost.contains pa || (decide (o.cut ≠ []) && !o.asked.contains pa)
    | .host => o.lost.contains pa || (decide (o.cut ≠ []) && !o.asked.contains pa)
    | _ => false
  | _ => false

/-- What answers have brought of n bytes at an address, where they have brought all of them. -/
def Op.answer (o : Op) (pa n : Nat) : Option (List Byte) :=
  let l := (span pa n).map fun k => Sparse.get none o.got k
  if l.all Option.isSome then some (l.map fun b => b.getD 0) else none

/-- Read n bytes at a place for an operation: over a link what the answers brought, or for a peer what the die's buffer holds
(R287); elsewhere as the place stands. Where neither is there the port is not usable. -/
def State.readFor (s : State) (die : Nat) (o : Op) (carry : Stamp) (p : Place) (n : Nat) (least : Nat → Nat := fun _ => 0) : Got :=
  match p with
  | .phys pa => match physKind pa with
    | .peer _ => match o.answer pa n, (s.die die).buffered pa n with
      | some b, _ => ⟨b, [], 0⟩
      | none, some b => ⟨b, [], 0⟩
      | none, none => Got.fail n (stPoison + stLink)
    | .host => match o.answer pa n with
      | some b => ⟨b, [], 0⟩
      | none => Got.fail n (stPoison + stLink)
    | _ => s.readPlace die carry p n least
  | _ => s.readPlace die carry p n least

/-- Write bytes at a place for an operation: over a link the request has done it, and the die's buffer keeps no older bytes. -/
def State.writeFor (s : State) (die : Nat) (o : Op) (carry : Stamp) (p : Place) (bytes : List Byte) (poison : Bool) :
    State × Stamp × Nat :=
  match p with
  | .phys pa => match physKind pa with
    | .peer _ => if o.asked.contains pa then (s.unbuffer die pa bytes.length, [], 0) else (s, [], stPoison + stLink)
    | .host => if o.asked.contains pa then (s, [], 0) else (s, [], stPoison + stLink)
    | _ => s.writePlace die carry p bytes poison
  | _ => s.writePlace die carry p bytes poison

/-- Update an element at a place for an operation: over a link the home has done it, and its answer brought the old bytes. -/
def State.updateFor (s : State) (die : Nat) (o : Op) (carry : Stamp) (p : Place) (n : Nat) (f : List Byte → List Byte) :
    State × Got × Stamp :=
  match p with
  | .phys pa => match physKind pa with
    | .peer _ => match o.answer pa n with
      | some b => (s.unbuffer die pa n, ⟨b, [], 0⟩, [])
      | none => (s, Got.fail n (stPoison + stLink), [])
    | .host => match o.answer pa n with
      | some b => (s, ⟨b, [], 0⟩, [])
      | none => (s, Got.fail n (stPoison + stLink), [])
    | _ => s.updatePlace die carry p n f
  | _ => s.updatePlace die carry p n f

/-- What an operation that belongs to no lane reads at a place. -/
def State.opRead (s : State) (gid : Nat) (o : Op) (p : Place) (n : Nat) : Got :=
  if o.loses p then Got.fail n (stPoison + stLink)
  else s.readFor (dieOf gid) o o.carry p n ((s.group gid).least 32)

/-- The request for n bytes over a link has been used. -/
def Op.used (o : Op) (p : Place) (n : Nat) : Op :=
  match p with
  | .phys pa => { o with asked := o.asked.erase pa, got := Sparse.clearRange o.got pa (pa + n) }
  | _ => o

/-- Move the element of item it of a lane form (R210, R211); a RED moves every item at its place at once. An acquire on
peer memory drops the peer read buffer (R287). -/
def State.moveItem (s : State) (gid : Nat) (o1 : Op) (form : LaneForm) (vd : Nat) (ty : Ty) (op : Comb) (it : LaneItem)
    (rest : List LaneItem) (acq : Bool) (re : List LaneItem → OpKind) : State :=
  let die := dieOf gid
  let w := ty.bytes
  let o := o1.used it.place w
  let fresh := fun (s : State) => match it.place with
    | .phys pa => if acq then (match physKind pa with | .peer _ => s.dropPeerBuf die | _ => s) else s
    | _ => s
  match form with
  | .load =>
    let x := s.readFor die o1 it.carry it.place w ((s.group gid).least it.lane)
    (s.noteRead gid it.lane it.carry it.place w).setOp gid ({ o with kind := re rest, results := o.results ++ resultOf ty vd it.lane x.num }.raise x.status
      |>.stampLane it.lane x.stamp)
  | .store =>
    let r := s.writeFor die o1 it.carry it.place (bytesOf w it.data) false
    let s1 := r.1.setOp gid (({ o with kind := re rest }.raise r.2.2).stampLane it.lane r.2.1)
    s1.setGroup gid ((s1.group gid).noteWrote r.2.1)
  | .amg =>
    let r := s.updateFor die o1 it.carry it.place w fun b => bytesOf w (combine op ty (ofBytes b) it.data)
    let s1 := r.1.setOp gid (({ o with kind := re rest,
                                       results := o.results ++ resultOf ty vd it.lane r.2.1.num }.raise r.2.1.status).stampLane
        it.lane (Stamp.max r.2.1.stamp r.2.2))
    fresh (s1.setGroup gid ((s1.group gid).noteWrote r.2.2))
  | .red =>
    let same := rest.filter fun x => decide (x.place = it.place)
    let others := rest.filter fun x => decide (x.place ≠ it.place)
    let data := same.foldl (fun x i => combine op ty x i.data) it.data
    let carry := same.foldl (fun σ i => Stamp.max σ i.carry) it.carry
    let r := s.updateFor die o1 carry it.place w fun b => bytesOf w (combine op ty (ofBytes b) data)
    let s1 := r.1.setOp gid (({ o with kind := re others }.raise r.2.1.status).stampLane it.lane
      (Stamp.max r.2.1.stamp r.2.2))
    fresh (s1.setGroup gid ((s1.group gid).noteWrote r.2.2))

/-- The first item that stands at the place of item k: lanes that share an address move in ascending order (R211). -/
def firstAt (items : List LaneItem) (k : Nat) : Option LaneItem :=
  match items[k]? with
  | some x => items.find? fun y => decide (y.place = x.place)
  | none => none

/-- What stands at the place of an element of an add-on-store, at its home; over a link the answer says what stood there. -/
def State.oldAt (s : State) (o : Op) (p : Place) (n : Nat) : Got :=
  match p with
  | .spad k a => ⟨bytesOf n (s.readSpad k a n), [], 0⟩
  | .ws _ _ => Got.fail n 0
  | .unread => Got.fail n stPoison
  | .phys pa => match physKind pa with
    | .hbm home => (s.die home).read pa n
    | .unbacked => Got.fail n stPoison
    | _ => match o.answer pa n with
      | some b => ⟨b, [], 0⟩
      | none => Got.fail n (stPoison + stLink)

/-- TY(x) plus an F32 pattern, rounded once into the type (R243). -/
def addTo (ty : Ty) (x a : Nat) : Nat := roundTo (fmtOf ty) .rne (XVal.add ((fmtOf ty).value x) (Fmt.f32.value a))

/-- NAN and INF of a written element (R226, R259). -/
def specialBits (ty : Ty) (x : Nat) : Nat :=
  match (fmtOf ty).value x with
  | .nan => 0x200
  | .inf _ => 0x100
  | .fin _ _ _ => 0

/-- The HBM part of an element of an add-on-store. -/
def hbmPart (p : Place) (bytes : List Byte) (poison : Bool) : Option Part :=
  match p with
  | .phys pa => match physKind pa with
    | .hbm _ => some ⟨pa, bytes, poison⟩
    | _ => none
  | _ => none

/-- A tile of an add-on-store: one indivisible update of all its elements (R244, R285). -/
def State.addTile (s : State) (die : Nat) (o : Op) (carry : Stamp) (ty : Ty) (adds : List (Place × Nat)) : State × Stamp × Nat :=
  let w := ty.bytes
  let els := adds.map fun a =>
    let old := s.oldAt o a.1 w
    (a.1, bytesOf w (if old.status = 0 then addTo ty old.num a.2 else 0), old)
  let parts := els.filterMap fun e => hbmPart e.1 e.2.1 (decide (e.2.2.status ≠ 0))
  let homes := parts.map fun p => p.pa / 2 ^ 36
  let r := if parts = [] then (s, []) else s.writeParts die homes parts carry
  let rest := els.filter fun e => (hbmPart e.1 [] false).isNone
  let s1 := rest.foldl (fun s e => (s.writeFor die o carry e.1 e.2.1 false).1) r.1
  (s1, Stamp.max r.2 (Stamp.maxAll (els.map fun e => e.2.2.stamp)), els.foldl (fun st e => st ||| e.2.2.status ||| specialBits ty (ofBytes e.2.1)) 0)

/-- Perform a prepared write: plain, or a tile of an add-on-store (R243, R244). -/
def State.doPending (s : State) (die : Nat) (o : Op) (carry : Stamp) (p : Pending) : State × Stamp × Nat :=
  if p.adds = [] then s.writeFor die o carry p.place p.bytes p.poison else s.addTile die o carry p.ty p.adds

/-- Bytes that a prepared write lands. -/
def Pending.size (p : Pending) : Nat := if p.adds = [] then p.bytes.length else p.adds.length * p.ty.bytes

/-- The places and lengths that a prepared write touches. -/
def Pending.spots (p : Pending) : List (Place × Nat) :=
  if p.adds = [] then [(p.place, p.bytes.length)] else p.adds.map fun a => (a.1, p.ty.bytes)

/-- May a prepared write be performed on the die? -/
def State.pendingReady (s : State) (die : Nat) (carry : Stamp) (p : Pending) : Bool :=
  p.spots.all fun x => s.placeReady die carry x.1 x.2 && (decide (p.adds = []) || s.updateOk die carry x.1 x.2)

/-- The bytes an operation has still to touch: its items or its writes, and what f gives of a copy or a collective that has not
yet read or prepared them. -/
def Op.touches (f : Op → List (Place × Nat)) (o : Op) : List (Place × Nat) :=
  match o.kind with
  | .lanes _ _ ty _ _ _ items => items.map fun i => (i.place, ty.bytes)
  | _ => f o ++ o.writes.flatMap Pending.spots

/-- The operations of the group and class that are older and not complete. -/
def Group.olderOf (g : Group) (o : Op) : List Op := g.ops.filter fun x => x.cls == o.cls && decide (x.id < o.id) && !x.done

/-- Does an older operation of the class still touch the bytes (R192)? Private operations keep issue order whole (R210). -/
def Group.blocked (g : Group) (f : Op → List (Place × Nat)) (o : Op) (p : Place) (n : Nat) : Bool :=
  (g.olderOf o).any fun x => o.cls == .pv || (x.touches f).any fun t => overlaps t.1 t.2 p n

/-! ## The engine error record (R331) -/

/-- Write bytes at a virtual address of a context from die 0; nothing where no page stands. -/
def State.writeVirt (s : State) (ctx va : Nat) (bytes : List Byte) : State :=
  match s.find 0 ctx va [] with
  | .leaf e => (s.writePhys 0 (e.frame + (va - e.va)) bytes [] false).1
  | _ => s

/-- Read bytes at a virtual address of a context on die 0; zero where no page stands. -/
def State.readVirt (s : State) (ctx va n : Nat) : Nat :=
  match s.find 0 ctx va [] with
  | .leaf e => (s.readPhys 0 [] (e.frame + (va - e.va)) n).num
  | _ => 0

/-- Enter record k in the ring of a context, k counting the records of the ring: the record, then WIDX; a full ring counts in LOST
(R331). -/
def State.errorEntry (s : State) (ctx gid : Nat) (pc : Addr52) (kind cls : Nat) (word : Nat) : State :=
  let base := (s.context ctx).errrec
  let head := s.readVirt ctx base 16
  let k := (s.context ctx).records
  let lost := field head 64 32
  if (k % 2 ^ 32 + 2 ^ 32 - field head 32 32) % 2 ^ 32 < 255 then
    let rec_ := pc.toNat * 2 ^ 76 + coreOf gid % 512 * 2 ^ 64 + gid % 64 * 2 ^ 58 + kind % 256 * 2 ^ 40 +
      cls % 16 * 2 ^ 36 + word % 2 ^ 32
    let s1 := (s.writeVirt ctx (base + 16 * (1 + k % 255)) (bytesOf 16 rec_)).writeVirt ctx base (bytesOf 4 (k + 1))
    s1.setContext ctx { (s1.context ctx) with records := k + 1 }
  else s.writeVirt ctx (base + 8) (bytesOf 4 (Nat.min (lost + 1) (2 ^ 32 - 1)))

/-- A record of a group of the device. -/
def State.errorRecord (s : State) (gid : Nat) (pc : Addr52) (kind cls : Nat) (word : Nat) : State :=
  s.errorEntry (s.group gid).ctx gid pc kind cls word

/-! ## Completion -/

/-- Land one register result with +0 tangents (R99, R127). -/
def Group.land (g : Group) (r : RegId × Nat × Nat) : Group :=
  match r.1 with
  | .v k => ((g.writeV k r.2.1 (BitVec.ofNat 32 r.2.2)).zeroTan [k] r.2.1).noteWrite (.v k)
  | .s k => (g.writeS k (BitVec.ofNat 64 r.2.2)).noteWrite (.s k)
  | _ => g

/-- Take the operations that retire from their counters: complete, with every older one of the class complete (R203). -/
def retire : List Cls → List Op → List Op × List Op
  | _, [] => ([], [])
  | held, o :: os =>
    if o.done && !held.contains o.cls then
      let r := retire held os
      (r.1, o :: r.2)
    else
      let r := retire (o.cls :: held) os
      (o :: r.1, r.2)

/-- Retire operations and keep their stamps by class (R284). -/
def Group.retireOps (g : Group) : Group :=
  let r := retire [] g.ops
  { g with ops := r.1,
           clsStamp := r.2.foldl (fun m o => Sparse.modify [] m o.cls.code fun τ => Stamp.max τ o.stamp) g.clsStamp }

/-- The factor fault latch takes a fault word, or counts one more failure (R260). -/
def latchFault (old : Option Word64) : Option Word64 → Option Word64
  | none => old
  | some w =>
    match old with
    | none => some w
    | some x => some (BitVec.ofNat 64 (putField x.toNat 32 8 (Nat.min 255 (field x.toNat 32 8 + 1))))

/-- What the completion of operation o does to its group: results, horizons, MXSTAT, latch (R203, R227, R260, R279). -/
def Group.complete (g : Group) (o : Op) : Group :=
  let g1 : Group := o.results.foldl Group.land g
  let g2 : Group := { g1 with
    horizon := o.laneStamps.foldl (fun m p => Sparse.modify [] m p.1 fun τ => Stamp.max τ p.2) g1.horizon,
    mxstat := if o.cls == Cls.mx || o.cls == Cls.fx then g1.mxstat ||| o.status else g1.mxstat,
    latch := latchFault g1.latch o.fault }
  let g3 := if o.acquires then g2.mergeHorizon o.stamp else g2
  (g3.setOp { o with done := true, results := [] }).retireOps

/-- An operation that completes ends its part in a barrier: a failed one adds the bytes still due in one increment and its
status, and Check runs (R303); the status of another only joins STATUS (R217). -/
def State.endBarrier (s : State) (gang b : Nat) (o : Op) : State :=
  if failing o.status then
    s.landBarrier gang b ((o.nominal + 2 ^ 40 - o.counted % 2 ^ 40) % 2 ^ 40) o.stamp o.status (o.cls == Cls.cl)
  else
    let y := s.gang gang
    s.setGang gang (y.setBar b { (y.bar b) with status := (y.bar b).status ||| o.status })

/-- Operation o of the group completes: results land, its barrier or the error record is told, counters retire and waits end
(R203, R204, R303, R331). -/
def State.completeOp (s : State) (gid : Nat) (o : Op) : State :=
  let s0 := { s with colls := s.colls.filter fun c => decide (c.here ≠ some (OpRef.mk gid o.id)) }
  let engine := o.cls != .mx && o.cls != .fx
  let s1 := ((s0.setGroup gid ((s.group gid).complete o)).count (s.group gid).ctx 7 (if engine then 1 else 0)).endGrant gid o.id
  let s2 := match o.bar with
    | some b => s1.endBarrier (s1.group gid).gang b o
    | none => if failing o.status then s1.errorRecord gid o.pc 1 o.cls.code o.status.toNat else s1
  (s2.tryFences gid).wakeGroup gid

end Sys2Proof.Machine
end

