-- ==== Sys2Proof/Machine/Copy.lean ====
section
/-!
DEFINITION. The copy engine: descriptors and format records (R74 to R78, R207 to R209, R236), dual surfaces (R100, R101),
nominal counts (R303), the translation of a side at issue (R189, R200, R207), and what a copy writes.
-/

namespace Sys2Proof.Machine

/-! ## The descriptor -/

/-- A dimension record (R207). -/
structure DimRec where
  extent : Nat
  ss : Int
  ds : Int
  deriving DecidableEq, Repr

/-- The fields of a descriptor (R76, R207). resv says that a reserved field is nonzero. -/
structure CopyDesc where
  src : Nat
  dst : Nat
  rnd : Nat
  srbits : Nat
  map : Bool
  mapoff : Nat
  seed : Nat
  srcBase : Int
  dstBase : Int
  skind : Nat
  swin : Nat
  dkind : Nat
  dwin : Nat
  ndim : Nat
  dual : Bool
  planes : Nat
  bf16 : Bool
  layout : Bool
  pstride : Nat
  dims : List DimRec
  resv : Bool
  deriving DecidableEq, Repr

/-- Dimension record k of a descriptor. -/
def dimRec (d k : Nat) : DimRec :=
  ⟨field d (512 + 128 * k) 32, signedOf 48 (field d (544 + 128 * k) 48), signedOf 48 (field d (592 + 128 * k) 48)⟩

/-- The fields of the 256 bytes. -/
def copyDesc (d : Nat) : CopyDesc :=
  let n := field d 268 4
  { src := field d 28 4, dst := field d 24 4, rnd := field d 21 3, srbits := field d 16 5, map := bitAt d 32,
    mapoff := field d 48 16, seed := field d 96 32, srcBase := signedOf 64 (field d 128 64),
    dstBase := signedOf 64 (field d 192 64), skind := field d 256 3, swin := field d 259 3, dkind := field d 262 3,
    dwin := field d 265 3, ndim := n, dual := bitAt d 272, planes := field d 273 3 + 1, bf16 := bitAt d 276,
    layout := bitAt d 277, pstride := 256 * field d 280 40, dims := (List.range 12).map (dimRec d),
    resv := decide (field d 0 16 ≠ 0) || decide (field d 33 15 ≠ 0) || decide (field d 64 32 ≠ 0) ||
      decide (field d 278 2 ≠ 0) || decide (field d 320 192 ≠ 0) ||
      (List.range 12).any fun k => decide (n ≤ k) && decide (field d (512 + 128 * k) 128 ≠ 0) }

def CopyDesc.srcTy (c : CopyDesc) : Ty := (Ty.ofCode c.src).getD .f32
def CopyDesc.dstTy (c : CopyDesc) : Ty := (Ty.ofCode c.dst).getD .f32

/-- The dimensions in use. -/
def CopyDesc.used (c : CopyDesc) : List DimRec := c.dims.take c.ndim

/-- Number of index tuples. -/
def CopyDesc.count (c : CopyDesc) : Nat := (c.used.map DimRec.extent).foldl (· * ·) 1

/-- Elements of a row: dimension 0 (R208). -/
def CopyDesc.rowLen (c : CopyDesc) : Nat := (c.used.map DimRec.extent).headD 1

/-- Number of rows. -/
def CopyDesc.rows (c : CopyDesc) : Nat := c.count / c.rowLen

/-- Offset of row ρ along the remaining dimensions, the first of them fastest (log 25). -/
def rowOffset (stride : DimRec → Int) : List DimRec → Nat → Int
  | [], _ => 0
  | x :: xs, ρ => ((ρ % x.extent : Nat) : Int) * stride x + rowOffset stride xs (ρ / x.extent)

/-- Block size of the canonical layout (R235). -/
def blockBytes (ty : Ty) (len : Nat) : Nat := if ty = .e4m3 then 33 * len else 64 * len

/-- Source address of element i of row ρ. -/
def CopyDesc.srcAt (c : CopyDesc) (ρ i : Nat) : Int :=
  c.srcBase + rowOffset DimRec.ss (c.used.drop 1) ρ + (i : Int) * ((c.used.map DimRec.ss).headD 0)

/-- Destination address of element i of row ρ (R208, R236). -/
def CopyDesc.dstAt (c : CopyDesc) (ρ i : Nat) : Int :=
  if c.layout then
    c.dstBase + ((ρ / 32 * blockBytes c.dstTy c.rowLen + ρ % 32 * c.rowLen * c.dstTy.bytes + i * c.dstTy.bytes : Nat) : Int)
  else c.dstBase + rowOffset DimRec.ds (c.used.drop 1) ρ + (i : Int) * ((c.used.map DimRec.ds).headD 0)

/-- All elements, as row and place in the row. -/
def CopyDesc.elements (c : CopyDesc) : List (Nat × Nat) :=
  (List.range c.rows).flatMap fun ρ => (List.range c.rowLen).map fun i => (ρ, i)

/-! ## Duplication maps (R74, R75, R77) -/

/-- The valid entries (C, Q) of a record. -/
def dupEntries (r : Nat) : List (Nat × Nat) :=
  (List.range 8).filterMap fun e =>
    let v := field r (16 * e) 16
    if 2 ^ 15 ≤ v then some (v % 128, v / 256 % 128) else none

/-- Does the record break a condition of R77? -/
def dupBad (r : Nat) : Bool :=
  ((List.range 8).any fun e =>
    let v := field r (16 * e) 16
    decide (v ≠ 0) && (decide (v < 2 ^ 15) || bitAt v 7)) ||
  !decide ((dupEntries r).flatMap fun p => [p.1, p.2]).Nodup

/-- The pair of a K index in a map, if a valid entry names it: the split channel and the two K indices. -/
def dupPair (recs : List Nat) (i : Nat) : Option (Nat × Nat) :=
  (dupEntries (recs.getD (i / 128) 0)).findSome? fun p =>
    if i % 128 = p.1 ∨ i % 128 = p.2 then some (i / 128 * 128 + p.1, i / 128 * 128 + p.2) else none

/-- The source position of a K index under a map. -/
def dupSource (recs : List Nat) (i : Nat) : Nat :=
  match dupPair recs i with
  | some p => p.1
  | none => i

/-- The lower index of the pair, for the higher one: it draws no bits of its own (R75). -/
def dupLower (recs : List Nat) (i : Nat) : Option Nat :=
  match dupPair recs i with
  | some p => if i = Nat.max p.1 p.2 then some (Nat.min p.1 p.2) else none
  | none => none

/-! ## Ill-formed descriptors (R77, R209) -/

/-- A format record that R77 refuses; recs are the map records. -/
def CopyDesc.formatBad (c : CopyDesc) (z : Nat) (recs : List Nat) : Bool :=
  decide (12 ≤ c.src) || decide (12 ≤ c.dst) || decide (4 < c.rnd) ||
  (if c.rnd = 4 then decide (c.srbits = 0) || decide (24 < c.srbits) else decide (c.srbits ≠ 0)) ||
  (if c.map then
    decide (c.dst ≠ 3) || decide (c.rowLen % 128 ≠ 0) || decide (z < 16 * c.mapoff + 16 * (c.rowLen / 128)) ||
      recs.any dupBad
   else decide (c.mapoff ≠ 0))

/-- The window element, value and tangent, lies within its plane (R100). -/
def planeOk (stride v t : Nat) (o : Int) : Bool :=
  decide (0 ≤ o) && decide (o + (v : Int) ≤ (stride : Int)) &&
  decide (o * (t : Int) / (v : Int) + (t : Int) ≤ (stride : Int))

/-- Element size of a tangent plane of the window side. -/
def CopyDesc.planeBytes (c : CopyDesc) : Nat := if c.bf16 then 2 else 4

/-- A dual descriptor that R101 and R209 refuse. -/
def CopyDesc.dualBad (c : CopyDesc) (k : Decl) : Bool :=
  if c.dual then
    decide (c.skind + c.dkind ≠ 1) || decide (c.pstride = 0) || decide (k.d = 0) ||
    decide ((if c.skind = 0 then c.src else c.dst) ≠ 0) ||
    c.elements.any fun e =>
      if c.skind = 1 then !planeOk c.pstride c.srcTy.bytes c.planeBytes (c.srcAt e.1 e.2 - c.srcBase)
      else !planeOk c.pstride c.dstTy.bytes c.planeBytes (c.dstAt e.1 e.2 - c.dstBase)
  else decide (c.pstride ≠ 0)

/-- A LAYOUT that R236 refuses. -/
def CopyDesc.layoutBad (c : CopyDesc) : Bool :=
  c.layout &&
  (decide (c.dkind ≠ 0) || !(decide (c.dst = 2) || decide (c.dst = 3)) ||
    !([256, 512, 1024, 2048].contains c.rowLen) || c.used.any (fun x => decide (x.ds ≠ 0)) ||
    decide (c.dstBase % 256 ≠ 0) || c.dual)

/-- Does the scratchpad element lie inside the bound? -/
def inside (bound n : Nat) (a : Int) : Bool := decide (0 ≤ a) && decide (a + (n : Int) ≤ (bound : Int))

/-- The destination bytes of a copy, tangents included (R208). -/
def CopyDesc.destBytes (c : CopyDesc) (k : Decl) : Nat :=
  c.count * c.dstTy.bytes + c.count * (if c.dual then (if c.dkind = 0 then k.d * k.tanBytes else c.planes * c.planeBytes) else 0)

/-- Does the work of an operation go on only under a power grant (R206, R238, R258, R397)? -/
def OpKind.powered : OpKind → Bool
  | .copy w => decide (1048576 < (copyDesc w.raw).destBytes w.decl)
  | .matrix (.mloop _ _ _ _ _ _ count) => decide (count ≠ 0)
  | .factor _ _ _ (.fupd _) => true
  | .factor _ _ _ (.fdown _) => true
  | _ => false

/-- Has an operation the power that its work asks for? -/
def State.hasPower (s : State) (gid : Nat) (o : Op) : Bool :=
  !o.kind.powered || (s.die (dieOf gid)).grants.any fun p => decide (p.user = .op gid o.id)

/-- The whole check of R209. -/
def CopyDesc.illFormed (c : CopyDesc) (k : Decl) (recs : List Nat) : Bool :=
  c.resv || c.formatBad k.occupancy recs || decide (c.ndim = 0) || decide (12 < c.ndim) || decide (2 < c.skind) ||
  decide (1 < c.dkind) || c.used.any (fun x => decide (x.extent = 0)) ||
  decide (2 ^ 40 ≤ c.destBytes k) || c.layoutBad || c.dualBad k ||
  (c.elements.any fun e =>
    decide (c.srcAt e.1 e.2 % (c.srcTy.bytes : Int) ≠ 0) || decide (c.dstAt e.1 e.2 % (c.dstTy.bytes : Int) ≠ 0) ||
    (decide (c.skind = 0) && !inside (if c.dual then k.spad else k.occupancy) c.srcTy.bytes (c.srcAt e.1 e.2)) ||
    (decide (c.dkind = 0) && !inside (if c.dual then k.spad else k.occupancy) c.dstTy.bytes (c.dstAt e.1 e.2))) ||
  !decide (c.elements.map fun e => c.dstAt e.1 e.2).Nodup

/-- The nominal byte count (R303). The element size of a reserved DST code is a free value (log 5). -/
def CopyDesc.nominal (c : CopyDesc) (k : Decl) (fresh : Nat) : Nat :=
  let n := if c.ndim = 0 ∨ 12 < c.ndim then 12 else c.ndim
  let e := ((c.dims.take n).map DimRec.extent).foldl (· * ·) 1
  let w := if c.dst < 12 then c.dstTy.bytes else (Config.freeWord fresh 16384).toNat
  let t := if c.dual then (if c.dkind = 0 then k.d * k.tanBytes else c.planes * c.planeBytes) else 0
  (e * w + e * t) % 2 ^ 40

/-! ## Translation at issue (R189, R200, R207) -/

/-- What the translation of a side answers: the side, the cause and address of its lowest failing byte, or a hold. -/
inductive SideCheck where
  | ok (side : Side) (leaves : List TlbEntry)
  | fault (cause : Nat) (addr : Int)
  | hold
  deriving DecidableEq, Repr

/-- A fault at an address, or one found before at a lower address. -/
def SideCheck.failAt (r : SideCheck) (c : Nat) (a : Int) : SideCheck :=
  match r with
  | .fault c' b => if a < b then .fault c a else .fault c' b
  | .hold => .hold
  | .ok _ _ => .fault c a

/-- Put one element's translation into the frames of a side. -/
def foldElement (a : Int) (x : Xlate) (acc : SideCheck) : SideCheck :=
  match x with
  | .fault c => acc.failAt c a
  | .hold => .hold
  | .ok pa e => match acc with
    | .ok (.window base fr) ls =>
      .ok (.window base (Sparse.set (2 ^ 63) fr (a.toNat / 65536) (pa - a.toNat % 65536)))
        (if e.size = 0 ∨ ls.contains e then ls else e :: ls)
    | _ => acc

/-- Translate elements of a window side, each an offset and a width. -/
def State.windowSide (s : State) (w : Window) (acc : Access) (els : List (Int × Nat)) : SideCheck :=
  els.foldl (fun r e =>
    foldElement ((w.base : Int) + e.1)
      (s.laneCheck (quarterOf s.cur.gid) s.grp.ctx w e.1 e.2 acc false s.spl.sup s.grp.groupHorizon) r)
    (.ok (.window w.base []) [])

/-- Put one weight-store element into the map of a side (R200). -/
def wsElement (off : Option Nat) (a : Int) (r : SideCheck) : SideCheck :=
  match off with
  | none => r.failAt 0x33 a
  | some x => match r with
    | .ok (.ws d fr) ls => .ok (.ws d (Sparse.set (2 ^ 63) fr (a.toNat / 65536) (x - a.toNat % 65536))) ls
    | _ => r

/-- Where a weight-store element stands, when all of its bytes may be read on the die. -/
def State.wsFind (s : State) (map : List WsEntry) (die : Nat) (a : Int) (n : Nat) : Option Nat :=
  if a < 0 ∨ (s.readWs map die a.toNat n).isNone then none else wsByte map die a.toNat

/-- Translate elements of a weight-store side. -/
def State.wsSide (s : State) (els : List (Int × Nat)) : SideCheck :=
  els.foldl (fun r e =>
    wsElement (s.wsFind (s.grid s.grp.grid).wsmap (dieOf s.cur.gid) e.1 e.2) e.1 r) (.ok (.ws (dieOf s.cur.gid) []) [])

/-- Offset of the element of tangent plane k for the window value at offset o (R100). -/
def CopyDesc.planeAt (c : CopyDesc) (base : Int) (v k : Nat) (o : Int) : Int :=
  base + (((k + 1) * c.pstride : Nat) : Int) + (o - base) * (c.planeBytes : Int) / (v : Int)

/-- Tangent planes that a dual copy reads or writes on its window side (R101). -/
def CopyDesc.planesMoved (c : CopyDesc) (k : Decl) : Nat :=
  if c.dual then (if c.skind = 1 then Nat.min c.planes k.d else c.planes) else 0

/-- The elements whose source value is read: under a map not those of a position that takes its partner's value (R75). -/
def CopyDesc.sources (c : CopyDesc) (recs : List Nat) : List (Nat × Nat) :=
  c.elements.filter fun e => decide (dupSource recs e.2 = e.2)

/-- The source elements of the source side: values, then planes. -/
def CopyDesc.srcElements (c : CopyDesc) (k : Decl) (recs : List Nat) : List (Int × Nat) :=
  ((c.sources recs).map fun e => (c.srcAt e.1 e.2, c.srcTy.bytes)) ++
  (if c.skind = 1 then
    c.elements.flatMap fun e => (List.range (c.planesMoved k)).map fun p =>
      (c.planeAt c.srcBase c.srcTy.bytes p (c.srcAt e.1 e.2), c.planeBytes)
   else [])

/-- The destination elements of the destination side. -/
def CopyDesc.dstElements (c : CopyDesc) (k : Decl) : List (Int × Nat) :=
  (c.elements.map fun e => (c.dstAt e.1 e.2, c.dstTy.bytes)) ++
  (if c.dkind = 1 then
    c.elements.flatMap fun e => (List.range (c.planesMoved k)).map fun p =>
      (c.planeAt c.dstBase c.dstTy.bytes p (c.dstAt e.1 e.2), c.planeBytes)
   else [])

/-- Translate the source side; recs are the map records. -/
def State.srcSide (s : State) (c : CopyDesc) (recs : List Nat) : SideCheck :=
  if c.skind = 0 then .ok (.spad s.grp.gang) []
  else if c.skind = 1 then s.windowSide (s.grp.window c.swin) .read (c.srcElements s.grp.decl recs)
  else s.wsSide (c.srcElements s.grp.decl recs)

/-- Translate the destination side. -/
def State.dstSide (s : State) (c : CopyDesc) : SideCheck :=
  if c.dkind = 0 then .ok (.spad s.grp.gang) []
  else s.windowSide (s.grp.window c.dwin) .write (c.dstElements s.grp.decl)

/-! ## What a copy writes (R76, R78, R208) -/

/-- The rounding of a copy; bits are the random bits of a stochastic rounding. -/
def CopyDesc.mode (c : CopyDesc) (bits : Nat) : Rnd :=
  match c.rnd with
  | 0 => .rne
  | 1 => .rtz
  | 2 => .rup
  | 3 => .rdn
  | _ => .sr bits c.srbits

/-- Half of an exact value (R75). -/
def halfOf : XVal → XVal
  | .fin g n d => .fin g n (2 * d)
  | x => x

/-- A destination element from its source element (R76, R78). -/
def CopyDesc.convertElem (c : CopyDesc) (halved : Bool) (bits x : Nat) : Nat :=
  if halved then roundTo Fmt.e4m3Fmt (c.mode bits) (halfOf (valueOf c.srcTy x))
  else if c.src = c.dst then x
  else convert c.dstTy c.srcTy (c.mode bits) x

/-- Insert an element by destination address. -/
def insertElem (c : CopyDesc) (e : Nat × Nat) : List (Nat × Nat) → List (Nat × Nat)
  | [] => [e]
  | x :: xs => if c.dstAt e.1 e.2 ≤ c.dstAt x.1 x.2 then e :: x :: xs else x :: insertElem c e xs

/-- Does element i of a row draw random bits of its own (R75, R76)? -/
def CopyDesc.draws (c : CopyDesc) (recs : List Nat) (i : Nat) : Bool :=
  decide (c.rnd = 4) && (dupLower recs i).isNone && (decide (c.src ≠ c.dst) || (dupPair recs i).isSome)

/-- The random bits by element, in ascending order of destination addresses from the seed (R76). -/
def CopyDesc.drawn (c : CopyDesc) (recs : List Nat) : List ((Nat × Nat) × Nat) :=
  ((c.elements.foldr (insertElem c) []).foldl (fun (st : Nat × List ((Nat × Nat) × Nat)) e =>
    if c.draws recs e.2 then (rngStep st.1, (e, rngBits st.1) :: st.2) else st) (rngSeed c.seed, [])).2

/-- The random bits of an element: a higher position takes its partner's. -/
def bitsOf (drawn : List ((Nat × Nat) × Nat)) (recs : List Nat) (e : Nat × Nat) : Nat :=
  let k := match dupLower recs e.2 with
    | some i => (e.1, i)
    | none => e
  ((drawn.find? fun p => decide (p.1 = k)).map Prod.snd).getD 0

/-- The map records in force: those of the descriptor, or none. -/
def CopyWork.recs (w : CopyWork) : List Nat := if (copyDesc w.raw).map then w.dup else []

/-- Convert a tangent between the two tangent formats, nearest-even (R101). -/
def convertTan (toB fromB : Bool) (x : Nat) : Nat :=
  if toB = fromB then x
  else roundTo (if toB then Fmt.bf16 else Fmt.f32) .rne ((if fromB then Fmt.bf16 else Fmt.f32).value x)

/-- A place at a signed offset of a side. -/
def placeAt (side : Side) (o : Int) : Place := sidePlace side o.toNat

/-- The writes of one value element. -/
def State.copyValue (s : State) (gid : Nat) (o : Op) (w : CopyWork) (drawn : List ((Nat × Nat) × Nat))
    (e : Nat × Nat) : Got × Pending :=
  let c := copyDesc w.raw
  let got := s.opRead gid o (placeAt w.src (c.srcAt e.1 (dupSource w.recs e.2))) c.srcTy.bytes
  let x := c.convertElem (dupPair w.recs e.2).isSome (bitsOf drawn w.recs e) got.num
  let bad := decide (got.status ≠ 0)
  (got, ⟨placeAt w.dst (c.dstAt e.1 e.2), bytesOf c.dstTy.bytes (if bad then 0 else x), bad, [], c.dstTy⟩)

/-- The writes of the tangents of one element (R101): slots of the scratchpad, or planes of the window. -/
def State.copyTangent (s : State) (gid : Nat) (o : Op) (w : CopyWork) (e : Nat × Nat) (k : Nat) : Got × Pending :=
  let c := copyDesc w.raw
  let have_ := decide (k < Nat.min c.planes w.decl.d)
  if c.skind = 1 then
    let got := if have_ then
        s.opRead gid o (placeAt w.src (c.planeAt c.srcBase c.srcTy.bytes k (c.srcAt e.1 e.2))) c.planeBytes
      else ⟨List.replicate c.planeBytes 0, [], 0⟩
    let x := if got.status ≠ 0 then 0 else convertTan w.decl.bf16 c.bf16 got.num
    (got, ⟨placeAt w.dst ((w.decl.tanAddr k (c.dstAt e.1 e.2).toNat : Nat) : Int), bytesOf w.decl.tanBytes x, false, [], .f32⟩)
  else
    let got := if have_ then
        s.opRead gid o (placeAt w.src ((w.decl.tanAddr k (c.srcAt e.1 e.2).toNat : Nat) : Int)) w.decl.tanBytes
      else ⟨List.replicate w.decl.tanBytes 0, [], 0⟩
    let bad := decide (got.status ≠ 0)
    (got, ⟨placeAt w.dst (c.planeAt c.dstBase c.dstTy.bytes k (c.dstAt e.1 e.2)),
      bytesOf c.planeBytes (if bad then 0 else convertTan c.bf16 w.decl.bf16 got.num), bad, [], .f32⟩)

/-- Tangents written for each element of a dual copy (R101). -/
def CopyWork.tangents (w : CopyWork) : Nat :=
  let c := copyDesc w.raw
  if c.dual then (if c.skind = 1 then w.decl.d else c.planes) else 0

/-- Everything a copy reads and writes, as its sources stand now. -/
def State.copyAll (s : State) (gid : Nat) (o : Op) (w : CopyWork) : List (Got × Pending) :=
  let c := copyDesc w.raw
  let drawn := c.drawn w.recs
  c.elements.flatMap fun e =>
    s.copyValue gid o w drawn e :: (List.range w.tangents).map (s.copyTangent gid o w e)

/-- The tangent slots of the scratchpad side of a copy. -/
def CopyWork.slots (w : CopyWork) (side : Side) (at_ : Nat → Nat → Int) : List (Place × Nat) :=
  (copyDesc w.raw).elements.flatMap fun e => (List.range w.tangents).map fun k =>
    (placeAt side ((w.decl.tanAddr k (at_ e.1 e.2).toNat : Nat) : Int), w.decl.tanBytes)

/-- The bytes that a copy reads. -/
def copyReads (w : CopyWork) : List (Place × Nat) :=
  let c := copyDesc w.raw
  ((c.srcElements w.decl w.recs).map fun x => (placeAt w.src x.1, x.2)) ++ (if c.skind = 1 then [] else w.slots w.src c.srcAt)

/-- The bytes of both sides of a copy that has not begun. -/
def copyTouches (w : CopyWork) : List (Place × Nat) :=
  let c := copyDesc w.raw
  copyReads w ++ ((c.dstElements w.decl).map fun x => (placeAt w.dst x.1, x.2)) ++
  (if c.skind = 1 then w.slots w.dst c.dstAt else [])

/-- The copy begins: its sources are read and its writes stand ready (R208). -/
def State.beginCopy (s : State) (gid : Nat) (o : Op) (w : CopyWork) : State :=
  let all := s.copyAll gid o w
  let o1 := { o with begun := true, asked := [], got := [], writes := all.map Prod.snd,
                     stamp := all.foldl (fun σ p => Stamp.max σ p.1.stamp) o.stamp }
  let s1 := (copyReads w).foldl (fun s x => s.noteRead gid 32 o.carry x.1 x.2) s
  s1.setOp gid (all.foldl (fun o p => o.raise p.1.status) o1)

end Sys2Proof.Machine
end

