-- ==== Sys2Proof/Machine/Links.lean ====
section
/-!
DEFINITION. Sending over Kazvel: flits, sequence numbers and replay copies (R359), requests to peer memory and their answers
(R360, R362, R363), and a port that leaves the usable set. Payload layouts are the model's own (log 26).
-/

namespace Sys2Proof.Machine

/-- Send a flit from a port: it takes the next SEQ, leaves the port, and is kept for replay. -/
def State.sendFlit (s : State) (port dst kind : Nat) (payload : List Byte) : State :=
  let p := s.port port
  let f : Flit := { dst := dst, src := s.chip, kind := kind, len := payload.length, seq := p.seqOut, payload := payload }
  s.setPort port { p with seqOut := (p.seqOut + 1) % 2 ^ 32, sent := p.sent ++ [f], queue := p.queue ++ [f] }

/-- The pieces of an access of n bytes at an address, at most 128 bytes each. -/
def pieces (pa : Nat) : Nat → Nat → List (Nat × Nat)
  | 0, _ => []
  | fuel + 1, n => if n = 0 then [] else if n ≤ 128 then [(pa, n)] else (pa, 128) :: pieces (pa + 128) fuel (n - 128)

/-- What an access asks over a link: a read, a write of bytes, an indivisible update there (R211): the combining code, the type and
the operand; or an element of an add-on-store tile, which the home takes with the tile's other elements in one step (R244): their
number, the type and the F32 pattern to add. -/
inductive PeerAsk where
  | read
  | write (data : List Byte)
  | update (op : Comb) (ty : Ty) (x : Nat)
  | tile (total : Nat) (ty : Ty) (x : Nat)
  deriving DecidableEq, Repr

/-- The kind of flit that carries the request. -/
def PeerAsk.flit : PeerAsk → Nat
  | .write _ => 3
  | _ => 1

/-- The kind of answer that the request waits for. -/
def PeerAsk.kind : PeerAsk → AskKind
  | .write _ => .write
  | _ => .read

/-- The payload of the request for n bytes that lie k bytes into the access (log 26). -/
def PeerAsk.body (k n : Nat) : PeerAsk → List Byte
  | .read => bytesOf 8 n
  | .write data => (data.drop k).take n
  | .update op ty x => bytesOf 8 n ++ bytesOf 1 op.code ++ bytesOf 1 ty.code ++ bytesOf 8 x
  | .tile total ty x => bytesOf 8 n ++ bytesOf 1 255 ++ bytesOf 1 ty.code ++ bytesOf 8 x ++ bytesOf 4 total

/-- What the access makes of the bytes it finds. -/
def PeerAsk.change (old : List Byte) : PeerAsk → List Byte
  | .read => old
  | .write data => data
  | .update op ty x => bytesOf old.length (combine op ty (ofBytes old) x)
  | .tile _ ty x => bytesOf old.length (addTo ty (ofBytes old) x)

/-- Send a request of an operation on a port, and note that it waits for an answer. -/
def State.sendAsk (s : State) (gid id k chip pa n : Nat) (kind : AskKind) (flit : Nat) (payload : List Byte) : State :=
  let p := s.port k
  (s.setPort k { p with asked := p.asked ++ [⟨gid, id, p.seqOut, pa, n, kind, s.clock⟩] }).sendFlit k chip flit payload

/-- Send the request of an operation for n bytes of peer memory. -/
def State.sendRequest (s : State) (gid id chip pa n : Nat) (ask : PeerAsk) : State :=
  (pieces pa (n / 128 + 1) n).foldl (fun s x =>
    s.sendAsk gid id (s.peerPort chip x.1) chip x.1 x.2 ask.kind ask.flit (bytesOf 8 (x.1 % 2 ^ 39) ++ ask.body (x.1 - pa) x.2)) s

/-- Host memory takes what a request makes of it as the port of Pradan takes the request: no later request passes it there
(R288). -/
def State.hostTakes (s : State) (pa n : Nat) (ask : PeerAsk) : State :=
  match ask with
  | .read => s
  | _ => { s with hostMem := Sparse.setRange 0 s.hostMem pa (ask.change (Sparse.getRange 0 s.hostMem pa n)) }

/-- Ask the host for an access of its memory over Pradan. -/
def State.askHost (s : State) (gid id pa n : Nat) (ask : PeerAsk) : State :=
  (s.sendAsk gid id 16 0 pa n ask.kind ask.flit (bytesOf 8 pa ++ ask.body 0 n)).hostTakes pa n ask

/-- The operation has asked the host; an update has what it replaces. -/
def Op.asksHost (o : Op) (s : State) (pa n : Nat) (ask : PeerAsk) : Op :=
  { o with asked := pa :: o.asked,
           got := if ask.kind = .read ∧ ask ≠ .read then Sparse.setRange none o.got pa ((Sparse.getRange 0 s.hostMem pa n).map some)
                  else o.got }

/-- Does a request of the operation for these bytes wait for its answer? -/
def State.unanswered (s : State) (gid id pa n : Nat) : Bool :=
  s.ports.any fun p => p.2.asked.any fun a =>
    decide (a.gid = gid) && decide (a.id = id) && (a.kind == .read || a.kind == .write) && decide (pa ≤ a.pa) && decide (a.pa < pa + n)

/-- Does the die's buffer serve a read of peer memory, as the implementation has it (R287; log 7)? -/
def State.bufServes (s : State) (die pa n : Nat) : Bool := ((s.die die).buffered pa n).isSome && Config.bufServes s.fresh pa

/-- How far an access of a place has come: it may go on, it was lost with its port, or it waits in the given state. -/
inductive PeerGo where
  | go
  | lost
  | wait (s : State)

/-- Access peer memory and host memory by request and answer (R360, R362), but for a read that the buffer of the die serves (R287);
every other place at once. -/
def State.peerGo (s : State) (gid : Nat) (o : Op) (p : Place) (n : Nat) (ask : PeerAsk) : PeerGo :=
  match p with
  | .phys pa =>
    if o.loses p then .lost
    else
      match physKind pa with
      | .peer chip =>
        if o.asked.contains pa then (if s.unanswered gid o.id pa n then .wait s else .go)
        else if !s.peerUp chip || (decide (ask = .read) && s.bufServes (dieOf gid) pa n) then .go
        else .wait ((s.setOp gid { o with asked := pa :: o.asked }).sendRequest gid o.id chip pa n ask)
      | .host =>
        if o.asked.contains pa then (if s.unanswered gid o.id pa n then .wait s else .go)
        else if !s.hostUp then .go
        else .wait ((s.setOp gid (o.asksHost s pa n ask)).askHost gid o.id pa n ask)
      | _ => .go
  | _ => .go

/-- The elements of an add-on-store tile that a peer holds, with their addresses. -/
def peerEls (chip : Nat) (adds : List (Place × Nat)) : List (Nat × Nat) :=
  adds.filterMap fun a => match a.1 with
    | .phys pa => if physKind pa = .peer chip then some (pa, a.2) else none
    | _ => none

/-- The peers that hold elements of a tile. -/
def tilePeers (adds : List (Place × Nat)) : List Nat :=
  (adds.filterMap fun a => match a.1 with
    | .phys pa => match physKind pa with
      | .peer chip => some chip
      | _ => none
    | _ => none).eraseDups

/-- Send the elements of a tile that a peer holds: one access, on one port (R244, R360; log 26). -/
def State.sendTile (s : State) (gid : Nat) (o : Op) (ty : Ty) (adds : List (Place × Nat)) (chip : Nat) : State :=
  let els := peerEls chip adds
  let k := s.peerPort chip ((els.map Prod.fst).headD 0)
  els.foldl (fun s e =>
    s.sendAsk gid o.id k chip e.1 ty.bytes .read 1 (bytesOf 8 (e.1 % 2 ^ 39) ++ (PeerAsk.tile els.length ty e.2).body 0 ty.bytes)) s

/-- The elements of a tile that the host holds. -/
def hostEls (adds : List (Place × Nat)) : List (Nat × Nat) :=
  adds.filterMap fun a => match a.1 with
    | .phys pa => if physKind pa = .host then some (pa, a.2) else none
    | _ => none

/-- Ask for all of a tile that lies over links at once. -/
def State.askTile (s : State) (gid : Nat) (o : Op) (ty : Ty) (adds : List (Place × Nat)) : State :=
  let chips := (tilePeers adds).filter s.peerUp
  let hosts := if s.hostUp then hostEls adds else []
  let o1 := hosts.foldl (fun o e => o.asksHost s e.1 ty.bytes (.tile 1 ty e.2))
    { o with asked := chips.flatMap (fun c => (peerEls c adds).map Prod.fst) ++ o.asked }
  let s1 := chips.foldl (fun s c => s.sendTile gid o ty adds c) (s.setOp gid o1)
  hosts.foldl (fun s e => s.askHost gid o.id e.1 ty.bytes (.tile 1 ty e.2)) s1

/-- How far an add-on-store tile has come (R244). -/
def State.tileGo (s : State) (gid : Nat) (o : Op) (ty : Ty) (adds : List (Place × Nat)) : PeerGo :=
  let linked := (tilePeers adds).flatMap (fun c => if s.peerUp c then (peerEls c adds).map Prod.fst else []) ++
    (if s.hostUp then (hostEls adds).map Prod.fst else [])
  if adds.any fun a => o.loses a.1 then .lost
  else if linked.any fun pa => !o.asked.contains pa then .wait (s.askTile gid o ty adds)
  else if linked.any fun pa => s.unanswered gid o.id pa ty.bytes then .wait s
  else .go

/-- How far a prepared write has come. -/
def State.pendingGo (s : State) (gid : Nat) (o : Op) (p : Pending) : PeerGo :=
  if p.adds = [] then s.peerGo gid o p.place p.bytes.length (.write p.bytes) else s.tileGo gid o p.ty p.adds

/-- Ask for every peer element among the sources of an operation; the flag says whether all that are not lost have come. -/
def State.askAll (s : State) (gid id : Nat) (l : List (Place × Nat)) : State × Bool :=
  l.foldl (fun r x => match (r.1.group gid).op? id with
    | none => r
    | some o => match r.1.peerGo gid o x.1 x.2 .read with
      | .wait s1 => (s1, false)
      | _ => r) (s, true)

/-- Take a port out of every route (R362). -/
def State.unroute (s : State) (k : Nat) : State :=
  { s with routes := s.routes.foldl (fun m p => Sparse.set [] m p.1 (p.2.filter fun x => decide (x ≠ k))) s.routes }

/-! ## Flits of collectives (R363, R367) -/

/-- Send a flit of a collective, which the rank at the other end acknowledges (log 26). While no port leads to its chip it waits. -/
def State.sendColl (s : State) (gid id chip : Nat) (payload : List Byte) : State :=
  if s.peerUp chip then s.sendAsk gid id (s.peerPort chip 0) chip 0 0 .coll 5 payload
  else { s with collWaits := s.collWaits ++ [⟨gid, id, chip, none, payload⟩] }

/-- May a waiting flit of a collective go: on any port of the route, or on the one on which it was in flight (R363)? -/
def State.collGoes (s : State) (w : CollWait) : Bool :=
  match w.port with
  | none => s.peerUp w.chip
  | some k => (s.port k).usable && decide ((s.port k).peer = w.chip)

/-- The waiting flits of collectives that may go do. -/
def State.flushColls (s : State) : State :=
  (s.collWaits.filter s.collGoes).foldl (fun (s : State) (w : CollWait) =>
      s.sendAsk w.gid w.id (w.port.getD (s.peerPort w.chip 0)) w.chip 0 0 .coll 5 w.payload)
    { s with collWaits := s.collWaits.filter fun w => !s.collGoes w }

/-- What a rank says in place of a contribution that is lost with its port: the head of the payload, flagged so (log 26). -/
def lostNotice (payload : List Byte) : List Byte := payload.take 10 ++ bytesOf 2 4 ++ (payload.drop 12).take 16

/-- The flits of collectives that were in flight on a port that is fenced are lost, and their ranks are told (R363). -/
def State.loseColls (s : State) (k : Nat) : State :=
  { s with collWaits := s.collWaits.map fun (w : CollWait) =>
      if w.port = some k then { w with port := none, payload := lostNotice w.payload } else w }.flushColls

/-! ## A port that leaves the usable set (R363) -/

/-- Addresses for which a request of an operation waits on some port. -/
def State.openAsks (s : State) (gid id : Nat) : List Nat :=
  s.ports.flatMap fun p => (p.2.asked.filter fun a =>
    decide (a.gid = gid) && decide (a.id = id) && (a.kind == .read || a.kind == .write)).map Asked.pa

/-- No request of an operation for bytes waits any more. -/
def State.dropAsks (s : State) (gid id : Nat) : State :=
  { s with ports := Sparse.mapVals Port.down (fun _ p => { p with asked := p.asked.filter fun a =>
      !(decide (a.gid = gid) && decide (a.id = id) && (a.kind == .read || a.kind == .write)) }) s.ports }

/-- An operation with a flit in flight on a port that leaves the usable set (R363): it has LINK, and what it has not yet received or
delivered over any link is lost. A collective goes on (R367). -/
def State.failOne (s : State) (chip : Nat) (a : Asked) : State :=
  match (s.group a.gid).op? a.id with
  | some o =>
    if a.kind = .signal then s
    else if a.kind = .coll then s.setOp a.gid (o.raise stLink)
    else (s.setOp a.gid ({ o with lost := a.pa :: s.openAsks a.gid a.id ++ o.lost, cut := chip :: o.cut }.raise stLink)).dropAsks
      a.gid a.id
  | none => s

/-- The flits of collectives in flight on a port, as they wait until it is trained again. -/
def Port.collsInFlight (p : Port) (k : Nat) : List CollWait :=
  p.asked.filterMap fun a =>
    if a.kind = .coll then (p.sent.find? fun f => decide (f.seq = a.seq)).map fun f => ⟨a.gid, a.id, f.dst, some k, f.payload⟩
    else none

/-- A port has left the usable set: its requests fail, and the flits of collectives wait for it (R363, R367). -/
def State.failAsked (s : State) (k : Nat) : State :=
  let p := s.port k
  let s1 := { s.setPort k { p with asked := [] } with collWaits := s.collWaits ++ p.collsInFlight k }
  p.asked.foldl (fun s a => s.failOne (if k = 16 then 128 else p.peer) a) s1

/-- Is the chip reachable over no usable port? -/
def State.cutOff (s : State) (chip : Nat) : Bool :=
  (List.range 16).all fun k => !((s.port k).usable && decide ((s.port k).peer = chip))

/-- A port enters the fenced state (R362). -/
def State.fencePort (s : State) (k : Nat) : State :=
  let s1 := (s.unroute k).failAsked k
  (s1.setPort k { (s1.port k) with state := .fenced }).loseColls k

end Sys2Proof.Machine
end

