-- ==== Sys2Proof/Machine/Collective.lean ====
section
/-!
DEFINITION. Collectives: the descriptor of COLL (R213), joining by number, contributions, the fold in rank order and failures
(R286, R364 to R366).
-/

namespace Sys2Proof.Machine

/-! ## The descriptor (R213) -/

def collCount (d : Nat) : Nat := field d 192 32
def collDstOff (d : Nat) : Int := signedOf 64 (field d 128 64)
def collSrcOff (d : Nat) : Int := signedOf 64 (field d 64 64)
def collDstSpad (d : Nat) : Bool := bitAt d 15
def collSrcSpad (d : Nat) : Bool := bitAt d 11
def collDstWin (d : Nat) : Nat := field d 12 3
def collSrcWin (d : Nat) : Nat := field d 8 3
def collRoot (d : Nat) : Nat := field d 0 8

/-- Elements of the source side with P ranks. -/
def collSrcCount (k : CollKind) (n p : Nat) : Nat := if k = .rscat then n * p else n

/-- Elements of the destination side with P ranks. -/
def collDstCount (k : CollKind) (n p : Nat) : Nat := if k = .agath then n * p else n

/-- An ill-formed descriptor (R213); z is the end of the scratchpad. -/
def collBad (k : CollKind) (ty : Ty) (d p z : Nat) : Bool :=
  decide (field d 224 32 ≠ 0) || decide (field d 16 48 ≠ 0) || decide (collCount d = 0) ||
  (if k = .bcast then decide (p ≤ collRoot d) else decide (collRoot d ≠ 0)) ||
  (collSrcSpad d && !inside z (collSrcCount k (collCount d) p * ty.bytes) (collSrcOff d)) ||
  (collDstSpad d && !inside z (collDstCount k (collCount d) p * ty.bytes) (collDstOff d))

/-- What every rank must agree on (R365), as one nonzero number; bad says that the rank's own descriptor is ill-formed. -/
def collHeader (k : CollKind) (op : CollOp) (ty : Ty) (d : Nat) (bad : Bool) : Nat :=
  1 + 2 * ((if bad then 1 else 0) + 2 * (k.code + 4 * (op.code + 4 * (ty.code + 16 * (collCount d + 2 ^ 32 * collRoot d)))))

/-- Does the header say that its rank's descriptor is ill-formed? -/
def headerBad (h : Nat) : Bool := bitAt h 1

/-! ## Collectives in progress -/

/-- The collective with a number, as it stands here. -/
def State.coll (s : State) (ctx g no : Nat) : Coll :=
  (s.colls.find? fun c => decide (c.ctx = ctx) && decide (c.group = g) && decide (c.no = no)).getD
    ⟨ctx, g, no, none, 0, [], [], false, [], [], false⟩

/-- Is it in progress here for the operation? -/
def State.collOf (s : State) (r : OpRef) : Option Coll := s.colls.find? fun c => decide (c.here = some r)

/-- Is the collective over here, so that what still comes of it is dropped? -/
def State.collOver (s : State) (ctx g no : Nat) : Bool :=
  decide (no < Sparse.get 0 (s.context ctx).collCount g) &&
  !s.colls.any fun c => decide (c.ctx = ctx) && decide (c.group = g) && decide (c.no = no)

/-- The entry of a collective group of a context. -/
def State.collEntry (s : State) (ctx g : Nat) : Option CollEntry := Sparse.get none (s.context ctx).colls g

/-- Put a collective back. -/
def State.setColl (s : State) (x : Coll) : State :=
  let same := fun (c : Coll) => decide (c.ctx = x.ctx) && decide (c.group = x.group) && decide (c.no = x.no)
  { s with colls := if s.colls.any same then s.colls.map fun c => if same c then x else c else s.colls ++ [x] }

/-- The collective is over here. -/
def State.dropColl (s : State) (x : Coll) : State :=
  { s with colls := s.colls.filter fun c =>
      !(decide (c.ctx = x.ctx) && decide (c.group = x.group) && decide (c.no = x.no)) }

/-- A rank's header is known: a difference from another's, or an ill-formed descriptor, fails the collective (R365). -/
def Coll.meet (c : Coll) (h : Nat) : Coll :=
  { c with header := if c.header = 0 then h else c.header,
           bad := c.bad || headerBad h || (decide (c.header ≠ 0) && decide (c.header ≠ h)) }

/-- Elements of a rank's contribution have come in, from element start on, each with its poison. -/
def Coll.addPart (c : Coll) (rank h start : Nat) (els : List (Nat × Bool)) : Coll :=
  let x := c.meet h
  { x with joined := if x.joined.contains rank then x.joined else rank :: x.joined,
           parts := els.zipIdx.foldl (fun m p => Sparse.set none m (2 ^ 40 * rank + start + p.2) (some p.1)) x.parts }

/-- A rank is aborted: what has been prepared is prepared again (R365). -/
def Coll.abort (c : Coll) (rank : Nat) : Coll :=
  if c.aborted.contains rank then c else { c with aborted := rank :: c.aborted, folded := false }

/-- Ranks are lost with their chip: what has been prepared is prepared again (R365). -/
def Coll.lose (c : Coll) (ranks : List Nat) : Coll :=
  if ranks.all c.lost.contains then c else { c with lost := ranks ++ c.lost, folded := false }

/-- Elements that a rank contributes. -/
def partCount (k : CollKind) (d p rank : Nat) : Nat :=
  if k = .bcast ∧ rank ≠ collRoot d then 0 else collSrcCount k (collCount d) p

/-- Has the whole contribution of a rank come in? -/
def Coll.whole (c : Coll) (k : CollKind) (d p rank : Nat) : Bool :=
  c.joined.contains rank &&
  (List.range (partCount k d p rank)).all fun i => (Sparse.get none c.parts (2 ^ 40 * rank + i)).isSome

/-- Is a rank's contribution missing: aborted, or its chip fenced? -/
def Coll.missing (c : Coll) (rank : Nat) : Bool := c.aborted.contains rank || c.lost.contains rank

/-- Element i of a rank's contribution; none where the rank is missing or the element is poisoned (R205, R365). -/
def Coll.elem (c : Coll) (rank i : Nat) : Option Nat :=
  if c.missing rank then none
  else
    match Sparse.get none c.parts (2 ^ 40 * rank + i) with
    | some (x, false) => some x
    | some (_, true) => none
    | none => some 0

/-- Is an element of a rank that is not missing poisoned? -/
def Coll.poisoned (c : Coll) : Bool :=
  c.parts.any fun p => match p.2 with
    | some (_, bad) => bad && !c.missing (p.1 / 2 ^ 40)
    | none => false

/-! ## The fold (R366) -/

/-- One step, rounded into the type. -/
def collStep (op : CollOp) (ty : Ty) (r x : Nat) : Nat :=
  match op with
  | .sum => addF .rne (fmtOf ty) r x
  | .max => pickF maxSecond (fmtOf ty) r x
  | .min => pickF minSecond (fmtOf ty) r x

/-- Element i of the fold over the ranks; none where a contribution is missing or poisoned. -/
def Coll.foldAt (c : Coll) (op : CollOp) (ty : Ty) (p i : Nat) : Option Nat :=
  let l := (List.range p).map fun r => c.elem r i
  if l.any Option.isNone then none
  else
    match l.map fun x => x.getD 0 with
    | [] => none
    | x :: xs => some (xs.foldl (collStep op ty) x)

/-- The destination elements of a rank (R366); none is an element that is written as zero bits with poison (R205, R365). -/
def Coll.result (c : Coll) (w : CollWork) : List (Option Nat) :=
  let n := collCount w.desc
  match w.kind with
  | .ared => (List.range n).map (c.foldAt w.op w.ty w.ranks)
  | .rscat => (List.range n).map fun i => c.foldAt w.op w.ty w.ranks (w.rank * n + i)
  | .agath => (List.range w.ranks).flatMap fun r => (List.range n).map (c.elem r)
  | .bcast => (List.range n).map (c.elem (collRoot w.desc))

/-- Has every rank that is not missing joined, so that no header is still to come (R365)? -/
def Coll.met (c : Coll) (w : CollWork) : Bool := (List.range w.ranks).all fun r => c.missing r || c.joined.contains r

/-- Is everything that the result depends on known (R365)? A fold that misses a rank, and a broadcast that misses its root, depend
on no element any more, but on the headers of the other ranks. -/
def Coll.settled (c : Coll) (w : CollWork) : Bool :=
  match w.kind with
  | .ared => ((List.range w.ranks).any c.missing && c.met w) || (List.range w.ranks).all (c.whole w.kind w.desc w.ranks)
  | .rscat => ((List.range w.ranks).any c.missing && c.met w) || (List.range w.ranks).all (c.whole w.kind w.desc w.ranks)
  | .agath => (List.range w.ranks).all fun r => c.missing r || c.whole w.kind w.desc w.ranks r
  | .bcast => (c.missing (collRoot w.desc) && c.met w) ||
      (List.range w.ranks).all fun r => c.missing r || c.whole w.kind w.desc w.ranks r

/-! ## Contributions -/

/-- Payload of a collective flit: where it belongs, the number of its first element, the header, and elements (log 26). -/
def collPayload (ctx g no rank h flags start : Nat) (data : List Byte) : List Byte :=
  bytesOf 2 ctx ++ bytesOf 2 g ++ bytesOf 4 no ++ bytesOf 2 rank ++ bytesOf 2 flags ++ bytesOf 12 h ++ bytesOf 4 start ++ data

/-- The pieces of a list, of n each with the number of their first; one empty piece of an empty list. -/
def chunks {α : Type} (n : Nat) : Nat → Nat → List α → List (Nat × List α)
  | 0, _, _ => []
  | fuel + 1, k, l => if l.length ≤ n then [(k, l)] else (k, l.take n) :: chunks n fuel (k + n) (l.drop n)

/-- Elements as a flit carries them: the bytes of each, then its poison. -/
def elemBytes (ty : Ty) (els : List (Nat × Bool)) : List Byte :=
  els.flatMap fun x => bytesOf ty.bytes x.1 ++ bytesOf 1 (if x.2 then 1 else 0)

/-- Send a rank's contribution, or its abort, to rank r: on this chip at once, else by flits. A rank whose chip is fenced is lost
(R365). -/
def State.sendPart (s : State) (ref : OpRef) (mine : Coll) (rank h flags : Nat) (ty : Ty) (els : List (Nat × Bool)) (r : Nat)
    (dst : Nat × Nat) : State :=
  if dst.1 = s.chip then
    if s.collOver dst.2 mine.group mine.no then s
    else
      let c := s.coll dst.2 mine.group mine.no
      s.setColl (if flags = 0 then c.addPart rank h 0 els else c.abort rank)
  else if !s.fencedChips.contains dst.1 then
    (chunks (208 / (ty.bytes + 1)) (els.length + 1) 0 els).foldl (fun s x =>
      s.sendColl ref.gid ref.id dst.1 (collPayload dst.2 mine.group mine.no rank h flags x.1 (elemBytes ty x.2))) s
  else s.setColl ((s.coll mine.ctx mine.group mine.no).lose [r])

/-- The other ranks of an entry, with their numbers. -/
def CollEntry.others (e : CollEntry) : List (Nat × (Nat × Nat)) :=
  (e.ranks.zipIdx.map fun p => (p.2, p.1)).filter fun p => decide (p.1 ≠ e.rank)

/-- The places of the elements of a side. -/
def collPlaces (side : Side) (off : Int) (ty : Ty) (n : Nat) : List Place :=
  (List.range n).map fun i => sidePlace side (off + ((i * ty.bytes : Nat) : Int)).toNat

/-- The elements that this rank contributes, and those that it receives, with their lengths. -/
def CollWork.reads (w : CollWork) : List (Place × Nat) :=
  (collPlaces w.src (collSrcOff w.desc) w.ty (if w.bad then 0 else partCount w.kind w.desc w.ranks w.rank)).map fun p =>
    (p, w.ty.bytes)
def CollWork.writes (w : CollWork) : List (Place × Nat) :=
  (collPlaces w.dst (collDstOff w.desc) w.ty (if w.bad then 0 else collDstCount w.kind (collCount w.desc) w.ranks)).map fun p =>
    (p, w.ty.bytes)

/-- The bytes of a copy or a collective that it has not yet read or prepared (R192). -/
def opTouches (o : Op) : List (Place × Nat) :=
  match o.kind with
  | .copy w => if o.begun then [] else copyTouches w
  | .coll w => (if o.begun then [] else w.reads) ++ (if o.writes = [] then w.writes else [])
  | _ => []

/-- May a copy begin: what it carries has been applied, and no older operation of its class touches its sources (R192, R279)? -/
def State.copyReady (s : State) (gid : Nat) (o : Op) (w : CopyWork) : Bool :=
  (copyReads w).all fun t =>
    s.placeReady (dieOf gid) o.carry t.1 t.2 ((s.group gid).least 32) && !(s.group gid).blocked opTouches o t.1 t.2

/-- Are the older collectives of the group and group number over (R365)? -/
def Group.collTurn (g : Group) (o : Op) (group : Nat) : Bool :=
  (g.olderOf o).all fun x => match x.kind with
    | .coll w => decide (w.group ≠ group)
    | _ => true

/-- May this rank contribute: its turn has come, and its sources can be read (R192, R279, R365)? -/
def State.collReady (s : State) (gid : Nat) (o : Op) (w : CollWork) : Bool :=
  (s.group gid).collTurn o w.group &&
  w.reads.all fun t =>
    s.placeReady (dieOf gid) o.carry t.1 t.2 ((s.group gid).least 32) && !(s.group gid).blocked opTouches o t.1 t.2

/-- The contribution of this rank is read and sent, a failed element as zero bits with poison (R205, R286, R365). -/
def State.contribute (s : State) (gid : Nat) (o : Op) (w : CollWork) (e : CollEntry) : State :=
  let h := collHeader w.kind w.op w.ty w.desc w.bad
  let gots := w.reads.map fun t => s.opRead gid o t.1 t.2
  let els := gots.map fun x => (x.num, decide (x.status ≠ 0))
  let o1 := { o with begun := true, asked := [], got := [], stamp := gots.foldl (fun σ x => Stamp.max σ x.stamp) o.stamp }
  let s0 := w.reads.foldl (fun s t => s.noteRead gid 32 o.carry t.1 t.2) s
  let s1 := s0.setOp gid (gots.foldl (fun o x => o.raise x.status) o1)
  let c := (s1.coll (s1.group gid).ctx w.group w.no).addPart w.rank h 0 els
  let s2 := s1.setColl c
  e.others.foldl (fun s p => s.sendPart ⟨gid, o.id⟩ c w.rank h 0 w.ty els p.1 p.2) s2

/-- The result is known: its writes stand ready, with the status of what failed (R205, R365). -/
def State.foldColl (s : State) (gid : Nat) (o : Op) (c : Coll) (w : CollWork) : State :=
  let res := if c.bad then [] else c.result w
  let ws := ((collPlaces w.dst (collDstOff w.desc) w.ty res.length).zip res).map fun p =>
    (⟨p.1, bytesOf w.ty.bytes (p.2.getD 0), p.2.isNone, [], w.ty⟩ : Pending)
  let st := if c.bad then stIllf
    else (if c.aborted = [] then 0 else stAbort) ||| (if c.lost = [] then 0 else stLink) |||
      (if c.poisoned && res.any Option.isNone then stPoison else 0)
  (s.setOp gid ({ o with writes := ws }.raise st)).setColl { c with folded := true }

/-- A collective goes on: this rank contributes, and the result is prepared once it is known (R365). -/
def State.goColl (s : State) (gid : Nat) (o : Op) (w : CollWork) : State :=
  match s.collEntry (s.group gid).ctx w.group with
  | none => s
  | some e =>
    let s1 := if !o.begun && s.collReady gid o w then
        match s.askAll gid o.id w.reads with
        | (s1, true) => match (s1.group gid).op? o.id with
          | some o1 => s1.contribute gid o1 w e
          | none => s1
        | (s1, false) => s1
      else s
    match (s1.group gid).op? o.id, s1.collOf ⟨gid, o.id⟩ with
    | some o1, some c => if o1.begun && !c.folded && (c.bad || c.settled w) then s1.foldColl gid o1 c w else s1
    | _, _ => s1

/-- A rank of this device is aborted: the others are told (R338, R365). -/
def State.abortColl (s : State) (c : Coll) (e : CollEntry) : State :=
  (e.others.foldl (fun s p => s.sendPart (c.here.getD ⟨0, 0⟩) c e.rank 0 2 .f32 [] p.1 p.2) s).dropColl c

/-- A chip has been fenced: its ranks are lost to every collective in progress (R365). -/
def State.loseChip (s : State) (chip : Nat) : State :=
  { s with colls := s.colls.map fun c =>
      match s.collEntry c.ctx c.group with
      | some e => c.lose ((e.others.filter fun p => decide (p.2.1 = chip)).map Prod.fst)
      | none => c }

end Sys2Proof.Machine
end

