-- ==== Sys2Proof/Machine/Fetch.lean ====
section
/-!
DEFINITION. What the texture unit and the intersection unit read and deliver (R102, R381 to R390): fetches through a window at
fetch time (R212), textures, rays and samples.
-/

namespace Sys2Proof.Machine

/-! ## Fetches (R212) -/

/-- What a fetch needs: the group and level of the operation, its window, what it carries, and the operation, for what it has
asked of peers. -/
structure Fetcher where
  gid : Nat
  sup : Bool
  win : Window
  carry : Stamp
  op : Op
  deriving DecidableEq, Repr

/-- The status of a fetch that has to ask a peer for the bytes at an address first (R360; the model's own, above the 32 bits of
R205), and the address in it. -/
def askStatus (pa : Nat) : Nat := 2 ^ 32 * (pa + 1)
def asksOf (status : Nat) : Option Nat := if status < 2 ^ 32 then none else some (status / 2 ^ 32 - 1)

/-- The status of two reads together; the first that has to ask a peer says so. -/
def joinStatus (a b : Nat) : Nat := if 2 ^ 32 ≤ a then a else if 2 ^ 32 ≤ b then b else a ||| b

/-- Put two reads together. -/
def Got.append (a b : Got) : Got := ⟨a.bytes ++ b.bytes, Stamp.max a.stamp b.stamp, joinStatus a.status b.status⟩

/-- Must the operation ask a peer or the host for the word at an address before it can read it? -/
def State.mustAsk (s : State) (f : Fetcher) (pa : Nat) : Bool :=
  match physKind pa with
  | .peer chip =>
    if f.op.asked.contains pa then s.unanswered f.gid f.op.id pa 4 else s.peerUp chip && !s.bufServes (dieOf f.gid) pa 4
  | .host => if f.op.asked.contains pa then s.unanswered f.gid f.op.id pa 4 else s.hostUp
  | _ => false

/-- Read n words at a window offset, each through its own translation; what cannot be read is poison. -/
def State.fetch (s : State) (f : Fetcher) (off : Nat) : Nat → Got
  | 0 => ⟨[], [], 0⟩
  | n + 1 =>
    let x := match s.laneCheck (quarterOf f.gid) (s.group f.gid).ctx f.win (off : Int) 4 .read false f.sup f.carry with
      | .ok pa _ =>
        if f.op.loses (.phys pa) then Got.fail 4 (stPoison + stLink)
        else if s.mustAsk f pa then Got.fail 4 (askStatus pa)
        else s.readFor (dieOf f.gid) f.op f.carry (.phys pa) 4
      | _ => Got.fail 4 stPoison
    x.append (s.fetch f (off + 4) n)

/-- Word k of what was read. -/
def Got.word (g : Got) (k : Nat) : Nat := field (ofBytes g.bytes) (32 * k) 32

/-- Word k as an FP32 value. -/
def Got.val (g : Got) (k : Nat) : XVal := Fmt.f32.value (g.word k)

/-- Canonical NaN, +∞ and the rounding of results. -/
def nan32 : Nat := 0x7FC00000
def inf32 : Nat := 0x7F800000
def round32 (x : XVal) : Nat := roundTo Fmt.f32 .rne x

/-! ## Textures (R388 to R390) -/

def texWidth (d : Nat) : Nat := field d 378 14 + 1
def texHeight (d : Nat) : Nat := field d 364 14 + 1
def texLevels (d : Nat) : Nat := field d 360 4
def texBilinear (d : Nat) : Bool := bitAt d 3
def texClamp (d : Nat) : Bool := bitAt d 4
def texIndex (d : Nat) : Nat := field d 460 52
def texData (d : Nat) : Nat := field d 408 52
def descWin (d : Nat) : Nat := field d 5 3

/-- An ill-formed texture descriptor (R388). -/
def texBad (d : Nat) : Bool :=
  decide (field d 392 16 ≠ 0) || decide (field d 8 352 ≠ 0) || decide (field d 0 3 ≠ 0) || decide (texLevels d = 0) ||
  decide (texIndex d % 8 ≠ 0) || decide (texData d % 16 ≠ 0)

/-- The measure of a level along one axis. -/
def levelSize (n m : Nat) : Nat := Nat.max 1 (n / 2 ^ m)

/-- Blocks along one axis. -/
def blocksOf (n : Nat) : Nat := (n + 7) / 8

/-- Entries of the side index before level m. -/
def entriesBefore (d m : Nat) : Nat :=
  ((List.range m).map fun k => blocksOf (levelSize (texWidth d) k) * blocksOf (levelSize (texHeight d) k)).sum

/-- Words of a block by class (R389); 0 for a reserved class. -/
def classWords : Nat → Nat
  | 0 => 2
  | 1 => 12
  | 2 => 40
  | 3 => 64
  | 4 => 128
  | _ => 0

/-- Four FP16 channels at a byte of a block, widened exactly. -/
def half4 (b : Nat) (at_ : Nat) : List Nat :=
  (List.range 4).map fun c => round32 (Fmt.f16.value (field b (8 * at_ + 16 * c) 16))

/-- The channels of texel p of a block of a class (R389). -/
def texelOf (cls b p : Nat) : List Nat :=
  match cls with
  | 0 => half4 b 0
  | 1 => half4 b (8 * field b (256 + 2 * p) 2)
  | 2 => half4 b (8 * field b (1024 + 4 * p) 4)
  | 3 => (List.range 4).map fun c => round32 (.fin false (field b (32 * p + 8 * c) 8) 255)
  | _ => half4 b (8 * p)

/-- The outcome of a texel or a sample: its words, or none where the status says why, with the stamps read. -/
structure Texel where
  words : Option (List Nat)
  status : Nat
  stamp : Stamp
  deriving DecidableEq, Repr

/-- Fetch texel (x, y) of level m. -/
def State.texel (s : State) (f : Fetcher) (d m x y : Nat) : Texel :=
  let bw := blocksOf (levelSize (texWidth d) m)
  let k := entriesBefore d m + y / 8 * bw + x / 8
  let e := s.fetch f (texIndex d + 8 * k) 2
  if e.status ≠ 0 then ⟨none, joinStatus stPoison e.status, e.stamp⟩
  else
    let v := ofBytes e.bytes
    let n := classWords (v % 8)
    if n = 0 then ⟨none, stIllf, e.stamp⟩
    else
      let b := s.fetch f (texData d + 16 * (v / 256)) n
      if b.status ≠ 0 then ⟨none, joinStatus stPoison b.status, Stamp.max e.stamp b.stamp⟩
      else ⟨some (texelOf (v % 8) (ofBytes b.bytes) (8 * (y % 8) + x % 8)), 0, Stamp.max e.stamp b.stamp⟩

/-- The floor of a finite value. -/
def floorVal : XVal → Int
  | .fin g n d => signedNum g n / (d : Int)
  | _ => 0

/-- A texel coordinate under ADDR (R390). -/
def wrapCoord (clamp : Bool) (n : Nat) (i : Int) : Nat :=
  if clamp then (max 0 (min i ((n : Int) - 1))).toNat else (i % (n : Int)).toNat

/-- The larger of two values; NaN when one is. -/
def maxVal (a b : XVal) : XVal := if a.isNaN || b.isNaN then .nan else if XVal.lt a b then b else a

/-- The square of a value. -/
def sqVal (a : XVal) : XVal := XVal.mul a a

/-- The level that the footprint selects (R390). -/
def texLevel (d : Nat) (foot : List Nat) : Nat :=
  let w := XVal.ofInt (texWidth d)
  let h := XVal.ofInt (texHeight d)
  let t := fun k => Fmt.f32.value (foot.getD k 0)
  let r := maxVal (XVal.add (sqVal (XVal.mul (t 0) w)) (sqVal (XVal.mul (t 2) h)))
    (XVal.add (sqVal (XVal.mul (t 1) w)) (sqVal (XVal.mul (t 3) h)))
  match r with
  | .nan => 0
  | .inf _ => texLevels d - 1
  | .fin _ n e => if n < e then 0 else Nat.min (((floorLog2 n e + 1) / 2).toNat) (texLevels d - 1)

/-- A texel times a weight from 0 to 1 that need not be an FP32 value, rounded once (R390). -/
def weigh (t : Nat) (f : XVal) : Nat :=
  let x := Fmt.f32.value t
  if f.isZero then mulF .rne Fmt.f32 t 0
  else if !x.isFinite || x.isZero then mulF .rne Fmt.f32 t 0x3F800000
  else round32 (XVal.mul x f)

/-- One channel of the bilinear formula, every operation rounded (R390). fx and fy are exact. -/
def bilerp (fx fy : XVal) (t00 t10 t01 t11 : Nat) : Nat :=
  let a := addF .rne Fmt.f32
  let one := XVal.ofInt 1
  let gx := Fmt.f32.value (round32 (XVal.sub one fx))
  let gy := Fmt.f32.value (round32 (XVal.sub one fy))
  a (weigh (a (weigh t00 gx) (weigh t10 fx)) gy) (weigh (a (weigh t01 gx) (weigh t11 fx)) fy)

/-- Four texels in the order (i0, j0), (i0+1, j0), (i0, j0+1), (i0+1, j0+1). -/
def State.taps (s : State) (f : Fetcher) (d m : Nat) (i j : Int) : List Texel :=
  let w := levelSize (texWidth d) m
  let h := levelSize (texHeight d) m
  [(0, 0), (1, 0), (0, 1), (1, 1)].map fun (p : Int × Int) =>
    s.texel f d m (wrapCoord (texClamp d) w (i + p.1)) (wrapCoord (texClamp d) h (j + p.2))

/-- The result of a lane that has none: canonical NaN in every register (R212, R388, R390). -/
def noTexel (status : Nat) (σ : Stamp) : Texel := ⟨some (List.replicate 4 nan32), status, σ⟩

/-- Combine taps: all must have been read. -/
def fromTaps (ts : List Texel) (k : List (List Nat) → List Nat) : Texel :=
  let st := ts.foldl (fun a t => joinStatus a t.status) 0
  let σ := Stamp.maxAll (ts.map Texel.stamp)
  if ts.all fun t => t.words.isSome then ⟨some (k (ts.map fun t => t.words.getD [])), st, σ⟩ else noTexel st σ

/-- A value of the sample grid: a coordinate whose product with the level overflows FP32 has no tap the manual names
(log 5). -/
def State.sampleAt (s : State) (f : Fetcher) (gather : Bool) (d m lane : Nat) (u v : XVal) : Texel :=
  let w := XVal.ofInt (levelSize (texWidth d) m)
  let h := XVal.ofInt (levelSize (texHeight d) m)
  if !gather && !texBilinear d then
    let x := wrapCoord (texClamp d) (levelSize (texWidth d) m) (floorVal (XVal.mul u w))
    let y := wrapCoord (texClamp d) (levelSize (texHeight d) m) (floorVal (XVal.mul v h))
    fromTaps [s.texel f d m x y] fun l => l.headD []
  else
    let half := XVal.fin false 1 2
    let xb := round32 (XVal.sub (XVal.mul u w) half)
    let yb := round32 (XVal.sub (XVal.mul v h) half)
    let x := Fmt.f32.value xb
    let y := Fmt.f32.value yb
    if x.isFinite && y.isFinite then
      let i := floorVal x
      let j := floorVal y
      let fx := XVal.sub x (XVal.ofInt i)
      let fy := XVal.sub y (XVal.ofInt j)
      fromTaps (s.taps f d m i j) fun l =>
        if gather then l.map fun t => t.getD 0 0
        else (List.range 4).map fun c =>
          bilerp fx fy ((l.getD 0 []).getD c 0) ((l.getD 1 []).getD c 0) ((l.getD 2 []).getD c 0) ((l.getD 3 []).getD c 0)
    else ⟨some ((List.range 4).map fun c => (Config.freeWord s.fresh (20000 + 4 * lane + c)).toNat), 0, []⟩

/-- TEX or TEXG of one lane (R390). -/
def State.sample (s : State) (f : Fetcher) (gather level0 : Bool) (d : Nat) (x : Sample) : Texel :=
  let u := Fmt.f32.value x.u
  let v := Fmt.f32.value x.v
  if texBad d then noTexel stIllf []
  else if !u.isFinite || !v.isFinite then noTexel 0 []
  else s.sampleAt f gather d (if level0 then 0 else texLevel d x.foot) x.lane u v

/-! ## Structures (R381, R382) -/

def nodeBase (d : Nat) : Nat := field d 460 52
def triBase (d : Nat) : Nat := field d 408 52
def nodeCount (d : Nat) : Nat := field d 376 32
def triCount (d : Nat) : Nat := field d 344 32
def anyHit (d : Nat) : Bool := bitAt d 3
def cullBack (d : Nat) : Bool := bitAt d 2

/-- An ill-formed structure descriptor (R381). -/
def structBad (vis : Bool) (d : Nat) (w : Window) : Bool :=
  decide (field d 8 336 ≠ 0) || decide (field d 0 2 ≠ 0) || decide (nodeCount d = 0) || !w.valid ||
  decide (nodeBase d % 32 ≠ 0) || decide (triBase d % 16 ≠ 0) || bitAt d 4 != vis

/-- Status bits of a ray (R386). -/
def rayHit : Nat := 1
def rayInvalid : Nat := 2
def rayAborted : Nat := 4
def rayPoison : Nat := 8
def rayDepth : Nat := 16

/-- The miss results (R386). -/
def missWords (vis : Bool) (st : Nat) : List Nat :=
  if vis then [0xFFFFFFFF, 0, 0, inf32, st] else [inf32, 0xFFFFFFFF, 0, 0, st]

/-- What a lane of a ray operation ends with, and the status bits that its reads raise (R205). -/
structure RayEnd where
  words : List Nat
  stamp : Stamp
  status : Nat
  deriving DecidableEq, Repr

/-! ## Rays (R383, R384) -/

abbrev Vec := XVal × XVal × XVal

def Vec.sub (a b : Vec) : Vec := (XVal.sub a.1 b.1, XVal.sub a.2.1 b.2.1, XVal.sub a.2.2 b.2.2)
def Vec.dot (a b : Vec) : XVal :=
  XVal.add (XVal.add (XVal.mul a.1 b.1) (XVal.mul a.2.1 b.2.1)) (XVal.mul a.2.2 b.2.2)
def Vec.cross (a b : Vec) : Vec :=
  (XVal.sub (XVal.mul a.2.1 b.2.2) (XVal.mul a.2.2 b.2.1), XVal.sub (XVal.mul a.2.2 b.1) (XVal.mul a.1 b.2.2),
   XVal.sub (XVal.mul a.1 b.2.1) (XVal.mul a.2.1 b.1))
def Vec.list (a : Vec) : List XVal := [a.1, a.2.1, a.2.2]

/-- Three words as a vector. -/
def Got.vec (g : Got) (k : Nat) : Vec := (g.val k, g.val (k + 1), g.val (k + 2))

/-- A ray as traversed. -/
structure RayDef where
  o : Vec
  d : Vec
  tmin : XVal
  tmax : XVal
  deriving DecidableEq, Repr

/-- An infinite component as plus or minus 1, any other as 0 (R383 step 3). -/
def infUnit : XVal → XVal
  | .inf g => .fin g 1 1
  | _ => XVal.zero

/-- The eight operands of ISECT. -/
def rayOf (args : List Nat) : RayDef :=
  let v := fun k => Fmt.f32.value (args.getD k 0)
  let d : Vec := (v 3, v 4, v 5)
  { o := (v 0, v 1, v 2),
    d := if d.list.any XVal.isInf then (infUnit d.1, infUnit d.2.1, infUnit d.2.2) else d,
    tmin := v 6, tmax := v 7 }

/-- Steps 1 and 2 of R383: the status of a ray that is not traversed. -/
def rayRefused (args : List Nat) : Option Nat :=
  let v := fun k => Fmt.f32.value (args.getD k 0)
  if (List.range 8).any (fun k => (v k).isNaN) || [3, 4, 5].all (fun k => (v k).isZero) then some rayInvalid
  else if [0, 1, 2].any (fun k => (v k).isInf) || XVal.lt (v 7) (v 6) then some 0
  else none

/-- The smaller and the larger of two values. -/
def minVal (a b : XVal) : XVal := if XVal.lt b a then b else a
def maxVal2 (a b : XVal) : XVal := if XVal.lt a b then b else a

/-- The interval of one axis of a box: none is a miss, (none, none) no limit. -/
def slab (lo hi o d : XVal) : Option (Option (XVal × XVal)) :=
  if d.isZero then (if XVal.le lo o && XVal.le o hi then some none else none)
  else
    let a := XVal.div (XVal.sub lo o) d
    let b := XVal.div (XVal.sub hi o) d
    if a.isNaN || b.isNaN then none else some (some (minVal a b, maxVal2 a b))

/-- Is the box entered, and where its interval begins (R384)? -/
def enterBox (lo hi : Vec) (r : RayDef) (tbest : XVal) : Option XVal :=
  let axes := [slab lo.1 hi.1 r.o.1 r.d.1, slab lo.2.1 hi.2.1 r.o.2.1 r.d.2.1, slab lo.2.2 hi.2.2 r.o.2.2 r.d.2.2]
  if axes.any Option.isNone then none
  else
    let ivs := axes.filterMap fun x => x.getD none
    let lo := ivs.foldl (fun a p => maxVal2 a p.1) (.inf true)
    let hi := ivs.foldl (fun a p => minVal a p.2) (.inf false)
    if XVal.le (maxVal2 lo r.tmin) (minVal hi tbest) then some lo else none

/-- A hit: t, the triangle, u and v. -/
structure RayHit where
  t : XVal
  tri : Nat
  u : XVal
  v : XVal
  deriving DecidableEq, Repr

/-- Test a triangle (R384). -/
def hitTri (cull : Bool) (p0 p1 p2 : Vec) (r : RayDef) (tbest : XVal) (tri : Nat) : Option RayHit :=
  let e1 := Vec.sub p1 p0
  let e2 := Vec.sub p2 p0
  let pv := Vec.cross r.d e2
  let det := Vec.dot e1 pv
  if det.isZero || det.isNaN || (cull && XVal.lt det XVal.zero) then none
  else
    let sv := Vec.sub r.o p0
    let qv := Vec.cross sv e1
    let u := XVal.div (Vec.dot sv pv) det
    let v := XVal.div (Vec.dot r.d qv) det
    let t := XVal.div (Vec.dot e2 qv) det
    if XVal.le XVal.zero u && XVal.le XVal.zero v && XVal.le (XVal.add u v) XVal.one && XVal.le r.tmin t &&
        XVal.le t tbest then some ⟨t, tri, u, v⟩
    else none

/-- A traversal as it goes: the node to visit next, its stack, the best hit, and what has been read. stop ends it. -/
structure Walk where
  todo : List Nat
  best : Option RayHit
  deep : Bool
  stamp : Stamp
  status : Nat
  stop : Bool
  deriving DecidableEq, Repr

def Walk.tbest (w : Walk) (r : RayDef) : XVal :=
  match w.best with
  | some h => h.t
  | none => r.tmax

/-- Read node i, or none where it cannot be read. -/
def State.node (s : State) (f : Fetcher) (d i : Nat) : Got :=
  if nodeCount d ≤ i then Got.fail 32 stPoison else s.fetch f (nodeBase d + 32 * i) 8

/-- Read triangle i. -/
def State.tri (s : State) (f : Fetcher) (d i : Nat) : Got :=
  if triCount d ≤ i then Got.fail 48 stPoison else s.fetch f (triBase d + 48 * i) 12

/-- Note a read. -/
def Walk.saw (w : Walk) (g : Got) : Walk :=
  { w with stamp := Stamp.max w.stamp g.stamp, status := joinStatus w.status g.status,
           stop := w.stop || decide (g.status ≠ 0) }

/-- Take a hit: the nearer, the lower triangle on ties; with ANY the first ends the traversal. -/
def Walk.take (w : Walk) (any : Bool) (h : RayHit) : Walk :=
  match w.best with
  | none => { w with best := some h, stop := w.stop || any }
  | some b => if XVal.lt h.t b.t || (XVal.eq h.t b.t && decide (h.tri < b.tri)) then { w with best := some h } else w

/-- Test the triangles of a leaf in ascending order. -/
def State.leaf (s : State) (f : Fetcher) (d : Nat) (r : RayDef) (first : Nat) : Nat → Walk → Walk
  | 0, w => w
  | n + 1, w =>
    if w.stop then w
    else
      let g := s.tri f d first
      let w1 := w.saw g
      let w2 := if g.status ≠ 0 then w1
        else match hitTri (cullBack d) (g.vec 0) (g.vec 3) (g.vec 6) r (w1.tbest r) first with
          | some h => w1.take (anyHit d) h
          | none => w1
      s.leaf f d r (first + 1) n w2

/-- Push a node: the stack holds 64 (R387). The node to visit next stands before it. -/
def Walk.push (w : Walk) (i : Nat) : Walk :=
  if w.todo.length < 64 then { w with todo := i :: w.todo } else { w with deep := true }

/-- Visit one node. -/
def State.visit (s : State) (f : Fetcher) (d : Nat) (r : RayDef) (i : Nat) (w : Walk) : Walk :=
  let g := s.node f d i
  let w1 := w.saw g
  if w1.stop then w1
  else
    let first := g.word 6
    let n := g.word 7
    if 2 ^ 31 ≤ n then s.leaf f d r first (n % 2 ^ 31) w1
    else
      let a := s.node f d first
      let b := s.node f d (first + 1)
      let w2 := (w1.saw a).saw b
      if w2.stop then w2
      else
        match enterBox (a.vec 0) (a.vec 3) r (w2.tbest r), enterBox (b.vec 0) (b.vec 3) r (w2.tbest r) with
        | none, none => w2
        | some _, none => { w2 with todo := first :: w2.todo }
        | none, some _ => { w2 with todo := (first + 1) :: w2.todo }
        | some x, some y =>
          if XVal.lt y x then
            let w3 := w2.push first
            { w3 with todo := (first + 1) :: w3.todo }
          else
            let w3 := w2.push (first + 1)
            { w3 with todo := first :: w3.todo }

/-- The traversal: none where it never ends (a structure that loops). -/
def State.traverse (s : State) (f : Fetcher) (d : Nat) (r : RayDef) : Nat → Walk → Option Walk
  | 0, _ => none
  | n + 1, w =>
    if w.stop then some w
    else match w.todo with
      | [] => some w
      | i :: rest => s.traverse f d r n (s.visit f d r i { w with todo := rest })

/-- More visits than any traversal that ends makes. -/
def walkFuel : Nat := 2 ^ 4096

/-- The end of a traversed ray (R386). -/
def Walk.end_ (w : Walk) : RayEnd :=
  let dp := if w.deep then rayDepth else 0
  if w.status ≠ 0 then ⟨missWords false (rayPoison + dp), w.stamp, w.status⟩
  else match w.best with
    | some h => ⟨[round32 h.t, h.tri, round32 h.u, round32 h.v, rayHit + dp], w.stamp, 0⟩
    | none => ⟨missWords false dp, w.stamp, 0⟩

/-- Traverse an ISECT ray from the root, whose box is tested first (R384). -/
def State.castRay (s : State) (f : Fetcher) (d : Nat) (args : List Nat) : Option RayEnd :=
  let r := rayOf args
  let g := s.node f d 0
  let w0 : Walk := (⟨[], none, false, [], 0, false⟩ : Walk).saw g
  if w0.stop then some w0.end_
  else match enterBox (g.vec 0) (g.vec 3) r r.tmax with
    | none => some w0.end_
    | some _ => (s.traverse f d r walkFuel { w0 with todo := [0] }).map Walk.end_

/-! ## Samples (R385) -/

/-- Does the tile of a node hold the sample? -/
def tileHolds (g : Got) (x y : XVal) : Bool :=
  XVal.le (g.val 0) x && XVal.lt x (XVal.add (g.val 0) (g.val 2)) &&
  XVal.le (g.val 1) y && XVal.lt y (XVal.add (g.val 1) (g.val 2))

/-- The quadrant of the sample within a tile (R382). -/
def quadrantOf (g : Got) (x y : XVal) : Nat :=
  let h := halfOf2 (g.val 2)
  (if XVal.le (XVal.add (g.val 0) h) x then 1 else 0) + (if XVal.le (XVal.add (g.val 1) h) y then 2 else 0)
where
  /-- Half of a value. -/
  halfOf2 : XVal → XVal
    | .fin g n d => .fin g n (2 * d)
    | z => z

/-- A covered triangle: z, the triangle, and its two barycentrics. -/
abbrev Cover := RayHit

/-- Test the triangles of a leaf (R385). -/
def State.cover (s : State) (f : Fetcher) (d : Nat) (x y : XVal) (first : Nat) : Nat → Walk → Walk
  | 0, w => w
  | n + 1, w =>
    if w.stop then w
    else
      let g := s.tri f d first
      let w1 := w.saw g
      let plane := fun k => XVal.add (XVal.add (XVal.mul (g.val k) x) (XVal.mul (g.val (k + 1)) y)) (g.val (k + 2))
      let sum := XVal.add (XVal.add (plane 0) (plane 3)) (plane 6)
      let hit := XVal.le XVal.zero (plane 0) && XVal.le XVal.zero (plane 3) && XVal.le XVal.zero (plane 6) &&
        XVal.lt XVal.zero sum
      let w2 := if g.status ≠ 0 || !hit then w1
        else w1.take (anyHit d) ⟨plane 9, first, XVal.div (plane 3) sum, XVal.div (plane 6) sum⟩
      s.cover f d x y (first + 1) n w2

/-- The descent from a node that has been read. -/
def State.descend (s : State) (f : Fetcher) (d : Nat) (x y : XVal) : Nat → Got → Walk → Option Walk
  | 0, _, _ => none
  | n + 1, g, w =>
    if 2 ^ 31 ≤ g.word 7 then some (s.cover f d x y (g.word 6) (g.word 7 % 2 ^ 31) w)
    else
      let c := s.node f d (g.word 6 + quadrantOf g x y)
      let w1 := w.saw c
      if w1.stop then some w1 else s.descend f d x y n c w1

/-- The end of a VISQ sample (R386). -/
def visEnd (w : Walk) : RayEnd :=
  if w.status ≠ 0 then ⟨missWords true rayPoison, w.stamp, w.status⟩
  else match w.best with
    | some h => ⟨[h.tri, round32 h.u, round32 h.v, round32 h.t, rayHit], w.stamp, 0⟩
    | none => ⟨missWords true 0, w.stamp, 0⟩

/-- A VISQ sample (R385). -/
def State.castSample (s : State) (f : Fetcher) (d : Nat) (args : List Nat) : Option RayEnd :=
  let x := Fmt.f32.value (args.getD 0 0)
  let y := Fmt.f32.value (args.getD 1 0)
  if x.isNaN || y.isNaN then some ⟨missWords true rayInvalid, [], 0⟩
  else
    let g := s.node f d 0
    let w := (⟨[], none, false, [], 0, false⟩ : Walk).saw g
    if w.stop then some (visEnd w)
    else if !tileHolds g x y then some (visEnd w)
    else (s.descend f d x y walkFuel g w).map visEnd

end Sys2Proof.Machine
end

