-- ==== Sys2Proof/Machine/Engine.lean ====
section
/-!
DEFINITION. Engine commands, major 0x60 (R189, R203 to R213): what each does at issue; and the events that move their data,
land it and complete them (R203, R204, R387).
-/

namespace Sys2Proof.Machine

/-! ## Issue of the lane forms (R189, R210, R211) -/

/-- An operation that performs no access completes at once (R206). -/
def State.emptyOp (s : State) (cls : Cls) : State :=
  let o := s.newOp cls .empty
  (s.addOp o).completeOp s.cur.gid { o with begun := true }

/-- The outcomes of the lane checks of em, in lane order. -/
def State.laneChecks (s : State) (w : Window) (va : Nat) (off : Int) (width : Nat) (acc : Access) (isPriv : Bool) :
    List (Nat × Xlate) :=
  let g := s.grp
  (lanesOf s.em).map fun l =>
    (l, s.laneCheck (quarterOf s.cur.gid) g.ctx w (((g.readV va l).toNat : Int) + off) width acc isPriv s.spl.sup
      (g.carryLane l))

/-- Is one of the checks held? -/
def anyHold (cs : List (Nat × Xlate)) : Bool := cs.any fun c => match c.2 with | .hold => true | _ => false

/-- The cause of a lane, if it fails. -/
def causeAt (cs : List (Nat × Xlate)) (l : Nat) : Option Nat :=
  cs.findSome? fun c => match c.2 with | .fault k => if c.1 = l then some k else none | _ => none

/-- The items of the lanes that pass. -/
def State.laneItems (s : State) (cs : List (Nat × Xlate)) (addr : Nat → Int) (ty : Ty) (vd : Nat) : List LaneItem :=
  cs.filterMap fun c => match c.2 with
    | .ok pa _ => some ⟨c.1, (addr c.1).toNat, .phys pa, s.grp.elem ty vd c.1, s.grp.carryLane c.1⟩
    | _ => none

/-- The scope at which RED and AMG order: the device on HBM, the system on peer and host memory (R193). -/
def laneScope (cs : List (Nat × Xlate)) : Scope :=
  if cs.any fun c => match c.2 with
      | .ok pa _ => (match physKind pa with | .hbm _ => false | _ => true)
      | _ => false
  then .system else .device

/-- Does the form take its data from vd, or deliver into it? -/
def LaneForm.reads : LaneForm → Bool
  | .load => false
  | _ => true
def LaneForm.delivers : LaneForm → Bool
  | .load => true
  | .amg => true
  | _ => false

/-- The access kind of a lane form (R189). -/
def formAccess : LaneForm → Access
  | .load => .read
  | .store => .write
  | _ => .both

/-- A lane engine form: the checks of each lane, one operation for the lanes that pass, and the trap of the others. An order
joins the horizons before its accesses are formed (R280), and every form but a load drops the tangents of its data (R99). -/
def laneEngine (cls : Cls) (form : LaneForm) (isPriv : Bool) (vd va w : Nat) (off : Int) (op : Comb) (ty : Ty) (ord : MemOrd)
    (crit : Bool) (s : State) : Out :=
  s.guardRegs (regsOf ty vd ++ [va]) fun s =>
    let g := s.grp
    let j := s.setGrp (g.joinFor ord .device)
    let cs := j.laneChecks (g.window w) va off ty.bytes (formAccess form) isPriv
    if s.engineHeld || anyHold cs || (ord != .plain && !s.orderReady (laneScope cs) (isRel ord)) then s.stand
    else if s.em = 0 then
      ((s.setGrp ((g.joinFor ord .device).critStep s.clock ord crit)).emptyOp cls).advance 3
    else
      let addr := fun l => ((g.window w).base : Int) + (((g.readV va l).toNat : Int) + off)
      s.checkedLanes 3 (accCode (formAccess form)) (if isPriv then 3 else 1) addr (causeAt cs) fun ok s =>
        let s1 := cs.foldl (fun s c => s.cacheOf (quarterOf s.cur.gid) c.2) s
        let g1 := if form == .load then g else g.dropData (regsOf ty vd) ok
        let s2 := s1.setGrp (g1.irrevocable.joinFor ord .device)
        let o := { s2.newOp cls (.lanes form vd ty op ord crit (s2.laneItems cs addr ty vd)) with
          dests := if form.delivers then (regsOf ty vd).map RegId.v else [],
          pages := ((lanesOf ok).map fun l => (addr l).toNat / 65536).eraseDups }
        let s3 := s2.addOp o
        s3.setGrp (s3.grp.critStep s.clock ord crit)

/-- GATH (R210). -/
def execGath (vd va w : Nat) (off : Int) (ty : Ty) (_ : Nat) (s : State) : Out :=
  laneEngine .gs .load false vd va w off .add ty .plain false s

/-- SCAT (R210). -/
def execScat (vd va w : Nat) (off : Int) (ty : Ty) (_ : Nat) (s : State) : Out :=
  laneEngine .gs .store false vd va w off .add ty .plain false s

/-- PLD (R210). -/
def execPld (vd va w : Nat) (off : Int) (ty : Ty) (_ : Nat) (s : State) : Out :=
  laneEngine .pv .load true vd va w off .add ty .plain false s

/-- PST (R210). -/
def execPst (vd va w : Nat) (off : Int) (ty : Ty) (_ : Nat) (s : State) : Out :=
  laneEngine .pv .store true vd va w off .add ty .plain false s

/-- RED (R211). -/
def execRed (vd va w : Nat) (off : Int) (op : Comb) (ty : Ty) (ord : MemOrd) (crit : Bool) (_ : Nat) (s : State) : Out :=
  laneEngine .rd .red false vd va w off op ty ord crit s

/-- AMG (R211): one data register, which the old value replaces. -/
def execAmg (vd va w : Nat) (off : Int) (op : Comb) (ty : Ty) (ord : MemOrd) (crit : Bool) (_ : Nat) (s : State) : Out :=
  laneEngine .rd .amg false vd va w off op ty ord crit s

/-! ## Descriptors in scratchpad (R207, R212, R213) -/

/-- The trap of a descriptor at an address: misaligned, or not within .spad (R354). -/
def State.descTrap (s : State) (a align n : Nat) : Option State :=
  let f := fun c => s.trapEntry c ⟨c - 0x30, 0, 0, a % 2 ^ 52⟩
  if a % align ≠ 0 then some (f 0x32) else if s.grp.decl.spad < a + n then some (f 0x33) else none

/-- The trap of a side that failed its translation (R354). -/
def State.sideTrap (s : State) (cause acc space : Nat) (a : Int) : State :=
  s.trapEntry cause ⟨lcauseOf cause, acc, space, patternOf 52 a⟩

/-- Keep the leaves that a side's translation went through. -/
def State.cacheAll (s : State) (ls : List TlbEntry) : State :=
  ls.foldl (fun s e => s.cache (quarterOf s.cur.gid) e) s

/-! ## CPY (R207 to R209) -/

/-- CPY of a well-formed descriptor whose sides have been translated. -/
def State.issueCopy (s : State) (bk : BarOp) (d : Nat) (recs : List Nat) (src dst : Side) (ls : List TlbEntry) : State :=
  let k := s.grp.decl
  let c := copyDesc d
  let go := fun (s : State) =>
    let s1 := (s.cacheAll ls).setGrp s.grp.irrevocable
    let o := { s1.newOp .cp (.copy ⟨d, recs, src, dst, k⟩) with
      bar := if bk.be then some bk.bar else none, nominal := c.nominal k s.fresh }
    ((s1.addOp o).passGrant o.id).advance 3
  if 1048576 < c.destBytes k then s.withGrant 1 go else go s

/-- An operation that has failed with ILLF before any byte (R77, R205). -/
def State.issueIll (s : State) (cls : Cls) (bar : Option Nat) (nominal : Nat) : State :=
  let s1 := s.setGrp s.grp.irrevocable
  let o := { s1.newOp cls .empty with bar := bar, nominal := nominal, begun := true }
  (s1.addOp (o.raise stIllf)).advance 3

/-- CPY (R207). -/
def execCpy (sa : Nat) (bk : BarOp) (_ : Nat) (s : State) : Out :=
  let g := s.grp
  let a := (g.readS sa).toNat
  .next (
    match s.descTrap a 64 256 with
    | some t => t
    | none =>
      if s.engineHeld then s.stand
      else
        let d := s.readSpad g.gang a 256
        let c := copyDesc d
        let recs := (List.range (c.rowLen / 128)).map fun j => s.readSpad g.gang (16 * c.mapoff + 16 * j) 16
        let recs := if c.map then recs else []
        if c.illFormed g.decl recs then
          s.issueIll .cp (if bk.be then some bk.bar else none) (c.nominal g.decl s.fresh)
        else
          match s.srcSide c recs, s.dstSide c with
          | .hold, _ => s.stand
          | _, .hold => s.stand
          | .fault x b, _ => s.sideTrap x 0 (if c.skind = 2 then 2 else 1) b
          | _, .fault x b => s.sideTrap x 1 1 b
          | .ok src l1, .ok dst l2 => s.issueCopy bk d recs src dst (l1 ++ l2))

/-! ## TEX, TEXG, ISECT and VISQ (R212) -/

/-- The role codes of the screen axes (R314). -/
def roleSlot (d : Decl) (code : Nat) : Option Nat := (List.range d.d).find? fun k => decide (d.roles.getD k 0 = code)

/-- A tangent by role as FP32 bits: +0 where no slot has the role (R80, R102). -/
def Group.roleTan (g : Group) (r l code : Nat) : Nat :=
  match roleSlot g.decl code with
  | some k => if g.decl.bf16 then (g.readT r k l).toNat * 65536 else (g.readT r k l).toNat
  | none => 0

/-- Does a coordinate register carry a tangent in the lane that the footprint does not read, or any at all with .L0 (R92, R99,
R102)? -/
def Group.unreadTan (g : Group) (l0 : Bool) (r l : Nat) : Bool :=
  g.dual r && (List.range g.decl.d).any fun k =>
    (l0 || (roleSlot g.decl 1 != some k && roleSlot g.decl 2 != some k)) && !tanZero g.decl.bf16 (g.readT r k l)

/-- TEX and TEXG (R102, R212); tangents that their footprint does not read are dropped (R99). -/
def texForm (gather : Bool) (vd va sa : Nat) (l0 : Bool) (s : State) : Out :=
  s.guardRegs (span vd 4 ++ span va 2) fun s =>
    let g := s.grp
    let a := (g.readS sa).toNat
    match s.descTrap a 64 64 with
    | some t => t
    | none =>
      if s.engineHeld then s.stand
      else if s.em = 0 then (s.emptyOp .tx).advance 3
      else
        let d := s.readSpad g.gang a 64
        let samples := (lanesOf s.em).map fun l =>
          (⟨l, (g.readV va l).toNat, (g.readV (va + 1) l).toNat,
            [g.roleTan va l 1, g.roleTan va l 2, g.roleTan (va + 1) l 1, g.roleTan (va + 1) l 2], g.carryLane l⟩ : Sample)
        let g1 := (lanesOf s.em).foldl (fun acc l => acc.tlostIf ([va, va + 1].any fun r => g.unreadTan l0 r l) l) g
        let s1 := s.setGrp g1.irrevocable
        let o := { s1.newOp .tx (.tex gather vd d (g.window (descWin d)) l0 samples) with
          dests := (span vd 4).map RegId.v }
        (s1.addOp o).advance 3

/-- TEX (R212). -/
def execTex (vd va sa : Nat) (l0 : Bool) (_ : Nat) (s : State) : Out := texForm false vd va sa l0 s

/-- TEXG (R212). -/
def execTexg (vd va sa : Nat) (l0 : Bool) (_ : Nat) (s : State) : Out := texForm true vd va sa l0 s

/-- ISECT and VISQ (R212): n operand registers. An ill-formed descriptor ends every lane as a miss (R381). -/
def rayForm (vis : Bool) (n vd va sa : Nat) (bk : BarOp) (s : State) : Out :=
  s.guardRegs (span vd 5 ++ span va n) fun s =>
    let g := s.grp
    let a := (g.readS sa).toNat
    match s.descTrap a 64 64 with
    | some t => t
    | none =>
      if s.engineHeld then s.stand
      else
        let d := s.readSpad g.gang a 64
        let w := g.window (descWin d)
        let bad := structBad vis d w
        let rays := (lanesOf s.em).map fun l =>
          (⟨l, (span va n).map fun r => (g.readV r l).toNat, g.carryLane l, false,
            if bad then some (missWords vis rayInvalid) else none⟩ : Ray)
        let g1 := g.dropData (span va n) s.em
        let s1 := s.setGrp (if s.em = 0 then g1 else g1.irrevocable)
        let o := { s1.newOp .ix (.ray vis vd d w rays) with
          bar := if bk.be then some bk.bar else none, nominal := 20 * rays.length,
          dests := if s.em = 0 then [] else (span vd 5).map RegId.v }
        let o := if bad ∧ s.em ≠ 0 then o.raise stIllf else o
        if s.em = 0 then ((s1.addOp o).completeOp s.cur.gid o).advance 3 else (s1.addOp o).advance 3

/-- ISECT (R212). -/
def execIsect (vd va sa : Nat) (bk : BarOp) (_ : Nat) (s : State) : Out := rayForm false 8 vd va sa bk s

/-- VISQ (R212). -/
def execVisq (vd va sa : Nat) (bk : BarOp) (_ : Nat) (s : State) : Out := rayForm true 2 vd va sa bk s

/-! ## COLL (R213, R286) -/

/-- The window elements of a side of a collective. -/
def collElements (off : Int) (ty : Ty) (n : Nat) : List (Int × Nat) :=
  (List.range n).map fun i => (off + ((i * ty.bytes : Nat) : Int), ty.bytes)

/-- Issue a COLL that joins a collective of its group: the next by number (R365; log 41). -/
def State.issueColl (s : State) (bar nominal : Nat) (w : CollWork) (ls : List TlbEntry) : State :=
  let ctx := s.grp.ctx
  let c := s.context ctx
  let no := Sparse.get 0 c.collCount w.group
  let s1 := s.cacheAll ls
  let s2 := s1.setContext ctx { c with collCount := Sparse.set 0 c.collCount w.group (no + 1) }
  let s3 := s2.setGrp s2.grp.irrevocable.joinHorizons
  let o := { s3.newOp .cl (.coll { w with no := no }) with
    bar := some bar, nominal := nominal }
  let x := (s3.coll ctx w.group no).meet (collHeader w.kind w.op w.ty w.desc w.bad)
  ((s3.addOp o).setColl { x with here := some ⟨s.cur.gid, o.id⟩ }).advance 3

/-- COLL (R213, R286, R364). -/
def execColl (kind : CollKind) (op : CollOp) (ty : Ty) (sa bar group : Nat) (_ : Nat) (s : State) : Out :=
  let g := s.grp
  let a := (g.readS sa).toNat
  .next (
    match s.descTrap a 32 32 with
    | some t => t
    | none =>
      if s.engineHeld || !g.readsLanded || !s.everywhere g.joinHorizons.groupHorizon then s.stand
      else
        let d := s.readSpad g.gang a 32
        match (if group < 1024 then Sparse.get none (s.context g.ctx).colls group else none) with
        | none =>
          s.issueIll .cl (some bar) (collDstCount kind (collCount d) 1 * ty.bytes % 2 ^ 40)
        | some e =>
          let p := e.ranks.length
          let nom := collDstCount kind (collCount d) p * ty.bytes % 2 ^ 40
          let w : CollWork := ⟨kind, op, ty, group, 0, d, true, .spad g.gang, .spad g.gang, p, e.rank⟩
          if collBad kind ty d p g.decl.occupancy then s.issueColl bar nom w []
          else
            let n := collCount d
            let src := if collSrcSpad d then .ok (.spad g.gang) []
              else s.windowSide (g.window (collSrcWin d)) .read (collElements (collSrcOff d) ty (collSrcCount kind n p))
            let dst := if collDstSpad d then .ok (.spad g.gang) []
              else s.windowSide (g.window (collDstWin d)) .write (collElements (collDstOff d) ty (collDstCount kind n p))
            match src, dst with
            | .hold, _ => s.stand
            | _, .hold => s.stand
            | .fault x b, _ => s.sideTrap x 0 1 b
            | _, .fault x b => s.sideTrap x 1 1 b
            | .ok src l1, .ok dst l2 => s.issueColl bar nom { w with bad := false, src := src, dst := dst } (l1 ++ l2))

/-! ## Moving and completing -/

/-- Begin what has still to begin: a copy reads its sources; a collective contributes, and prepares its result. -/
def State.prepare (s : State) (gid id : Nat) : State :=
  match (s.group gid).op? id with
  | none => s
  | some o =>
    if o.done then s
    else
      match o.kind with
      | .copy w =>
        if !o.begun && s.hasPower gid o && s.copyReady gid o w then
          match s.askAll gid id (copyReads w) with
          | (s1, true) => match (s1.group gid).op? id with
            | some o1 => s1.beginCopy gid o1 w
            | none => s1
          | (s1, false) => s1
        else s
      | .coll w => s.goColl gid o w
      | _ => s

/-- Move one prepared write (R191, R204, R243). -/
def State.moveWrite (s : State) (gid : Nat) (o : Op) : State :=
  match o.writes[s.pick o.writes.length]? with
  | none => s
  | some p =>
    let rest := o.writes.erase p
    if !s.hasPower gid o || p.spots.any fun x => (s.group gid).blocked opTouches o x.1 x.2 then s
    else
      if !s.pendingReady (dieOf gid) o.carry p then s
      else
        match s.pendingGo gid o p with
        | .wait s1 => s1
        | .lost => s.landed gid ({ o with writes := rest }.raise stLink) p.size []
        | .go =>
          let r := s.doPending (dieOf gid) o o.carry p
          let o1 := (p.spots.foldl (fun (o : Op) x => o.used x.1 x.2) { o with writes := rest, stamp := Stamp.max o.stamp r.2.1 }).raise r.2.2
          let s1 := r.1.setGroup gid ((r.1.group gid).noteWrote r.2.1)
          s1.landed gid o1 p.size r.2.1

/-- What the element of a lane form asks of peer memory (R210, R211): a RED combines every lane at its place first. -/
def LaneItem.asks (it : LaneItem) (form : LaneForm) (ty : Ty) (op : Comb) (rest : List LaneItem) : PeerAsk :=
  match form with
  | .load => .read
  | .store => .write (bytesOf ty.bytes it.data)
  | .amg => .update op ty it.data
  | .red => .update op ty
      ((rest.filter fun x => decide (x.place = it.place)).foldl (fun x i => combine op ty x i.data) it.data)

/-- Move the item of a lane form that is chosen, where it may move (R192, R210, R211, R279). -/
def State.moveLane (s : State) (gid : Nat) (o : Op) (form : LaneForm) (vd : Nat) (ty : Ty) (op : Comb) (ord : MemOrd)
    (crit : Bool) (items : List LaneItem) : State :=
  match firstAt items (s.pick items.length) with
  | none => s
  | some it =>
    let rest := items.erase it
    let re := fun l => OpKind.lanes form vd ty op ord crit l
    if (s.group gid).blocked opTouches o it.place ty.bytes ||
        !s.placeReady (dieOf gid) it.carry it.place ty.bytes ((s.group gid).least it.lane) ||
        (form.updates && !s.updateOk (dieOf gid) it.carry it.place ty.bytes) then s
    else
      match s.peerGo gid o it.place ty.bytes (it.asks form ty op rest) with
      | .wait s1 => s1
      | .lost =>
        s.setOp gid ({ o with kind := re rest,
                              results := o.results ++ (if form.delivers then resultOf ty vd it.lane 0 else []) }.raise
          (if form.delivers then stLink + stPoison else stLink))
      | .go => s.moveItem gid o form vd ty op it rest (isAcq ord) re

/-- What an operation of the texture or the intersection unit carries for a lane: at least what older reads of its class returned
(R192, R276; log 13). -/
def Group.carryRead (g : Group) (o : Op) (carry : Stamp) : Stamp :=
  Stamp.max carry (Stamp.max (Sparse.get [] g.clsStamp o.cls.code)
    (Stamp.maxAll ((g.ops.filter fun x => x.cls == o.cls && decide (x.id < o.id)).map Op.stamp)))

/-- How an operation's unit fetches for a lane. -/
def fetcherOf (gid : Nat) (o : Op) (win : Window) (carry : Stamp) : Fetcher := ⟨gid, o.sup, win, carry, o⟩

/-- A fetch that has to ask over a link first does so, once it may (R288, R360). -/
def State.askFetch (s : State) (gid : Nat) (o : Op) (carry : Stamp) (pa : Nat) : State :=
  if !s.placeReady (dieOf gid) carry (.phys pa) 4 then s
  else
    match s.peerGo gid o (.phys pa) 4 .read with
    | .wait s1 => s1
    | _ => s

/-- Carry out one texture sample. -/
def State.moveSample (s : State) (gid : Nat) (o : Op) (gather : Bool) (vd d : Nat) (win : Window) (l0 : Bool) :
    List Sample → State
  | [] => s
  | x :: rest =>
    let σ := (s.group gid).carryRead o x.carry
    if !s.ready (dieOf gid) σ then s
    else
      let t := s.sample (fetcherOf gid o win σ) gather l0 d x
      match asksOf t.status with
      | some pa => s.askFetch gid o σ pa
      | none =>
        let rs := (t.words.getD (List.replicate 4 nan32)).zipIdx.map fun p => (RegId.v (vd + p.2), x.lane, p.1)
        s.setOp gid (({ o with kind := .tex gather vd d win l0 rest, results := o.results ++ rs }.raise t.status).stampLane
          x.lane t.stamp)

/-- Move one element of the operation. -/
def State.moveOne (s : State) (gid id : Nat) : State :=
  match (s.group gid).op? id with
  | none => s
  | some o =>
    if o.done then s
    else
      match o.kind with
      | .lanes form vd ty op ord crit items => s.moveLane gid o form vd ty op ord crit items
      | .tex gather vd d win l0 xs => s.moveSample gid o gather vd d win l0 xs
      | .ray _ _ _ _ _ => s
      | .empty => s
      | _ => if o.begun then s.moveWrite gid o else s

/-- Move up to n elements. -/
def State.moveMany (s : State) (gid id : Nat) : Nat → State
  | 0 => s
  | n + 1 => (s.moveOne gid id).moveMany gid id n

/-- Elements that an operation has still to move. -/
def Op.remaining (o : Op) : Nat :=
  match o.kind with
  | .lanes _ _ _ _ _ _ items => items.length
  | .tex _ _ _ _ _ xs => xs.length
  | _ => o.writes.length

/-- Has everything been performed that the operation does before it completes? Factor operations of a group fail in the order in
which they were carried out (R260). -/
def State.opReady (s : State) (r : OpRef) (o : Op) : Bool :=
  decide (o.remaining = 0) &&
  match o.kind with
  | .empty => true
  | .lanes _ _ _ _ _ _ _ => true
  | .tex _ _ _ _ _ _ => true
  | .ray _ _ _ _ rays => rays.all fun x => x.result.isSome
  | .coll _ => o.begun && (match s.collOf r with
      | some c => c.folded
      | none => true)
  | .factor _ _ _ _ => o.begun && (o.fault.isNone || ((s.group r.gid).olderOf o).all fun x => x.fault.isNone)
  | _ => o.begun

/-- The register results of a ray operation, and its 20 bytes a lane (R303, R386). -/
def State.landRays (s : State) (gid : Nat) (o : Op) : State :=
  match o.kind with
  | .ray _ vd _ _ rays =>
    let rs := rays.flatMap fun x => ((x.result.getD []).zipIdx.map fun p => (RegId.v (vd + p.2), x.lane, p.1))
    s.landed gid { o with results := rs } (20 * rays.length) o.stamp
  | _ => s

/-- Is the engine channel of the group's core frozen (R396)? -/
def State.channelStands (s : State) (gid : Nat) : Bool := s.frozen.contains (.channel (coreOf gid))

/-- An operation of which all has been performed completes (R203). -/
def State.finishOp (s : State) (gid id : Nat) : State :=
  match (s.group gid).op? id with
  | some o =>
    if !o.done && s.opReady ⟨gid, id⟩ o then
      let s1 := s.landRays gid o
      match (s1.group gid).op? id with
      | some o1 => s1.completeOp gid o1
      | none => s1
    else s
  | none => s

/-- What is left of an operation moves, and once all of it has been performed the operation completes. -/
def State.runOp (s : State) (gid id : Nat) : State :=
  let s1 := s.prepare gid id
  let n := match (s1.group gid).op? id with
    | some o => o.remaining
    | none => 0
  (s1.moveMany gid id n).finishOp gid id

/-- ENGINE_OPERATION_COMPLETE (R203). -/
def execEngineOperationComplete (gid id : Nat) (s : State) : Out :=
  .next (if s.channelStands gid then s else s.runOp gid id)

/-- BARRIER_LANDING (R203, R204): n elements of an operation are performed and, where it completes into a barrier, counted; with the
last of them the operation completes. -/
def execBarrierLanding (gid id n : Nat) (s : State) : Out :=
  .next (if s.channelStands gid then s else ((s.prepare gid id).moveMany gid id n).finishOp gid id)

/-! ## Aborts (R206, R338, R387) -/

/-- The rays of an operation that have no result end as misses, aborted (R386, R387). -/
def OpKind.abortRays (k : OpKind) : OpKind :=
  match k with
  | .ray vis vd d win rays => .ray vis vd d win (rays.map fun r =>
      { r with result := some (r.result.getD (missWords vis rayAborted)) })
  | k => k

/-- An operation of a context that is reset ends with ABORT: what it has not yet written stays unwritten. -/
def State.abortOp (s : State) (gid : Nat) (o : Op) : State :=
  if o.done then s
  else
    let o1 := { o with kind := o.kind.abortRays, writes := [] }.raise stAbort
    let s1 := (s.setOp gid o1).landRays gid o1
    match (s1.group gid).op? o.id with
    | some o2 => s1.completeOp gid o2
    | none => s1

/-- Every operation in flight of the groups of a context ends with ABORT. -/
def State.abortOps (s : State) (ctx : Nat) : State :=
  (s.groups.filter fun p => decide (p.2.ctx = ctx)).foldl (fun s p => p.2.ops.foldl (fun s o => s.abortOp p.1 o) s) s

/-! ## Rays in flight (R387) -/

/-- Change the ray of a lane. -/
def setRay (l : Nat) (f : Ray → Ray) (rays : List Ray) : List Ray := rays.map fun r => if r.lane = l then f r else r

/-- Stacks that the rays of a context hold on the intersection unit of a quarter. -/
def State.stacksHeld (s : State) (q ctx : Nat) : Nat :=
  ((s.groups.filter fun p => decide (quarterOf p.1 = q) && decide (p.2.ctx = ctx)).map fun p =>
    (p.2.ops.map fun o => match o.kind with
      | .ray _ _ _ _ rays => if o.done then 0 else (rays.filter fun r => r.admitted && r.result.isNone).length
      | _ => 0).sum).sum

/-- Is the ray one that R383 does not traverse? It takes no stack. -/
def Ray.refused (vis : Bool) (r : Ray) : Bool := !vis && (rayRefused r.args).isSome

/-- Is a ray the first of its context's that is queued on the quarter? Rays of one context are admitted in issue order. -/
def State.firstQueued (s : State) (q ctx id lane : Nat) : Bool :=
  (s.groups.filter fun p => decide (quarterOf p.1 = q) && decide (p.2.ctx = ctx)).all fun p =>
    p.2.ops.all fun o => match o.kind with
      | .ray vis _ _ _ rays => o.done || rays.all fun r =>
          r.admitted || r.result.isSome || r.refused vis || decide (id < o.id) || (decide (id = o.id) && decide (lane ≤ r.lane))
      | _ => true

/-- The stacks that the rays of all contexts hold there: a unit has 256. -/
def State.stacksTaken (s : State) (q : Nat) : Nat := (s.contexts.map fun c => s.stacksHeld q c.1).sum

/-- RAY_ADMIT (R387): a queued ray takes a stack that is free within its context's quota. -/
def execRayAdmit (gid id lane : Nat) (s : State) : Out :=
  let q := quarterOf gid
  let ctx := (s.group gid).ctx
  .next (
    match (s.group gid).op? id with
    | some o => match o.kind with
      | .ray vis vd d win rays =>
        if !o.done && s.firstQueued q ctx id lane &&
            decide (s.stacksHeld q ctx < Sparse.get 0 (s.quarter q).quota ctx) && decide (s.stacksTaken q < 256) &&
            !s.channelStands gid && rays.any (fun r => decide (r.lane = lane) && !r.admitted && r.result.isNone && !r.refused vis) then
          s.setOp gid { o with kind := .ray vis vd d win (setRay lane (fun r => { r with admitted := true }) rays) }
        else s
      | _ => s
    | none => s)

/-- Put the end of a ray into its operation. -/
def State.endRay (s : State) (gid : Nat) (o : Op) (vis : Bool) (vd d : Nat) (win : Window) (rays : List Ray) (lane : Nat)
    (x : RayEnd) : State :=
  let o1 := { o with kind := .ray vis vd d win (setRay lane (fun r => { r with result := some x.words }) rays) }
  s.setOp gid ((o1.raise x.status).stampLane lane x.stamp)

/-- RAY_COMPLETE (R383 to R387): an admitted ray's traversal ends, or a ray that R383 does not traverse completes. -/
def execRayComplete (gid id lane : Nat) (s : State) : Out :=
  .next (
    match (s.group gid).op? id with
    | some o => match o.kind with
      | .ray vis vd d win rays =>
        match rays.find? fun r => decide (r.lane = lane) && r.result.isNone with
        | some r =>
          if s.channelStands gid then s else
          let σ := (s.group gid).carryRead o r.carry
          match (if vis then none else rayRefused r.args) with
          | some st => s.endRay gid o vis vd d win rays lane ⟨missWords vis st, [], 0⟩
          | none =>
            if r.admitted && s.ready (dieOf gid) σ && !o.done then
              let f := fetcherOf gid o win σ
              match (if vis then s.castSample f d r.args else s.castRay f d r.args) with
              | some x => match asksOf x.status with
                | some pa => s.askFetch gid o σ pa
                | none => s.endRay gid o vis vd d win rays lane x
              | none => s
            else s
        | none => s
      | _ => s
    | none => s)

end Sys2Proof.Machine
end

