-- ==== Sys2Proof/Machine/Fabric.lean ====
section
/-!
DEFINITION. The life of a port (R361, R362), fenced chips (R356, R362), violations (R396), and the flits that arrive over
Kazvel (R359, R360), but for shoot-downs.
-/

namespace Sys2Proof.Machine

/-! ## Fencing and violations -/

/-- A chip is fenced: its memory fails every access, and its ranks are lost (R356, R362, R365). -/
def State.fenceChip (s : State) (chip : Nat) : State :=
  if s.fencedChips.contains chip then s
  else { s with fencedChips := s.fencedChips ++ [chip], collWaits := s.collWaits.filter fun w => decide (w.chip ≠ chip) }.loseChip chip

/-- A usable port is fenced, and with its last usable port the chip; any other port stays as it is (R20, R362). Pradan has no
peer. -/
def State.fence (s : State) (k : Nat) : State :=
  let chip := (s.port k).peer
  if (s.port k).usable then
    let s1 := s.fencePort k
    if k ≠ 16 ∧ s1.cutOff chip then s1.fenceChip chip else s1
  else s

/-- The contexts with groups or operations on a master (R396); of a port, those whose operations wait for an answer there. -/
def State.usersOf (s : State) (m : Master) : List Nat :=
  let l : List Nat := match m with
    | .core c => (s.coreGroups c).map fun p => p.2.ctx
    | .channel c => ((s.coreGroups c).filter fun p => p.2.ops.any fun o => !o.done).map fun p => p.2.ctx
    | .port k => (s.port k).asked.filterMap fun a =>
        if a.kind ≠ .signal ∧ (((s.group a.gid).op? a.id).any fun o => !o.done) then some (s.group a.gid).ctx else none
    | .umber _ => []
    | .indigo _ => []
  l.eraseDups

/-- A violation (R396): the master is frozen, a port is fenced, and the contexts that use the master are faulted. On a
violation by Indigo's own checks the device goes to recovery (R399). -/
def State.violate (s : State) (m : Master) : State :=
  let users := s.usersOf m
  let s1 := { s with frozen := if s.frozen.contains m then s.frozen else s.frozen ++ [m] }.notify (.violation m)
  let s2 := match m with
    | .port k => s1.fence k
    | .indigo _ => { s1 with bringUp := .recovery }.notify .recovery
    | _ => s1
  users.foldl State.faultContext s2

/-- VIOLATION (R396). -/
def execViolation (m : Master) (s : State) : Out := .next (s.violate m)

/-! ## The life of a port (R362) -/

/-- Lanes of a port (R358). -/
def laneCount (k : Nat) : Nat := if k = 16 then 32 else 8

/-- LINK_TRAINING (R362): Indigo requests training of a port that is down. -/
def execLinkTraining (k : Nat) (s : State) : Out :=
  .next (if k < 17 ∧ (s.port k).state = .down then s.setPort k { (s.port k) with state := .training } else s)

/-- Width of a port with n lanes that pass. R362 gives it for Kazvel; for Pradan with 8 lanes or more that pass, and not
all, it states none. -/
def trainedWidth (fresh k n : Nat) : Nat :=
  if n = laneCount k then n
  else if n < 4 then 2
  else if n < 8 then 4
  else (Config.freeWord fresh 3).toNat % 32

/-- A port of Kazvel joins the route of its peer, whose fence is lifted. -/
def State.route (s : State) (k chip : Nat) : State :=
  { s with routes := Sparse.modify [] s.routes chip fun l => l.filter (fun x => decide (x ≠ k)) ++ [k],
           fencedChips := s.fencedChips.filter fun x => decide (x ≠ chip) }

/-- TRAINING_COMPLETE (R362): n lanes pass, counted from lane 0 without a gap. Flits of collectives that waited for the port go
(R367). -/
def execTrainingComplete (k n peer : Nat) (s : State) : Out :=
  let m := Nat.min n (laneCount k)
  .next (
    if (s.port k).state ≠ .training then s
    else if m < 2 then s.setPort k { (s.port k) with state := .down, width := 0, trained := true }
    else
      let p : Port := { Port.down with
        state := if m = laneCount k then .up else .degraded, width := trainedWidth s.fresh k m,
        peer := if k = 16 then 0 else peer % 128, trained := true }
      if k = 16 then s.setPort k p else ((s.setPort k p).route k (peer % 128)).flushColls)

/-- The code of a state (R361). -/
def PortState.code : PortState → Nat
  | .down => 0
  | .training => 1
  | .up => 2
  | .degraded => 3
  | .fenced => 4

/-- The status word of a port, which the host driver reads through Indigo (R361). -/
def State.portWord (s : State) (k : Nat) : Word64 :=
  let p := s.port k
  BitVec.ofNat 64 ((if k = 16 then 0 else p.peer % 256) * 2 ^ 32 + p.replays % 2 ^ 16 * 2 ^ 16 + p.width % 64 * 2 ^ 4 +
    p.state.code)

/-- LINK_TIMEOUT (R362): a request has been unanswered for 1,048,576 cycles. -/
def execLinkTimeout (k : Nat) (s : State) : Out :=
  .next (
    if (s.port k).usable && (s.port k).asked.any fun a => decide (a.since + 1048576 ≤ s.clock) then s.fence k else s)

/-- PORT_RESET (R362, R399): Indigo resets a fenced port at the host driver's request, which it takes once the device is ready. -/
def execPortReset (k : Nat) (s : State) : Out :=
  .next (s.whenReady (if (s.port k).state = .fenced then s.setPort k Port.down else s))

/-! ## Arrival (R359) -/

/-- A flit of a kind arrives on a port: k goes on when it is the next in sequence and for this chip. A flit that claims another
chip than the port trained with is a violation (R396); a flit out of sequence is dropped, for a replay is under way. What comes
over Pradan, the answers of the host and requests for a replay, is numbered likewise and names no chip (log 26). -/
def State.arriving (s : State) (k kind : Nat) (f : Flit) (go : State → State) : State :=
  let p := s.port k
  if !p.usable || decide (17 ≤ k) || decide (f.kind ≠ kind) || decide (240 < f.len) then s
  else if k = 16 ∧ kind ≠ 0 ∧ kind ≠ 2 ∧ kind ≠ 4 ∧ kind ≠ 7 then s
  else if k ≠ 16 ∧ f.src ≠ p.peer then s.violate (.port k)
  else if f.seq ≠ p.seqIn ∨ (k ≠ 16 ∧ f.dst ≠ s.chip) then s
  else go (s.setPort k { p with seqIn := (p.seqIn + 1) % 2 ^ 32 })

/-- The payload bytes in use. -/
def flitBody (f : Flit) : List Byte := f.payload.take f.len

/-- Answer to a flit: its SEQ, a status, and data (log 26). -/
def State.answer (s : State) (k : Nat) (f : Flit) (kind status : Nat) (data : List Byte) : State :=
  s.sendFlit k f.src kind (bytesOf 4 f.seq ++ bytesOf 4 status ++ data)

/-- The die that holds an address a peer names, and whether it is HBM (R360). -/
def peerTarget (pa : Nat) : Option Nat :=
  match physKind (pa % 2 ^ 39) with
  | .hbm d => some d
  | _ => none

/-- What a request asks that a peer has sent (R211, R244; log 26). -/
def askOf (body : List Byte) : PeerAsk :=
  let code := ofBytes ((body.drop 16).take 1)
  let x := ofBytes ((body.drop 18).take 8)
  match Sys2Proof.Ty.ofCode (ofBytes ((body.drop 17).take 1)), Comb.ofCode code with
  | some ty, some op => if body.length ≤ 16 then .read else .update op ty x
  | some ty, none => if body.length ≤ 16 then .read else .tile (ofBytes ((body.drop 26).take 4)) ty x
  | none, _ => .read

/-- The address and the length that a request names. -/
def requestAt (f : Flit) : Nat × Nat :=
  (ofBytes ((flitBody f).take 8) % 2 ^ 39, Nat.min 128 (ofBytes (((flitBody f).drop 8).take 8)))

/-- An element of an add-on-store tile at its home: the HBM bytes as they stand and as the update leaves them; none where there is
no HBM. -/
def State.tileEl (s : State) (f : Flit) : Option (Part × Got) :=
  let a := requestAt f
  (peerTarget a.1).map fun d =>
    let old := (s.die d).read a.1 a.2
    (⟨a.1, if old.status = 0 then (askOf (flitBody f)).change old.bytes else List.replicate a.2 0, decide (old.status ≠ 0)⟩, old)

/-- May the elements of a tile that have come be taken: do their homes hold the latest of their bytes? -/
def State.tileReady (s : State) (fs : List Flit) : Bool :=
  fs.all fun f => match peerTarget (requestAt f).1 with
    | some d => s.homeReady d d [] (requestAt f).1 (requestAt f).2
    | none => true

/-- The elements of a tile, all of which have come, are taken in one step, and each is answered (R244). -/
def State.takeTile (s : State) (k : Nat) (fs : List Flit) : State :=
  let els := fs.map fun f => (f, s.tileEl f)
  let parts := els.filterMap fun e => e.2.map Prod.fst
  let homes := parts.map fun p => p.pa / 2 ^ 36
  let s1 := if parts = [] then s else (s.writeParts (homes.headD 0) homes parts []).1
  let s2 := s1.setPort k { (s1.port k) with tile := [] }
  els.foldl (fun s e => match e.2 with
    | some x => s.answer k e.1 2 x.2.status x.2.bytes
    | none => s.answer k e.1 2 stPoison (List.replicate (requestAt e.1).2 0)) s2

/-- READ_REQUEST (R359, R360): the home answers with its bytes, which an update changes once the home holds the latest of them. An
element of an add-on-store tile waits for the tile's others (R244). -/
def execReadRequest (k : Nat) (f : Flit) (s : State) : Out :=
  let pa := (requestAt f).1
  let n := (requestAt f).2
  .next (
    match peerTarget pa, askOf (flitBody f) with
    | _, .tile total _ _ =>
      let fs := (s.port k).tile ++ [f]
      if fs.length < total then s.arriving k 1 f fun s => s.setPort k { (s.port k) with tile := fs }
      else if s.tileReady fs then s.arriving k 1 f fun s => s.takeTile k fs
      else s
    | some d, .read => s.arriving k 1 f fun s =>
        let x := (s.die d).read pa n
        s.answer k f 2 x.status x.bytes
    | some d, ask =>
      if s.homeReady d d [] pa n then
        s.arriving k 1 f fun s =>
          let r := s.updatePhys d pa n [] false ask.change
          r.1.answer k f 2 r.2.1.status r.2.1.bytes
      else s
    | none, _ => s.arriving k 1 f fun s => s.answer k f 2 stPoison (List.replicate n 0))

/-- WRITE (R359, R360): the home originates it, and acknowledges. -/
def execWrite (k : Nat) (f : Flit) (s : State) : Out :=
  .next (s.arriving k 3 f fun s =>
    let pa := ofBytes ((flitBody f).take 8) % 2 ^ 39
    match peerTarget pa with
    | some d => ((s.writeHbm d [] pa ((flitBody f).drop 8) [] false).1).answer k f 4 0 []
    | none => s.answer k f 4 stPoison [])

/-- The request that an answer on a port is for. -/
def State.askedBy (s : State) (k : Nat) (f : Flit) (ack : Bool) : Option Asked :=
  (s.port k).asked.find? fun a => decide (a.seq = ofBytes ((flitBody f).take 4)) && (a.kind != .read) == ack

/-- The request is answered: its operation takes the bytes and the status, and goes on when no other request is open. -/
def State.answered (s : State) (k : Nat) (a : Asked) (status : Nat) (data : List Byte) : State :=
  let s1 := s.setPort k { (s.port k) with asked := (s.port k).asked.erase a }
  match if a.kind = .signal then none else (s1.group a.gid).op? a.id with
  | some o => s1.setOp a.gid ({ o with got := Sparse.setRange none o.got a.pa (data.map some) }.raise
      (status &&& (stPoison + stDerr)))
  | none => s1

/-- What the host's answer to a request brings: nothing where the request was an update, whose old bytes the operation has, and
otherwise the bytes of host memory, which is part of the state (log 3). -/
def State.hostAnswer (s : State) (a : Asked) : List Byte :=
  if ((s.group a.gid).op? a.id).any fun o => (o.answer a.pa a.len).isSome then []
  else Sparse.getRange 0 s.hostMem a.pa a.len

/-- READ_DATA (R287, R359): the bytes of the peer or of the host have come; those of a peer may stay in the read buffer of the
die. -/
def execReadData (k : Nat) (f : Flit) (s : State) : Out :=
  .next (s.arriving k 2 f fun s =>
    match s.askedBy k f false with
    | none => s
    | some a =>
      let status := ofBytes (((flitBody f).drop 4).take 4)
      let data := ((flitBody f).drop 8 ++ List.replicate a.len 0).take a.len
      if k = 16 then s.answered k a 0 (s.hostAnswer a)
      else ({ s with peerMem := Sparse.setRange 0 s.peerMem a.pa data }.bufferPeer (dieOf a.gid) a.pa data).answered k a status
        data)

/-- ACKNOWLEDGEMENT (R359): the peer, or the host, has taken a write or a collective flit. -/
def execAcknowledgement (k : Nat) (f : Flit) (s : State) : Out :=
  .next (s.arriving k 4 f fun s =>
    match s.askedBy k f true with
    | none => s
    | some a => s.answered k a (if a.kind = .coll then 0 else ofBytes (((flitBody f).drop 4).take 4)) [])

/-- The elements that a contribution carries with their poison, of the width that its header names. -/
def collElems (h : Nat) (data : List Byte) : List (Nat × Bool) :=
  match Sys2Proof.Ty.ofCode (field h 6 4) with
  | some t => (List.range (data.length / (t.bytes + 1))).map fun i =>
      let x := (data.drop (i * (t.bytes + 1))).take (t.bytes + 1)
      (ofBytes (x.take t.bytes), decide (ofBytes (x.drop t.bytes) ≠ 0))
  | none => []

/-- COLLECTIVE (R359, R365): elements of a rank's contribution, or the word that it is aborted or lost (log 26). -/
def execCollective (k : Nat) (f : Flit) (s : State) : Out :=
  .next (s.arriving k 5 f fun s =>
    let b := ofBytes ((flitBody f).take 28)
    let c := s.coll (field b 0 16) (field b 16 16) (field b 32 32)
    let rank := field b 64 16
    let h := field b 96 96
    let s1 := s.answer k f 4 0 []
    if s.collOver c.ctx c.group c.no then s1
    else if field b 80 16 = 0 then s1.setColl (c.addPart rank h (field b 192 32) (collElems h ((flitBody f).drop 28)))
    else if field b 80 16 = 4 then s1.setColl (c.lose [rank])
    else s1.setColl (c.abort rank))

/-- IDLE_FLIT (R359). -/
def execIdleFlit (k : Nat) (f : Flit) (s : State) : Out := .next (s.arriving k 0 f id)

/-- BAD_CRC_FLIT (R359): the flit is dropped, and the sender is asked to send from the SEQ that is due. -/
def execBadCrcFlit (k : Nat) (_ : Flit) (s : State) : Out :=
  .next (
    if (s.port k).usable && decide (k < 17) then s.sendFlit k (s.port k).peer 7 (bytesOf 4 (s.port k).seqIn) else s)

/-- Send again every flit kept from a SEQ on; more than 16 replays within 1,100 cycles send the port to training (R362). -/
def State.replay (s : State) (k seq : Nat) : State :=
  let p := s.port k
  let kept := p.sent.dropWhile fun f => decide (f.seq ≠ seq)
  let times := (p.replayTimes ++ [s.clock]).filter fun t => decide (s.clock < t + 1100)
  let p1 := { p with sent := kept, queue := p.queue ++ kept, replays := Nat.min 65535 (p.replays + 1),
                     replayTimes := times }
  let s1 := s.setPort k p1
  if 16 < times.length then
    let s2 := (s1.unroute k).failAsked k
    s2.setPort k { (s2.port k) with state := .training }
  else s1

/-- REPLAY_REQUEST (R359, R362). -/
def execReplayRequest (k : Nat) (f : Flit) (s : State) : Out :=
  .next (s.arriving k 7 f fun s => s.replay k (ofBytes ((flitBody f).take 4)))

end Sys2Proof.Machine
end

