-- ==== Sys2Proof/Machine/Matrix.lean ====
section
/-!
DEFINITION. Matrix instructions, major 0x6C (R224 to R246): their checks at issue, and the sequencer that carries out what
has arrived, with the order of summation of R68 to R73.
-/

namespace Sys2Proof.Machine

/-! ## Status bits (R226) -/

def stInf : Nat := 0x100
def stNan : Nat := 0x200
def stSat : Nat := 0x400
def stShad : Nat := 0x800
def stFuse : Nat := 0x1000
def stType : Nat := 0x2000

/-! ## Issue -/

/-- Fusion mode of the issuing group's quarter. -/
def State.mode (s : State) : Nat := (s.quarter (quarterOf s.cur.gid)).fuse

/-- Bytes of a stationary operand (R231, R234). -/
def statBytes (mode : Nat) (ty : Ty) : Nat :=
  let n := blockK mode ty * blockCols mode * ty.bytes
  if ty = .e4m3 then n + 4 * (blockK mode ty / 128) * (blockCols mode / 128) else n

/-- A matrix operation arrives at the sequencer, and the split goes on (R224, R225, R228). -/
def State.arrive (s : State) (m : MatrixOp) (bk : BarOp) (nominal : Nat) (σ : Stamp) : State :=
  let q := quarterOf s.cur.gid
  let s1 := s.setGrp s.grp.irrevocable
  let o := { s1.newOp .mx (.matrix m) with
    bar := if bk.be then some bk.bar else none, nominal := nominal % 2 ^ 40, stamp := σ }
  let s2 := (s1.addOp o).passGrant o.id
  (s2.setQuarter q { (s2.quarter q) with seq := (s2.quarter q).seq ++ [⟨s.cur.gid, o.id⟩] }).advance 3

/-- No barrier. -/
def noBar : BarOp := ⟨false, 0⟩

/-- The check of a duplication map of n bytes (R230). -/
def mapCheck (spad a n : Nat) : Option Nat := if a % 16 ≠ 0 then some 0x32 else if spad < a + n then some 0x33 else none

/-- MSTAT with its base known: the checks of R230 in order. -/
def State.issueMstat (s : State) (ws : Bool) (b sc : Nat) (bk : BarOp) (ty : Ty) (off : Int) (σ : Stamp) : State :=
  let g := s.grp
  let n := statBytes s.mode ty
  let a := signedOf 64 b + off
  let space := if ws then 2 else 0
  let m := (g.readS sc).toNat
  let out := if ws then decide (a < 0) || (s.readWs (s.grid g.grid).wsmap (dieOf s.cur.gid) a.toNat n).isNone
    else !inside g.decl.spad n a
  if a % 64 ≠ 0 then s.trapEntry 0x32 ⟨2, 0, space, patternOf 52 a⟩
  else if out then s.trapEntry 0x33 ⟨3, 0, space, patternOf 52 a⟩
  else
    match (if sc = 0 then none else mapCheck g.decl.spad m (16 * (blockK s.mode ty / 128))) with
    | some c => s.trapEntry c ⟨c - 0x30, 0, 0, m % 2 ^ 52⟩
    | none => s.arrive (.mstat ty ws a.toNat (if sc = 0 then none else some m)) bk n σ

/-- MSTAT (R230, R233). -/
def execMstat (ws : Bool) (src : StatSrc) (sc : Nat) (bk : BarOp) (ty : Ty) (off : Int) (_ : Nat) (s : State) : Out :=
  let g := s.grp
  .next (
    if s.engineHeld then s.stand
    else
      match src with
      | .base sa => s.issueMstat ws (g.readS sa).toNat sc bk ty off []
      | .ring r sb =>
        if !s.ready (dieOf s.cur.gid) g.groupHorizon then s.stand
        else
          match s.ringBase r ((g.readS sb).toNat % 2 ^ 32) with
          | none => s.trapAll 0x41
          | some b => s.issueMstat ws b sc bk ty off (s.ringStamp r))

/-- The first of count block addresses a, a + d, ... that is no multiple of 256. -/
def firstMisaligned (a d : Int) (count : Nat) : Option Int :=
  if a % 256 ≠ 0 then some a else if d % 256 ≠ 0 ∧ 1 < count then some (a + d) else none

/-- The first of count block addresses a, a + d, ... whose n bytes reach outside the scratchpad. -/
def firstOutside (spad n : Nat) (a d : Int) (count : Nat) : Option Int :=
  let ok := fun (x : Int) => inside spad n x
  let k := if 0 < d then (((spad : Int) - (n : Int) - a) / d + 1).toNat else (a / (-d) + 1).toNat
  if !ok a then some a
  else if d = 0 ∨ count ≤ k then none
  else some (a + (k : Int) * d)

/-- The entry of an unbound handle or a short run (R354). -/
def State.runTrap (s : State) : State := s.trapEntry 0x33 ⟨3, 0, 0, 0⟩

/-- MLOOP (R237, R238): units of power for the quadrants of the block. -/
def execMloop (t : Nat) (back : Bool) (sa sb sc : Nat) (bk : BarOp) (ty : Ty) (_ : Nat) (s : State) : Out :=
  .next (
    if s.engineHeld then s.stand
    else s.touchBank fun s =>
      let g := s.grp
      let count := (g.readS sc).toNat
      let incS := signedOf 32 (g.readS sb).toNat
      let incA := (g.readS sb).toNat / 2 ^ 32
      let a := signedOf 64 (g.readS sa).toNat
      let tiles := outputs s.mode ty back / 32
      let n := blockBytes ty (rowLength s.mode ty back)
      let short := match g.tile t with
        | none => true
        | some r => decide (r.2 < (count - 1) * incA + tiles)
      let go := fun (s : State) =>
        s.arrive (.mloop (g.tile t) back ty a.toNat incS incA count) bk (4096 * tiles * count) []
      if count = 0 then go s
      else if short then s.runTrap
      else
        match firstMisaligned a incS count, firstOutside g.decl.spad n a incS count with
        | some b, _ => s.trapEntry 0x32 ⟨2, 0, 0, patternOf 52 b⟩
        | none, some b => s.trapEntry 0x33 ⟨3, 0, 0, patternOf 52 b⟩
        | none, none => s.withGrant (blockRows s.mode / 256 * (blockCols s.mode / 256)) go)

/-- Bind a handle of the issuing group. -/
def State.bindTile (s : State) (t : Nat) (r : Run) : State := s.setGrp (s.grp.setTile t r)

/-- MZERO (R245). -/
def execMzero (t first count : Nat) (bk : BarOp) (_ : Nat) (s : State) : Out :=
  .next (
    if 1024 < first + count then s.illegal 6
    else if s.engineHeld then s.stand
    else s.touchBank fun s =>
      (s.bindTile t (some (first, count))).arrive (.mzero (some (first, count))) bk (4096 * count) [])

/-- MBIND (R245). -/
def execMbind (t first count : Nat) (_ : Nat) (s : State) : Out :=
  .next (
    if 1024 < first + count then s.illegal 6
    else if s.engineHeld then s.stand
    else s.touchBank fun s =>
      (s.bindTile t (some (first, count))).arrive (.mbind (some (first, count))) noBar 0 [])

/-- MFREE (R245). -/
def execMfree (t : Nat) (_ : Nat) (s : State) : Out :=
  .next (if s.engineHeld then s.stand else s.touchBank fun s => (s.bindTile t none).arrive (.mfree (s.grp.tile t)) noBar 0 [])

/-- MDRAIN (R243): the checks in order, the window form's destination translated at issue. -/
def execMdrain (t : Nat) (win : Option Nat) (sa sb : Nat) (add : Bool) (bk : BarOp) (ty : Ty) (off : Int) (_ : Nat)
    (s : State) : Out :=
  .next (
    if s.engineHeld then s.stand
    else s.touchBank fun s =>
      let g := s.grp
      let o := signedOf 64 (g.readS sa).toNat + off
      let scale := if sb = 0 then 0x3F800000 else (g.readS sb).toNat % 2 ^ 32
      match g.tile t with
      | none => s.runTrap
      | some r =>
        let n := 1024 * r.2 * ty.bytes
        let acc := if add then Access.both else Access.write
        let go := fun (dst : Side) (s : State) => s.arrive (.mdrain (some r) dst o.toNat scale add ty) bk n []
        match win with
        | none =>
          if o % 64 ≠ 0 then s.trapEntry 0x32 ⟨2, accCode acc, 0, patternOf 52 o⟩
          else if !inside g.decl.spad n o then s.trapEntry 0x33 ⟨3, accCode acc, 0, patternOf 52 o⟩
          else go (.spad g.gang) s
        | some w =>
          if o % 64 ≠ 0 then s.trapEntry 0x32 ⟨2, accCode acc, 1, patternOf 52 (((g.window w).base : Int) + o)⟩
          else
            match s.windowSide (g.window w) acc ((List.range (1024 * r.2)).map fun i =>
                (o + ((i * ty.bytes : Nat) : Int), ty.bytes)) with
            | .hold => s.stand
            | .fault c a => s.sideTrap c (accCode acc) 1 a
            | .ok dst ls => go dst (s.cacheAll ls))

/-! ## Rings and status (R242, R246) -/

/-- A ring instruction: a hold until the ring can be changed, then at most one write of it. -/
def ringForm (ring : Nat) (write : State → Option (Nat × List Byte)) (s : State) : Out :=
  .next (
    if !s.accessReady true || !s.ringReady ring then s.stand
    else
      let s1 := s.setGrp s.grp.irrevocable
      (match write s1 with
        | some p => s1.ringPut ring p.1 p.2
        | none => s1).advance 3)

/-- MRINIT (R242). -/
def execMrinit (ring k : Nat) (_ : Nat) (s : State) : Out :=
  ringForm ring (fun _ => some (0, bytesOf ringBytes k)) s

/-- MRPUSH (R242). -/
def execMrpush (ring sa sb : Nat) (_ : Nat) (s : State) : Out :=
  ringForm ring (fun s =>
    let k := s.ringGet ring 0 1
    let g := (s.grp.readS sb).toNat % 2 ^ 32
    if k = 0 then none
    else some (16 + 16 * (g % k), bytesOf 4 1 ++ bytesOf 4 g ++ bytesOf 8 (s.grp.readS sa).toNat)) s

/-- MRREL (R242). -/
def execMrrel (ring sb : Nat) (_ : Nat) (s : State) : Out :=
  ringForm ring (fun s =>
    let g := (s.grp.readS sb).toNat % 2 ^ 32
    if (s.ringBase ring g).isSome then some (16 + 16 * (g % s.ringGet ring 0 1), bytesOf 1 0) else none) s

/-- The bank word of MQSR (R246). -/
def State.bankWord (s : State) : Word64 :=
  let x := s.quarter (quarterOf s.cur.gid)
  let n := if x.owned ∧ x.octx = s.grp.ctx then x.liveTiles.length else 0
  BitVec.ofNat 64 (n % 2 ^ 11 * 2 ^ 32 + s.accownWord.toNat % 2 ^ 17)

/-- The plane word of MQSR (R246). -/
def State.planeWord (s : State) : Word64 :=
  let q := quarterOf s.cur.gid
  let x := s.quarter q
  let nty := match Sparse.get none x.stat s.grp.ctx with
    | some st => st.ty.code
    | none => 15
  BitVec.ofNat 64 (nty * 2 ^ 12 + (if x.leads q then 2 ^ 6 else 0) + x.leadOf q % 4 * 2 ^ 4 + x.fuse % 4)

/-- MQSR (R246). -/
def execMqsr (sd sel : Nat) (_ : Nat) (s : State) : Out :=
  let w : Word64 := if sel = 2 then s.bankWord else if sel = 3 then s.planeWord else s.grp.mxstat.setWidth 64
  let s1 := if sel = 1 then s.setGrp { s.grp with mxstat := 0 } else s
  .next ((s1.putS sd w).advance 3)

/-! ## The stationary operand (R231 to R233) -/

/-- The byte of a stationary source at an offset and the status of its read (R205): POISON where the weight store has none. -/
def State.statSource (s : State) (die : Nat) (st : Stationary) (i : Nat) : Byte × Nat :=
  if st.ws then
    match wsByte st.wsmap die (st.addr + i) with
    | some off => (Sparse.get 0 (s.die die).ws off, 0)
    | none => (0, stPoison)
  else (Sparse.get 0 (s.gang st.gang).spad (st.addr + i), Sparse.get 0 (s.gang st.gang).errs (st.addr + i))

/-- The source offset of byte i of the operand under its map: weight rows are fetched by R75, scales as they stand. -/
def Stationary.sourceOf (st : Stationary) (i : Nat) : Nat :=
  let row := blockCols st.mode * st.ty.bytes
  if i < blockK st.mode st.ty * row then dupSource st.dup (i / row) * row + i % row else i

/-- The bytes of the element that byte i of the operand belongs to: a weight, or a scale of four bytes. -/
def Stationary.elementOf (st : Stationary) (i : Nat) : List Nat :=
  let n := if i < blockK st.mode st.ty * blockCols st.mode * st.ty.bytes then st.ty.bytes else 4
  span (i / n * n) n

/-- Read the operand from its source, with the status of what was read; an element with a status enters as +0 (R226). -/
def State.loadStat (s : State) (die : Nat) (st : Stationary) : Stationary × Nat :=
  let at_ := fun i => s.statSource die st (st.sourceOf i)
  let l := List.range (statBytes st.mode st.ty)
  ({ st with bytes := Sparse.setRange 0 [] 0 (l.map fun i =>
      if (st.elementOf i).all fun k => decide ((at_ k).2 = 0) then (at_ i).1 else 0), stale := false },
   l.foldl (fun x i => x ||| (at_ i).2) 0)

/-- Byte i of the operand for a block of the mode: a free value when it was loaded into another kind of block (log 5). -/
def Stationary.byte (st : Stationary) (fresh mode i : Nat) : Byte :=
  if st.mode = mode then Sparse.get 0 st.bytes i else (Config.freeWord fresh (2 ^ 22 + i)).setWidth 8

/-- n bytes of the operand as a number. -/
def Stationary.num (st : Stationary) (fresh mode i n : Nat) : Nat :=
  ofBytes ((List.range n).map fun k => st.byte fresh mode (i + k))

/-- W[k][c] (R231). -/
def Stationary.weight (st : Stationary) (fresh mode k c : Nat) : XVal :=
  valueOf st.ty (st.num fresh mode ((k * blockCols mode + c) * st.ty.bytes) st.ty.bytes)

/-- sw(j, b) (R231). -/
def Stationary.scale (st : Stationary) (fresh mode j b : Nat) : XVal :=
  Fmt.f32.value (st.num fresh mode (blockK mode st.ty * blockCols mode + 4 * (j * (blockCols mode / 128) + b)) 4)

/-! ## The order of summation (R69 to R73) -/

/-- Round a sum of the array: an exact zero is +0 (R73). -/
def meshRound (x : XVal) : Nat := if x.isZero then 0 else roundTo Fmt.f32 .rne x

/-- One processing element: the incoming partial sum and the exact products, rounded once. -/
def peStep (p : Nat) (prods : List XVal) : Nat := meshRound (prods.foldl XVal.add (Fmt.f32.value p))

/-- One promotion station: the scaled partial sum and the incoming sum, rounded once (R72). -/
def station (p : Nat) (scale : XVal) (promoted : Nat) : Nat :=
  meshRound (XVal.add (sz (Fmt.f32.value p) scale) (Fmt.f32.value promoted))

/-- A rounded scale product. -/
def scaleProduct (a b : XVal) : XVal := Fmt.f32.value (roundTo Fmt.f32 .rne (XVal.mul a b))

/-- What one pass reads: streamed elements and scales of a row, weights and weight scales. -/
structure PassIn where
  el : Nat → XVal
  sa : Nat → XVal
  w : Nat → Nat → XVal
  sw : Nat → Nat → XVal

/-- One forward pass for output column c (R69, R71). -/
def forwardPass (fp8 : Bool) (segments : Nat) (x : PassIn) (c acc : Nat) : Nat :=
  let per := if fp8 then 4 else 2
  let promoted := (List.range segments).foldl (fun pr j =>
    let p := (List.range 32).foldl (fun p k =>
      peStep p ((List.range per).map fun u =>
        let i := per * (32 * j + k) + u
        XVal.mul (x.el i) (x.w i c))) 0
    station p (if fp8 then scaleProduct (x.sa j) (x.sw j (c / 128)) else XVal.one) pr) 0
  meshRound (XVal.add (Fmt.f32.value acc) (Fmt.f32.value promoted))

/-- One backward pass for output K index k (R70, R71). -/
def backwardPass (fp8 : Bool) (segments : Nat) (x : PassIn) (k acc : Nat) : Nat :=
  let promoted := (List.range segments).foldl (fun pr j =>
    let p := (List.range 32).foldl (fun p c =>
      peStep p [XVal.mul (x.el (32 * j + c)) (x.w k (32 * j + c))]) 0
    station p (if fp8 then scaleProduct (x.sa (j / 4)) (x.sw (k / 128) (j / 4)) else XVal.one) pr) 0
  meshRound (XVal.add (Fmt.f32.value acc) (Fmt.f32.value promoted))

/-- Row i of the block at blk against a stationary operand (R235). -/
def State.passIn (s : State) (gang mode : Nat) (st : Stationary) (len blk i : Nat) : PassIn :=
  { el := fun k => valueOf st.ty ((s.gang gang).sound (blk + (i * len + k) * st.ty.bytes) st.ty.bytes)
    sa := fun j => Fmt.f32.value ((s.gang gang).sound (blk + 32 * len + 4 * (i * (len / 128) + j)) 4)
    w := st.weight s.fresh mode
    sw := st.scale s.fresh mode }

/-- One pass for output o of a row. -/
def onePass (mode : Nat) (ty : Ty) (back : Bool) (x : PassIn) (o acc : Nat) : Nat :=
  if back then backwardPass (decide (ty = .e4m3)) (blockCols mode / 32) x o acc
  else forwardPass (decide (ty = .e4m3)) (blockRows mode / 32) x o acc

/-- One step of MLOOP: 32 rows into the tiles from bank tile first on (R237). -/
def State.loopStep (s : State) (gang mode : Nat) (st : Stationary) (ty : Ty) (back : Bool) (blk first : Nat)
    (x : Quarter) : Quarter :=
  (List.range 32).foldl (fun x i =>
    let p := s.passIn gang mode st (rowLength mode ty back) blk i
    (List.range (outputs mode ty back)).foldl (fun x o =>
      let k := first + o / 32
      let e := 32 * i + o % 32
      x.writeTile k e (BitVec.ofNat 32 (onePass mode ty back p o (x.readTile k e).toNat))) x) x

/-! ## The sequencer (R224) -/

/-- Another context's planes have to be read again (R232). -/
def Quarter.staleOthers (x : Quarter) (ctx : Nat) : Quarter :=
  { x with stat := Sparse.mapVals none (fun k v => if k = ctx then v else v.map fun st => { st with stale := true }) x.stat }

/-- INF and NAN of the elements of tiles (R237). -/
def Quarter.special (x : Quarter) (ks : List Nat) : Nat :=
  ks.foldl (fun st k => (x.tile k).foldl (fun st w => st ||| specialBits .f32 w.toNat) st) 0

/-- The status bits of the blocks that an MLOOP streams (R226). -/
def State.blockStatus (s : State) (gang mode : Nat) (ty : Ty) (back : Bool) (addr : Nat) (incS : Int) (count : Nat) : Nat :=
  (List.range count).foldl (fun x (k : Nat) => x |||
    (s.gang gang).spadStatus ((addr : Int) + (k : Int) * incS).toNat (blockBytes ty (rowLength mode ty back))) 0

/-- The operation has been carried out with a status: it lands n bytes, and completes once its writes are done. -/
def State.executed (s : State) (gid : Nat) (o : Op) (st n : Nat) (writes : List Pending) : State :=
  s.landed gid ({ o with begun := true, writes := writes }.raise st) n []

/-- MSTAT carried out (R232, R233, R240). -/
def State.doMstat (s : State) (gid : Nat) (o : Op) (ty : Ty) (ws : Bool) (addr : Nat) (map : Option Nat) : State :=
  let q := quarterOf gid
  let g := s.group gid
  let x := (s.quarter q).staleOthers g.ctx
  let s1 := s.setQuarter q x
  let n := blockK x.fuse ty / 128
  let recs := match map with
    | some m => (List.range n).map fun j => (s.gang g.gang).sound (m + 16 * j) 16
    | none => []
  let bad := match map with
    | some m => (s.gang g.gang).spadStatus m (16 * n)
    | none => 0
  if !x.leads q || (decide (x.fuse ≠ 0) && !ws) then s1.executed gid o stFuse 0 []
  else if recs.any dupBad then s1.executed gid o stIllf 0 []
  else
    let r := s.loadStat (dieOf gid) ⟨x.fuse, ty, ws, g.gang, addr, recs, (s.grid g.grid).wsmap, [], false⟩
    (s1.setQuarter q { x with stat := Sparse.set none x.stat g.ctx (some r.1) }).executed gid o (bad ||| r.2) o.nominal []

/-- MLOOP carried out (R226, R232, R237, R240). -/
def State.doMloop (s : State) (gid : Nat) (o : Op) (t : Run) (back : Bool) (ty : Ty) (addr : Nat) (incS : Int)
    (incA count : Nat) : State :=
  let q := quarterOf gid
  let g := s.group gid
  let x := (s.quarter q).staleOthers g.ctx
  let st := Sparse.get none x.stat g.ctx
  let bad := (if x.leads q then 0 else stFuse) + (if st.isNone then stShad else 0) +
    (match st with
      | some y => if y.ty = ty then 0 else stType
      | none => 0)
  match st, t with
  | some y, some run =>
    if count = 0 then (s.setQuarter q x).executed gid o 0 0 []
    else if bad ≠ 0 then (s.setQuarter q x).executed gid o bad 0 []
    else
      let r := if y.stale then s.loadStat (dieOf gid) y else (y, 0)
      let x1 := { x with stat := Sparse.set none x.stat g.ctx (some r.1) }
      let x2 := (List.range count).foldl (fun z (k : Nat) =>
        s.loopStep g.gang x.fuse r.1 ty back ((addr : Int) + (k : Int) * incS).toNat (run.1 + k * incA) z) x1
      let ks := (List.range count).flatMap fun k => span (run.1 + k * incA) (outputs x.fuse ty back / 32)
      (s.setQuarter q x2).executed gid o
        (r.2 ||| s.blockStatus g.gang x.fuse ty back addr incS count ||| x2.special ks) o.nominal []
  | _, _ => (s.setQuarter q x).executed gid o (if count = 0 then 0 else bad) 0 []

/-- MDRAIN's element p times the scale, exactly (R243). -/
def drained (scale : Nat) (w : Word32) : XVal := XVal.mul (Fmt.f32.value w.toNat) (Fmt.f32.value scale)

/-- Does a rounding into E4M3 clamp the value to 448 (R226)? -/
def clamps (x : XVal) : Bool := x.isInf || XVal.lt (.fin false 464 1) x.abs

/-- The prepared writes of a plain drain, and the status they give. -/
def drainWrites (dst : Side) (addr scale : Nat) (ty : Ty) (ws : List Word32) : List Pending × Nat :=
  let els := ws.zipIdx.map fun w =>
    let p := drained scale w.1
    (roundTo (fmtOf ty) .rne p, w.2, decide (ty = .e4m3) && clamps p)
  (els.map fun e => ⟨sidePlace dst (addr + e.2.1 * ty.bytes), bytesOf ty.bytes e.1, false, [], ty⟩,
   els.foldl (fun st e => st ||| specialBits ty e.1 ||| (if e.2.2 then stSat else 0)) 0)

/-- The prepared updates of an add-on-store, one for each tile. -/
def drainAdds (dst : Side) (addr scale : Nat) (ty : Ty) (tiles : List (List Word32)) : List Pending :=
  tiles.zipIdx.map fun t =>
    let at_ := fun i => sidePlace dst (addr + (1024 * t.2 + i) * ty.bytes)
    ⟨at_ 0, [], false, t.1.zipIdx.map fun w => (at_ w.2, roundTo Fmt.f32 .rne (drained scale w.1)), ty⟩

/-- MDRAIN carried out: the tiles are read and the writes stand ready (R243, R244). -/
def State.doMdrain (s : State) (gid : Nat) (o : Op) (t : Run) (dst : Side) (addr scale : Nat) (add : Bool) (ty : Ty) :
    State :=
  let tiles := (runTiles t).map (s.quarter (quarterOf gid)).tile
  if add then s.executed gid o 0 0 (drainAdds dst addr scale ty tiles)
  else
    let r := drainWrites dst addr scale ty tiles.flatten
    s.executed gid o r.2 0 r.1

/-- What a matrix operation reads from the scratchpad when it is carried out. -/
def State.matrixReads (s : State) (gid : Nat) : MatrixOp → List (Place × Nat)
  | .mstat ty ws addr map =>
    let k := (s.group gid).gang
    let mode := (s.quarter (quarterOf gid)).fuse
    (if ws then [] else [(.spad k addr, statBytes mode ty)]) ++
    (match map with
      | some m => [(.spad k m, 16 * (blockK mode ty / 128))]
      | none => [])
  | .mloop _ back ty addr incS _ count =>
    (List.range count).map fun (j : Nat) =>
      (.spad (s.group gid).gang ((addr : Int) + (j : Int) * incS).toNat,
       blockBytes ty (rowLength (s.quarter (quarterOf gid)).fuse ty back))
  | _ => []

/-- Carry out a matrix operation. -/
def State.doMatrix (s : State) (gid : Nat) (o : Op) (m : MatrixOp) : State :=
  let q := quarterOf gid
  let x := s.quarter q
  match m with
  | .mstat ty ws addr map => s.doMstat gid o ty ws addr map
  | .mloop t back ty addr incS incA count => s.doMloop gid o t back ty addr incS incA count
  | .mzero t =>
    (s.setQuarter q ((runTiles t).foldl (fun x k => (x.clearTile k).setLive k true) x)).executed gid o 0 o.nominal []
  | .mdrain t dst addr scale add ty => s.doMdrain gid o t dst addr scale add ty
  | .mbind t => (s.setQuarter q ((runTiles t).foldl (fun x k => x.setLive k true) x)).executed gid o 0 0 []
  | .mfree t => (s.setQuarter q ((runTiles t).foldl (Quarter.freeTile s.fresh) x)).executed gid o 0 0 []

/-- The waiting operations that may go first: the oldest of each group (R224, log 28). -/
def firstOfGroups : List OpRef → List OpRef
  | [] => []
  | r :: l => r :: (firstOfGroups l).filter fun x => decide (x.gid ≠ r.gid)

/-- Does a drain that the sequencer of the quarter carries out still write (R224)? -/
def State.draining (s : State) (q : Nat) : Bool :=
  s.groups.any fun p => decide (quarterOf p.1 = q) && p.2.ops.any fun o => o.cls == .mx && !o.done && decide (o.writes ≠ [])

/-- MATRIX_OPERATION_EXECUTE (R224): the sequencer carries out one whole operation, once the writes of the one before are made. -/
def execMatrixOperationExecute (q : Nat) (s : State) : Out :=
  let x := s.quarter q
  let waiting := firstOfGroups x.seq
  .next (
    match waiting[s.pick waiting.length]? with
    | none => s
    | some r =>
      let rest := s.setQuarter q { x with seq := x.seq.erase r }
      match (s.group r.gid).op? r.id with
      | none => rest
      | some o =>
        match o.kind with
        | .matrix m =>
          if s.clockStopped || s.draining q || !s.hasPower r.gid o || (s.matrixReads r.gid m).any fun p => (s.group r.gid).blocked opTouches o p.1 p.2 then s
          else rest.doMatrix r.gid o m
        | _ => rest)

end Sys2Proof.Machine
end

