-- ==== Sys2Proof/Machine/Factor.lean ====
section
/-!
DEFINITION. Factor instructions, major 0x74 (R253 to R270): their checks at issue, and the rotation sweeper that carries
out what has reached it.
-/

namespace Sys2Proof.Machine

/-! ## Status and fault word (R259, R260) -/

def stFdef : Nat := 0x8000
def stFstate : Nat := 0x4000

/-- Minor of a factor operation (R261). -/
def FactorOp.minor : FactorOp → Nat
  | .finit => 0
  | .fupd _ => 1
  | .fdown _ => 2
  | .fsolve _ _ _ => 3
  | .flogdet _ => 4
  | .fdrain _ => 5
  | .fload _ => 6
  | .ffree => 7

/-- The fault word of a failed operation (R260). -/
def faultOf (row minor slot handle kind : Nat) : Word64 :=
  BitVec.ofNat 64 (row % 256 * 2 ^ 40 + minor % 32 * 2 ^ 27 + slot % 8 * 2 ^ 24 + handle % 4 * 2 ^ 22 + kind % 4 * 2 ^ 20)

/-! ## Issue (R258) -/

/-- A factor operation reaches the sweeper, and the split goes on. -/
def State.reachSweeper (s : State) (f slot n : Nat) (x : FactorOp) (dests : List RegId) : State :=
  let q := quarterOf s.cur.gid
  let s1 := s.setGrp s.grp.irrevocable
  let o := { s1.newOp .fx (.factor f slot n x) with dests := dests }
  let s2 := (s1.addOp o).passGrant o.id
  (s2.setQuarter q { (s2.quarter q) with sweep := (s2.quarter q).sweep ++ [⟨s.cur.gid, o.id⟩] }).advance 3

/-- The registers of a vector of n elements from va on (R262). -/
def vectorRegs (va n : Nat) : List Nat := span va ((n + 31) / 32)

/-- The elements of a vector (R262). -/
def Group.vector (g : Group) (va n : Nat) : List Nat :=
  (List.range n).map fun i => (g.readV (va + i / 32) (i % 32)).toNat

/-- Reading the vector drops its tangents (R262). -/
def Group.dropVector (g : Group) (va n : Nat) : Group :=
  (List.range n).foldl (fun acc i => acc.tlostIf (g.anyTan [va + i / 32] (i % 32)) (i % 32)) g

/-- The dimension that the operand limits take: of the handle, or 1 (R261). -/
def Group.fdim (g : Group) (f : Nat) : Nat :=
  match g.factor f with
  | some b => b.2
  | none => 1

/-- Go on with the slot and dimension of a bound handle; the trap of an unbound one (R258). -/
def State.withFactor (s : State) (f : Nat) (k : Nat → Nat → State → State) : State :=
  if s.engineHeld then s.stand
  else
    match s.grp.factor f with
    | none => s.runTrap
    | some b => k b.1 b.2 s

/-- FINIT (R263): an n of 0 or above 128 is detail 6 (R52). -/
def execFinit (f slot n : Nat) (_ : Nat) (s : State) : Out :=
  .next (
    if n = 0 ∨ 128 < n then s.illegal 6
    else if s.engineHeld then s.stand
    else (s.setGrp (s.grp.setFactor f (some (slot, n)))).reachSweeper f slot n .finit [])

/-- FUPD and FDOWN (R264, R265): the vector is read at issue, after a power grant. -/
def absorb (down : Bool) (f va : Nat) (s : State) : Out :=
  s.guardRegs (vectorRegs va (s.grp.fdim f)) fun s =>
    s.withFactor f fun slot n s =>
      s.withGrant 1 fun s =>
        let x := s.grp.vector va n
        (s.setGrp (s.grp.dropVector va n)).reachSweeper f slot n (if down then .fdown x else .fupd x) []

/-- FUPD (R264). -/
def execFupd (f va : Nat) (_ : Nat) (s : State) : Out := absorb false f va s

/-- FDOWN (R265). -/
def execFdown (f va : Nat) (_ : Nat) (s : State) : Out := absorb true f va s

/-- FSOLVE (R267). -/
def execFsolve (f va : Nat) (tr : Bool) (_ : Nat) (s : State) : Out :=
  s.guardRegs (vectorRegs va (s.grp.fdim f)) fun s =>
    s.withFactor f fun slot n s =>
      let x := s.grp.vector va n
      (s.setGrp (s.grp.dropVector va n)).reachSweeper f slot n (.fsolve va x tr) ((vectorRegs va n).map RegId.v)

/-- FLOGDET (R268). -/
def execFlogdet (f sd : Nat) (_ : Nat) (s : State) : Out :=
  .next (s.withFactor f fun slot n s => s.reachSweeper f slot n (.flogdet sd) (if sd = 0 then [] else [.s sd]))

/-- Bytes of a packed image (R256). -/
def imageBytes (n : Nat) : Nat := 2 * n * (n + 1)

/-- FDRAIN and FLOAD at their address (R258, R269). -/
def State.imageForm (s : State) (f sa : Nat) (off : Int) (acc : Nat) (x : Nat → FactorOp) : State :=
  s.withFactor f fun slot n s =>
    let a := signedOf 64 (s.grp.readS sa).toNat + off
    if a % 16 ≠ 0 then s.trapEntry 0x32 ⟨2, acc, 0, patternOf 52 a⟩
    else if !inside s.grp.decl.spad (imageBytes n) a then s.trapEntry 0x33 ⟨3, acc, 0, patternOf 52 a⟩
    else s.reachSweeper f slot n (x a.toNat) []

/-- FDRAIN (R269). -/
def execFdrain (f sa : Nat) (off : Int) (_ : Nat) (s : State) : Out := .next (s.imageForm f sa off 1 .fdrain)

/-- FLOAD (R269). -/
def execFload (f sa : Nat) (off : Int) (_ : Nat) (s : State) : Out := .next (s.imageForm f sa off 0 .fload)

/-- FFREE (R270). -/
def execFfree (f : Nat) (_ : Nat) (s : State) : Out :=
  .next (s.withFactor f fun slot n s => (s.setGrp (s.grp.setFactor f none)).reachSweeper f slot n .ffree [])

/-! ## The sweep (R264 to R266) -/

/-- Is the pattern an infinity or a NaN? -/
def nonFinite (x : Nat) : Bool := !(Fmt.f32.value x).isFinite

/-- A working copy: the tile by 128 k + j, the vector, and the row and kind of a failure. -/
structure Sweep where
  u : Sparse Word32
  x : List Nat
  fail : Option (Nat × Nat)
  deriving DecidableEq, Repr

def Sweep.at (w : Sweep) (k j : Nat) : Nat := (Sparse.get 0 w.u (128 * k + j)).toNat
def Sweep.put (w : Sweep) (k j v : Nat) : Sweep := { w with u := Sparse.set 0 w.u (128 * k + j) (BitVec.ofNat 32 v) }

/-- The margin test (R265). -/
def marginOk (u x : XVal) : Bool :=
  XVal.lt XVal.zero u &&
  XVal.le (XVal.mul (.fin false 1 (2 ^ 20)) (XVal.mul u u)) (XVal.sub (XVal.mul u u) (XVal.mul x x))

/-- A tile element that a sweep forms: no zero of it is negative, one that it rounds to included (R264; log 68). -/
def tileRound (x : XVal) : Nat :=
  let r := meshRound x
  if r = 2 ^ 31 then 0 else r

/-- The columns right of the diagonal in row k: the two rotated elements, with one rounding each. -/
def Sweep.rotate (down : Bool) (k n c s : Nat) (w : Sweep) : Sweep :=
  let v := Fmt.f32.value
  (List.range (n - (k + 1))).foldl (fun w i =>
    let j := k + 1 + i
    let old := v (w.at k j)
    let xj := v (w.x.getD j 0)
    let sx := XVal.mul (v s) xj
    let t := tileRound (XVal.add (XVal.mul (v c) old) (if down then sx.neg else sx))
    let y := meshRound (XVal.sub (XVal.mul (v c) xj) (XVal.mul (v s) old))
    let w1 := { (w.put k j t) with x := w.x.set j y }
    if (nonFinite t || nonFinite y) && w1.fail.isNone then { w1 with fail := some (k, 2) } else w1) w

/-- Row k of a sweep. -/
def Sweep.row (down : Bool) (n : Nat) (w : Sweep) (k : Nat) : Sweep :=
  if w.fail.isSome then w
  else
    let v := Fmt.f32.value
    let u := v (w.at k k)
    let xk := v (w.x.getD k 0)
    if down && !marginOk u xk then { w with fail := some (k, 1) }
    else
      let sq := XVal.mul xk xk
      let r := meshRound (XVal.sqrt (XVal.add (XVal.mul u u) (if down then sq.neg else sq)))
      let flat := !down && decide (r = 0)
      let c := if flat then 0x3F800000 else meshRound (XVal.div u (v r))
      let s := if flat then 0 else meshRound (XVal.div xk (v r))
      if nonFinite r || nonFinite c || nonFinite s then { w with fail := some (k, 2) }
      else (w.put k k r).rotate down k n c s

/-- The whole sweep over a tile. -/
def sweep (down : Bool) (n : Nat) (u : Sparse Word32) (x : List Nat) : Sweep :=
  if x.any nonFinite then ⟨u, x, some (0, 2)⟩ else (List.range n).foldl (Sweep.row down n) ⟨u, x, none⟩

/-! ## Solving and reading out (R267 to R269) -/

/-- Element of a tile as a value. -/
def uVal (u : Sparse Word32) (k j : Nat) : XVal := Fmt.f32.value (Sparse.get 0 u (128 * k + j)).toNat

/-- One element of a solution: the exact expression, rounded once. -/
def solveOne (b d : XVal) (terms : List (XVal × Nat)) : Nat :=
  meshRound (XVal.div (terms.foldl (fun a t => XVal.sub a (XVal.mul t.1 (Fmt.f32.value t.2))) b) d)

/-- The solution of U x = b, or of the transposed system. -/
def solve (tr : Bool) (n : Nat) (u : Sparse Word32) (b : List Nat) : List Nat :=
  let order := if tr then List.range n else (List.range n).reverse
  order.foldl (fun x k =>
    let js := if tr then List.range k else (List.range (n - (k + 1))).map (k + 1 + ·)
    let terms := js.map fun j => (if tr then uVal u j k else uVal u k j, x.getD j 0)
    x.set k (solveOne (Fmt.f32.value (b.getD k 0)) (uVal u k k) terms)) b

/-- Product of the magnitudes of the diagonal. -/
def diagProduct (n : Nat) (u : Sparse Word32) : Nat × Nat :=
  (List.range n).foldl (fun p k => match uVal u k k with
    | .fin _ a d => (p.1 * a, p.2 * d)
    | _ => p) (1, 1)

/-- The log-determinant as F32 bits (R268). -/
def logDet (n : Nat) (u : Sparse Word32) : Nat :=
  let p := diagProduct n u
  if p.1 = 0 then Fmt.f32.infBits + Fmt.f32.signBit else lnRound Fmt.f32 2 p.1 p.2

/-- The stored elements of a tile in image order: row, column and the byte of the element (R256). -/
def imageOrder (n : Nat) : List ((Nat × Nat) × Nat) :=
  ((List.range n).flatMap fun k => (List.range (n - k)).map fun i => (k, k + i)).zipIdx.map fun p => (p.1, 4 * p.2)

/-! ## The sweeper (R255, R257, R258) -/

/-- Does the slot belong to the band of the group (R255)? -/
def FactorSlot.ownedBy (x : FactorSlot) (g : Group) : Bool :=
  decide (x.grid = g.grid) && decide (x.span = g.pos.spanIdx) && decide (x.band = g.pos.bandIdx)

def Quarter.slot (x : Quarter) (k : Nat) : FactorSlot := Sparse.get FactorSlot.free x.slots k
def Quarter.setSlot (x : Quarter) (k : Nat) (y : FactorSlot) : Quarter :=
  { x with slots := Sparse.set FactorSlot.free x.slots k y }

/-- The operation has been carried out. -/
def State.swept (s : State) (gid : Nat) (o : Op) (st : Nat) (fault : Option Word64) (writes : List Pending)
    (results : List (RegId × Nat × Nat)) : State :=
  s.setOp gid ({ o with begun := true, fault := fault, writes := writes, results := results }.raise st)

/-- A transactional operation ends: the new tile, or the failure (R266). -/
def State.commitTile (s : State) (gid : Nat) (o : Op) (f slot minor : Nat) (y : FactorSlot) (u : Sparse Word32)
    (fail : Option (Nat × Nat)) : State :=
  match fail with
  | some e => s.swept gid o stFdef (some (faultOf e.1 minor slot f e.2)) [] []
  | none =>
    let q := quarterOf gid
    (s.setQuarter q ((s.quarter q).setSlot slot { y with u := u })).swept gid o 0 none [] []

/-- FLOAD's elements from the scratchpad. -/
def State.loadImage (s : State) (gang addr n : Nat) : Sparse Word32 :=
  (imageOrder n).foldl (fun u p =>
    Sparse.set 0 u (128 * p.1.1 + p.1.2) (BitVec.ofNat 32 (s.readSpad gang (addr + p.2) 4))) []

/-- An operation on a slot that is live, of the group's band and of the handle's dimension. -/
def State.factorOn (s : State) (gid : Nat) (o : Op) (f slot n : Nat) (x : FactorOp) (y : FactorSlot) : State :=
  let g := s.group gid
  let q := quarterOf gid
  match x with
  | .finit => s
  | .fupd v =>
    let w := sweep false n y.u v
    s.commitTile gid o f slot 1 y w.u w.fail
  | .fdown v =>
    let w := sweep true n y.u v
    s.commitTile gid o f slot 2 y w.u w.fail
  | .fsolve va b tr =>
    let r := solve tr n y.u b
    s.swept gid o (r.foldl (fun st e => st ||| specialBits .f32 e) 0) none []
      (r.zipIdx.map fun e => (.v (va + e.2 / 32), e.2 % 32, e.1))
  | .flogdet sd =>
    let r := logDet n y.u
    s.swept gid o (specialBits .f32 r) none [] [(.s sd, 0, r)]
  | .fdrain addr =>
    s.swept gid o 0 none ((imageOrder n).map fun p =>
      ⟨.spad g.gang (addr + p.2), bytesOf 4 (Sparse.get 0 y.u (128 * p.1.1 + p.1.2)).toNat, false, [], .f32⟩) []
  | .fload addr =>
    let u := s.loadImage g.gang addr n
    let st := (s.gang g.gang).spadStatus addr (imageBytes n)
    s.commitTile gid (o.raise st) f slot 6 y u
      (if st ≠ 0 then some (0, 3) else if u.any fun e => nonFinite e.2.toNat then some (0, 2) else none)
  | .ffree => (s.setQuarter q ((s.quarter q).setSlot slot FactorSlot.free)).swept gid o 0 none [] []

/-- Carry out a factor operation (R255, R257, R259, R263). -/
def State.doFactor (s : State) (gid : Nat) (o : Op) (f slot n : Nat) (x : FactorOp) : State :=
  let g := s.group gid
  let q := quarterOf gid
  let y := (s.quarter q).slot slot
  match x with
  | .finit =>
    if y.live && !y.ownedBy g then s.swept gid o stFstate none [] []
    else
      (s.setQuarter q ((s.quarter q).setSlot slot ⟨true, n, g.grid, g.pos.spanIdx, g.pos.bandIdx, []⟩)).swept
        gid o 0 none [] []
  | _ =>
    if y.live && y.ownedBy g && decide (y.n = n) then s.factorOn gid o f slot n x y
    else
      s.swept gid o stFstate none [] (match x with
        | .flogdet sd => [(.s sd, 0, Fmt.f32.canonicalNaN)]
        | _ => [])

/-- The image in scratchpad that a factor operation reads or writes. -/
def factorImage (gang n : Nat) : FactorOp → List (Place × Nat)
  | .fload addr => [(.spad gang addr, imageBytes n)]
  | .fdrain addr => [(.spad gang addr, imageBytes n)]
  | _ => []

/-- What a factor operation reads from the scratchpad when it is carried out. -/
def factorReads (gang n : Nat) : FactorOp → List (Place × Nat)
  | .fload addr => [(.spad gang addr, imageBytes n)]
  | _ => []

/-- Has a factor operation that was carried out before still to write bytes there? To each other factor operations are one step
each (R258). -/
def State.drains (s : State) (gang : Nat) (p : Place) (n : Nat) : Bool :=
  s.groups.any fun g => decide (g.2.gang = gang) && g.2.ops.any fun o =>
    o.cls == .fx && !o.done && (o.writes.flatMap Pending.spots).any fun t => overlaps t.1 t.2 p n

/-- FACTOR_OPERATION_EXECUTE (R258): the sweeper carries out one operation as one step. -/
def execFactorOperationExecute (q : Nat) (s : State) : Out :=
  let x := s.quarter q
  let waiting := firstOfGroups x.sweep
  .next (
    match waiting[s.pick waiting.length]? with
    | none => s
    | some r =>
      let rest := s.setQuarter q { x with sweep := x.sweep.erase r }
      match (s.group r.gid).op? r.id with
      | none => rest
      | some o =>
        match o.kind with
        | .factor f slot n y =>
          let gang := (s.group r.gid).gang
          if s.clockStopped || !s.hasPower r.gid o || ((factorReads gang n y).any fun p => (s.group r.gid).blocked opTouches o p.1 p.2) ||
              (factorImage gang n y).any (fun p => s.drains gang p.1 p.2) then s
          else rest.doFactor r.gid o f slot n y
        | _ => rest)

end Sys2Proof.Machine
end

