-- ==== Sys2Proof/Machine/Image.lean ====
section
/-!
DEFINITION. Kernel images (R313 to R318): reading one from a context's memory, the checks that its load makes, and what
the load keeps.
-/

namespace Sys2Proof.Machine

/-! ## Context memory as the units of a die see it; the dispatcher and Umber act on die 0 -/

/-- The leaf of a virtual address of a context, where the page is present and allows the access. -/
def State.leafAt (s : State) (die ctx va : Nat) (acc : Access) : Option TlbEntry :=
  match s.find (4 * die) ctx va [] with
  | .leaf e => if leafAllows acc true e then some e else none
  | _ => none

/-- The physical pieces of n bytes from a virtual address on, page by page. -/
def State.virtPieces (s : State) (die ctx : Nat) (acc : Access) : Nat → Nat → Nat → Option (List (Nat × Nat))
  | 0, _, _ => some []
  | fuel + 1, va, n =>
    if n = 0 then some []
    else
      let k := Nat.min n (65536 - va % 65536)
      match s.leafAt die ctx va acc, s.virtPieces die ctx acc fuel (va + k) (n - k) with
      | some e, some l => some ((e.frame + (va - e.va), k) :: l)
      | _, _ => none

/-- Does every byte of a range stand in the context's code heap: device memory that it may read and execute and not write? -/
def State.inHeap (s : State) (ctx : Nat) : Nat → Nat → Nat → Bool
  | 0, _, _ => true
  | fuel + 1, va, n =>
    if n = 0 then true
    else
      let k := Nat.min n (65536 - va % 65536)
      (match s.leafAt 0 ctx va .fetch with
        | some e => e.rd && !e.wr && (match physKind (e.frame + (va - e.va)) with
            | .hbm _ => true
            | _ => false)
        | none => false) && s.inHeap ctx fuel (va + k) (n - k)

/-- Is every byte of a range mapped for the access? -/
def State.mapped (s : State) (ctx : Nat) (acc : Access) (va n : Nat) : Bool :=
  (s.virtPieces 0 ctx acc (n / 65536 + 2) va n).isSome

/-- A mapped range, read for a die by what carries a stamp. -/
def State.readGot (s : State) (die ctx : Nat) (carry : Stamp) (va n : Nat) : Option Got :=
  (s.virtPieces die ctx .read (n / 65536 + 2) va n).map fun l =>
    let gots := l.map fun p => s.readPhys die carry p.1 p.2
    ⟨gots.flatMap Got.bytes, Stamp.maxAll (gots.map Got.stamp), gots.foldl (fun st x => st ||| x.status) 0⟩

/-- The bytes of a mapped range, read for a die, with the status of the read. -/
def State.readFrom (s : State) (die ctx va n : Nat) : Option (List Byte × Nat) :=
  (s.readGot die ctx [] va n).map fun g => (g.bytes, g.status)

/-- The bytes of a mapped range. -/
def State.readMapped (s : State) (ctx va n : Nat) : Option (List Byte) := (s.readFrom 0 ctx va n).map Prod.fst

/-- A die writes bytes over a mapped range, by what carries a stamp; nothing where it is not mapped. The stamp counts every piece. -/
def State.writeFrom (s : State) (die ctx va : Nat) (bytes : List Byte) (carry : Stamp := []) : State × Stamp :=
  match s.virtPieces die ctx .write (bytes.length / 65536 + 2) va bytes.length with
  | none => (s, [])
  | some l =>
    let r := l.foldl (fun (x : (State × Stamp) × List Byte) p =>
      let w := x.1.1.writePhys die p.1 (x.2.take p.2) carry false
      ((w.1, Stamp.max x.1.2 w.2.1), x.2.drop p.2)) ((s, []), bytes)
    r.1

/-- The same for die 0. -/
def State.writeMapped (s : State) (ctx va : Nat) (bytes : List Byte) : State × Stamp := s.writeFrom 0 ctx va bytes

/-! ## Instructions -/

/-- The barrier that an instruction names (R215). -/
def namesBar : Instr → Option Nat
  | .cpy _ bk _ => if bk.be then some bk.bar else none
  | .isect _ _ _ bk _ => if bk.be then some bk.bar else none
  | .visq _ _ _ bk _ => if bk.be then some bk.bar else none
  | .coll _ _ _ _ bar _ _ => some bar
  | .binit bar _ _ => some bar
  | .expect bar _ _ => some bar
  | .arrive _ bar _ _ _ => some bar
  | .waitb _ bar _ _ _ => some bar
  | .testb _ bar _ => some bar
  | .mstat _ _ _ bk _ _ _ => if bk.be then some bk.bar else none
  | .mloop _ _ _ _ _ bk _ _ => if bk.be then some bk.bar else none
  | .mzero _ _ _ bk _ => if bk.be then some bk.bar else none
  | .mdrain _ _ _ _ _ bk _ _ _ => if bk.be then some bk.bar else none
  | _ => none

/-- Does the instruction write s63 into a scalar destination? The calls, which also write it, are excluded anyway. -/
def writesLink : Instr → Bool
  | .spawn sd _ _ _ => decide (sd = 63)
  | .mpop sd _ _ => decide (sd = 63)
  | .mfirst sd _ _ => decide (sd = 63)
  | .ballot sd _ _ => decide (sd = 63)
  | .vany sd _ _ => decide (sd = 63)
  | .vall sd _ _ => decide (sd = 63)
  | .msave sd _ _ => decide (sd = 63)
  | .sadd sd _ _ _ => decide (sd = 63)
  | .ssub sd _ _ _ => decide (sd = 63)
  | .smul sd _ _ _ => decide (sd = 63)
  | .smulh sd _ _ _ => decide (sd = 63)
  | .sdiv sd _ _ _ => decide (sd = 63)
  | .sdivu sd _ _ _ => decide (sd = 63)
  | .srem sd _ _ _ => decide (sd = 63)
  | .sremu sd _ _ _ => decide (sd = 63)
  | .sand sd _ _ _ => decide (sd = 63)
  | .sor sd _ _ _ => decide (sd = 63)
  | .sxor sd _ _ _ => decide (sd = 63)
  | .sandn sd _ _ _ => decide (sd = 63)
  | .sshl sd _ _ _ => decide (sd = 63)
  | .sshr sd _ _ _ => decide (sd = 63)
  | .ssra sd _ _ _ => decide (sd = 63)
  | .srot sd _ _ _ => decide (sd = 63)
  | .smin sd _ _ _ => decide (sd = 63)
  | .smax sd _ _ _ => decide (sd = 63)
  | .sminu sd _ _ _ => decide (sd = 63)
  | .smaxu sd _ _ _ => decide (sd = 63)
  | .smov sd _ _ => decide (sd = 63)
  | .sseq sd _ _ _ => decide (sd = 63)
  | .sslt sd _ _ _ => decide (sd = 63)
  | .ssltu sd _ _ _ => decide (sd = 63)
  | .sbfx sd _ _ _ => decide (sd = 63)
  | .sbfi sd _ _ _ => decide (sd = 63)
  | .sclz sd _ _ => decide (sd = 63)
  | .sctz sd _ _ => decide (sd = 63)
  | .spop sd _ _ => decide (sd = 63)
  | .sbrev sd _ _ => decide (sd = 63)
  | .saddImm sd _ _ _ => decide (sd = 63)
  | .ssubImm sd _ _ _ => decide (sd = 63)
  | .smulImm sd _ _ _ => decide (sd = 63)
  | .smulhImm sd _ _ _ => decide (sd = 63)
  | .sdivImm sd _ _ _ => decide (sd = 63)
  | .sdivuImm sd _ _ _ => decide (sd = 63)
  | .sremImm sd _ _ _ => decide (sd = 63)
  | .sremuImm sd _ _ _ => decide (sd = 63)
  | .sandImm sd _ _ _ => decide (sd = 63)
  | .sorImm sd _ _ _ => decide (sd = 63)
  | .sxorImm sd _ _ _ => decide (sd = 63)
  | .sandnImm sd _ _ _ => decide (sd = 63)
  | .sshlImm sd _ _ _ => decide (sd = 63)
  | .sshrImm sd _ _ _ => decide (sd = 63)
  | .ssraImm sd _ _ _ => decide (sd = 63)
  | .srotImm sd _ _ _ => decide (sd = 63)
  | .sminImm sd _ _ _ => decide (sd = 63)
  | .smaxImm sd _ _ _ => decide (sd = 63)
  | .sminuImm sd _ _ _ => decide (sd = 63)
  | .smaxuImm sd _ _ _ => decide (sd = 63)
  | .smovImm sd _ _ => decide (sd = 63)
  | .sseqImm sd _ _ _ => decide (sd = 63)
  | .ssltImm sd _ _ _ => decide (sd = 63)
  | .ssltuImm sd _ _ _ => decide (sd = 63)
  | .sbfxImm sd _ _ _ => decide (sd = 63)
  | .sbfiImm sd _ _ _ => decide (sd = 63)
  | .sld sd _ _ _ _ => decide (sd = 63)
  | .arrive sd _ _ _ _ => decide (sd = 63)
  | .waitb sd _ _ _ _ => decide (sd = 63)
  | .testb sd _ _ => decide (sd = 63)
  | .mqsr sd _ _ => decide (sd = 63)
  | .flogdet _ sd _ => decide (sd = 63)
  | .srd vx reg _ _ => !vx && decide (reg = 63)
  | _ => false

/-- Instructions that no recipe contains (R30). -/
def notInRecipe : Instr → Bool
  | .cpy _ _ _ => true
  | .gath _ _ _ _ _ _ => true
  | .scat _ _ _ _ _ _ => true
  | .pld _ _ _ _ _ _ => true
  | .pst _ _ _ _ _ _ => true
  | .red _ _ _ _ _ _ _ _ _ => true
  | .amg _ _ _ _ _ _ _ _ _ => true
  | .tex _ _ _ _ _ => true
  | .texg _ _ _ _ _ => true
  | .isect _ _ _ _ _ => true
  | .visq _ _ _ _ _ => true
  | .coll _ _ _ _ _ _ _ => true
  | .mstat _ _ _ _ _ _ _ => true
  | .mloop _ _ _ _ _ _ _ _ => true
  | .mzero _ _ _ _ _ => true
  | .mdrain _ _ _ _ _ _ _ _ _ => true
  | .mbind _ _ _ _ => true
  | .mfree _ _ => true
  | .mrinit _ _ _ => true
  | .mrpush _ _ _ _ => true
  | .mrrel _ _ _ => true
  | .mqsr _ _ _ => true
  | .finit _ _ _ _ => true
  | .fupd _ _ _ => true
  | .fdown _ _ _ => true
  | .fsolve _ _ _ _ => true
  | .flogdet _ _ _ => true
  | .fdrain _ _ _ _ => true
  | .fload _ _ _ _ => true
  | .ffree _ _ => true
  | .waitc _ _ _ => true
  | .binit _ _ _ => true
  | .expect _ _ _ => true
  | .arrive _ _ _ _ _ => true
  | .waitb _ _ _ _ _ => true
  | .st _ _ _ _ _ _ => true
  | .stt _ _ _ _ _ _ => true
  | .sst _ _ _ _ _ => true
  | .atom _ _ _ _ _ _ _ => true
  | .acas _ _ _ _ _ _ => true
  | .sleep _ _ => true
  | .call _ _ => true
  | .calli _ _ _ _ => true
  | .spawn _ _ _ _ => true
  | .trap _ _ => true
  | .tret _ => true
  | .exit _ => true
  | .swr _ _ _ _ => true
  | _ => false

/-! ## The header (R313, R314) -/

/-- Round up to a multiple of 64. -/
def up64 (n : Nat) : Nat := (n + 63) / 64 * 64

/-- The fields of an image header. -/
structure ImageHeader where
  form : Nat
  version : Nat
  entry : Nat
  regs8 : Nat
  clos8 : Nat
  spadu : Nat
  barmask : Nat
  n : Nat
  tfmt : Bool
  d : Nat
  roles : List Nat
  ftcnt : Nat
  ftoff : Nat
  datalen : Nat
  codelen : Nat
  fnoff : Nat
  fncnt : Nat
  resv : Bool
  deriving DecidableEq, Repr

/-- Read the 64 bytes of a header. -/
def imageHeader (h : Nat) : ImageHeader :=
  { form := field h 0 4, version := field h 48 16, entry := field h 64 64, regs8 := field h 128 8,
    clos8 := field h 136 8, spadu := field h 144 16, barmask := field h 160 32, n := field h 208 9, tfmt := bitAt h 219,
    d := field h 220 4, roles := (List.range 8).map fun k => field h (224 + 4 * k) 4, ftcnt := field h 272 16,
    ftoff := field h 288 32, datalen := field h 320 32, codelen := field h 352 32, fnoff := field h 384 32,
    fncnt := field h 416 16,
    resv := decide (field h 4 44 ≠ 0) || decide (field h 192 16 ≠ 0) || decide (field h 217 2 ≠ 0) ||
      decide (field h 256 16 ≠ 0) || decide (field h 432 80 ≠ 0) }

/-- Where the sections of the image start, and where it ends (R313). -/
def ImageHeader.data (h : ImageHeader) : Nat := up64 (64 + h.codelen)
def ImageHeader.flash (h : ImageHeader) : Nat := up64 (h.data + h.datalen)
def ImageHeader.functions (h : ImageHeader) : Nat := up64 (h.flash + 32 * h.ftcnt)
def ImageHeader.size (h : ImageHeader) : Nat := h.functions + 16 * h.fncnt

/-- What the kernel declares. -/
def ImageHeader.decl (h : ImageHeader) : Decl :=
  ⟨8 * h.clos8, h.d, h.n, h.tfmt, h.roles.take h.d, 256 * h.spadu, h.barmask⟩

/-- The checks of R318 on the header alone; a tile-form image has no flashback table yet (R326). -/
def ImageHeader.ok (h : ImageHeader) : Bool :=
  !h.resv && (h.form == 1 || (h.form == 2 && h.ftcnt == 0)) && h.version == 1 && h.roles.all (fun r => decide (r ≤ 12)) &&
  decide (1 ≤ h.regs8) && decide (h.regs8 ≤ 32) && decide (h.clos8 ≤ 32) && decide (h.regs8 ≤ h.clos8) &&
  decide (h.spadu ≤ 2048) && decide (h.d ≤ 8) && (h.d == 0) == (h.n == 0) && decide (h.n ≤ 8 * h.regs8) &&
  (List.range 8).all (fun k => decide (k < h.d) == decide (h.roles.getD k 0 ≠ 0)) &&
  decide ((h.roles.filter fun r => r ≠ 0 ∧ r ≠ 12).Nodup) &&
  decide (h.datalen ≤ 256 * h.spadu) && decide (h.fncnt ≠ 0) && h.ftoff == h.flash && h.fnoff == h.functions

/-! ## Tables and bodies (R315 to R317) -/

/-- A function-table entry. -/
structure FnEntry where
  entry : Nat
  length : Nat
  regs8 : Nat
  resv : Bool
  deriving DecidableEq, Repr

def fnEntry (x : Nat) : FnEntry := ⟨field x 0 32, field x 32 32, field x 64 8, decide (field x 72 56 ≠ 0)⟩

/-- A flashback-table entry as it stands. -/
structure FlashEntry where
  point : Nat
  recipe : Nat
  codes : List (Nat × Nat)
  bad : Bool
  deriving DecidableEq, Repr

def flashEntryOf (x : Nat) : FlashEntry :=
  let n := field x 64 5
  { point := field x 0 32, recipe := field x 32 32,
    codes := (List.range n).map fun i => (field x (80 + 10 * i) 2, field x (72 + 10 * i) 8),
    bad := decide (field x 69 3 ≠ 0) || decide (field x 232 24 ≠ 0) || decide (16 < n) ||
      (List.range 16).any fun i => decide (n ≤ i) && decide (field x (72 + 10 * i) 10 ≠ 0) }

/-- An image as read from memory. -/
structure ImageText where
  base : Nat
  h : ImageHeader
  code : List Byte
  fns : List FnEntry
  points : List FlashEntry
  deriving DecidableEq, Repr

/-- The instructions of n bytes of code from an offset on: the offset and what each decodes to. -/
def bodyOf (code : List Byte) : Nat → Nat → Nat → List (Nat × Decoded)
  | 0, _, _ => []
  | fuel + 1, off, n =>
    if n = 0 then []
    else
      let ws := Sys2Proof.wordsOf ((code.drop off).take 20)
      let k := 4 * wordCount (ws.headD 0)
      (off, decodeWords ws) :: bodyOf code fuel (off + k) (n - k)

/-- The instructions of a function. -/
def ImageText.body (x : ImageText) (f : FnEntry) : List (Nat × Decoded) := bodyOf x.code f.length f.entry f.length

/-- The instructions of every body. -/
def ImageText.all (x : ImageText) : List (Nat × Decoded) := x.fns.flatMap x.body

/-- The functions, the kernel apart. -/
def ImageText.callees (x : ImageText) : List FnEntry := x.fns.drop 1

/-- Address of an offset of the code section. -/
def ImageText.pcOf (x : ImageText) (off : Nat) : Nat := (x.base + 64 + off) % 2 ^ 52

/-- The function header before an entry (R315). -/
def ImageText.headerOf (x : ImageText) (f : FnEntry) : Nat := ofBytes ((x.code.drop (f.entry - 16)).take 16)

/-- Does a direct CALL at an offset reach a listed function whose budget fits (R131)? REGS8 0 counts as a budget above every allocation (R315). -/
def ImageText.callOk (x : ImageText) (off : Nat) (t : Off) : Bool :=
  let target := ((x.pcOf off : Int) + targetBytes t) % (2 ^ 52 : Nat)
  x.callees.any fun f => decide (target = (x.pcOf f.entry : Int)) && decide (0 < f.regs8) && decide (f.regs8 ≤ x.h.clos8)

/-- An instruction of the code section that R318 lets stand. -/
def ImageText.instrOk (x : ImageText) (p : Nat × Decoded) : Bool :=
  match p.2 with
  | .instr i =>
    (match i with
      | .call t _ => x.callOk p.1 t
      | _ => true) &&
    (match namesBar i with
      | some b => bitAt x.h.barmask b
      | none => true)
  | .reject _ => true

/-- Is the body that of a recipe (R30)? -/
def recipeBody (l : List (Nat × Decoded)) : Bool :=
  l.all (fun p => match p.2 with
    | .instr i => !notInRecipe i && !writesLink i
    | .reject _ => true) &&
  (match l.getLast? with
    | some (_, .instr (.ret _ _)) => true
    | _ => false)

/-- A flashback entry that R318 lets stand. -/
def ImageText.pointOk (x : ImageText) (p : FlashEntry) : Bool :=
  !p.bad && x.all.any (fun q => decide (q.1 = p.point)) &&
  p.codes.all (fun c =>
    (decide (c.1 = 0) && decide (c.2 < 8 * x.h.clos8)) || (decide (c.1 = 1) && decide (c.2 < 64)) ||
      (decide (c.1 = 2) && decide (c.2 < 16))) &&
  (decide (p.recipe = 0xFFFFFFFF) ||
    x.callees.any fun f => decide (f.entry = p.recipe) && recipeBody (x.body f))

/-- Do two ranges of the code section overlap? -/
def rangesMeet (a n b m : Nat) : Bool := decide (a < b + m) && decide (b < a + n)

/-- Every body and header in its place, no two overlapping (R315, R317). -/
def ImageText.placed (x : ImageText) : Bool :=
  let ranges := x.fns.map (fun f => (f.entry, f.length)) ++ x.callees.map fun f => (f.entry - 16, 16)
  x.callees.all (fun f => decide (16 ≤ f.entry)) && ranges.all (fun r => decide (r.1 + r.2 ≤ x.h.codelen)) &&
  ranges.zipIdx.all fun r => ranges.zipIdx.all fun q =>
    decide (r.2 = q.2) || !rangesMeet r.1.1 r.1.2 q.1.1 q.1.2

/-- The function table (R317): the kernel first, the others rising, each as its header says. -/
def ImageText.tableOk (x : ImageText) : Bool :=
  (match x.fns.head? with
    | some f => decide (f.entry = x.h.entry) && decide (f.regs8 = x.h.regs8)
    | none => false) &&
  x.fns.all (fun f => !f.resv && decide (f.entry < x.h.codelen)) &&
  decide ((x.callees.map FnEntry.entry).Pairwise (· < ·)) &&
  x.callees.all (fun f =>
    decide (field (x.headerOf f) 40 88 = 0) && decide (field (x.headerOf f) 32 8 = f.regs8)) && x.placed

/-- The whole of R318 for an image that is mapped. -/
def ImageText.ok (x : ImageText) : Bool := x.h.ok && x.tableOk && x.all.all x.instrOk && x.points.all x.pointOk

/-- Read an image: none where a byte of it does not stand readable in the code heap. -/
def State.imageText (s : State) (ctx base : Nat) : Option ImageText :=
  match s.readMapped ctx base 64 with
  | none => none
  | some hb =>
    let h := imageHeader (ofBytes hb)
    if !h.ok then some ⟨base, h, [], [], []⟩
    else if !s.inHeap ctx (h.size / 65536 + 2) base h.size then none
    else
      match s.readMapped ctx base h.size with
      | none => none
      | some bs =>
        let at_ := fun off n => ofBytes ((bs.drop off).take n)
        some ⟨base, h, (bs.drop 64).take h.codelen,
          (List.range h.fncnt).map (fun k => fnEntry (at_ (h.functions + 16 * k) 16)),
          (List.range h.ftcnt).map fun k => flashEntryOf (at_ (h.flash + 32 * k) 32)⟩

/-- What the load keeps of an image. -/
def ImageText.kept (x : ImageText) : Image :=
  { base := x.base, form := x.h.form, entry := x.pcOf x.h.entry, codeLen := x.h.codelen, dataLen := x.h.datalen,
    decl := x.h.decl,
    points := x.points.map fun p =>
      ⟨x.pcOf p.point, p.codes, if p.recipe = 0xFFFFFFFF then none else some (x.pcOf p.recipe)⟩,
    functions := x.fns.map fun f => (x.pcOf f.entry, f.regs8) }

/-- The entry stubs of a tile-form image: sixteen zero bytes at an entry (R327). -/
def ImageText.stubs (x : ImageText) : List Stub :=
  if x.h.form ≠ 2 then []
  else (x.fns.filter fun f => (((x.code.drop f.entry).take 16).all fun b => b == 0)).map fun f =>
    ⟨x.pcOf f.entry, .stub, [], 0, [], 0, 0, []⟩

/-- Load the image at a base, or find what its first load kept: the image, or none where that rejected it (R318). -/
def State.loadImageAt (s : State) (ctx base : Nat) : State × Option Image :=
  let c := s.context ctx
  let reject := (s.setContext ctx { c with rejected := base :: c.rejected }, none)
  match c.images.find? fun i => decide (i.base = base) with
  | some i => (s, some i)
  | none =>
    if c.rejected.contains base then (s, none)
    else
      match s.imageText ctx base with
      | none => reject
      | some x =>
        if x.ok then
          (s.setContext ctx { c with images := x.kept :: c.images, stubs := x.stubs ++ c.stubs }, some x.kept)
        else reject

end Sys2Proof.Machine
end

