-- ==== Sys2Proof/Machine/Scoreboard.lean ====
section
/-!
DEFINITION. The scoreboard (R127): the vector and scalar registers that an instruction reads or writes, and whether one of
them has a write pending. Masks, windows and handles are written as their instruction issues, so none of those pends.
-/

namespace Sys2Proof.Machine

/-- Vector registers by number. -/
def vregs (l : List Nat) : List RegId := l.map RegId.v

/-- Registers of operand b. -/
def opUses (ty : Ty) : VOp → List RegId
  | .vec r => vregs (regsOf ty r)
  | .scalar r => [.s r]
  | .imm _ => []

/-- The register of a scalar operand that may be a literal. -/
def litUses : RegLit → List RegId
  | .reg r => [.s r]
  | .lit _ => []

/-- The register of an address. -/
def addrUses (a : Addr) : List RegId := if a.scalar then [.s a.base] else [.v a.base]

/-- The registers of MSTAT's base. -/
def statUses : StatSrc → List RegId
  | .base sa => [.s sa]
  | .ring _ sb => [.s sb]

/-- The registers that an instruction of the group names. -/
def Group.uses (g : Group) (i : Instr) : List RegId :=
  match i with
  | .join _ _ => []
  | .ret sa _ => [.s sa]
  | .exit _ => []
  | .tret _ => []
  | .yield _ => []
  | .sleep c _ => litUses c
  | .bri sa _ => [.s sa]
  | .calli sa va _ _ => [.s sa] ++ [.v va] ++ [.s 63]
  | .briv sa va _ _ => [.v va] ++ [.s sa]
  | .br _ _ => []
  | .call _ _ => [.s 63]
  | .bz sa _ _ => [.s sa]
  | .bnz sa _ _ => [.s sa]
  | .bltz sa _ _ => [.s sa]
  | .bgez sa _ _ => [.s sa]
  | .bgtz sa _ _ => [.s sa]
  | .blez sa _ _ => [.s sa]
  | .brv _ _ _ _ => []
  | .brk _ _ _ _ => []
  | .ball _ _ _ => []
  | .bnone _ _ _ => []
  | .srd vx reg _ _ => [if vx then .v reg else .s reg]
  | .swr vx reg _ _ => [if vx then .v reg else .s reg]
  | .trap _ _ => []
  | .spawn sd va _ _ => [.s sd] ++ vregs (span va 8)
  | .mmov _ _ _ => []
  | .mand _ _ _ _ => []
  | .mor _ _ _ _ => []
  | .mxor _ _ _ _ => []
  | .mandn _ _ _ _ => []
  | .mnot _ _ _ => []
  | .mset _ b _ => litUses b
  | .mpop sd _ _ => [.s sd]
  | .mfirst sd _ _ => [.s sd]
  | .ballot sd _ _ => [.s sd]
  | .vany sd _ _ => [.s sd]
  | .vall sd _ _ => [.s sd]
  | .msave sd _ _ => [.s sd]
  | .mrestore _ sa _ => [.s sa]
  | .sadd sd sa sb _ => [.s sd] ++ [.s sa] ++ [.s sb]
  | .ssub sd sa sb _ => [.s sd] ++ [.s sa] ++ [.s sb]
  | .smul sd sa sb _ => [.s sd] ++ [.s sa] ++ [.s sb]
  | .smulh sd sa sb _ => [.s sd] ++ [.s sa] ++ [.s sb]
  | .sdiv sd sa sb _ => [.s sd] ++ [.s sa] ++ [.s sb]
  | .sdivu sd sa sb _ => [.s sd] ++ [.s sa] ++ [.s sb]
  | .srem sd sa sb _ => [.s sd] ++ [.s sa] ++ [.s sb]
  | .sremu sd sa sb _ => [.s sd] ++ [.s sa] ++ [.s sb]
  | .sand sd sa sb _ => [.s sd] ++ [.s sa] ++ [.s sb]
  | .sor sd sa sb _ => [.s sd] ++ [.s sa] ++ [.s sb]
  | .sxor sd sa sb _ => [.s sd] ++ [.s sa] ++ [.s sb]
  | .sandn sd sa sb _ => [.s sd] ++ [.s sa] ++ [.s sb]
  | .sshl sd sa sb _ => [.s sd] ++ [.s sa] ++ [.s sb]
  | .sshr sd sa sb _ => [.s sd] ++ [.s sa] ++ [.s sb]
  | .ssra sd sa sb _ => [.s sd] ++ [.s sa] ++ [.s sb]
  | .srot sd sa sb _ => [.s sd] ++ [.s sa] ++ [.s sb]
  | .smin sd sa sb _ => [.s sd] ++ [.s sa] ++ [.s sb]
  | .smax sd sa sb _ => [.s sd] ++ [.s sa] ++ [.s sb]
  | .sminu sd sa sb _ => [.s sd] ++ [.s sa] ++ [.s sb]
  | .smaxu sd sa sb _ => [.s sd] ++ [.s sa] ++ [.s sb]
  | .smov sd sb _ => [.s sd] ++ [.s sb]
  | .sseq sd sa sb _ => [.s sd] ++ [.s sa] ++ [.s sb]
  | .sslt sd sa sb _ => [.s sd] ++ [.s sa] ++ [.s sb]
  | .ssltu sd sa sb _ => [.s sd] ++ [.s sa] ++ [.s sb]
  | .sbfx sd sa sb _ => [.s sd] ++ [.s sa] ++ [.s sb]
  | .sbfi sd sa sb _ => [.s sd] ++ [.s sa] ++ [.s sb]
  | .sclz sd sa _ => [.s sd] ++ [.s sa]
  | .sctz sd sa _ => [.s sd] ++ [.s sa]
  | .spop sd sa _ => [.s sd] ++ [.s sa]
  | .sbrev sd sa _ => [.s sd] ++ [.s sa]
  | .saddImm sd sa _ _ => [.s sd] ++ [.s sa]
  | .ssubImm sd sa _ _ => [.s sd] ++ [.s sa]
  | .smulImm sd sa _ _ => [.s sd] ++ [.s sa]
  | .smulhImm sd sa _ _ => [.s sd] ++ [.s sa]
  | .sdivImm sd sa _ _ => [.s sd] ++ [.s sa]
  | .sdivuImm sd sa _ _ => [.s sd] ++ [.s sa]
  | .sremImm sd sa _ _ => [.s sd] ++ [.s sa]
  | .sremuImm sd sa _ _ => [.s sd] ++ [.s sa]
  | .sandImm sd sa _ _ => [.s sd] ++ [.s sa]
  | .sorImm sd sa _ _ => [.s sd] ++ [.s sa]
  | .sxorImm sd sa _ _ => [.s sd] ++ [.s sa]
  | .sandnImm sd sa _ _ => [.s sd] ++ [.s sa]
  | .sshlImm sd sa _ _ => [.s sd] ++ [.s sa]
  | .sshrImm sd sa _ _ => [.s sd] ++ [.s sa]
  | .ssraImm sd sa _ _ => [.s sd] ++ [.s sa]
  | .srotImm sd sa _ _ => [.s sd] ++ [.s sa]
  | .sminImm sd sa _ _ => [.s sd] ++ [.s sa]
  | .smaxImm sd sa _ _ => [.s sd] ++ [.s sa]
  | .sminuImm sd sa _ _ => [.s sd] ++ [.s sa]
  | .smaxuImm sd sa _ _ => [.s sd] ++ [.s sa]
  | .smovImm sd _ _ => [.s sd]
  | .sseqImm sd sa _ _ => [.s sd] ++ [.s sa]
  | .ssltImm sd sa _ _ => [.s sd] ++ [.s sa]
  | .ssltuImm sd sa _ _ => [.s sd] ++ [.s sa]
  | .sbfxImm sd sa _ _ => [.s sd] ++ [.s sa]
  | .sbfiImm sd sa _ _ => [.s sd] ++ [.s sa]
  | .vcmp _ _ va b ty _ => vregs (regsOf ty va) ++ opUses ty b
  | .vshfl vd va b ty _ => vregs (regsOf ty vd) ++ vregs (regsOf ty va) ++ opUses .n32 b
  | .vshup vd va b ty _ => vregs (regsOf ty vd) ++ vregs (regsOf ty va) ++ opUses .n32 b
  | .vshdn vd va b ty _ => vregs (regsOf ty vd) ++ vregs (regsOf ty va) ++ opUses .n32 b
  | .vshxor vd va b ty _ => vregs (regsOf ty vd) ++ vregs (regsOf ty va) ++ opUses .n32 b
  | .vbcast vd va b ty _ => vregs (regsOf ty vd) ++ vregs (regsOf ty va) ++ opUses .n32 b
  | .vgred vd va _ ty _ => vregs (regsOf ty vd) ++ vregs (regsOf ty va)
  | .vscan vd va _ ty _ => vregs (regsOf ty vd) ++ vregs (regsOf ty va)
  | .vaddInt vd va b ty _ => vregs (regsOf ty vd) ++ vregs (regsOf ty va) ++ opUses ty b
  | .vsubInt vd va b ty _ => vregs (regsOf ty vd) ++ vregs (regsOf ty va) ++ opUses ty b
  | .vmulInt vd va b ty _ => vregs (regsOf ty vd) ++ vregs (regsOf ty va) ++ opUses ty b
  | .vmulh vd va b ty _ => vregs (regsOf ty vd) ++ vregs (regsOf ty va) ++ opUses ty b
  | .vmad vd va b vc ty _ => vregs (regsOf ty vd) ++ vregs (regsOf ty va) ++ vregs (regsOf ty vc) ++ opUses ty b
  | .vabsd vd va b ty _ => vregs (regsOf ty vd) ++ vregs (regsOf ty va) ++ opUses ty b
  | .vadds vd va b ty _ => vregs (regsOf ty vd) ++ vregs (regsOf ty va) ++ opUses ty b
  | .vsubs vd va b ty _ => vregs (regsOf ty vd) ++ vregs (regsOf ty va) ++ opUses ty b
  | .vminInt vd va b ty _ => vregs (regsOf ty vd) ++ vregs (regsOf ty va) ++ opUses ty b
  | .vmaxInt vd va b ty _ => vregs (regsOf ty vd) ++ vregs (regsOf ty va) ++ opUses ty b
  | .vand vd va b ty _ => vregs (regsOf ty vd) ++ vregs (regsOf ty va) ++ opUses ty b
  | .vor vd va b ty _ => vregs (regsOf ty vd) ++ vregs (regsOf ty va) ++ opUses ty b
  | .vxor vd va b ty _ => vregs (regsOf ty vd) ++ vregs (regsOf ty va) ++ opUses ty b
  | .vandn vd va b ty _ => vregs (regsOf ty vd) ++ vregs (regsOf ty va) ++ opUses ty b
  | .vnot vd va ty _ => vregs (regsOf ty vd) ++ vregs (regsOf ty va)
  | .vshl vd va b ty _ => vregs (regsOf ty vd) ++ vregs (regsOf ty va) ++ opUses ty b
  | .vshr vd va b ty _ => vregs (regsOf ty vd) ++ vregs (regsOf ty va) ++ opUses ty b
  | .vsra vd va b ty _ => vregs (regsOf ty vd) ++ vregs (regsOf ty va) ++ opUses ty b
  | .vrot vd va b ty _ => vregs (regsOf ty vd) ++ vregs (regsOf ty va) ++ opUses ty b
  | .vbfx vd va b ty _ => vregs (regsOf ty vd) ++ vregs (regsOf ty va) ++ opUses ty b
  | .vbfi vd va b vc _ => [.v vd] ++ [.v va] ++ [.v vc] ++ opUses .n32 b
  | .vclz vd va _ => [.v vd] ++ [.v va]
  | .vpop vd va _ => [.v vd] ++ [.v va]
  | .vbrev vd va _ => [.v vd] ++ [.v va]
  | .vsel vd va b _ ty _ => vregs (regsOf ty vd) ++ vregs (regsOf ty va) ++ opUses ty b
  | .vmov vd b ty _ => vregs (regsOf ty vd) ++ opUses ty b
  | .vprmt vd va b vc _ => [.v vd] ++ [.v va] ++ [.v vc] ++ opUses .n32 b
  | .vaddFp vd va b ty _ _ => vregs (regsOf ty vd) ++ vregs (regsOf ty va) ++ opUses ty b
  | .vsubFp vd va b ty _ _ => vregs (regsOf ty vd) ++ vregs (regsOf ty va) ++ opUses ty b
  | .vmulFp vd va b ty _ _ => vregs (regsOf ty vd) ++ vregs (regsOf ty va) ++ opUses ty b
  | .vfma vd va b vc ty _ _ => vregs (regsOf ty vd) ++ vregs (regsOf ty va) ++ vregs (regsOf ty vc) ++ opUses ty b
  | .vfms vd va b vc ty _ _ => vregs (regsOf ty vd) ++ vregs (regsOf ty va) ++ vregs (regsOf ty vc) ++ opUses ty b
  | .vfnma vd va b vc ty _ _ => vregs (regsOf ty vd) ++ vregs (regsOf ty va) ++ vregs (regsOf ty vc) ++ opUses ty b
  | .vminFp vd va b ty _ => vregs (regsOf ty vd) ++ vregs (regsOf ty va) ++ opUses ty b
  | .vmaxFp vd va b ty _ => vregs (regsOf ty vd) ++ vregs (regsOf ty va) ++ opUses ty b
  | .vabs vd va ty _ => vregs (regsOf ty vd) ++ vregs (regsOf ty va)
  | .vneg vd va ty _ => vregs (regsOf ty vd) ++ vregs (regsOf ty va)
  | .vcpysgn vd va b ty _ => vregs (regsOf ty vd) ++ vregs (regsOf ty va) ++ opUses ty b
  | .vrcp vd va ty _ _ => vregs (regsOf ty vd) ++ vregs (regsOf ty va)
  | .vrsq vd va ty _ _ => vregs (regsOf ty vd) ++ vregs (regsOf ty va)
  | .vsqrt vd va ty _ _ => vregs (regsOf ty vd) ++ vregs (regsOf ty va)
  | .vexp2 vd va ty _ => vregs (regsOf ty vd) ++ vregs (regsOf ty va)
  | .vlog2 vd va ty _ => vregs (regsOf ty vd) ++ vregs (regsOf ty va)
  | .vsin vd va ty _ => vregs (regsOf ty vd) ++ vregs (regsOf ty va)
  | .vcos vd va ty _ => vregs (regsOf ty vd) ++ vregs (regsOf ty va)
  | .vfloor vd va ty _ => vregs (regsOf ty vd) ++ vregs (regsOf ty va)
  | .vceil vd va ty _ => vregs (regsOf ty vd) ++ vregs (regsOf ty va)
  | .vtrunc vd va ty _ => vregs (regsOf ty vd) ++ vregs (regsOf ty va)
  | .vround vd va ty _ _ => vregs (regsOf ty vd) ++ vregs (regsOf ty va)
  | .vfract vd va ty _ => vregs (regsOf ty vd) ++ vregs (regsOf ty va)
  | .vclass vd va ty _ => vregs (regsOf ty vd) ++ vregs (regsOf ty va)
  | .tseed vd _ b _ => [.v vd] ++ opUses .n32 b
  | .tzero vd _ _ => [.v vd]
  | .tget vd va _ _ => [.v vd] ++ [.v va]
  | .tset vd _ b _ => [.v vd] ++ opUses .n32 b
  | .tmov vd _ va _ _ => [.v vd] ++ [.v va]
  | .vcvt vd va ty ts _ _ => vregs (regsOf ty vd) ++ vregs (regsOf ts va)
  | .vcvtsr vd va b _ ty _ => vregs (regsOf ty vd) ++ vregs (regsOf ty va) ++ opUses ty b
  | .vrand vd va _ => [.v vd] ++ vregs (span va 2)
  | .vrseed vd va _ => vregs (span vd 2) ++ [.v va]
  | .vpack vd va b _ ts _ _ _ => [.v vd] ++ vregs (regsOf ts va) ++ opUses ts b
  | .vunpk vd va _ ty _ _ => vregs (regsOf ty vd) ++ [.v va]
  | .ld vd a ty _ _ _ => vregs (regsOf ty vd) ++ addrUses a
  | .st vd a ty _ _ _ => vregs (regsOf ty vd) ++ addrUses a
  | .ldt vd a _ _ n _ => vregs (span vd n) ++ addrUses a
  | .stt vd a _ _ n _ => vregs (span vd n) ++ addrUses a
  | .ldw vd a ty _ => vregs (regsOf ty vd) ++ addrUses a
  | .sld sd a _ _ _ => [.s sd] ++ addrUses a
  | .sst sd a _ _ _ => [.s sd] ++ addrUses a
  | .atom vd a vc _ ty _ _ => vregs (regsOf ty vd) ++ vregs (regsOf ty vc) ++ addrUses a
  | .acas vd a vc ty _ _ => vregs (regsOf ty vd) ++ vregs (regsOf ty vc) ++ addrUses a
  | .cpy sa _ _ => [.s sa]
  | .gath vd va _ _ ty _ => vregs (regsOf ty vd) ++ [.v va]
  | .scat vd va _ _ ty _ => vregs (regsOf ty vd) ++ [.v va]
  | .pld vd va _ _ ty _ => vregs (regsOf ty vd) ++ [.v va]
  | .pst vd va _ _ ty _ => vregs (regsOf ty vd) ++ [.v va]
  | .red vd va _ _ _ ty _ _ _ => vregs (regsOf ty vd) ++ [.v va]
  | .amg vd va _ _ _ ty _ _ _ => vregs (regsOf ty vd) ++ [.v va]
  | .tex vd va sa _ _ => vregs (span vd 4) ++ vregs (span va 2) ++ [.s sa]
  | .texg vd va sa _ _ => vregs (span vd 4) ++ vregs (span va 2) ++ [.s sa]
  | .isect vd va sa _ _ => vregs (span vd 5) ++ vregs (span va 8) ++ [.s sa]
  | .visq vd va sa _ _ => vregs (span vd 5) ++ vregs (span va 2) ++ [.s sa]
  | .coll _ _ _ sa _ _ _ => [.s sa]
  | .wbind _ _ sa lim _ => [.s sa] ++ litUses lim
  | .winv _ _ => []
  | .waitc _ _ _ => []
  | .binit _ n _ => litUses n
  | .expect _ n _ => litUses n
  | .arrive sd _ _ _ _ => [.s sd]
  | .waitb sd _ _ _ _ => [.s sd]
  | .testb sd _ _ => [.s sd]
  | .fence _ _ _ => []
  | .mstat _ src sc _ _ _ _ => statUses src ++ [.s sc]
  | .mloop _ _ sa sb sc _ _ _ => [.s sa] ++ [.s sb] ++ [.s sc]
  | .mzero _ _ _ _ _ => []
  | .mdrain _ _ sa sb _ _ _ _ _ => [.s sa] ++ [.s sb]
  | .mbind _ _ _ _ => []
  | .mfree _ _ => []
  | .mrinit _ _ _ => []
  | .mrpush _ sa sb _ => [.s sa] ++ [.s sb]
  | .mrrel _ sb _ => [.s sb]
  | .mqsr sd _ _ => [.s sd]
  | .finit _ _ _ _ => []
  | .fupd f va _ => vregs (vectorRegs va (g.fdim f))
  | .fdown f va _ => vregs (vectorRegs va (g.fdim f))
  | .fsolve f va _ _ => vregs (vectorRegs va (g.fdim f))
  | .flogdet _ sd _ => [.s sd]
  | .fdrain _ sa _ _ => [.s sa]
  | .fload _ sa _ _ => [.s sa]
  | .ffree _ _ => []
  | .nop _ => []
  | .hint _ => []
  | .pref _ => []
  | .accownSwitch _ _ => []
  | .splitPromotion _ _ => []
  | .criticalLimitExpiry _ => []
  | .sleepExpiry _ _ => []
  | .refreshWindow _ => []
  | .refreshWindowEnd _ => []
  | .scratchpadLoadDelivery _ _ => []
  | .engineOperationComplete _ _ => []
  | .barrierLanding _ _ _ => []
  | .writeApply _ _ => []
  | .matrixOperationExecute _ => []
  | .factorOperationExecute _ => []
  | .powerGrant _ => []
  | .grantExpiry _ _ => []
  | .rayAdmit _ _ _ => []
  | .rayComplete _ _ _ => []
  | .groupRetire _ => []
  | .launch _ _ => []
  | .wsload _ _ => []
  | .wsloadComplete _ _ => []
  | .waitev _ _ => []
  | .signal _ _ => []
  | .signalComplete _ _ => []
  | .queueNop _ _ => []
  | .wptrWrite _ _ _ => []
  | .rptrRewrite _ _ _ => []
  | .gangDispatch _ _ _ => []
  | .stallWindow => []
  | .stallGangSave _ => []
  | .gangRestore _ _ _ => []
  | .preemptionRequest _ => []
  | .drainTimerExpiry _ => []
  | .quantumExpiry _ => []
  | .contextSave _ => []
  | .contextRestore _ _ => []
  | .forcedReset _ => []
  | .contextCreate _ _ => []
  | .contextDestroy _ => []
  | .contextDescriptorWrite _ _ => []
  | .partitionAdd _ _ => []
  | .partitionWithdraw _ _ => []
  | .quarterRelease _ => []
  | .bandResume _ _ _ _ _ => []
  | .vfBind _ _ => []
  | .vfSuspend _ => []
  | .vfResume _ => []
  | .guestSwitchStep _ _ => []
  | .translationUpdate _ _ => []
  | .wsmapUpdate _ _ => []
  | .shootDown _ _ _ _ => []
  | .shootDownAck _ _ => []
  | .shootDownTimeout _ _ => []
  | .escalationResume _ => []
  | .translationPublish _ _ _ => []
  | .heapResume _ => []
  | .collectiveGroupWrite _ _ _ _ => []
  | .hostWrite _ _ => []
  | .readRequest _ _ => []
  | .readData _ _ => []
  | .write _ _ => []
  | .acknowledgement _ _ => []
  | .collective _ _ => []
  | .shootDownFlit _ _ => []
  | .replayRequest _ _ => []
  | .idleFlit _ _ => []
  | .linkTraining _ => []
  | .trainingComplete _ _ _ => []
  | .linkTimeout _ => []
  | .portReset _ => []
  | .headDescriptor _ _ => []
  | .frameLatch _ => []
  | .candidateComplete _ _ _ => []
  | .bandDeadline _ _ => []
  | .frameEnd _ => []
  | .encoderTileRow _ _ => []
  | .headRebind _ _ => []
  | .packageReset => []
  | .recoveryImageLoad _ => []
  | .deviceReady _ => []
  | .commitImage => []
  | .attestationRequest _ _ => []
  | .violation _ => []
  | .masterRelease _ => []
  | .thermalThrottle _ _ => []
  | .thermalRestore _ _ => []
  | .thermalStop _ _ => []
  | .illegalInstructionWord _ => []
  | .badCrcFlit _ _ => []
  | .stackQuotaAssignment _ _ _ => []
  | .arithmeticClockRestart => []

/-- Has a register a write pending: of a load that has not delivered, or of an operation that is not complete? -/
def Group.pending (g : Group) (r : RegId) : Bool :=
  r != .s 0 &&
  (g.deliveries.any (fun d => d.dests.contains r) || g.ops.any fun o => !o.done && o.dests.contains r)

/-- Does the scoreboard let the group's instruction issue? -/
def Group.boardFree (g : Group) (i : Instr) : Bool := (g.uses i).all fun r => !g.pending r

/-! ## Issue cost (R105) -/

/-- Tangent FMAs of an instruction with d parameters: F of R105. -/
def fmaCount (d : Nat) : Instr → Nat
  | .vmulFp _ _ _ _ _ _ => 2 * d
  | .vfma _ _ _ _ _ _ _ => 2 * d
  | .vfms _ _ _ _ _ _ _ => 2 * d
  | .vfnma _ _ _ _ _ _ _ => 2 * d
  | .vaddFp _ _ _ _ _ _ => d
  | .vsubFp _ _ _ _ _ _ => d
  | .vneg _ _ _ _ => d
  | .vabs _ _ _ _ => d
  | .vcpysgn _ _ _ _ _ => d
  | .vrcp _ _ _ _ _ => d
  | .vrsq _ _ _ _ _ => d
  | .vsqrt _ _ _ _ _ => d
  | .vexp2 _ _ _ _ => d
  | .vlog2 _ _ _ _ => d
  | .vsin _ _ _ _ => d
  | .vcos _ _ _ _ => d
  | .vfract _ _ _ _ => d
  | .vgred _ _ op ty _ => if op = .add ∧ ty.isFp3 then d else 0
  | .vscan _ _ op ty _ => if op = .add ∧ ty.isFp3 then d else 0
  | _ => 0

/-- Cycles for which the instruction occupies its issue slot (R105). -/
def Group.issueCycles (g : Group) (em : Word32) (i : Instr) : Nat :=
  let u := if g.decl.bf16 then 4 else 2
  let touches := (g.uses i).any fun r => match r with
    | .v k => g.dual k
    | _ => false
  if em = 0 ∨ !touches then 1 else Nat.max 1 ((fmaCount g.decl.d i + u - 1) / u)

end Sys2Proof.Machine
end

