-- ==== Sys2Proof/Machine/Legal.lean ====
section
/-!
DEFINITION. The checks of R51 that depend on the group that issues: operand limits (R52, detail 6) and the access of system
registers (R50, detail 7). An instruction that fails one is no instruction: no scoreboard holds it, and it is no flashback
point.
-/

namespace Sys2Proof.Machine

/-- Does the vector register lie below C? Registers of other kinds have no limit. -/
def RegId.below (c : Nat) : RegId → Bool
  | .v k => decide (k < c)
  | _ => true

/-- The limits of R52 that concern no vector register. -/
def Decl.limitOk (d : Decl) : Instr → Bool
  | .br t _ => targetOk t
  | .call t _ => targetOk t
  | .bz _ t _ => targetOk t
  | .bnz _ t _ => targetOk t
  | .bltz _ t _ => targetOk t
  | .bgez _ t _ => targetOk t
  | .bgtz _ t _ => targetOk t
  | .blez _ t _ => targetOk t
  | .brv _ t _ _ => targetOk t
  | .brk _ t _ _ => targetOk t
  | .ball _ t _ => targetOk t
  | .bnone _ t _ => targetOk t
  | .spawn _ va _ _ => decide (va ≤ 248)
  | .vcvtsr _ _ _ n _ _ => decide (1 ≤ n ∧ n ≤ 24)
  | .mzero _ first count _ _ => decide (first + count ≤ 1024)
  | .mbind _ first count _ => decide (first + count ≤ 1024)
  | .finit _ _ n _ => decide (1 ≤ n ∧ n ≤ 128)
  | .tseed _ k _ _ => decide (k < d.d)
  | .tzero _ slot _ => decide (slot.getD 0 < d.d)
  | .tget _ _ k _ => decide (k < d.d)
  | .tset _ k _ _ => decide (k < d.d)
  | .tmov _ j _ k _ => decide (j < d.d ∧ k < d.d)
  | _ => true

/-- May a split of the level read or write the system register that the instruction names (R50)? -/
def accessOk (sup : Bool) : Instr → Bool
  | .srd _ _ r _ => srdAllowed sup r
  | .swr vx _ r _ => swrAllowed sup vx r
  | _ => true

/-- Is the decoded instruction legal for a split of the group (R51)? -/
def Group.legal (g : Group) (sup : Bool) (i : Instr) : Bool :=
  (g.uses i).all (RegId.below g.decl.c) && g.decl.limitOk i && accessOk sup i

end Sys2Proof.Machine
end

