-- ==== Sys2Proof/Machine/Pace.lean ====
section
/-!
DEFINITION. Events of time: promotion (R129), the critical limit (R130), the end of a sleep (R152), refresh windows
(R200), the delivery of scratchpad loads (R199), the application of held writes (R281), and power grants (R397).
-/

namespace Sys2Proof.Machine

/-- Is the split one that could issue: runnable, in a group that runs, and not held? -/
def Group.mayIssue (g : Group) (e : Nat) : Bool :=
  let x := g.split e
  g.runs && x.v && x.state == .runnable && (x.hold == .none || x.hold == .granted)

/-- SPLIT_PROMOTION (R129). -/
def execSplitPromotion (gid e : Nat) (s : State) : Out :=
  let g := s.group gid
  let x := g.split e
  .next (if g.mayIssue e && !s.coreStands gid && decide (256 ≤ x.age) && x.promoted.isNone then
      s.setGroup gid (g.setSplit e { x with promoted := some s.clock })
    else s)

/-- A group whose critical limit has come is critical no longer (R130); a pre-emption that waited for it acts on it now
(R335). -/
def State.endCritical (s : State) (gid : Nat) : State :=
  let g := s.group gid
  if g.isCritical && !s.coreStands gid && decide (g.critSince + (s.context g.ctx).critlim ≤ s.clock) then
    (s.setGroup gid { g with critSpent := true }).preemptGroup gid
  else s

/-- CRITICAL_LIMIT_EXPIRY (R130). -/
def execCriticalLimitExpiry (gid : Nat) (s : State) : Out := .next (s.endCritical gid)

/-- SLEEP_EXPIRY (R152). -/
def execSleepExpiry (gid e : Nat) (s : State) : Out :=
  let g := s.group gid
  let x := g.split e
  .next (
    match x.wait with
    | .sleep _ wake next =>
      if g.runs && !s.coreStands gid && x.v && x.state == .waiting && decide (wake ≤ s.clock) then
        s.setGroup gid (g.setSplit e { x with state := .runnable, wait := .none, pc := next, age := 0 })
      else s
    | _ => s)

/-- REFRESH_WINDOW (R200, R201): which bank refreshes follows from CLOCK alone, so nothing is stored. -/
def execRefreshWindow (_ : Nat) (s : State) : Out := .next s

/-- REFRESH_WINDOW_END (R200, R201). -/
def execRefreshWindowEnd (_ : Nat) (s : State) : Out := .next s

/-- SCRATCHPAD_LOAD_DELIVERY (R199, R200): the scoreboard lets go of the destinations. -/
def execScratchpadLoadDelivery (gid k : Nat) (s : State) : Out :=
  let g := s.group gid
  .next (
    match g.deliveries[k]? with
    | some d => if d.due ≤ s.clock ∧ !s.coreStands gid then s.setGroup gid { g with deliveries := g.deliveries.eraseIdx k } else s
    | none => s)

/-- WRITE_APPLY (R281): the die applies held write k when its vector clock allows. -/
def execWriteApply (die k : Nat) (s : State) : Out :=
  let d := s.die die
  .next (
    match d.held[k]? with
    | some w => if d.admits w then (s.setDie die { d.apply w with held := d.held.eraseIdx k }).allFences else s
    | none => s)

/-! ## Power (R397) -/

/-- Units of the governor that no grant holds. -/
def Die.freeUnits (d : Die) : Nat := d.units - (d.grants.map Power.units).sum

/-- Does the request come from a critical group (R130)? -/
def State.urgent (s : State) (p : Power) : Bool :=
  match p.user with
  | .split gid _ => (s.group gid).isCritical
  | .op gid _ => (s.group gid).isCritical
  | .band _ _ => false

/-- The request that is served next: critical groups first, then in order. -/
def State.nextRequest (s : State) (d : Die) : Option Power :=
  match d.requests.find? s.urgent with
  | some p => some p
  | none => d.requests.head?

/-- Does the user of a request or a grant still stand: a split in the given hold, an operation that goes on, or a band? -/
def State.userStands (s : State) (h : Hold) (p : Power) : Bool :=
  match p.user with
  | .split gid e => ((s.group gid).split e).hold == h
  | .op gid id => match (s.group gid).op? id with
    | some o => !o.done
    | none => false
  | .band _ _ => true

/-- Put the split of a request or a grant into a hold; one on a frozen core stays as it is (R396). -/
def State.holdUser (s : State) (p : Power) (h : Hold) : State :=
  match p.user with
  | .split gid e =>
    let g := s.group gid
    if s.coreStands gid then s else s.setGroup gid (g.setSplit e { (g.split e) with hold := h })
  | _ => s

/-- The cycles a request has waited are counted for its context (R339). -/
def State.countWait (s : State) (p : Power) : State :=
  match p.user with
  | .split gid _ => s.count (s.group gid).ctx 1 (s.clock - p.since)
  | .op gid _ => s.count (s.group gid).ctx 1 (s.clock - p.since)
  | .band _ _ => s

/-- POWER_GRANT (R397): the next request is served when enough units are free; a split's hold ends. -/
def execPowerGrant (die : Nat) (s : State) : Out :=
  let d := s.die die
  .next (
    match s.nextRequest d with
    | none => s
    | some p =>
      if !s.userStands .power p then s.setDie die { d with requests := d.requests.erase p }
      else if d.freeUnits < p.units then s
      else
        let s1 := s.setDie die { d with requests := d.requests.erase p, grants := d.grants ++ [{ p with since := s.clock }] }
        (s1.holdUser p .granted).countWait p)

/-- GRANT_EXPIRY (R397): after 2,200 cycles grant k ends, and work that goes on asks again. -/
def execGrantExpiry (die k : Nat) (s : State) : Out :=
  let d := s.die die
  .next (
    match d.grants[k]? with
    | none => s
    | some p =>
      if s.clock < p.since + 2200 then s
      else
        let s1 := s.setDie die { d with grants := d.grants.eraseIdx k }
        if s.userStands .granted p then
          (s1.setDie die { (s1.die die) with requests := d.requests ++ [{ p with since := s.clock }] }).holdUser p .power
        else s1)

end Sys2Proof.Machine
end

