-- ==== Sys2Proof/Machine/Issue.lean ====
section
/-!
DEFINITION. Issue: fetching an instruction's words (R36, R53), which split is ready (R110, R127), the passing of cycles
(R109, R156, R339), merges by coincidence (R119) and the selection of the split that a slot issues (R128, R129).
-/

namespace Sys2Proof.Machine

/-! ## Fetch -/

/-- The words of the instruction at a PC with the leaves they came through, or why they are not there (R35, R53). -/
def State.instrWords (s : State) (q ctx : Nat) (sup : Bool) (carry : Stamp) (pc : Nat) :
    Except NoCode (List Nat × List TlbEntry) :=
  match s.fetchWords q ctx sup carry pc 1 with
  | .error a => .error a
  | .ok (ws, es) =>
    match s.fetchWords q ctx sup carry (pc + 4) (wordCount (ws.headD 0) - 1) with
    | .error a => .error a
    | .ok (vs, fs) => .ok (ws ++ vs, es ++ fs)

/-- The words at the PC of split e of a group. -/
def State.wordsOfSplit (s : State) (gid e : Nat) : Except NoCode (List Nat × List TlbEntry) :=
  let g := s.group gid
  s.instrWords (quarterOf gid) g.ctx (g.split e).sup (g.carryMask (g.split e).mask) (g.split e).pc.toNat

/-! ## Readiness -/

/-- Are gangs of a co-resident grid still to be dispatched (R322)? -/
def Grid.unready (g : Grid) : Bool := g.cor && decide (g.dispatched < g.spans * g.bands * g.gangs)

/-- Does the recipe that runs let split e issue (R30)? Where its lanes that have not returned all stand on the stack, no split of
the table runs it, and none is held back. -/
def Group.recipeLets (g : Group) (e : Nat) : Bool :=
  match g.recipes with
  | r :: _ =>
    decide (r.lanes &&& (g.split e).mask ≠ 0) || g.validEntries.all fun k => decide (r.lanes &&& (g.split k).mask = 0)
  | [] => true

/-- May the group issue at all? One of a suspended virtual function does not (R344), nor a gang chosen by stall resolution (R324), nor a co-resident grid before it is
dispatched whole (R322), nor a frozen core (R396), nor one whose drain timer has expired (R335); while a recipe runs only the
splits of its lanes do, where the table holds any (R30). -/
def State.groupIssues (s : State) (gid e : Nat) : Bool :=
  let g := s.group gid
  (s.context g.ctx).issues && !(s.vf (s.context g.ctx).vf).suspended && !(s.gang g.gang).chosen && !(s.grid g.grid).unready && !s.coreStands gid && !s.clockStopped &&
  !g.drained s.clock && g.recipeLets e

/-- Does the scoreboard let the instruction at the split's PC issue? What is no instruction of the split has no operands. A split
whose fetch is held (R348) does not issue. -/
def State.boardLets (s : State) (gid e : Nat) : Bool :=
  let g := s.group gid
  match s.wordsOfSplit gid e with
  | .error .held => false
  | .error (.fault _) => true
  | .ok (ws, _) =>
    match decodeWords ws with
    | .instr i => !g.legal (g.split e).sup i || g.boardFree i
    | .reject _ => true

/-- Is split e of the group ready (R110)? -/
def State.isReady (s : State) (gid e : Nat) : Bool :=
  (s.group gid).mayIssue e && s.groupIssues gid e && s.boardLets gid e

/-! ## The passing of cycles -/

/-- AGE of a runnable split n cycles on (R109; log 69); a ready one whose AGE reaches 256 is promoted, at that cycle (R129). -/
def State.ageOn (s : State) (gid n : Nat) (g : Group) (e : Nat) : Group :=
  let x := g.split e
  if x.v && x.state == .runnable then
    g.setSplit e
      { x with
        age := Nat.min 511 (x.age + n),
        promoted := if x.promoted.isNone && decide (256 ≤ x.age + n) && s.isReady gid e then some (s.clock + (256 - x.age))
          else x.promoted }
  else g

/-- Is every split of the group waiting, or held on a request (R323, R339)? -/
def Group.allWaiting (g : Group) : Bool :=
  g.runs && g.validEntries.all fun e =>
    let x := g.split e
    x.state == .waiting || x.state == .held || x.hold == .translation || x.hold == .escalation

/-- Does every split of the group stand at a wait, a JOIN or a request (R324)? -/
def Group.allInWaits (g : Group) : Bool :=
  g.runs && g.validEntries.all fun e =>
    let x := g.split e
    x.state == .waiting || x.state == .joining || x.state == .held || x.onRequest

/-- A group n cycles on; one on a frozen core stays as it is (R396). -/
def State.groupOn (s : State) (n gid : Nat) (g : Group) : Group :=
  if s.coreStands gid then g
  else
  let g1 := (List.range 4).foldl (s.ageOn gid n) g
  let g2 := if g.allWaiting then { g1 with waitedCycles := g1.waitedCycles + n } else g1
  if g.allInWaits then g2 else { g2 with waitSince := s.clock + n }

/-- n cycles pass, unless the arithmetic clock stands; critical groups whose limit has come are so no longer (R130). -/
def State.elapse (s : State) (n : Nat) : State :=
  if n = 0 ∨ s.clockStopped then s
  else
    let s1 := { s with clock := s.clock + n,
                       groups := Sparse.mapVals Group.free (s.groupOn n) s.groups }
    let s2 := s.groups.foldl (fun t p =>
      if p.2.allWaiting && (s.context p.2.ctx).issues && p.2.validEntries.all (fun e => (p.2.split e).state == .waiting) then
        t.count p.2.ctx 2 n
      else t) s1
    s.groups.foldl (fun t p => t.endCritical p.1) s2

/-! ## Merges (R119) -/

/-- May a hold at issue end in a merge: none, or a power request that another split can make or use (R119, R397)? -/
def Hold.merges : Hold → Bool
  | .none => true
  | .power => true
  | .granted => true
  | _ => false

/-- The hold of a merged split: a grant of either, else a request of either. -/
def Hold.merged : Hold → Hold → Hold
  | .granted, _ => .granted
  | _, .granted => .granted
  | .power, _ => .power
  | _, .power => .power
  | h, _ => h

/-- Do two splits of a group merge? -/
def Split.meets (x y : Split) : Bool :=
  x.v && y.v && x.state == .runnable && y.state == .runnable && x.hold.merges && y.hold.merges &&
  x.pc == y.pc && x.tok == y.tok && x.sup == y.sup

/-- The split that two splits become, in the entry of x: promoted when the first of them was (log 63). -/
def Split.merged (x y : Split) : Split :=
  { x with mask := x.mask ||| y.mask, age := Nat.max x.age y.age, hold := x.hold.merged y.hold,
           promoted := match x.promoted, y.promoted with
             | some a, some b => some (Nat.min a b)
             | some a, none => some a
             | none, b => b }

/-- Split j goes into split i where they meet. -/
def Group.mergeTwo (g : Group) (i j : Nat) : Group :=
  if (g.split i).meets (g.split j) then (g.setSplit i ((g.split i).merged (g.split j))).setSplit j Split.free else g

/-- The requests or grants of a user, all but the first taken out. -/
def Power.once (u : PowerUser) : List Power → List Power
  | [] => []
  | p :: ps => if p.user = u then p :: ps.filter (fun q => decide (q.user ≠ u)) else p :: Power.once u ps

/-- What user v holds or asks for becomes user u's: one grant, or one request where there is no grant (R119, R397). -/
def Die.mergeUser (d : Die) (u v : PowerUser) : Die :=
  let move := fun (p : Power) => if p.user = v then { p with user := u } else p
  let gs := Power.once u (d.grants.map move)
  let rs := Power.once u (d.requests.map move)
  { d with grants := gs, requests := if gs.any fun p => decide (p.user = u) then rs.filter fun p => decide (p.user ≠ u) else rs }

/-- Split j of a group goes into split i where they meet, with what it asked of the governor. -/
def State.mergeTwo (s : State) (gid i j : Nat) : State :=
  let g := s.group gid
  if (g.split i).meets (g.split j) then
    let d := s.die (dieOf gid)
    let x := if (g.split j).hold = .none then d else d.mergeUser (.split gid i) (.split gid j)
    (s.setGroup gid (g.mergeTwo i j)).setDie (dieOf gid) x
  else s

/-- The pairs of entries of the split table, the surviving one first. -/
def entryPairs : List (Nat × Nat) := [(0, 1), (0, 2), (0, 3), (1, 2), (1, 3), (2, 3)]

/-- Merges of the group and the pops that the freed entries allow, again while two splits meet; n bounds the rounds. -/
def State.coalesceN : Nat → State → Nat → State
  | 0, s, _ => s
  | n + 1, s, gid =>
    if entryPairs.any fun p => ((s.group gid).split p.1).meets ((s.group gid).split p.2) then
      let s1 := entryPairs.foldl (fun s p => s.mergeTwo gid p.1 p.2) s
      State.coalesceN n (s1.setGroup gid (s1.group gid).settle) gid
    else s

/-- Every merge of the group, also with the splits that are popped into the freed entries (R115, R119): each round frees an
entry, which 32 entries of the stack at most fill again. -/
def State.coalesce (s : State) (gid : Nat) : State := State.coalesceN 36 s gid

/-- The groups of an issue slot: 16 contexts (R13). -/
def slotGroups (slot : Nat) : List Nat := span (16 * slot) 16

/-- Merge the splits of every group of a slot that runs. -/
def State.coalesceSlot (s : State) (slot : Nat) : State :=
  (slotGroups slot).foldl (fun s gid => if (s.group gid).runs && !s.coreStands gid then s.coalesce gid else s) s

/-! ## Selection (R128, R129) -/

/-- PRIO of the hint byte of an instruction's words, 0 where it has none (R40). -/
def hintPrio (ws : List Nat) : Nat := if ws.headD 0 % 2 = 1 then field (ws.getD 1 0) 6 2 else 0

/-- A number as its complement, so that greater comes first. -/
def lessFirst (bound n : Nat) : Nat := bound - n

/-- The keys of a ready split in order; the least list goes first. Promoted splits of a class go before the others, by time; one
that has become ready with its AGE at 256 is promoted now (R129). -/
def State.keys (s : State) (gid e : Nat) : List Nat :=
  let g := s.group gid
  let x := g.split e
  let prio := match s.wordsOfSplit gid e with
    | .ok (ws, _) => hintPrio ws
    | .error _ => 0
  (if g.isCritical then 0 else 1) ::
  (match x.promoted with
    | some t => [0, t]
    | none => if 256 ≤ x.age then [0, s.clock] else [1, 0]) ++ [lessFirst 3 g.prio, lessFirst 3 prio, lessFirst 511 x.age, gid, e]

/-- Does one list of keys come before another? -/
def keysBefore : List Nat → List Nat → Bool
  | a :: as, b :: bs => decide (a < b) || (decide (a = b) && keysBefore as bs)
  | _, _ => false

/-- The ready splits of a slot. -/
def State.readySplits (s : State) (slot : Nat) : List Cursor :=
  (slotGroups slot).flatMap fun gid => ((List.range 4).filter (s.isReady gid)).map fun e => ⟨gid, e⟩

/-- The split of a list that comes first. -/
def State.firstOf (s : State) (cs : List Cursor) : Option Cursor :=
  cs.foldl (fun best c => match best with
    | none => some c
    | some b => if keysBefore (s.keys c.gid c.entry) (s.keys b.gid b.entry) then some c else some b) none

/-- The split that the slot chooses first. -/
def State.select (s : State) (slot : Nat) : Option Cursor := s.firstOf (s.readySplits slot)

/-- The split at cur is about to issue: its AGE starts again, and it is no longer promoted (R109, R129). -/
def State.chosen (s : State) (c : Cursor) : State :=
  let g := s.group c.gid
  { s.setGroup c.gid (g.setSplit c.entry { (g.split c.entry) with age := 0, promoted := none }) with
    cur := c, was := g.split c.entry }

/-- The slot is taken up by the instruction, whose cycles are counted (R105, R339). -/
def State.occupy (s : State) (slot : Nat) (i : Instr) : State :=
  let n := s.grp.issueCycles s.em i
  ({ s with busy := Sparse.set 0 s.busy slot (s.clock + n) }).count s.grp.ctx 0 n

/-- The fetch fault of the issuing split (R53): the whole split, with the address of the word. -/
def State.fetchFault (s : State) (a : Nat) : State := s.trapEntry 0x24 ⟨4, 3, 1, a⟩

/-- A flashback point of the image's table is taken before its instruction (R30, R334); in drain mode the group is rewound
instead (R335). The flag says whether the instruction goes on. -/
def State.pointHere (s : State) : State × Bool :=
  let g := s.grp
  match s.flashEntry g s.pc.toNat with
  | none => (s, true)
  | some p =>
    let s1 := s.setGrp (g.takePoint s.cur.entry s.was s.pc (some p))
    if g.drains then (s1.rewindGroup s.cur.gid, false) else (s1, true)

/-- What the words at the PC of the issuing split are: an instruction of it, or else the trap at decode (R51). The flag says
which. -/
def State.readWords (s : State) (ws : List Nat) : Instr × Bool :=
  match decodeWords ws with
  | .instr i => (i, s.grp.legal s.spl.sup i)
  | .reject r => (.illegalInstructionWord r.detail, false)

/-- A split of the slot issues: its words are fetched, and f carries out what they decode to. -/
def State.issueSplit (slot : Nat) (f : Instr → State → Out) (c : Cursor) (s : State) : Out :=
  let s1 := s.chosen c
  match s.wordsOfSplit c.gid c.entry with
  | .error .held => .next s.stand
  | .error (.fault a) => .next (s1.fetchFault a)
  | .ok (ws, es) =>
    let s2 := es.foldl (fun s e => s.cache (quarterOf c.gid) e) s1
    let r := s2.readWords ws
    let s3 := s2.occupy slot r.1
    if r.2 then
      match s3.pointHere with
      | (s4, true) => f r.1 s4
      | (s4, false) => .next s4
    else f r.1 s3

/-- What stays of an instruction that has been held at issue: the request it made of the governor (R397; log 67). -/
def State.keepHeld (s : State) (c : Cursor) (t : State) : State :=
  let g := s.group c.gid
  { s.setGroup c.gid (g.setSplit c.entry { (g.split c.entry) with hold := ((t.group c.gid).split c.entry).hold }) with
    dies := t.dies }

/-- The slot issues the first of the splits whose instruction is not held at issue (R128; log 67); n bounds the tries. -/
def State.issueFrom (slot : Nat) (f : Instr → State → Out) : Nat → List Cursor → State → Out
  | 0, _, s => .next s
  | n + 1, cs, s =>
    match s.firstOf cs with
    | none => .next s
    | some c =>
      match State.issueSplit slot f c s with
      | .next t => if t.stands then State.issueFrom slot f n (cs.erase c) (s.keepHeld c t) else .next t
      | r => r

/-- The slot issues, where it is free: splits merge first (R119). -/
def State.issueWith (s : State) (slot : Nat) (f : Instr → State → Out) : Out :=
  let s1 := s.coalesceSlot slot
  if s.clock < Sparse.get 0 s.busy slot then .next s1
  else State.issueFrom slot f (s1.readySplits slot).length (s1.readySplits slot) s1

/-- After an instruction the group's pending pre-emption acts, where the instruction has ended what deferred it (R335). -/
def afterIssue (s : State) : State := s.preemptGroup s.cur.gid

/-! ## Turns (log 1) -/

/-- Is the row an event, which no words encode? -/
def isEvent (i : Instr) : Bool :=
  match i with
  | .illegalInstructionWord _ => false
  | _ => (encodeFrame i).isNone

/-- Change the state of a next outcome. -/
def thenDo (r : Out) (f : State → State) : Out :=
  match r with
  | .next s => .next (f s)
  | .fault x => .fault x
  | .refused x => .refused x

/-- The turn that comes when the agenda is empty: after one cycle, the slot of the group at cur issues. -/
def State.defaultTurn (s : State) : Turn := ⟨1, .issue (s.cur.gid / 16)⟩

/-- The next turn, and the state without it. -/
def State.nextTurn (s : State) : Turn × State :=
  match s.agenda with
  | [] => (s.defaultTurn, s)
  | t :: rest => (t, { s with agenda := rest })

/-- A turn begins: free values are new, and its cycles pass. -/
def State.begin (s : State) (t : Turn) : State := { s with fresh := s.fresh + 1, stands := false }.elapse t.cycles

/-- Carry out a turn, f being what instructions and events do. -/
def State.runTurn (s : State) (f : Instr → State → Out) (t : Turn) : Out :=
  match t.who with
  | .event i => if isEvent i then f i (s.begin t) else .next (s.begin t)
  | .issue slot => thenDo ((s.begin t).issueWith slot f) afterIssue
  | .idle => .next (s.begin t)

/-! ## One instruction placed where the next turn fetches -/

/-- What the group that fetches declares: every register, one tangent slot, and every barrier. -/
def fetchDecl : Decl := ⟨256, 1, 256, false, [12], 131072, 0xFFFFFFFF⟩

/-- The bytes of a page table that maps virtual addresses below 1 GiB to the same physical ones: entry 0 of level 0 at
0x10000, and entry 0 of level 1, a leaf with every permission to a user, at 0x20000 (R347). -/
def fetchTables : List (Nat × List Byte) := [(0x10000, bytesOf 8 (0x20000 + 1)), (0x20000, bytesOf 8 (7 * 2 ^ 60 + 3))]

/-- HBM with runs of bytes put in, unmarked. -/
def Die.place (d : Die) (l : List (Nat × List Byte)) : Die :=
  l.foldl (fun d p => { d with mem := Sparse.setRange 0 d.mem p.1 p.2,
                               marks := Sparse.clearRange d.marks p.1 (p.1 + p.2.length) }) d

/-- The context that the group belongs to: resident, with that page table and nothing else. -/
def fetchContext : Context := { Context.absent with state := .resident, root := 0x10000 }

/-- One group, of one lane, whose PC is 0, where the words stand; it alone is ready, and its slot has the next turn. -/
def State.placeWords (s : State) (bytes : List Byte) : State :=
  let gid := s.cur.gid
  let q := quarterOf gid
  let l := (0, bytes) :: fetchTables
  let s1 := (s.setDie (dieOf gid) ((s.die (dieOf gid)).place l))
  let s2 := (s1.setDie 0 ((s1.die 0).place l)).setQuarter q { (s1.quarter q) with tlb := [] }
  let s3 := (s2.setContext 0 fetchContext).setPart 0 { (s2.part 0) with resident := some 0 }
  let s4 := s3.setGang 0 { Gang.none with life := .resident, core := coreOf gid, decl := fetchDecl, launched := 1, nextIdx := 1 }
  { s4.setGrid 0 { Grid.none with live := true } with
    groups := [(gid, newGroup 0 0 0 0 fetchDecl ⟨1, 0, 1, 0, 1, 0, 1, 0, 1, 0⟩ 0 1)],
    agenda := [⟨0, .issue (gid / 16)⟩], cur := ⟨gid, 0⟩, bringUp := .ready, clockStopped := false, busy := [],
    frozen := [] }

end Sys2Proof.Machine
end

