-- ==== Sys2Proof/Machine/Queues.lean ====
section
/-!
DEFINITION. Queues and their commands (R306 to R312), launch descriptors and the admission of grids (R239, R319 to R322).
-/

namespace Sys2Proof.Machine

/-! ## Commands -/

def Context.queue (c : Context) (q : Nat) : Queue := Sparse.get Queue.idle c.queues q
def Context.setQueue (c : Context) (q : Nat) (x : Queue) : Context :=
  { c with queues := Sparse.set Queue.idle c.queues q x }

def State.queue (s : State) (ctx q : Nat) : Queue := (s.context ctx).queue q
def State.setQueue (s : State) (ctx q : Nat) (x : Queue) : State := s.setContext ctx ((s.context ctx).setQueue q x)

/-- A command by its OP (R308), with its operands, which stand as 64-bit words from byte 8 on (log 29). -/
inductive Command where
  | launch (evid desc : Nat)
  | wsload (src off len mask : Nat)
  | waitev (evid k : Nat)
  | signal (va value : Nat)
  | nop
  | bad
  deriving DecidableEq, Repr

/-- Read the 64 bytes of an entry. -/
def commandOf (x : Nat) : Command :=
  let evid := field x 48 16
  let w := fun i => field x (64 + 64 * i) 64
  if field x 8 40 ≠ 0 then .bad
  else
    match field x 0 8 with
    | 1 => if 4095 < evid then .bad else .launch evid (w 0)
    | 2 => if evid ≠ 0 then .bad else .wsload (w 0) (w 1) (w 2) (w 3)
    | 3 => if evid ≠ 0 then .bad else .waitev (w 0) (w 1)
    | 4 => if evid ≠ 0 then .bad else .signal (w 0) (w 1)
    | 5 => if evid ≠ 0 then .bad else .nop
    | _ => .bad

/-- Has the queue an entry to read (R307)? -/
def Queue.isOpen (x : Queue) : Bool := !x.stopped && decide (x.rptr < x.wptr)

/-- The error of a queue with an entry to read, whatever the entry holds (R306, R312). -/
def Queue.headerError (x : Queue) : Option Nat :=
  if x.rsize < 4 ∨ 16 < x.rsize then some 1 else if x.rptr + 2 ^ x.rsize < x.wptr then some 5 else none

/-- The command at the head of a queue, when there is one to read (R307). An entry that is not mapped reads as zero. -/
def State.headCommand (s : State) (ctx q : Nat) : Option Command :=
  let x := s.queue ctx q
  if !x.isOpen || x.headerError.isSome then none
  else
    let bs := (s.readMapped ctx ((x.base + 64 * (x.rptr % 2 ^ x.rsize)) % 2 ^ 52) 64).getD []
    some (commandOf (ofBytes bs))

/-- The queue stops with an error, and the host driver hears of it (R312). -/
def State.queueError (s : State) (ctx q err : Nat) : State :=
  (s.setQueue ctx q { (s.queue ctx q) with stopped := true, err := err }).notify (.queueError ctx q err)

/-! ## Launch descriptors (R319, R321) -/

/-- The fields of a launch descriptor. -/
structure LaunchDesc where
  args : List Word64
  diemap : List Nat
  fmode : List Nat
  cor : Bool
  spans : Nat
  bands : Nat
  gangs : Nat
  groups : Nat
  image : Nat
  resv : Bool
  deriving DecidableEq, Repr

/-- Read the 128 bytes of a launch descriptor. -/
def launchDesc (x : Nat) : LaunchDesc :=
  { args := (List.range 8).map fun i => BitVec.ofNat 64 (field x (512 + 64 * i) 64),
    diemap := (List.range 8).map fun i => field x (232 + 3 * i) 3,
    fmode := (List.range 8).map fun i => field x (216 + 2 * i) 2,
    cor := bitAt x 208, spans := field x 184 8, bands := field x 176 8, gangs := field x 168 8,
    groups := field x 160 8, image := field x 0 64,
    resv := decide (field x 256 256 ≠ 0) || decide (field x 209 7 ≠ 0) || decide (field x 192 16 ≠ 0) ||
      decide (field x 64 96 ≠ 0) }

/-- The quarters of a die in a partition, as device quarters in ascending order. -/
def Partition.onDie (p : Partition) (die : Nat) : List Nat := (span (4 * die) 4).filter fun q => p.qmask.getLsbD q

/-- The blocks of a fusion mode, as quarters of the die (R239). -/
def fusedBlocks (mode : Nat) : List (List Nat) :=
  match mode with
  | 1 => [[0, 1], [2, 3]]
  | 2 => [[0, 2], [1, 3]]
  | 3 => [[0, 1, 2, 3]]
  | _ => []

/-- The quarters that hold the bands of span k. -/
def LaunchDesc.spanQuarters (d : LaunchDesc) (p : Partition) (k : Nat) : List Nat :=
  (p.onDie (d.diemap.getD k 0)).take d.bands

/-- The blocks that the mode of span k forms: those with a quarter that holds a band. -/
def LaunchDesc.formed (d : LaunchDesc) (p : Partition) (k : Nat) : List (List Nat) :=
  ((fusedBlocks (d.fmode.getD k 0)).map fun b => b.map (4 * d.diemap.getD k 0 + ·)).filter fun b =>
    b.any fun q => (d.spanQuarters p k).contains q

/-- Does one gang of the declaration fit an empty core (R14, R81, R96, R299)? -/
def gangFitsEmpty (d : Decl) (groups : Nat) : Bool :=
  decide (groups * d.pool ≤ 262144) && decide (groups * d.tangents ≤ 262144) && decide (d.occupancy ≤ 524288)

/-- Gangs of a kind that a core holds, of n groups each, when it has the given amounts free. -/
def roomFor (d : Decl) (groups contexts pool tangents spad bars : Nat) : Nat :=
  let per := fun (have_ need : Nat) => if need = 0 then 64 else have_ / need
  [per contexts groups, per pool (groups * d.pool), per tangents (groups * d.tangents), per spad d.occupancy,
   per bars (popCount 32 d.barmask)].foldl Nat.min 64

/-- Gangs that an empty core holds. -/
def roomEmpty (d : Decl) (groups : Nat) : Nat := roomFor d groups 64 262144 262144 524288 32

/-- Gangs that a core has room for now. -/
def State.roomNow (s : State) (core : Nat) (d : Decl) (groups : Nat) : Nat :=
  let l := s.coreGroups core
  let y := s.coreGangs core
  roomFor d groups (s.freeContexts core).length (262144 - (l.map fun p => p.2.decl.pool).sum)
    (262144 - (l.map fun p => p.2.decl.tangents).sum) (524288 - (y.map fun p => p.2.decl.occupancy).sum)
    (32 - (y.map fun p => popCount 32 p.2.decl.barmask).sum)

/-- Is the launch refused (R321, R322)? -/
def LaunchDesc.refused (d : LaunchDesc) (p : Partition) (k : Decl) : Bool :=
  let dies := d.diemap.take d.spans
  d.resv || decide (d.spans = 0) || decide (8 < d.spans) || decide (d.bands = 0) || decide (4 < d.bands) ||
  decide (d.gangs = 0) || decide (16 < d.gangs) || decide (d.groups = 0) || decide (16 < d.groups) ||
  !decide dies.Nodup || dies.any (fun x => decide ((p.onDie x).length < d.bands)) ||
  (List.range d.spans).any (fun j => (d.formed p j).any fun b => b.any fun q => !p.qmask.getLsbD q) ||
  !gangFitsEmpty k d.groups || (d.cor && decide (16 * roomEmpty k d.groups < d.gangs))

/-! ## When a command can start -/

/-- Is a grid of any context resident on the die? -/
def State.gridOn (s : State) (die : Nat) : Bool :=
  s.grids.any fun g => g.2.live && g.2.quarters.any fun b => decide (b.2 / 4 = die)

/-- Does a WSLOAD at the head of its queue, or under way, keep new grids off the die (R310)? -/
def State.loadOn (s : State) (die : Nat) : Bool :=
  !(s.die die).wsloads.isEmpty ||
  s.contexts.any fun c => (List.range 16).any fun q =>
    match s.headCommand c.1 q with
    | some (.wsload _ _ _ m) => bitAt m die
    | _ => false

/-- Does a band of a live grid stand on the quarter? -/
def State.bandOn (s : State) (q : Nat) : Bool := s.grids.any fun g => g.2.live && g.2.quarters.any fun b => decide (b.2 = q)

/-- Do a grid's quarters have the fusion they need, or can they take it, with no live grid fused otherwise (R239; log 30)? -/
def State.fusionFree (s : State) (d : LaunchDesc) (p : Partition) : Bool :=
  (List.range d.spans).all fun k =>
    let inBlocks := (d.formed p k).flatten
    (d.spanQuarters p k ++ inBlocks).all fun q =>
      let x := s.quarter q
      let need := if inBlocks.contains q then d.fmode.getD k 0 else 0
      !x.leaving && (x.fuse == need || (x.fuse == 0 && !s.bandOn q))

/-- Cores of a device quarter. -/
def quarterCores (q : Nat) : List Nat := span (16 * q) 16

/-- Gangs that a core takes now: a frozen one takes none. -/
def State.roomOn (s : State) (core : Nat) (d : Decl) (groups : Nat) : Nat :=
  if s.frozen.contains (.core core) then 0 else s.roomNow core d groups

/-- Can every gang of a co-resident grid be dispatched at once (R322)? -/
def State.corFits (s : State) (d : LaunchDesc) (p : Partition) (k : Decl) : Bool :=
  (List.range d.spans).all fun j => (d.spanQuarters p j).all fun q =>
    decide (d.gangs ≤ ((quarterCores q).map fun c => s.roomOn c k d.groups).sum)

/-- Can a well-formed launch start now (R239, R310, R322)? -/
def State.launchReady (s : State) (d : LaunchDesc) (p : Partition) (k : Decl) : Bool :=
  (d.diemap.take d.spans).all (fun x => !s.loadOn x && !s.umberStands x) && s.fusionFree d p && (!d.cor || s.corFits d p k)

/-- The launch descriptor at an address, when it is mapped. -/
def State.descAt (s : State) (ctx va : Nat) : Option LaunchDesc := (s.readMapped ctx va 128).map fun b => launchDesc (ofBytes b)

/-- Is a LAUNCH one that starts or fails now? -/
def State.launchActs (s : State) (ctx desc : Nat) : Bool :=
  match s.descAt ctx desc with
  | none => true
  | some d =>
    match (s.loadImageAt ctx d.image).2 with
    | none => true
    | some i => d.refused (s.part (s.context ctx).part) i.decl || s.launchReady d (s.part (s.context ctx).part) i.decl

/-- Can the command at the head of a queue be carried out now (R308, R309)? Die 0 starts the commands that name no die. -/
def State.commandReady (s : State) (ctx q : Nat) : Command → Bool
  | .launch _ desc => s.launchActs ctx desc
  | .wsload _ _ _ m => (List.range 8).all fun d => !bitAt m d || (!s.gridOn d && !s.umberStands d)
  | .waitev e k => !s.umberStands 0 && (decide (4095 < e) || decide (k ≤ Sparse.get 0 (s.context ctx).events e))
  | .signal _ _ => !s.umberStands 0 && (s.queue ctx q).running.isEmpty
  | .nop => !s.umberStands 0
  | .bad => false

/-- STATE of a queue (R306, R312): a head command that cannot start blocks it. -/
def State.queueState (s : State) (ctx q : Nat) : QueueState :=
  let x := s.queue ctx q
  if x.stopped then .stopped
  else if x.wptr ≤ x.rptr then .idle
  else
    match s.headCommand ctx q with
    | none => .running
    | some .bad => .running
    | some c => if s.commandReady ctx q c then .running else .blocked

/-- STATE as the descriptor has it (R306). -/
def QueueState.code : QueueState → Nat
  | .idle => 0
  | .running => 1
  | .blocked => 2
  | .stopped => 3

/-- The 256 bits of a queue descriptor (R306). -/
def State.queueBits (s : State) (ctx q : Nat) : Nat :=
  let x := s.queue ctx q
  x.base % 2 ^ 52 * 2 ^ 153 + x.rsize % 32 * 2 ^ 148 + x.prio % 4 * 2 ^ 146 + (s.queueState ctx q).code * 2 ^ 144 +
    x.err % 2 ^ 16 * 2 ^ 128 + x.wptr % 2 ^ 64 * 2 ^ 64 + x.rptr % 2 ^ 64

/-- Examine the head of a queue (R306, R312): an error of the descriptor or of the entry's header stops it. -/
def State.examine (s : State) (ctx q : Nat) : State :=
  let x := s.queue ctx q
  if !x.isOpen then s
  else
    match x.headerError with
    | some e => s.queueError ctx q e
    | none => if s.headCommand ctx q = some .bad then s.queueError ctx q 1 else s

/-- The queues of a context whose head command can be carried out. -/
def State.readyQueues (s : State) (ctx : Nat) : List Nat :=
  (List.range 16).filter fun q => match s.headCommand ctx q with
    | some c => s.commandReady ctx q c
    | none => false

/-- The queue that the dispatcher serves next (R311): the highest PRIO, and within it in turn after the one last served. -/
def State.nextQueue (s : State) (ctx : Nat) : Option Nat :=
  let c := s.context ctx
  let l := s.readyQueues ctx
  let top := l.foldl (fun m q => Nat.max m (c.queue q).prio) 0
  let l1 := l.filter fun q => (c.queue q).prio == top
  let last := Sparse.get 0 c.served top
  match l1.find? fun q => decide (last ≤ q) with
  | some q => some q
  | none => l1.head?

/-- Does the dispatcher carry out a command of this queue now: is its context resident, and is its turn come? -/
def State.serves (s : State) (ctx q : Nat) : Bool :=
  s.bringUp == .ready && (s.context ctx).state == .resident && s.nextQueue ctx == some q

/-- The head command starts: RPTR moves on, and the queue is the last served of its PRIO. -/
def State.startCommand (s : State) (ctx q : Nat) (run : List Started) : State :=
  let c := s.context ctx
  let x := c.queue q
  (s.setContext ctx { c.setQueue q { x with rptr := x.rptr + 1, running := x.running ++ run } with
    served := Sparse.set 0 c.served x.prio (q + 1) }).examine ctx q

/-! ## Admission of a grid (R308, R318 to R322) -/

/-- Quarters of a grid by 4 span + band (R320). -/
def LaunchDesc.places (d : LaunchDesc) (p : Partition) : Sparse Nat :=
  (List.range d.spans).flatMap fun k => (d.spanQuarters p k).zipIdx.map fun q => (4 * k + q.2, q.1)

/-- The blocks of a grid form (R239). -/
def State.fuse (s : State) (d : LaunchDesc) (p : Partition) (grid : Nat) : State :=
  (List.range d.spans).foldl (fun s k =>
    (d.formed p k).foldl (fun s b =>
      b.foldl (fun s q => s.setQuarter q
        { (s.quarter q) with fuse := d.fmode.getD k 0, fuseGrids := grid :: (s.quarter q).fuseGrids,
                             lead := b.headD 0 % 4 }) s) s) s

/-- The grid is admitted. -/
def State.startGrid (s : State) (ctx q evid : Nat) (d : LaunchDesc) (i : Image) : State :=
  let c := s.context ctx
  let p := s.part c.part
  let x := c.queue q
  let k := s.nextGrid
  let g : Grid :=
    { live := true, ctx := ctx, queue := q, evid := evid, prio := x.prio, image := i.base, entry := i.entry,
      datalen := i.dataLen, decl := i.decl, spans := d.spans, bands := d.bands, gangs := d.gangs, groups := d.groups,
      diemap := d.diemap.take d.spans, fmode := d.fmode.take d.spans, cor := d.cor, args := d.args, wsmap := c.wsmap,
      quarters := d.places p, left := [], dispatched := 0, retired := 0, lastRetire := 0, lastFlip := 0,
      savedBands := [] }
  let s1 := (s.setContext ctx { c with events := Sparse.set 0 c.events evid 0 }).setGrid k g
  ({ s1 with nextGrid := k + 1 }.fuse d p k).startCommand ctx q [⟨x.rptr, some k, none⟩]

/-! ## WSLOAD (R308, R310, R349) -/

/-- May WSLOAD write the weight-store byte on the die, and where does it stand? -/
def wsTarget (map : List WsEntry) (die a : Nat) : Option Nat :=
  match wsEntry map a with
  | some e => if e.wr && bitAt e.dies die then some (a - e.base + e.phys) else none
  | none => none

/-- The checks of ERR 0x03. -/
def State.wsloadOk (s : State) (ctx src off len mask : Nat) : Bool :=
  decide (len % 65536 = 0) && s.mapped ctx .read src len &&
  (List.range 8).all fun d => !bitAt mask d ||
    (List.range len).all fun i => (wsTarget (s.context ctx).wsmap d (off + i)).isSome

/-- WSLOAD starts. -/
def execWsload (ctx q : Nat) (s : State) : Out :=
  .next (
    match s.headCommand ctx q with
    | some (.wsload src off len mask) =>
      if !s.serves ctx q then s
      else if !s.wsloadOk ctx src off len mask then s.queueError ctx q 3
      else
        let k := (s.queue ctx q).rptr
        let s1 := (List.range 8).foldl (fun s d =>
          if bitAt mask d then s.setDie d { (s.die d) with wsloads := (s.die d).wsloads ++ [⟨ctx, q, k, src, off, len⟩] } else s) s
        s1.startCommand ctx q (if mask % 256 = 0 then [] else [⟨k, none, none⟩])
    | _ => s.examine ctx q)

/-- The bytes of a WSLOAD on one die. -/
def State.loadWs (s : State) (w : WsLoad) (die : Nat) (bs : List Byte) : State :=
  let map := (s.context w.ctx).wsmap
  let d := s.die die
  s.setDie die { d with
    wsloads := d.wsloads.erase w,
    ws := bs.zipIdx.foldl (fun m b => match wsTarget map die (w.off + b.2) with
      | some o => Sparse.set 0 m o b.1
      | none => m) d.ws }

/-- A command of the queue that runs is over; the head that may start now is examined. -/
def State.endCommand (s : State) (ctx q : Nat) (p : Started → Bool) : State :=
  let x := s.queue ctx q
  match x.running.find? p with
  | some r => (s.setQueue ctx q { x with running := x.running.erase r }).examine ctx q
  | none => s

/-- WSLOAD_COMPLETE (R308): the last byte of a WSLOAD of the queue is written on every die of its mask. Which of several completes
is a free choice (log 24). -/
def execWsloadComplete (ctx q : Nat) (s : State) : Out :=
  let l := (((List.range 8).flatMap fun d => (s.die d).wsloads).filter fun w =>
    decide (w.ctx = ctx) && decide (w.queue = q)).eraseDups
  .next (
    match l[s.pick l.length]? with
    | none => s
    | some w =>
      let dies := (List.range 8).filter fun d => (s.die d).wsloads.contains w
      let bs := (s.readMapped ctx w.src w.len).getD []
      (dies.foldl (fun s k => s.loadWs w k bs) s).endCommand ctx q fun r => decide (r.entry = w.entry))

/-! ## WAITEV, SIGNAL and NOP (R308, R309) -/

/-- WAITEV starts, and so completes, once its event has counted k gangs. -/
def execWaitev (ctx q : Nat) (s : State) : Out :=
  .next (
    match s.headCommand ctx q with
    | some (.waitev e _) =>
      if !s.serves ctx q then s else if 4095 < e then s.queueError ctx q 4 else s.startCommand ctx q []
    | _ => s.examine ctx q)

/-- The bytes of a SIGNAL that lie in peer or host memory go out over a link, and their acknowledgement is awaited (R308, R360; log
71). They lie x.1 bytes into the value. -/
def State.sendSignal (s : State) (ctx q entry : Nat) (bytes : List Byte) (x : Nat × Nat × Nat) : State :=
  let part := (bytes.drop x.1).take x.2.2
  let ask := fun (s : State) (k chip a : Nat) =>
    s.sendAsk (16 * ctx + q) entry k chip x.2.1 x.2.2 .signal 3 (bytesOf 8 a ++ part)
  match physKind x.2.1 with
  | .peer chip => if s.peerUp chip then ask s (s.peerPort chip x.2.1) chip (x.2.1 % 2 ^ 39) else s
  | .host => if s.hostUp then ask s 16 0 x.2.1 else s
  | _ => s

/-- The pieces of a SIGNAL's eight bytes: place in the value, physical address, length. -/
def State.signalPieces (s : State) (ctx va : Nat) : List (Nat × Nat × Nat) :=
  ((s.virtPieces 0 ctx .write 2 va 8).getD []).foldl (fun l p => l ++ [((l.map fun x => x.2.2).sum, p)]) []

/-- Does the SIGNAL of an entry wait for an acknowledgement of a peer or of the host? -/
def State.signalAsks (s : State) (ctx q entry : Nat) : Bool :=
  s.ports.any fun p => p.2.asked.any fun a =>
    a.kind == .signal && decide (a.gid = 16 * ctx + q) && decide (a.id = entry)

/-- SIGNAL starts: die 0 originates its write. -/
def execSignal (ctx q : Nat) (s : State) : Out :=
  .next (
    match s.headCommand ctx q with
    | some (.signal va x) =>
      if !s.serves ctx q then s
      else if !s.mapped ctx .write va 8 then s.queueError ctx q 4
      else
        let r := s.writeMapped ctx va (bytesOf 8 x)
        let k := (s.queue ctx q).rptr
        ((s.signalPieces ctx va).foldl (fun t p => t.sendSignal ctx q k (bytesOf 8 x) p) r.1).startCommand ctx q
          [⟨k, none, some r.2⟩]
    | _ => s.examine ctx q)

/-- SIGNAL_COMPLETE (R308): its write has been performed at system scope: on every die, and at the peer or the host. -/
def execSignalComplete (ctx q : Nat) (s : State) : Out :=
  .next (s.endCommand ctx q fun r => match r.stamp with
    | some σ => s.everywhere σ && !s.signalAsks ctx q r.entry
    | none => false)

/-- QUEUE_NOP (R308). -/
def execQueueNop (ctx q : Nat) (s : State) : Out :=
  .next (
    match s.headCommand ctx q with
    | some .nop => if s.serves ctx q then s.startCommand ctx q [] else s
    | _ => s.examine ctx q)

/-! ## The host driver's writes (R307, R312) -/

/-- WPTR_WRITE: the head command is examined. A host write is dropped while Pradan is not usable (R362). -/
def execWptrWrite (ctx q val : Nat) (s : State) : Out :=
  .next (s.whenReady (
    if (s.context ctx).state == .absent || decide (16 ≤ q) || !s.hostUp then s
    else (s.setQueue ctx q { (s.queue ctx q) with wptr := val % 2 ^ 64 }).examine ctx q))

/-- RPTR_REWRITE: a stopped queue is idle again, at a new RPTR; dropped while Pradan is not usable (R362). -/
def execRptrRewrite (ctx q val : Nat) (s : State) : Out :=
  .next (s.whenReady (
    if (s.queue ctx q).stopped && s.hostUp then
      (s.setQueue ctx q { (s.queue ctx q) with stopped := false, err := 0, rptr := val % 2 ^ 64 }).examine ctx q
    else s))

end Sys2Proof.Machine
end

