-- ==== Sys2Proof/Machine/SaveArea.lean ====
section
/-!
DEFINITION. The bytes of a context's save area (R111, R300, R337, R339, R343, R353). The numbers of a part whose layout
the manual does not give stand in it in an unknown layout (log 32); the saved state itself stays in the state of the machine.
-/

namespace Sys2Proof.Machine

/-- n bytes that hold numbers in a layout that the manual does not give (log 32). -/
def laidOut (n kind : Nat) (x : List Nat) : List Byte := fitBytes n (Config.recordLayout kind x)

/-- A flag as a number. -/
def flagNum (b : Bool) : Nat := if b then 1 else 0

/-- The states of a split in the order of R110. -/
def SplitState.num : SplitState → Nat
  | .runnable => 0
  | .waiting => 1
  | .joining => 2
  | .held => 3

/-- The fields of a split-table entry (R109). -/
def Split.nums (x : Split) : List Nat :=
  [flagNum x.v, x.state.num, x.hstate.num, flagNum x.sup, x.pc.toNat, x.mask.toNat, x.tok, x.age]

/-- The state of a window register (R202). -/
def Window.nums (w : Window) : List Nat :=
  [flagNum w.valid, w.base, match w.perm with | .r => 1 | .w => 2 | .rw => 3, w.frame, w.flim, flagNum w.sup]

/-- A binding of a handle: 1 and its two numbers, or 0. -/
def bindingNums (b : Option (Nat × Nat)) : List Nat :=
  match b with
  | some p => [1, p.1, p.2]
  | none => [0, 0, 0]

/-- A stamp as its eight counts. -/
def Stamp.nums (σ : Stamp) : List Nat := (List.range 8).map fun d => σ.at d

/-- Code of a kind of stack entry (R111). -/
def EntryKind.code : EntryKind → Nat
  | .joining => 0
  | .deferred => 1
  | .join => 2
  | .trap => 3

/-- The 128 bits of a stack entry (R111). -/
def StackEntry.bits (x : StackEntry) : Nat :=
  x.cause % 2 ^ 16 * 2 ^ 112 + x.tok % 32 * 2 ^ 107 + x.kind.code * 2 ^ 105 + (if x.sup then 2 ^ 104 else 0) +
    x.mask.toNat * 2 ^ 64 + x.pc.toNat / 4 * 4

/-- The stack image: entry 0 is the bottom (R111). -/
def stackImage (l : List StackEntry) : List Byte :=
  (List.range 32).flatMap fun k => bytesOf 16 (match l.reverse[k]? with | some x => x.bits | none => 0)

/-- The bytes of a saved register, with the tangent planes of a dual one (R337). -/
def Group.regBytes (g : Group) : RegId → List Byte
  | .v k =>
    ((List.range 32).flatMap fun l => bytesOf 4 (g.readV k l).toNat) ++
      (if g.dual k then
        (List.range g.decl.d).flatMap fun d => (List.range 32).flatMap fun l =>
          bytesOf (if g.decl.bf16 then 2 else 4) (g.readT k d l).toNat
      else [])
  | .s k => bytesOf 8 (g.readS k).toNat
  | .m k => bytesOf 4 (g.readM k).toNat
  | _ => []

/-- The registers that a saved set names, in order; of a default point, scalars, masks and vectors (R30, R337). -/
def SavedSet.regs (c : Nat) : SavedSet → List RegId
  | .some l => l
  | .all => (List.range 64).map RegId.s ++ (List.range 16).map RegId.m ++ (List.range c).map RegId.v

/-- A group record (R106, R337); index is the place of its point in the flashback table, if it has one. -/
def Group.record1 (index : Option Nat) (y : Gang) (g : Group) : List Byte :=
  let saved : SavedSet := match g.record with
    | some r => r.saved
    | none => .all
  let regs := saved.regs g.decl.c
  laidOut 64 0 [y.idx, y.band, y.span, g.gctx, g.tlost.toNat, g.edge.toNat, g.crit, g.mxstat.toNat, flagNum g.latch.isSome,
    (g.latch.getD 0).toNat] ++
  stackImage g.stack ++ ((List.range 4).flatMap fun e => laidOut 48 1 (g.split e).nums) ++
  laidOut 128 2 (((List.range 8).flatMap fun w => (g.window w).nums) ++ ((List.range 16).flatMap fun t => bindingNums (g.tile t)) ++
    (List.range 4).flatMap fun f => bindingNums (g.factor f)) ++
  laidOut 128 3 (match g.record with
    | some r => [1, r.pc.toNat, flagNum index.isSome, index.getD 0, regs.length]
    | none => [0, 0, 0, 0, regs.length]) ++
  regs.flatMap g.regBytes

/-- The lane fault file of a group, a record of 256 bytes (R353, R354). -/
def Group.record6 (g : Group) : List Byte :=
  (List.range 32).flatMap fun l =>
    let f := Sparse.get LaneFault.zero g.faults l
    bytesOf 8 (l * 2 ^ 59 + f.lcause % 8 * 2 ^ 56 + f.acc % 4 * 2 ^ 54 + f.space % 4 * 2 ^ 52 + f.addr % 2 ^ 52)

/-- The 32 bytes of a barrier object (R300). -/
def Barrier.bits (b : Barrier) : Nat :=
  b.status.toNat * 2 ^ 160 + b.gen % 2 ^ 32 * 2 ^ 128 + b.arrived % 2 ^ 16 * 2 ^ 112 + b.exparr % 2 ^ 16 * 2 ^ 96 +
    b.landed % 2 ^ 40 * 2 ^ 48 + b.expb % 2 ^ 40

/-- A gang record: the scratchpad to Z, and the barrier images with their stamps (R337). -/
def Gang.record2 (y : Gang) : List Byte :=
  Sparse.getRange 0 y.spad 0 y.decl.occupancy ++
    ((List.range 32).filter (bitAt y.decl.barmask)).flatMap fun b =>
      let x := Sparse.get Barrier.zero y.bars b
      bytesOf 32 x.bits ++ laidOut 64 4 x.stamp.nums

/-- A band record: its factor slots as packed images with n (R256, R337). -/
def SavedBand.record3 (b : SavedBand) : List Byte :=
  b.slots.flatMap fun p => laidOut 16 5 [p.1, p.2.n] ++
    (imageOrder p.2.n).flatMap fun e => bytesOf 4 (Sparse.get 0 p.2.u (128 * e.1.1 + e.1.2)).toNat

/-- The counter bank (R339). -/
def Context.record4 (c : Context) : List Byte := (List.range 8).flatMap fun i => bytesOf 8 (Sparse.get 0 c.counters i)

/-- The guest journal (R343). -/
def Journal.record5 (j : Journal) : List Byte := bytesOf 16 (j.inctx % 2 ^ 16 * 2 ^ 112 + j.outctx % 2 ^ 16 * 2 ^ 96 + j.step % 16)

/-- Offset of the journal's record: it is the first of a save area (log 32). -/
def journalAt : Nat := 4096

/-- Place in the flashback table of the point that a group stands at (R316). -/
def State.pointIndex (s : State) (g : Group) : Option Nat :=
  match g.record, s.image g with
  | some r, some i => i.points.findIdx? fun p => decide (p.point = r.pc.toNat)
  | _, _ => none

/-- The records of a context that has been saved, with their kinds. -/
def State.saveRecords (s : State) (ctx : Nat) : List (Nat × List Byte) :=
  let gangs := (s.gangs.filter fun p => decide (p.2.ctx = ctx) && p.2.life == .saved).map Prod.snd
  let groups := gangs.flatMap fun y => y.saved.map fun g => (y, g)
  let bands := (s.grids.filter fun p => decide (p.2.ctx = ctx)).flatMap fun p => p.2.savedBands
  [(5, (s.vf (s.context ctx).vf).journal.record5), (4, (s.context ctx).record4)] ++
    groups.map (fun p => (1, p.2.record1 (s.pointIndex p.2) p.1)) ++ gangs.map (fun y => (2, y.record2)) ++
    bands.map (fun b => (3, b.record3)) ++ groups.map fun p => (6, p.2.record6)

/-- The directory entries of records that stand from an offset on, one after another (R337). -/
def directory : Nat → List (Nat × List Byte) → List Byte
  | _, [] => []
  | off, r :: rs => bytesOf 8 off ++ bytesOf 4 r.2.length ++ bytesOf 4 r.1 ++ directory (off + r.2.length) rs

/-- The save area: a directory of 256 entries, then the records; what has no entry is not listed (log 32). -/
def saveArea (l : List (Nat × List Byte)) : List Byte :=
  let d := directory journalAt (l.take 256)
  d ++ List.replicate (4096 - d.length) 0 ++ l.flatMap Prod.snd

/-- Write the save area of a context at SAVEBASE (R336, R337). -/
def State.writeSaveArea (s : State) (ctx : Nat) : State :=
  (s.writeMapped ctx (s.context ctx).savebase (saveArea (s.saveRecords ctx))).1

end Sys2Proof.Machine
end

