-- ==== Sys2Proof/Machine/Gangs.lean ====
section
/-!
DEFINITION. Gangs: dispatch (R320, R322), retirement of groups, gangs, bands and grids (R133, R257, R309), saving and
resuming at a flashback point (R30, R289, R337), and grid stalls (R323, R324).
-/

namespace Sys2Proof.Machine

/-! ## Numbers -/

/-- The key of gang number flat of a grid. -/
def gangKey (grid flat : Nat) : Nat := 1024 * grid + flat

/-- Gangs of the grid. -/
def Grid.total (g : Grid) : Nat := g.spans * g.bands * g.gangs

/-- Span and band of gang number flat (R16). -/
def Grid.spanOf (g : Grid) (flat : Nat) : Nat := flat / (g.bands * g.gangs)
def Grid.bandOf (g : Grid) (flat : Nat) : Nat := flat / g.gangs % g.bands

/-- The quarter that holds a band; 32 stands for none. -/
def Grid.quarterOf (g : Grid) (span band : Nat) : Nat := Sparse.get 32 g.quarters (4 * span + band)

/-- What group k of gang number flat reads as its position (R16). -/
def Grid.position (g : Grid) (flat k : Nat) : Position :=
  { groupSize := g.groups, groupIdx := k, gangSize := g.gangs, gangIdx := flat % g.gangs, bandSize := g.bands,
    bandIdx := g.bandOf flat, spanSize := g.spans, spanIdx := g.spanOf flat, gridSize := g.total * g.groups,
    gridIdx := flat * g.groups + k }

/-! ## Dispatch (R320) -/

/-- May gangs of the context be placed on cores of the quarter: is it resident, and is the quarter its partition's to
use? A quarter of a fused block stays in use until the block comes apart (R342). -/
def State.quarterOpen (s : State) (ctx q : Nat) : Bool :=
  s.bringUp == .ready && (s.context ctx).state == .resident && decide (q < 32) &&
  (s.quarter q).part == some (s.context ctx).part && (!(s.quarter q).leaving || (s.quarter q).fuse != 0)

/-- Has the core room for n groups of the declaration with a gang's scratchpad and barriers, at these group contexts (R14,
R81, R96, R299)? -/
def State.placesFit (s : State) (core n : Nat) (d : Decl) (places : List Nat) : Bool :=
  decide (places.length = n) && decide places.Nodup && places.all (fun k => (s.freeContexts core).contains k) &&
  s.poolFits core n d && s.gangFits core d && !s.frozen.contains (.core core)

/-- A barrier as it is armed (R28). -/
def armed (groups : Nat) : Barrier := { Barrier.zero with exparr := groups }

/-- A gang as dispatch makes it (R320): the data section stands in its scratchpad, and its barriers are armed. -/
def Grid.newGang (g : Grid) (grid core flat : Nat) (data : List Byte) : Gang :=
  { life := .resident, ctx := g.ctx, grid := grid, core := core, span := g.spanOf flat, band := g.bandOf flat,
    idx := flat % g.gangs, decl := g.decl, spad := Sparse.setRange 0 [] 0 data, errs := [],
    bars := ((List.range 32).filter (bitAt g.decl.barmask)).foldl
      (fun m b => Sparse.set Barrier.zero m b (armed g.groups)) [],
    launched := g.groups, nextIdx := g.groups, saved := [], chosen := false, savedAt := 0 }

/-- Group k of gang number flat as dispatch makes it: s1 to s8 take the arguments (R320). -/
def Grid.launchGroup (g : Grid) (grid flat k : Nat) : Group :=
  (List.range 8).foldl (fun x i => x.writeS (i + 1) (g.args.getD i 0))
    (newGroup g.ctx grid (gangKey grid flat) g.prio g.decl (g.position flat k) (BitVec.ofNat 52 g.entry)
      (BitVec.allOnes 32))

/-- The data section of the image of a grid (R313). -/
def State.dataSection (s : State) (g : Grid) : List Byte :=
  match (s.context g.ctx).images.find? fun i => decide (i.base = g.image) with
  | some i => (s.readMapped g.ctx (i.base + up64 (64 + i.codeLen)) i.dataLen).getD []
  | none => []

/-- The saved gangs of a band. -/
def State.savedGangs (s : State) (grid span band : Nat) : List (Nat × Gang) :=
  s.gangs.filter fun p => p.2.life == .saved && decide (p.2.grid = grid) && decide (p.2.span = span) &&
    decide (p.2.band = band)

/-- The gangs of every grid that are saved and may come back on the quarter. -/
def State.savedOn (s : State) (q : Nat) : List (Nat × Gang) :=
  s.gangs.filter fun p => p.2.life == .saved && decide ((s.grid p.2.grid).quarterOf p.2.span p.2.band = q) &&
    s.quarterOpen p.2.ctx q

/-- Has a stall of the grid freed the core, and has the grid retired no group since (R324)? -/
def State.stallFreed (s : State) (grid core : Nat) : Bool :=
  s.gangs.any fun p => p.2.life == .saved && decide (p.2.grid = grid) && decide (p.2.core = core) &&
    decide ((s.grid grid).lastRetire < p.2.savedAt)

/-- Is the next gang of the grid to be dispatched now, on the core? Saved gangs go first on their band's quarter (R324), but for
the core that a stall of the grid has freed, which goes to a gang that has not yet run (log 39). -/
def State.dispatchTurn (s : State) (grid core : Nat) : Bool :=
  let g := s.grid grid
  g.live && decide (g.dispatched < g.total) && ((s.savedOn (core / 16)).isEmpty || s.stallFreed grid core)

/-- Put groups at the group contexts of a core. -/
def State.putGroups (s : State) (core : Nat) (l : List (Nat × Group)) : State :=
  l.foldl (fun s p => s.setGroup (64 * core + p.1) p.2) s

/-- The next gang of the grid starts on a core, at these group contexts (R320). -/
def State.dispatchGang (s : State) (grid core : Nat) (places : List Nat) : State :=
  let g := s.grid grid
  let n := g.dispatched
  ((s.setGang (gangKey grid n) (g.newGang grid core n (s.dataSection g))).putGroups core
    (places.zipIdx.map fun p => (p.1, g.launchGroup grid n p.2))).setGrid grid { g with dispatched := n + 1 }

/-- GANG_DISPATCH (R320): the next gang of the grid starts on a core of its band's quarter. -/
def execGangDispatch (grid core : Nat) (places : List Nat) (s : State) : Out :=
  let g := s.grid grid
  let n := g.dispatched
  .next (
    if s.dispatchTurn grid core && s.quarterOpen g.ctx (g.quarterOf (g.spanOf n) (g.bandOf n)) &&
        decide (core / 16 = g.quarterOf (g.spanOf n) (g.bandOf n)) && s.placesFit core g.groups g.decl places then
      s.dispatchGang grid core places
    else s)

/-! ## LAUNCH (R308, R318 to R322) -/

/-- The next gang of a co-resident grid starts: on which core of its band's quarter that has room, and at which free group contexts,
is a free choice (R320; log 11). -/
def State.dispatchCor (s : State) (grid : Nat) : State :=
  let g := s.grid grid
  let n := g.dispatched
  let pick := fun (k m : Nat) => (Config.freeWord s.fresh (2 ^ 22 + 2 * n + k)).toNat % m
  let cores := (quarterCores (g.quarterOf (g.spanOf n) (g.bandOf n))).filter fun c => decide (1 ≤ s.roomOn c g.decl g.groups)
  match cores[pick 0 cores.length]? with
  | none => s
  | some core =>
    let free := s.freeContexts core
    s.dispatchGang grid core ((free.rotateLeft (pick 1 free.length)).take g.groups)

/-- Every gang of a co-resident grid starts as the grid is admitted (R322). -/
def State.dispatchAll (s : State) (grid : Nat) : State :=
  if (s.grid grid).cor then (List.range (s.grid grid).total).foldl (fun s _ => s.dispatchCor grid) s else s

/-- LAUNCH. -/
def execLaunch (ctx q : Nat) (s : State) : Out :=
  .next (
    match s.headCommand ctx q with
    | some (.launch evid desc) =>
      if !s.serves ctx q then s
      else
        match s.descAt ctx desc with
        | none => s.queueError ctx q 2
        | some d =>
          match s.loadImageAt ctx d.image with
          | (s1, none) => s1.queueError ctx q 2
          | (s1, some i) =>
            if d.refused (s.part (s.context ctx).part) i.decl then s1.queueError ctx q 2
            else (s1.startGrid ctx q evid d i).dispatchAll s.nextGrid
    | _ => s.examine ctx q)

/-! ## Retirement (R133, R257, R309) -/

/-- The tiles that a group's handles hold become free: in the bank, or in the context's images. -/
def State.releaseTiles (s : State) (gid : Nat) : State :=
  let g := s.group gid
  let q := quarterOf gid
  let ks := g.t.flatMap fun p => runTiles p.2
  let x := s.quarter q
  if x.owned ∧ x.octx = g.ctx then s.setQuarter q (ks.foldl (Quarter.freeTile s.fresh) x)
  else s.setContext g.ctx (ks.foldl (fun c k => c.setSpill q k 0) (s.context g.ctx))

/-- Factor slots of a band on a quarter become free. -/
def Quarter.freeBand (x : Quarter) (grid span band : Nat) : Quarter :=
  { x with slots := x.slots.filter fun p =>
      !(decide (p.2.grid = grid) && decide (p.2.span = span) && decide (p.2.band = band)) }

/-- Has every gang of a band retired? -/
def State.bandOver (s : State) (grid span band : Nat) : Bool :=
  let g := s.grid grid
  let lo := (span * g.bands + band) * g.gangs
  decide (lo + g.gangs ≤ g.dispatched) && (Sys2Proof.Machine.span lo g.gangs).all fun n =>
    (s.gang (gangKey grid n)).life == .retired

/-- A quarter's block comes apart once no live grid keeps it fused (R239). -/
def Quarter.unfuse (grid : Nat) (x : Quarter) : Quarter :=
  let l := x.fuseGrids.filter fun k => decide (k ≠ grid)
  if l = [] then { x with fuse := 0, fuseGrids := [], lead := 0 } else { x with fuseGrids := l }

/-- The grid ends, and keeps no block fused. -/
def State.unfuse (s : State) (grid : Nat) : State :=
  { s with quarters := Sparse.mapVals Quarter.reset (fun _ x => x.unfuse grid) s.quarters }

/-- The last gang of a grid has retired: LAUNCH completes (R308). -/
def State.endGrid (s : State) (grid : Nat) : State :=
  let g := s.grid grid
  ((s.setGrid grid Grid.none).unfuse grid).endCommand g.ctx g.queue fun r => r.grid == some grid

/-- The last group of a gang has retired: scratchpad and barriers are freed, and the event counts the gang. -/
def State.retireGang (s : State) (k q : Nat) : State :=
  let y := s.gang k
  let g := s.grid y.grid
  let c := s.context y.ctx
  let s1 := (s.setGang k Gang.none).setContext y.ctx
    { c with events := Sparse.modify 0 c.events g.evid fun n => n + 1 }
  let s2 := s1.setGrid y.grid { g with retired := g.retired + 1 }
  let s3 := if s2.bandOver y.grid y.span y.band then
      s2.setQuarter q ((s2.quarter q).freeBand y.grid y.span y.band) else s2
  if g.total ≤ g.retired + 1 then s3.endGrid y.grid else s3

/-- The PC of the instruction at which the group retires; one that a reset retires stands at its lowest split (log 50). -/
def Group.lastPc (g : Group) : Addr52 :=
  match g.validEntries with
  | e :: _ => (g.split e).pc
  | [] => g.exitPc

/-- A fault word still in the latch of a group, at a group context or saved from it, goes to the error record (R260, R331). -/
def State.recordLatch (s : State) (gid : Nat) (g : Group) : State :=
  match g.latch with
  | some w => s.errorEntry g.ctx gid g.lastPc 2 7 (field w.toNat 16 32)
  | none => s

/-- A group retires: its context, its registers and its tiles are released. -/
def State.retireGroup (s : State) (gid : Nat) : State :=
  let g := s.group gid
  let s1 := ((s.recordLatch gid g).releaseTiles gid).setGroup gid Group.free
  let s2 := s1.setGrid g.grid { (s1.grid g.grid) with lastRetire := s1.clock + 1 }
  if (s2.gangGroups g.gang).isEmpty then s2.retireGang g.gang (quarterOf gid) else s2

/-- GROUP_RETIRE (R133): no lane remains, and every counter reads zero. -/
def execGroupRetire (gid : Nat) (s : State) : Out :=
  let g := s.group gid
  .next (if g.life == .retiring && g.ops.isEmpty && !s.coreStands gid then s.retireGroup gid else s)

/-! ## Saving and resuming -/

/-- A group as the save area keeps it: the horizons are one vector (R289). -/
def Group.toSave (g : Group) : Group := { g.joinHorizons with deliveries := [], preempt := false, drain := none }

/-- Is the group at its point, with every operation complete (R336)? -/
def Group.parked (g : Group) : Bool := g.life == .flashed && g.ops.isEmpty

/-- The groups of a gang leave the core and stand in the gang's record. -/
def State.saveGang (s : State) (k : Nat) : State :=
  let y := s.gang k
  let l := s.gangGroups k
  (l.foldl (fun s p => s.setGroup p.1 Group.free) s).setGang k
    { y with life := .saved, saved := l.map fun p => { p.2.toSave with gctx := p.1 % 64 }, chosen := false }

/-- The registers outside the saved set are free values (R335, log 5). -/
def Group.forget (fresh : Nat) (g : Group) (r : SavedSet) : Group :=
  match r with
  | .all => g
  | .some rs =>
    let g1 := ((List.range g.decl.c).filter fun k => !rs.contains (.v k)).foldl (fun g k =>
      (List.range 32).foldl (fun g l =>
        let g2 := g.writeV k l (Config.freeWord fresh (2 ^ 24 + 32 * k + l))
        (List.range g.decl.d).foldl (fun g d =>
          let x := Config.freeWord fresh (2 ^ 25 + 256 * (8 * k + d) + l)
          g.writeT k d l (if g.decl.bf16 then x &&& 0xFFFF#32 else x)) g2) g) g
    let g2 := ((List.range 64).filter fun k => !rs.contains (.s k)).foldl (fun g k =>
      g.writeS k (Config.freeDouble fresh (2 ^ 16 + k))) g1
    ((List.range 16).filter fun k => !rs.contains (.m k)).foldl (fun g k =>
      g.writeM k (Config.freeWord fresh (2 ^ 26 + k))) g2

/-- A split that sleeps on resumption sleeps its full count again (R152). -/
def Split.sleepAgain (clock : Nat) (x : Split) : Split :=
  match x.wait with
  | .sleep n _ next => { x with wait := .sleep n (clock + n) next }
  | _ => x

/-- The recipe of the point, if it has one, runs as if called from it (R30). -/
def Group.startRecipe (g : Group) (r : Rewind) : Group :=
  match r.recipe with
  | none => g
  | some pc =>
    let link := if r.saved.has g.decl.c (.s 63) then some (g.readS 63) else none
    let g1 := (g.writeS 63 (r.pc.setWidth 64)).setSplit r.entry
      { (g.split r.entry) with pc := BitVec.ofNat 52 pc }
    { g1 with recipes := ⟨(g1.split r.entry).mask, r.pc, link⟩ :: g1.recipes }

/-- A flashed group goes on from its point (R30, R108, R337). -/
def Group.resume (fresh clock : Nat) (g : Group) : Group :=
  match g.record with
  | none => { g with life := if g.trapped then .trapped else .resident }
  | some r =>
    let g1 := g.forget fresh r.saved
    let g2 : Group := { g1 with life := if g1.trapped then .trapped else .resident,
                                splits := Sparse.mapVals Split.free (fun _ x => x.sleepAgain clock) g1.splits }
    g2.startRecipe r

/-- Do two ranges share a byte? -/
def shares (a n b m : Nat) : Bool := decide (a < b + m) && decide (b < a + n)

/-- Does the FRAME of a window lie in the range: the page of its base, or the bytes that the fast path serves? -/
def Window.framed (x : Window) (va len : Nat) : Bool :=
  let page := x.base / 65536 * 65536
  shares page (Nat.max 65536 (x.base + x.flim - page)) va len

/-- Windows whose FRAME lies in the range go through the TLB from now on (R355). -/
def dropFrames (va len : Nat) (w : Sparse Window) : Sparse Window :=
  Sparse.mapVals Window.unbound (fun _ x => if x.framed va len then { x with flim := 0 } else x) w

/-- The same for a group, with what its rewind record holds. -/
def Group.dropFrames (va len : Nat) (g : Group) : Group :=
  { g with w := Sys2Proof.Machine.dropFrames va len g.w,
           record := g.record.map fun r => { r with snap := { r.snap with w := Sys2Proof.Machine.dropFrames va len r.snap.w } } }

/-- The ranges of the context that are under a shoot-down which the core has answered. -/
def State.answeredRanges (s : State) (ctx core : Nat) : List (Nat × Nat) :=
  (s.shoots.filter fun x => !x.done && decide (x.ctx = ctx) && !x.cores.contains core).map fun x => (x.va, x.len)

/-- A saved gang comes back on a core, at the given group contexts; no window of it keeps a frame of a range for which the core has
answered (R355, R357). -/
def State.restoreGang (s : State) (k core : Nat) (places : List Nat) : State :=
  let y := s.gang k
  let gs := y.saved.map fun g => (s.answeredRanges y.ctx core).foldl (fun g r => g.dropFrames r.1 r.2) (g.resume s.fresh s.clock)
  (((s.setGang k { y with life := .resident, core := core, saved := [], savedAt := 0 }).putGroups core (places.zip gs))).wakeGang k

/-- May a saved gang be put back there (R324, R337): on its quarter, unless that is to leave (R342)? -/
def State.restoreOk (s : State) (k core : Nat) (places : List Nat) : Bool :=
  let y := s.gang k
  let q := (s.grid y.grid).quarterOf y.span y.band
  y.life == .saved && decide (q < 32) && decide (core / 16 = q) && (!(s.quarter q).leaving || (s.quarter q).fuse != 0) &&
  s.placesFit core y.saved.length y.decl places

/-- GANG_RESTORE (R324). -/
def execGangRestore (k core : Nat) (places : List Nat) (s : State) : Out :=
  .next (if s.quarterOpen (s.gang k).ctx (core / 16) && s.restoreOk k core places then s.restoreGang k core places else s)

/-! ## Grid stalls (R323, R324) -/

/-- Does a split of the group stand at a request (R327, R352)? -/
def Group.onRequest (g : Group) : Bool := g.validEntries.any fun e => (g.split e).onRequest

/-- May stall resolution choose the group (R324)? One that stands in a trap handler only at a request. -/
def Group.eligible (g : Group) : Bool :=
  g.runs && g.rewind && (!g.trapped || g.onRequest) && g.validEntries.all fun e =>
    let x := g.split e
    x.state == .waiting || x.state == .joining || x.onRequest || (x.state == .held && g.onRequest)

/-- Could any core of the band's quarter take a gang of n groups of the context? -/
def State.couldPlace (s : State) (ctx q n : Nat) (d : Decl) : Bool :=
  s.quarterOpen ctx q && (quarterCores q).any fun core => decide (1 ≤ s.roomOn core d n)

/-- Does the grid have gangs off the cores, none of which could be dispatched? -/
def State.starved (s : State) (k : Nat) : Bool :=
  let g := s.grid k
  let n := g.dispatched
  let saved := s.gangs.filter fun p => p.2.life == .saved && decide (p.2.grid = k)
  (decide (n < g.total) || !saved.isEmpty) &&
  (decide (g.total ≤ n) || !s.couldPlace g.ctx (g.quarterOf (g.spanOf n) (g.bandOf n)) g.groups g.decl) &&
  saved.all fun p => !s.couldPlace g.ctx (g.quarterOf p.2.span p.2.band) p.2.saved.length g.decl

/-- The groups of a grid on cores. -/
def State.gridGroups (s : State) (k : Nat) : List (Nat × Group) :=
  s.groups.filter fun p => decide (p.2.grid = k) && p.2.life != .free

/-- Is the grid stalled at the end of the window (R323)? -/
def State.stalled (s : State) (k : Nat) : Bool :=
  let g := s.grid k
  g.live && !g.cor && (s.context g.ctx).state == .resident && s.starved k && decide (g.lastRetire ≤ s.windowStart) &&
  decide (g.lastFlip ≤ s.windowStart) && (s.gridGroups k).all fun p => decide (32768 ≤ p.2.waitedCycles)

/-- The latest of the times at which the groups of a gang entered their waits. -/
def State.waitingSince (s : State) (gang : Nat) : Nat :=
  (s.gangGroups gang).foldl (fun m p => Nat.max m p.2.waitSince) 0

/-- The gang that stall resolution chooses of a grid: none where one is chosen already, or none is eligible. -/
def State.stallChoice (s : State) (k : Nat) : Option Nat :=
  let l := s.gangs.filter fun p => p.2.life == .resident && decide (p.2.grid = k)
  if l.any fun p => p.2.chosen then none
  else
    let ok := (l.map Prod.fst).filter fun y => (s.gangGroups y).all fun p => p.2.eligible
    ok.foldl (fun best y => match best with
      | none => some y
      | some b => if s.waitingSince y < s.waitingSince b then some y else some b) none

/-- Choose a gang of a stalled grid. -/
def State.resolveStall (s : State) (k : Nat) : State :=
  match s.stallChoice k with
  | some y => s.setGang y { (s.gang y) with chosen := true }
  | none => s

/-- The saved groups of a gang count no wait of an earlier window (R323). -/
def Gang.freshWindow (y : Gang) : Gang := { y with saved := y.saved.map fun g => { g with waitedCycles := 0 } }

/-- STALL_WINDOW (R323): the grids are judged, and a new window starts. -/
def execStallWindow (s : State) : Out :=
  .next (
    if s.clock < s.windowStart + 65536 then s
    else
      let s1 := ((s.grids.map Prod.fst).filter s.stalled).foldl State.resolveStall s
      { s1 with windowStart := s1.windowStart + 65536,
                groups := Sparse.mapVals Group.free (fun _ g => { g with waitedCycles := 0 }) s1.groups,
                gangs := Sparse.mapVals Gang.none (fun _ y => y.freshWindow) s1.gangs })

/-- STALL_GANG_SAVE (R324): the operations of the chosen gang are complete; its groups are rewound and saved, and the context save
area is written. -/
def execStallGangSave (k : Nat) (s : State) : Out :=
  let y := s.gang k
  let l := s.gangGroups k
  .next (
    if y.chosen && y.life == .resident && !s.frozen.contains (.core y.core) && l.all fun p => p.2.ops.isEmpty then
      let s1 := l.foldl (fun s p => s.rewindGroup p.1) s
      let s2 := (s1.saveGang k).count y.ctx 6 1
      (s2.setGang k { (s2.gang k) with savedAt := s2.clock + 1 }).writeSaveArea y.ctx
    else s)

end Sys2Proof.Machine
end

