-- ==== Sys2Proof/Machine/Contexts.lean ====
section
/-!
DEFINITION. Contexts: creation and descriptors (R330, R333), time slices and pre-emption (R333, R335), switching out and in
(R336, R337, R343), forced reset (R338), partitions and their quarters (R341, R342), virtual functions (R340, R344).
-/

namespace Sys2Proof.Machine

/-! ## Groups of a context -/

def State.groupsOf (s : State) (ctx : Nat) : List (Nat × Group) :=
  s.groups.filter fun p => decide (p.2.ctx = ctx) && p.2.life != .free

def State.gangsOf (s : State) (ctx : Nat) : List (Nat × Gang) :=
  s.gangs.filter fun p => decide (p.2.ctx = ctx) && p.2.life != .retired

def State.gridsOf (s : State) (ctx : Nat) : List (Nat × Grid) :=
  s.grids.filter fun p => decide (p.2.ctx = ctx) && p.2.live

/-- Change every quarter that is listed, and every context. -/
def State.mapQuarters (s : State) (f : Quarter → Quarter) : State :=
  { s with quarters := Sparse.mapVals Quarter.reset (fun _ => f) s.quarters }

def State.mapContexts (s : State) (f : Context → Context) : State :=
  { s with contexts := Sparse.mapVals Context.absent (fun _ => f) s.contexts }

/-- A pre-emption request reaches groups (R335), but not on a frozen core nor of a faulted context, whose state is kept (R333, R396). -/
def State.preemptAll (s : State) (l : List Nat) : State :=
  l.foldl (fun s gid =>
    let g := s.group gid
    if g.runs && !s.coreStands gid && (s.context g.ctx).state != .faulted then
      (s.setGroup gid { g with preempt := true }).preemptGroup gid
    else s) s

/-! ## Forced reset (R338) -/

/-- The ranks of the context leave the collectives they have joined. -/
def State.abortColls (s : State) (ctx : Nat) : State :=
  (s.colls.filter fun c => decide (c.ctx = ctx)).foldl (fun s c =>
    match Sparse.get none (s.context ctx).colls c.group with
    | some e => s.abortColl c e
    | none => s.dropColl c) s

/-- Requests and grants of the groups of a context end; the cycles waited are counted (R339). -/
def State.dropPower (s0 : State) (ctx : Nat) : State :=
  let of := fun (p : Power) => match p.user with
    | .split gid _ => decide ((s0.group gid).ctx = ctx)
    | .op gid _ => decide ((s0.group gid).ctx = ctx)
    | .band _ _ => false
  let waited := (s0.dies.map fun d => ((d.2.requests.filter of).map fun p => s0.clock - p.since).sum).sum
  let s := s0.count ctx 1 waited
  { s with dies := Sparse.mapVals Die.reset (fun _ d => { d with
      grants := d.grants.filter fun p => !of p, requests := d.requests.filter fun p => !of p,
      wsloads := d.wsloads.filter fun w => decide (w.ctx ≠ ctx) }) s.dies }

/-- A quarter without what the context held there: operations, factor slots, stationary operand, and the bank it owned. -/
def State.clearOf (s : State) (ctx : Nat) (x : Quarter) : Quarter :=
  let mine := fun (r : OpRef) => decide ((s.group r.gid).ctx = ctx)
  let y := { x with
    seq := x.seq.filter fun r => !mine r, sweep := x.sweep.filter fun r => !mine r,
    slots := x.slots.filter fun p => decide ((s.grid p.2.grid).ctx ≠ ctx),
    stat := Sparse.set none x.stat ctx none }
  if x.owned ∧ x.octx = ctx then y.clearBank else y

/-- Umber writes words of a context's code, whatever the page allows to the context. -/
def State.writeWords (s : State) (ctx va : Nat) (ws : List Nat) : State :=
  ws.zipIdx.foldl (fun s w => s.writeVirt ctx ((va + 4 * w.2) % 2 ^ 52) (bytesOf 4 w.1)) s

/-- Translations of tile-form functions are discarded: the stubs are sixteen zero bytes again (R327), and the image has no
flashback entry (R326; log 57). -/
def State.dropTranslations (s : State) (ctx : Nat) : State :=
  let c := s.context ctx
  let gone := c.stubs.filter fun x => x.state.stands
  let s1 := gone.foldl (fun s x =>
    (s.writeWords ctx x.pc [0, 0, 0, 0]).writeWords ctx (x.pc + 2 ^ 52 - 16) [0]) s
  let held := c.images.filter fun i => i.form = 2 && i.functions.any fun f => gone.any fun x => x.pc = f.1
  let s2 := held.foldl (fun s i => s.writeWords ctx (i.base + 32) [0]) s1
  s2.setContext ctx { (s2.context ctx) with
    stubs := c.stubs.map fun x => ⟨x.pc, .stub, [], 0, [], 0, 0, []⟩,
    images := c.images.map fun i => if i.form = 2 then { i with points := [] } else i }

/-- The fault words that stand in the latches of the groups of a context go to the error record, as the groups retire (R260, R331;
log 50). -/
def State.recordLatches (s : State) (ctx : Nat) : State :=
  let s1 := (s.groupsOf ctx).foldl (fun s p => s.recordLatch p.1 p.2) s
  (s.gangsOf ctx).foldl (fun s y => y.2.saved.foldl (fun s g => s.recordLatch (64 * y.2.core + g.gctx) g) s) s1

/-- Forced reset of a context: its operations end with ABORT, and then nothing of its groups is left (R206, R338). -/
def State.resetContext (s : State) (ctx : Nat) : State :=
  let s0 := (s.abortColls ctx).dropPower ctx
  let s1 := (((s0.setContext ctx { (s0.context ctx) with state := .idle }).abortOps ctx).recordLatches ctx).dropTranslations ctx
  let s2 := (s1.gridsOf ctx).foldl (fun s p => s.unfuse p.1) s1
  let s3 := s2.mapQuarters (s2.clearOf ctx)
  let s4 : State := { s3 with
    groups := s3.groups.filter fun p => decide (p.2.ctx ≠ ctx),
    gangs := s3.gangs.filter fun p => decide (p.2.ctx ≠ ctx),
    grids := s3.grids.filter fun p => decide (p.2.ctx ≠ ctx) }
  let c := s4.context ctx
  let s5 : State := s4.setContext ctx { c with
    state := .idle, events := [], spill := [],
    queues := (List.range 16).foldl (fun m q =>
      Sparse.modify Queue.idle m q fun x => { Queue.idle with base := x.base, rsize := x.rsize, prio := x.prio }) c.queues }
  let p := s5.part c.part
  let s6 := if p.resident = some ctx then s5.setPart c.part { p with resident := none, last := some ctx } else s5
  (s6.clearRings ctx).deadenHeads ctx

/-- FORCED_RESET (R338). -/
def execForcedReset (ctx : Nat) (s : State) : Out :=
  .next (s.whenReady (if (s.context ctx).state == .absent then s else s.resetContext ctx))

/-- DRAIN_TIMER_EXPIRY (R335): the whole context is reset. The timer of a group on a frozen core, of a faulted context or of a
suspended virtual function stands (R333, R344, R396). -/
def execDrainTimerExpiry (gid : Nat) (s : State) : Out :=
  let g := s.group gid
  .next (
    match g.drain with
    | some t =>
      if g.runs && decide (t ≤ s.clock) && !(s.vf (s.context g.ctx).vf).suspended && !s.coreStands gid &&
          (s.context g.ctx).state != .faulted then
        s.resetContext g.ctx
      else s
    | none => s)

/-- MASTER_RELEASE (R333, R396): Indigo resets and releases a frozen master; the faulted contexts on it are reset, and a port
is down. -/
def execMasterRelease (m : Master) (s : State) : Out :=
  let users := (s.usersOf m).filter fun c => (s.context c).state == .faulted
  .next (s.whenReady (
    if s.frozen.contains m then
      let s1 := users.foldl State.resetContext s
      let s2 := match m with
        | .port k => s1.setPort k Port.down
        | _ => s1
      { s2 with frozen := s2.frozen.filter fun x => decide (x ≠ m) }
    else s))

/-! ## The slice scheduler (R333) -/

/-- Has the context something to run: a queue that could start a command, or a saved gang? -/
def State.runnable (s : State) (ctx : Nat) : Bool := !(s.readyQueues ctx).isEmpty || (s.gangsOf ctx).any fun p => p.2.life == .saved

/-- May the scheduler pick the context for the partition? -/
def State.pickable (s : State) (part : Nat) (p : Nat × Context) : Bool :=
  decide (p.2.part = part) && (p.2.state == .idle || p.2.state == .saved) && s.runnable p.1 &&
  !(s.vf p.2.vf).suspended && !(s.vf p.2.vf).suspendAsked

/-- The context that goes next: the first whose CTX follows that of the one last resident, counting cyclically. -/
def State.nextContext (s : State) (part : Nat) : Option Nat :=
  let p := s.part part
  let l := (s.contexts.filter (s.pickable part)).map Prod.fst
  let last := if p.resident.isSome then p.resident else p.last
  match last with
  | none => l.head?
  | some k => match l.find? fun c => decide (k < c) with
    | some c => some c
    | none => l.head?

/-- Has the resident context's slice ended while another waits? -/
def State.sliceOver (s : State) (part : Nat) : Bool :=
  match (s.part part).resident with
  | some r => decide ((s.context r).sliceStart + (s.context r).quantum ≤ s.clock) && (s.nextContext part).isSome
  | none => false

/-- Has the context no group left and no queue that could start a command, or is its virtual function to be suspended? -/
def State.givesUp (s : State) (ctx : Nat) : Bool :=
  ((s.gridsOf ctx).isEmpty && (s.readyQueues ctx).isEmpty) || (s.vf (s.context ctx).vf).suspendAsked

/-- The context begins to be switched out: every group of it is pre-empted (R333, R335). -/
def State.switchOut (s : State) (ctx : Nat) : State :=
  if (s.context ctx).state == .resident then
    (s.setContext ctx { (s.context ctx) with state := .switching }).preemptAll ((s.groupsOf ctx).map Prod.fst)
  else s

/-! ## Saving and restoring (R336, R337, R257) -/

/-- Has every group of the context reached its point, with every operation complete? -/
def State.quiet (s : State) (ctx : Nat) : Bool := (s.groupsOf ctx).all fun p => p.2.parked

/-- The groups of the context's gangs leave the cores. -/
def State.saveGangs (s : State) (ctx : Nat) : State :=
  ((s.gangsOf ctx).filter fun p => p.2.life == .resident).foldl (fun s p => s.saveGang p.1) s

/-- The live slots of a band leave the quarter for the context's save area. -/
def State.saveBand (s : State) (grid sp band q : Nat) : State :=
  let x := s.quarter q
  let mine := fun (p : Nat × FactorSlot) => decide (p.2.grid = grid) && decide (p.2.span = sp) && decide (p.2.band = band)
  let g := s.grid grid
  if x.slots.any mine then
    (s.setQuarter q { x with slots := x.slots.filter fun p => !mine p }).setGrid grid
      { g with savedBands := g.savedBands ++ [⟨sp, band, x.slots.filter mine⟩] }
  else s

/-- The bands of a grid that stand on quarters: span, band and quarter. -/
def Grid.placed (g : Grid) : List (Nat × Nat × Nat) := g.quarters.map fun p => (p.1 / 4, p.1 % 4, p.2)

/-- The live slots of every band of the context are saved. -/
def State.saveBands (s : State) (ctx : Nat) : State :=
  (s.gridsOf ctx).foldl (fun s p => p.2.placed.foldl (fun s b => s.saveBand p.1 b.1 b.2.1 b.2.2) s) s

/-- What is saved of a band's slots. -/
def Grid.savedBand (g : Grid) (sp band : Nat) : Option SavedBand :=
  g.savedBands.find? fun b => decide (b.span = sp) && decide (b.band = band)

/-- Are the numbers of a band's saved slots free on the quarter, so that no other band loses a slot (R255)? -/
def State.slotsFree (s : State) (g : Grid) (sp band q : Nat) : Bool :=
  match g.savedBand sp band with
  | none => true
  | some b => b.slots.all fun p => !((s.quarter q).slot p.1).live

/-- The saved slots of a band come back on its quarter, to the same numbers. -/
def State.restoreBand (s : State) (grid sp band q : Nat) : State :=
  let g := s.grid grid
  match g.savedBand sp band with
  | none => s
  | some b =>
    let x := s.quarter q
    (s.setQuarter q { x with slots := b.slots.foldl (fun m p => Sparse.set FactorSlot.free m p.1 p.2) x.slots }).setGrid grid
      { g with savedBands := g.savedBands.erase b }

/-- The faulted contexts of a partition. -/
def State.faultedOn (s : State) (part : Nat) : List Nat :=
  (s.contexts.filter fun p => p.2.state == .faulted && decide (p.2.part = part)).map Prod.fst

/-- Has every factor operation of the partition's faulted contexts completed (R257)? -/
def State.sweepQuiet (s : State) (part : Nat) : Bool :=
  (s.faultedOn part).all fun c => (s.groupsOf c).all fun p => p.2.ops.all fun o => o.done || o.cls != .fx

/-- The saved slots of every band of the context that has a quarter come back. Slots of faulted contexts leave the quarters first:
the incoming context finds every slot free (R255). -/
def State.restoreBands (s : State) (ctx : Nat) : State :=
  let s1 := (s.faultedOn (s.context ctx).part).foldl State.saveBands s
  (s1.gridsOf ctx).foldl (fun s p => p.2.placed.foldl (fun s b => s.restoreBand p.1 b.1 b.2.1 b.2.2) s) s1

/-- The saved gangs of the context that a list of placements names come back where they fit. -/
def State.restoreGangs (s : State) (ctx : Nat) (l : List Placement) : State :=
  l.foldl (fun s p =>
    if (s.gang p.gang).ctx = ctx ∧ s.restoreOk p.gang p.core p.places then s.restoreGang p.gang p.core p.places else s) s

/-- The context is saved. -/
def State.markSaved (s : State) (ctx : Nat) : State :=
  (s.setContext ctx { (s.context ctx) with state := .saved }).writeSaveArea ctx

/-- The context is the resident one of its partition, and its slice starts. -/
def State.makeResident (s : State) (part ctx : Nat) : State :=
  (s.setContext ctx { (s.context ctx) with state := .resident, sliceStart := s.clock }).setPart part
    { (s.part part) with resident := some ctx }

/-! ## Suspension (R340, R344) -/

/-- VTIME of a context. -/
def State.vtime (s : State) (c : Context) : Word64 := BitVec.ofNat 64 s.clock + c.vtoff

/-- The virtual function is suspended, and what its contexts last saw of VTIME is kept. -/
def State.suspendNow (s : State) (vf : Nat) : State :=
  (s.mapContexts fun c => if c.vf = vf then { c with lastSeen := s.vtime c } else c).setVf vf
    { (s.vf vf) with suspended := true, since := s.clock, suspendAsked := false }

/-- VF_SUSPEND (R344): a suspension takes effect as STEP advances, never within a step; a resident context is switched out
first. -/
def execVfSuspend (vf : Nat) (s : State) : Out :=
  let v := s.vf vf
  .next (
    match v.part with
    | none => s
    | some p =>
      if s.bringUp != .ready || v.suspended then s
      else if v.journal.step = 0 ∧ (s.part p).resident = none then s.suspendNow vf
      else s.setVf vf { v with suspendAsked := true })

/-- Drain timers of the groups of a virtual function's contexts go on by n cycles later. -/
def State.delayDrains (s : State) (vf n : Nat) : State :=
  { s with groups := Sparse.mapVals Group.free (fun _ g =>
      if (s.context g.ctx).vf = vf then { g with drain := g.drain.map (· + n) } else g) s.groups }

/-- VF_RESUME (R340): VTIME of each of its contexts goes on from what it last saw, plus one cycle. -/
def execVfResume (vf : Nat) (s : State) : Out :=
  let v := s.vf vf
  let again := fun (c : Context) => if c.vf = vf then { c with vtoff := c.lastSeen + 1 - BitVec.ofNat 64 s.clock } else c
  .next (
    if s.bringUp != .ready then s
    else if v.suspended then ((s.mapContexts again).delayDrains vf (s.clock - v.since)).setVf vf { v with suspended := false }
    else s.setVf vf { v with suspendAsked := false })

/-! ## The guest journal (R343) -/

/-- Is a guest switch of the virtual function under way? -/
def State.journaling (s : State) (vf : Nat) : Bool := (s.vf vf).journal.step != 0

/-- The journal's record in the save areas of the two contexts follows STEP (R337, R343). -/
def State.writeJournal (s : State) (j : Journal) : State :=
  ([j.outctx, j.inctx].filter fun c => decide (c ≠ 0xFFFF)).foldl (fun s c =>
    (s.writeMapped c ((s.context c).savebase + journalAt) j.record5).1) s

/-- A step's writes are done: STEP advances, and a suspension that has been asked for takes effect (R343, R344); a switch that takes
no context in goes on to its end first, so that the resident context is switched out (R333). -/
def State.stepJournal (s : State) (vf n : Nat) : State :=
  let j := { (s.vf vf).journal with step := n }
  let s1 := s.setVf vf { (s.vf vf) with journal := j }
  let s2 := s1.writeJournal j
  if (s2.vf vf).suspendAsked && ((decide (n ≠ 0) && decide (j.inctx ≠ 0xFFFF)) || decide ((match (s2.vf vf).part with
      | some p => (s2.part p).resident
      | none => none) = none)) then s2.suspendNow vf else s2

/-- Is a switch due on the partition: which context comes in, and which goes out (0xFFFF for none)? A suspended function takes
none in. -/
def State.switchDue (s : State) (part : Nat) : Option (Nat × Nat) :=
  match s.nextContext part, (s.part part).resident with
  | none, none => none
  | some c, none => some (c, 0xFFFF)
  | next, some r =>
    if (s.vf (s.context r).vf).suspendAsked then some (0xFFFF, r)
    else match next with
      | some c => if s.sliceOver part || s.givesUp r || (s.context r).state == .switching then some (c, r) else none
      | none => if s.givesUp r then some (0xFFFF, r) else none

/-- Steps 1 to 6 (R343). -/
def State.journalStep (s : State) (vf part : Nat) (l : List Placement) : State :=
  let j := (s.vf vf).journal
  let leaving := (s.context j.outctx).state == .switching && decide (j.outctx ≠ 0xFFFF)
  let enters := ((s.context j.inctx).state == .idle || (s.context j.inctx).state == .saved) && decide (j.inctx ≠ 0xFFFF)
  match j.step with
  | 1 => (if j.outctx = 0xFFFF then s else s.switchOut j.outctx).stepJournal vf 2
  | 2 => if leaving && !s.quiet j.outctx then s else s.stepJournal vf 3
  | 3 => (if leaving then (s.saveGangs j.outctx).writeSaveArea j.outctx else s).stepJournal vf 4
  | 4 => (if leaving then (s.saveBands j.outctx).markSaved j.outctx else s).stepJournal vf 5
  | 5 =>
    if !s.sweepQuiet part then s
    else (if enters then (s.restoreBands j.inctx).restoreGangs j.inctx l else s).stepJournal vf 6
  | 6 =>
    let p := s.part part
    let last := if j.outctx = 0xFFFF then p.last else some j.outctx
    (if enters then s.makeResident part j.inctx
    else s.setPart part { p with resident := none, last := last }).stepJournal vf 0
  | _ => s

/-- Is the Umber of a die that the partition uses frozen, so that its slice scheduler starts nothing (R396)? -/
def State.schedulerStands (s : State) (part : Nat) : Bool :=
  (List.range 8).any fun d => s.umberStands d && !((s.part part).onDie d).isEmpty

/-- Up to n steps, one after another, from one of the steps of a list. -/
def State.journalSteps (s : State) (vf part : Nat) (from_ : List Nat) (l : List Placement) : Nat → State
  | 0 => s
  | n + 1 =>
    if from_.contains (s.vf vf).journal.step && !(s.vf vf).suspended && !s.schedulerStands part then
      (s.journalStep vf part l).journalSteps vf part from_ l n
    else s

/-- A due switch is written into the journal (R343). -/
def State.beginSwitch (s : State) (vf part : Nat) : State :=
  let v := s.vf vf
  if v.suspended || v.journal.step != 0 || s.schedulerStands part then s
  else
    match s.switchDue part with
    | some (i, o) => (s.setVf vf { v with journal := ⟨i, o, 1⟩ }).writeJournal ⟨i, o, 1⟩
    | none => s

/-- GUEST_SWITCH_STEP (R343, R344): one step, after which STEP advances; a suspended function takes none. -/
def execGuestSwitchStep (vf : Nat) (l : List Placement) (s : State) : Out :=
  let v := s.vf vf
  .next (
    match v.part with
    | none => s
    | some part =>
      if v.suspended || s.schedulerStands part then s
      else if v.journal.step ≠ 0 then s.journalStep vf part l
      else s.beginSwitch vf part)

/-- QUANTUM_EXPIRY (R333): the switch is journaled, and its first step pre-empts the context. -/
def execQuantumExpiry (part : Nat) (s : State) : Out :=
  .next (
    match (s.part part).vf with
    | some vf => if s.sliceOver part then (s.beginSwitch vf part).journalSteps vf part [1] [] 1 else s
    | none => s)

/-- PREEMPTION_REQUEST (R333, R335): a resident context that gives up its slice is pre-empted. -/
def execPreemptionRequest (ctx : Nat) (s : State) : Out :=
  let c := s.context ctx
  .next (
    if c.state == .resident && s.givesUp ctx then (s.beginSwitch c.vf c.part).journalSteps c.vf c.part [1] [] 1 else s)

/-- CONTEXT_SAVE (R336, R337): the steps that end with the outgoing context saved. -/
def execContextSave (ctx : Nat) (s : State) : Out :=
  let c := s.context ctx
  .next (
    if c.state == .switching && s.quiet ctx && decide ((s.vf c.vf).journal.outctx = ctx) then
      s.journalSteps c.vf c.part [2, 3, 4] [] 3
    else s)

/-- CONTEXT_RESTORE (R333, R337): the incoming context comes back with its bands and gangs, and is resident; on a free partition the
scheduler's choice is taken first. -/
def execContextRestore (part : Nat) (l : List Placement) (s : State) : Out :=
  .next (
    match (s.part part).vf with
    | none => s
    | some vf =>
      if (s.vf vf).journal.step = 0 then
        if (s.part part).resident.isNone then (s.beginSwitch vf part).journalSteps vf part [1, 2, 3, 4, 5, 6] l 6 else s
      else s.journalSteps vf part [5, 6] l 2)

/-! ## Creation, descriptors and destruction (R330, R333) -/

/-- CONTEXT_CREATE (R330): Indigo sets PART and CTX. -/
def execContextCreate (vf ctx : Nat) (s : State) : Out :=
  .next (
    match (s.vf vf).part with
    | some p =>
      if s.bringUp == .ready && (s.context ctx).state == .absent && decide (ctx < 0xFFFF) then
        s.setContext ctx { Context.absent with state := .idle, part := p, vf := vf, lastSeen := BitVec.ofNat 64 s.clock }
      else s
    | none => s)

/-- CONTEXT_DESTROY (R333): an idle context ends; its rings and images are freed, and a bank it owns is cleared (R250). -/
def execContextDestroy (ctx : Nat) (s : State) : Out :=
  .next (s.whenReady (
    if (s.context ctx).state == .idle then
      (((s.mapQuarters (s.clearOf ctx)).clearRings ctx).setContext ctx Context.absent).deadenHeads ctx
    else s))

/-- The 64 bytes of a context descriptor as one number (R330). Where in device memory they stand is not given (log 33). -/
def Context.descriptor (c : Context) (ctx : Nat) : Nat :=
  c.vtoff.toNat * 2 ^ 448 + c.handler.toNat * 2 ^ 396 + c.savebase % 2 ^ 52 * 2 ^ 332 + c.accsave % 2 ^ 52 * 2 ^ 268 +
    c.errrec % 2 ^ 52 * 2 ^ 204 + c.quantum % 2 ^ 32 * 2 ^ 160 + c.drainlim % 2 ^ 32 * 2 ^ 128 + c.critlim % 2 ^ 32 * 2 ^ 96 +
    c.part % 32 * 2 ^ 32 + ctx % 2 ^ 16

/-- The constraints that R330 puts on the fields of a descriptor. -/
def descriptorOk (raw : Nat) : Bool :=
  decide (field raw 384 12 = 0) && decide (field raw 320 12 = 0) && decide (field raw 256 12 = 0) &&
  decide (field raw 192 12 = 0) && decide (field raw 37 59 = 0) && decide (field raw 16 16 = 0) &&
  decide (field raw 396 52 % 4 = 0) && decide (field raw 332 52 % 65536 = 0) && decide (field raw 204 52 % 4096 = 0) &&
  decide (4096 ≤ field raw 160 32) && decide (1024 ≤ field raw 128 32)

/-- CONTEXT_DESCRIPTOR_WRITE (R330): while the context holds no resident group. Another PART or CTX is a violation by Umber
(R396); a descriptor that breaks a constraint is not taken (log 33). A new error record starts empty (R331). -/
def execContextDescriptorWrite (ctx raw : Nat) (s : State) : Out :=
  let c := s.context ctx
  .next (
    if s.bringUp != .ready || c.state == .absent || s.umberStands 0 then s
    else if field raw 32 5 ≠ c.part ∨ field raw 0 16 ≠ ctx then s.violate (.umber 0)
    else if !descriptorOk raw || !(s.groupsOf ctx).isEmpty then s
    else
      let s1 := s.setContext ctx { c with
        vtoff := BitVec.ofNat 64 (field raw 448 64),
        lastSeen := BitVec.ofNat 64 s.clock + BitVec.ofNat 64 (field raw 448 64), handler := BitVec.ofNat 52 (field raw 396 52),
        savebase := field raw 332 52, accsave := field raw 268 52, errrec := field raw 204 52,
        quantum := field raw 160 32, drainlim := field raw 128 32, critlim := field raw 96 32 }
      if field raw 204 52 = c.errrec then s1
      else (s1.setContext ctx { (s1.context ctx) with records := 0 }).writeVirt ctx (field raw 204 52) (bytesOf 16 0))

/-! ## Partitions (R341, R342) -/

/-- PARTITION_ADD (R341, R342): the quarter is cleared, and then belongs to the partition. -/
def execPartitionAdd (part q : Nat) (s : State) : Out :=
  .next (
    if s.bringUp == .ready && decide (part < 32) && decide (q < 32) && (s.quarter q).part.isNone then
      (s.setQuarter q { Quarter.reset with part := some part }).setPart part
        { (s.part part) with qmask := (s.part part).qmask ||| BitVec.twoPow 32 q }
    else s)

/-- The groups on a quarter. -/
def State.groupsOn (s : State) (q : Nat) : List (Nat × Group) :=
  s.groups.filter fun p => decide (quarterOf p.1 = q) && p.2.life != .free

/-- The groups on a quarter that no pre-emption request has reached. -/
def State.unasked (s : State) (q : Nat) : List Nat := ((s.groupsOn q).filter fun p => !p.2.preempt).map Prod.fst

/-- PARTITION_WITHDRAW (R342): the quarter is to leave; its bands are pre-empted, unless a fused grid still runs. -/
def execPartitionWithdraw (part q : Nat) (s : State) : Out :=
  .next (s.whenReady (
    if (s.quarter q).part == some part then
      let s1 := s.setQuarter q { (s.quarter q) with leaving := true }
      if (s.quarter q).fuse = 0 then s1.preemptAll (s1.unasked q) else s1
    else s))

/-- The bands on a quarter lose it: their gangs and slots are saved with their contexts. -/
def State.saveQuarter (s : State) (q : Nat) : State :=
  let gangs := s.gangs.filter fun p => p.2.life == .resident && decide (p.2.core / 16 = q)
  let s1 := gangs.foldl (fun s p => s.saveGang p.1) s
  s1.grids.foldl (fun s p => p.2.placed.foldl (fun s b =>
    if b.2.2 = q then
      let s2 := s.saveBand p.1 b.1 b.2.1 q
      let g := s2.grid p.1
      s2.setGrid p.1 { g with quarters := Sparse.set 32 g.quarters (4 * b.1 + b.2.1) 32,
                              left := Sparse.set 32 g.left (4 * b.1 + b.2.1) q }
    else s) s) s1

/-- The save areas of the contexts of a partition that have saved gangs or bands are written. -/
def State.saveAreasOf (s : State) (part : Nat) : State :=
  (s.contexts.filter fun c => decide (c.2.part = part) &&
    ((s.gangsOf c.1).any (fun p => p.2.life == .saved) || (s.gridsOf c.1).any fun p => !p.2.savedBands.isEmpty)).foldl
    (fun s c => s.writeSaveArea c.1) s

/-- Can the group leave its quarter: does it stand at its point, or belong to a faulted context, which is saved as it stands (R333,
R342), with every operation complete? -/
def State.leaves (s : State) (g : Group) : Bool :=
  g.ops.isEmpty && (g.life == .flashed || (s.context g.ctx).state == .faulted)

/-- QUARTER_RELEASE (R342): once every band on it is saved and no fused grid runs, the bank is spilled, and the quarter is
cleared and leaves the partition; not while a core of it is frozen (R396). -/
def execQuarterRelease (q : Nat) (s : State) : Out :=
  let x := s.quarter q
  .next (
    match x.part with
    | none => s
    | some p =>
      if !x.leaving || decide (x.fuse ≠ 0) || (quarterCores q).any (fun k => s.frozen.contains (.core k)) then s
      else if (s.groupsOn q).all fun g => s.leaves g.2 then
        let s1 := (s.saveQuarter q).saveAreasOf p
        let s2 := if x.owned then s1.switchBank q none none else s1
        (s2.setQuarter q Quarter.reset).setPart p
          { (s2.part p) with qmask := (s2.part p).qmask &&& ~~~(BitVec.twoPow 32 q) }
      else s.preemptAll (s.unasked q))

/-- The tiles that the handles of a band's saved groups hold. -/
def State.bandTiles (s : State) (grid sp band : Nat) : List Nat :=
  (s.savedGangs grid sp band).flatMap fun p => p.2.saved.flatMap fun g => g.t.flatMap fun r => runTiles r.2

/-- The images of a band's tiles follow it to its new quarter; a bank that the context owns there takes them in at once (R342; log
38). -/
def State.moveTiles (s : State) (grid sp band q : Nat) : State :=
  let g := s.grid grid
  let s1 := s.setContext g.ctx ((s.context g.ctx).moveSpill (Sparse.get 32 g.left (4 * sp + band)) q (s.bandTiles grid sp band))
  if (s.quarter q).owned ∧ (s.quarter q).octx = g.ctx then s1.switchBank q (some g.ctx) none else s1

/-- May a saved band resume there: on a quarter of its die that holds no other band of its span, no slot of its saved slots' numbers,
and no bank of its context that matrix operations still use (R255, R342)? -/
def State.resumeOk (s : State) (grid sp band q : Nat) : Bool :=
  let g := s.grid grid
  g.live && decide (sp < g.spans) && decide (band < g.bands) && decide (g.quarterOf sp band = 32) &&
  decide (q / 4 = g.diemap.getD sp 8) && s.quarterOpen g.ctx q && !(s.quarter q).leaving && decide ((s.quarter q).fuse = 0) &&
  !(g.placed.any fun b => decide (b.1 = sp) && decide (b.2.2 = q)) && s.slotsFree g sp band q &&
  (!(s.quarter q).owned || decide ((s.quarter q).octx ≠ g.ctx) || s.bankQuiet q)

/-- BAND_RESUME (R342): a saved band resumes on a quarter, with its slots, its tiles and the gangs placed. -/
def execBandResume (grid sp band q : Nat) (l : List Placement) (s : State) : Out :=
  let g := s.grid grid
  .next (
    if s.resumeOk grid sp band q then
      (((s.setGrid grid { g with quarters := Sparse.set 32 g.quarters (4 * sp + band) q }).restoreBand grid sp band q).moveTiles
        grid sp band q).restoreGangs g.ctx (l.filter fun p => decide ((s.gang p.gang).grid = grid) &&
          decide ((s.gang p.gang).span = sp) && decide ((s.gang p.gang).band = band))
    else s)

/-- VF_BIND (R341): no two virtual functions share a partition, and a function that has contexts keeps its own. -/
def execVfBind (vf part : Nat) (s : State) : Out :=
  .next (
    if s.bringUp == .ready && decide (vf < 32) && decide (part < 32) &&
        (List.range 32).all (fun k => decide (k = vf) || decide ((s.vf k).part ≠ some part)) &&
        s.contexts.all fun p => decide (p.2.vf ≠ vf) then
      let s1 := match (s.vf vf).part with
        | some p => s.setPart p { (s.part p) with vf := none }
        | none => s
      (s1.setVf vf { (s1.vf vf) with part := some part }).setPart part { (s1.part part) with vf := some vf }
    else s)

/-- STACK_QUOTA_ASSIGNMENT (R387): the quotas on a unit total at most 256 stacks. -/
def execStackQuotaAssignment (q ctx quota : Nat) (s : State) : Out :=
  let m := Sparse.set 0 (s.quarter q).quota ctx quota
  .next (s.whenReady (if q < 32 ∧ (m.map Prod.snd).sum ≤ 256 then s.setQuarter q { (s.quarter q) with quota := m } else s))

end Sys2Proof.Machine
end

