-- ==== Sys2Proof/Machine/Madder.lean ====
section
/-!
DEFINITION. What Madder makes of a band (R369, R370, R374, R376 to R379): the fields of head descriptors and frame records,
source pixels and their re-evaluation under the pose, motion estimation, networks, overlay composition and output conversion.
-/

namespace Sys2Proof.Machine

/-! ## The head descriptor (R369) -/

def headCtx (d : Nat) : Nat := field d 0 16
def headEnable (d : Nat) : Bool := bitAt d 16
def headBsRing (d : Nat) : Nat := field d 80 52
def headPoseMap (d k : Nat) : Nat := field d (132 + 4 * k) 4
def headSink (d : Nat) : Nat := field d 156 4
def headSub (d : Nat) : Bool := bitAt d 160
def headTenBit (d : Nat) : Bool := bitAt d 161
def headOverlays (d : Nat) : Bool := bitAt d 162
def headUpscales (d : Nat) : Bool := bitAt d 163
def headPoses (d : Nat) : Bool := bitAt d 164
def headSynth (d : Nat) : Bool := bitAt d 165
def headScale (d : Nat) : Nat := field d 166 2
def headOutW (d : Nat) : Nat := field d 168 14
def headOutH (d : Nat) : Nat := field d 182 13
def headVTotal (d : Nat) : Nat := field d 195 13
def headLineT (d : Nat) : Nat := field d 208 16
def headLead (d : Nat) : Nat := field d 224 16
def headUpField (d : Nat) : Nat := field d 240 32
def headSynNet (d : Nat) : Nat := field d 272 32
def headPose (d : Nat) : Nat := field d 304 52
def headStat (d : Nat) : Nat := field d 356 52
def headPWord (d : Nat) : Nat := field d 408 52
def headRing (d : Nat) : Nat := field d 460 52

/-- The upscaling network in use: none where the stage is switched off (log 79). -/
def headUpNet (d : Nat) : Nat := if headUpscales d then headUpField d else 0

/-- Output bands of 16 lines, and cycles of a refresh. -/
def headBands (d : Nat) : Nat := headOutH d / 16
def headPeriod (d : Nat) : Nat := headVTotal d * headLineT d

/-- Twice SCALE as a factor. -/
def headScale2 (d : Nat) : Nat := [2, 3, 4, 6].getD (headScale d) 2

/-- Width and height of the source. -/
def sourceW (d : Nat) : Nat := 2 * headOutW d / headScale2 d
def sourceH (d : Nat) : Nat := 2 * headOutH d / headScale2 d

/-- From the latch to the scan of line 0 (R372). -/
def headAhead (d : Nat) : Nat := 64 * headLead d + 16 * headLineT d

/-- Does the sink name an encoder? -/
def sinkEncodes (n : Nat) : Bool := decide (4 ≤ n) && decide (n ≤ 7)

/-! ## The frame record (R370) -/

def recColour (x : Nat) : Nat := field x 460 52
def recFlow (x : Nat) : Nat := field x 408 52
def recOverlay (x : Nat) : Nat := field x 356 52
def recStride (x : Nat) : Nat := 256 * field x 316 40
def recPlanes (x : Nat) : Nat := field x 312 3 + 1
def recPose (x k : Nat) : Nat := field x (32 * k) 32

/-- Bytes of a tangent. -/
def recTan (x : Nat) : Nat := if bitAt x 315 then 2 else 4

/-- A record that could not be read: it stands above every 64-byte number. -/
def badRecord : Nat := 2 ^ 512

/-! ## Reading (R212, R368) -/

/-- Bytes that Madder reads for a head after what it carries, with their stamp; none where they cannot be translated or are
poisoned. -/
def State.headGot (s : State) (head ctx : Nat) (carry : Stamp) (va n : Nat) : Option (Nat × Stamp) :=
  match s.readGot (head / 4) ctx carry va n with
  | some g => if g.status = 0 then some (g.num, g.stamp) else none
  | none => none

/-- The number of those bytes. -/
def State.headRead (s : State) (head ctx : Nat) (carry : Stamp) (va n : Nat) : Option Nat :=
  (s.headGot head ctx carry va n).map Prod.fst

/-- May Madder read the range now: does what serves it have what the head carries (R279)? -/
def State.headReady (s : State) (head ctx : Nat) (carry : Stamp) (va n : Nat) : Bool :=
  match s.virtPieces (head / 4) ctx .read (n / 65536 + 2) va n with
  | some l => l.all fun p => s.placeReady (head / 4) carry (.phys p.1) p.2
  | none => true

/-! ## Pictures -/

/-- A picture: width, height, and the value at x, y of a channel. -/
structure Picture where
  w : Nat
  h : Nat
  at_ : Nat → Nat → Nat → XVal

/-- The COLOUR plane of a rendered frame, FP16 RGBA (R370). -/
def State.colour (s : State) (head : Nat) (carry : Stamp) (d x : Nat) : Picture :=
  ⟨sourceW d, sourceH d, fun i j c =>
    Fmt.f16.value ((s.headRead head (headCtx d) carry (recColour x + 8 * (j * sourceW d + i) + 2 * c) 2).getD 0)⟩

/-- The planes that hold tangents of the pose: component and plane, of those the surface has (R100, R376; log 79). -/
def posePlanes (d x : Nat) : List (Nat × Nat) :=
  ((List.range 6).map fun k => (k, headPoseMap d k)).filter fun p => decide (p.2 < recPlanes x)

/-- Where the tangent in a plane of channel c of the pixel i, j stands (R100). -/
def tangentAt (d x plane i j c : Nat) : Nat :=
  recColour x + (plane + 1) * recStride x + (4 * (j * sourceW d + i) + c) * recTan x

/-- Re-evaluation under the latched pose (R104, R376): v + Σ J (p - PPOSE), rounded once. -/
def State.posed (s : State) (head : Nat) (carry : Stamp) (d x : Nat) (pose : List Word32) (src : Picture) : Picture :=
  if headPoses d then
    { src with at_ := fun i j c =>
        Fmt.f32.value (roundTo Fmt.f32 .rne ((posePlanes d x).foldl (fun v p =>
          let jv := (if recTan x = 2 then Fmt.bf16 else Fmt.f32).value
            ((s.headRead head (headCtx d) carry (tangentAt d x p.2 i j c) (recTan x)).getD 0)
          XVal.add v (XVal.mul jv (XVal.sub (Fmt.f32.value (pose.getD p.1 0).toNat) (Fmt.f32.value (recPose x p.1)))))
          (src.at_ i j c))) }
  else src

/-! ## Flow (R370, R377) -/

/-- A fraction as an exact value. -/
def ratio (n d : Nat) : XVal := .fin false n d

/-- BT.709 luma of three channels. -/
def lumaOf (r g b : XVal) : XVal :=
  XVal.add (XVal.add (XVal.mul (ratio 2126 10000) r) (XVal.mul (ratio 7152 10000) g)) (XVal.mul (ratio 722 10000) b)

def Picture.luma (p : Picture) (i j : Nat) : XVal := lumaOf (p.at_ i j 0) (p.at_ i j 1) (p.at_ i j 2)

/-- The pixels of the 8x8 block from 8u, 8v on, within a picture. -/
def blockPixels (w h u v : Nat) : List (Nat × Nat) :=
  (span (8 * v) 8).flatMap fun j => ((span (8 * u) 8).filter fun i => decide (i < w ∧ j < h)).map fun i => (i, j)

/-- The displacements of a block, in raster order, that keep it inside the picture (log 79). -/
def searchWindow (w h : Nat) (block : List (Nat × Nat)) : List (Int × Int) :=
  ((List.range 129).flatMap fun y => (List.range 129).map fun x => ((x : Int) - 64, (y : Int) - 64)).filter fun m =>
    block.all fun p => decide (0 ≤ (p.1 : Int) + m.1) && decide ((p.1 : Int) + m.1 < w) && decide (0 ≤ (p.2 : Int) + m.2) &&
      decide ((p.2 : Int) + m.2 < h)

/-- The sum of absolute differences of a block of B against A displaced. -/
def blockDifference (a b : Picture) (block : List (Nat × Nat)) (m : Int × Int) : XVal :=
  block.foldl (fun t p => XVal.add t (XVal.abs (XVal.sub (b.luma p.1 p.2)
    (a.luma ((p.1 : Int) + m.1).toNat ((p.2 : Int) + m.2).toNat)))) XVal.zero

/-- Motion estimation of a block (R377): the least difference, then the least |dx| + |dy|, then raster order. -/
def motionOf (a b : Picture) (block : List (Nat × Nat)) : Int × Int :=
  ((searchWindow b.w b.h block).foldl (fun (best : Option ((Int × Int) × XVal)) m =>
    let t := blockDifference a b block m
    match best with
    | none => some (m, t)
    | some (n, u) =>
      if XVal.lt t u || (XVal.eq t u && decide (m.1.natAbs + m.2.natAbs < n.1.natAbs + n.2.natAbs)) then some (m, t) else best)
    none).elim (0, 0) Prod.fst

/-- The flow of frame B: its surface, or the motion-estimation block. -/
def State.flow (s : State) (head : Nat) (carry : Stamp) (d x : Nat) (a b : Picture) : Picture :=
  ⟨b.w, b.h, fun i j c =>
    if recFlow x ≠ 0 then
      Fmt.f16.value ((s.headRead head (headCtx d) carry (recFlow x + 4 * (j * sourceW d + i) + 2 * c) 2).getD 0)
    else
      let m := motionOf a b (blockPixels b.w b.h (i / 8) (j / 8))
      XVal.ofInt (if c = 0 then m.1 else m.2)⟩

/-! ## Networks (R378) -/

/-- A layer record. -/
structure Layer where
  woff : Nat
  oscale : Nat
  isw : Nat
  cin : Nat
  cout : Nat
  resv : Nat
  act : Nat
  op : Nat
  deriving DecidableEq, Repr

def layerOf (x : Nat) : Layer :=
  ⟨field x 224 32, field x 192 32, field x 160 32, field x 144 16, field x 128 16, field x 8 120, field x 4 4, field x 0 4⟩

/-- Products of an output element: nine places or one of each input channel. -/
def Layer.depth (l : Layer) : Nat := if l.op = 1 then 9 * l.cin else if l.op = 2 then l.cin else 0

/-- Bytes from a weight-store address on that the context reads on the die: whole granules of 64 KiB. -/
def wsReadable (map : List WsEntry) (die a n : Nat) : Bool :=
  (List.range (n / 65536 + 2)).all fun k =>
    let g := a / 65536 + k
    decide (a + n ≤ 65536 * g) || (wsByte map die (65536 * g)).isSome

/-- Does a record stand as R378 has it, its weights readable? -/
def Layer.ok (l : Layer) (map : List WsEntry) (die base : Nat) : Bool :=
  decide (l.op ≤ 4) && decide (l.act ≤ 2) && decide (l.resv = 0) && decide (l.cin % 16 = 0) && decide (l.cout % 16 = 0) &&
  wsReadable map die (base + 64 * l.woff) (l.depth * l.cout)

/-- The layer records of a network from its base on, up to OP 0: none where one cannot be read, breaks R378, or no end comes
within 64 records. -/
def State.layers (s : State) (map : List WsEntry) (die base : Nat) : Nat → Nat → Option (List Layer)
  | 0, _ => none
  | fuel + 1, k =>
    match s.readWs map die (base + 32 * k) 32 with
    | none => none
    | some bs =>
      let l := layerOf (ofBytes bs)
      if l.op = 0 then some []
      else if l.ok map die base then (s.layers map die base fuel (k + 1)).map fun r => l :: r
      else none

/-- The layers of a network by its number in a descriptor. -/
def State.netLayers (s : State) (die ctx net : Nat) : Option (List Layer) :=
  s.layers (s.context ctx).wsmap die (65536 * net) 65 0

/-- Is a network absent, or one the head may use? -/
def State.netOk (s : State) (die ctx net : Nat) : Bool := net == 0 || (s.netLayers die ctx net).isSome

/-- The ranges of weight-store addresses that a network reads: its records, and the weights of its layers. -/
def netRanges (base : Nat) (ls : List Layer) : List (Nat × Nat) :=
  (base, 32 * (ls.length + 1)) :: ls.map fun l => (base + 64 * l.woff, l.depth * l.cout)

/-- Element k of the products of an output element at i, j (log 79: their order, and what stands outside the picture). -/
def convInput (l : Layer) (p : Picture) (i j k : Nat) : XVal :=
  let t := Config.netElement l.op l.cin k
  let x := if l.op = 1 then (i : Int) + t.2.1 % 3 - 1 else i
  let y := if l.op = 1 then (j : Int) + t.2.2 % 3 - 1 else j
  if l.depth ≤ k then XVal.zero
  else if 0 ≤ x ∧ x < p.w ∧ 0 ≤ y ∧ y < p.h then p.at_ x.toNat y.toNat (t.1 % l.cin)
  else valueOf .e4m3 (Config.netEdge % 256)

/-- The weight of element k for output channel o (log 79: its place among the weights of the layer). -/
def State.netWeight (s : State) (map : List WsEntry) (die base : Nat) (l : Layer) (k o : Nat) : XVal :=
  if l.depth ≤ k then XVal.zero
  else
    let a := base + 64 * l.woff + Config.netWeightPlace l.op l.cin l.cout k o % (l.depth * l.cout)
    valueOf .e4m3 ((wsByte map die a).elim 0 fun off => (Sparse.get 0 (s.die die).ws off).toNat)

/-- ACT of a sum. -/
def actOf (act : Nat) (x : XVal) : XVal :=
  if act = 0 ∨ x.isNaN then x
  else if x.isNeg then XVal.zero
  else if act = 2 ∧ XVal.lt XVal.one x then XVal.one
  else x

/-- The sum of an output element: passes of 256 products in two segments, in order (R69 with s := ISW). -/
def State.convSum (s : State) (map : List WsEntry) (die base : Nat) (l : Layer) (p : Picture) (i j o : Nat) : Nat :=
  (List.range ((l.depth + 255) / 256)).foldl (fun acc t =>
    forwardPass true 2
      { el := fun k => convInput l p i j (256 * t + k)
        sa := fun _ => Fmt.f32.value l.isw
        w := fun k c => s.netWeight map die base l (256 * t + k) c
        sw := fun _ _ => XVal.one } o acc) 0

/-- One layer: a convolution rounds into E4M3, or into FP16 as the last; the others move elements (log 79). -/
def State.runLayer (s : State) (map : List WsEntry) (die base n : Nat) (l : Layer) (last : Bool) (p : Picture) : Picture :=
  if l.op = 1 ∨ l.op = 2 then
    { p with at_ := fun i j o =>
        let x := XVal.mul (actOf l.act (Fmt.f32.value (s.convSum map die base l p i j o))) (Fmt.f32.value l.oscale)
        if last then Fmt.f16.value (roundTo Fmt.f16 .rne x) else Fmt.e4m3Fmt.value (roundTo Fmt.e4m3Fmt .rne x) }
  else if l.op = 3 then
    ⟨2 * p.w, 2 * p.h, fun i j o => p.at_ (i / 2) (j / 2) (Config.netSpace l.cin o (i % 2) (j % 2) % l.cin)⟩
  else
    { p with at_ := fun i j o => valueOf .e4m3 (Config.netWarp s.fresh (((n * 2 ^ 16 + j) * 2 ^ 16 + i) * 2 ^ 16 + o) % 256) }

/-- The layers of a network in order. -/
def State.runLayers (s : State) (map : List WsEntry) (die base : Nat) : Nat → List Layer → Picture → Picture
  | _, [], p => p
  | n, l :: rest, p => s.runLayers map die base (n + 1) rest (s.runLayer map die base n l rest.isEmpty p)

/-- A network of the head over the values that its input pixels give: its colour (log 79: how values are laid into channels, and
which channels are the colour). -/
def State.network (s : State) (head d net : Nat) (w h : Nat) (vals : Nat → Nat → List Nat) : Picture :=
  let die := head / 4
  let input : Picture := ⟨w, h, fun i j c => valueOf .e4m3 (Config.netInput s.fresh c (vals i j) % 256)⟩
  let out := s.runLayers (s.context (headCtx d)).wsmap die (65536 * net) 0 ((s.netLayers die (headCtx d) net).getD []) input
  { out with at_ := fun i j c => out.at_ i j (Config.netColour c) }

/-! ## A band (R374, R376, R377) -/

/-- The four channels of a pixel as FP32 patterns. -/
def Picture.pixel (p : Picture) (i j : Nat) : List Nat := (List.range 4).map fun c => roundTo Fmt.f32 .rne (p.at_ i j c)

/-- The synthesised picture, from A, B and the flow of B. -/
def State.synthesised (s : State) (head : Nat) (carry : Stamp) (d xa xb : Nat) : Picture :=
  let a := s.colour head carry d xa
  let b := s.colour head carry d xb
  let f := s.flow head carry d xb a b
  s.network head d (headSynNet d) (sourceW d) (sourceH d) fun i j =>
    a.pixel i j ++ b.pixel i j ++ (List.range 2).map fun c => roundTo Fmt.f32 .rne (f.at_ i j c)

/-- The fixed path's upscale: the picture itself at 1x, and otherwise values that R374 does not give to the bit. -/
def State.bilinear (s : State) (d : Nat) (p : Picture) : Picture :=
  if headScale d = 0 then p
  else ⟨headOutW d, headOutH d, fun i j c =>
    Fmt.f32.value (Config.freeWord s.fresh (2 ^ 40 + (j * 2 ^ 14 + i) * 4 + c)).toNat⟩

/-- The upscaling network's picture. -/
def State.upscaled (s : State) (head d : Nat) (p : Picture) : Picture := s.network head d (headUpNet d) p.w p.h p.pixel

/-- Does candidate code of a refresh run the synthesis network? -/
def Refresh.synthesises (r : Refresh) (code : Nat) : Bool := r.synth && decide (code = 0)

/-- Is the candidate made by the fixed path, by a network, or not at all (R374)? -/
def Refresh.madeBy (r : Refresh) (code : Nat) : Option Bool :=
  let up := headUpNet r.desc != 0
  match code with
  | 0 => if !r.synth && !up then some false else some true
  | 1 => if r.synth then some up else none
  | 2 => if up then some false else none
  | _ => none

/-- The picture of a candidate before the overlay: synthesis, re-evaluation, upscaling. -/
def State.candidate (s : State) (head : Nat) (carry : Stamp) (code : Nat) (r : Refresh) : Picture :=
  let d := r.desc
  let xb := r.frameB.getD 0
  let src := if r.synthesises code then s.synthesised head carry d (r.frameA.getD 0) xb else s.colour head carry d xb
  let p := s.posed head carry d xb r.pose src
  if decide (code ≤ 1) && headUpNet d != 0 then s.upscaled head d p else s.bilinear d p

/-- Overlay composition: out := RoundF16(o + (1 - α) c), of 8-bit channels over 255 (log 79). -/
def State.composed (s : State) (head : Nat) (carry : Stamp) (d x : Nat) (p : Picture) : Picture :=
  if headOverlays d && recOverlay x != 0 then
    { p with at_ := fun i j c =>
        let o := (s.headRead head (headCtx d) carry (recOverlay x + 4 * (j * headOutW d + i)) 4).getD 0
        Fmt.f16.value (roundTo Fmt.f16 .rne (XVal.add (ratio (field o (8 * c) 8) 255)
          (XVal.mul (ratio (255 - field o 24 8) 255) (p.at_ i j c)))) }
  else p

/-! ## Output conversion (R377) -/

/-- Clamped to [0, 1], with NaN as 0. -/
def clampUnit (x : XVal) : XVal :=
  if x.isNaN || x.isNeg then XVal.zero else if XVal.lt XVal.one x then XVal.one else x

/-- Bits of an output channel, and the code of full scale. -/
def headDepth (d : Nat) : Nat := if headTenBit d then 10 else 8
def fullScale (d : Nat) : Nat := 2 ^ headDepth d - 1

/-- A channel quantised. -/
def quantised (d : Nat) (x : XVal) : Nat :=
  (XVal.toInt .rne 0 (fullScale d) (XVal.mul (clampUnit x) (ratio (fullScale d) 1))).toNat

/-- Red, green and blue of a pixel, quantised. -/
def outputRgb (d : Nat) (p : Picture) (i j : Nat) : List Nat := (List.range 3).map fun c => quantised d (p.at_ i j c)

/-- BT.709 at limited range: luma and two chroma codes of a quantised pixel (log 79). -/
def ycbcrOf (d : Nat) (q : List Nat) : Nat × Nat × Nat :=
  let e := fun k => ratio (q.getD k 0) (fullScale d)
  let y := lumaOf (e 0) (e 1) (e 2)
  let unit := 2 ^ (headDepth d - 8)
  let code := fun (lo gain : Nat) (x : XVal) =>
    (XVal.toInt .rne 0 (fullScale d) (XVal.mul (ratio unit 1) (XVal.add (ratio lo 1) (XVal.mul (ratio gain 1) x)))).toNat
  (code 16 219 y, code 128 224 (XVal.mul (XVal.sub (e 2) y) (ratio 10000 18556)),
   code 128 224 (XVal.mul (XVal.sub (e 0) y) (ratio 10000 15748)))

/-- The RNE mean of chroma codes. -/
def meanOf (l : List Nat) : Nat := (roundToInt .rne false l.sum l.length).toNat

/-- The chroma of a band: by pixel, or by 2x2 block. -/
def chromaOf (d w y0 : Nat) (f : Nat → Nat → Nat) : List Nat :=
  if headSub d then (span y0 16).flatMap fun j => (List.range w).map fun i => f i j
  else (List.range 8).flatMap fun v => (List.range ((w + 1) / 2)).map fun u =>
    meanOf ((span (y0 + 2 * v) 2).flatMap fun j => ((span (2 * u) 2).filter fun i => decide (i < w)).map fun i => f i j)

/-- A band as it is scanned, from line y0 on: red, green and blue by pixel, or for an encoder the planes of Y, Cb and Cr. -/
def scanned (d y0 : Nat) (p : Picture) : List Nat :=
  let w := headOutW d
  let pixels := fun (f : Nat → Nat → List Nat) => (span y0 16).flatMap fun j => (List.range w).flatMap fun i => f i j
  if sinkEncodes (headSink d) then
    let y := fun i j => ycbcrOf d (outputRgb d p i j)
    pixels (fun i j => [(y i j).1]) ++ chromaOf d w y0 (fun i j => (y i j).2.1) ++ chromaOf d w y0 fun i j => (y i j).2.2
  else pixels (outputRgb d p)

/-- A black band (R371). -/
def blackBand (d : Nat) : List Nat := scanned d 0 ⟨headOutW d, 16, fun _ _ _ => XVal.zero⟩

/-- Band b of a candidate as it is scanned. -/
def State.bandPixels (s : State) (head : Nat) (carry : Stamp) (b code : Nat) (r : Refresh) : List Nat :=
  scanned r.desc (16 * b) (s.composed head carry r.desc (r.frameB.getD 0) (s.candidate head carry code r))

/-! ## What a candidate reads (R374) -/

/-- Source lines beyond its own that a band's candidate reads: one for the bilinear upscale, one for each 3x3 layer of its networks,
and for the search 64 with the other lines of a block (log 45). -/
def State.margin (s : State) (head code : Nat) (r : Refresh) : Nat :=
  let convs := fun net => ((((s.netLayers (head / 4) (headCtx r.desc) net).getD []).filter fun l => decide (l.op = 1)).length)
  (if headScale r.desc = 0 then 0 else 1) + (if r.synthesises code then convs (headSynNet r.desc) else 0) +
  (if decide (code ≤ 1) && headUpNet r.desc != 0 then convs (headUpNet r.desc) else 0) +
  (if r.synthesises code && recFlow (r.frameB.getD 0) == 0 then 71 else 0)

/-- The first source line that a band's candidate reads, and how many. -/
def State.sourceLines (s : State) (head b code : Nat) (r : Refresh) : Nat × Nat :=
  let m := s.margin head code r
  let lo := 2 * (16 * b) / headScale2 r.desc - m
  let hi := Nat.min (2 * (16 * b + 15) / headScale2 r.desc + m) (sourceH r.desc - 1)
  (lo, hi + 1 - lo)

/-- The ranges that a candidate of a band reads, each with the width of its elements: colour of its frames, mapped tangent planes,
flow and overlay. -/
def State.candRanges (s : State) (head b code : Nat) (r : Refresh) : List (Nat × Nat × Nat) :=
  let d := r.desc
  let xb := r.frameB.getD 0
  let l := s.sourceLines head b code r
  let at_ := sourceW d * l.1
  let n := sourceW d * l.2
  let syn := r.synthesises code
  [(recColour xb + 8 * at_, 4 * n, 2)] ++
  (if syn then [(recColour (r.frameA.getD 0) + 8 * at_, 4 * n, 2)] else []) ++
  (if headPoses d then (posePlanes d xb).map fun p => (tangentAt d xb p.2 0 l.1 0, 4 * n, recTan xb) else []) ++
  (if syn && recFlow xb != 0 then [(recFlow xb + 4 * at_, 2 * n, 2)] else []) ++
  (if headOverlays d && recOverlay xb != 0 then [(recOverlay xb + 64 * headOutW d * b, 16 * headOutW d, 4)] else [])

/-- Were the records of the frames that a candidate shows read? -/
def Refresh.framesGood (r : Refresh) (code : Nat) : Bool :=
  let good := fun (x : Option Nat) => match x with
    | some y => decide (y < badRecord)
    | none => false
  good r.frameB && (!r.synthesises code || good r.frameA)

/-- Are the sources of a band's candidate good, element by element as they are read, and what serves them up to what the head carries
(R279, R374)? -/
def State.sourceGood (s : State) (head : Nat) (carry : Stamp) (b code : Nat) (r : Refresh) : Bool :=
  r.framesGood code && (s.candRanges head b code r).all fun p =>
    (List.range p.2.1).all fun i =>
      let a := p.1 + i * p.2.2
      s.headReady head (headCtx r.desc) carry a p.2.2 && (s.headRead head (headCtx r.desc) carry a p.2.2).isSome

end Sys2Proof.Machine
end

