-- ==== Sys2Proof/Machine/Heads.lean ====
section
/-!
DEFINITION. Display heads (R368 to R380): descriptors, the latch and the present word, candidates and the fallback ladder,
status records, encoder output and rebinding.
-/

namespace Sys2Proof.Machine

/-! ## The descriptor (R369) -/

/-- Frames a second, whole, at 1.1 GHz (R2). -/
def headRate (d : Nat) : Nat := if headPeriod d = 0 then 0 else 1100000000 / headPeriod d

/-- What Umber refuses in the fields alone, for a head of a die. -/
def headFieldsBad (die d : Nat) : Bool :=
  decide (field d 17 63 ≠ 0) || decide (headSink d = 3) || decide (8 ≤ headSink d) ||
  decide (headOutH d % 16 ≠ 0) || decide (7168 < headOutH d) || decide (7680 < headOutW d) ||
  decide (2 * headOutH d % headScale2 d ≠ 0) || decide (2 * headOutW d % headScale2 d ≠ 0) ||
  decide (headPeriod d ≤ headAhead d) ||
  ((headSink d == 1 || headSink d == 2) && (decide (die ≠ 0) || !headSub d)) ||
  (sinkEncodes (headSink d) && decide (3840 * 2160 * 120 < headOutW d * headOutH d * headRate d))

/-- Is the sink that of another head of the die? -/
def State.sinkTaken (s : State) (head sink : Nat) : Bool :=
  sink != 0 && (span (4 * (head / 4)) 4).any fun k => decide (k ≠ head) &&
    ((match (s.head k).desc with | some d => headSink d == sink | none => false) ||
      (match (s.head k).staged with | some d => headSink d == sink | none => false))

/-- Is the context one that Indigo has created in the partition? -/
def State.servedBy (s : State) (part : Option Nat) (ctx : Nat) : Bool :=
  (s.context ctx).state != .absent && part == some (s.context ctx).part

/-- HEAD_DESCRIPTOR (R369): Umber stages the descriptor, or refuses it. -/
def execHeadDescriptor (head raw : Nat) (s : State) : Out :=
  let d := raw % 2 ^ 512
  let die := head / 4
  .next (
    if s.bringUp != .ready || s.umberStands die || decide (32 ≤ head) then s
    else if headFieldsBad die d || s.sinkTaken head (headSink d) || !s.netOk die (headCtx d) (headSynNet d) ||
        !s.netOk die (headCtx d) (headUpField d) || !s.servedBy (s.head head).part (headCtx d) then
      s.notify (.headRefused head)
    else s.setHead head { (s.head head) with staged := some d })

/-- HEAD_REBIND (R380): from the next frame boundary; a number from 32 on unbinds. -/
def execHeadRebind (head part : Nat) (s : State) : Out :=
  .next (
    if s.bringUp != .ready || decide (32 ≤ head) then s
    else s.setHead head { (s.head head) with rebind := some (if part < 32 then some part else none) })

/-! ## The latch (R371 to R373, R376) -/

/-- Is a FRAMENO greater than the last one used? -/
def frameGreater (f g : Nat) : Bool :=
  let k := (f + 2 ^ 32 - g) % 2 ^ 32
  decide (1 ≤ k) && decide (k < 2 ^ 31)

/-- The present word is read, as an acquire at device scope (R193, R371): frames A and B, the last FRAMENO, what later reads carry,
and whether B is newly presented. None while a read is held (R279). -/
def State.present (s : State) (head d : Nat) (h : Head) : Option (Head × Bool) :=
  let ctx := headCtx d
  if !s.headReady head ctx h.carry (headPWord d) 8 then none
  else
    match s.headGot head ctx h.carry (headPWord d) 8 with
    | none => some (h, false)
    | some (w, σ) =>
      let f := field w 32 32
      let h1 : Head := { h with carry := Stamp.max h.carry σ }
      let fresh := match h.frameB with
        | none => decide (f ≠ 0)
        | some _ => frameGreater f h.g
      let at_ := headRing d + 64 * field w 0 2
      if !fresh then some (h1, false)
      else if !s.headReady head ctx h1.carry at_ 64 then none
      else
        let rec_ := (s.headRead head ctx h1.carry at_ 64).getD badRecord
        some ({ h1 with frameA := h.frameB, frameB := some rec_, g := f }, true)

/-- The pose slot is read (R376): the pose, and whether the previous one was kept. -/
def State.latchPose (s : State) (head d : Nat) (carry : Stamp) (old : List Word32) : List Word32 × Bool :=
  match s.headRead head (headCtx d) carry (headPose d) 32 with
  | none => (old, true)
  | some w =>
    let p := (List.range 6).map fun k => field w (32 + 32 * k) 32
    if field w 0 32 = field w 224 32 ∧ p.all (fun x => (Fmt.f32.value x).isFinite) then
      (p.map (BitVec.ofNat 32), false)
    else (old, true)

/-- Does the band need network work: an upscaling network, or synthesis? -/
def Refresh.usesNet (r : Refresh) : Bool := headUpNet r.desc != 0 || (r.synth && headSynNet r.desc != 0)

/-- Requests of units for the network runs of a refresh, in order of deadline (R374, R397). -/
def State.askBands (s : State) (head : Nat) (r : Refresh) : State :=
  if r.frameB.isSome && r.usesNet then
    let d := s.die (head / 4)
    s.setDie (head / 4) { d with
      requests := d.requests ++ (List.range (headBands r.desc)).map fun b => ⟨.band head b, 1, s.clock⟩ }
  else s

/-- A refresh is latched under the descriptor in force (R372); none while a read is held. -/
def State.latch (s : State) (head d : Nat) : Option State :=
  let h := s.head head
  match s.present head d h with
  | none => none
  | some p =>
    if !s.headReady head (headCtx d) p.1.carry (headPose d) 32 then none
    else
      let q := s.latchPose head d p.1.carry h.pose
      let synth := headSynth d && p.1.frameA.isSome && p.2 && !h.synth
      let r : Refresh :=
        { desc := d, start := s.clock + headAhead d, frameA := p.1.frameA, frameB := p.1.frameB, srcNo := p.1.g, newB := p.2,
          synth := synth, pose := q.1, poseOld := q.2, cands := [], codes := [] }
      some ((s.setHead head { p.1 with
        synth := synth, pose := q.1, latchAt := s.clock + headPeriod d, frames := h.frames ++ [r] }).askBands head r)

/-- The rebinding in wait takes effect; the installed descriptor serves no context of another partition (R380). -/
def State.bindHead (s : State) (head : Nat) : State :=
  let h := s.head head
  match h.rebind with
  | none => s
  | some p =>
    let lost := match h.desc with
      | some d => !s.servedBy p (headCtx d)
      | none => false
    s.setHead head { h with part := p, rebind := none, dead := h.dead || lost }

/-- Umber sets the rate of the encoder that a new descriptor names (R379; log 79). -/
def State.setRate (s : State) (head d : Nat) : State :=
  if sinkEncodes (headSink d) then
    let x := s.die (head / 4)
    s.setDie (head / 4) { x with rates := Sparse.set 0 x.rates (headSink d - 4) (Config.encoderRate s.fresh) }
  else s

/-- The staged descriptor is installed, when Madder finds its CTX in Indigo's table; otherwise that is a violation by Umber
(R369, R396). -/
def State.installHead (s : State) (head : Nat) : State :=
  let h := s.head head
  match h.staged with
  | none => s
  | some d =>
    if s.servedBy h.part (headCtx d) then
      (s.setHead head { h with desc := some d, staged := none, dead := false }).setRate head d
    else (s.setHead head { h with staged := none }).violate (.umber (head / 4))

/-- A head leaves idle (R371, R380): no frame A, no frame B, no FRAMENO, and black lines; the first latch is to come. -/
def State.wakeHead (s : State) (head : Nat) : State :=
  s.setHead head { (s.head head) with running := true, frameA := none, frameB := none, g := 0, synth := false, lines := [],
                                      latchAt := s.clock }

/-- FRAME_LATCH (R372, R373): a frame boundary. -/
def execFrameLatch (head : Nat) (s : State) : Out :=
  .next (
    if s.clock < (s.head head).latchAt then s
    else
      let s1 := (s.bindHead head).installHead head
      match (s1.head head).desc with
      | none => s1
      | some d =>
        if (s1.head head).running then
          if headEnable d then (s1.latch head d).getD s else s1.setHead head { (s1.head head) with running := false }
        else if headEnable d then s1.wakeHead head
        else s1)

/-! ## Candidates and deadlines (R374) -/

/-- Deadline of a band. -/
def Refresh.deadline (r : Refresh) (b : Nat) : Nat := r.start + 16 * b * headLineT r.desc - 64 * headLead r.desc

/-- The oldest refresh in which the band has no code, by its place. -/
def Head.openFrame (h : Head) (b : Nat) : Option (Nat × Refresh) :=
  (h.frames.zipIdx.find? fun p => decide (b < headBands p.1.desc) && !p.1.codes.any fun c => decide (c.1 = b)).map fun p =>
    (p.2, p.1)

/-- Is the candidate complete? -/
def Refresh.has (r : Refresh) (b code : Nat) : Bool := r.cands.any fun c => decide (c.band = b) && decide (c.code = code)

/-- Does a WSLOAD write a range that the head's networks read (R374)? -/
def State.netsLoading (s : State) (head d : Nat) : Bool :=
  let die := head / 4
  let map := (s.context (headCtx d)).wsmap
  let reads := [headSynNet d, headUpNet d].flatMap fun net =>
    if net = 0 then [] else netRanges (65536 * net) ((s.netLayers die (headCtx d) net).getD [])
  (s.die die).wsloads.any fun w => reads.any fun r =>
    (span (r.1 / 65536) (r.2 / 65536 + 2)).any fun g => decide (65536 * g < r.1 + r.2) &&
      match wsByte map die (65536 * g) with
      | some o => (List.range (w.len / 65536 + 1)).any fun k => decide (65536 * k < w.len) &&
          ((wsEntry (s.context w.ctx).wsmap (w.off + 65536 * k)).elim false fun e =>
            let a := w.off + 65536 * k - e.base + e.phys
            decide (a < o + 65536) && decide (o < a + 65536))
      | none => false

/-- Has the band's network work its unit (R397)? -/
def State.bandGranted (s : State) (head b : Nat) : Bool :=
  (s.die (head / 4)).grants.any fun p => decide (p.user = .band head b)

/-- Earlier network work of the band, in the order of R374, is done: the code-1 upscale before that of code 0. -/
def Refresh.inOrder (r : Refresh) (b code : Nat) : Bool :=
  !(decide (code = 0) && r.synth && headUpNet r.desc != 0) || r.has b 1

/-- Can the work on a candidate go on: before the deadline, of frames that can be read and networks that can run? -/
def State.workable (s : State) (head b code : Nat) (r : Refresh) : Bool :=
  let d := r.desc
  let net := fun n => s.netOk (head / 4) (headCtx d) n
  !(s.head head).dead && !r.has b code && decide (s.clock ≤ r.deadline b) &&
  s.sourceGood head (s.head head).carry b code r &&
  match r.madeBy code with
  | none => false
  | some false => true
  | some true => s.bandGranted head b && !s.netsLoading head d && r.inOrder b code && net (headUpNet d) &&
      (!r.synthesises code || (headSynNet d != 0 && net (headSynNet d)))

/-- The deadline of a band whose work the matrix unit of the die could do now. -/
def State.netDeadline (s : State) (head b : Nat) : Option Nat :=
  match (s.head head).openFrame b with
  | some (_, r) =>
    if (List.range 2).any fun code => r.madeBy code == some true && s.workable head b code r then some (r.deadline b) else none
  | none => none

/-- Does the matrix unit of the die serve another band first: an earlier deadline, or a lower head on a tie (R374)? -/
def State.servedLater (s : State) (head b : Nat) (r : Refresh) : Bool :=
  (span (4 * (head / 4)) 4).any fun k =>
    (List.range ((s.head k).frames.foldl (fun m x => Nat.max m (headBands x.desc)) 0)).any fun j =>
      match s.netDeadline k j with
      | some t => decide (t < r.deadline b) || (decide (t = r.deadline b) && decide (k < head))
      | none => false

/-- Can the candidate be completed now? -/
def State.candOk (s : State) (head b code : Nat) (r : Refresh) : Bool :=
  s.workable head b code r && (r.madeBy code != some true || !s.servedLater head b r)

/-- The work of a band is over: its unit and its request go (R374, R397). -/
def State.endBand (s : State) (head b : Nat) : State :=
  let d := s.die (head / 4)
  s.setDie (head / 4) { d with grants := d.grants.filter fun p => decide (p.user ≠ .band head b),
                               requests := d.requests.filter fun p => decide (p.user ≠ .band head b) }

/-- CANDIDATE_COMPLETE (R374). -/
def execCandidateComplete (head b code : Nat) (s : State) : Out :=
  let h := s.head head
  .next (
    match h.openFrame b with
    | none => s
    | some (k, r) =>
      if s.candOk head b code r then
        let c : Cand := ⟨b, code, s.bandPixels head h.carry b code r⟩
        let s1 := s.setHead head { h with frames := h.frames.set k { r with cands := r.cands ++ [c] } }
        if code = 0 then s1.endBand head b else s1
      else s)

/-- The lowest code among the complete candidates of a band; 3 is always there. -/
def Refresh.best (r : Refresh) (b : Nat) : Nat :=
  (r.cands.filter fun c => decide (c.band = b)).foldl (fun m c => Nat.min m c.code) 3

/-- The band of a head as it was last scanned: black before the first (R371). -/
def Head.line (h : Head) (d b : Nat) : List Nat :=
  let l := Sparse.get [] h.lines b
  if l.isEmpty then blackBand d else l

/-- The band as the code that it takes has it (R374). -/
def Head.shown (h : Head) (r : Refresh) (b code : Nat) : List Nat :=
  ((r.cands.find? fun c => decide (c.band = b) && decide (c.code = code)).map Cand.pixels).getD (h.line r.desc b)

/-- The tile row of an encoder whose last band has now its code: four bands, or fewer at the end (R379). -/
def Refresh.rowDone (r : Refresh) (b : Nat) : Option Nat :=
  let bands := (span (4 * (b / 4)) 4).filter fun k => decide (k < headBands r.desc)
  if sinkEncodes (headSink r.desc) && bands.all fun k => r.codes.any fun c => decide (c.1 = k) then some (b / 4) else none

/-- BAND_DEADLINE (R374): the band takes a code, and what is unfinished is abandoned. -/
def execBandDeadline (head b : Nat) (s : State) : Out :=
  let h := s.head head
  .next (
    match h.openFrame b with
    | none => s
    | some (k, r) =>
      if s.clock < r.deadline b then s
      else
        let code := if h.dead then 3 else r.best b
        let r1 : Refresh := { r with codes := r.codes ++ [(b, code)] }
        let lines := Sparse.set [] h.lines b (h.shown r b code)
        let h1 := { h with
          frames := h.frames.set k r1,
          lines := lines,
          rows := match r1.rowDone b with
            | some n => h.rows ++ [⟨n, r.desc, (span (4 * n) 4).flatMap fun j =>
                if j < headBands r.desc then Sparse.get [] lines j else []⟩]
            | none => h.rows }
        (s.setHead head h1).endBand head b)

/-! ## Ends of frames and encoder output (R375, R379) -/

/-- The status record of a frame (R375). -/
def Refresh.status (r : Refresh) (count : Nat) : Nat :=
  ((r.codes.map fun c => c.2 * 2 ^ (128 + 2 * c.1)).sum) + r.srcNo % 2 ^ 32 * 2 ^ 96 +
    (if r.poseOld then 2 ^ 34 else 0) + (if r.synth then 2 ^ 33 else 0) + (if r.newB then 2 ^ 32 else 0) + count % 2 ^ 32

/-- Madder or an encoder writes bytes as a release at device scope (R283, R375, R379): once every die has applied what they have
written. -/
def State.releaseFrom (s : State) (head ctx va : Nat) (bytes : List Byte) : State :=
  let die := head / 4
  let carry := Stamp.max (s.head head).carry (s.die die).display
  let r := s.writeFrom die ctx va bytes carry
  r.1.setDie die { (r.1.die die) with display := Stamp.max (r.1.die die).display r.2 }

/-- Has every die applied what Madder and the encoders of the die have written, and the die what the head carries? -/
def State.released (s : State) (head : Nat) : Bool :=
  s.everywhere (s.die (head / 4)).display && s.ready (head / 4) (s.head head).carry

/-- FRAME_END (R375): the last active line of the oldest refresh is over. -/
def execFrameEnd (head : Nat) (s : State) : Out :=
  let h := s.head head
  .next (
    match h.frames with
    | [] => s
    | r :: rest =>
      if s.clock < r.start + headOutH r.desc * headLineT r.desc ∨ r.codes.length < headBands r.desc ∨ !s.released head then s
      else
        (s.setHead head { h with frames := rest, count := (h.count + 1) % 2 ^ 32 }).releaseFrom head (headCtx r.desc)
          (headStat r.desc + 128 * (h.count % 8)) (bytesOf 128 (r.status h.count)))

/-- ENCODER_TILE_ROW (R379): the bytes of a tile row whose bands have all been taken, written on in the bitstream ring of its
refresh (log 35). -/
def execEncoderTileRow (head row : Nat) (s : State) : Out :=
  let h := s.head head
  .next (
    match h.rows.find? fun x => decide (x.row = row) with
    | some x =>
      if !s.released head then s
      else
        let rate := Sparse.get 0 (s.die (head / 4)).rates (headSink x.desc - 4)
        let bs := Config.tileRow s.fresh (4096 * head + row) (rate :: x.pixels)
        (s.setHead head { h with rows := h.rows.erase x, written := h.written + bs.length }).releaseFrom head (headCtx x.desc)
          (headBsRing x.desc + h.written) bs
    | none => s)

end Sys2Proof.Machine
end

