-- ==== Sys2Proof/Machine/Custody.lean ====
section
/-!
DEFINITION. Bring-up and recovery (R391, R392, R399), measurement and attestation (R393 to R395), sensors and the arithmetic
clock (R398).
-/

namespace Sys2Proof.Machine

/-! ## Bring-up -/

/-- The signature of an image is r, then s, of 48 bytes each, over the digest of header, monitor and Umber (R391; log 8). -/
def imageSigned (img : FwImage) : Bool :=
  ecdsaVerify Config.caeruthKey (sha384 (Config.headerBytes img.svn ++ img.monitor ++ img.umber)) (ofBig (img.sig.take 48))
    (ofBig ((img.sig.drop 48).take 48))

/-- Does the boot ROM accept the image: its signature and its security version, from 0 to 63 (R391, R392)? -/
def Firmware.accepts (f : Firmware) (img : FwImage) : Bool := imageSigned img && decide (f.floor ≤ img.svn) && decide (img.svn ≤ 63)

/-- The private scalar that the boot ROM derives from the device secret (R395). -/
def deviceKey (secret : List Byte) : Nat :=
  let info := "SV-D8 device identity".toList.map fun c => BitVec.ofNat 8 c.toNat
  ofBig (hkdf384 secret info 56) % (n384 - 1) + 1

/-- The monitor runs: the two digests of the image are kept, and Indigo has the private scalar (R391, R393, R395). -/
def Firmware.measured (f : Firmware) : Firmware :=
  { f with running := f.flash, key := deviceKey f.secret, mind := sha384 f.flash.monitor, mumb := sha384 f.flash.umber }

/-- A package reset (R395, R399): the boot ROM derives the private scalar for Indigo, and verifies the image in flash; then the monitor runs with memories cleared, or the
device awaits an image, its memories as they were. Flash, fuses, host and peer memory outlive the reset. -/
def State.restart (s : State) (f : Firmware) : State :=
  let t : State := { State.reset with
    agenda := s.agenda, cur := s.cur, fresh := s.fresh, hostMem := s.hostMem, peerMem := s.peerMem, notices := s.notices }
  if f.accepts f.flash then { t with bringUp := .monitor, fw := f.measured }
  else { t with
    bringUp := .recovery, fw := { f with key := deviceKey f.secret }, nextSeq := s.nextSeq,
    dies := Sparse.mapVals Die.reset (fun _ d => { Die.reset with
      mem := d.mem, marks := d.marks, vc := d.vc, held := d.held, ws := d.ws, arrayTemp := d.arrayTemp, inletTemp := d.inletTemp }) s.dies }

/-- PACKAGE_RESET (R391, R399). -/
def execPackageReset (s : State) : Out := .next (s.restart s.fw)

/-- RECOVERY_IMAGE_LOAD (R391, R392, R399): a reloaded image that verifies is written, and the reset repeated. -/
def execRecoveryImageLoad (img : FwImage) (s : State) : Out :=
  .next (if s.bringUp == .recovery && s.fw.accepts img then s.restart { s.fw with flash := img } else s)

/-- DEVICE_READY (R360, R399): Umber runs, the chip number is set, and every Kazvel port has been trained, whether its lanes passed or
not. -/
def execDeviceReady (chip : Nat) (s : State) : Out :=
  .next (
    if s.bringUp == .monitor && (List.range 16).all fun k => (s.port k).trained && (s.port k).state != .training then
      { s with bringUp := .ready, chip := chip % 128 }
    else s)

/-- COMMIT_IMAGE (R392): fuses are blown until the floor is the running image's SVN. -/
def execCommitImage (s : State) : Out :=
  .next (if s.bringUp == .ready then { s with fw := { s.fw with floor := Nat.max s.fw.floor s.fw.running.svn } } else s)

/-! ## Attestation (R393, R394) -/

/-- The 16 bytes of a map entry (R349). -/
def WsEntry.bits (e : WsEntry) : Nat :=
  e.base / 65536 % 2 ^ 32 * 2 ^ 96 + e.phys / 65536 % 2 ^ 32 * 2 ^ 64 + e.len / 65536 % 2 ^ 32 * 2 ^ 32 +
    (if e.wr then 512 else 0) + (if e.rd then 256 else 0) + e.dies % 256

/-- What MPART is computed over (R393): QMASK, the map entries of the partition's contexts by ascending CTX, and its head
bindings, each with the CTX of the installed descriptor. -/
def State.measure (s : State) (part : Nat) : List Byte :=
  bytesOf 4 (s.part part).qmask.toNat ++
  ((s.contexts.filter fun c => decide (c.2.part = part)).flatMap fun c => c.2.wsmap.flatMap fun e => bytesOf 16 e.bits) ++
  ((s.heads.filter fun h => h.2.part == some part).flatMap fun h =>
    Config.bindingBytes h.1 (match h.2.desc with | some d => headCtx d | none => 0))

/-- Bytes 0 to 255 of a report (R394). -/
def State.reportBody (s : State) (part : Nat) (nonce : List Byte) : List Byte :=
  fitBytes 48 nonce ++ fitBytes 48 s.fw.mind ++ fitBytes 48 s.fw.mumb ++ fitBytes 48 (sha384 (s.measure part)) ++
  bytesOf 4 (s.part part).qmask.toNat ++ bytesOf 1 part ++ bytesOf 1 s.chip ++ bytesOf 2 s.fw.running.svn ++
  bytesOf 1 s.fw.floor ++ List.replicate 55 0

/-- A nonce from 1 to n - 1: the first of a few with which r and s are not zero. -/
def State.signature (s : State) (digest : List Byte) : Nat × Nat :=
  let l := (List.range 4).map fun i => ecdsaSign s.fw.key (Config.signNonce s.fresh i % (n384 - 1) + 1) digest
  (l.find? fun p => decide (p.1 ≠ 0) && decide (p.2 ≠ 0)).getD (1, 1)

/-- ATTESTATION_REQUEST (R394, R395): the report with its signature, and the certificate chain. -/
def execAttestationRequest (part : Nat) (nonce : List Byte) (s : State) : Out :=
  let body := s.reportBody part nonce
  let rs := s.signature (sha384 body)
  .next (s.whenReady (
    if part < 32 then
      { s with fw := { s.fw with reports := s.fw.reports ++ [(body ++ bigBytes 48 rs.1 ++ bigBytes 48 rs.2, s.fw.chain)] } }
    else s))

/-! ## Sensors and the arithmetic clock (R398) -/

/-- The hottest array sensor of a die reads a temperature, and its coolant inlet another: above 95 degrees of the array the governor
has at most 4 units, above 105 at most 2, and below 90 it has 8. -/
def State.sensed (s : State) (die : Nat) (temp : Sensors) : State :=
  let d := s.die die
  let t := temp.array
  let units := if 105 < t then Nat.min d.units 2 else if 95 < t then Nat.min d.units 4 else if t < 90 then 8 else d.units
  s.setDie die { d with arrayTemp := t, inletTemp := temp.inlet, units := units }

/-- THERMAL_THROTTLE (R398). -/
def execThermalThrottle (die : Nat) (temp : Sensors) (s : State) : Out :=
  .next (if die < 8 ∧ 95 < temp.array ∧ temp.array < 115 then s.sensed die temp else s)

/-- THERMAL_RESTORE (R398): a reading of 95 degrees or less; below 90 the units return. -/
def execThermalRestore (die : Nat) (temp : Sensors) (s : State) : Out :=
  .next (if die < 8 ∧ temp.array ≤ 95 then s.sensed die temp else s)

/-- THERMAL_STOP (R398): every arithmetic clock stops, the host driver is told, and all contexts are reset. -/
def execThermalStop (die : Nat) (temp : Sensors) (s : State) : Out :=
  .next (
    if die < 8 ∧ 115 ≤ temp.array then
      let s1 : State := { s.sensed die temp with clockStopped := true }
      (s1.contexts.map Prod.fst).foldl State.resetContext (s1.notify .thermalStop)
    else s)

/-- ARITHMETIC_CLOCK_RESTART (R398). -/
def execArithmeticClockRestart (s : State) : Out := .next (s.whenReady { s with clockStopped := false })

end Sys2Proof.Machine
end

