-- ==== Sys2Proof/Machine/Translate.lean ====
section
/-!
DEFINITION. What Umber may publish as the translation of a tile-form function (R326, R327, R329): the instructions of the body in
their order, legal under the declared budgets, each with the values that the body gives it, whatever registers hold them; and a
stub that branches to them (log 57).
-/

namespace Sys2Proof.Machine

/-! ## The vector registers of an instruction -/

/-- The vector registers of operand b. -/
def opRegs (ty : Ty) : VOp → List Nat
  | .vec r => regsOf ty r
  | .scalar _ => []
  | .imm _ => []

/-- The vector registers that an instruction reads, and those that it writes; those of a vector of a factor operation by its first
register. -/
def vectorRoles (i : Instr) : List Nat × List Nat :=
  match i with
  | .calli _ va _ _ => ([va], [])
  | .briv _ va _ _ => ([va], [])
  | .srd vx reg _ _ => ([], if vx then [reg] else [])
  | .swr vx reg _ _ => (if vx then [reg] else [], [])
  | .spawn _ va _ _ => (span va 8, [])
  | .vcmp _ _ va b ty _ => (regsOf ty va ++ opRegs ty b, [])
  | .vshfl vd va b ty _ => (regsOf ty va ++ opRegs .n32 b, regsOf ty vd)
  | .vshup vd va b ty _ => (regsOf ty va ++ opRegs .n32 b, regsOf ty vd)
  | .vshdn vd va b ty _ => (regsOf ty va ++ opRegs .n32 b, regsOf ty vd)
  | .vshxor vd va b ty _ => (regsOf ty va ++ opRegs .n32 b, regsOf ty vd)
  | .vbcast vd va b ty _ => (regsOf ty va ++ opRegs .n32 b, regsOf ty vd)
  | .vgred vd va _ ty _ => (regsOf ty va, regsOf ty vd)
  | .vscan vd va _ ty _ => (regsOf ty va, regsOf ty vd)
  | .vaddInt vd va b ty _ => (regsOf ty va ++ opRegs ty b, regsOf ty vd)
  | .vsubInt vd va b ty _ => (regsOf ty va ++ opRegs ty b, regsOf ty vd)
  | .vmulInt vd va b ty _ => (regsOf ty va ++ opRegs ty b, regsOf ty vd)
  | .vmulh vd va b ty _ => (regsOf ty va ++ opRegs ty b, regsOf ty vd)
  | .vmad vd va b vc ty _ => (regsOf ty va ++ regsOf ty vc ++ opRegs ty b, regsOf ty vd)
  | .vabsd vd va b ty _ => (regsOf ty va ++ opRegs ty b, regsOf ty vd)
  | .vadds vd va b ty _ => (regsOf ty va ++ opRegs ty b, regsOf ty vd)
  | .vsubs vd va b ty _ => (regsOf ty va ++ opRegs ty b, regsOf ty vd)
  | .vminInt vd va b ty _ => (regsOf ty va ++ opRegs ty b, regsOf ty vd)
  | .vmaxInt vd va b ty _ => (regsOf ty va ++ opRegs ty b, regsOf ty vd)
  | .vand vd va b ty _ => (regsOf ty va ++ opRegs ty b, regsOf ty vd)
  | .vor vd va b ty _ => (regsOf ty va ++ opRegs ty b, regsOf ty vd)
  | .vxor vd va b ty _ => (regsOf ty va ++ opRegs ty b, regsOf ty vd)
  | .vandn vd va b ty _ => (regsOf ty va ++ opRegs ty b, regsOf ty vd)
  | .vnot vd va ty _ => (regsOf ty va, regsOf ty vd)
  | .vshl vd va b ty _ => (regsOf ty va ++ opRegs ty b, regsOf ty vd)
  | .vshr vd va b ty _ => (regsOf ty va ++ opRegs ty b, regsOf ty vd)
  | .vsra vd va b ty _ => (regsOf ty va ++ opRegs ty b, regsOf ty vd)
  | .vrot vd va b ty _ => (regsOf ty va ++ opRegs ty b, regsOf ty vd)
  | .vbfx vd va b ty _ => (regsOf ty va ++ opRegs ty b, regsOf ty vd)
  | .vbfi vd va b vc _ => ([va] ++ [vc] ++ opRegs .n32 b, [vd])
  | .vclz vd va _ => ([va], [vd])
  | .vpop vd va _ => ([va], [vd])
  | .vbrev vd va _ => ([va], [vd])
  | .vsel vd va b _ ty _ => (regsOf ty va ++ opRegs ty b, regsOf ty vd)
  | .vmov vd b ty _ => (opRegs ty b, regsOf ty vd)
  | .vprmt vd va b vc _ => ([va] ++ [vc] ++ opRegs .n32 b, [vd])
  | .vaddFp vd va b ty _ _ => (regsOf ty va ++ opRegs ty b, regsOf ty vd)
  | .vsubFp vd va b ty _ _ => (regsOf ty va ++ opRegs ty b, regsOf ty vd)
  | .vmulFp vd va b ty _ _ => (regsOf ty va ++ opRegs ty b, regsOf ty vd)
  | .vfma vd va b vc ty _ _ => (regsOf ty va ++ regsOf ty vc ++ opRegs ty b, regsOf ty vd)
  | .vfms vd va b vc ty _ _ => (regsOf ty va ++ regsOf ty vc ++ opRegs ty b, regsOf ty vd)
  | .vfnma vd va b vc ty _ _ => (regsOf ty va ++ regsOf ty vc ++ opRegs ty b, regsOf ty vd)
  | .vminFp vd va b ty _ => (regsOf ty va ++ opRegs ty b, regsOf ty vd)
  | .vmaxFp vd va b ty _ => (regsOf ty va ++ opRegs ty b, regsOf ty vd)
  | .vabs vd va ty _ => (regsOf ty va, regsOf ty vd)
  | .vneg vd va ty _ => (regsOf ty va, regsOf ty vd)
  | .vcpysgn vd va b ty _ => (regsOf ty va ++ opRegs ty b, regsOf ty vd)
  | .vrcp vd va ty _ _ => (regsOf ty va, regsOf ty vd)
  | .vrsq vd va ty _ _ => (regsOf ty va, regsOf ty vd)
  | .vsqrt vd va ty _ _ => (regsOf ty va, regsOf ty vd)
  | .vexp2 vd va ty _ => (regsOf ty va, regsOf ty vd)
  | .vlog2 vd va ty _ => (regsOf ty va, regsOf ty vd)
  | .vsin vd va ty _ => (regsOf ty va, regsOf ty vd)
  | .vcos vd va ty _ => (regsOf ty va, regsOf ty vd)
  | .vfloor vd va ty _ => (regsOf ty va, regsOf ty vd)
  | .vceil vd va ty _ => (regsOf ty va, regsOf ty vd)
  | .vtrunc vd va ty _ => (regsOf ty va, regsOf ty vd)
  | .vround vd va ty _ _ => (regsOf ty va, regsOf ty vd)
  | .vfract vd va ty _ => (regsOf ty va, regsOf ty vd)
  | .vclass vd va ty _ => (regsOf ty va, regsOf ty vd)
  | .tseed vd _ b _ => ([vd] ++ opRegs .n32 b, [vd])
  | .tzero vd _ _ => ([vd], [vd])
  | .tget vd va _ _ => ([va], [vd])
  | .tset vd _ b _ => ([vd] ++ opRegs .n32 b, [vd])
  | .tmov vd _ va _ _ => ([vd] ++ [va], [vd])
  | .vcvt vd va ty ts _ _ => (regsOf ts va, regsOf ty vd)
  | .vcvtsr vd va b _ ty _ => (regsOf ty va ++ opRegs ty b, regsOf ty vd)
  | .vrand vd va _ => (span va 2, [vd] ++ span va 2)
  | .vrseed vd va _ => ([va], span vd 2)
  | .vpack vd va b _ ts _ _ _ => ([vd] ++ regsOf ts va ++ opRegs ts b, [vd])
  | .vunpk vd va _ ty _ _ => ([va], regsOf ty vd)
  | .ld vd a ty _ _ _ => (addrRegs a, regsOf ty vd)
  | .st vd a ty _ _ _ => (regsOf ty vd ++ addrRegs a, [])
  | .ldt vd a _ _ n _ => (addrRegs a, span vd n)
  | .stt vd a _ _ n _ => (span vd n ++ addrRegs a, [])
  | .ldw vd a ty _ => (addrRegs a, regsOf ty vd)
  | .sld _ a _ _ _ => (addrRegs a, [])
  | .sst _ a _ _ _ => (addrRegs a, [])
  | .atom vd a vc _ ty _ _ => (regsOf ty vc ++ addrRegs a, regsOf ty vd)
  | .acas vd a vc ty _ _ => (regsOf ty vd ++ regsOf ty vc ++ addrRegs a, regsOf ty vd)
  | .gath vd va _ _ ty _ => ([va], regsOf ty vd)
  | .scat vd va _ _ ty _ => (regsOf ty vd ++ [va], [])
  | .pld vd va _ _ ty _ => ([va], regsOf ty vd)
  | .pst vd va _ _ ty _ => (regsOf ty vd ++ [va], [])
  | .red vd va _ _ _ ty _ _ _ => (regsOf ty vd ++ [va], [])
  | .amg vd va _ _ _ ty _ _ _ => (regsOf ty vd ++ [va], regsOf ty vd)
  | .tex vd va _ _ _ => (span va 2, span vd 4)
  | .texg vd va _ _ _ => (span va 2, span vd 4)
  | .isect vd va _ _ _ => (span va 8, span vd 5)
  | .visq vd va _ _ _ => (span va 2, span vd 5)
  | .fupd _ va _ => ([va], [])
  | .fdown _ va _ => ([va], [])
  | .fsolve _ va _ _ => ([va], [])
  | _ => ([], [])

/-- Operand b with other vector registers. -/
def mapOp (f : Nat → Nat) : VOp → VOp
  | .vec r => .vec (f r)
  | .scalar r => .scalar r
  | .imm x => .imm x

/-- An address with other vector registers. -/
def mapAddr (f : Nat → Nat) (a : Addr) : Addr := if a.scalar then a else { a with base := f a.base }

/-- An instruction with other vector registers. -/
def renamed (f : Nat → Nat) (i : Instr) : Instr :=
  match i with
  | .calli sa va tok h => .calli sa (f va) tok h
  | .briv sa va tok h => .briv sa (f va) tok h
  | .srd vx reg sys h => .srd vx (if vx then f reg else reg) sys h
  | .swr vx reg sys h => .swr vx (if vx then f reg else reg) sys h
  | .spawn sd va entry h => .spawn sd (f va) entry h
  | .vcmp cond md va b ty h => .vcmp cond md (f va) (mapOp f b) ty h
  | .vshfl vd va b ty h => .vshfl (f vd) (f va) (mapOp f b) ty h
  | .vshup vd va b ty h => .vshup (f vd) (f va) (mapOp f b) ty h
  | .vshdn vd va b ty h => .vshdn (f vd) (f va) (mapOp f b) ty h
  | .vshxor vd va b ty h => .vshxor (f vd) (f va) (mapOp f b) ty h
  | .vbcast vd va b ty h => .vbcast (f vd) (f va) (mapOp f b) ty h
  | .vgred vd va op ty h => .vgred (f vd) (f va) op ty h
  | .vscan vd va op ty h => .vscan (f vd) (f va) op ty h
  | .vaddInt vd va b ty h => .vaddInt (f vd) (f va) (mapOp f b) ty h
  | .vsubInt vd va b ty h => .vsubInt (f vd) (f va) (mapOp f b) ty h
  | .vmulInt vd va b ty h => .vmulInt (f vd) (f va) (mapOp f b) ty h
  | .vmulh vd va b ty h => .vmulh (f vd) (f va) (mapOp f b) ty h
  | .vmad vd va b vc ty h => .vmad (f vd) (f va) (mapOp f b) (f vc) ty h
  | .vabsd vd va b ty h => .vabsd (f vd) (f va) (mapOp f b) ty h
  | .vadds vd va b ty h => .vadds (f vd) (f va) (mapOp f b) ty h
  | .vsubs vd va b ty h => .vsubs (f vd) (f va) (mapOp f b) ty h
  | .vminInt vd va b ty h => .vminInt (f vd) (f va) (mapOp f b) ty h
  | .vmaxInt vd va b ty h => .vmaxInt (f vd) (f va) (mapOp f b) ty h
  | .vand vd va b ty h => .vand (f vd) (f va) (mapOp f b) ty h
  | .vor vd va b ty h => .vor (f vd) (f va) (mapOp f b) ty h
  | .vxor vd va b ty h => .vxor (f vd) (f va) (mapOp f b) ty h
  | .vandn vd va b ty h => .vandn (f vd) (f va) (mapOp f b) ty h
  | .vnot vd va ty h => .vnot (f vd) (f va) ty h
  | .vshl vd va b ty h => .vshl (f vd) (f va) (mapOp f b) ty h
  | .vshr vd va b ty h => .vshr (f vd) (f va) (mapOp f b) ty h
  | .vsra vd va b ty h => .vsra (f vd) (f va) (mapOp f b) ty h
  | .vrot vd va b ty h => .vrot (f vd) (f va) (mapOp f b) ty h
  | .vbfx vd va b ty h => .vbfx (f vd) (f va) (mapOp f b) ty h
  | .vbfi vd va b vc h => .vbfi (f vd) (f va) (mapOp f b) (f vc) h
  | .vclz vd va h => .vclz (f vd) (f va) h
  | .vpop vd va h => .vpop (f vd) (f va) h
  | .vbrev vd va h => .vbrev (f vd) (f va) h
  | .vsel vd va b mc ty h => .vsel (f vd) (f va) (mapOp f b) mc ty h
  | .vmov vd b ty h => .vmov (f vd) (mapOp f b) ty h
  | .vprmt vd va b vc h => .vprmt (f vd) (f va) (mapOp f b) (f vc) h
  | .vaddFp vd va b ty rm h => .vaddFp (f vd) (f va) (mapOp f b) ty rm h
  | .vsubFp vd va b ty rm h => .vsubFp (f vd) (f va) (mapOp f b) ty rm h
  | .vmulFp vd va b ty rm h => .vmulFp (f vd) (f va) (mapOp f b) ty rm h
  | .vfma vd va b vc ty rm h => .vfma (f vd) (f va) (mapOp f b) (f vc) ty rm h
  | .vfms vd va b vc ty rm h => .vfms (f vd) (f va) (mapOp f b) (f vc) ty rm h
  | .vfnma vd va b vc ty rm h => .vfnma (f vd) (f va) (mapOp f b) (f vc) ty rm h
  | .vminFp vd va b ty h => .vminFp (f vd) (f va) (mapOp f b) ty h
  | .vmaxFp vd va b ty h => .vmaxFp (f vd) (f va) (mapOp f b) ty h
  | .vabs vd va ty h => .vabs (f vd) (f va) ty h
  | .vneg vd va ty h => .vneg (f vd) (f va) ty h
  | .vcpysgn vd va b ty h => .vcpysgn (f vd) (f va) (mapOp f b) ty h
  | .vrcp vd va ty rm h => .vrcp (f vd) (f va) ty rm h
  | .vrsq vd va ty rm h => .vrsq (f vd) (f va) ty rm h
  | .vsqrt vd va ty rm h => .vsqrt (f vd) (f va) ty rm h
  | .vexp2 vd va ty h => .vexp2 (f vd) (f va) ty h
  | .vlog2 vd va ty h => .vlog2 (f vd) (f va) ty h
  | .vsin vd va ty h => .vsin (f vd) (f va) ty h
  | .vcos vd va ty h => .vcos (f vd) (f va) ty h
  | .vfloor vd va ty h => .vfloor (f vd) (f va) ty h
  | .vceil vd va ty h => .vceil (f vd) (f va) ty h
  | .vtrunc vd va ty h => .vtrunc (f vd) (f va) ty h
  | .vround vd va ty rm h => .vround (f vd) (f va) ty rm h
  | .vfract vd va ty h => .vfract (f vd) (f va) ty h
  | .vclass vd va ty h => .vclass (f vd) (f va) ty h
  | .tseed vd k b h => .tseed (f vd) k (mapOp f b) h
  | .tzero vd slot h => .tzero (f vd) slot h
  | .tget vd va k h => .tget (f vd) (f va) k h
  | .tset vd k b h => .tset (f vd) k (mapOp f b) h
  | .tmov vd j va k h => .tmov (f vd) j (f va) k h
  | .vcvt vd va ty ts rm h => .vcvt (f vd) (f va) ty ts rm h
  | .vcvtsr vd va b n ty h => .vcvtsr (f vd) (f va) (mapOp f b) n ty h
  | .vrand vd va h => .vrand (f vd) (f va) h
  | .vrseed vd va h => .vrseed (f vd) (f va) h
  | .vpack vd va b ty ts hi rm h => .vpack (f vd) (f va) (mapOp f b) ty ts hi rm h
  | .vunpk vd va k ty ts h => .vunpk (f vd) (f va) k ty ts h
  | .ld vd a ty du o h => .ld (f vd) (mapAddr f a) ty du o h
  | .st vd a ty du o h => .st (f vd) (mapAddr f a) ty du o h
  | .ldt vd a ty du n h => .ldt (f vd) (mapAddr f a) ty du n h
  | .stt vd a ty du n h => .stt (f vd) (mapAddr f a) ty du n h
  | .ldw vd a ty h => .ldw (f vd) (mapAddr f a) ty h
  | .sld sd a ty o h => .sld sd (mapAddr f a) ty o h
  | .sst sd a ty o h => .sst sd (mapAddr f a) ty o h
  | .atom vd a vc op ty o h => .atom (f vd) (mapAddr f a) (f vc) op ty o h
  | .acas vd a vc ty o h => .acas (f vd) (mapAddr f a) (f vc) ty o h
  | .gath vd va w off ty h => .gath (f vd) (f va) w off ty h
  | .scat vd va w off ty h => .scat (f vd) (f va) w off ty h
  | .pld vd va w off ty h => .pld (f vd) (f va) w off ty h
  | .pst vd va w off ty h => .pst (f vd) (f va) w off ty h
  | .red vd va w off op ty ord crit h => .red (f vd) (f va) w off op ty ord crit h
  | .amg vd va w off op ty ord crit h => .amg (f vd) (f va) w off op ty ord crit h
  | .tex vd va sa l0 h => .tex (f vd) (f va) sa l0 h
  | .texg vd va sa l0 h => .texg (f vd) (f va) sa l0 h
  | .isect vd va sa bk h => .isect (f vd) (f va) sa bk h
  | .visq vd va sa bk h => .visq (f vd) (f va) sa bk h
  | .fupd x va h => .fupd x (f va) h
  | .fdown x va h => .fdown x (f va) h
  | .fsolve x va tr h => .fsolve x (f va) tr h
  | _ => i

/-! ## Branches and waits -/

/-- The displacement of a direct branch or call. -/
def branchOff : Instr → Option Off
  | .br t _ => some t
  | .call t _ => some t
  | .bz _ t _ => some t
  | .bnz _ t _ => some t
  | .bltz _ t _ => some t
  | .bgez _ t _ => some t
  | .bgtz _ t _ => some t
  | .blez _ t _ => some t
  | .brv _ t _ _ => some t
  | .brk _ t _ _ => some t
  | .ball _ t _ => some t
  | .bnone _ t _ => some t
  | _ => none

/-- The instruction with a displacement, or a count of a WAITC pv, of no account: what a translation keeps of it besides its
registers. -/
def shapeOf (i : Instr) : Instr :=
  let z : Off := .small 0
  match renamed (fun _ => 0) i with
  | .br _ h => .br z h
  | .call _ h => .call z h
  | .bz sa _ h => .bz sa z h
  | .bnz sa _ h => .bnz sa z h
  | .bltz sa _ h => .bltz sa z h
  | .bgez sa _ h => .bgez sa z h
  | .bgtz sa _ h => .bgtz sa z h
  | .blez sa _ h => .blez sa z h
  | .brv m _ k h => .brv m z k h
  | .brk m _ k h => .brk m z k h
  | .ball m _ h => .ball m z h
  | .bnone m _ h => .bnone m z h
  | .waitc .pv _ h => .waitc .pv 0 h
  | x => x

/-- The count that a WAITC pv waits for. -/
def privateWait : Instr → Option Nat
  | .waitc .pv n _ => some n
  | _ => none

/-- Does the instruction end a stretch of code, so that every value stands at its home there: a branch, a call, a wait for a
vector of a factor operation, an end? -/
def endsStretch (i : Instr) : Bool :=
  (branchOff i).isSome ||
  match i with
  | .ret _ _ => true
  | .bri _ _ => true
  | .briv _ _ _ _ => true
  | .calli _ _ _ _ => true
  | .exit _ => true
  | .spawn _ _ _ _ => true
  | .trap _ _ => true
  | .fupd _ _ _ => true
  | .fdown _ _ _ => true
  | .fsolve _ _ _ _ => true
  | _ => false

/-! ## Where values stand -/

/-- A place of a value: a physical register, or a spill slot by its window, its address register and its offset. -/
inductive ValuePlace where
  | reg (n : Nat)
  | slot (w va : Nat) (off : Int)
  deriving DecidableEq, Repr

/-- Which virtual register's value stands at which place. -/
abbrev Held := List (ValuePlace × Nat)

/-- The virtual register whose value stands at a place. -/
def Held.at_ (k : Held) (p : ValuePlace) : Option Nat := (k.find? fun x => decide (x.1 = p)).map Prod.snd

/-- A physical register takes something else: slots that it addresses are no longer known. -/
def Held.lose (k : Held) (n : Nat) : Held :=
  k.filter fun x => match x.1 with
    | .reg m => decide (m ≠ n)
    | .slot _ va _ => decide (va ≠ n)

/-- A place takes the value that stands at another. -/
def Held.move (k : Held) (dst src : ValuePlace) : Held :=
  let k1 := match dst with
    | .reg n => k.lose n
    | .slot _ _ _ => k.filter fun x => decide (x.1 ≠ dst)
  match k.at_ src with
  | some v => (dst, v) :: k1
  | none => k1

/-- A physical register takes the new value of a virtual one; the old value stands nowhere. -/
def Held.set (k : Held) (n v : Nat) : Held := (.reg n, v) :: ((k.lose n).filter fun x => decide (x.2 ≠ v))

/-- The home of a virtual register: where its value stands between stretches. -/
def homeOf (t : Translation) (v : Nat) : Nat := ((t.homes.find? fun p => decide (p.1 = v)).map Prod.snd).getD v

/-- Every value at its home. -/
def atHome (t : Translation) (used : List Nat) : Held := used.map fun v => (.reg (homeOf t v), v)

/-- Does every value stand at its home? -/
def isHome (t : Translation) (used : List Nat) (k : Held) : Bool :=
  used.all fun v => k.at_ (.reg (homeOf t v)) == some v

/-- What an instruction that Umber adds makes of it: a spill, its reload, or a move between registers; none where it may not stand
in a translation. Registers of the dual range take no part (R326). -/
def Held.added (n : Nat) (k : Held) (i : Instr) : Option Held :=
  match i with
  | .pst vd va w off ty _ => if regsOf ty vd = [vd] ∧ ty.bytes = 4 ∧ n ≤ vd then some (k.move (.slot w va off) (.reg vd)) else none
  | .pld vd va w off ty _ =>
    if regsOf ty vd = [vd] ∧ ty.bytes = 4 ∧ n ≤ vd ∧ vd ≠ va then some (k.move (.reg vd) (.slot w va off)) else none
  | .vmov vd (.vec r) ty _ => if regsOf ty vd = [vd] ∧ n ≤ vd ∧ n ≤ r then some (k.move (.reg vd) (.reg r)) else none
  | _ => none

/-- Do physical registers hold the values of virtual ones: below N each its own (R326)? -/
def Held.holds (n : Nat) (k : Held) (phys virt : List Nat) : Bool :=
  decide (phys.length = virt.length) && (phys.zip virt).all fun p =>
    k.at_ (.reg p.1) == some p.2 && (decide (n ≤ p.1) || decide (p.1 = p.2)) && (decide (n ≤ p.2) || decide (p.1 = p.2))

/-- What an instruction of the body, as it stands in the translation, makes of it; none where it reads or writes otherwise. -/
def Held.follow (n : Nat) (k : Held) (i source : Instr) : Option Held :=
  let r := vectorRoles i
  let v := vectorRoles source
  let ws := r.2.zip v.2
  if shapeOf i = shapeOf source ∧ (privateWait i).getD 0 ≤ (privateWait source).getD 0 ∧ k.holds n r.1 v.1 = true ∧
      r.2.length = v.2.length ∧ (ws.all fun p => (decide (n ≤ p.1) && decide (n ≤ p.2)) || decide (p.1 = p.2)) = true then
    some (ws.foldl (fun k p => k.set p.1 p.2) k)
  else none

/-! ## The check of a body -/

/-- The instructions of a body, with their offsets. -/
def instrsOf (l : List (Nat × Decoded)) : List (Nat × Instr) := l.filterMap fun p => match p.2 with
  | .instr i => some (p.1, i)
  | .reject _ => none

/-- Where a direct branch at an address leads. -/
def leadsTo (pc : Nat) (t : Off) : Nat := ((((pc : Int) + targetBytes t) % (2 ^ 52 : Nat))).toNat

/-- For each instruction of a translation, the offset in the body of the next one that it carries out. -/
def alignment (spills : List Nat) : List (Nat × Instr) → List (Nat × Instr) → List (Nat × Nat)
  | [], _ => []
  | x :: ts, [] => (x.1, 0) :: alignment spills ts []
  | x :: ts, y :: ss => (x.1, y.1) :: alignment spills ts (if spills.contains x.1 then y :: ss else ss)

/-- A body to be checked: the first address of its offsets and of those of the translation, the virtual registers of the image,
the registers of the dual range, where branches of the translation lead, and its alignment. -/
structure BodyCheck where
  t : Translation
  base : Nat
  used : List Nat
  n : Nat
  targets : List Nat
  align : List (Nat × Nat)

/-- Does a branch of the translation lead where that of the body leads: to the instruction that stands for the same one, or out of
the body to the same address? -/
def BodyCheck.branchOk (c : BodyCheck) (off : Nat) (i : Instr) (soff : Nat) (source : Instr) : Bool :=
  match branchOff i, branchOff source with
  | some x, some y =>
    let there := leadsTo (c.t.base + off) x
    let goal := leadsTo (c.base + soff) y
    c.align.any (fun p => decide (c.t.base + p.1 = there) && decide (c.base + p.2 = goal)) ||
      (decide (there = goal) && c.align.all fun p => decide (c.base + p.2 ≠ goal))
  | _, _ => true

/-- Do the registers of a vector of a factor operation, of which there may be four, stand together as the body has them? -/
def BodyCheck.vectorOk (c : BodyCheck) (i source : Instr) : Bool :=
  let same := fun (va : Nat) => decide (i = source) && (span va 4).all fun v => !c.used.contains v || decide (homeOf c.t v = v)
  match source with
  | .fupd _ va _ => same va
  | .fdown _ va _ => same va
  | .fsolve _ va _ _ => same va
  | _ => true

/-- Is the rest of a translation the rest of the body, from where values stand as given? -/
def BodyCheck.rest (c : BodyCheck) : List (Nat × Instr) → List (Nat × Instr) → Held → Bool
  | [], src, k => src.isEmpty && isHome c.t c.used k
  | x :: ts, src, k =>
    let led := c.targets.contains (c.t.base + x.1)
    if led && !isHome c.t c.used k then false
    else
      let k0 := if led then atHome c.t c.used else k
      if c.t.spills.contains x.1 then
        match k0.added c.n x.2 with
        | some k1 => c.rest ts src k1
        | none => false
      else
        match src with
        | [] => false
        | y :: ss =>
          if endsStretch x.2 && !isHome c.t c.used k0 then false
          else
            match k0.follow c.n x.2 y.2 with
            | some k1 =>
              c.branchOk x.1 x.2 y.1 y.2 && c.vectorOk x.2 y.2 && c.rest ts ss (if endsStretch x.2 then atHome c.t c.used else k1)
            | none => false

/-- Are the words of a translation the body, whatever registers hold the values? -/
def bodyFollows (t : Translation) (base n : Nat) (used : List Nat) (words source : List (Nat × Instr)) : Bool :=
  let targets := words.filterMap fun x => (branchOff x.2).map (leadsTo (t.base + x.1))
  let c : BodyCheck := ⟨t, base, used, n, targets, alignment t.spills words source⟩
  c.rest words source (atHome t used)

/-- Are the homes of the virtual registers of an image distinct, and those below N their own (R326)? -/
def homesOk (t : Translation) (n : Nat) (used : List Nat) : Bool :=
  decide ((used.map (homeOf t)).Nodup) && used.all fun v => decide (n ≤ v) == decide (n ≤ homeOf t v) && (decide (n ≤ v) || decide (homeOf t v = v))

/-- May the instruction stand in a translation: registers within the budget of the function, limits kept, barriers declared (R326,
R52, R215)? -/
def fitsBudget (d : Decl) (regs8 : Nat) (i : Instr) : Bool :=
  ((({ Group.free with decl := d } : Group).uses i)).all (RegId.below (8 * regs8)) && d.limitOk i &&
  match namesBar i with
  | some b => bitAt d.barmask b
  | none => true

/-- Do the words of the stub branch to the translation? -/
def stubLeads (stub : Nat) (t : Translation) : Bool :=
  decide (t.stubWords.length ≤ 4) &&
  match decodeWords t.stubWords with
  | .instr (.br x _) => decide ((((stub : Int) + targetBytes x) % (2 ^ 52 : Nat)) = (t.base : Int))
  | _ => false

/-- A flashback point of the translation: at an instruction of it, with registers that the budget holds and a recipe of the image
(R30, R316). -/
def ImageText.pointStands (x : ImageText) (p : FlashPoint) (base regs8 : Nat) (words : List (Nat × Instr)) : Bool :=
  words.any (fun q => decide (base + q.1 = p.point)) && decide (p.saved.length ≤ 16) && p.saved.all (fun c =>
    (decide (c.1 = 0) && decide (c.2 < 8 * regs8)) || (decide (c.1 = 1) && decide (c.2 < 64)) ||
      (decide (c.1 = 2) && decide (c.2 < 16))) &&
  match p.recipe with
  | some r => x.callees.any fun f => decide (x.pcOf f.entry = r) && recipeBody ((x.body f).drop 4)
  | none => true

/-- The code section and the function table of a loaded image, as they stand now. -/
def State.codeText (s : State) (ctx base : Nat) : Option ImageText :=
  match s.readMapped ctx base 64 with
  | none => none
  | some hb =>
    let h := imageHeader (ofBytes hb)
    match s.readMapped ctx (base + 64) h.codelen, s.readMapped ctx (base + h.fnoff) (16 * h.fncnt) with
    | some code, some fns =>
      some ⟨base, h, code, (List.range h.fncnt).map (fun k => fnEntry (ofBytes ((fns.drop (16 * k)).take 16))), []⟩
    | _, _ => none

/-- The ranges that a new translation must leave alone: images, and what has been translated of other functions. -/
def Context.codeRanges (c : Context) (stub : Nat) : List (Nat × Nat) :=
  (c.images.map fun i => (i.base, 192 + i.codeLen + i.dataLen + 16 * i.functions.length)) ++
    ((c.stubs.filter fun z => z.state.stands && decide (z.pc ≠ stub)).map fun z => (z.base, z.len))

/-- Does a translation leave other code alone, and its table with it? -/
def Context.leavesCode (c : Context) (stub : Nat) (t : Translation) (points : Nat) : Bool :=
  let n := 4 * t.words.length
  (c.codeRanges stub).all (fun r => !rangesMeet r.1 r.2 t.base n && !rangesMeet r.1 r.2 t.table (32 * points)) &&
  !rangesMeet t.base n t.table (32 * points)

/-- Is it a translation of the function at the stub? -/
def State.translates (s : State) (ctx stub : Nat) (t : Translation) : Bool :=
  let c := s.context ctx
  match c.images.find? fun i => i.functions.any fun f => decide (f.1 = stub) with
  | none => false
  | some i =>
    match s.codeText ctx i.base with
    | none => false
    | some x =>
      match x.fns.find? fun f => decide (x.pcOf f.entry = stub) with
      | none => false
      | some f =>
        let n := 4 * t.words.length
        let body := bodyOf (t.words.flatMap (bytesOf 4)) n 0 n
        let words := instrsOf body
        let source := fun (f : FnEntry) => (x.body f).filter fun p => decide (f.entry + 16 ≤ p.1)
        let used := (x.fns.flatMap fun f => (instrsOf (source f)).flatMap fun p =>
          let r := vectorRoles p.2
          r.1 ++ r.2).eraseDups
        let points := i.points.length + t.points.length
        decide (words.length = body.length) && decide ((instrsOf (source f)).length = (source f).length) &&
        words.all (fun p => fitsBudget i.decl f.regs8 p.2) && homesOk t i.decl.n used &&
        c.stubs.all (fun z => !z.state.stands || !(i.functions.any fun g => decide (g.1 = z.pc)) || decide (z.homes = t.homes)) &&
        bodyFollows t (x.pcOf 0) i.decl.n used words (instrsOf (source f)) && stubLeads stub t &&
        t.points.all (fun p => x.pointStands p t.base f.regs8 words) && s.inHeap ctx (n / 65536 + 2) t.base n &&
        s.inHeap ctx (points / 2048 + 4) t.table (32 * points) && c.leavesCode stub t points

end Sys2Proof.Machine
end

