-- ==== Sys2Proof/Machine/Mappings.lean ====
section
/-!
DEFINITION. What the host driver, Indigo and Umber do to a context's mappings and tables: translation descriptors (R346), the
weight-store map (R349), shoot-downs (R355 to R357), escalations (R352), translation of tile-form functions (R326 to R328),
collective groups (R364), and host writes (R288).
-/

namespace Sys2Proof.Machine

/-! ## Descriptors and maps -/

/-- The constraints that R346 puts on a translation descriptor. -/
def translationOk (raw : Nat) : Bool :=
  decide (field raw 384 12 = 0) && decide (field raw 320 12 = 0) && decide (field raw 256 12 = 0) &&
  decide (field raw 192 16 = 0) && decide (field raw 0 144 = 0) && decide (field raw 448 64 % 64 = 0) &&
  decide (field raw 396 52 % 65536 = 0) && decide (field raw 268 52 % 65536 = 0) && decide (field raw 208 48 % 256 = 0) &&
  decide (field raw 144 48 % 65536 = 0)

/-- TRANSLATION_UPDATE (R346): a descriptor that breaks a constraint is not taken (log 33). -/
def execTranslationUpdate (ctx raw : Nat) (s : State) : Out :=
  let c := s.context ctx
  .next (s.whenReady (
    if c.state == .absent || !translationOk raw then s
    else s.setContext ctx { c with
      pool := field raw 448 64, phwm := field raw 396 52, plim := field raw 332 52, pbase := field raw 268 52,
      wsmapAddr := field raw 208 48, root := field raw 144 48 }))

/-- An entry of a weight-store map (R349). -/
def wsEntryOf (x : Nat) : WsEntry :=
  ⟨65536 * field x 96 32, 65536 * field x 64 32, 65536 * field x 32 32, bitAt x 9, bitAt x 8, field x 0 8⟩

/-- Do two entries name a common physical range? -/
def WsEntry.meets (x y : WsEntry) : Bool := shares x.phys x.len y.phys y.len

/-- Does Indigo accept the map for the context (R349)? -/
def State.mapOk (s : State) (ctx : Nat) (raw : List Nat) : Bool :=
  let l := (raw.map wsEntryOf).filter fun e => decide (e.len ≠ 0)
  raw.all (fun x => decide (field x 10 22 = 0)) &&
  l.all (fun e => decide (e.phys + e.len ≤ 2 ^ 31)) &&
  decide (l.Pairwise fun x y => shares x.base x.len y.base y.len = false) &&
  s.contexts.all fun c => decide (c.1 = ctx) ||
    c.2.wsmap.all fun y => decide (y.len = 0) || l.all fun x => !(x.wr || y.wr) || !x.meets y

/-- WSMAP_UPDATE (R349): the map is written at WSMAP, and holds for launches admitted from now on; a refused one changes
nothing. -/
def execWsmapUpdate (ctx : Nat) (raw : List Nat) (s : State) : Out :=
  let c := s.context ctx
  let l := (List.range 16).map fun i => raw.getD i 0 % 2 ^ 128
  .next (s.whenReady (
    if c.state == .absent then s
    else if s.mapOk ctx l then
      ((s.setContext ctx { c with wsmap := l.map wsEntryOf }).writePhys 0 c.wsmapAddr (l.flatMap (bytesOf 16)) [] false).1
    else s.notify (.mapRefused ctx)))

/-! ## Shoot-downs (R355 to R357) -/

/-- Windows of the groups of a context that a test picks, on the cores and saved. -/
def State.dropWindows (s : State) (ctx va len : Nat) (pick : Nat → Bool) : State :=
  { s with
    groups := Sparse.mapVals Group.free (fun k g => if g.ctx = ctx ∧ pick k then g.dropFrames va len else g) s.groups,
    gangs := Sparse.mapVals Gang.none (fun _ y =>
      if y.ctx = ctx then { y with saved := y.saved.map (Group.dropFrames va len) } else y) s.gangs }

/-- TLB entries of the range leave the TLB of a quarter. -/
def State.dropTlb (s : State) (q ctx va len : Nat) : State :=
  s.setQuarter q { (s.quarter q) with tlb := (s.quarter q).tlb.filter fun e =>
    !(decide (e.ctx = ctx) && shares e.va e.size va len) }

/-- Did a side go through pages of the range? -/
def sideUses (va len : Nat) : Side → Bool
  | .window _ frames => frames.any fun p => shares (65536 * p.1) 65536 va len
  | _ => false

/-- Has the operation translated within the range at issue? Samples and rays count whenever their window is bound. -/
def Op.usesRange (va len : Nat) (o : Op) : Bool :=
  !o.done &&
  match o.kind with
  | .lanes _ _ _ _ _ _ _ => o.pages.any fun p => shares (65536 * p) 65536 va len
  | .copy w => sideUses va len w.src || sideUses va len w.dst
  | .coll w => sideUses va len w.src || sideUses va len w.dst
  | .matrix (.mdrain _ dst _ _ _ _) => sideUses va len dst
  | .tex _ _ _ w _ _ => w.valid
  | .ray _ _ _ w _ => w.valid
  | _ => false

/-- Change a shoot-down. -/
def State.setShoot (s : State) (x : Shoot) : State :=
  { s with shoots := s.shoots.map fun y => if y.id = x.id then x else y }

/-- Cores and chips have all answered: no window keeps a frame of the range, DONE is set, and a request from another chip
is acknowledged. -/
def State.finishShoot (s : State) (x : Shoot) : State :=
  if x.done || !x.cores.isEmpty || !x.waiting.isEmpty then s.setShoot x
  else
    let s1 := (s.dropWindows x.ctx x.va x.len fun _ => true).setShoot { x with done := true }
    match x.origin with
    | some (k, chip, seq) => s1.sendFlit k chip 4 (bytesOf 4 seq ++ bytesOf 4 0)
    | none => s1

/-- The completion record (R356): bit k of FENCED is chip k, of which the field holds the first 24 (log 49). -/
def Shoot.word (x : Shoot) : Word64 :=
  BitVec.ofNat 64 (x.ctx % 2 ^ 16 * 2 ^ 32 +
    ((List.range 24).map fun k => if x.fenced.contains k then 2 ^ (8 + k) else 0).sum + (if x.done then 1 else 0))

/-- A shoot-down begins on this chip: every core has to answer. -/
def State.beginShoot (s : State) (ctx va len : Nat) (chips : List Nat) (origin : Option (Nat × Nat × Nat)) : State :=
  { s with shoots := s.shoots ++ [⟨s.shoots.length, ctx, va, len, chips, List.range 512, chips, [], s.clock, (s.die 0).vc, origin,
      false⟩] }

/-- SHOOT_DOWN (R355): Indigo multicasts the request. -/
def execShootDown (ctx va len : Nat) (chips : List Nat) (s : State) : Out :=
  let l := (chips.filter fun c => decide (c < 128) && decide (c ≠ s.chip)).eraseDups
  let body := bytesOf 8 ctx ++ bytesOf 8 va ++ bytesOf 8 len
  .next (
    if s.bringUp == .ready then
      l.foldl (fun s c => if s.peerUp c then s.sendFlit (s.peerPort c 0) c 6 body else s) (s.beginShoot ctx va len l none)
    else s)

/-- SHOOT_DOWN_FLIT (R355, R359): the request of another chip is fanned out here. -/
def execShootDownFlit (k : Nat) (f : Flit) (s : State) : Out :=
  .next (s.arriving k 6 f fun s =>
    let w := fun i => ofBytes (((flitBody f).drop (8 * i)).take 8)
    s.beginShoot (w 0 % 2 ^ 16) (w 1) (w 2) [] (some (k, f.src, f.seq)))

/-- SHOOT_DOWN_ACK (R355, R357): a core drops what it holds of the range and answers once its operations in it are complete and
its die has applied the writes of the tables that come before the request; the answer of another chip has come. -/
def execShootDownAck (id : Nat) (node : AckNode) (s : State) : Out :=
  .next (
    match s.shoots.find? fun x => decide (x.id = id) && !x.done with
    | none => s
    | some x =>
      match node with
      | .chip c => s.finishShoot { x with waiting := x.waiting.erase c }
      | .core c =>
        let s1 := (s.dropTlb (c / 16) x.ctx x.va x.len).dropWindows x.ctx x.va x.len fun gid => coreOf gid = c
        if !s1.ready (c / 64) x.need || (s1.coreGroups c).any fun p => decide (p.2.ctx = x.ctx) && p.2.ops.any (Op.usesRange x.va x.len) then s1
        else s1.finishShoot { x with cores := x.cores.erase c })

/-- SHOOT_DOWN_TIMEOUT (R356): a silent chip is fenced, and the shoot-down goes on without it. -/
def execShootDownTimeout (id chip : Nat) (s : State) : Out :=
  .next (
    match s.shoots.find? fun x => decide (x.id = id) && !x.done with
    | none => s
    | some x =>
      if x.waiting.contains chip ∧ x.since + 1048576 ≤ s.clock then
        let ports := (List.range 16).filter fun k => (s.port k).usable && decide ((s.port k).peer = chip)
        ((ports.foldl State.fence s).fenceChip chip).finishShoot
          { x with waiting := x.waiting.erase chip, fenced := x.fenced ++ [chip] }
      else s)

/-! ## Requests (R327, R328, R352) -/

/-- The split that stands at a request of a kind. -/
def Group.requester (g : Group) (h : Hold) : Option Nat := g.validEntries.find? fun e => (g.split e).hold == h

/-- Take away the topmost trap record: the request of split e, which goes on. -/
def Group.dropRequest (g : Group) (e : Nat) : Group :=
  match g.stack.findIdx? fun x => decide (x.kind = .trap) with
  | some k => { g with stack := g.stack.eraseIdx k, escalated := false }.setSplit e { (g.split e) with hold := .none }
  | none => g

/-- The answer to an escalation that was flashed back waits for its TRAP to issue again (R335). -/
def Group.answer (g : Group) : Group := if g.escalated then { g with escalated := false, answered := true } else g

/-- ESCALATION_RESUME (R352): the split goes on after its TRAP. Numbers from 32768 on stand for groups of saved gangs. -/
def execEscalationResume (gid : Nat) (s : State) : Out :=
  .next (s.whenReady (
    if gid < 32768 then
      let g := s.group gid
      if s.coreStands gid then s
      else match g.requester .escalation with
      | some e => s.setGroup gid (g.dropRequest e)
      | none => if g.life == .flashed then s.setGroup gid g.answer else s
    else
      let k := (gid - 32768) / 64
      let y := s.gang k
      s.setGang k { y with saved := y.saved.modify ((gid - 32768) % 64) Group.answer }))

/-- The trap record beneath the topmost one: of a split that stands at a request, the one whose handler raised it. -/
def Group.beneath (g : Group) : Option StackEntry := (g.stack.filter fun x => decide (x.kind = .trap))[1]?

/-- Does the group stand at a translation request for the stub? -/
def Group.waitsFor (g : Group) (stub : Nat) : Bool :=
  (g.requester .translation).isSome && match g.beneath with
    | some r => decide (r.pc.toNat = stub)
    | none => false

/-- Change the groups of a context that stand at a translation request; a frozen core stays as it is (R396). -/
def State.mapWaiting (s : State) (ctx : Nat) (p : Group → Bool) (f : Group → Group) : State :=
  { s with groups := Sparse.mapVals Group.free (fun k g => if g.ctx = ctx ∧ p g ∧ !s.coreStands k then f g else g) s.groups }

/-- The split that stands at a translation request goes on after its TRAP. -/
def Group.endTranslation (g : Group) : Group :=
  match g.requester .translation with
  | some e => g.dropRequest e
  | none => g

/-- Cause 0x0025 for the stub record of a waiting request (R328). -/
def Group.heapFull (g : Group) : Group :=
  match g.beneath with
  | some r => { g with stack := g.stack.map fun x => if x = r then { x with cause := 0x25 } else x }
  | none => g

/-- Insert flashback points by their PC. -/
def addPoint (p : FlashPoint) : List FlashPoint → List FlashPoint
  | [] => [p]
  | x :: xs => if p.point ≤ x.point then p :: x :: xs else x :: addPoint p xs

/-- A flashback table entry as the eight words of R316, for an image at base: offsets count from the start of its code
section (log 72). -/
def flashEntryWords (p : FlashPoint) (base : Nat) : List Nat :=
  let off := fun (a : Nat) => (a + 2 ^ 52 - (base + 64) % 2 ^ 52) % 2 ^ 32
  let recipe := match p.recipe with
    | some r => off r
    | none => 0xFFFFFFFF
  let codes := p.saved.zipIdx.foldl (fun x c => x + (c.1.1 % 4 * 256 + c.1.2 % 256) * 2 ^ (10 * c.2)) 0
  let raw := off p.point + recipe * 2 ^ 32 + p.saved.length % 32 * 2 ^ 64 + codes * 2 ^ 72
  (List.range 8).map fun k => field raw (32 * k) 32

/-- Umber writes the flashback table of the image at an address, FTOFF and FTCNT of its header, and FLFIRST and FLCNT of the header
of each of its functions that is translated (R314 to R316, R326). -/
def State.writeFlashTable (s : State) (ctx table : Nat) (i : Image) (stubs : List Stub) : State :=
  let s1 := s.writeWords ctx table (i.points.flatMap fun p => flashEntryWords p i.base)
  let s2 := s1.writeWords ctx (i.base + 32)
    [i.points.length % 2 ^ 16 * 2 ^ 16, (table + 2 ^ 52 - i.base % 2 ^ 52) % 2 ^ 32]
  stubs.foldl (fun s x =>
    let first := if x.points = [] then 0 else i.points.findIdx fun p => decide (p ∈ x.points)
    s.writeWords ctx (x.pc + 2 ^ 52 - 16) [x.points.length % 2 ^ 16 + first % 2 ^ 16 * 2 ^ 16]) s2

/-- Change the stub at a PC. -/
def Context.setStub (c : Context) (y : Stub) : Context :=
  { c with stubs := c.stubs.map fun x => if x.pc = y.pc then y else x }

/-- All of the translation but word 0 of the stub is written: the body and its flashback points, in the code heap and with the
image (R326, R327). -/
def State.writeTranslation (s : State) (ctx : Nat) (x : Stub) (t : Translation) : State :=
  let y := { x with state := .written, word := t.stubWords.headD 0, points := t.points, base := t.base, len := 4 * t.words.length, homes := t.homes }
  let own := fun (i : Image) => i.functions.any fun f => decide (f.1 = x.pc)
  let c := (s.context ctx).setStub y
  let images := c.images.map fun i =>
    if own i then { i with points := t.points.foldl (fun l p => addPoint p l) i.points } else i
  let s1 := s.setContext ctx { c with images := images }
  let s2 := (images.filter own).foldl (fun s i =>
    s.writeFlashTable ctx t.table i (c.stubs.filter fun z => z.state.stands && i.functions.any fun f => decide (f.1 = z.pc)))
    (s1.writeWords ctx t.base t.words)
  let s3 := s2.writeWords ctx (x.pc + 4) (t.stubWords.drop 1)
  s3.setContext ctx ((s3.context ctx).setStub { y with need := (s3.die 0).vc })

/-- The next step of a translation that is under way, once every die has applied what Umber wrote before it (R327): word 0 of the
stub, then the end of the requests. -/
def State.goOnPublishing (s : State) (ctx : Nat) (x : Stub) : State :=
  if !s.everywhere x.need then s
  else
    match x.state with
    | .written =>
      let s1 := s.writeWords ctx x.pc [x.word]
      s1.setContext ctx ((s1.context ctx).setStub { x with state := .opened, need := (s1.die 0).vc })
    | .opened =>
      (s.setContext ctx ((s.context ctx).setStub { x with state := .published })).mapWaiting ctx (Group.waitsFor · x.pc)
        Group.endTranslation
    | _ => s

/-- TRANSLATION_PUBLISH (R327, R328): a function that is being translated is translated, step by step, or the heap is full, and
translation starts again from the stub. What is no translation of the function is not taken (log 57). -/
def execTranslationPublish (ctx stub : Nat) (work : Option Translation) (s : State) : Out :=
  .next (s.whenReady (
    match (s.context ctx).stubs.find? fun x => decide (x.pc = stub) with
    | none => s
    | some x =>
      if s.umberStands 0 then s
      else
        match x.state with
        | .stub => s
        | .translating =>
          match work with
          | some t => if s.translates ctx stub t then s.writeTranslation ctx x t else s
          | none =>
            ((s.setContext ctx ((s.context ctx).setStub { x with state := .stub })).mapWaiting ctx (Group.waitsFor · stub)
              Group.heapFull).notify (.heapFull ctx stub)
        | _ => s.goOnPublishing ctx x))

/-- HEAP_RESUME (R328): the lanes whose function found no room are resumed, and translation starts again from the stub. -/
def execHeapResume (ctx : Nat) (s : State) : Out :=
  .next (s.whenReady (s.mapWaiting ctx (fun g => (g.requester .translation).isSome && match g.beneath with
    | some r => decide (r.cause = 0x25)
    | none => false) Group.endTranslation))

/-! ## Collective groups (R364) -/

/-- COLLECTIVE_GROUP_WRITE (R364), which the host driver makes through Umber and a frozen one does not (R396): while no COLL of the context is in flight; the count starts again (R365). An empty list
empties the entry. -/
def execCollectiveGroupWrite (ctx g : Nat) (ranks : List (Nat × Nat)) (rank : Nat) (s : State) : Out :=
  let c := s.context ctx
  let ok := decide (2 ≤ ranks.length) && decide (ranks.length ≤ 256) && decide (rank < ranks.length)
  .next (s.whenReady (
    if c.state == .absent || s.umberStands 0 || decide (1024 ≤ g) || !(ok || ranks.isEmpty) ||
        (s.groupsOf ctx).any (fun p => p.2.ops.any fun o => o.cls == .cl && !o.done) then s
    else s.setContext ctx { c with
      colls := Sparse.set none c.colls g (if ranks.isEmpty then none else some ⟨ranks, rank⟩),
      collCount := Sparse.set 0 c.collCount g 0 }))

/-! ## Host writes (R288) -/

/-- The fields of a queue descriptor that the host may write: BASE, RSIZE, PRIO and WPTR (R306). -/
def Queue.fromHost (x : Queue) (d : Nat) : Queue :=
  { x with base := field d 153 52, rsize := field d 148 5, prio := field d 146 2, wptr := field d 64 64 }

/-- Bytes written at an offset of a queue descriptor; its read-only fields keep what they hold (R306, R312). -/
def State.writeQueue (s : State) (ctx q off : Nat) (bytes : List Byte) : State :=
  let old := bytesOf 32 (s.queueBits ctx q)
  let new := (old.take off ++ bytes ++ old.drop (off + bytes.length)).take 32
  (s.setQueue ctx q ((s.queue ctx q).fromHost (ofBytes new))).examine ctx q

/-- HOST_WRITE (R288): a write into device memory is one that die 0 originates; dropped while Pradan is not usable (R362). A
write of host memory is the host's own. Addresses from 2^49 on stand for queue descriptors (log 31). -/
def execHostWrite (pa : Nat) (bytes : List Byte) (s : State) : Out :=
  .next (
    if s.bringUp != .ready then s
    else if 2 ^ 49 ≤ pa then
      let ctx := (pa - 2 ^ 49) / 512
      if (s.context ctx).state == .absent || !s.hostUp then s
      else s.writeQueue ctx ((pa - 2 ^ 49) % 512 / 32) ((pa - 2 ^ 49) % 32) bytes
    else
      match physKind pa with
      | .hbm _ => if s.hostUp then (s.writeHbm 0 [] pa bytes [] false).1 else s
      | .host => { s with hostMem := Sparse.setRange 0 s.hostMem pa bytes }
      | _ => s)

end Sys2Proof.Machine
end

