-- ==== Sys2Proof/Machine/Masks.lean ====
section
/-!
DEFINITION. Masks and votes, major 0x10 (R157, R158), and the no-operation family, major 0x7F (R159). Mask logic acts on
all 32 bits, whatever em holds. A vote reads em at issue.
-/

namespace Sys2Proof.Machine

/-- md := x, then the next PC. -/
def maskTo (md : Nat) (x : Word32) (n : Nat) (s : State) : Out := .next ((s.putM md x).advance n)

/-- sd := x, then the next PC. -/
def scalarTo (sd : Nat) (x : Word64) (n : Nat) (s : State) : Out := .next ((s.putS sd x).advance n)

/-- MMOV (R157). -/
def execMmov (md ma : Nat) (h : Option Nat) (s : State) : Out := maskTo md (s.maskOp ma) (words1 h false) s

/-- MAND (R157). -/
def execMand (md ma mb : Nat) (h : Option Nat) (s : State) : Out :=
  maskTo md (s.maskOp ma &&& s.maskOp mb) (words1 h false) s

/-- MOR (R157). -/
def execMor (md ma mb : Nat) (h : Option Nat) (s : State) : Out :=
  maskTo md (s.maskOp ma ||| s.maskOp mb) (words1 h false) s

/-- MXOR (R157). -/
def execMxor (md ma mb : Nat) (h : Option Nat) (s : State) : Out :=
  maskTo md (s.maskOp ma ^^^ s.maskOp mb) (words1 h false) s

/-- MANDN (R157). -/
def execMandn (md ma mb : Nat) (h : Option Nat) (s : State) : Out :=
  maskTo md (s.maskOp ma &&& ~~~s.maskOp mb) (words1 h false) s

/-- MNOT (R157). -/
def execMnot (md ma : Nat) (h : Option Nat) (s : State) : Out := maskTo md (~~~s.maskOp ma) (words1 h false) s

/-- MSET: bits [31:0] of the register or the literal (R157). -/
def execMset (md : Nat) (b : RegLit) (h : Option Nat) (s : State) : Out :=
  maskTo md ((s.grp.regLit b).setWidth 32) (words1 h (regIsLit b)) s

/-- MPOP: the number of set bits (R157). -/
def execMpop (sd ma : Nat) (h : Option Nat) (s : State) : Out :=
  scalarTo sd (BitVec.ofNat 64 (popCount 32 (s.maskOp ma).toNat)) (words1 h false) s

/-- MFIRST: the lowest set bit's number, or -1 (R157). -/
def execMfirst (sd ma : Nat) (h : Option Nat) (s : State) : Out :=
  scalarTo sd (match lowestBit 32 (s.maskOp ma).toNat with
    | some k => BitVec.ofNat 64 k
    | none => BitVec.allOnes 64) (words1 h false) s

/-- BALLOT: ma and em, zero-extended (R157). -/
def execBallot (sd ma : Nat) (h : Option Nat) (s : State) : Out :=
  scalarTo sd ((s.maskOp ma &&& s.em).setWidth 64) (words1 h false) s

/-- VANY: does ma hold a lane of em (R157)? -/
def execVany (sd ma : Nat) (h : Option Nat) (s : State) : Out :=
  scalarTo sd (if s.maskOp ma &&& s.em ≠ 0 then 1 else 0) (words1 h false) s

/-- VALL: does ma hold every lane of em (R157)? -/
def execVall (sd ma : Nat) (h : Option Nat) (s : State) : Out :=
  scalarTo sd (if s.em &&& ~~~s.maskOp ma = 0 then 1 else 0) (words1 h false) s

/-- MSAVE: m(a+1) above ma (R157). -/
def execMsave (sd ma : Nat) (h : Option Nat) (s : State) : Out :=
  scalarTo sd ((s.grp.readM (ma + 1)) ++ (s.grp.readM ma)) (words1 h false) s

/-- MRESTORE: md := sa [31:0] and m(d+1) := sa [63:32] (R157). -/
def execMrestore (md sa : Nat) (h : Option Nat) (s : State) : Out :=
  let x := s.grp.readS sa
  .next (((s.putM md (x.setWidth 32)).putM (md + 1) (x.extractLsb' 32 32)).advance (words1 h false))

/-- NOP (R159). -/
def execNop (h : Option Nat) (s : State) : Out := .next (s.advance (words1 h false))

/-- HINT carries a hint byte and changes nothing (R159). -/
def execHint (h : Option Nat) (s : State) : Out := .next (s.advance (words1 h false))

/-- PREF asks fetch to bring code in, which changes no state (R159). -/
def execPref (h : Option Nat) (s : State) : Out := .next (s.advance (words1 h false))

end Sys2Proof.Machine
end

