-- ==== Sys2Proof/Machine/Scalar.lean ====
section
/-!
DEFINITION. Scalar arithmetic, majors 0x18 and 0x19 (R163 to R166). Each form reads a := s(SA) and b as 64-bit patterns
and writes s(SD) once, whatever em holds; a write to s0 is discarded. The _IMM forms take b from IMM6 or the literal.
-/

namespace Sys2Proof.Machine

/-! ## Results (R164 to R166) -/

def addS (a b : Word64) : Word64 := a + b
def subS (a b : Word64) : Word64 := a - b
def mulS (a b : Word64) : Word64 := a * b

/-- Bits [127:64] of the signed product. -/
def mulhS (a b : Word64) : Word64 := BitVec.ofInt 64 (a.toInt * b.toInt / 2 ^ 64)

/-- Signed quotient, rounded toward zero; all ones for b = 0 (R165). -/
def divS (a b : Word64) : Word64 := if b = 0 then BitVec.allOnes 64 else BitVec.ofInt 64 (a.toInt.tdiv b.toInt)

/-- Unsigned quotient; all ones for b = 0 (R165). -/
def divuS (a b : Word64) : Word64 := if b = 0 then BitVec.allOnes 64 else BitVec.ofNat 64 (a.toNat / b.toNat)

/-- Signed remainder with the sign of a; a for b = 0 (R165). -/
def remS (a b : Word64) : Word64 := if b = 0 then a else BitVec.ofInt 64 (a.toInt.tmod b.toInt)

/-- Unsigned remainder; a for b = 0 (R165). -/
def remuS (a b : Word64) : Word64 := if b = 0 then a else BitVec.ofNat 64 (a.toNat % b.toNat)

def andS (a b : Word64) : Word64 := a &&& b
def orS (a b : Word64) : Word64 := a ||| b
def xorS (a b : Word64) : Word64 := a ^^^ b
def andnS (a b : Word64) : Word64 := a &&& ~~~b

/-- Shifts take b [5:0]. -/
def shlS (a b : Word64) : Word64 := a <<< (b.toNat % 64)
def shrS (a b : Word64) : Word64 := a >>> (b.toNat % 64)
def sraS (a b : Word64) : Word64 := a.sshiftRight (b.toNat % 64)
def rotS (a b : Word64) : Word64 := a.rotateLeft (b.toNat % 64)

def minS (a b : Word64) : Word64 := if a.toInt ≤ b.toInt then a else b
def maxS (a b : Word64) : Word64 := if a.toInt ≤ b.toInt then b else a
def minuS (a b : Word64) : Word64 := if a.toNat ≤ b.toNat then a else b
def maxuS (a b : Word64) : Word64 := if a.toNat ≤ b.toNat then b else a

def seqS (a b : Word64) : Word64 := if a = b then 1 else 0
def sltS (a b : Word64) : Word64 := if a.toInt < b.toInt then 1 else 0
def sltuS (a b : Word64) : Word64 := if a.toNat < b.toNat then 1 else 0

/-- Position and width of the field that b describes, bits above 63 dropped (R166). -/
def fieldPos (b : Word64) : Nat := b.toNat % 64
def fieldLen (b : Word64) : Nat := min (min (b.toNat / 256 % 128) 64) (64 - fieldPos b)

def bfxS (a b : Word64) : Word64 := BitVec.ofNat 64 (field a.toNat (fieldPos b) (fieldLen b))

/-- old with the field replaced by the low bits of a. -/
def bfiS (old a b : Word64) : Word64 := BitVec.ofNat 64 (putField old.toNat (fieldPos b) (fieldLen b) a.toNat)

def clzS (a : Word64) : Word64 := BitVec.ofNat 64 (leadingZeros 64 a.toNat)
def ctzS (a : Word64) : Word64 := BitVec.ofNat 64 (trailingZeros 64 a.toNat)
def popS (a : Word64) : Word64 := BitVec.ofNat 64 (popCount 64 a.toNat)
def brevS (a : Word64) : Word64 := BitVec.ofNat 64 (reverseBits 64 a.toNat)

/-! ## The shapes -/

/-- s(SD) := f a b, then the next PC. -/
def scalarOp (f : Word64 → Word64 → Word64) (sd sa : Nat) (b : Word64) (n : Nat) (s : State) : Out :=
  .next ((s.putS sd (f (s.grp.readS sa) b)).advance n)

/-- s(SD) := f a, then the next PC. -/
def scalarUn (f : Word64 → Word64) (sd sa n : Nat) (s : State) : Out :=
  .next ((s.putS sd (f (s.grp.readS sa))).advance n)

/-! ## The forms of major 0x18 -/

/-- SADD (R164). -/
def execSadd (sd sa sb : Nat) (h : Option Nat) (s : State) : Out :=
  scalarOp addS sd sa (s.grp.readS sb) (words1 h false) s

/-- SSUB (R164). -/
def execSsub (sd sa sb : Nat) (h : Option Nat) (s : State) : Out :=
  scalarOp subS sd sa (s.grp.readS sb) (words1 h false) s

/-- SMUL (R164). -/
def execSmul (sd sa sb : Nat) (h : Option Nat) (s : State) : Out :=
  scalarOp mulS sd sa (s.grp.readS sb) (words1 h false) s

/-- SMULH (R164). -/
def execSmulh (sd sa sb : Nat) (h : Option Nat) (s : State) : Out :=
  scalarOp mulhS sd sa (s.grp.readS sb) (words1 h false) s

/-- SDIV (R165). -/
def execSdiv (sd sa sb : Nat) (h : Option Nat) (s : State) : Out :=
  scalarOp divS sd sa (s.grp.readS sb) (words1 h false) s

/-- SDIVU (R165). -/
def execSdivu (sd sa sb : Nat) (h : Option Nat) (s : State) : Out :=
  scalarOp divuS sd sa (s.grp.readS sb) (words1 h false) s

/-- SREM (R165). -/
def execSrem (sd sa sb : Nat) (h : Option Nat) (s : State) : Out :=
  scalarOp remS sd sa (s.grp.readS sb) (words1 h false) s

/-- SREMU (R165). -/
def execSremu (sd sa sb : Nat) (h : Option Nat) (s : State) : Out :=
  scalarOp remuS sd sa (s.grp.readS sb) (words1 h false) s

/-- SAND (R164). -/
def execSand (sd sa sb : Nat) (h : Option Nat) (s : State) : Out :=
  scalarOp andS sd sa (s.grp.readS sb) (words1 h false) s

/-- SOR (R164). -/
def execSor (sd sa sb : Nat) (h : Option Nat) (s : State) : Out :=
  scalarOp orS sd sa (s.grp.readS sb) (words1 h false) s

/-- SXOR (R164). -/
def execSxor (sd sa sb : Nat) (h : Option Nat) (s : State) : Out :=
  scalarOp xorS sd sa (s.grp.readS sb) (words1 h false) s

/-- SANDN (R164). -/
def execSandn (sd sa sb : Nat) (h : Option Nat) (s : State) : Out :=
  scalarOp andnS sd sa (s.grp.readS sb) (words1 h false) s

/-- SSHL (R164). -/
def execSshl (sd sa sb : Nat) (h : Option Nat) (s : State) : Out :=
  scalarOp shlS sd sa (s.grp.readS sb) (words1 h false) s

/-- SSHR (R164). -/
def execSshr (sd sa sb : Nat) (h : Option Nat) (s : State) : Out :=
  scalarOp shrS sd sa (s.grp.readS sb) (words1 h false) s

/-- SSRA (R164). -/
def execSsra (sd sa sb : Nat) (h : Option Nat) (s : State) : Out :=
  scalarOp sraS sd sa (s.grp.readS sb) (words1 h false) s

/-- SROT (R164). -/
def execSrot (sd sa sb : Nat) (h : Option Nat) (s : State) : Out :=
  scalarOp rotS sd sa (s.grp.readS sb) (words1 h false) s

/-- SMIN (R164). -/
def execSmin (sd sa sb : Nat) (h : Option Nat) (s : State) : Out :=
  scalarOp minS sd sa (s.grp.readS sb) (words1 h false) s

/-- SMAX (R164). -/
def execSmax (sd sa sb : Nat) (h : Option Nat) (s : State) : Out :=
  scalarOp maxS sd sa (s.grp.readS sb) (words1 h false) s

/-- SMINU (R164). -/
def execSminu (sd sa sb : Nat) (h : Option Nat) (s : State) : Out :=
  scalarOp minuS sd sa (s.grp.readS sb) (words1 h false) s

/-- SMAXU (R164). -/
def execSmaxu (sd sa sb : Nat) (h : Option Nat) (s : State) : Out :=
  scalarOp maxuS sd sa (s.grp.readS sb) (words1 h false) s

/-- SMOV (R164). -/
def execSmov (sd sb : Nat) (h : Option Nat) (s : State) : Out :=
  .next ((s.putS sd (s.grp.readS sb)).advance (words1 h false))

/-- SSEQ (R164). -/
def execSseq (sd sa sb : Nat) (h : Option Nat) (s : State) : Out :=
  scalarOp seqS sd sa (s.grp.readS sb) (words1 h false) s

/-- SSLT (R164). -/
def execSslt (sd sa sb : Nat) (h : Option Nat) (s : State) : Out :=
  scalarOp sltS sd sa (s.grp.readS sb) (words1 h false) s

/-- SSLTU (R164). -/
def execSsltu (sd sa sb : Nat) (h : Option Nat) (s : State) : Out :=
  scalarOp sltuS sd sa (s.grp.readS sb) (words1 h false) s

/-- SBFX (R166). -/
def execSbfx (sd sa sb : Nat) (h : Option Nat) (s : State) : Out :=
  scalarOp bfxS sd sa (s.grp.readS sb) (words1 h false) s

/-- SBFI (R166). -/
def execSbfi (sd sa sb : Nat) (h : Option Nat) (s : State) : Out :=
  scalarOp (bfiS (s.grp.readS sd)) sd sa (s.grp.readS sb) (words1 h false) s

/-- SCLZ (R164). -/
def execSclz (sd sa : Nat) (h : Option Nat) (s : State) : Out :=
  scalarUn clzS sd sa (words1 h false) s

/-- SCTZ (R164). -/
def execSctz (sd sa : Nat) (h : Option Nat) (s : State) : Out :=
  scalarUn ctzS sd sa (words1 h false) s

/-- SPOP (R164). -/
def execSpop (sd sa : Nat) (h : Option Nat) (s : State) : Out :=
  scalarUn popS sd sa (words1 h false) s

/-- SBREV (R164). -/
def execSbrev (sd sa : Nat) (h : Option Nat) (s : State) : Out :=
  scalarUn brevS sd sa (words1 h false) s

/-! ## The forms of major 0x19 -/

/-- SADD with IMM6 or the literal (R164). -/
def execSaddImm (sd sa : Nat) (b : Off) (h : Option Nat) (s : State) : Out :=
  scalarOp addS sd sa (offWord b) (words1 h (offIsLit b)) s

/-- SSUB with IMM6 or the literal (R164). -/
def execSsubImm (sd sa : Nat) (b : Off) (h : Option Nat) (s : State) : Out :=
  scalarOp subS sd sa (offWord b) (words1 h (offIsLit b)) s

/-- SMUL with IMM6 or the literal (R164). -/
def execSmulImm (sd sa : Nat) (b : Off) (h : Option Nat) (s : State) : Out :=
  scalarOp mulS sd sa (offWord b) (words1 h (offIsLit b)) s

/-- SMULH with IMM6 or the literal (R164). -/
def execSmulhImm (sd sa : Nat) (b : Off) (h : Option Nat) (s : State) : Out :=
  scalarOp mulhS sd sa (offWord b) (words1 h (offIsLit b)) s

/-- SDIV with IMM6 or the literal (R165). -/
def execSdivImm (sd sa : Nat) (b : Off) (h : Option Nat) (s : State) : Out :=
  scalarOp divS sd sa (offWord b) (words1 h (offIsLit b)) s

/-- SDIVU with IMM6 or the literal (R165). -/
def execSdivuImm (sd sa : Nat) (b : Off) (h : Option Nat) (s : State) : Out :=
  scalarOp divuS sd sa (offWord b) (words1 h (offIsLit b)) s

/-- SREM with IMM6 or the literal (R165). -/
def execSremImm (sd sa : Nat) (b : Off) (h : Option Nat) (s : State) : Out :=
  scalarOp remS sd sa (offWord b) (words1 h (offIsLit b)) s

/-- SREMU with IMM6 or the literal (R165). -/
def execSremuImm (sd sa : Nat) (b : Off) (h : Option Nat) (s : State) : Out :=
  scalarOp remuS sd sa (offWord b) (words1 h (offIsLit b)) s

/-- SAND with IMM6 or the literal (R164). -/
def execSandImm (sd sa : Nat) (b : Off) (h : Option Nat) (s : State) : Out :=
  scalarOp andS sd sa (offWord b) (words1 h (offIsLit b)) s

/-- SOR with IMM6 or the literal (R164). -/
def execSorImm (sd sa : Nat) (b : Off) (h : Option Nat) (s : State) : Out :=
  scalarOp orS sd sa (offWord b) (words1 h (offIsLit b)) s

/-- SXOR with IMM6 or the literal (R164). -/
def execSxorImm (sd sa : Nat) (b : Off) (h : Option Nat) (s : State) : Out :=
  scalarOp xorS sd sa (offWord b) (words1 h (offIsLit b)) s

/-- SANDN with IMM6 or the literal (R164). -/
def execSandnImm (sd sa : Nat) (b : Off) (h : Option Nat) (s : State) : Out :=
  scalarOp andnS sd sa (offWord b) (words1 h (offIsLit b)) s

/-- SSHL with IMM6 or the literal (R164). -/
def execSshlImm (sd sa : Nat) (b : Off) (h : Option Nat) (s : State) : Out :=
  scalarOp shlS sd sa (offWord b) (words1 h (offIsLit b)) s

/-- SSHR with IMM6 or the literal (R164). -/
def execSshrImm (sd sa : Nat) (b : Off) (h : Option Nat) (s : State) : Out :=
  scalarOp shrS sd sa (offWord b) (words1 h (offIsLit b)) s

/-- SSRA with IMM6 or the literal (R164). -/
def execSsraImm (sd sa : Nat) (b : Off) (h : Option Nat) (s : State) : Out :=
  scalarOp sraS sd sa (offWord b) (words1 h (offIsLit b)) s

/-- SROT with IMM6 or the literal (R164). -/
def execSrotImm (sd sa : Nat) (b : Off) (h : Option Nat) (s : State) : Out :=
  scalarOp rotS sd sa (offWord b) (words1 h (offIsLit b)) s

/-- SMIN with IMM6 or the literal (R164). -/
def execSminImm (sd sa : Nat) (b : Off) (h : Option Nat) (s : State) : Out :=
  scalarOp minS sd sa (offWord b) (words1 h (offIsLit b)) s

/-- SMAX with IMM6 or the literal (R164). -/
def execSmaxImm (sd sa : Nat) (b : Off) (h : Option Nat) (s : State) : Out :=
  scalarOp maxS sd sa (offWord b) (words1 h (offIsLit b)) s

/-- SMINU with IMM6 or the literal (R164). -/
def execSminuImm (sd sa : Nat) (b : Off) (h : Option Nat) (s : State) : Out :=
  scalarOp minuS sd sa (offWord b) (words1 h (offIsLit b)) s

/-- SMAXU with IMM6 or the literal (R164). -/
def execSmaxuImm (sd sa : Nat) (b : Off) (h : Option Nat) (s : State) : Out :=
  scalarOp maxuS sd sa (offWord b) (words1 h (offIsLit b)) s

/-- SMOV with IMM6 or the literal (R164). -/
def execSmovImm (sd : Nat) (b : Off) (h : Option Nat) (s : State) : Out :=
  .next ((s.putS sd (offWord b)).advance (words1 h (offIsLit b)))

/-- SSEQ with IMM6 or the literal (R164). -/
def execSseqImm (sd sa : Nat) (b : Off) (h : Option Nat) (s : State) : Out :=
  scalarOp seqS sd sa (offWord b) (words1 h (offIsLit b)) s

/-- SSLT with IMM6 or the literal (R164). -/
def execSsltImm (sd sa : Nat) (b : Off) (h : Option Nat) (s : State) : Out :=
  scalarOp sltS sd sa (offWord b) (words1 h (offIsLit b)) s

/-- SSLTU with IMM6 or the literal (R164). -/
def execSsltuImm (sd sa : Nat) (b : Off) (h : Option Nat) (s : State) : Out :=
  scalarOp sltuS sd sa (offWord b) (words1 h (offIsLit b)) s

/-- SBFX with IMM6 or the literal (R166). -/
def execSbfxImm (sd sa : Nat) (b : Off) (h : Option Nat) (s : State) : Out :=
  scalarOp bfxS sd sa (offWord b) (words1 h (offIsLit b)) s

/-- SBFI with IMM6 or the literal (R166). -/
def execSbfiImm (sd sa : Nat) (b : Off) (h : Option Nat) (s : State) : Out :=
  scalarOp (bfiS (s.grp.readS sd)) sd sa (offWord b) (words1 h (offIsLit b)) s

end Sys2Proof.Machine
end

