-- ==== Sys2Proof/Machine/Sync.lean ====
section
/-!
DEFINITION. Windows (R202), WAITC (R214), barrier operations (R215 to R218) and FENCE (R219, R280, R283), majors 0x61 and
0x68 to 0x6A.
-/

namespace Sys2Proof.Machine

/-! ## Windows (R202) -/

/-- The access kind that a permission stands for. -/
def permAccess : Perm → Access
  | .r => .read
  | .w => .write
  | .rw => .both

/-- WBIND (R202). -/
def execWbind (w : Nat) (perm : Perm) (sa : Nat) (lim : RegLit) (h : Option Nat) (s : State) : Out :=
  let g := s.grp
  let b := (g.readS sa).toNat
  let f := fun c => s.trapEntry c ⟨c - 0x30, accCode (permAccess perm), 1, b % 2 ^ 52⟩
  .next (
    if 2 ^ 52 ≤ b then f 0x33
    else
      match s.xlate (quarterOf s.cur.gid) g.ctx b (permAccess perm) s.spl.sup g.groupHorizon with
      | .hold => s.stand
      | .fault c => f c
      | .ok pa e =>
        let s1 := s.cache (quarterOf s.cur.gid) e
        let x : Window :=
          { valid := true, base := b, perm := perm, frame := pa,
            flim := Nat.min (g.regLit lim).toNat (e.va + e.size - b), sup := e.sup }
        (s1.setGrp (s1.grp.setWindow w x)).advance (words1 h (regIsLit lim)))

/-- WINV (R202). -/
def execWinv (w : Nat) (h : Option Nat) (s : State) : Out :=
  .next ((s.setGrp (s.grp.setWindow w { (s.grp.window w) with valid := false })).advance (words1 h false))

/-! ## WAITC (R214) -/

/-- WAITC (R214, R260): a flashback point; a return at once, or a wait. -/
def execWaitc (cls : Cls) (n : Nat) (h : Option Nat) (s : State) : Out :=
  let next := s.pcPlus (words1 h false)
  .next (s.atPoint fun s =>
    if s.grp.counter cls ≤ n then s.finishCounter s.cur.gid s.cur.entry cls next
    else s.setGrp (s.grp.setSplit s.cur.entry { s.spl with state := .waiting, wait := .counter cls n next }))

/-! ## Barriers (R215, R216) -/

/-- The barrier an instruction of the issuing group names. -/
def State.bar (s : State) (b : Nat) : Barrier := (s.gang s.grp.gang).bar b

/-- BINIT (R215): no Check. -/
def execBinit (bar : Nat) (n : RegLit) (h : Option Nat) (s : State) : Out :=
  let k := (s.grp.regLit n).toNat % 2 ^ 16
  let x := { (s.bar bar) with exparr := k, arrived := 0, landed := 0, expb := 0, status := 0 }
  let s1 := s.setGang s.grp.gang ((s.gang s.grp.gang).setBar bar x)
  .next ((s1.setGrp s1.grp.irrevocable).advance (words1 h (regIsLit n)))

/-- EXPECT (R215). -/
def execExpect (bar : Nat) (n : RegLit) (h : Option Nat) (s : State) : Out :=
  let k := (s.grp.regLit n).toNat % 2 ^ 40
  let x := { (s.bar bar) with expb := ((s.bar bar).expb + k) % 2 ^ 40 }
  let s1 := (s.setGrp s.grp.irrevocable).advance (words1 h (regIsLit n))
  .next (s1.checkBarrier s.grp.gang bar x)

/-- ARRIVE (R215, R218, R284): sd takes the generation; a release joins the horizons, which the phase takes over. -/
def execArrive (sd bar : Nat) (rel crit : Bool) (h : Option Nat) (s : State) : Out :=
  .next (
    if !s.accessReady true || (rel && !s.orderReady .gang true) then s.stand
    else
      let g := s.grp
      let b := s.bar bar
      let g1 := ((g.writeS sd (BitVec.ofNat 64 b.gen)).noteWrite (.s sd)).irrevocable
      let g2 := if rel then g1.joinHorizons.critStep s.clock .rel crit else g1
      let x := { b with arrived := (b.arrived + 1) % 2 ^ 16,
                        gathered := if rel then Stamp.max b.gathered g2.groupHorizon else b.gathered }
      ((s.setGrp g2).advance (words1 h false)).checkBarrier g.gang bar x)

/-- WAITB (R216, R218): a flashback point; a return at once, or a wait. An acquire is held until older engine reads have
landed (R280). -/
def execWaitb (sd bar : Nat) (acq crit : Bool) (h : Option Nat) (s : State) : Out :=
  let next := s.pcPlus (words1 h false)
  .next (
    if acq && !s.orderReady .gang false then s.stand
    else s.atPoint fun s =>
      let gen := (s.grp.readS sd).toNat % 2 ^ 32
      if (s.bar bar).gen ≠ gen then s.finishBarrier s.cur.gid s.cur.entry bar gen sd acq crit next
      else
        s.setGrp (s.grp.setSplit s.cur.entry
          { s.spl with state := .waiting, wait := .barrier bar gen sd acq crit next }))

/-- TESTB (R215). -/
def execTestb (sd bar : Nat) (h : Option Nat) (s : State) : Out :=
  let b := s.bar bar
  .next ((s.putS sd (BitVec.ofNat 64 (b.status.toNat * 2 ^ 32 + b.gen % 2 ^ 32))).advance (words1 h false))

/-! ## FENCE (R219) -/

/-- FENCE (R219, R280, R283, R287): it issues at once, and holds younger memory instructions until what it orders has been
performed (log 22). -/
def execFence (sc : Scope) (ord : MemOrd) (h : Option Nat) (s : State) : Out :=
  .next (((s.setGrp { s.grp with fences := s.grp.fences ++ [⟨sc, ord, s.em, s.nextOp⟩] }).advance (words1 h false)).tryFences
    s.cur.gid)

end Sys2Proof.Machine
end

