-- ==== Sys2Proof/Machine/Tangent.lean ====
section
/-!
DEFINITION. Compare, major 0x11 (R176), and the tangent forms, major 0x39 (R177, R178).
-/

namespace Sys2Proof.Machine

/-- The floating result of a condition (R176). -/
def condF (c : Cond) (x y : XVal) : Bool :=
  match c with
  | .eq => XVal.eq x y
  | .ne => !XVal.eq x y
  | .lt => XVal.lt x y
  | .le => XVal.le x y
  | .gt => XVal.lt y x
  | .ge => XVal.le y x
  | .ord => !(x.isNaN || y.isNaN)
  | .uno => x.isNaN || y.isNaN

/-- The integer result of a condition (R176); ORD and UNO have none and no encoding. -/
def condI (c : Cond) (x y : Int) : Bool :=
  match c with
  | .eq => decide (x = y)
  | .ne => decide (x ≠ y)
  | .lt => decide (x < y)
  | .le => decide (x ≤ y)
  | .gt => decide (y < x)
  | .ge => decide (y ≤ x)
  | .ord => true
  | .uno => false

/-- The result of a condition on two patterns of the type. -/
def condOf (c : Cond) (ty : Ty) (x y : Nat) : Bool :=
  if ty.isFloat then condF c ((fmtOf ty).value x) ((fmtOf ty).value y) else condI c (intVal ty x) (intVal ty y)

/-- VCMP: the bits of md in the lanes of em; EDGE on a floating type (R90, R176). -/
def execVcmp (c : Cond) (md va : Nat) (b : VOp) (ty : Ty) (_ : Nat) (s : State) : Out :=
  let srcs := regsOf ty va ++ vopRegs ty b
  s.guardRegs srcs fun s =>
    let g := s.grp
    let res := maskOf fun l =>
      if s.em.getLsbD l then condOf c ty (g.elem ty va l) (g.opB ty b l) else (g.readM md).getLsbD l
    let g1 := g.eachLane s.em fun g l acc => acc.edgeIf (ty.isFloat && g.anyTan srcs l) l
    let g2 := if s.em = 0 then g1 else (g1.writeM md res).noteWrite (.m md)
    (s.setGrp g2).advance 3

/-! ## Tangent forms -/

/-- A tangent form: slots below D and registers below C, or detail 6 (R52, R177). -/
def tanForm (slots regs dests : List Nat) (f : Group → Nat → Group → Group) (s : State) : Out :=
  .next (if s.slotsOk slots && s.fits regs then s.laneOp 3 dests f else s.illegal 6)

/-- The register that a write of tangents alone changes: none outside the dual range (R178). -/
def Group.dualOnly (g : Group) (r : Nat) : List Nat := if g.dual r then [r] else []

/-- Write one slot; outside the dual range the tangent is discarded, which sets TLOST when it is not exactly zero (R178). -/
def Group.putSlot (g : Group) (r d l : Nat) (t : Word32) : Group :=
  if g.dual r then g.writeT r d l t else g.tlostIf (!tanZero g.decl.bf16 t) l

/-- TSEED (R177). -/
def execTseed (vd k : Nat) (b : VOp) (_ : Nat) (s : State) : Out :=
  tanForm [k] (vd :: vopRegs .f32 b) (s.grp.dualOnly vd)
    (fun g l acc => (acc.zeroTan [vd] l).putSlot vd k l (g.roundT (Fmt.f32.value (g.opB .f32 b l)))) s

/-- TZERO of one slot or of all; with D = 0 every tangent form traps (R177). -/
def execTzero (vd : Nat) (slot : Option Nat) (_ : Nat) (s : State) : Out :=
  tanForm [slot.getD 0] [vd] (s.grp.dualOnly vd)
    (fun _ l acc => match slot with
      | some k => acc.writeT vd k l 0
      | none => acc.zeroTan [vd] l) s

/-- A tangent as FP32 bits (R177): widened exactly from BF16, a conversion, whose NaN is the canonical one (R59). -/
def Group.tanF32 (g : Group) (t : Word32) : Word32 :=
  if g.decl.bf16 then BitVec.ofNat 32 (roundTo Fmt.f32 .rne (Fmt.bf16.value t.toNat)) else t

/-- TGET (R177, R178). -/
def execTget (vd va k : Nat) (_ : Nat) (s : State) : Out :=
  tanForm [k] [vd, va] [vd] (fun g l acc => (acc.writeV vd l (g.tanF32 (g.readT va k l))).zeroTan [vd] l) s

/-- TSET (R177). -/
def execTset (vd k : Nat) (b : VOp) (_ : Nat) (s : State) : Out :=
  tanForm [k] (vd :: vopRegs .f32 b) (s.grp.dualOnly vd)
    (fun g l acc => acc.putSlot vd k l (g.roundT (Fmt.f32.value (g.opB .f32 b l)))) s

/-- TMOV, bit for bit (R177). -/
def execTmov (vd j va k : Nat) (_ : Nat) (s : State) : Out :=
  tanForm [j, k] [vd, va] (s.grp.dualOnly vd) (fun g l acc => acc.putSlot vd j l (g.readT va k l)) s

end Sys2Proof.Machine
end

