-- ==== Sys2Proof/Machine/Dispatch.lean ====
section
/-!
DEFINITION. One arm per constructor of Instr: a direct call of its meaning.
-/

namespace Sys2Proof.Machine

/-- What an instruction issued by the split at cur, or an event, does to the state. -/
def exec (i : Instr) (s : State) : Host.Outcome State Fault Refusal :=
  match i with
  | .join tok h => Sys2Proof.Machine.execJoin tok h s
  | .ret sa h => Sys2Proof.Machine.execRet sa h s
  | .exit h => Sys2Proof.Machine.execExit h s
  | .tret h => Sys2Proof.Machine.execTret h s
  | .yield h => Sys2Proof.Machine.execYield h s
  | .sleep c h => Sys2Proof.Machine.execSleep c h s
  | .bri sa h => Sys2Proof.Machine.execBri sa h s
  | .calli sa va tok h => Sys2Proof.Machine.execCalli sa va tok h s
  | .briv sa va tok h => Sys2Proof.Machine.execBriv sa va tok h s
  | .br t h => Sys2Proof.Machine.execBr t h s
  | .call t h => Sys2Proof.Machine.execCall t h s
  | .bz sa t h => Sys2Proof.Machine.execBz sa t h s
  | .bnz sa t h => Sys2Proof.Machine.execBnz sa t h s
  | .bltz sa t h => Sys2Proof.Machine.execBltz sa t h s
  | .bgez sa t h => Sys2Proof.Machine.execBgez sa t h s
  | .bgtz sa t h => Sys2Proof.Machine.execBgtz sa t h s
  | .blez sa t h => Sys2Proof.Machine.execBlez sa t h s
  | .brv m t tok h => Sys2Proof.Machine.execBrv m t tok h s
  | .brk m t tok h => Sys2Proof.Machine.execBrk m t tok h s
  | .ball m t h => Sys2Proof.Machine.execBall m t h s
  | .bnone m t h => Sys2Proof.Machine.execBnone m t h s
  | .srd vx reg sys h => Sys2Proof.Machine.execSrd vx reg sys h s
  | .swr vx reg sys h => Sys2Proof.Machine.execSwr vx reg sys h s
  | .trap code h => Sys2Proof.Machine.execTrap code h s
  | .spawn sd va entry h => Sys2Proof.Machine.execSpawn sd va entry h s
  | .mmov md ma h => Sys2Proof.Machine.execMmov md ma h s
  | .mand md ma mb h => Sys2Proof.Machine.execMand md ma mb h s
  | .mor md ma mb h => Sys2Proof.Machine.execMor md ma mb h s
  | .mxor md ma mb h => Sys2Proof.Machine.execMxor md ma mb h s
  | .mandn md ma mb h => Sys2Proof.Machine.execMandn md ma mb h s
  | .mnot md ma h => Sys2Proof.Machine.execMnot md ma h s
  | .mset md b h => Sys2Proof.Machine.execMset md b h s
  | .mpop sd ma h => Sys2Proof.Machine.execMpop sd ma h s
  | .mfirst sd ma h => Sys2Proof.Machine.execMfirst sd ma h s
  | .ballot sd ma h => Sys2Proof.Machine.execBallot sd ma h s
  | .vany sd ma h => Sys2Proof.Machine.execVany sd ma h s
  | .vall sd ma h => Sys2Proof.Machine.execVall sd ma h s
  | .msave sd ma h => Sys2Proof.Machine.execMsave sd ma h s
  | .mrestore md sa h => Sys2Proof.Machine.execMrestore md sa h s
  | .sadd sd sa sb h => Sys2Proof.Machine.execSadd sd sa sb h s
  | .ssub sd sa sb h => Sys2Proof.Machine.execSsub sd sa sb h s
  | .smul sd sa sb h => Sys2Proof.Machine.execSmul sd sa sb h s
  | .smulh sd sa sb h => Sys2Proof.Machine.execSmulh sd sa sb h s
  | .sdiv sd sa sb h => Sys2Proof.Machine.execSdiv sd sa sb h s
  | .sdivu sd sa sb h => Sys2Proof.Machine.execSdivu sd sa sb h s
  | .srem sd sa sb h => Sys2Proof.Machine.execSrem sd sa sb h s
  | .sremu sd sa sb h => Sys2Proof.Machine.execSremu sd sa sb h s
  | .sand sd sa sb h => Sys2Proof.Machine.execSand sd sa sb h s
  | .sor sd sa sb h => Sys2Proof.Machine.execSor sd sa sb h s
  | .sxor sd sa sb h => Sys2Proof.Machine.execSxor sd sa sb h s
  | .sandn sd sa sb h => Sys2Proof.Machine.execSandn sd sa sb h s
  | .sshl sd sa sb h => Sys2Proof.Machine.execSshl sd sa sb h s
  | .sshr sd sa sb h => Sys2Proof.Machine.execSshr sd sa sb h s
  | .ssra sd sa sb h => Sys2Proof.Machine.execSsra sd sa sb h s
  | .srot sd sa sb h => Sys2Proof.Machine.execSrot sd sa sb h s
  | .smin sd sa sb h => Sys2Proof.Machine.execSmin sd sa sb h s
  | .smax sd sa sb h => Sys2Proof.Machine.execSmax sd sa sb h s
  | .sminu sd sa sb h => Sys2Proof.Machine.execSminu sd sa sb h s
  | .smaxu sd sa sb h => Sys2Proof.Machine.execSmaxu sd sa sb h s
  | .smov sd sb h => Sys2Proof.Machine.execSmov sd sb h s
  | .sseq sd sa sb h => Sys2Proof.Machine.execSseq sd sa sb h s
  | .sslt sd sa sb h => Sys2Proof.Machine.execSslt sd sa sb h s
  | .ssltu sd sa sb h => Sys2Proof.Machine.execSsltu sd sa sb h s
  | .sbfx sd sa sb h => Sys2Proof.Machine.execSbfx sd sa sb h s
  | .sbfi sd sa sb h => Sys2Proof.Machine.execSbfi sd sa sb h s
  | .sclz sd sa h => Sys2Proof.Machine.execSclz sd sa h s
  | .sctz sd sa h => Sys2Proof.Machine.execSctz sd sa h s
  | .spop sd sa h => Sys2Proof.Machine.execSpop sd sa h s
  | .sbrev sd sa h => Sys2Proof.Machine.execSbrev sd sa h s
  | .saddImm sd sa b h => Sys2Proof.Machine.execSaddImm sd sa b h s
  | .ssubImm sd sa b h => Sys2Proof.Machine.execSsubImm sd sa b h s
  | .smulImm sd sa b h => Sys2Proof.Machine.execSmulImm sd sa b h s
  | .smulhImm sd sa b h => Sys2Proof.Machine.execSmulhImm sd sa b h s
  | .sdivImm sd sa b h => Sys2Proof.Machine.execSdivImm sd sa b h s
  | .sdivuImm sd sa b h => Sys2Proof.Machine.execSdivuImm sd sa b h s
  | .sremImm sd sa b h => Sys2Proof.Machine.execSremImm sd sa b h s
  | .sremuImm sd sa b h => Sys2Proof.Machine.execSremuImm sd sa b h s
  | .sandImm sd sa b h => Sys2Proof.Machine.execSandImm sd sa b h s
  | .sorImm sd sa b h => Sys2Proof.Machine.execSorImm sd sa b h s
  | .sxorImm sd sa b h => Sys2Proof.Machine.execSxorImm sd sa b h s
  | .sandnImm sd sa b h => Sys2Proof.Machine.execSandnImm sd sa b h s
  | .sshlImm sd sa b h => Sys2Proof.Machine.execSshlImm sd sa b h s
  | .sshrImm sd sa b h => Sys2Proof.Machine.execSshrImm sd sa b h s
  | .ssraImm sd sa b h => Sys2Proof.Machine.execSsraImm sd sa b h s
  | .srotImm sd sa b h => Sys2Proof.Machine.execSrotImm sd sa b h s
  | .sminImm sd sa b h => Sys2Proof.Machine.execSminImm sd sa b h s
  | .smaxImm sd sa b h => Sys2Proof.Machine.execSmaxImm sd sa b h s
  | .sminuImm sd sa b h => Sys2Proof.Machine.execSminuImm sd sa b h s
  | .smaxuImm sd sa b h => Sys2Proof.Machine.execSmaxuImm sd sa b h s
  | .smovImm sd b h => Sys2Proof.Machine.execSmovImm sd b h s
  | .sseqImm sd sa b h => Sys2Proof.Machine.execSseqImm sd sa b h s
  | .ssltImm sd sa b h => Sys2Proof.Machine.execSsltImm sd sa b h s
  | .ssltuImm sd sa b h => Sys2Proof.Machine.execSsltuImm sd sa b h s
  | .sbfxImm sd sa b h => Sys2Proof.Machine.execSbfxImm sd sa b h s
  | .sbfiImm sd sa b h => Sys2Proof.Machine.execSbfiImm sd sa b h s
  | .vcmp cond md va b ty h => Sys2Proof.Machine.execVcmp cond md va b ty h s
  | .vshfl vd va b ty h => Sys2Proof.Machine.execVshfl vd va b ty h s
  | .vshup vd va b ty h => Sys2Proof.Machine.execVshup vd va b ty h s
  | .vshdn vd va b ty h => Sys2Proof.Machine.execVshdn vd va b ty h s
  | .vshxor vd va b ty h => Sys2Proof.Machine.execVshxor vd va b ty h s
  | .vbcast vd va b ty h => Sys2Proof.Machine.execVbcast vd va b ty h s
  | .vgred vd va op ty h => Sys2Proof.Machine.execVgred vd va op ty h s
  | .vscan vd va op ty h => Sys2Proof.Machine.execVscan vd va op ty h s
  | .vaddInt vd va b ty h => Sys2Proof.Machine.execVaddInt vd va b ty h s
  | .vsubInt vd va b ty h => Sys2Proof.Machine.execVsubInt vd va b ty h s
  | .vmulInt vd va b ty h => Sys2Proof.Machine.execVmulInt vd va b ty h s
  | .vmulh vd va b ty h => Sys2Proof.Machine.execVmulh vd va b ty h s
  | .vmad vd va b vc ty h => Sys2Proof.Machine.execVmad vd va b vc ty h s
  | .vabsd vd va b ty h => Sys2Proof.Machine.execVabsd vd va b ty h s
  | .vadds vd va b ty h => Sys2Proof.Machine.execVadds vd va b ty h s
  | .vsubs vd va b ty h => Sys2Proof.Machine.execVsubs vd va b ty h s
  | .vminInt vd va b ty h => Sys2Proof.Machine.execVminInt vd va b ty h s
  | .vmaxInt vd va b ty h => Sys2Proof.Machine.execVmaxInt vd va b ty h s
  | .vand vd va b ty h => Sys2Proof.Machine.execVand vd va b ty h s
  | .vor vd va b ty h => Sys2Proof.Machine.execVor vd va b ty h s
  | .vxor vd va b ty h => Sys2Proof.Machine.execVxor vd va b ty h s
  | .vandn vd va b ty h => Sys2Proof.Machine.execVandn vd va b ty h s
  | .vnot vd va ty h => Sys2Proof.Machine.execVnot vd va ty h s
  | .vshl vd va b ty h => Sys2Proof.Machine.execVshl vd va b ty h s
  | .vshr vd va b ty h => Sys2Proof.Machine.execVshr vd va b ty h s
  | .vsra vd va b ty h => Sys2Proof.Machine.execVsra vd va b ty h s
  | .vrot vd va b ty h => Sys2Proof.Machine.execVrot vd va b ty h s
  | .vbfx vd va b ty h => Sys2Proof.Machine.execVbfx vd va b ty h s
  | .vbfi vd va b vc h => Sys2Proof.Machine.execVbfi vd va b vc h s
  | .vclz vd va h => Sys2Proof.Machine.execVclz vd va h s
  | .vpop vd va h => Sys2Proof.Machine.execVpop vd va h s
  | .vbrev vd va h => Sys2Proof.Machine.execVbrev vd va h s
  | .vsel vd va b mc ty h => Sys2Proof.Machine.execVsel vd va b mc ty h s
  | .vmov vd b ty h => Sys2Proof.Machine.execVmov vd b ty h s
  | .vprmt vd va b vc h => Sys2Proof.Machine.execVprmt vd va b vc h s
  | .vaddFp vd va b ty rm h => Sys2Proof.Machine.execVaddFp vd va b ty rm h s
  | .vsubFp vd va b ty rm h => Sys2Proof.Machine.execVsubFp vd va b ty rm h s
  | .vmulFp vd va b ty rm h => Sys2Proof.Machine.execVmulFp vd va b ty rm h s
  | .vfma vd va b vc ty rm h => Sys2Proof.Machine.execVfma vd va b vc ty rm h s
  | .vfms vd va b vc ty rm h => Sys2Proof.Machine.execVfms vd va b vc ty rm h s
  | .vfnma vd va b vc ty rm h => Sys2Proof.Machine.execVfnma vd va b vc ty rm h s
  | .vminFp vd va b ty h => Sys2Proof.Machine.execVminFp vd va b ty h s
  | .vmaxFp vd va b ty h => Sys2Proof.Machine.execVmaxFp vd va b ty h s
  | .vabs vd va ty h => Sys2Proof.Machine.execVabs vd va ty h s
  | .vneg vd va ty h => Sys2Proof.Machine.execVneg vd va ty h s
  | .vcpysgn vd va b ty h => Sys2Proof.Machine.execVcpysgn vd va b ty h s
  | .vrcp vd va ty rm h => Sys2Proof.Machine.execVrcp vd va ty rm h s
  | .vrsq vd va ty rm h => Sys2Proof.Machine.execVrsq vd va ty rm h s
  | .vsqrt vd va ty rm h => Sys2Proof.Machine.execVsqrt vd va ty rm h s
  | .vexp2 vd va ty h => Sys2Proof.Machine.execVexp2 vd va ty h s
  | .vlog2 vd va ty h => Sys2Proof.Machine.execVlog2 vd va ty h s
  | .vsin vd va ty h => Sys2Proof.Machine.execVsin vd va ty h s
  | .vcos vd va ty h => Sys2Proof.Machine.execVcos vd va ty h s
  | .vfloor vd va ty h => Sys2Proof.Machine.execVfloor vd va ty h s
  | .vceil vd va ty h => Sys2Proof.Machine.execVceil vd va ty h s
  | .vtrunc vd va ty h => Sys2Proof.Machine.execVtrunc vd va ty h s
  | .vround vd va ty rm h => Sys2Proof.Machine.execVround vd va ty rm h s
  | .vfract vd va ty h => Sys2Proof.Machine.execVfract vd va ty h s
  | .vclass vd va ty h => Sys2Proof.Machine.execVclass vd va ty h s
  | .tseed vd k b h => Sys2Proof.Machine.execTseed vd k b h s
  | .tzero vd slot h => Sys2Proof.Machine.execTzero vd slot h s
  | .tget vd va k h => Sys2Proof.Machine.execTget vd va k h s
  | .tset vd k b h => Sys2Proof.Machine.execTset vd k b h s
  | .tmov vd j va k h => Sys2Proof.Machine.execTmov vd j va k h s
  | .vcvt vd va ty ts rm h => Sys2Proof.Machine.execVcvt vd va ty ts rm h s
  | .vcvtsr vd va b n ty h => Sys2Proof.Machine.execVcvtsr vd va b n ty h s
  | .vrand vd va h => Sys2Proof.Machine.execVrand vd va h s
  | .vrseed vd va h => Sys2Proof.Machine.execVrseed vd va h s
  | .vpack vd va b ty ts hi rm h => Sys2Proof.Machine.execVpack vd va b ty ts hi rm h s
  | .vunpk vd va k ty ts h => Sys2Proof.Machine.execVunpk vd va k ty ts h s
  | .ld vd a ty du o h => Sys2Proof.Machine.execLd vd a ty du o h s
  | .st vd a ty du o h => Sys2Proof.Machine.execSt vd a ty du o h s
  | .ldt vd a ty du n h => Sys2Proof.Machine.execLdt vd a ty du n h s
  | .stt vd a ty du n h => Sys2Proof.Machine.execStt vd a ty du n h s
  | .ldw vd a ty h => Sys2Proof.Machine.execLdw vd a ty h s
  | .sld sd a ty o h => Sys2Proof.Machine.execSld sd a ty o h s
  | .sst sd a ty o h => Sys2Proof.Machine.execSst sd a ty o h s
  | .atom vd a vc op ty o h => Sys2Proof.Machine.execAtom vd a vc op ty o h s
  | .acas vd a vc ty o h => Sys2Proof.Machine.execAcas vd a vc ty o h s
  | .cpy sa bk h => Sys2Proof.Machine.execCpy sa bk h s
  | .gath vd va w off ty h => Sys2Proof.Machine.execGath vd va w off ty h s
  | .scat vd va w off ty h => Sys2Proof.Machine.execScat vd va w off ty h s
  | .pld vd va w off ty h => Sys2Proof.Machine.execPld vd va w off ty h s
  | .pst vd va w off ty h => Sys2Proof.Machine.execPst vd va w off ty h s
  | .red vd va w off op ty ord crit h => Sys2Proof.Machine.execRed vd va w off op ty ord crit h s
  | .amg vd va w off op ty ord crit h => Sys2Proof.Machine.execAmg vd va w off op ty ord crit h s
  | .tex vd va sa l0 h => Sys2Proof.Machine.execTex vd va sa l0 h s
  | .texg vd va sa l0 h => Sys2Proof.Machine.execTexg vd va sa l0 h s
  | .isect vd va sa bk h => Sys2Proof.Machine.execIsect vd va sa bk h s
  | .visq vd va sa bk h => Sys2Proof.Machine.execVisq vd va sa bk h s
  | .coll kind op ty sa bar group h => Sys2Proof.Machine.execColl kind op ty sa bar group h s
  | .wbind w perm sa lim h => Sys2Proof.Machine.execWbind w perm sa lim h s
  | .winv w h => Sys2Proof.Machine.execWinv w h s
  | .waitc cls n h => Sys2Proof.Machine.execWaitc cls n h s
  | .binit bar n h => Sys2Proof.Machine.execBinit bar n h s
  | .expect bar n h => Sys2Proof.Machine.execExpect bar n h s
  | .arrive sd bar rel crit h => Sys2Proof.Machine.execArrive sd bar rel crit h s
  | .waitb sd bar acq crit h => Sys2Proof.Machine.execWaitb sd bar acq crit h s
  | .testb sd bar h => Sys2Proof.Machine.execTestb sd bar h s
  | .fence sc ord h => Sys2Proof.Machine.execFence sc ord h s
  | .mstat ws src sc bk ty off h => Sys2Proof.Machine.execMstat ws src sc bk ty off h s
  | .mloop t back sa sb sc bk ty h => Sys2Proof.Machine.execMloop t back sa sb sc bk ty h s
  | .mzero t first count bk h => Sys2Proof.Machine.execMzero t first count bk h s
  | .mdrain t win sa sb add bk ty off h => Sys2Proof.Machine.execMdrain t win sa sb add bk ty off h s
  | .mbind t first count h => Sys2Proof.Machine.execMbind t first count h s
  | .mfree t h => Sys2Proof.Machine.execMfree t h s
  | .mrinit ring k h => Sys2Proof.Machine.execMrinit ring k h s
  | .mrpush ring sa sb h => Sys2Proof.Machine.execMrpush ring sa sb h s
  | .mrrel ring sb h => Sys2Proof.Machine.execMrrel ring sb h s
  | .mqsr sd sel h => Sys2Proof.Machine.execMqsr sd sel h s
  | .finit f slot n h => Sys2Proof.Machine.execFinit f slot n h s
  | .fupd f va h => Sys2Proof.Machine.execFupd f va h s
  | .fdown f va h => Sys2Proof.Machine.execFdown f va h s
  | .fsolve f va tr h => Sys2Proof.Machine.execFsolve f va tr h s
  | .flogdet f sd h => Sys2Proof.Machine.execFlogdet f sd h s
  | .fdrain f sa off h => Sys2Proof.Machine.execFdrain f sa off h s
  | .fload f sa off h => Sys2Proof.Machine.execFload f sa off h s
  | .ffree f h => Sys2Proof.Machine.execFfree f h s
  | .nop h => Sys2Proof.Machine.execNop h s
  | .hint h => Sys2Proof.Machine.execHint h s
  | .pref h => Sys2Proof.Machine.execPref h s
  | .illegalInstructionWord detail => Sys2Proof.Machine.execIllegalInstructionWord detail s
  | .accownSwitch gid e => Sys2Proof.Machine.execAccownSwitch gid e s
  | .splitPromotion gid e => Sys2Proof.Machine.execSplitPromotion gid e s
  | .criticalLimitExpiry gid => Sys2Proof.Machine.execCriticalLimitExpiry gid s
  | .sleepExpiry gid e => Sys2Proof.Machine.execSleepExpiry gid e s
  | .refreshWindow die => Sys2Proof.Machine.execRefreshWindow die s
  | .refreshWindowEnd die => Sys2Proof.Machine.execRefreshWindowEnd die s
  | .scratchpadLoadDelivery gid k => Sys2Proof.Machine.execScratchpadLoadDelivery gid k s
  | .engineOperationComplete gid id => Sys2Proof.Machine.execEngineOperationComplete gid id s
  | .barrierLanding gid id n => Sys2Proof.Machine.execBarrierLanding gid id n s
  | .writeApply die k => Sys2Proof.Machine.execWriteApply die k s
  | .matrixOperationExecute q => Sys2Proof.Machine.execMatrixOperationExecute q s
  | .factorOperationExecute q => Sys2Proof.Machine.execFactorOperationExecute q s
  | .powerGrant die => Sys2Proof.Machine.execPowerGrant die s
  | .grantExpiry die k => Sys2Proof.Machine.execGrantExpiry die k s
  | .rayAdmit gid id lane => Sys2Proof.Machine.execRayAdmit gid id lane s
  | .rayComplete gid id lane => Sys2Proof.Machine.execRayComplete gid id lane s
  | .groupRetire gid => Sys2Proof.Machine.execGroupRetire gid s
  | .launch ctx qu => Sys2Proof.Machine.execLaunch ctx qu s
  | .wsload ctx qu => Sys2Proof.Machine.execWsload ctx qu s
  | .wsloadComplete ctx qu => Sys2Proof.Machine.execWsloadComplete ctx qu s
  | .waitev ctx qu => Sys2Proof.Machine.execWaitev ctx qu s
  | .signal ctx qu => Sys2Proof.Machine.execSignal ctx qu s
  | .signalComplete ctx qu => Sys2Proof.Machine.execSignalComplete ctx qu s
  | .queueNop ctx qu => Sys2Proof.Machine.execQueueNop ctx qu s
  | .wptrWrite ctx qu val => Sys2Proof.Machine.execWptrWrite ctx qu val s
  | .rptrRewrite ctx qu val => Sys2Proof.Machine.execRptrRewrite ctx qu val s
  | .gangDispatch grid core places => Sys2Proof.Machine.execGangDispatch grid core places s
  | .stallWindow => Sys2Proof.Machine.execStallWindow s
  | .stallGangSave gang => Sys2Proof.Machine.execStallGangSave gang s
  | .gangRestore gang core places => Sys2Proof.Machine.execGangRestore gang core places s
  | .preemptionRequest ctx => Sys2Proof.Machine.execPreemptionRequest ctx s
  | .drainTimerExpiry gid => Sys2Proof.Machine.execDrainTimerExpiry gid s
  | .quantumExpiry part => Sys2Proof.Machine.execQuantumExpiry part s
  | .contextSave ctx => Sys2Proof.Machine.execContextSave ctx s
  | .contextRestore part places => Sys2Proof.Machine.execContextRestore part places s
  | .forcedReset ctx => Sys2Proof.Machine.execForcedReset ctx s
  | .contextCreate vf ctx => Sys2Proof.Machine.execContextCreate vf ctx s
  | .contextDestroy ctx => Sys2Proof.Machine.execContextDestroy ctx s
  | .contextDescriptorWrite ctx raw => Sys2Proof.Machine.execContextDescriptorWrite ctx raw s
  | .partitionAdd part q => Sys2Proof.Machine.execPartitionAdd part q s
  | .partitionWithdraw part q => Sys2Proof.Machine.execPartitionWithdraw part q s
  | .quarterRelease q => Sys2Proof.Machine.execQuarterRelease q s
  | .bandResume grid span band q places => Sys2Proof.Machine.execBandResume grid span band q places s
  | .vfBind vf part => Sys2Proof.Machine.execVfBind vf part s
  | .vfSuspend vf => Sys2Proof.Machine.execVfSuspend vf s
  | .vfResume vf => Sys2Proof.Machine.execVfResume vf s
  | .guestSwitchStep vf places => Sys2Proof.Machine.execGuestSwitchStep vf places s
  | .translationUpdate ctx raw => Sys2Proof.Machine.execTranslationUpdate ctx raw s
  | .wsmapUpdate ctx raw => Sys2Proof.Machine.execWsmapUpdate ctx raw s
  | .shootDown ctx va len chips => Sys2Proof.Machine.execShootDown ctx va len chips s
  | .shootDownAck id node => Sys2Proof.Machine.execShootDownAck id node s
  | .shootDownTimeout id chip => Sys2Proof.Machine.execShootDownTimeout id chip s
  | .escalationResume gid => Sys2Proof.Machine.execEscalationResume gid s
  | .translationPublish ctx stub work => Sys2Proof.Machine.execTranslationPublish ctx stub work s
  | .heapResume ctx => Sys2Proof.Machine.execHeapResume ctx s
  | .collectiveGroupWrite ctx g ranks rank => Sys2Proof.Machine.execCollectiveGroupWrite ctx g ranks rank s
  | .hostWrite pa bytes => Sys2Proof.Machine.execHostWrite pa bytes s
  | .readRequest port f => Sys2Proof.Machine.execReadRequest port f s
  | .readData port f => Sys2Proof.Machine.execReadData port f s
  | .write port f => Sys2Proof.Machine.execWrite port f s
  | .acknowledgement port f => Sys2Proof.Machine.execAcknowledgement port f s
  | .collective port f => Sys2Proof.Machine.execCollective port f s
  | .shootDownFlit port f => Sys2Proof.Machine.execShootDownFlit port f s
  | .replayRequest port f => Sys2Proof.Machine.execReplayRequest port f s
  | .idleFlit port f => Sys2Proof.Machine.execIdleFlit port f s
  | .linkTraining port => Sys2Proof.Machine.execLinkTraining port s
  | .trainingComplete port lanes peer => Sys2Proof.Machine.execTrainingComplete port lanes peer s
  | .linkTimeout port => Sys2Proof.Machine.execLinkTimeout port s
  | .portReset port => Sys2Proof.Machine.execPortReset port s
  | .headDescriptor head raw => Sys2Proof.Machine.execHeadDescriptor head raw s
  | .frameLatch head => Sys2Proof.Machine.execFrameLatch head s
  | .candidateComplete head band code => Sys2Proof.Machine.execCandidateComplete head band code s
  | .bandDeadline head band => Sys2Proof.Machine.execBandDeadline head band s
  | .frameEnd head => Sys2Proof.Machine.execFrameEnd head s
  | .encoderTileRow head row => Sys2Proof.Machine.execEncoderTileRow head row s
  | .headRebind head part => Sys2Proof.Machine.execHeadRebind head part s
  | .packageReset => Sys2Proof.Machine.execPackageReset s
  | .recoveryImageLoad img => Sys2Proof.Machine.execRecoveryImageLoad img s
  | .deviceReady chip => Sys2Proof.Machine.execDeviceReady chip s
  | .commitImage => Sys2Proof.Machine.execCommitImage s
  | .attestationRequest part nonce => Sys2Proof.Machine.execAttestationRequest part nonce s
  | .violation m => Sys2Proof.Machine.execViolation m s
  | .masterRelease m => Sys2Proof.Machine.execMasterRelease m s
  | .thermalThrottle die temp => Sys2Proof.Machine.execThermalThrottle die temp s
  | .thermalRestore die temp => Sys2Proof.Machine.execThermalRestore die temp s
  | .thermalStop die temp => Sys2Proof.Machine.execThermalStop die temp s
  | .badCrcFlit port f => Sys2Proof.Machine.execBadCrcFlit port f s
  | .stackQuotaAssignment q ctx quota => Sys2Proof.Machine.execStackQuotaAssignment q ctx quota s
  | .arithmeticClockRestart => Sys2Proof.Machine.execArithmeticClockRestart s

end Sys2Proof.Machine
end

