-- ==== Sys2Proof/Machine/Step.lean ====
section
/-!
DEFINITION. The step of the machine: the next turn of the agenda is carried out (log 1).
-/

namespace Sys2Proof.Machine

/-- One step: one turn of the agenda, in which an instruction issues or an event happens. -/
def step (s : State) : Host.Outcome State Fault Refusal := s.nextTurn.2.runTurn exec s.nextTurn.1

/-- The state with an instruction of nbits bits w where the next step fetches; the bits above nbits are zero. -/
def State.withFetchWord (s : State) (nbits w : Nat) : State := s.placeWords (bytesOf 20 (w % 2 ^ nbits))

end Sys2Proof.Machine
end

