-- ==== Sys2Proof/Safety.lean ====
section
/-!
DEFINITION. What counts as a safe run: every step answers a next state, and every memory keeps its canonical form.
-/

namespace Sys2Proof.Machine

/-- The step answers a next state: the machine goes on. -/
def State.goesOn (s : State) : Prop := ∃ t, step s = .next t

/-- HBM as a die sees it, the marks of its bytes and the weight store are in canonical form. -/
def Die.wf (d : Die) : Bool := Memory.wf d.mem && Sparse.wf Mark.clear d.marks && Memory.wf d.ws

/-- The dies, and every memory outside the cores, are in canonical form: equal contents are equal data. -/
def State.memoryWf (s : State) : Bool :=
  Sparse.wf Die.reset s.dies && s.dies.all (fun p => p.2.wf) && Memory.wf s.hostMem && Memory.wf s.peerMem

/-- t is reached from s by n steps, each of which answers a next state. -/
def State.reaches : Nat → State → State → Prop
  | 0, s, t => s = t
  | n + 1, s, t => ∃ u, step s = .next u ∧ State.reaches n u t

end Sys2Proof.Machine
end

