-- ==== Sys2Proof/WellFormed.lean ====
section
/-!
DEFINITION. Well-formed instructions: every operand within the field and the codes that the encoding gives it (R39 to
R49), which is what decoding delivers and what encoding keeps. Operand limits that depend on the group (R52) and the
access of system registers (R50) are checked by the meanings. An event has no encoding and is well formed.
-/

namespace Sys2Proof

open Machine

/-- The hint byte of a one-word format. -/
def hintOk : Option Nat → Bool
  | none => true
  | some h => decide (h < 256)

/-- A signed field of n bits, or a 64-bit literal. -/
def offOk (n : Nat) : Off → Bool
  | .small k => decide (-(2 ^ (n - 1) : Int) ≤ k) && decide (k < 2 ^ (n - 1))
  | .lit x => decide (x < 2 ^ 64)

/-- A scalar register or a 64-bit literal. -/
def regLitOk : RegLit → Bool
  | .reg r => decide (r < 64)
  | .lit x => decide (x < 2 ^ 64)

/-- A literal keeps within n bits. -/
def litBelow (n : Nat) : RegLit → Bool
  | .reg _ => true
  | .lit x => decide (x < 2 ^ n)

/-- Operand b of an element of w bits (R43, R160). -/
def vopOk (w : Nat) : VOp → Bool
  | .vec r => decide (r < 256) && (w != 64 || r % 2 == 0)
  | .scalar r => decide (r < 64) && w != 64
  | .imm x => decide (x < 2 ^ 32) && (decide (32 ≤ w) || decide (x < 2 ^ w))

/-- 64-bit operands name even registers (R63). -/
def evens (ty : Ty) (rs : List Nat) : Bool := ty.width != 64 || rs.all fun r => r % 2 == 0

/-- The address of a format L form (R187). -/
def addrOk (a : Addr) : Bool := (if a.scalar then decide (a.base < 64) else decide (a.base < 256)) && offOk 16 a.off

/-- A signed 32-bit offset. -/
def off32 (k : Int) : Bool := decide (-(2 ^ 31 : Int) ≤ k) && decide (k < 2 ^ 31)

/-- An order the form takes; a plain access has scope code 0 and no CRIT (R194). -/
def syncOk (p : MemOrd → Bool) (o : Sync) : Bool :=
  p o.ord && (o.ord != .plain || (o.scope == .lane && !o.crit))

/-- The source of MSTAT (R229). -/
def statOk : StatSrc → Bool
  | .base sa => decide (sa < 64)
  | .ring r sb => decide (r < 64) && decide (sb < 64)

/-- Is the instruction one that an encoding denotes? -/
def Instr.wf : Instr → Bool
  | .join tok h => decide (tok < 16) && hintOk h
  | .ret sa h => decide (sa < 64) && hintOk h
  | .exit h => hintOk h
  | .tret h => hintOk h
  | .yield h => hintOk h
  | .sleep c h => regLitOk c && hintOk h
  | .bri sa h => decide (sa < 64) && hintOk h
  | .calli sa va tok h => decide (sa < 64) && decide (va < 256) && decide (tok < 16) && hintOk h
  | .briv sa va tok h => decide (sa < 64) && decide (va < 256) && decide (tok < 16) && hintOk h
  | .br t h => offOk 23 t && hintOk h
  | .call t h => offOk 23 t && hintOk h
  | .bz sa t h => decide (sa < 64) && offOk 14 t && hintOk h
  | .bnz sa t h => decide (sa < 64) && offOk 14 t && hintOk h
  | .bltz sa t h => decide (sa < 64) && offOk 14 t && hintOk h
  | .bgez sa t h => decide (sa < 64) && offOk 14 t && hintOk h
  | .bgtz sa t h => decide (sa < 64) && offOk 14 t && hintOk h
  | .blez sa t h => decide (sa < 64) && offOk 14 t && hintOk h
  | .brv m t tok h => decide (m ≤ 16) && offOk 14 t && decide (tok < 16) && hintOk h
  | .brk m t tok h => decide (m ≤ 16) && offOk 14 t && decide (tok < 16) && hintOk h
  | .ball m t h => decide (m ≤ 16) && offOk 14 t && hintOk h
  | .bnone m t h => decide (m ≤ 16) && offOk 14 t && hintOk h
  | .srd vx reg _ h => (if vx then decide (reg < 256) else decide (reg < 64)) && hintOk h
  | .swr vx reg _ h => (if vx then decide (reg < 256) else decide (reg < 64)) && hintOk h
  | .trap code h => hintOk h && decide (code < 0x8000)
  | .spawn sd va entry h => decide (sd < 64) && decide (va < 256) && hintOk h && decide (entry < 2 ^ 64) && decide (entry % 4 = 0)
  | .mmov md ma h => decide (md < 16) && decide (ma ≤ 16) && hintOk h
  | .mand md ma mb h => decide (md < 16) && decide (ma ≤ 16) && decide (mb ≤ 16) && hintOk h
  | .mor md ma mb h => decide (md < 16) && decide (ma ≤ 16) && decide (mb ≤ 16) && hintOk h
  | .mxor md ma mb h => decide (md < 16) && decide (ma ≤ 16) && decide (mb ≤ 16) && hintOk h
  | .mandn md ma mb h => decide (md < 16) && decide (ma ≤ 16) && decide (mb ≤ 16) && hintOk h
  | .mnot md ma h => decide (md < 16) && decide (ma ≤ 16) && hintOk h
  | .mset md b h => decide (md < 16) && regLitOk b && hintOk h && litBelow 32 b
  | .mpop sd ma h => decide (sd < 64) && decide (ma ≤ 16) && hintOk h
  | .mfirst sd ma h => decide (sd < 64) && decide (ma ≤ 16) && hintOk h
  | .ballot sd ma h => decide (sd < 64) && decide (ma ≤ 16) && hintOk h
  | .vany sd ma h => decide (sd < 64) && decide (ma ≤ 16) && hintOk h
  | .vall sd ma h => decide (sd < 64) && decide (ma ≤ 16) && hintOk h
  | .msave sd ma h => decide (sd < 64) && decide (ma ≤ 16) && hintOk h && decide (ma < 16) && decide (ma % 2 = 0)
  | .mrestore md sa h => decide (md < 16) && decide (sa < 64) && hintOk h && decide (md % 2 = 0)
  | .sadd sd sa sb h => decide (sd < 64) && decide (sa < 64) && decide (sb < 64) && hintOk h
  | .ssub sd sa sb h => decide (sd < 64) && decide (sa < 64) && decide (sb < 64) && hintOk h
  | .smul sd sa sb h => decide (sd < 64) && decide (sa < 64) && decide (sb < 64) && hintOk h
  | .smulh sd sa sb h => decide (sd < 64) && decide (sa < 64) && decide (sb < 64) && hintOk h
  | .sdiv sd sa sb h => decide (sd < 64) && decide (sa < 64) && decide (sb < 64) && hintOk h
  | .sdivu sd sa sb h => decide (sd < 64) && decide (sa < 64) && decide (sb < 64) && hintOk h
  | .srem sd sa sb h => decide (sd < 64) && decide (sa < 64) && decide (sb < 64) && hintOk h
  | .sremu sd sa sb h => decide (sd < 64) && decide (sa < 64) && decide (sb < 64) && hintOk h
  | .sand sd sa sb h => decide (sd < 64) && decide (sa < 64) && decide (sb < 64) && hintOk h
  | .sor sd sa sb h => decide (sd < 64) && decide (sa < 64) && decide (sb < 64) && hintOk h
  | .sxor sd sa sb h => decide (sd < 64) && decide (sa < 64) && decide (sb < 64) && hintOk h
  | .sandn sd sa sb h => decide (sd < 64) && decide (sa < 64) && decide (sb < 64) && hintOk h
  | .sshl sd sa sb h => decide (sd < 64) && decide (sa < 64) && decide (sb < 64) && hintOk h
  | .sshr sd sa sb h => decide (sd < 64) && decide (sa < 64) && decide (sb < 64) && hintOk h
  | .ssra sd sa sb h => decide (sd < 64) && decide (sa < 64) && decide (sb < 64) && hintOk h
  | .srot sd sa sb h => decide (sd < 64) && decide (sa < 64) && decide (sb < 64) && hintOk h
  | .smin sd sa sb h => decide (sd < 64) && decide (sa < 64) && decide (sb < 64) && hintOk h
  | .smax sd sa sb h => decide (sd < 64) && decide (sa < 64) && decide (sb < 64) && hintOk h
  | .sminu sd sa sb h => decide (sd < 64) && decide (sa < 64) && decide (sb < 64) && hintOk h
  | .smaxu sd sa sb h => decide (sd < 64) && decide (sa < 64) && decide (sb < 64) && hintOk h
  | .smov sd sb h => decide (sd < 64) && decide (sb < 64) && hintOk h
  | .sseq sd sa sb h => decide (sd < 64) && decide (sa < 64) && decide (sb < 64) && hintOk h
  | .sslt sd sa sb h => decide (sd < 64) && decide (sa < 64) && decide (sb < 64) && hintOk h
  | .ssltu sd sa sb h => decide (sd < 64) && decide (sa < 64) && decide (sb < 64) && hintOk h
  | .sbfx sd sa sb h => decide (sd < 64) && decide (sa < 64) && decide (sb < 64) && hintOk h
  | .sbfi sd sa sb h => decide (sd < 64) && decide (sa < 64) && decide (sb < 64) && hintOk h
  | .sclz sd sa h => decide (sd < 64) && decide (sa < 64) && hintOk h
  | .sctz sd sa h => decide (sd < 64) && decide (sa < 64) && hintOk h
  | .spop sd sa h => decide (sd < 64) && decide (sa < 64) && hintOk h
  | .sbrev sd sa h => decide (sd < 64) && decide (sa < 64) && hintOk h
  | .saddImm sd sa b h => decide (sd < 64) && decide (sa < 64) && offOk 6 b && hintOk h
  | .ssubImm sd sa b h => decide (sd < 64) && decide (sa < 64) && offOk 6 b && hintOk h
  | .smulImm sd sa b h => decide (sd < 64) && decide (sa < 64) && offOk 6 b && hintOk h
  | .smulhImm sd sa b h => decide (sd < 64) && decide (sa < 64) && offOk 6 b && hintOk h
  | .sdivImm sd sa b h => decide (sd < 64) && decide (sa < 64) && offOk 6 b && hintOk h
  | .sdivuImm sd sa b h => decide (sd < 64) && decide (sa < 64) && offOk 6 b && hintOk h
  | .sremImm sd sa b h => decide (sd < 64) && decide (sa < 64) && offOk 6 b && hintOk h
  | .sremuImm sd sa b h => decide (sd < 64) && decide (sa < 64) && offOk 6 b && hintOk h
  | .sandImm sd sa b h => decide (sd < 64) && decide (sa < 64) && offOk 6 b && hintOk h
  | .sorImm sd sa b h => decide (sd < 64) && decide (sa < 64) && offOk 6 b && hintOk h
  | .sxorImm sd sa b h => decide (sd < 64) && decide (sa < 64) && offOk 6 b && hintOk h
  | .sandnImm sd sa b h => decide (sd < 64) && decide (sa < 64) && offOk 6 b && hintOk h
  | .sshlImm sd sa b h => decide (sd < 64) && decide (sa < 64) && offOk 6 b && hintOk h
  | .sshrImm sd sa b h => decide (sd < 64) && decide (sa < 64) && offOk 6 b && hintOk h
  | .ssraImm sd sa b h => decide (sd < 64) && decide (sa < 64) && offOk 6 b && hintOk h
  | .srotImm sd sa b h => decide (sd < 64) && decide (sa < 64) && offOk 6 b && hintOk h
  | .sminImm sd sa b h => decide (sd < 64) && decide (sa < 64) && offOk 6 b && hintOk h
  | .smaxImm sd sa b h => decide (sd < 64) && decide (sa < 64) && offOk 6 b && hintOk h
  | .sminuImm sd sa b h => decide (sd < 64) && decide (sa < 64) && offOk 6 b && hintOk h
  | .smaxuImm sd sa b h => decide (sd < 64) && decide (sa < 64) && offOk 6 b && hintOk h
  | .smovImm sd b h => decide (sd < 64) && offOk 6 b && hintOk h
  | .sseqImm sd sa b h => decide (sd < 64) && decide (sa < 64) && offOk 6 b && hintOk h
  | .ssltImm sd sa b h => decide (sd < 64) && decide (sa < 64) && offOk 6 b && hintOk h
  | .ssltuImm sd sa b h => decide (sd < 64) && decide (sa < 64) && offOk 6 b && hintOk h
  | .sbfxImm sd sa b h => decide (sd < 64) && decide (sa < 64) && offOk 6 b && hintOk h
  | .sbfiImm sd sa b h => decide (sd < 64) && decide (sa < 64) && offOk 6 b && hintOk h
  | .vcmp cond md va b ty h => decide (md < 16) && decide (va < 256) && vopOk ty.width b && decide (h < 256) && Ty.isCmp ty && evens ty [va] && (ty.isFloat || decide (cond.code < 6))
  | .vshfl vd va b ty h => decide (vd < 256) && decide (va < 256) && vopOk ty.width b && decide (h < 256) && ty.is32 && evens ty [vd, va]
  | .vshup vd va b ty h => decide (vd < 256) && decide (va < 256) && vopOk ty.width b && notVec b && decide (h < 256) && ty.is32 && evens ty [vd, va]
  | .vshdn vd va b ty h => decide (vd < 256) && decide (va < 256) && vopOk ty.width b && notVec b && decide (h < 256) && ty.is32 && evens ty [vd, va]
  | .vshxor vd va b ty h => decide (vd < 256) && decide (va < 256) && vopOk ty.width b && notVec b && decide (h < 256) && ty.is32 && evens ty [vd, va]
  | .vbcast vd va b ty h => decide (vd < 256) && decide (va < 256) && vopOk ty.width b && notVec b && decide (h < 256) && ty.is32 && evens ty [vd, va]
  | .vgred vd va op ty h => decide (vd < 256) && decide (va < 256) && decide (h < 256) && combOk op ty
  | .vscan vd va op ty h => decide (vd < 256) && decide (va < 256) && decide (h < 256) && combOk op ty
  | .vaddInt vd va b ty h => decide (vd < 256) && decide (va < 256) && vopOk ty.width b && decide (h < 256) && ty.isInt && evens ty [vd, va]
  | .vsubInt vd va b ty h => decide (vd < 256) && decide (va < 256) && vopOk ty.width b && decide (h < 256) && ty.isInt && evens ty [vd, va]
  | .vmulInt vd va b ty h => decide (vd < 256) && decide (va < 256) && vopOk ty.width b && decide (h < 256) && ty.isInt8to32 && evens ty [vd, va]
  | .vmulh vd va b ty h => decide (vd < 256) && decide (va < 256) && vopOk ty.width b && decide (h < 256) && ty.isInt8to32 && evens ty [vd, va]
  | .vmad vd va b vc ty h => decide (vd < 256) && decide (va < 256) && vopOk ty.width b && decide (vc < 256) && decide (h < 256) && ty.isInt8to32 && evens ty [vd, va, vc]
  | .vabsd vd va b ty h => decide (vd < 256) && decide (va < 256) && vopOk ty.width b && decide (h < 256) && ty.isInt && evens ty [vd, va]
  | .vadds vd va b ty h => decide (vd < 256) && decide (va < 256) && vopOk ty.width b && decide (h < 256) && ty.isInt && evens ty [vd, va]
  | .vsubs vd va b ty h => decide (vd < 256) && decide (va < 256) && vopOk ty.width b && decide (h < 256) && ty.isInt && evens ty [vd, va]
  | .vminInt vd va b ty h => decide (vd < 256) && decide (va < 256) && vopOk ty.width b && decide (h < 256) && ty.isInt && evens ty [vd, va]
  | .vmaxInt vd va b ty h => decide (vd < 256) && decide (va < 256) && vopOk ty.width b && decide (h < 256) && ty.isInt && evens ty [vd, va]
  | .vand vd va b ty h => decide (vd < 256) && decide (va < 256) && vopOk ty.width b && decide (h < 256) && ty.isWideInt && evens ty [vd, va]
  | .vor vd va b ty h => decide (vd < 256) && decide (va < 256) && vopOk ty.width b && decide (h < 256) && ty.isWideInt && evens ty [vd, va]
  | .vxor vd va b ty h => decide (vd < 256) && decide (va < 256) && vopOk ty.width b && decide (h < 256) && ty.isWideInt && evens ty [vd, va]
  | .vandn vd va b ty h => decide (vd < 256) && decide (va < 256) && vopOk ty.width b && decide (h < 256) && ty.isWideInt && evens ty [vd, va]
  | .vnot vd va ty h => decide (vd < 256) && decide (va < 256) && decide (h < 256) && ty.isWideInt && evens ty [vd, va]
  | .vshl vd va b ty h => decide (vd < 256) && decide (va < 256) && vopOk ty.width b && decide (h < 256) && ty.isInt && evens ty [vd, va]
  | .vshr vd va b ty h => decide (vd < 256) && decide (va < 256) && vopOk ty.width b && decide (h < 256) && ty.isInt && evens ty [vd, va]
  | .vsra vd va b ty h => decide (vd < 256) && decide (va < 256) && vopOk ty.width b && decide (h < 256) && ty.isInt && evens ty [vd, va]
  | .vrot vd va b ty h => decide (vd < 256) && decide (va < 256) && vopOk ty.width b && decide (h < 256) && ty.isInt && evens ty [vd, va]
  | .vbfx vd va b ty h => decide (vd < 256) && decide (va < 256) && vopOk ty.width b && decide (h < 256) && ty.isInt32 && evens ty [vd, va]
  | .vbfi vd va b vc h => decide (vd < 256) && decide (va < 256) && vopOk 32 b && decide (vc < 256) && decide (h < 256)
  | .vclz vd va h => decide (vd < 256) && decide (va < 256) && decide (h < 256)
  | .vpop vd va h => decide (vd < 256) && decide (va < 256) && decide (h < 256)
  | .vbrev vd va h => decide (vd < 256) && decide (va < 256) && decide (h < 256)
  | .vsel vd va b mc ty h => decide (vd < 256) && decide (va < 256) && vopOk ty.width b && decide (mc ≤ 16) && decide (h < 256) && ty.is32 && evens ty [vd, va]
  | .vmov vd b ty h => decide (vd < 256) && vopOk ty.width b && decide (h < 256) && ty.is32 && evens ty [vd]
  | .vprmt vd va b vc h => decide (vd < 256) && decide (va < 256) && vopOk 32 b && decide (vc < 256) && decide (h < 256)
  | .vaddFp vd va b ty _ h => decide (vd < 256) && decide (va < 256) && vopOk ty.width b && decide (h < 256) && ty.isFp3 && evens ty [vd, va]
  | .vsubFp vd va b ty _ h => decide (vd < 256) && decide (va < 256) && vopOk ty.width b && decide (h < 256) && ty.isFp3 && evens ty [vd, va]
  | .vmulFp vd va b ty _ h => decide (vd < 256) && decide (va < 256) && vopOk ty.width b && decide (h < 256) && ty.isFp3 && evens ty [vd, va]
  | .vfma vd va b vc ty _ h => decide (vd < 256) && decide (va < 256) && vopOk ty.width b && decide (vc < 256) && decide (h < 256) && ty.isFp3 && evens ty [vd, va, vc]
  | .vfms vd va b vc ty _ h => decide (vd < 256) && decide (va < 256) && vopOk ty.width b && decide (vc < 256) && decide (h < 256) && ty.isFp3 && evens ty [vd, va, vc]
  | .vfnma vd va b vc ty _ h => decide (vd < 256) && decide (va < 256) && vopOk ty.width b && decide (vc < 256) && decide (h < 256) && ty.isFp3 && evens ty [vd, va, vc]
  | .vminFp vd va b ty h => decide (vd < 256) && decide (va < 256) && vopOk ty.width b && decide (h < 256) && ty.isFp3 && evens ty [vd, va]
  | .vmaxFp vd va b ty h => decide (vd < 256) && decide (va < 256) && vopOk ty.width b && decide (h < 256) && ty.isFp3 && evens ty [vd, va]
  | .vabs vd va ty h => decide (vd < 256) && decide (va < 256) && decide (h < 256) && ty.isFp3 && evens ty [vd, va]
  | .vneg vd va ty h => decide (vd < 256) && decide (va < 256) && decide (h < 256) && ty.isFp3 && evens ty [vd, va]
  | .vcpysgn vd va b ty h => decide (vd < 256) && decide (va < 256) && vopOk ty.width b && decide (h < 256) && ty.isFp3 && evens ty [vd, va]
  | .vrcp vd va ty _ h => decide (vd < 256) && decide (va < 256) && decide (h < 256) && ty.isFp3 && evens ty [vd, va]
  | .vrsq vd va ty _ h => decide (vd < 256) && decide (va < 256) && decide (h < 256) && ty.isFp3 && evens ty [vd, va]
  | .vsqrt vd va ty _ h => decide (vd < 256) && decide (va < 256) && decide (h < 256) && ty.isFp3 && evens ty [vd, va]
  | .vexp2 vd va ty h => decide (vd < 256) && decide (va < 256) && decide (h < 256) && ty.isFp3 && evens ty [vd, va]
  | .vlog2 vd va ty h => decide (vd < 256) && decide (va < 256) && decide (h < 256) && ty.isFp3 && evens ty [vd, va]
  | .vsin vd va ty h => decide (vd < 256) && decide (va < 256) && decide (h < 256) && ty.isFp3 && evens ty [vd, va]
  | .vcos vd va ty h => decide (vd < 256) && decide (va < 256) && decide (h < 256) && ty.isFp3 && evens ty [vd, va]
  | .vfloor vd va ty h => decide (vd < 256) && decide (va < 256) && decide (h < 256) && ty.isFp3 && evens ty [vd, va]
  | .vceil vd va ty h => decide (vd < 256) && decide (va < 256) && decide (h < 256) && ty.isFp3 && evens ty [vd, va]
  | .vtrunc vd va ty h => decide (vd < 256) && decide (va < 256) && decide (h < 256) && ty.isFp3 && evens ty [vd, va]
  | .vround vd va ty _ h => decide (vd < 256) && decide (va < 256) && decide (h < 256) && ty.isFp3 && evens ty [vd, va]
  | .vfract vd va ty h => decide (vd < 256) && decide (va < 256) && decide (h < 256) && ty.isFp3 && evens ty [vd, va]
  | .vclass vd va ty h => decide (vd < 256) && decide (va < 256) && decide (h < 256) && ty.isFp3 && evens ty [vd, va]
  | .tseed vd k b h => decide (vd < 256) && vopOk 32 b && decide (h < 256) && decide (k < 8)
  | .tzero vd slot h => decide (vd < 256) && decide (h < 256) && (match slot with | none => true | some k => decide (k < 8))
  | .tget vd va k h => decide (vd < 256) && decide (va < 256) && decide (h < 256) && decide (k < 8)
  | .tset vd k b h => decide (vd < 256) && vopOk 32 b && decide (h < 256) && decide (k < 8)
  | .tmov vd j va k h => decide (vd < 256) && decide (va < 256) && decide (h < 256) && decide (k < 8) && decide (j < 8)
  | .vcvt vd va ty ts rm h => decide (vd < 256) && decide (va < 256) && decide (h < 256) && ty != ts && evens ty [vd] && evens ts [va] && (ty.isFloat || ts.isFloat || rm == .rne)
  | .vcvtsr vd va b n ty h => decide (vd < 256) && decide (va < 256) && vopOk 32 b && decide (h < 256) && decide (n < 256) && ty != .f32 && ty.width != 64
  | .vrand vd va h => decide (vd < 256) && decide (va < 256) && decide (h < 256) && decide (va % 2 = 0) && decide (vd ≠ va) && decide (vd ≠ va + 1)
  | .vrseed vd va h => decide (vd < 256) && decide (va < 256) && decide (h < 256) && decide (va % 2 = 0) && decide (vd % 2 = 0)
  | .vpack vd va b ty ts hi rm h => decide (vd < 256) && decide (va < 256) && vopOk 32 b && decide (h < 256) && (packWide ty && !hi || packNarrow ty) && ts.is32 && (ty.isFloat || ts.isFloat || rm == .rne)
  | .vunpk vd va k ty ts h => decide (vd < 256) && decide (va < 256) && decide (h < 256) && decide (k < 4) && unpkOk ty ts k
  | .ld vd a ty du o h => decide (vd < 256) && addrOk a && decide (h < 256) && evens ty [vd] && duOk du ty && syncOk ordAcq o
  | .st vd a ty du o h => decide (vd < 256) && addrOk a && decide (h < 256) && evens ty [vd] && duOk du ty && syncOk ordRel o
  | .ldt vd a ty du n h => decide (vd < 256) && addrOk a && decide (h < 256) && ty.is32 && duOk du ty && a.scalar && decide (1 ≤ n) && decide (n ≤ 32)
  | .stt vd a ty du n h => decide (vd < 256) && addrOk a && decide (h < 256) && ty.is32 && duOk du ty && a.scalar && decide (1 ≤ n) && decide (n ≤ 32)
  | .ldw vd a ty h => decide (vd < 256) && addrOk a && decide (h < 256) && evens ty [vd]
  | .sld sd a _ o h => decide (sd < 64) && addrOk a && decide (h < 256) && a.scalar && syncOk ordAcq o
  | .sst sd a _ o h => decide (sd < 64) && addrOk a && decide (h < 256) && a.scalar && syncOk ordRel o
  | .atom vd a vc op ty o h => decide (vd < 256) && addrOk a && decide (vc < 256) && decide (h < 256) && ty.isAtomic && evens ty [vd, vc] && atomOk op ty && syncOk ordAny o
  | .acas vd a vc ty o h => decide (vd < 256) && addrOk a && decide (vc < 256) && decide (h < 256) && ty.isAtomic && evens ty [vd, vc] && syncOk ordAny o
  | .cpy sa bk h => decide (sa < 64) && decide (bk.bar < 32) && decide (h < 256)
  | .gath vd va w off ty h => decide (vd < 256) && decide (va < 256) && decide (w < 8) && off32 off && decide (h < 256) && evens ty [vd]
  | .scat vd va w off ty h => decide (vd < 256) && decide (va < 256) && decide (w < 8) && off32 off && decide (h < 256) && evens ty [vd]
  | .pld vd va w off ty h => decide (vd < 256) && decide (va < 256) && decide (w < 8) && off32 off && decide (h < 256) && evens ty [vd]
  | .pst vd va w off ty h => decide (vd < 256) && decide (va < 256) && decide (w < 8) && off32 off && decide (h < 256) && evens ty [vd]
  | .red vd va w off op ty _ _ h => decide (vd < 256) && decide (va < 256) && decide (w < 8) && off32 off && decide (h < 256) && ty.isAtomic && evens ty [vd] && atomOk op ty && op != .xchg
  | .amg vd va w off op ty _ _ h => decide (vd < 256) && decide (va < 256) && decide (w < 8) && off32 off && decide (h < 256) && ty.isAtomic && evens ty [vd] && atomOk op ty
  | .tex vd va sa _ h => decide (vd < 256) && decide (va < 256) && decide (sa < 64) && decide (h < 256)
  | .texg vd va sa _ h => decide (vd < 256) && decide (va < 256) && decide (sa < 64) && decide (h < 256)
  | .isect vd va sa bk h => decide (vd < 256) && decide (va < 256) && decide (sa < 64) && decide (bk.bar < 32) && decide (h < 256)
  | .visq vd va sa bk h => decide (vd < 256) && decide (va < 256) && decide (sa < 64) && decide (bk.bar < 32) && decide (h < 256)
  | .coll kind op ty sa bar group h => decide (sa < 64) && decide (bar < 32) && decide (h < 256) && (ty == .f32 || ty == .bf16) && decide (group < 65536) && (kind == .ared || kind == .rscat || op == .sum)
  | .wbind w _ sa lim h => decide (w < 8) && decide (sa < 64) && regLitOk lim && hintOk h
  | .winv w h => decide (w < 8) && hintOk h
  | .waitc _ n h => hintOk h && decide (n < 2048)
  | .binit bar n h => decide (bar < 32) && regLitOk n && hintOk h && litBelow 16 n
  | .expect bar n h => decide (bar < 32) && regLitOk n && hintOk h && litBelow 40 n
  | .arrive sd bar rel crit h => decide (sd < 64) && decide (bar < 32) && hintOk h && (rel || !crit)
  | .waitb sd bar acq crit h => decide (sd < 64) && decide (bar < 32) && hintOk h && (acq || !crit)
  | .testb sd bar h => decide (sd < 64) && decide (bar < 32) && hintOk h
  | .fence _ ord h => hintOk h && ord != .ar
  | .mstat _ src sc bk ty off h => decide (sc < 64) && decide (bk.bar < 32) && off32 off && decide (h < 256) && matTy ty && statOk src && (sc == 0 || ty != .bf16)
  | .mloop t _ sa sb sc bk ty h => decide (t < 16) && decide (sa < 64) && decide (sb < 64) && decide (sc < 64) && decide (bk.bar < 32) && decide (h < 256) && matTy ty
  | .mzero t first count bk h => decide (t < 16) && decide (bk.bar < 32) && decide (h < 256) && decide (first < 1024) && decide (0 < count) && decide (count < 2048)
  | .mdrain t win sa sb add bk ty off h => decide (t < 16) && decide (sa < 64) && decide (sb < 64) && decide (bk.bar < 32) && off32 off && decide (h < 256) && ty.isFloat && (!add || ty == .f32 || ty == .bf16) && (match win with | none => true | some w => decide (w < 8))
  | .mbind t first count h => decide (t < 16) && decide (h < 256) && decide (first < 1024) && decide (0 < count) && decide (count < 2048)
  | .mfree t h => decide (t < 16) && decide (h < 256)
  | .mrinit ring k h => decide (h < 256) && decide (ring < 64) && decide (1 ≤ k) && decide (k ≤ 8)
  | .mrpush ring sa sb h => decide (sa < 64) && decide (sb < 64) && decide (h < 256) && decide (ring < 64)
  | .mrrel ring sb h => decide (sb < 64) && decide (h < 256) && decide (ring < 64)
  | .mqsr sd sel h => decide (sd < 64) && decide (h < 256) && decide (sel < 4)
  | .finit f slot n h => decide (f < 4) && decide (h < 256) && decide (slot < 8) && decide (n < 256)
  | .fupd f va h => decide (f < 4) && decide (va < 256) && decide (h < 256)
  | .fdown f va h => decide (f < 4) && decide (va < 256) && decide (h < 256)
  | .fsolve f va _ h => decide (f < 4) && decide (va < 256) && decide (h < 256)
  | .flogdet f sd h => decide (f < 4) && decide (sd < 64) && decide (h < 256)
  | .fdrain f sa off h => decide (f < 4) && decide (sa < 64) && off32 off && decide (h < 256)
  | .fload f sa off h => decide (f < 4) && decide (sa < 64) && off32 off && decide (h < 256)
  | .ffree f h => decide (f < 4) && decide (h < 256)
  | .nop h => hintOk h
  | .hint h => hintOk h
  | .pref h => hintOk h
  | .accownSwitch _ _ => true
  | .splitPromotion _ _ => true
  | .criticalLimitExpiry _ => true
  | .sleepExpiry _ _ => true
  | .refreshWindow _ => true
  | .refreshWindowEnd _ => true
  | .scratchpadLoadDelivery _ _ => true
  | .engineOperationComplete _ _ => true
  | .barrierLanding _ _ _ => true
  | .writeApply _ _ => true
  | .matrixOperationExecute _ => true
  | .factorOperationExecute _ => true
  | .powerGrant _ => true
  | .grantExpiry _ _ => true
  | .rayAdmit _ _ _ => true
  | .rayComplete _ _ _ => true
  | .groupRetire _ => true
  | .launch _ _ => true
  | .wsload _ _ => true
  | .wsloadComplete _ _ => true
  | .waitev _ _ => true
  | .signal _ _ => true
  | .signalComplete _ _ => true
  | .queueNop _ _ => true
  | .wptrWrite _ _ _ => true
  | .rptrRewrite _ _ _ => true
  | .gangDispatch _ _ _ => true
  | .stallWindow => true
  | .stallGangSave _ => true
  | .gangRestore _ _ _ => true
  | .preemptionRequest _ => true
  | .drainTimerExpiry _ => true
  | .quantumExpiry _ => true
  | .contextSave _ => true
  | .contextRestore _ _ => true
  | .forcedReset _ => true
  | .contextCreate _ _ => true
  | .contextDestroy _ => true
  | .contextDescriptorWrite _ _ => true
  | .partitionAdd _ _ => true
  | .partitionWithdraw _ _ => true
  | .quarterRelease _ => true
  | .bandResume _ _ _ _ _ => true
  | .vfBind _ _ => true
  | .vfSuspend _ => true
  | .vfResume _ => true
  | .guestSwitchStep _ _ => true
  | .translationUpdate _ _ => true
  | .wsmapUpdate _ _ => true
  | .shootDown _ _ _ _ => true
  | .shootDownAck _ _ => true
  | .shootDownTimeout _ _ => true
  | .escalationResume _ => true
  | .translationPublish _ _ _ => true
  | .heapResume _ => true
  | .collectiveGroupWrite _ _ _ _ => true
  | .hostWrite _ _ => true
  | .readRequest _ _ => true
  | .readData _ _ => true
  | .write _ _ => true
  | .acknowledgement _ _ => true
  | .collective _ _ => true
  | .shootDownFlit _ _ => true
  | .replayRequest _ _ => true
  | .idleFlit _ _ => true
  | .linkTraining _ => true
  | .trainingComplete _ _ _ => true
  | .linkTimeout _ => true
  | .portReset _ => true
  | .headDescriptor _ _ => true
  | .frameLatch _ => true
  | .candidateComplete _ _ _ => true
  | .bandDeadline _ _ => true
  | .frameEnd _ => true
  | .encoderTileRow _ _ => true
  | .headRebind _ _ => true
  | .packageReset => true
  | .recoveryImageLoad _ => true
  | .deviceReady _ => true
  | .commitImage => true
  | .attestationRequest _ _ => true
  | .violation _ => true
  | .masterRelease _ => true
  | .thermalThrottle _ _ => true
  | .thermalRestore _ _ => true
  | .thermalStop _ _ => true
  | .illegalInstructionWord _ => true
  | .badCrcFlit _ _ => true
  | .stackQuotaAssignment _ _ _ => true
  | .arithmeticClockRestart => true

end Sys2Proof
end

