-- ==== Sys2Proof/Certificates/Slice0/Obligations.lean ====
section
/-!
DEFINITION. The statements about the machine. The namespace Claims holds the words they share: what an instruction leaves
alone, and the results of the manual's tables where they need a formula.
-/

namespace Sys2Proof.Claims

open Sys2Proof Sys2Proof.Machine

/-! ## What is left alone -/

/-- Nothing but the record of the issuing group has changed. -/
def OnlyGroup (s t : State) : Prop :=
  t = { s with groups := t.groups } ∧ ∀ k, k ≠ s.cur.gid → t.group k = s.group k

/-- The issuing split stands at pc and is else as it was, and so are the other splits of its group. -/
def SplitAt (s t : State) (pc : Addr52) : Prop :=
  t.spl = { s.spl with pc := pc } ∧ ∀ e, e ≠ s.cur.entry → t.grp.split e = s.grp.split e

/-- Is the register in the saved set of the rewind record (R334)? -/
def inSaved (g : Group) (r : RegId) : Bool :=
  match g.record with
  | none => false
  | some x => x.saved.has g.decl.c r

/-- Rewind-allowed after writes of the registers (R334). -/
def RewindAfter (s t : State) (rs : List RegId) : Prop :=
  t.grp.rewind = (s.grp.rewind && !rs.any (inSaved s.grp))

/-- Only the PC of the issuing split has changed. -/
def OnlyPc (s t : State) (pc : Addr52) : Prop :=
  OnlyGroup s t ∧ SplitAt s t pc ∧ t.grp = { s.grp with splits := t.grp.splits }

/-- s(d) := x, where s0 discards what it is given, and the PC; nothing else. -/
def PutsScalar (s t : State) (d : Nat) (x : Word64) (pc : Addr52) : Prop :=
  OnlyGroup s t ∧ SplitAt s t pc ∧
  t.grp = { s.grp with s := t.grp.s, splits := t.grp.splits, rewind := t.grp.rewind } ∧
  (∀ r, t.grp.readS r = if r = d ∧ d ≠ 0 then x else s.grp.readS r) ∧ RewindAfter s t [.s d]

/-- Masks take new values, and the PC; nothing else. -/
def PutsMasks (s t : State) (ds : List (Nat × Word32)) (pc : Addr52) : Prop :=
  OnlyGroup s t ∧ SplitAt s t pc ∧
  t.grp = { s.grp with m := t.grp.m, splits := t.grp.splits, rewind := t.grp.rewind } ∧
  (∀ k, t.grp.readM k = (ds.lookup k).getD (s.grp.readM k)) ∧ RewindAfter s t (ds.map fun p => .m p.1)

/-- The next sequential PC of a one-word format: 4 bytes, 8 more with EXT1 and EXT2, 8 more with a literal (R35). -/
def nextPc (s : State) (h : Option Nat) (lit : Bool) : Addr52 :=
  s.pc + BitVec.ofNat 52 (4 + (if h.isSome then 8 else 0) + (if lit then 8 else 0))

/-- Does the immediate operand of major 0x19 stand in the literal? -/
def isLit : Off → Bool
  | .small _ => false
  | .lit _ => true

/-- The two b operands of the scalar forms: s(SB), and IMM6 sign-extended or the literal (R41, R46). -/
def immValue : Off → Word64
  | .small k => BitVec.ofInt 64 k
  | .lit x => BitVec.ofNat 64 x

/-- The instruction completes: it answers a next state, of which p holds. -/
def Completes (i : Instr) (s : State) (p : State → Prop) : Prop := ∃ t, exec i s = .next t ∧ p t

end Sys2Proof.Claims

open Sys2Proof Sys2Proof.Machine Sys2Proof.Claims
/-! ## The machine as a whole -/

namespace Sys2Proof.Claims

/-- Every table of the machine is in canonical form, and so are the scratchpad of every gang and the marks on its bytes. -/
def TablesWf (s : State) : Prop :=
  Sparse.wf 0 s.busy = true ∧ Sparse.wf Group.free s.groups = true ∧ Sparse.wf Gang.none s.gangs = true ∧
  Sparse.wf Grid.none s.grids = true ∧ Sparse.wf Quarter.reset s.quarters = true ∧
  Sparse.wf Context.absent s.contexts = true ∧ Sparse.wf Partition.empty s.parts = true ∧
  Sparse.wf VirtFn.none s.vfs = true ∧ Sparse.wf Port.down s.ports = true ∧ Sparse.wf [] s.routes = true ∧
  Sparse.wf Head.idle s.heads = true ∧
  ∀ p ∈ s.gangs, Memory.wf p.2.spad = true ∧ Sparse.wf 0 p.2.errs = true

/-- The reconvergence stack of a group, and the one in its rewind record, hold at most 32 entries (R112). -/
def StackOk (g : Group) : Prop := g.stack.length ≤ 32 ∧ ∀ r, g.record = some r → r.snap.stack.length ≤ 32

/-- Every stack holds at most 32 entries, and so does that of every group that a saved gang keeps. -/
def StacksOk (s : State) : Prop :=
  (∀ p ∈ s.groups, StackOk p.2) ∧ ∀ p ∈ s.gangs, ∀ g ∈ p.2.saved, StackOk g

/-- No byte of a die's memory is later in coherence order than the writes numbered so far, and so no write that a die has
still to apply (R276, R281). -/
def Numbered (s : State) : Prop :=
  (∀ d pa, ((s.die d).mark pa).seq ≤ s.nextSeq) ∧ ∀ d, ∀ w ∈ (s.die d).held, w.seq ≤ s.nextSeq

/-- The state in which a slot's turn looks for a split: the cycles of the turn have passed, and splits that meet have
merged (R119). -/
def atSlot (s : State) (t : Turn) (slot : Nat) : State := (s.begin t).coalesceSlot slot

/-- The selected split is at cur, the leaves that its fetch walked to are cached, and the slot is taken (R105, R129). -/
def fetched (m : State) (slot : Nat) (c : Cursor) (es : List TlbEntry) (i : Instr) : State :=
  (es.foldl (fun s e => s.cache (quarterOf c.gid) e) (m.chosen c)).occupy slot i

/-- A split that the slot tries answers o: it stands where its fetch is held (R348); it takes the trap of a fetch fault (R53); it runs
its decoded instruction after the flashback point at its PC (R30, R334); or it runs words that are no instruction of it,
which are no point, to their trap (R51). -/
def Tries (m : State) (slot : Nat) (c : Cursor) (o : Out) : Prop :=
  (m.wordsOfSplit c.gid c.entry = .error .held → o = .next m.stand) ∧
  (∀ a, m.wordsOfSplit c.gid c.entry = .error (.fault a) → o = .next ((m.chosen c).trapEntry 0x24 ⟨4, 3, 1, a⟩)) ∧
  (∀ ws es, m.wordsOfSplit c.gid c.entry = .ok (ws, es) →
    (∀ i, decodeWords ws = .instr i →
      let p := (fetched m slot c es i).pointHere
      ((m.chosen c).grp.legal (m.chosen c).spl.sup i = true → o = if p.2 then exec i p.1 else .next p.1) ∧
      ((m.chosen c).grp.legal (m.chosen c).spl.sup i = false → o = exec i (fetched m slot c es i))) ∧
    (∀ r, decodeWords ws = .reject r →
      o = exec (.illegalInstructionWord r.detail) (fetched m slot c es (.illegalInstructionWord r.detail))))

/-- The turn of a slot with ready splits cs: the first by its keys is tried; where its instruction is held at issue, the
request it made is kept and the slot goes on with the others (R128; log 67). -/
def Issues (m : State) (slot n : Nat) (cs : List Cursor) (r : Out) : Prop :=
  (m.firstOf cs = none → r = .next m) ∧
  (∀ c o, m.firstOf cs = some c → Tries m slot c o → ∀ t, o = .next t →
    (t.stands = false → r = .next t) ∧
    (t.stands = true → r = State.issueFrom slot exec n (cs.erase c) (m.keepHeld c t)))

end Sys2Proof.Claims

open Sys2Proof.Claims

/-- Decoding reads back every instruction that words encode, whatever words follow it, with every operand at every value
the encoding admits. -/
def Obligations.DecodeReadsEncode : Prop :=
  ∀ (i : Instr) (rest : List Nat), i.wf = true → (encodeFrame i).isSome = true →
    decodeWords (encodeWords i ++ rest) = .instr i

/-- What decodes is well formed, and no other words stand for it: the words begin with its encoding (R55). -/
def Obligations.WordsHaveOneMeaning : Prop :=
  ∀ (ws : List Nat) (i : Instr), (∀ w ∈ ws, w < 2 ^ 32) → decodeWords ws = .instr i →
    i.wf = true ∧ (encodeFrame i).isSome = true ∧ encodeWords i <+: ws

/-- Words written out from the tables of the encoding decode to the instructions that they stand for (R41, R42, R45). -/
def Obligations.WordsOfTheTables : Prop :=
  decodeWords [0x00E28C60] = .instr (.sadd 7 5 6 none) ∧ decodeWords [0x44000020] = .instr (.srd true 16 .lane none) ∧
  decodeWords [0x00480040] = .instr (.mmov 2 16 none) ∧ decodeWords [0x18000000] = .instr (.exit none) ∧
  decodeWords [0x1007E000] = .instr (.ret 63 none) ∧ decodeWords [0x000001FC] = .instr (.nop none) ∧
  decodeWords [0x30600042, 0xFF, 0] = .instr (.mset 3 (.lit 255) none) ∧
  decodeWords [0x28605049, 0, 0] = .instr (.vgred 12 10 .add .f32 0) ∧
  decodeWords [0x30482181, 0x00054000, 0] = .instr (.amg 9 4 2 0 .add .n32 .plain false 0) ∧
  decodeWords [0x480001B1, 0x78000000, 0] = .instr (.mqsr 30 0 0) ∧
  decodeWords [0x2600380C] = .instr (.bnz 12 (.small 28) none) ∧ decodeWords [0] = .reject .reservedMinor ∧
  decodeWords [0xFFFFFFFF, 0xFFFFFFFF, 0xFFFFFFFF, 0xFFFFFFFF, 0xFFFFFFFF] = .reject .reservedMinor

/-- A step carries out the next turn: an event; a cycle in which nothing issues; or the issue of a slot, which is
taken up still, has no ready split, cannot fetch (R53), or runs the decoded instruction of the split that it selects,
or the trap of words that are none (R51). The agenda that names the turns is the model's (log 1), and so is what a slot does
with an instruction that is held (log 67). -/
def Obligations.StepRunsDecoded : Prop :=
  ∀ s : State,
    let t := s.nextTurn.1
    let u := s.nextTurn.2
    (∀ i, t.who = .event i → isEvent i = true → step s = exec i (u.begin t)) ∧
    (t.who = .idle → step s = .next (u.begin t)) ∧
    (∀ slot, t.who = .issue slot →
      let m := atSlot u t slot
      (m.clock < Sparse.get 0 m.busy slot ∨ m.select slot = none → step s = .next (afterIssue m)) ∧
      (Sparse.get 0 m.busy slot ≤ m.clock →
        step s = thenDo (State.issueFrom slot exec (m.readySplits slot).length (m.readySplits slot) m) afterIssue)) ∧
    ∀ (m : State) (slot n : Nat) (cs : List Cursor), Issues m slot n cs (State.issueFrom slot exec (n + 1) cs m)

/-- A slot tries a ready split, and first the one whose keys come first: critical groups, promoted splits by time,
queue priority, the PRIO hint, AGE, group context number and entry number (R128, R129). That slot k serves the groups
whose number divided by 16 is k is presumed (log 10). -/
def Obligations.SelectsFirst : Prop :=
  ∀ (s : State) (slot : Nat),
    (s.select slot = none ↔ ∀ gid ∈ slotGroups slot, ∀ e < 4, s.isReady gid e = false) ∧
    (∀ c, s.select slot = some c → c.gid / 16 = slot ∧ c.entry < 4 ∧ s.isReady c.gid c.entry = true ∧
      ∀ d, d.gid / 16 = slot → d.entry < 4 → s.isReady d.gid d.entry = true → d ≠ c →
        keysBefore (s.keys c.gid c.entry) (s.keys d.gid d.entry) = true)

/-- No state stops the machine: whatever its registers, tables, memories and agenda hold, a step answers a next state.
That holds and waits are steps too is the model's (log 1, log 67). -/
def Obligations.EveryStepGoesOn : Prop := ∀ s : State, s.goesOn

/-- Every step keeps the memories of the dies, the host and the peers, the scratchpads, and the tables of groups, gangs, grids,
quarters, contexts, partitions, virtual functions, ports, routes, heads and issue slots in canonical form: the form in which
the model holds them (log 14). -/
def Obligations.FormsKept : Prop :=
  ∀ s t : State, s.memoryWf = true ∧ TablesWf s → step s = .next t → t.memoryWf = true ∧ TablesWf t

/-- Every step keeps the bound of the reconvergence stacks: at most 32 entries (R112). -/
def Obligations.StacksBounded : Prop := ∀ s t : State, StacksOk s → step s = .next t → StacksOk t

/-- Every step keeps coherence order: writes are numbered as they originate, and none is numbered ahead (R281, log 13). -/
def Obligations.WritesNumbered : Prop := ∀ s t : State, Numbered s → step s = .next t → Numbered t

/-- The machine after reset meets the invariants, and holds no group, gang, grid, context or partition; CLOCK is 0, the
boot ROM runs, and only the Pradan port is trained, x32 (R399). Memories read as zero (log 2). -/
def Obligations.ResetHolds : Prop :=
  (State.reset.memoryWf = true ∧ TablesWf State.reset ∧ StacksOk State.reset ∧ Numbered State.reset) ∧
  State.reset.clock = 0 ∧ State.reset.bringUp = .rom ∧ State.reset.clockStopped = false ∧
  (∀ k, State.reset.group k = Group.free ∧ State.reset.gang k = Gang.none ∧ State.reset.grid k = Grid.none ∧
    State.reset.context k = Context.absent ∧ State.reset.part k = Partition.empty ∧
    State.reset.port k = if k = 16 then { Port.down with state := .up, width := 32 } else Port.down) ∧
  (∀ d pa, Sparse.get 0 (State.reset.die d).mem pa = 0)

/-- Table and stack come to rest (R115, R117, R118): no record whose lanes all stand at their JOIN stays, and no eligible
deferred entry stays while an entry is free or holds a joining split. -/
def Obligations.SettleRests : Prop :=
  ∀ g : Group, g.stack.length ≤ 32 →
    let h := g.settle
    h.stack.length ≤ g.stack.length ∧ completeRecord h 0 h.stack = none ∧
    (∀ k x, eligible 0 h.stack = some (k, x) →
      h.freeEntries = [] ∧ ∀ e ∈ h.validEntries, (h.split e).state ≠ .joining)

/-! ## Scalar arithmetic -/

namespace Sys2Proof.Claims

/-- A scalar form in both majors writes f a b and goes on, with b from SB in the one and the immediate or the literal in
the other. -/
def ScalarForm (s : State) (sd sa sb : Nat) (b : Off) (h : Option Nat) (reg imm : Instr)
    (f : Word64 → Word64 → Word64) : Prop :=
  Completes reg s (fun t => PutsScalar s t sd (f (s.grp.readS sa) (s.grp.readS sb)) (nextPc s h false)) ∧
  Completes imm s (fun t => PutsScalar s t sd (f (s.grp.readS sa) (immValue b)) (nextPc s h (isLit b)))

/-- A form writes some x of which p holds, and goes on. -/
def PutsSome (s : State) (i : Instr) (sd : Nat) (pc : Addr52) (p : Word64 → Prop) : Prop :=
  Completes i s fun t => ∃ x, p x ∧ PutsScalar s t sd x pc

/-- The bits that a field descriptor covers: from b [5:0], min(b [14:8], 64) of them, none above 63 (R166). -/
def inField (b : Word64) (i : Nat) : Bool :=
  decide (b.toNat % 64 ≤ i) && decide (i < b.toNat % 64 + min (b.toNat / 256 % 128) 64) && decide (i < 64)

/-- x is the field of a moved to bit 0, with zeros above. -/
def IsField (a b x : Word64) : Prop :=
  ∀ i, i < 64 → x.getLsbD i = (inField b (b.toNat % 64 + i) && a.getLsbD (b.toNat % 64 + i))

/-- x is old with the field replaced by the low bits of a. -/
def IsInsert (old a b x : Word64) : Prop :=
  ∀ i, i < 64 → x.getLsbD i = if inField b i then a.getLsbD (i - b.toNat % 64) else old.getLsbD i

end Sys2Proof.Claims

open Sys2Proof.Claims

/-- SADD, SSUB, SMUL and SMULH in both majors (R164): wrapping sums and products, and the high half of the signed
product. -/
def Sys2Proof.Claims.ScalarSumsAndProducts : Prop := ∀ (s : State) (sd sa sb : Nat) (b : Off) (h : Option Nat),
  ScalarForm s sd sa sb b h (.sadd sd sa sb h) (.saddImm sd sa b h) (fun x y => x + y) ∧
  ScalarForm s sd sa sb b h (.ssub sd sa sb h) (.ssubImm sd sa b h) (fun x y => x - y) ∧
  ScalarForm s sd sa sb b h (.smul sd sa sb h) (.smulImm sd sa b h) (fun x y => x * y) ∧
  ScalarForm s sd sa sb b h (.smulh sd sa sb h) (.smulhImm sd sa b h)
    (fun x y => BitVec.ofInt 64 (x.toInt * y.toInt / 2 ^ 64))

/-- SDIV, SDIVU, SREM and SREMU in both majors (R164, R165): they never trap; the quotient is rounded toward zero, and
a − b × quotient is the remainder; all ones and a for b = 0. -/
def Sys2Proof.Claims.ScalarDivision : Prop := ∀ (s : State) (sd sa sb : Nat) (b : Off) (h : Option Nat),
  ScalarForm s sd sa sb b h (.sdiv sd sa sb h) (.sdivImm sd sa b h)
    (fun x y => if y = 0 then BitVec.allOnes 64 else BitVec.ofInt 64 (x.toInt.tdiv y.toInt)) ∧
  ScalarForm s sd sa sb b h (.sdivu sd sa sb h) (.sdivuImm sd sa b h)
    (fun x y => if y = 0 then BitVec.allOnes 64 else BitVec.ofNat 64 (x.toNat / y.toNat)) ∧
  ScalarForm s sd sa sb b h (.srem sd sa sb h) (.sremImm sd sa b h)
    (fun x y => if y = 0 then x else x - y * BitVec.ofInt 64 (x.toInt.tdiv y.toInt)) ∧
  ScalarForm s sd sa sb b h (.sremu sd sa sb h) (.sremuImm sd sa b h)
    (fun x y => if y = 0 then x else x - y * BitVec.ofNat 64 (x.toNat / y.toNat))

/-- SAND, SOR, SXOR, SANDN, and the shifts and rotation by b [5:0] (R164), in both majors. -/
def Sys2Proof.Claims.ScalarLogicAndShifts : Prop := ∀ (s : State) (sd sa sb : Nat) (b : Off) (h : Option Nat),
  ScalarForm s sd sa sb b h (.sand sd sa sb h) (.sandImm sd sa b h) (fun x y => x &&& y) ∧
  ScalarForm s sd sa sb b h (.sor sd sa sb h) (.sorImm sd sa b h) (fun x y => x ||| y) ∧
  ScalarForm s sd sa sb b h (.sxor sd sa sb h) (.sxorImm sd sa b h) (fun x y => x ^^^ y) ∧
  ScalarForm s sd sa sb b h (.sandn sd sa sb h) (.sandnImm sd sa b h) (fun x y => x &&& ~~~y) ∧
  ScalarForm s sd sa sb b h (.sshl sd sa sb h) (.sshlImm sd sa b h) (fun x y => x <<< (y.toNat % 64)) ∧
  ScalarForm s sd sa sb b h (.sshr sd sa sb h) (.sshrImm sd sa b h) (fun x y => x >>> (y.toNat % 64)) ∧
  ScalarForm s sd sa sb b h (.ssra sd sa sb h) (.ssraImm sd sa b h) (fun x y => x.sshiftRight (y.toNat % 64)) ∧
  ScalarForm s sd sa sb b h (.srot sd sa sb h) (.srotImm sd sa b h) (fun x y => x.rotateLeft (y.toNat % 64))

/-- The minima and maxima, signed and unsigned, SMOV, and the comparisons (R164), in both majors. -/
def Sys2Proof.Claims.ScalarChoices : Prop := ∀ (s : State) (sd sa sb : Nat) (b : Off) (h : Option Nat),
  ScalarForm s sd sa sb b h (.smin sd sa sb h) (.sminImm sd sa b h) (fun x y => if x.toInt ≤ y.toInt then x else y) ∧
  ScalarForm s sd sa sb b h (.smax sd sa sb h) (.smaxImm sd sa b h) (fun x y => if y.toInt ≤ x.toInt then x else y) ∧
  ScalarForm s sd sa sb b h (.sminu sd sa sb h) (.sminuImm sd sa b h) (fun x y => if x ≤ y then x else y) ∧
  ScalarForm s sd sa sb b h (.smaxu sd sa sb h) (.smaxuImm sd sa b h) (fun x y => if y ≤ x then x else y) ∧
  ScalarForm s sd sa sb b h (.smov sd sb h) (.smovImm sd b h) (fun _ y => y) ∧
  ScalarForm s sd sa sb b h (.sseq sd sa sb h) (.sseqImm sd sa b h) (fun x y => if x = y then 1 else 0) ∧
  ScalarForm s sd sa sb b h (.sslt sd sa sb h) (.ssltImm sd sa b h) (fun x y => if x.toInt < y.toInt then 1 else 0) ∧
  ScalarForm s sd sa sb b h (.ssltu sd sa sb h) (.ssltuImm sd sa b h) (fun x y => if x < y then 1 else 0)

/-- SBFX and SBFI in both majors (R166), and SCLZ, SCTZ, SPOP and SBREV (R164), bit by bit. -/
def Sys2Proof.Claims.ScalarFieldsAndCounts : Prop := ∀ (s : State) (sd sa sb : Nat) (b : Off) (h : Option Nat),
  let a := s.grp.readS sa
  PutsSome s (.sbfx sd sa sb h) sd (nextPc s h false) (IsField a (s.grp.readS sb)) ∧
  PutsSome s (.sbfxImm sd sa b h) sd (nextPc s h (isLit b)) (IsField a (immValue b)) ∧
  PutsSome s (.sbfi sd sa sb h) sd (nextPc s h false) (IsInsert (s.grp.readS sd) a (s.grp.readS sb)) ∧
  PutsSome s (.sbfiImm sd sa b h) sd (nextPc s h (isLit b)) (IsInsert (s.grp.readS sd) a (immValue b)) ∧
  PutsSome s (.sclz sd sa h) sd (nextPc s h false) (fun x => x.toNat ≤ 64 ∧
    (∀ i, i < 64 → 64 ≤ i + x.toNat → a.getLsbD i = false) ∧ (x.toNat < 64 → a.getLsbD (63 - x.toNat) = true)) ∧
  PutsSome s (.sctz sd sa h) sd (nextPc s h false) (fun x => x.toNat ≤ 64 ∧
    (∀ i, i < x.toNat → a.getLsbD i = false) ∧ (x.toNat < 64 → a.getLsbD x.toNat = true)) ∧
  PutsSome s (.spop sd sa h) sd (nextPc s h false)
    (fun x => x.toNat = ((List.range 64).filter fun i => a.getLsbD i).length) ∧
  PutsSome s (.sbrev sd sa h) sd (nextPc s h false) (fun x => ∀ i, i < 64 → x.getLsbD i = a.getLsbD (63 - i))

/-! ## Masks -/

/-- Mask logic (R157) acts on all 32 bits whatever em holds; mask 16 as a source is em. -/
def Sys2Proof.Claims.MaskLogic : Prop := ∀ (s : State) (md ma mb sa : Nat) (h : Option Nat),
  let src := fun k => if k = 16 then s.em else s.grp.readM k
  let pc := nextPc s h false
  let x := s.grp.readS sa
  Completes (.mmov md ma h) s (fun t => PutsMasks s t [(md, src ma)] pc) ∧
  Completes (.mand md ma mb h) s (fun t => PutsMasks s t [(md, src ma &&& src mb)] pc) ∧
  Completes (.mor md ma mb h) s (fun t => PutsMasks s t [(md, src ma ||| src mb)] pc) ∧
  Completes (.mxor md ma mb h) s (fun t => PutsMasks s t [(md, src ma ^^^ src mb)] pc) ∧
  Completes (.mandn md ma mb h) s (fun t => PutsMasks s t [(md, src ma &&& ~~~src mb)] pc) ∧
  Completes (.mnot md ma h) s (fun t => PutsMasks s t [(md, ~~~src ma)] pc) ∧
  Completes (.mset md (.reg sa) h) s (fun t => PutsMasks s t [(md, x.setWidth 32)] pc) ∧
  (∀ n, Completes (.mset md (.lit n) h) s (fun t => PutsMasks s t [(md, BitVec.ofNat 32 n)] (nextPc s h true))) ∧
  Completes (.mrestore md sa h) s
    (fun t => PutsMasks s t [(md, x.setWidth 32), (md + 1, (x >>> 32).setWidth 32)] pc)

/-- Masks read into scalars, and the votes over em (R157). -/
def Sys2Proof.Claims.MasksIntoScalars : Prop := ∀ (s : State) (sd ma : Nat) (h : Option Nat),
  let m := if ma = 16 then s.em else s.grp.readM ma
  let pc := nextPc s h false
  PutsSome s (.mpop sd ma h) sd pc (fun x => x.toNat = ((List.range 32).filter fun i => m.getLsbD i).length) ∧
  PutsSome s (.mfirst sd ma h) sd pc (fun x => if m = 0 then x = BitVec.allOnes 64
    else x.toNat < 32 ∧ m.getLsbD x.toNat = true ∧ ∀ i, i < x.toNat → m.getLsbD i = false) ∧
  PutsSome s (.ballot sd ma h) sd pc (fun x => x = (m &&& s.em).setWidth 64) ∧
  PutsSome s (.vany sd ma h) sd pc (fun x => x = if m &&& s.em ≠ 0 then 1 else 0) ∧
  PutsSome s (.vall sd ma h) sd pc (fun x => x = if s.em &&& ~~~m = 0 then 1 else 0) ∧
  PutsSome s (.msave sd ma h) sd pc
    (fun x => x = (s.grp.readM (ma + 1)).setWidth 64 <<< 32 ||| (s.grp.readM ma).setWidth 64)

/-- NOP, HINT and PREF change nothing but the PC (R159); YIELD sets the AGE of its split to 0 beside (R151). -/
def Sys2Proof.Claims.NopsAndYield : Prop := ∀ (s : State) (h : Option Nat),
  Completes (.nop h) s (fun t => OnlyPc s t (nextPc s h false)) ∧
  Completes (.hint h) s (fun t => OnlyPc s t (nextPc s h false)) ∧
  Completes (.pref h) s (fun t => OnlyPc s t (nextPc s h false)) ∧
  Completes (.yield h) s (fun t => OnlyGroup s t ∧
    t.spl = { s.spl with pc := nextPc s h false, age := 0 } ∧
    (∀ e, e ≠ s.cur.entry → t.grp.split e = s.grp.split e) ∧ t.grp = { s.grp with splits := t.grp.splits })

/-! ## Control -/

namespace Sys2Proof.Claims

/-- The direct target (R44, R135), modulo 2^52. -/
def targetPc (s : State) : Off → Addr52
  | .small k => s.pc + BitVec.ofInt 52 (4 * k)
  | .lit x => s.pc + BitVec.ofNat 52 x

/-- A literal offset must be a multiple of 4. -/
def okTarget : Off → Prop
  | .small _ => True
  | .lit x => x % 4 = 0

/-- A uniform branch goes to the target when the condition holds and to the next PC otherwise, and changes nothing
else. -/
def Branches (s : State) (i : Instr) (t : Off) (h : Option Nat) (taken : Prop) : Prop :=
  (taken → Completes i s fun u => OnlyPc s u (targetPc s t)) ∧
  (¬ taken → Completes i s fun u => OnlyPc s u (nextPc s h (isLit t)))

/-- The trap of the whole issuing split at its PC (R121 with Fm = em), where it does not pass depth 32: a trap record is
pushed, the split goes on at the handler at supervisor level, every other split of the group becomes held. -/
def TrapTaken (s t : State) (cause : Nat) : Prop :=
  let x := s.spl
  let record := (⟨cause, x.tok, .trap, x.sup, x.mask, x.pc, 0⟩ : StackEntry)
  OnlyGroup s t ∧
  t.grp = { s.grp with stack := record :: s.grp.stack, splits := t.grp.splits, life := .trapped,
                       faultLane := t.grp.faultLane, rewind := false } ∧
  t.spl = { Split.free with v := true, sup := true, pc := (s.context s.grp.ctx).handler, mask := x.mask, tok := 16,
                            age := x.age } ∧
  (∀ e, e < 4 → e ≠ s.cur.entry → t.grp.split e =
    if (s.grp.split e).v ∧ (s.grp.split e).state ≠ .held then
      { s.grp.split e with state := .held, hstate := (s.grp.split e).state }
    else s.grp.split e) ∧
  (x.mask = 0 ∧ t.grp.faultLane = 0 ∨
    x.mask.getLsbD t.grp.faultLane = true ∧ ∀ l, l < t.grp.faultLane → x.mask.getLsbD l = false)

/-- A double fault (R123): the group is frozen, its context is faulted and gives up its partition, and the host driver is
told; a context that is neither resident nor being switched out stays as it is (R20). -/
def DoubleFaulted (s t : State) : Prop :=
  let c := s.context s.grp.ctx
  t.grp = { s.grp with life := .frozen } ∧ (∀ k, k ≠ s.cur.gid → t.group k = s.group k) ∧
  (c.state = .resident ∨ c.state = .switching → t.context s.grp.ctx = { c with state := .faulted } ∧
    (t.part c.part).resident ≠ some s.grp.ctx ∧
    t.notices = s.notices ++ [.faulted s.grp.ctx, .doubleFault s.grp.ctx s.cur.gid]) ∧
  (c.state ≠ .resident → c.state ≠ .switching → t.context s.grp.ctx = c ∧
    t.notices = s.notices ++ [.doubleFault s.grp.ctx s.cur.gid])

/-- The lanes f of the issuing split, of which low is the lowest, trap at its PC after the others have left its group as g (R121):
what the split still holds is deferred, the trap record stands on top, the split goes on at the handler, and the other splits
are held. -/
def PartTrapped (s t : State) (g : Group) (f : Word32) (cause low : Nat) : Prop :=
  let x := g.split s.cur.entry
  let rest := x.mask &&& ~~~f
  OnlyGroup s t ∧
  t.grp = { g with stack := t.grp.stack, splits := t.grp.splits, life := .trapped, faultLane := low,
                   faults := t.grp.faults, rewind := false } ∧
  t.grp.stack = ⟨cause, x.tok, .trap, x.sup, f, s.pc, 0⟩ ::
    (if rest = 0 then g.stack else ⟨0, x.tok, .deferred, x.sup, rest, x.pc, 0⟩ :: g.stack) ∧
  t.spl = { Split.free with v := true, sup := true, pc := (s.context s.grp.ctx).handler, mask := f, tok := 16, age := x.age } ∧
  ∀ e, e < 4 → e ≠ s.cur.entry → t.grp.split e =
    if (g.split e).v ∧ (g.split e).state ≠ .held then
      { g.split e with state := .held, hstate := (g.split e).state }
    else g.split e

/-- Held splits return to their former states when no trap record is left (R122); the AGE of one that is runnable again starts
anew (log 69). -/
def Released (g g' : Group) : Prop :=
  if ∃ x ∈ g.stack, x.kind = .trap then g' = g
  else
    g' = { g with splits := g'.splits, life := .resident } ∧
    (∀ e, e < 4 → g'.split e = if (g.split e).v ∧ (g.split e).state = .held then
      { g.split e with state := (g.split e).hstate,
                       age := if (g.split e).hstate = .runnable then 0 else (g.split e).age } else g.split e) ∧
    ∀ e, 4 ≤ e → g'.split e = g.split e

/-- Nothing but the PC of the issuing split has changed, and then table and stack came to rest (R115, R117, R118). -/
def GoesAndSettles (s t : State) (pc : Addr52) : Prop :=
  OnlyGroup s t ∧ t.grp = (s.grp.setSplit s.cur.entry { s.spl with pc := pc }).settle

/-- The lanes of em by target: one part per distinct target, in the order of their lowest lanes (R114). -/
def laneParts (em : Word32) (target : Nat → Addr52) : List (Word32 × Addr52) :=
  (((lanesOf em).map target).eraseDups).map fun a => (maskOf fun l => em.getLsbD l && target l == a, a)

/-- The stack after the lanes brk have left the join records that BRK #tok names (R114). -/
def brokenStack (tok : Nat) (em brk : Word32) (l : List StackEntry) : List StackEntry :=
  let k := l.findIdx fun x => x.kind == .join && x.tok == tok && em &&& ~~~x.mask == 0
  ((l.take k).filterMap fun x =>
    if x.kind = .join then (if x.mask &&& ~~~brk = 0 then none else some { x with mask := x.mask &&& ~~~brk })
    else some x) ++ l.drop k

/-- The lanes whose indirect targets are good have gone to them (R113, R142): none go, one target moves the split, and more of them
divide it with a record of the token. -/
def LanesGone (s : State) (tok : Nat) (parts : List (Word32 × Addr52)) (g : Group) : Prop :=
  (parts = [] → g = s.grp) ∧ (∀ p, parts = [p] → g = s.grp.setSplit s.cur.entry { s.spl with pc := p.2 }) ∧
  (2 ≤ parts.length → s.grp.divide s.cur.entry tok s.pc true parts = some g)

/-- Exactly the lanes of em for which p holds, of which low is the lowest. -/
def FailingLanes (s : State) (p : Nat → Prop) (f : Word32) (low : Nat) : Prop :=
  (∀ l, l < 32 → (f.getLsbD l = true ↔ s.em.getLsbD l = true ∧ p l)) ∧ low < 32 ∧ f.getLsbD low = true ∧
  ∀ l, l < low → f.getLsbD l = false

/-- A join record with the token covers the lanes. -/
def Covered (l : List StackEntry) (tok : Nat) (m : Word32) : Prop :=
  ∃ x ∈ l, x.kind = .join ∧ x.tok = tok ∧ m &&& ~~~x.mask = 0

end Sys2Proof.Claims

open Sys2Proof.Claims

/-- The uniform branches (R138), CALL (R143), BRI (R142) and RET (R144): the whole split moves, the stack, the tokens and
every register but s63 of CALL stand. RET to the point of a recipe ends it for its lanes, and with the last of them s63 is as
the saved set has it (R30), a write like any other (R334). -/
def Sys2Proof.Claims.UniformBranches : Prop := ∀ (s : State) (sa m : Nat) (t : Off) (h : Option Nat), okTarget t →
  let x := (s.grp.readS sa).toInt
  let k := if m = 16 then s.em else s.grp.readM m
  let a := (s.grp.readS sa).setWidth 52
  Branches s (.br t h) t h True ∧ Branches s (.bz sa t h) t h (x = 0) ∧ Branches s (.bnz sa t h) t h (x ≠ 0) ∧
  Branches s (.bltz sa t h) t h (x < 0) ∧ Branches s (.bgez sa t h) t h (0 ≤ x) ∧
  Branches s (.bgtz sa t h) t h (0 < x) ∧ Branches s (.blez sa t h) t h (x ≤ 0) ∧
  Branches s (.ball m t h) t h (s.em &&& ~~~k = 0) ∧ Branches s (.bnone m t h) t h (s.em &&& k = 0) ∧
  Completes (.call t h) s (fun u => PutsScalar s u 63 ((nextPc s h (isLit t)).setWidth 64) (targetPc s t)) ∧
  (a.toNat % 4 = 0 →
    Completes (.bri sa h) s (fun u => OnlyPc s u a) ∧
    ((∀ r rest, s.grp.recipes = r :: rest → r.point ≠ a) → Completes (.ret sa h) s (fun u => OnlyPc s u a)) ∧
    (∀ r rest, s.grp.recipes = r :: rest → r.point = a → Completes (.ret sa h) s fun u =>
      let gone := r.lanes &&& ~~~s.em = 0
      OnlyGroup s u ∧ SplitAt s u a ∧
      u.grp = { s.grp with splits := u.grp.splits, s := u.grp.s, recipes := u.grp.recipes, rewind := u.grp.rewind } ∧
      RewindAfter s u (if r.lanes &&& ~~~s.em = 0 ∧ r.link.isSome = true then [.s 63] else []) ∧
      (gone → u.grp.recipes = rest) ∧
      (¬ gone → u.grp.recipes = { r with lanes := r.lanes &&& ~~~s.em } :: rest) ∧
      ∀ k, u.grp.readS k = if k = 63 then
        (match r.link with
          | some x => if r.lanes &&& ~~~s.em = 0 then x else s.grp.readS 63
          | none => s.grp.readS 63) else s.grp.readS k))

/-- BRV (R139): one way, or one next PC, moves the split and leaves token and stack; two ways push a join record, keep the lanes
that fall through and give the others the lowest free entry, or a deferred entry on top when none is free (R113). -/
def Sys2Proof.Claims.DivergentBranch : Prop := ∀ (s : State) (m : Nat) (t : Off) (tok : Nat) (h : Option Nat), okTarget t →
  let k := if m = 16 then s.em else s.grp.readM m
  let next := nextPc s h (isLit t)
  let stay := s.em &&& ~~~k
  let gone := s.em &&& k
  let x := s.spl
  let record := (⟨0, tok, .join, x.sup, s.em, x.pc, 0⟩ : StackEntry)
  let kept := { x with mask := stay, pc := next, tok := tok }
  let branch := { Split.free with v := true, mask := gone, pc := targetPc s t, tok := tok, sup := x.sup }
  (s.em = 0 → Completes (.brv m t tok h) s fun u => OnlyPc s u next) ∧
  (s.em ≠ 0 → gone = 0 → Completes (.brv m t tok h) s fun u => GoesAndSettles s u next) ∧
  (s.em ≠ 0 → stay = 0 → Completes (.brv m t tok h) s fun u => GoesAndSettles s u (targetPc s t)) ∧
  (targetPc s t = next → s.em ≠ 0 → Completes (.brv m t tok h) s fun u => GoesAndSettles s u next) ∧
  (targetPc s t ≠ next → stay ≠ 0 → gone ≠ 0 → ∀ f, f < 4 → (s.grp.split f).v = false →
    (∀ e, e < f → (s.grp.split e).v = true) → s.grp.stack.length + 1 ≤ 30 → Completes (.brv m t tok h) s fun u => OnlyGroup s u ∧
      u.grp = ((({ s.grp with stack := record :: s.grp.stack }).setSplit s.cur.entry kept).setSplit f branch).settle) ∧
  (targetPc s t ≠ next → stay ≠ 0 → gone ≠ 0 → (∀ e, e < 4 → (s.grp.split e).v = true) → s.grp.stack.length + 2 ≤ 30 →
    Completes (.brv m t tok h) s fun u => OnlyGroup s u ∧
      u.grp = (({ s.grp with stack := ⟨0, tok, .deferred, x.sup, gone, targetPc s t, 0⟩ :: record :: s.grp.stack }).setSplit
        s.cur.entry kept).settle)

/-- BRK (R140), its three cases: the form that opens a region, the form that changes nothing, and the break, which takes
the breaking lanes out of the join records of R114, closes what that completes and divides or moves the split, with a deferred
entry where no entry is free; a break whose divide would pass depth 30 traps instead, and changes nothing else (R112). The token
of the parts is the model's reading (log 63). -/
def Obligations.LoopBreak : Prop := ∀ (s : State) (m : Nat) (t : Off) (tok : Nat) (h : Option Nat), okTarget t →
  let k := if m = 16 then s.em else s.grp.readM m
  let next := nextPc s h (isLit t)
  let stay := s.em &&& ~~~k
  let brk := s.em &&& k
  let x := s.spl
  let g := Group.closeRegions 33 { s.grp with stack := brokenStack tok s.em brk s.grp.stack }
  (s.em = 0 → Completes (.brk m t tok h) s fun u => OnlyPc s u next) ∧
  (s.em ≠ 0 → brk = 0 → ¬ Covered s.grp.stack tok s.em → s.grp.stack.length + 1 ≤ 30 →
    Completes (.brk m t tok h) s fun u => OnlyGroup s u ∧ SplitAt s u next ∧
      u.grp = { s.grp with splits := u.grp.splits,
                           stack := ⟨0, tok, .join, x.sup, s.em, x.pc, 0⟩ :: s.grp.stack }) ∧
  (brk = 0 → Covered s.grp.stack tok s.em → Completes (.brk m t tok h) s fun u => OnlyPc s u next) ∧
  (brk ≠ 0 → stay = 0 → Completes (.brk m t tok h) s fun u => OnlyGroup s u ∧
    u.grp = (g.setSplit s.cur.entry { x with pc := targetPc s t, tok := tok }).settle) ∧
  (brk ≠ 0 → stay ≠ 0 → targetPc s t = next → Completes (.brk m t tok h) s fun u => OnlyGroup s u ∧
    u.grp = (g.setSplit s.cur.entry { g.split s.cur.entry with pc := next }).settle) ∧
  (brk ≠ 0 → stay ≠ 0 → targetPc s t ≠ next →
    let kept := g.setSplit s.cur.entry { g.split s.cur.entry with mask := stay, pc := next, tok := tok }
    let sup := (g.split s.cur.entry).sup
    (∀ f, f < 4 → (g.split f).v = false → (∀ e, e < f → (g.split e).v = true) →
      g.stack.length ≤ 30 → Completes (.brk m t tok h) s fun u => OnlyGroup s u ∧
        u.grp = (kept.setSplit f
          { Split.free with v := true, mask := brk, pc := targetPc s t, tok := tok, sup := sup }).settle) ∧
    ((∀ e, e < 4 → (g.split e).v = true) → g.stack.length + 1 ≤ 30 →
      Completes (.brk m t tok h) s fun u => OnlyGroup s u ∧
        u.grp = ({ kept with stack := ⟨0, tok, .deferred, sup, brk, targetPc s t, 0⟩ :: g.stack }).settle) ∧
    (30 < g.stack.length ∨ (∀ e, e < 4 → (g.split e).v = true) ∧ 30 ≤ g.stack.length → s.grp.stack.length + 1 ≤ 32 →
      Completes (.brk m t tok h) s fun u => TrapTaken s u 0x21))

/-- BRIV and CALLI (R142, R143): the lanes whose targets are good go there, one target moving the split and more of them dividing it
by the rule of R113 with a record of the token; CALLI writes the return address into s63 when a lane calls. The lanes whose target is
misaligned, and those of CALLI whose header cannot be fetched or names a budget above C (R131, R315), trap together with the cause of
the lowest (R121, R353); a divide that would pass depth 30 traps the whole split (R112). An empty em changes nothing. That the
divide and the trap are one step, and what the fault entries hold of lanes without an LCAUSE, is the model's reading (log 58). -/
def Obligations.LaneBranches : Prop := ∀ (s : State) (sa va tok : Nat) (h : Option Nat), va < s.grp.decl.c →
  let target := fun l => (s.grp.readS sa).setWidth 52 + (s.grp.readV va l).setWidth 52
  let next := nextPc s h false
  let parts := laneParts s.em target
  let link := fun (g : Group) => (g.writeS 63 (next.setWidth 64)).noteWrite (.s 63)
  let callable := fun l => ∃ ws es,
    s.fetchWords (quarterOf s.cur.gid) s.grp.ctx s.spl.sup (s.grp.carryLane l) (target l - 16#52).toNat 4 = .ok (ws, es) ∧
    1 ≤ ws.getD 1 0 % 256 ∧ ws.getD 1 0 % 256 ≤ 32 ∧ 8 * (ws.getD 1 0 % 256) ≤ s.grp.decl.c
  (s.em = 0 → Completes (.briv sa va tok h) s (fun u => OnlyPc s u next) ∧
    Completes (.calli sa va tok h) s (fun u => OnlyPc s u next)) ∧
  ((∀ l, s.em.getLsbD l = true → (target l).toNat % 4 = 0) →
    (∀ a, (∃ l, s.em.getLsbD l = true) → (∀ l, s.em.getLsbD l = true → target l = a) →
      Completes (.briv sa va tok h) s fun u => GoesAndSettles s u a) ∧
    (∀ g, 2 ≤ parts.length → s.grp.divide s.cur.entry tok s.pc true parts = some g →
      Completes (.briv sa va tok h) s fun u => OnlyGroup s u ∧ u.grp = g.settle)) ∧
  ((∀ l, s.em.getLsbD l = true → (target l).toNat % 4 = 0 ∧ callable l) →
    (∀ a, (∃ l, s.em.getLsbD l = true) → (∀ l, s.em.getLsbD l = true → target l = a) →
      Completes (.calli sa va tok h) s fun u => OnlyGroup s u ∧
        u.grp = (link (s.grp.setSplit s.cur.entry { s.spl with pc := a })).settle) ∧
    (∀ g, 2 ≤ parts.length → s.grp.divide s.cur.entry tok s.pc true parts = some g →
      Completes (.calli sa va tok h) s fun u => OnlyGroup s u ∧ u.grp = (link g).settle)) ∧
  (∀ f low, FailingLanes s (fun l => (target l).toNat % 4 ≠ 0) f low →
    let go := laneParts (s.em &&& ~~~f) target
    (∀ g, LanesGone s tok go g → g.stack.length + (if go = [] then 1 else 2) ≤ 32 →
      Completes (.briv sa va tok h) s fun u => PartTrapped s u g f 0x23 low ∧ u.grp.faults = s.grp.faults) ∧
    (2 ≤ go.length → s.grp.divide s.cur.entry tok s.pc true go = none → s.grp.stack.length + 1 ≤ 32 →
      Completes (.briv sa va tok h) s fun u => TrapTaken s u 0x21)) ∧
  (∀ (cause : Nat → Option (Nat × Nat)) (f : Word32) (low : Nat),
    (∀ l, s.em.getLsbD l = true →
      let words := s.fetchWords (quarterOf s.cur.gid) s.grp.ctx s.spl.sup (s.grp.carryLane l) (target l - 16#52).toNat 4
      ((target l).toNat % 4 ≠ 0 ∧ cause l = some (0x23, (target l).toNat)) ∨
      ((target l).toNat % 4 = 0 ∧ ∃ a, words = .error (.fault a) ∧ cause l = some (0x24, a)) ∨
      ((target l).toNat % 4 = 0 ∧ ¬ callable l ∧ (∃ x, words = .ok x) ∧ cause l = some (0x22, (target l).toNat)) ∨
      ((target l).toNat % 4 = 0 ∧ callable l ∧ cause l = none)) →
    FailingLanes s (fun l => cause l ≠ none) f low →
    let go := laneParts (s.em &&& ~~~f) target
    let c := ((cause low).getD (0, 0)).1
    (∀ g, LanesGone s tok go g → g.stack.length + (if go = [] then 1 else 2) ≤ 32 →
      Completes (.calli sa va tok h) s fun u => PartTrapped s u (if go = [] then g else link g) f c low ∧
        (c ≠ 0x24 → u.grp.faults = s.grp.faults) ∧
        (c = 0x24 → ∀ l, l < 32 →
          let x := Sparse.get LaneFault.zero u.grp.faults l
          (f.getLsbD l = false → x = Sparse.get LaneFault.zero s.grp.faults l) ∧
          (f.getLsbD l = true → x.acc = 3 ∧ x.space = 1 ∧ ∃ k a, cause l = some (k, a) ∧ x.addr = a ∧
            (k = 0x24 → x.lcause = 4)))) ∧
    (2 ≤ go.length → s.grp.divide s.cur.entry tok s.pc true go = none → s.grp.stack.length + 1 ≤ 32 →
      Completes (.calli sa va tok h) s fun u => TrapTaken s u 0x21))

/-- JOIN (R116, R117, R146): with no record that matches it does nothing; with one the split becomes joining; and
where it was the group's only split and held every lane of its record, the region closes at once. The token that the
split takes is the model's reading (log 63). -/
def Obligations.Joins : Prop := ∀ (s : State) (tok : Nat) (h : Option Nat),
  let next := nextPc s h false
  let words := 1 + (if h.isSome then 2 else 0)
  (¬ Covered s.grp.stack tok s.em → Completes (.join tok h) s fun u => OnlyPc s u next) ∧
  (Covered s.grp.stack tok s.em → Completes (.join tok h) s fun u => OnlyGroup s u ∧
    u.grp = (s.grp.setSplit s.cur.entry { s.spl with state := .joining, tok := tok, wait := .join words }).settle) ∧
  (s.em ≠ 0 → s.spl.v = true → s.cur.entry < 4 → (∀ e, e < 4 → e ≠ s.cur.entry → (s.grp.split e).v = false) →
    ∀ c p, s.grp.stack = [⟨c, tok, .join, s.spl.sup, s.em, p, 0⟩] →
      Completes (.join tok h) s fun u => OnlyGroup s u ∧ u.grp.stack = [] ∧
        u.spl = { Split.free with v := true, mask := s.em, pc := next, tok := 16, sup := s.spl.sup })

/-- EXIT at user level (R120, R147): the lanes of em leave every join record, the entry is free, what that completes
closes; a recipe whose lanes have all retired is over (R30); a group with no lane left is retiring. EXIT and TRET in a handler
(R122): the topmost trap record goes, its lanes retire or resume, and with no trap record left the held splits return to their
states. What becomes of AGE and of a recipe is the model's reading (log 63, log 69, log 72). -/
def Obligations.LeavingLanes : Prop := ∀ (s : State) (h : Option Nat), Sparse.wf Group.free s.groups = true →
  let e := s.cur.entry
  let out := fun (m : Word32) (l : List StackEntry) =>
    (l.map fun x => if x.kind = .join then { x with mask := x.mask &&& ~~~m } else x).filter fun x =>
      !(x.kind == .join && x.mask == 0)
  let retired := fun (g0 : Group) =>
    let g := g0.leaveRecipe (~~~g0.liveLanes)
    { g with exitPc := s.pc,
             life := if ((List.range 4).all fun k => !(g.split k).v) ∧ g.stack = [] ∧ g.life ≠ .free then .retiring
               else g.life }
  let alone := ∀ k, k < 4 → k ≠ e → (s.grp.split k).v = true → (s.grp.split k).sup = false
  (s.spl.sup = false → Completes (.exit h) s fun u => u = (s.setGrp (retired
    (({ s.grp with stack := out s.em s.grp.stack }).setSplit e Split.free).settle)).wakeGroup s.cur.gid) ∧
  (s.spl.sup = true → alone → ∀ r rest, s.grp.stack = r :: rest → r.kind = .trap →
    (∃ g, Released (({ s.grp with stack := out r.mask rest }).setSplit e Split.free) g ∧
      Completes (.exit h) s fun u => u = (s.setGrp (retired g.settle)).wakeGroup s.cur.gid) ∧
    (∃ g, Released (({ s.grp with stack := rest }).setSplit e
        { s.spl with pc := r.pc, mask := r.mask, tok := r.tok, sup := r.sup }) g ∧
      Completes (.tret h) s fun u => u = (s.setGrp g.settle).wakeGroup s.cur.gid))

/-- TRAP takes the trap with cause 0x8000 + code, at user level and in a handler (R148); a word that is no instruction takes
the illegal-instruction trap with its detail (R51). The codes by which a handler asks Umber and the host driver are
another statement's. -/
def Sys2Proof.Claims.TrapsTaken : Prop := ∀ (s : State) (code detail : Nat) (h : Option Nat),
  s.grp.stack.length + 1 ≤ 32 →
  ((s.spl.sup = true → code ≠ 0x7E00 ∧ code < 0x7F00) →
    Completes (.trap code h) s fun u => TrapTaken s u (0x8000 + code)) ∧
  Completes (.illegalInstructionWord detail) s fun u => TrapTaken s u (0x10 + detail)

/-- Where control instructions trap instead: TRET at user level (R149), a misaligned scalar target (R135), a divide, with or without a
free entry, or an opening BRK that would pass depth 30 (R112), a literal offset that is no multiple of 4 (R44); and the double
faults of R123, that of a word that is no instruction among them. -/
def Sys2Proof.Claims.ControlTraps : Prop := ∀ (s : State) (sa m tok code detail : Nat) (t : Off) (h : Option Nat),
  let k := if m = 16 then s.em else s.grp.readM m
  (s.grp.stack.length + 1 ≤ 32 →
    (s.spl.sup = false → Completes (.tret h) s fun u => TrapTaken s u 0x20) ∧
    (((s.grp.readS sa).setWidth 52 : Addr52).toNat % 4 ≠ 0 →
      Completes (.bri sa h) s (fun u => TrapTaken s u 0x23) ∧ Completes (.ret sa h) s (fun u => TrapTaken s u 0x23)) ∧
    (okTarget t → targetPc s t ≠ nextPc s h (isLit t) → s.em &&& k ≠ 0 → s.em &&& ~~~k ≠ 0 →
      30 ≤ s.grp.stack.length ∨ 29 ≤ s.grp.stack.length ∧ (∀ e, e < 4 → (s.grp.split e).v = true) →
      Completes (.brv m t tok h) s fun u => TrapTaken s u 0x21) ∧
    (okTarget t → 30 ≤ s.grp.stack.length → s.em ≠ 0 → s.em &&& k = 0 → ¬ Covered s.grp.stack tok s.em →
      Completes (.brk m t tok h) s fun u => TrapTaken s u 0x21) ∧
    (∀ x, x % 4 ≠ 0 → Completes (.br (.lit x) h) s (fun u => TrapTaken s u 0x16) ∧
      Completes (.call (.lit x) h) s (fun u => TrapTaken s u 0x16))) ∧
  (s.grp.stack.length = 32 → Completes (.illegalInstructionWord detail) s (fun u => DoubleFaulted s u) ∧
    ((s.spl.sup = true → code ≠ 0x7E00 ∧ code < 0x7F00) → Completes (.trap code h) s (fun u => DoubleFaulted s u)) ∧
    (s.spl.sup = false → Completes (.tret h) s fun u => DoubleFaulted s u)) ∧
  (s.spl.sup = true → (∃ r rest, s.grp.stack = r :: rest ∧ r.kind ≠ .trap) →
    Completes (.tret h) s (fun u => DoubleFaulted s u) ∧ Completes (.exit h) s (fun u => DoubleFaulted s u)) ∧
  (s.spl.sup = true → (∃ e, e < 4 ∧ e ≠ s.cur.entry ∧ (s.grp.split e).v = true ∧ (s.grp.split e).sup = true) →
    Completes (.tret h) s (fun u => DoubleFaulted s u) ∧ Completes (.exit h) s (fun u => DoubleFaulted s u))

namespace Sys2Proof.Claims

/-- The rewind record that a flashback point leaves (R30, R334): the PC and entry of its split, the saved set and recipe of
its table entry or the default set, and the control state as it stands before the instruction: the AGE and promotion of the split
are those it had before its slot chose it, which the model keeps beside cur. -/
def pointAt (s : State) : Rewind :=
  let g := s.grp
  let p := s.flashEntry g s.pc.toNat
  { pc := s.pc, entry := s.cur.entry,
    saved := p.elim .all fun x => .some (x.saved.map fun c => if c.1 = 0 then .v c.2 else if c.1 = 1 then .s c.2 else .m c.2),
    recipe := p.elim none fun x => x.recipe,
    snap := ⟨(g.setSplit s.cur.entry { s.spl with age := s.was.age, promoted := s.was.promoted }).splits, g.stack, g.w, g.t, g.f, g.crit, g.mxstat, g.latch, g.tlost, g.edge, g.recipes, g.fences⟩ }

/-- A flashback point is taken and the issuing split changes; nothing else. -/
def PointAndSplit (s t : State) (x : Split) : Prop :=
  OnlyGroup s t ∧ t.spl = x ∧ (∀ e, e ≠ s.cur.entry → t.grp.split e = s.grp.split e) ∧
  t.grp = { s.grp with splits := t.grp.splits, rewind := true, record := some (pointAt s) }

/-- The issuing group takes a flashback point in drain mode: it is rewound at once (R335 step 3). Its control state is that of the
point, it issues no more, what it asked of the governor is dropped and its cycles counted in counter 1, and the rewind counts
in counter 3 (R339, R397). -/
def RewoundAt (s t : State) : Prop :=
  let g := s.grp
  let d := s.cur.gid / 1024 / 4
  t = { s with groups := t.groups, dies := t.dies, contexts := t.contexts } ∧
  (∀ k, k ≠ s.cur.gid → t.group k = s.group k) ∧
  t.grp = { g with life := .flashed, rewind := true, record := some (pointAt s), drain := none, preempt := false,
                   splits := Sparse.mapVals Split.free
                     (fun _ x => if x.hold = .power ∨ x.hold = .granted then { x with hold := .none } else x) (pointAt s).snap.splits } ∧
  (∀ k, k ≠ d → t.die k = s.die k) ∧
  (∃ rs gs, t.die d = { s.die d with requests := rs, grants := gs } ∧
    ∀ p : Power, ((p ∈ rs ↔ p ∈ (s.die d).requests ∧ ∀ e, p.user ≠ .split s.cur.gid e) ∧
      (p ∈ gs ↔ p ∈ (s.die d).grants ∧ ∀ e, p.user ≠ .split s.cur.gid e))) ∧
  (∀ k, k ≠ g.ctx → t.context k = s.context k) ∧
  ∃ cs, t.context g.ctx = { s.context g.ctx with counters := cs }

/-- Does the group rewind at the next point: in drain mode and not critical (R335)? -/
def drainsNow (g : Group) : Prop := g.drain ≠ none ∧ ¬ (0 < g.crit ∧ g.critSpent = false)

/-- A handler has asked Umber or the host driver (R327, R352): the request's record is pushed, the split stands held on
the answer at the PC after the TRAP, the other splits become held, and the driver is told. -/
def Asks (s t : State) (cause : Nat) (hold : Hold) (next : Addr52) (escalated : Bool) (n : Notice) : Prop :=
  let x := s.spl
  t = { s with groups := t.groups, contexts := t.contexts, notices := s.notices ++ [n] } ∧
  (∀ k, k ≠ s.cur.gid → t.group k = s.group k) ∧
  t.grp = { s.grp with splits := t.grp.splits, life := .trapped, faultLane := t.grp.faultLane, rewind := true,
                       record := some (pointAt s), escalated := escalated,
                       stack := ⟨cause, x.tok, .trap, x.sup, x.mask, x.pc, 0⟩ :: s.grp.stack } ∧
  t.spl = { x with hold := hold, pc := next } ∧
  ∀ e, e < 4 → e ≠ s.cur.entry → t.grp.split e =
    if (s.grp.split e).v ∧ (s.grp.split e).state ≠ .held then
      { s.grp.split e with state := .held, hstate := (s.grp.split e).state }
    else s.grp.split e

/-- The topmost trap record. -/
def TopTrap (g : Group) (r : StackEntry) : Prop :=
  ∃ above below, g.stack = above ++ r :: below ∧ r.kind = .trap ∧ ∀ x ∈ above, x.kind ≠ .trap

/-- A position register (R16): SIZE in [31:16], INDEX in [15:0]. -/
def positionOf (size idx : Nat) : Word64 := (BitVec.ofNat 16 size ++ BitVec.ofNat 16 idx).setWidth 64

/-- The system registers as SRD to a scalar reads them, field by field: R16, R126, R332, R247, R201, R156, R340, R124,
R354, R260 and R93. -/
def IsSysValue (s : State) (r : SysReg) (x : Word64) : Prop :=
  let g := s.grp
  let c := s.context g.ctx
  let q := s.quarter (s.cur.gid / 1024)
  let m := (s.part c.part).qmask
  match r with
  | .lane => if s.em = 0 then x = positionOf 32 0 else
      ∃ l, l < 32 ∧ s.em.getLsbD l = true ∧ (∀ k, k < l → s.em.getLsbD k = false) ∧ x = positionOf 32 l
  | .group => x = positionOf g.pos.groupSize g.pos.groupIdx
  | .gang => x = positionOf g.pos.gangSize g.pos.gangIdx
  | .band => x = positionOf g.pos.bandSize g.pos.bandIdx
  | .span => x = positionOf g.pos.spanSize g.pos.spanIdx
  | .grid => x = positionOf g.pos.gridSize g.pos.gridIdx
  | .split => x = (BitVec.ofBool s.spl.sup ++ BitVec.ofNat 5 s.spl.tok ++ BitVec.ofNat 4 g.crit ++
      BitVec.ofNat 6 g.stack.length ++ BitVec.ofNat 3 ((List.range 4).filter fun e => (g.split e).v).length ++
      BitVec.ofNat 2 s.cur.entry ++ s.em).setWidth 64
  | .ctxid => x = (BitVec.ofNat 5 c.vf ++ BitVec.ofNat 16 g.ctx).setWidth 64
  | .partid => x = (BitVec.ofNat 5 c.part ++ BitVec.ofNat 8 ((List.range 32).filter fun k => m.getLsbD k).length ++
      m).setWidth 64
  | .accown => x = (BitVec.ofBool q.owned ++ BitVec.ofNat 16 q.octx).setWidth 64
  | .wsphase =>
      let k := s.clock / 2200
      let n := s.clock % 2200
      x = if n < 220 then (1#1 ++ BitVec.ofNat 4 k ++ BitVec.ofNat 16 (220 - n)).setWidth 64
        else (BitVec.ofNat 4 (k + 1) ++ BitVec.ofNat 16 (2200 - n)).setWidth 64
  | .clock => x = BitVec.ofNat 64 s.clock
  | .vtime => x = BitVec.ofNat 64 s.clock + c.vtoff
  | .fltcause => (∀ e, TopTrap g e → x = (e.mask ++ BitVec.ofNat 16 e.cause).setWidth 64) ∧ ((∀ e ∈ g.stack, e.kind ≠ .trap) → x = 0)
  | .fltpc => (∀ e, TopTrap g e → x = e.pc.setWidth 64) ∧ ((∀ e ∈ g.stack, e.kind ≠ .trap) → x = 0)
  | .fltaddr =>
      (∀ e, TopTrap g e → (e.cause = 0x24 ∨ 0x30 ≤ e.cause ∧ e.cause ≤ 0x33) →
        let f := Sparse.get LaneFault.zero g.faults g.faultLane
        let low := if e.mask.getLsbD g.faultLane then
            BitVec.ofNat 3 f.lcause ++ BitVec.ofNat 2 f.acc ++ BitVec.ofNat 2 f.space ++ BitVec.ofNat 52 f.addr
          else 0#59
        x = BitVec.ofNat 5 g.faultLane ++ low) ∧
      (∀ e, TopTrap g e → e.cause = 0x48 → x = g.faultWord) ∧
      (∀ e, TopTrap g e → ¬ (e.cause = 0x24 ∨ 0x30 ≤ e.cause ∧ e.cause ≤ 0x33 ∨ e.cause = 0x48) → x = 0)
  | .tlost => x = g.tlost.setWidth 64
  | .edge => x = g.edge.setWidth 64

/-- SRD may read the register at the level (R50). -/
def mayRead (sup : Bool) : SysReg → Prop
  | .fltcause | .fltaddr | .fltpc => sup = true
  | _ => True

end Sys2Proof.Claims

open Sys2Proof.Claims

/-- SLEEP (R152): a count of 0 goes on at once; any other, taken as at most 2^32 − 1, is a flashback point at which the
split waits until CLOCK reads k + c. A group in drain mode, unless critical, is rewound instead (R335). -/
def Sys2Proof.Claims.Sleeps : Prop := ∀ (s : State) (c : RegLit) (h : Option Nat),
  let n := match c with
    | .reg r => (s.grp.readS r).toNat
    | .lit x => x % 2 ^ 64
  let k := min n 0xFFFFFFFF
  let next := nextPc s h (match c with | .reg _ => false | .lit _ => true)
  (n = 0 → Completes (.sleep c h) s fun t => OnlyPc s t next) ∧
  (n ≠ 0 → ¬ drainsNow s.grp → Completes (.sleep c h) s fun t =>
    PointAndSplit s t { s.spl with state := .waiting, wait := .sleep k (s.clock + k) next }) ∧
  (n ≠ 0 → drainsNow s.grp → Completes (.sleep c h) s fun t => RewoundAt s t)

/-- The two requests of a handler: TRAP 0x7E00 at a stub of a function that is not translated (R327), and a host
escalation, TRAP 0x7F00 and above (R352), which goes on at once when the host has answered (the model's reading, log 46); and TRAP
0x7E00 where nothing is to be translated, which goes on at once. The first request for a stub starts its translation. In drain
mode the group is rewound instead (R335). That a request holds its split by a flag of the split is the model's (log 57, log
67). -/
def Obligations.HandlerRequests : Prop := ∀ (s : State) (code : Nat) (h : Option Nat),
  s.spl.sup = true →
  (drainsNow s.grp → 0x7F00 ≤ code ∨ code = 0x7E00 → Completes (.trap code h) s fun t => RewoundAt s t) ∧
  (¬ drainsNow s.grp → s.grp.stack.length + 1 ≤ 32 →
  let next := nextPc s h false
  (0x7F00 ≤ code → s.grp.answered = false → Completes (.trap code h) s fun t => t.contexts = s.contexts ∧
    Asks s t (0x8000 + code) .escalation next true (.escalation s.grp.ctx s.cur.gid (0x8000 + code))) ∧
  (0x7F00 ≤ code → s.grp.answered = true → Completes (.trap code h) s fun t => OnlyGroup s t ∧
    SplitAt s t next ∧ t.grp = { s.grp with splits := t.grp.splits, rewind := true, record := some (pointAt s),
                                            answered := false }) ∧
  (∀ r, TopTrap s.grp r → (∃ x ∈ (s.context s.grp.ctx).stubs, x.pc = r.pc.toNat ∧ x.state ≠ .published) →
    Completes (.trap 0x7E00 h) s fun t =>
      Asks s t 0xFE00 .translation next s.grp.escalated (.translation s.grp.ctx s.cur.gid r.pc.toNat) ∧
      (∀ k, k ≠ s.grp.ctx → t.context k = s.context k) ∧
      t.context s.grp.ctx = { s.context s.grp.ctx with stubs := (s.context s.grp.ctx).stubs.map fun x =>
        if x.pc = r.pc.toNat ∧ x.state = .stub then { x with state := .translating } else x }) ∧
  ((∀ r, TopTrap s.grp r → ∀ x ∈ (s.context s.grp.ctx).stubs, x.pc = r.pc.toNat → x.state = .published) →
    Completes (.trap 0x7E00 h) s fun t => OnlyGroup s t ∧ SplitAt s t next ∧
      t.grp = { s.grp with splits := t.grp.splits, rewind := true, record := some (pointAt s),
                           faultLane := t.grp.faultLane }))

/-- SPAWN (R132, R153): one group in the lowest free context of the core, in the spawning gang, with em of the
spawning split, v0 to v7 of its lanes, and the next GROUP INDEX, which SD receives; or the code of the first cause
that holds. Which context is the lowest rests on the numbering of log 10; what else the new group starts with, and a GROUP INDEX
past 0xFFFF, on log 64. -/
def Obligations.Spawns : Prop := ∀ (s : State) (sd va entry : Nat) (h : Option Nat),
  let g := s.grp
  let core := s.cur.gid / 64
  let y := s.gang g.gang
  let next := nextPc s h true
  let held := (s.groups.filter fun p => p.2.gang == g.gang && p.2.life != .free).length
  let free := fun k => (s.group (64 * core + k)).life = .free
  va ≤ 248 → va + 7 < g.decl.c → g.life ≠ .free →
  (s.spl.sup = true → Completes (.spawn sd va entry h) s fun t => PutsScalar s t sd (BitVec.ofInt 64 (-5)) next) ∧
  (s.spl.sup = false → s.em = 0 →
    Completes (.spawn sd va entry h) s fun t => PutsScalar s t sd (BitVec.ofInt 64 (-4)) next) ∧
  (s.spl.sup = false → s.em ≠ 0 → 16 ≤ held →
    Completes (.spawn sd va entry h) s fun t => PutsScalar s t sd (BitVec.ofInt 64 (-3)) next) ∧
  (s.spl.sup = false → s.em ≠ 0 → held < 16 → (∀ k, k < 64 → ¬ free k) →
    Completes (.spawn sd va entry h) s fun t => PutsScalar s t sd (BitVec.ofInt 64 (-1)) next) ∧
  (s.spl.sup = false → s.em ≠ 0 → held < 16 → ∀ k, k < 64 → free k → (∀ j, j < k → ¬ free j) →
    (s.poolFits core 1 g.decl = false →
      Completes (.spawn sd va entry h) s fun t => PutsScalar s t sd (BitVec.ofInt 64 (-2)) next) ∧
    (s.poolFits core 1 g.decl = true → Completes (.spawn sd va entry h) s fun t =>
      let n := t.group (64 * core + k)
      t = { s with groups := t.groups, gangs := t.gangs } ∧
      (∀ j, t.gang j = if j = g.gang then { y with nextIdx := y.nextIdx + 1 } else s.gang j) ∧
      (∀ j, j ≠ s.cur.gid → j ≠ 64 * core + k → t.group j = s.group j) ∧
      SplitAt s t next ∧ t.grp = { g with s := t.grp.s, splits := t.grp.splits, rewind := false } ∧
      (∀ r, t.grp.readS r = if r = sd ∧ sd ≠ 0 then BitVec.ofNat 64 y.nextIdx else g.readS r) ∧
      n = { Group.free with
              life := .resident, ctx := g.ctx, grid := g.grid, gang := g.gang, prio := g.prio, decl := g.decl,
              pos := { g.pos with groupIdx := y.nextIdx, gridIdx := 0xFFFF }, v := n.v, tan := n.tan,
              tlost := n.tlost, preempt := g.preempt,
              splits := [(0, { Split.free with v := true, pc := s.pc + BitVec.ofNat 52 entry, mask := s.em, tok := 16 })] } ∧
      (∀ r l, l < 32 → n.readV r l = if r < 8 ∧ s.em.getLsbD l then g.readV (va + r) l else 0) ∧
      (∀ r d l, r < 8 → d < g.decl.d → l < 32 → s.em.getLsbD l = true → r < g.decl.n →
        n.readT r d l = g.readT (va + r) d l) ∧
      ∀ l, l < 32 → n.tlost.getLsbD l = (s.em.getLsbD l && (List.range 8).any fun r =>
        decide (g.decl.n ≤ r) && (List.range g.decl.d).any fun d => !tanZero g.decl.bf16 (g.readT (va + r) d l))))

/-- SRD (R154): the whole register to a scalar; INDEX, the lane's own flag, or bits [31:0] to the lanes of em, with +0
tangents; and the access trap, detail 7, where R50 reserves the register for the handler. -/
def Sys2Proof.Claims.SystemReads : Prop := ∀ (s : State) (reg : Nat) (r : SysReg) (h : Option Nat),
  let next := nextPc s h false
  (mayRead s.spl.sup r → PutsSome s (.srd false reg r h) reg next (IsSysValue s r)) ∧
  (mayRead s.spl.sup r → reg < s.grp.decl.c → reg < 256 → Completes (.srd true reg r h) s fun t =>
    ∃ x, IsSysValue s r x ∧ OnlyGroup s t ∧ SplitAt s t next ∧
      t.grp = { s.grp with v := t.grp.v, tan := t.grp.tan, splits := t.grp.splits, rewind := t.grp.rewind } ∧
      (∀ q l, l < 32 → t.grp.readV q l = if q = reg ∧ s.em.getLsbD l then
          (match r with
            | .lane => BitVec.ofNat 32 l
            | .group | .gang | .band | .span | .grid => (x.setWidth 16).setWidth 32
            | .tlost => if s.grp.tlost.getLsbD l then 1 else 0
            | .edge => if s.grp.edge.getLsbD l then 1 else 0
            | _ => x.setWidth 32)
        else s.grp.readV q l) ∧
      (∀ q d l, q < 256 → l < 32 → t.grp.readT q d l =
        if q = reg ∧ s.em.getLsbD l ∧ d < s.grp.decl.d then 0 else s.grp.readT q d l) ∧
      (s.em ≠ 0 → RewindAfter s t [.v reg]) ∧ (s.em = 0 → t.grp.rewind = s.grp.rewind)) ∧
  (¬ mayRead s.spl.sup r → s.grp.stack.length + 1 ≤ 32 →
    Completes (.srd false reg r h) s (fun t => TrapTaken s t 0x17) ∧
    (reg < s.grp.decl.c → Completes (.srd true reg r h) s fun t => TrapTaken s t 0x17))

/-- SWR (R155): TLOST and EDGE take bits in the lanes of em (R94); a handler writes FLTCAUSE, FLTPC and FLTADDR of the
topmost trap record, of which the fields marked RO keep their value; every other access is detail 7. -/
def Sys2Proof.Claims.SystemWrites : Prop := ∀ (s : State) (reg : Nat) (h : Option Nat),
  let next := nextPc s h false
  let g := s.grp
  let x := g.readS reg
  let flags := fun (old : Word32) (new : Nat → Bool) (t' : Word32) =>
    ∀ l, l < 32 → t'.getLsbD l = if s.em.getLsbD l then new l else old.getLsbD l
  Completes (.swr false reg .tlost h) s (fun t => OnlyGroup s t ∧ SplitAt s t next ∧
    t.grp = { g with tlost := t.grp.tlost, splits := t.grp.splits } ∧ flags g.tlost x.getLsbD t.grp.tlost) ∧
  Completes (.swr false reg .edge h) s (fun t => OnlyGroup s t ∧ SplitAt s t next ∧
    t.grp = { g with edge := t.grp.edge, splits := t.grp.splits } ∧ flags g.edge x.getLsbD t.grp.edge) ∧
  (reg < g.decl.c →
    Completes (.swr true reg .tlost h) s (fun t => OnlyGroup s t ∧ SplitAt s t next ∧
      t.grp = { g with tlost := t.grp.tlost, splits := t.grp.splits } ∧
      flags g.tlost (fun l => (g.readV reg l).getLsbD 0) t.grp.tlost) ∧
    Completes (.swr true reg .edge h) s (fun t => OnlyGroup s t ∧ SplitAt s t next ∧
      t.grp = { g with edge := t.grp.edge, splits := t.grp.splits } ∧
      flags g.edge (fun l => (g.readV reg l).getLsbD 0) t.grp.edge)) ∧
  (s.spl.sup = true → ∀ above r below, g.stack = above ++ r :: below → r.kind = .trap →
    (∀ y ∈ above, y.kind ≠ .trap) →
    Completes (.swr false reg .fltcause h) s (fun t => OnlyGroup s t ∧ SplitAt s t next ∧
      t.grp = { g with splits := t.grp.splits, stack := above ++ { r with cause := x.toNat % 2 ^ 16 } :: below }) ∧
    Completes (.swr false reg .fltpc h) s (fun t => OnlyGroup s t ∧ SplitAt s t next ∧
      t.grp = { g with splits := t.grp.splits, stack := above ++ { r with pc := x.setWidth 52 &&& ~~~3#52 } :: below }) ∧
    ((r.cause = 0x24 ∨ 0x30 ≤ r.cause ∧ r.cause ≤ 0x33) → Completes (.swr false reg .fltaddr h) s (fun t =>
      OnlyGroup s t ∧ SplitAt s t next ∧
      t.grp = { g with splits := t.grp.splits, faultLane := (x >>> 59).toNat })) ∧
    (r.cause = 0x48 → Completes (.swr false reg .fltaddr h) s (fun t => OnlyGroup s t ∧ SplitAt s t next ∧
      t.grp = { g with splits := t.grp.splits, faultWord := x &&& 0xFFFFFFF00000#64 })) ∧
    (¬ (r.cause = 0x24 ∨ 0x30 ≤ r.cause ∧ r.cause ≤ 0x33 ∨ r.cause = 0x48) →
      Completes (.swr false reg .fltaddr h) s fun t => OnlyPc s t next)) ∧
  (g.stack.length + 1 ≤ 32 →
    (∀ r, r = .lane ∨ r = .group ∨ r = .gang ∨ r = .band ∨ r = .span ∨ r = .grid ∨ r = .split ∨ r = .ctxid ∨
      r = .partid ∨ r = .wsphase ∨ r = .clock ∨ r = .vtime → Completes (.swr false reg r h) s fun t => TrapTaken s t 0x17) ∧
    (s.spl.sup = false → ∀ r, r = .accown ∨ r = .fltcause ∨ r = .fltaddr ∨ r = .fltpc →
      Completes (.swr false reg r h) s fun t => TrapTaken s t 0x17) ∧
    (reg < g.decl.c → ∀ r, r ≠ .tlost → r ≠ .edge → Completes (.swr true reg r h) s fun t => TrapTaken s t 0x17))

/-! ## Vector forms -/

namespace Sys2Proof.Claims

/-- A lane instruction of n bytes has written the registers ds in the lanes of em, and nothing else: their elements, their
tangent slots in the dual range, the flags TLOST and EDGE of those lanes, and the PC (R31, R161, R186). -/
def LanesDone (s t : State) (ds : List Nat) (val : Nat → Nat → Word32) (tan : Nat → Nat → Nat → Word32)
    (tlost edge : Nat → Bool) : Prop :=
  OnlyGroup s t ∧ SplitAt s t (s.pc + 12) ∧
  t.grp = { s.grp with v := t.grp.v, tan := t.grp.tan, tlost := t.grp.tlost, edge := t.grp.edge,
                       splits := t.grp.splits, rewind := t.grp.rewind } ∧
  (∀ r l, l < 32 → t.grp.readV r l = if r ∈ ds ∧ s.em.getLsbD l then val r l else s.grp.readV r l) ∧
  (∀ r d l, r < 256 → l < 32 → t.grp.readT r d l =
    if r ∈ ds ∧ s.em.getLsbD l ∧ r < s.grp.decl.n ∧ d < s.grp.decl.d then tan r d l else s.grp.readT r d l) ∧
  (∀ l, l < 32 → t.grp.tlost.getLsbD l = (s.grp.tlost.getLsbD l || (s.em.getLsbD l && tlost l))) ∧
  (∀ l, l < 32 → t.grp.edge.getLsbD l = (s.grp.edge.getLsbD l || (s.em.getLsbD l && edge l))) ∧
  (s.em ≠ 0 → RewindAfter s t (ds.map RegId.v)) ∧ (s.em = 0 → t.grp.rewind = s.grp.rewind)

/-- The registers of an element of the type. -/
def pairOf (ty : Ty) (r : Nat) : List Nat := if ty.width = 64 then [r, r + 1] else [r]

/-- An element as a register holds it (R63): sign-extended in a signed type, zero-extended in the others, and in two
registers, low word first, in a 64-bit type. -/
def wordIn (ty : Ty) (vd r x : Nat) : Word32 :=
  if ty.width = 64 then BitVec.ofNat 32 (x / (if r = vd then 1 else 2 ^ 32))
  else if ty.isSigned then (BitVec.ofNat ty.width x).signExtend 32 else BitVec.ofNat 32 (x % 2 ^ ty.width)

/-- Does a register of the list carry a tangent in lane l that is not exactly zero (R82, R92)? -/
def carries (s : State) (rs : List Nat) (l : Nat) : Bool :=
  rs.any fun r => decide (r < s.grp.decl.n) && (List.range s.grp.decl.d).any fun d =>
    !(s.grp.readT r d l == 0 || s.grp.readT r d l == if s.grp.decl.bf16 then 0x8000#32 else 0x80000000#32)

/-- Are these exactly the tangents of a result that register vd takes: lost where it lies outside the dual range (R92)? -/
def lostIn (s : State) (vd : Nat) (tan : Nat → Nat → Word32) (l : Nat) : Bool :=
  decide (s.grp.decl.n ≤ vd) && (List.range s.grp.decl.d).any fun d =>
    !(tan d l == 0 || tan d l == if s.grp.decl.bf16 then 0x8000#32 else 0x80000000#32)

/-- The vector registers operand b names (R160). -/
def bRegs (ty : Ty) : VOp → List Nat
  | .vec r => pairOf ty r
  | _ => []

/-- An integer form: elements val, +0 tangents, TLOST where a source carries a tangent, no EDGE (R87, R170). -/
def IntForm (s : State) (i : Instr) (ty : Ty) (vd : Nat) (srcs : List Nat) (val : Nat → Nat) : Prop :=
  Completes i s fun t => LanesDone s t (pairOf ty vd) (fun r l => wordIn ty vd r (val l)) (fun _ _ _ => 0)
    (carries s srcs) (fun _ => false)

/-- Every register below the budget C (R52), and destinations that the encoding can name. -/
def Fits (s : State) (rs : List Nat) : Prop := ∀ r ∈ rs, r < s.grp.decl.c ∧ r < 256

/-- The field of a descriptor b of a 32-bit form (R168): bits b [4:0] on, min(b [13:8], 32) of them, none above 31. -/
def inField32 (b i : Nat) : Bool :=
  decide (b % 32 ≤ i) && decide (i < b % 32 + min (b / 256 % 64) 32) && decide (i < 32)

end Sys2Proof.Claims

open Sys2Proof.Claims

/-- The sums, products, saturating forms and choices of major 0x28 (R167), with a, b and c the values read in TY. -/
def Sys2Proof.Claims.VectorIntegerArithmetic : Prop := ∀ (s : State) (vd va vc : Nat) (b : VOp) (ty : Ty) (h : Nat),
  Fits s (pairOf ty vd ++ pairOf ty va ++ bRegs ty b ++ pairOf ty vc) →
  let w := ty.width
  let p := fun l => s.grp.elem ty va l
  let q := fun l => s.grp.opB ty b l
  let r := fun l => s.grp.elem ty vc l
  let v := fun x => intVal ty x
  let lo := if ty.isSigned then -(2 ^ (w - 1) : Int) else 0
  let hi := if ty.isSigned then (2 ^ (w - 1) : Int) - 1 else (2 ^ w : Int) - 1
  let wrap := fun (x : Int) => (x % (2 ^ w : Int)).toNat
  let clamp := fun (x : Int) => wrap (max lo (min hi x))
  let two := pairOf ty va ++ bRegs ty b
  ty.isInt = true →
  IntForm s (.vaddInt vd va b ty h) ty vd two (fun l => wrap (v (p l) + v (q l))) ∧
  IntForm s (.vsubInt vd va b ty h) ty vd two (fun l => wrap (v (p l) - v (q l))) ∧
  IntForm s (.vmulInt vd va b ty h) ty vd two (fun l => wrap (v (p l) * v (q l))) ∧
  IntForm s (.vmulh vd va b ty h) ty vd two (fun l => wrap (v (p l) * v (q l) / (2 ^ w : Int))) ∧
  IntForm s (.vmad vd va b vc ty h) ty vd (two ++ pairOf ty vc) (fun l => wrap (v (p l) * v (q l) + v (r l))) ∧
  IntForm s (.vabsd vd va b ty h) ty vd two (fun l => clamp |v (p l) - v (q l)|) ∧
  IntForm s (.vadds vd va b ty h) ty vd two (fun l => clamp (v (p l) + v (q l))) ∧
  IntForm s (.vsubs vd va b ty h) ty vd two (fun l => clamp (v (p l) - v (q l))) ∧
  IntForm s (.vminInt vd va b ty h) ty vd two (fun l => wrap (min (v (p l)) (v (q l)))) ∧
  IntForm s (.vmaxInt vd va b ty h) ty vd two (fun l => wrap (max (v (p l)) (v (q l))))

/-- The logic, shifts and rotation of major 0x28 (R167): shifts are by b mod w, and VSRA replicates bit w − 1. -/
def Sys2Proof.Claims.VectorLogicAndShifts : Prop := ∀ (s : State) (vd va : Nat) (b : VOp) (ty : Ty) (h : Nat),
  Fits s (pairOf ty vd ++ pairOf ty va ++ bRegs ty b) → ty.isInt = true →
  let w := ty.width
  let p := fun l => s.grp.elem ty va l
  let q := fun l => s.grp.opB ty b l
  let k := fun l => q l % w
  let two := pairOf ty va ++ bRegs ty b
  IntForm s (.vand vd va b ty h) ty vd two (fun l => p l &&& q l) ∧
  IntForm s (.vor vd va b ty h) ty vd two (fun l => p l ||| q l) ∧
  IntForm s (.vxor vd va b ty h) ty vd two (fun l => p l ^^^ q l) ∧
  IntForm s (.vandn vd va b ty h) ty vd two (fun l => p l &&& (2 ^ w - 1 - q l)) ∧
  IntForm s (.vnot vd va ty h) ty vd (pairOf ty va) (fun l => 2 ^ w - 1 - p l) ∧
  IntForm s (.vshl vd va b ty h) ty vd two (fun l => p l * 2 ^ k l % 2 ^ w) ∧
  IntForm s (.vshr vd va b ty h) ty vd two (fun l => p l / 2 ^ k l) ∧
  IntForm s (.vsra vd va b ty h) ty vd two (fun l =>
    p l / 2 ^ k l + if 2 ^ (w - 1) ≤ p l then 2 ^ w - 2 ^ (w - k l) else 0) ∧
  IntForm s (.vrot vd va b ty h) ty vd two (fun l => p l * 2 ^ k l % 2 ^ w + p l / 2 ^ (w - k l))

/-- The fields, counts and byte permute of major 0x28 (R168, R169), bit by bit. -/
def Sys2Proof.Claims.VectorBits : Prop := ∀ (s : State) (vd va vc : Nat) (b : VOp) (ty : Ty) (h : Nat),
  Fits s ([vd, va, vc] ++ bRegs .n32 b) → ty = .i32 ∨ ty = .n32 →
  let p := fun l => s.grp.elem .n32 va l
  let q := fun l => s.grp.opB .n32 b l
  let r := fun l => s.grp.elem .n32 vc l
  let pos := fun l => q l % 32
  let len := fun l => min (min (q l / 256 % 64) 32) (32 - pos l)
  let two := va :: bRegs .n32 b
  (∃ x : Nat → Nat, (∀ l, x l < 2 ^ 32 ∧ ∀ i, i < 32 → (x l).testBit i =
      if i < len l then (p l).testBit (pos l + i)
      else decide (ty = .i32) && decide (0 < len l) && (p l).testBit (pos l + len l - 1)) ∧
    IntForm s (.vbfx vd va b ty h) ty vd two x) ∧
  (∃ x : Nat → Nat, (∀ l, x l < 2 ^ 32 ∧ ∀ i, i < 32 → (x l).testBit i =
      if inField32 (q l) i then (p l).testBit (i - pos l) else (r l).testBit i) ∧
    IntForm s (.vbfi vd va b vc h) .n32 vd (two ++ [vc]) x) ∧
  (∃ x : Nat → Nat, (∀ l, x l ≤ 32 ∧ (∀ i, i < 32 → 32 ≤ i + x l → (p l).testBit i = false) ∧
      (x l < 32 → (p l).testBit (31 - x l) = true)) ∧ IntForm s (.vclz vd va h) .n32 vd [va] x) ∧
  IntForm s (.vpop vd va h) .n32 vd [va] (fun l => ((List.range 32).filter fun i => (p l).testBit i).length) ∧
  (∃ x : Nat → Nat, (∀ l, x l < 2 ^ 32 ∧ ∀ i, i < 32 → (x l).testBit i = (p l).testBit (31 - i)) ∧
    IntForm s (.vbrev vd va h) .n32 vd [va] x) ∧
  (∃ x : Nat → Nat, (∀ l, x l < 2 ^ 32 ∧ ∀ k, k < 4 →
      let sel := r l / 2 ^ (4 * k) % 16
      let byte := (p l + 2 ^ 32 * q l) / 2 ^ (8 * (sel % 8)) % 256
      x l / 2 ^ (8 * k) % 256 = if sel < 8 then byte else if 128 ≤ byte then 255 else 0) ∧
    IntForm s (.vprmt vd va b vc h) .n32 vd (two ++ [vc]) x)

/-- VSEL and VMOV (R169, R170): the element delivered with its tangents, which a destination outside the dual range drops, VSEL
without a flag and VMOV with TLOST (of an integer type by the reading of log 60);
VCMP (R176): the bits of md in the lanes of em, and EDGE where a floating operand carries a tangent. -/
def Obligations.SelectMoveCompare : Prop := ∀ (s : State) (vd va mc md : Nat) (b : VOp) (ty : Ty) (c : Cond) (h : Nat),
  let k := if mc = 16 then s.em else s.grp.readM mc
  let tb := fun d l => match b with
    | .vec r => s.grp.readT r d l
    | _ => 0
  let tsel := fun d l => if k.getLsbD l then s.grp.readT va d l else tb d l
  (ty.is32 = true → Fits s ([vd, va] ++ bRegs ty b) →
    Completes (.vsel vd va b mc ty h) s (fun t => LanesDone s t [vd]
      (fun r l => wordIn ty vd r (if k.getLsbD l then s.grp.elem ty va l else s.grp.opB ty b l))
      (fun _ d l => tsel d l) (fun _ => false) (fun _ => false)) ∧
    Completes (.vmov vd b ty h) s (fun t => LanesDone s t [vd] (fun r l => wordIn ty vd r (s.grp.opB ty b l))
      (fun _ d l => tb d l) (lostIn s vd tb) (fun _ => false))) ∧
  (Fits s (pairOf ty va ++ bRegs ty b) → (ty.isInt = true → c ≠ .ord ∧ c ≠ .uno) →
    let x := fun l => s.grp.elem ty va l
    let y := fun l => s.grp.opB ty b l
    let holds := fun l =>
      if ty.isFloat then
        let u := (fmtOf ty).value (x l)
        let v := (fmtOf ty).value (y l)
        let ordered := !u.isNaN && !v.isNaN
        match c with
        | .eq => ordered && XVal.eq u v
        | .ne => !(ordered && XVal.eq u v)
        | .lt => ordered && XVal.lt u v
        | .le => ordered && (XVal.lt u v || XVal.eq u v)
        | .gt => ordered && XVal.lt v u
        | .ge => ordered && (XVal.lt v u || XVal.eq u v)
        | .ord => ordered
        | .uno => !ordered
      else
        let u := intVal ty (x l)
        let v := intVal ty (y l)
        match c with
        | .eq => decide (u = v)
        | .ne => decide (u ≠ v)
        | .lt => decide (u < v)
        | .le => decide (u ≤ v)
        | .gt => decide (v < u)
        | _ => decide (v ≤ u)
    Completes (.vcmp c md va b ty h) s fun t => OnlyGroup s t ∧ SplitAt s t (s.pc + 12) ∧
      t.grp = { s.grp with m := t.grp.m, edge := t.grp.edge, splits := t.grp.splits, rewind := t.grp.rewind } ∧
      (∀ j, j ≠ md → t.grp.readM j = s.grp.readM j) ∧ (s.em ≠ 0 → RewindAfter s t [.m md]) ∧
      (∀ l, l < 32 → (t.grp.readM md).getLsbD l =
        if s.em.getLsbD l then holds l else (s.grp.readM md).getLsbD l) ∧
      (∀ l, l < 32 → t.grp.edge.getLsbD l = (s.grp.edge.getLsbD l ||
        (s.em.getLsbD l && ty.isFloat && carries s (pairOf ty va ++ bRegs ty b) l))))

namespace Sys2Proof.Claims

/-- A floating form: elements val, tangents by slot, TLOST where they are dropped (R92), and EDGE (R90). -/
def FloatForm (s : State) (i : Instr) (ty : Ty) (vd : Nat) (val : Nat → Nat) (tan : Nat → Nat → Word32)
    (edge : Nat → Bool) : Prop :=
  Completes i s fun t => LanesDone s t [vd] (fun r l => wordIn ty vd r (val l)) (fun _ d l => tan d l)
    (lostIn s vd tan) edge

/-- The value of a tangent (R82), and that of operand b, which a scalar or an immediate gives none (R89). -/
def tanOf (s : State) (r d l : Nat) : XVal := s.grp.tanVal (s.grp.readT r d l)
def tanOfB (s : State) (b : VOp) (d l : Nat) : XVal :=
  s.grp.tanVal (match b with
    | .vec r => s.grp.readT r d l
    | _ => 0)

/-- One of the three types of major 0x38, with registers that fit (R52, R171). -/
def FpOk (s : State) (ty : Ty) (rs : List Nat) : Prop := ty.isFp3 = true ∧ Fits s rs

/-- Every operand's pattern has the sign bit in the top bit of its width. -/
def signOf (ty : Ty) (x : Nat) : Bool := x.testBit (ty.width - 1)

end Sys2Proof.Claims

open Sys2Proof.Claims

/-- VADD, VSUB, VMUL, VFMA, VFMS and VFNMA (R171, R172): the exact result rounded once in the form's mode, and the tangents
of R85, rounded nearest-even into the tangent format. Which flags these forms set is the model's reading (log 60). -/
def Sys2Proof.Claims.FloatSumsAndProducts : Prop := ∀ (s : State) (vd va vc : Nat) (b : VOp) (ty : Ty) (rm : Rm) (h : Nat),
  FpOk s ty ([vd, va, vc] ++ bRegs ty b) →
  let f := fmtOf ty
  let a := fun l => f.value (s.grp.elem ty va l)
  let y := fun l => f.value (s.grp.opB ty b l)
  let c := fun l => f.value (s.grp.elem ty vc l)
  let sum := XVal.addIn (rm == .rdn)
  let rnd := roundTo f (rndOf rm)
  let ta := tanOf s va
  let tb := tanOfB s b
  let tc := tanOf s vc
  let cross := fun d l => XVal.add (sz (ta d l) (y l)) (sz (tb d l) (a l))
  let R := s.grp.roundT
  let none := fun (_ : Nat) => false
  FloatForm s (.vaddFp vd va b ty rm h) ty vd (fun l => rnd (sum (a l) (y l))) (fun d l => R (XVal.add (ta d l) (tb d l))) none ∧
  FloatForm s (.vsubFp vd va b ty rm h) ty vd (fun l => rnd (sum (a l) (y l).neg))
    (fun d l => R (XVal.add (ta d l) (tb d l).neg)) none ∧
  FloatForm s (.vmulFp vd va b ty rm h) ty vd (fun l => rnd (XVal.mul (a l) (y l))) (fun d l => R (cross d l)) none ∧
  FloatForm s (.vfma vd va b vc ty rm h) ty vd (fun l => rnd (sum (XVal.mul (a l) (y l)) (c l)))
    (fun d l => R (XVal.add (cross d l) (tc d l))) none ∧
  FloatForm s (.vfms vd va b vc ty rm h) ty vd (fun l => rnd (sum (XVal.mul (a l) (y l)) (c l).neg))
    (fun d l => R (XVal.add (cross d l) (tc d l).neg)) none ∧
  FloatForm s (.vfnma vd va b vc ty rm h) ty vd (fun l => rnd (sum (c l) (XVal.mul (a l) (y l)).neg))
    (fun d l => R (XVal.add (tc d l) (cross d l).neg)) none

/-- VMIN and VMAX (R173), VABS, VNEG and VCPYSGN (R172), and VCLASS (R174), with the tangents of R85 and EDGE of R90. -/
def Sys2Proof.Claims.FloatChoices : Prop := ∀ (s : State) (vd va : Nat) (b : VOp) (ty : Ty) (h : Nat),
  FpOk s ty ([vd, va] ++ bRegs ty b) →
  let f := fmtOf ty
  let a := fun l => s.grp.elem ty va l
  let y := fun l => s.grp.opB ty b l
  let half := 2 ^ (ty.width - 1)
  let nan := fun x => (f.value x).isNaN
  let tb := fun d l => match b with
    | .vec r => s.grp.readT r d l
    | _ => 0
  let signed := fun l (neg : Bool) => if nan (a l) then f.canonicalNaN else a l % half + if neg then half else 0
  let none := fun (_ : Nat) => false
  let slope := fun l => if nan (a l) then XVal.nan else if (f.value (a l)).isZero then XVal.fin false 0 1
    else XVal.fin (signOf ty (a l)) 1 1
  FloatForm s (.vminFp vd va b ty h) ty vd
    (fun l => if nan (a l) || nan (y l) then f.canonicalNaN
      else if XVal.lt (f.value (y l)) (f.value (a l)) then y l else a l)
    (fun d l => if XVal.lt (f.value (y l)) (f.value (a l)) then tb d l else s.grp.readT va d l) none ∧
  FloatForm s (.vmaxFp vd va b ty h) ty vd
    (fun l => if nan (a l) || nan (y l) then f.canonicalNaN
      else if XVal.lt (f.value (a l)) (f.value (y l)) then y l else a l)
    (fun d l => if XVal.lt (f.value (a l)) (f.value (y l)) then tb d l else s.grp.readT va d l) none ∧
  FloatForm s (.vabs vd va ty h) ty vd (fun l => signed l false)
    (fun d l => s.grp.roundT (sz (tanOf s va d l) (slope l))) none ∧
  FloatForm s (.vneg vd va ty h) ty vd (fun l => signed l (!signOf ty (a l)))
    (fun d l => s.grp.roundT (tanOf s va d l).neg) none ∧
  FloatForm s (.vcpysgn vd va b ty h) ty vd (fun l => signed l (signOf ty (y l)))
    (fun d l => s.grp.roundT (if signOf ty (a l) = signOf ty (y l) then tanOf s va d l else (tanOf s va d l).neg)) none ∧
  ∃ k : Nat → Nat,
    (∀ l, k l < 9 ∧
      (k l = 8 ↔ f.value (a l) = .nan) ∧ (k l = 0 ↔ f.value (a l) = .inf true) ∧ (k l = 7 ↔ f.value (a l) = .inf false) ∧
      (k l = 3 ↔ a l = half) ∧ (k l = 4 ↔ a l = 0) ∧
      ((k l = 1 ∨ k l = 2 ∨ k l = 3 ∨ k l = 0) → signOf ty (a l) = true) ∧
      ((k l = 4 ∨ k l = 5 ∨ k l = 6 ∨ k l = 7) → signOf ty (a l) = false) ∧
      ((k l = 2 ∨ k l = 5) ↔ a l % half ≠ 0 ∧ a l % half < 2 ^ f.frac)) ∧
    Completes (.vclass vd va ty h) s fun t => LanesDone s t [vd] (fun _ l => BitVec.ofNat 32 (2 ^ k l))
      (fun _ _ _ => 0) none (carries s [va])

/-- VRCP, VRSQ and VSQRT in every mode, and VEXP2, VLOG2, VSIN and VCOS, at the special operands of R172, VEXP2 also at its
smallest results, with the tangents of R85. What the last four deliver elsewhere is the model's own computation (log 6). -/
def Sys2Proof.Claims.FloatFunctionForms : Prop := ∀ (s : State) (vd va : Nat) (ty : Ty) (rm : Rm) (h : Nat),
  FpOk s ty [vd, va] →
  let f := fmtOf ty
  let a := fun l => f.value (s.grp.elem ty va l)
  let T := fun (y : Nat → Nat) (p : XVal → XVal → XVal) (d l : Nat) =>
    s.grp.roundT (sz (tanOf s va d l) (p (a l) (f.value (y l))))
  let none := fun (_ : Nat) => false
  let one := XVal.fin false 1 1
  let inf := fun (neg : Bool) => f.infBits + if neg then 2 ^ (ty.width - 1) else 0
  let zero := fun (neg : Bool) => if neg then 2 ^ (ty.width - 1) else 0
  let ln2 := Fmt.f32.value 0x3F317218
  let slope := fun (k q : XVal) => if q.isZero then XVal.inf false else XVal.div one (XVal.mul k q)
  let neg := fun l => (a l).isNeg && !(a l).isZero
  let least := match ty with
    | .f32 => 149
    | .f16 => 24
    | _ => 133
  (let y := fun l => roundTo f (rndOf rm) (XVal.div one (a l))
   FloatForm s (.vrcp vd va ty rm h) ty vd y (T y fun _ v => (XVal.mul v v).neg) none) ∧
  (∃ y : Nat → Nat, (∀ l, (a l = .nan → y l = f.canonicalNaN) ∧ (neg l = true → y l = f.canonicalNaN) ∧
      (∀ g d, a l = .fin g 0 d → y l = inf g) ∧ (a l = .inf false → y l = 0) ∧
      (∀ n d, a l = .fin false n d → n ≠ 0 → y l = roundTo f (rndOf rm) (XVal.sqrt (.fin false d n)))) ∧
    FloatForm s (.vrsq vd va ty rm h) ty vd y
      (T y fun _ v => XVal.mul (XVal.mul (XVal.mul (.fin true 1 2) v) v) v) none) ∧
  (let y := fun l => roundTo f (rndOf rm) (XVal.sqrt (a l))
   (∀ l, (a l = .nan → y l = f.canonicalNaN) ∧ (neg l = true → y l = f.canonicalNaN) ∧
      (∀ g d, a l = .fin g 0 d → y l = zero g) ∧ (a l = .inf false → y l = inf false)) ∧
    FloatForm s (.vsqrt vd va ty rm h) ty vd y (T y fun _ v => slope (.fin false 2 1) v) none) ∧
  (∃ y : Nat → Nat, (∀ l, (a l = .nan → y l = f.canonicalNaN) ∧ (a l = .inf true → y l = 0) ∧
      (a l = .inf false → y l = inf false) ∧
      ∀ n d, a l = .fin true n d → ((least + 1) * d ≤ n → y l = 0) ∧ (least * d ≤ n → n < (least + 1) * d → y l = 1)) ∧
    FloatForm s (.vexp2 vd va ty h) ty vd y (T y fun _ v => XVal.mul ln2 v) none) ∧
  (∃ y : Nat → Nat, (∀ l, (a l = .nan → y l = f.canonicalNaN) ∧ (neg l = true → y l = f.canonicalNaN) ∧
      (∀ g d, a l = .fin g 0 d → y l = inf true) ∧ (a l = .inf false → y l = inf false) ∧
      (∀ d, a l = .fin false d d → 0 < d → y l = 0)) ∧
    FloatForm s (.vlog2 vd va ty h) ty vd y (T y fun x _ => slope ln2 x) none) ∧
  (∃ y z : Nat → Nat, (∀ l, (a l = .nan → y l = f.canonicalNaN ∧ z l = f.canonicalNaN) ∧
      (∀ g, a l = .inf g → y l = f.canonicalNaN ∧ z l = f.canonicalNaN) ∧
      (∀ g d, a l = .fin g 0 d → y l = zero g ∧ z l = roundTo f .rne one)) ∧
    FloatForm s (.vsin vd va ty h) ty vd y (fun d l => s.grp.roundT (sz (tanOf s va d l) (f.value (z l)))) none ∧
    FloatForm s (.vcos vd va ty h) ty vd z (fun d l => s.grp.roundT (sz (tanOf s va d l) (f.value (y l)).neg)) none)

/-- VFLOOR, VCEIL, VTRUNC and VROUND (R171): the integer of the mode, with the sign of a; VFRACT: a − floor(a), rounded
RDN, a zero difference +0 (R172). All set EDGE (R90). -/
def Sys2Proof.Claims.FloatToIntegral : Prop := ∀ (s : State) (vd va : Nat) (ty : Ty) (rm : Rm) (h : Nat),
  FpOk s ty [vd, va] →
  let f := fmtOf ty
  let a := fun l => f.value (s.grp.elem ty va l)
  let edge := carries s [va]
  let whole := fun (up : Bool → Nat → Nat → Nat → Bool) (l : Nat) => match a l with
    | .nan => f.canonicalNaN
    | .inf g => f.infBits + if g then 2 ^ (ty.width - 1) else 0
    | .fin g n d => roundTo f .rne (.fin g (n / d + if up g (n / d) (n % d) d then 1 else 0) 1)
  let near := fun (_ : Bool) (q r d : Nat) => decide (d < 2 * r) || (decide (2 * r = d) && decide (q % 2 = 1))
  let down := fun (g : Bool) (_ r _ : Nat) => g && decide (r ≠ 0)
  let up := fun (g : Bool) (_ r _ : Nat) => !g && decide (r ≠ 0)
  let zero := fun (_ : Bool) (_ _ _ : Nat) => false
  let rounds := match rm with
    | .rne => near
    | .rtz => zero
    | .rup => up
    | .rdn => down
  FloatForm s (.vfloor vd va ty h) ty vd (whole down) (fun _ _ => 0) edge ∧
  FloatForm s (.vceil vd va ty h) ty vd (whole up) (fun _ _ => 0) edge ∧
  FloatForm s (.vtrunc vd va ty h) ty vd (whole zero) (fun _ _ => 0) edge ∧
  FloatForm s (.vround vd va ty rm h) ty vd (whole rounds) (fun _ _ => 0) edge ∧
  FloatForm s (.vfract vd va ty h) ty vd
    (fun l => match a l with
      | .fin g n d =>
        let floor := (if g then -(n : Int) else n) / (d : Int)
        roundTo f .rdn (.fin false ((if g then -(n : Int) else n) - floor * d).toNat d)
      | _ => f.canonicalNaN)
    (fun d l => s.grp.roundT (tanOf s va d l)) edge

/-- The tangent forms (R177, R178): they write slots of registers in the dual range, discard a write to any other, which
changes no register and sets TLOST when the tangent is not exactly zero, and are illegal, detail 6, at a slot at or above D (R52). -/
def Obligations.TangentForms : Prop := ∀ (s : State) (vd va j k : Nat) (b : VOp) (h : Nat),
  Fits s ([vd, va] ++ bRegs .f32 b) →
  let seed := fun l => s.grp.roundT (Fmt.f32.value (s.grp.opB .f32 b l))
  let none := fun (_ : Nat) => false
  let old := s.grp.readT vd
  let lost := fun (t : Nat → Word32) => lostIn s vd (fun d l => if d = j then t l else 0)
  let keep := fun r l => s.grp.readV r l
  let ds := if vd < s.grp.decl.n then [vd] else []
  let wide := fun l => if s.grp.decl.bf16 then
      BitVec.ofNat 32 (roundTo Fmt.f32 .rne (Fmt.bf16.value (s.grp.readT va j l).toNat))
    else s.grp.readT va j l
  (j < s.grp.decl.d →
  Completes (.tseed vd j b h) s (fun t => LanesDone s t ds keep (fun _ d l => if d = j then seed l else 0)
    (lost seed) none) ∧
  Completes (.tset vd j b h) s (fun t => LanesDone s t ds keep (fun _ d l => if d = j then seed l else old d l)
    (lost seed) none) ∧
  Completes (.tzero vd (some j) h) s (fun t => LanesDone s t ds keep (fun _ d l => if d = j then 0 else old d l)
    none none) ∧
  Completes (.tzero vd .none h) s (fun t => LanesDone s t ds keep (fun _ _ _ => 0) none none) ∧
  Completes (.tget vd va j h) s (fun t => LanesDone s t [vd] (fun _ l => wide l) (fun _ _ _ => 0) none none) ∧
  (k < s.grp.decl.d → Completes (.tmov vd j va k h) s (fun t => LanesDone s t ds keep
    (fun _ d l => if d = j then s.grp.readT va k l else old d l) (lost fun l => s.grp.readT va k l) none))) ∧
  (s.grp.decl.d ≤ k → s.grp.stack.length + 1 ≤ 32 →
    ∀ i, i = .tseed vd k b h ∨ i = .tset vd k b h ∨ i = .tzero vd (some k) h ∨ i = .tget vd va k h ∨
      i = .tmov vd k va j h ∨ i = .tmov vd j va k h ∨ (s.grp.decl.d = 0 ∧ i = .tzero vd .none h) →
    Completes i s fun t => TrapTaken s t 0x16)

/-- VCVT and VCVTSR (R66, R179, R180): the value rounded into a floating type, or rounded and saturated into an
integer type, NaN as 0; tangents pass between floating types and set EDGE into integers (R88). A conversion between
integer types sets no flag (log 60). -/
def Sys2Proof.Claims.Conversions : Prop := ∀ (s : State) (vd va n : Nat) (b : VOp) (ty ts : Ty) (rm : Rm) (h : Nat),
  let lo := fun (t : Ty) => if t.isSigned then -(2 ^ (t.width - 1) : Int) else 0
  let hi := fun (t : Ty) => if t.isSigned then (2 ^ (t.width - 1) : Int) - 1 else (2 ^ t.width : Int) - 1
  let val := fun (t : Ty) (x : Nat) => if t.isFloat then (fmtOf t).value x else XVal.ofInt (intVal t x)
  let conv := fun (dst src : Ty) (m : Rnd) (x : Nat) =>
    if dst.isFloat then roundTo (fmtOf dst) m (val src x)
    else match val src x with
      | .nan => 0
      | .inf g => ((if g then lo dst else hi dst) % (2 ^ dst.width : Int)).toNat
      | .fin g p q =>
        let r := (p / q + if roundsUp m g (p / q) (p % q) q then 1 else 0 : Nat)
        ((max (lo dst) (min (hi dst) (if g then -(r : Int) else r))) % (2 ^ dst.width : Int)).toNat
  let tan := fun (src : Ty) (d l : Nat) => if src.isFloat && ty.isFloat then s.grp.readT va d l else 0
  let edge := fun (src : Ty) (l : Nat) => src.isFloat && ty.isInt && carries s [va] l
  (ty ≠ ts → Fits s (pairOf ty vd ++ pairOf ts va) →
    Completes (.vcvt vd va ty ts rm h) s fun t => LanesDone s t (pairOf ty vd)
      (fun r l => wordIn ty vd r (conv ty ts (rndOf rm) (s.grp.elem ts va l))) (fun _ d l => tan ts d l)
      (lostIn s vd (tan ts)) (edge ts)) ∧
  (1 ≤ n → n ≤ 24 → ty.width ≤ 32 → Fits s ([vd, va] ++ bRegs .n32 b) →
    Completes (.vcvtsr vd va b n ty h) s fun t => LanesDone s t [vd]
      (fun r l => wordIn ty vd r (conv ty .f32 (.sr (s.grp.opB .n32 b l) n) (s.grp.elem .f32 va l)))
      (fun _ d l => tan .f32 d l) (lostIn s vd (tan .f32)) (edge .f32))

/-- The generator (R181), VPACK and VUNPK (R182, R183). -/
def Sys2Proof.Claims.RandomAndPacked : Prop := ∀ (s : State) (vd va k : Nat) (b : VOp) (ty ts : Ty) (hi : Bool) (rm : Rm) (h : Nat),
  let step := fun x => (x * 0x5851F42D4C957F2D + 0x14057B7EF767814F) % 2 ^ 64
  let none := fun (_ : Nat) => false
  let zero := fun (_ _ _ : Nat) => (0 : Word32)
  let cvt := fun x => convert ty ts (rndOf rm) x
  let S := fun l => s.grp.elem .n64 va l
  let old := fun l => s.grp.elem .n32 vd l
  let p := fun l => cvt (s.grp.elem ts va l)
  let q := fun l => cvt (s.grp.opB ts b l)
  (Fits s [vd, va, va + 1] → vd ≠ va → vd ≠ va + 1 →
    Completes (.vrand vd va h) s fun t => LanesDone s t [vd, va, va + 1]
      (fun r l => if r = vd then
          ((BitVec.ofNat 32 (((S l / 2 ^ 18) ^^^ S l) / 2 ^ 27)).rotateRight (S l / 2 ^ 59) : Word32)
        else BitVec.ofNat 32 (step (S l) / if r = va then 1 else 2 ^ 32)) zero none none) ∧
  (Fits s [vd, vd + 1, va] → Completes (.vrseed vd va h) s fun t => LanesDone s t [vd, vd + 1]
    (fun r l => BitVec.ofNat 32 (step ((step 0 + s.grp.elem .n32 va l) % 2 ^ 64) / if r = vd then 1 else 2 ^ 32))
    zero none none) ∧
  (Fits s ([vd, va] ++ bRegs ts b) → ts.is32 = true → ty.width ≤ 16 →
    Completes (.vpack vd va b ty ts hi rm h) s fun t => LanesDone s t [vd]
      (fun _ l => BitVec.ofNat 32 (
        if ty.width = 16 then p l + 2 ^ 16 * q l
        else if hi then old l % 2 ^ 16 + 2 ^ 16 * p l + 2 ^ 24 * q l
        else p l + 2 ^ 8 * q l + old l / 2 ^ 16 * 2 ^ 16)) zero
      (carries s ([va] ++ bRegs ts b ++ if ty.width = 8 then [vd] else [])) none) ∧
  (Fits s [vd, va] → ty.is32 = true → ts.width ≤ 16 → Completes (.vunpk vd va k ty ts h) s fun t => LanesDone s t [vd]
    (fun r l => wordIn ty vd r (convert ty ts .rne (s.grp.elem .n32 va l / 2 ^ (k * ts.width) % 2 ^ ts.width)))
    zero none none)

/-- The permuting forms (R184): each lane takes the element and the tangents of its source lane, or zeros where that is no
lane of em. That TLOST of a dropped tangent is set for integer types too is the model's reading (log 60). -/
def Sys2Proof.Claims.LanePermutes : Prop := ∀ (s : State) (vd va : Nat) (b : VOp) (ty : Ty) (h : Nat),
  Fits s ([vd, va] ++ bRegs ty b) → ty.is32 = true →
  let q := fun l => s.grp.opB ty b l
  let moved := fun (i : Instr) (src : Nat → Int) =>
    let good := fun l => 0 ≤ src l ∧ src l < 32 ∧ s.em.getLsbD (src l).toNat = true
    let tan := fun d l => if good l then s.grp.readT va d (src l).toNat else 0
    Completes i s fun t => LanesDone s t [vd] (fun _ l => if good l then s.grp.readV va (src l).toNat else 0)
      (fun _ d l => tan d l) (lostIn s vd tan) (fun _ => false)
  moved (.vshfl vd va b ty h) (fun l => q l % 32) ∧ moved (.vshup vd va b ty h) (fun l => l - q l % 64) ∧
  moved (.vshdn vd va b ty h) (fun l => l + q l % 64) ∧
  moved (.vshxor vd va b ty h) (fun l => ((l ^^^ q l % 32 : Nat) : Int)) ∧
  moved (.vbcast vd va b ty h) (fun l => q l % 32)

namespace Sys2Proof.Claims

/-- VSCAN's order (R185): one lane after another, in ascending order. -/
def scanOf {α : Type} (f : α → α → α) : List α → Option α
  | [] => none
  | x :: xs => some (xs.foldl f x)

/-- VGRED's fixed tree (R185) over the 2^n positions from base on: a node combines its two children, and one with a
single present child passes it. -/
def treeOf {α : Type} (f : α → α → α) (x : Nat → Option α) : Nat → Nat → Option α
  | 0, base => x base
  | n + 1, base =>
    match treeOf f x n base, treeOf f x n (base + 2 ^ n) with
    | some u, some v => some (f u v)
    | some u, none => some u
    | none, w => w

/-- The combining codes of VGRED and VSCAN (R185). -/
def combineOf (op : Comb) (ty : Ty) (x y : Nat) : Nat :=
  let f := fmtOf ty
  let nan := (f.value x).isNaN || (f.value y).isNaN
  match op with
  | .add => if ty.isFloat then roundTo f .rne (XVal.add (f.value x) (f.value y)) else (x + y) % 2 ^ 32
  | .min => if ty.isFloat then (if nan then f.canonicalNaN else if XVal.lt (f.value y) (f.value x) then y else x)
      else if intVal ty x ≤ intVal ty y then x else y
  | .max => if ty.isFloat then (if nan then f.canonicalNaN else if XVal.lt (f.value x) (f.value y) then y else x)
      else if intVal ty x ≤ intVal ty y then y else x
  | .and => x &&& y
  | .or => x ||| y
  | _ => x ^^^ y

/-- The same with the tangent of one slot (R86): ADD adds and rounds by RoundT, MIN and MAX take that of the element delivered. -/
def combineTan (s : State) (op : Comb) (ty : Ty) (x y : Nat × Word32) : Nat × Word32 :=
  let f := fmtOf ty
  (combineOf op ty x.1 y.1,
   match op with
   | .add => s.grp.roundT (XVal.add (s.grp.tanVal x.2) (s.grp.tanVal y.2))
   | .min => if XVal.lt (f.value y.1) (f.value x.1) then y.2 else x.2
   | .max => if XVal.lt (f.value x.1) (f.value y.1) then y.2 else x.2
   | _ => x.2)

end Sys2Proof.Claims

open Sys2Proof.Claims

/-- VGRED and VSCAN (R185): the value in every lane of em by the fixed tree, and by lane l the combination of the lanes
of em up to l. A floating type combines the tangents of each slot in the same order (R86), and TLOST says where vd drops them (R92);
an integer type gives +0 tangents, and TLOST in the lanes whose source carries one (R87). -/
def Sys2Proof.Claims.LaneReductions : Prop := ∀ (s : State) (vd va : Nat) (op : Comb) (ty : Ty) (h : Nat),
  Fits s [vd, va] → op ≠ .xchg → (ty.isFp3 = true ∧ (op = .add ∨ op = .min ∨ op = .max)) ∨ ty = .i32 ∨ ty = .n32 →
  let x := fun l => s.grp.elem ty va l
  let upTo := fun l => (List.range 32).filter fun k => s.em.getLsbD k && decide (k ≤ l)
  let f := combineOf op ty
  let slot := fun d k => (x k, s.grp.readT va d k)
  let done := fun (i : Instr) (val : Nat → Option Nat) (dual : Nat → Nat → Option (Nat × Word32)) =>
    let tan := fun d l => if ty.isFloat then ((dual d l).getD (0, 0)).2 else 0
    Completes i s fun t => LanesDone s t [vd] (fun r l => wordIn ty vd r ((val l).getD 0)) (fun _ d l => tan d l)
      (fun l => if ty.isFloat then lostIn s vd tan l else carries s [va] l) (fun _ => false)
  done (.vgred vd va op ty h) (fun _ => treeOf f (fun k => if s.em.getLsbD k then some (x k) else none) 5 0)
    (fun d _ => treeOf (combineTan s op ty) (fun k => if s.em.getLsbD k then some (slot d k) else none) 5 0) ∧
  done (.vscan vd va op ty h) (fun l => scanOf f ((upTo l).map x))
    (fun d l => scanOf (combineTan s op ty) ((upTo l).map (slot d)))

/-! ## Scratchpad, weight store and windows -/

namespace Sys2Proof.Claims

/-- The address of lane l (R187). -/
def addrOf (s : State) (a : Addr) (l : Nat) : Int :=
  (if a.scalar then (s.grp.readS a.base).toInt else ((s.grp.readV a.base l).toNat : Int)) +
  match a.off with
  | .small k => k
  | .lit x => (BitVec.ofNat 64 x).toInt

/-- The next PC after a form of three words, five with a literal (R35). -/
def nextPc3 (s : State) (lit : Bool) : Addr52 := s.pc + if lit then 20 else 12

/-- Every lane of em has an aligned address of n bytes below the bound (R188). -/
def Inside (s : State) (addr : Nat → Int) (w n bound : Nat) : Prop :=
  ∀ l, l < 32 → s.em.getLsbD l = true → addr l % (w : Int) = 0 ∧ 0 ≤ addr l ∧ addr l + (n : Int) ≤ (bound : Int)

/-- The bytes beyond which a scratchpad access is out of range: Z, and .spad for the .D forms (R187, R188). -/
def boundOf (s : State) (du : Bool) : Nat :=
  let d := s.grp.decl
  if du then d.spad else d.spad + d.d * (if d.bf16 then d.spad / 2 else d.spad)

/-- What the order, the scope and CRIT of an access leave of the horizons and the critical depth (R130, R280). -/
def Ordered (s t : State) (o : Sync) : Prop :=
  let g := s.grp
  let j := if o.ord ≠ .plain ∧ o.scope ≠ .lane then g.joinHorizons else g
  t.grp.horizon = j.horizon ∧ t.grp.groupHorizon = j.groupHorizon ∧
  (t.grp.crit = if o.crit then
      (match o.ord with
        | .acq => min 15 (g.crit + 1)
        | .rel => g.crit - 1
        | _ => g.crit)
    else g.crit) ∧
  (o.crit = false → t.grp.critSince = g.critSince ∧ t.grp.critSpent = g.critSpent)

/-- The group after a lane access: the fields that may have changed. -/
def AccessKeeps (s t : State) : Prop :=
  t.grp = { s.grp with v := t.grp.v, tan := t.grp.tan, tlost := t.grp.tlost, splits := t.grp.splits,
                       rewind := t.grp.rewind, deliveries := t.grp.deliveries, horizon := t.grp.horizon,
                       groupHorizon := t.grp.groupHorizon, crit := t.grp.crit, critSince := t.grp.critSince,
                       critSpent := t.grp.critSpent }

/-- Registers ds have been loaded in the lanes of em: elements, tangents, TLOST, and a delivery no sooner than `after`
cycles on. -/
def Loaded (s t : State) (ds : List Nat) (val : Nat → Nat → Word32) (tan : Nat → Nat → Nat → Word32)
    (tlost : Nat → Bool) (after : Nat) : Prop :=
  (∀ r l, l < 32 → t.grp.readV r l = if r ∈ ds ∧ s.em.getLsbD l then val r l else s.grp.readV r l) ∧
  (∀ r d l, r < 256 → l < 32 → t.grp.readT r d l =
    if r ∈ ds ∧ s.em.getLsbD l ∧ r < s.grp.decl.n ∧ d < s.grp.decl.d then tan r d l else s.grp.readT r d l) ∧
  (∀ l, l < 32 → t.grp.tlost.getLsbD l = (s.grp.tlost.getLsbD l || (s.em.getLsbD l && tlost l))) ∧
  (s.em = 0 → t.grp.deliveries = s.grp.deliveries) ∧
  (s.em ≠ 0 → ∃ due, s.clock + after ≤ due ∧ t.grp.deliveries = s.grp.deliveries ++ [⟨ds.map RegId.v, due⟩])

/-- A store: only the scratchpad of the group's gang has changed, the bytes stored carry no error (R205, log 59), and the rewind
record allows no rewind once a lane has stored (R334). -/
def Stored (s t : State) (touched : Nat → Prop) : Prop :=
  t = { s with groups := t.groups, gangs := t.gangs } ∧ (∀ k, k ≠ s.cur.gid → t.group k = s.group k) ∧
  (∀ j, j ≠ s.grp.gang → t.gang j = s.gang j) ∧
  t.gang s.grp.gang = { s.gang s.grp.gang with spad := (t.gang s.grp.gang).spad, errs := (t.gang s.grp.gang).errs } ∧
  (∀ a, ¬ touched a → Sparse.get 0 (t.gang s.grp.gang).spad a = Sparse.get 0 (s.gang s.grp.gang).spad a ∧
    Sparse.get 0 (t.gang s.grp.gang).errs a = Sparse.get 0 (s.gang s.grp.gang).errs a) ∧
  (∀ a, touched a → Sparse.get 0 (t.gang s.grp.gang).errs a = 0) ∧
  (s.em ≠ 0 → t.grp.rewind = false)

/-- n bytes of the scratchpad of the issuing group's gang as one little-endian number. -/
def spadAt (s : State) (a n : Nat) : Nat := s.readSpad s.grp.gang a n

/-- Where slot d of the value at byte a is stored, and in how many bytes (R96). -/
def slotAddr (s : State) (d a : Nat) : Nat :=
  let c := s.grp.decl
  c.spad + d * (if c.bf16 then c.spad / 2 else c.spad) + a * (if c.bf16 then 2 else 4) / 4
def slotBytes (s : State) : Nat := if s.grp.decl.bf16 then 2 else 4

/-- Does byte k lie in the element of n bytes at a, or, for a dual access, in one of its tangents? -/
def inElement (s : State) (du : Bool) (n a k : Nat) : Prop :=
  (a ≤ k ∧ k < a + n) ∨ (du = true ∧ ∃ d, d < s.grp.decl.d ∧ slotAddr s d a ≤ k ∧ k < slotAddr s d a + slotBytes s)

/-- May a scratchpad access of the issuing split that stores, or only loads, go on (R193, R219, R280)? Older acquires have been
performed, no fence holds it, and what an order of its own waits for has come. -/
def mayAccess (s : State) (stores : Bool) (o : Sync) : Prop := s.spadReady stores o = true

/-- The state in which the issuing split holds only the lanes of a mask. -/
def narrowed (s : State) (m : Word32) : State := s.setGrp (s.grp.setSplit s.cur.entry { s.spl with mask := m })

/-- What the fault file of a group holds after a trap of an access (R353): of each failing lane its own cause and address, of every
other lane what it held. -/
def Filed (s t : State) (acc space : Nat) (addr : Nat → Int) (cause : Nat → Option Nat) : Prop :=
  ∀ l, l < 32 → Sparse.get LaneFault.zero t.grp.faults l =
    match cause l with
    | some c => if s.em.getLsbD l then ⟨c - 0x30, acc, space, (addr l % (2 ^ 52 : Int)).toNat⟩
        else Sparse.get LaneFault.zero s.grp.faults l
    | none => Sparse.get LaneFault.zero s.grp.faults l

/-- Every lane of em fails the checks of an access: the whole split traps with the cause of the lowest, and nothing else has
changed (R121). -/
def AllFail (s : State) (i : Instr) (acc space : Nat) (addr : Nat → Int) (cause : Nat → Option Nat) : Prop :=
  ∀ low, FailingLanes s (fun l => cause l ≠ none) s.em low → s.grp.stack.length + 1 ≤ 32 →
    Completes i s fun t => PartTrapped s t s.grp s.em ((cause low).getD 0) low ∧ Filed s t acc space addr cause

/-- The lanes ok of em pass the checks of an access, and the lanes bad, of which low is the lowest, fail them: the trap of bad
(R121) after what the access does in the lanes ok. ACC and SPACE are those of R354. -/
def PartFails (s : State) (i : Instr) (acc space : Nat) (addr : Nat → Int) (cause : Nat → Option Nat) (next : Addr52) : Prop :=
  ∀ (ok bad : Word32) (low : Nat) (u : State),
    (∀ l, l < 32 → (ok.getLsbD l = true ↔ s.em.getLsbD l = true ∧ cause l = none)) →
    (∀ l, l < 32 → (bad.getLsbD l = true ↔ s.em.getLsbD l = true ∧ cause l ≠ none)) → ok ≠ 0 → low < 32 →
    bad.getLsbD low = true → (∀ l, l < low → bad.getLsbD l = false) → exec i (narrowed s ok) = .next u →
    s.grp.stack.length + 2 ≤ 32 → Completes i s fun t =>
      let x := s.spl
      t = { u with groups := t.groups } ∧ (∀ k, k ≠ s.cur.gid → t.group k = u.group k) ∧
      t.grp = { u.grp with stack := t.grp.stack, splits := t.grp.splits, life := .trapped, faultLane := low,
                           faults := t.grp.faults, rewind := false } ∧
      t.grp.stack = ⟨(cause low).getD 0, x.tok, .trap, x.sup, bad, x.pc, 0⟩ ::
        ⟨0, x.tok, .deferred, x.sup, ok, next, 0⟩ :: s.grp.stack ∧
      t.spl = { Split.free with v := true, sup := true, pc := (s.context s.grp.ctx).handler, mask := bad, tok := 16,
                                age := x.age } ∧
      Filed s t acc space addr cause

/-- An access of the lanes of em of which some or all fail. -/
def Fails (s : State) (i : Instr) (acc space : Nat) (addr : Nat → Int) (cause : Nat → Option Nat) (next : Addr52) : Prop :=
  PartFails s i acc space addr cause next ∧ AllFail s i acc space addr cause

end Sys2Proof.Claims

open Sys2Proof.Claims

/-- LD and ST (R195), with their .D forms (R97): every lane of em, whose addresses pass R188, loads its element with the
stored tangents or +0, or stores it; lanes that store alone at their address leave their element there. -/
def Sys2Proof.Claims.PlainLoadsAndStores : Prop := ∀ (s : State) (vd : Nat) (a : Addr) (ty : Ty) (du : Bool) (o : Sync) (h : Nat),
  let n := ty.bytes
  let addr := addrOf s a
  let at' := fun l => (addr l).toNat
  let next := nextPc3 s (isLit a.off)
  let stored := fun d l => BitVec.ofNat 32 (spadAt s (slotAddr s d (at' l)) (slotBytes s))
  let alone := fun l => ∀ k, k < 32 → s.em.getLsbD k = true → k ≠ l → addr k ≠ addr l
  Fits s (pairOf ty vd ++ if a.scalar then [] else [a.base]) → (du = true → ty = .f32) →
  Inside s addr n n (boundOf s du) →
  (mayAccess s false o → Completes (.ld vd a ty du o h) s (fun t => OnlyGroup s t ∧ SplitAt s t next ∧ AccessKeeps s t ∧ Ordered s t o ∧
    Loaded s t (pairOf ty vd) (fun r l => wordIn ty vd r (spadAt s (at' l) n))
      (fun _ d l => if du then stored d l else 0) (fun l => du && lostIn s vd stored l) 20 ∧
    (s.em ≠ 0 → RewindAfter s t ((pairOf ty vd).map RegId.v)))) ∧
  (mayAccess s true o → Completes (.st vd a ty du o h) s (fun t => SplitAt s t next ∧ AccessKeeps s t ∧ Ordered s t o ∧
    Stored s t (fun k => ∃ l, l < 32 ∧ s.em.getLsbD l = true ∧ inElement s du n (at' l) k) ∧
    (∀ l, l < 32 → s.em.getLsbD l = true → alone l → spadAt t (at' l) n = s.grp.elem ty vd l ∧
      (du = true → ∀ d, d < s.grp.decl.d →
        spadAt t (slotAddr s d (at' l)) (slotBytes s) = (s.grp.readT vd d l).toNat % 2 ^ (8 * slotBytes s))) ∧
    (∀ r l, l < 32 → t.grp.readV r l = s.grp.readV r l) ∧
    ∀ l, l < 32 → t.grp.tlost.getLsbD l =
      (s.grp.tlost.getLsbD l || (s.em.getLsbD l && !du && carries s (pairOf ty vd) l))))

/-- LDT and STT (R196): lane l moves row l of a row-major array of n columns, to or from registers vd to vd + n − 1. -/
def Sys2Proof.Claims.TransposedAccess : Prop := ∀ (s : State) (vd n : Nat) (a : Addr) (ty : Ty) (du : Bool) (h : Nat),
  let row := fun (l : Nat) => addrOf s a 0 + ((4 * n * l : Nat) : Int)
  let at' := fun (l j : Nat) => (row l).toNat + 4 * j
  let ds := (List.range n).map (vd + ·)
  let next := nextPc3 s (isLit a.off)
  let stored := fun (r d l : Nat) => BitVec.ofNat 32 (spadAt s (slotAddr s d (at' l (r - vd))) (slotBytes s))
  1 ≤ n → n ≤ 32 → ty.width = 32 → a.scalar = true → Fits s ds →
  Inside s row 4 (4 * n) (boundOf s du) →
  (s.accessReady false = true → Completes (.ldt vd a ty du n h) s (fun t => OnlyGroup s t ∧ SplitAt s t next ∧ AccessKeeps s t ∧ Ordered s t ⟨.plain, .lane, false⟩ ∧
    Loaded s t ds (fun r l => BitVec.ofNat 32 (spadAt s (at' l (r - vd)) 4))
      (fun r d l => if du then stored r d l else 0)
      (fun l => du && ds.any fun r => lostIn s r (fun d l => stored r d l) l) 20 ∧
    (s.em ≠ 0 → RewindAfter s t (ds.map RegId.v)))) ∧
  (s.accessReady true = true → Completes (.stt vd a ty du n h) s (fun t => SplitAt s t next ∧ AccessKeeps s t ∧ Ordered s t ⟨.plain, .lane, false⟩ ∧
    Stored s t (fun k => ∃ l j, l < 32 ∧ s.em.getLsbD l = true ∧ j < n ∧ inElement s du 4 (at' l j) k) ∧
    (∀ l j, l < 32 → s.em.getLsbD l = true → j < n → spadAt t (at' l j) 4 = (s.grp.readV (vd + j) l).toNat ∧
      (du = true → ∀ d, d < s.grp.decl.d →
        spadAt t (slotAddr s d (at' l j)) (slotBytes s) = (s.grp.readT (vd + j) d l).toNat % 2 ^ (8 * slotBytes s))) ∧
    (∀ r l, l < 32 → t.grp.readV r l = s.grp.readV r l) ∧
    ∀ l, l < 32 → t.grp.tlost.getLsbD l = (s.grp.tlost.getLsbD l || (s.em.getLsbD l && !du && carries s ds l))))

/-- SLD and SST (R197), once whatever em holds; and LDW (R200), each byte through the map entry that holds it (R349). -/
def Sys2Proof.Claims.ScalarAndWeightAccess : Prop := ∀ (s : State) (r : Nat) (a : Addr) (ty : Ty) (o : Sync) (h : Nat),
  let n := ty.bytes
  let b := addrOf s a 0
  let next := nextPc3 s (isLit a.off)
  let x := spadAt s b.toNat n
  let map := (s.grid s.grp.grid).wsmap
  let die := s.cur.gid / 4096
  let byte := fun (k : Nat) (v : Byte) => ∃ e ∈ map, map.find? (fun e => e.len != 0 && decide (e.base ≤ k) &&
      decide (k < e.base + e.len)) = some e ∧ e.rd = true ∧ e.dies.testBit die = true ∧
    v = Sparse.get 0 (s.die die).ws (k - e.base + e.phys)
  (a.scalar = true → b % (n : Int) = 0 → 0 ≤ b → b + (n : Int) ≤ (boundOf s false : Int) →
    (mayAccess s false o → Completes (.sld r a ty o h) s (fun t => OnlyGroup s t ∧ SplitAt s t next ∧ Ordered s t o ∧
      (∀ q, t.grp.readS q = if q = r ∧ r ≠ 0 then
          (if ty.isSigned then (BitVec.ofNat ty.width x).signExtend 64 else BitVec.ofNat 64 x)
        else s.grp.readS q) ∧
      t.grp = { s.grp with s := t.grp.s, splits := t.grp.splits, rewind := t.grp.rewind,
                           deliveries := t.grp.deliveries, horizon := t.grp.horizon,
                           groupHorizon := t.grp.groupHorizon, crit := t.grp.crit, critSince := t.grp.critSince,
                           critSpent := t.grp.critSpent } ∧
      t.grp.deliveries = s.grp.deliveries ++ (if r = 0 then [] else [⟨[.s r], s.clock + 20⟩]) ∧
      RewindAfter s t [.s r])) ∧
    (mayAccess s true o → Completes (.sst r a ty o h) s (fun t => SplitAt s t next ∧ AccessKeeps s t ∧ Ordered s t o ∧
      t = { s with groups := t.groups, gangs := t.gangs } ∧ (∀ k, k ≠ s.cur.gid → t.group k = s.group k) ∧
      (∀ j, j ≠ s.grp.gang → t.gang j = s.gang j) ∧
      t.gang s.grp.gang = { s.gang s.grp.gang with spad := (t.gang s.grp.gang).spad, errs := (t.gang s.grp.gang).errs } ∧
      (∀ k, ¬ (b.toNat ≤ k ∧ k < b.toNat + n) →
        Sparse.get 0 (t.gang s.grp.gang).spad k = Sparse.get 0 (s.gang s.grp.gang).spad k ∧
        Sparse.get 0 (t.gang s.grp.gang).errs k = Sparse.get 0 (s.gang s.grp.gang).errs k) ∧
      (∀ k, b.toNat ≤ k → k < b.toNat + n → Sparse.get 0 (t.gang s.grp.gang).errs k = 0) ∧
      spadAt t b.toNat n = (s.grp.readS r).toNat % 2 ^ ty.width ∧ t.grp.rewind = false))) ∧
  (s.accessReady false = true → ∀ vals : Nat → List Byte, Fits s (pairOf ty r ++ if a.scalar then [] else [a.base]) →
    (∀ l, l < 32 → s.em.getLsbD l = true → addrOf s a l % (n : Int) = 0 ∧ 0 ≤ addrOf s a l ∧ (vals l).length = n ∧
      ∀ j, j < n → byte ((addrOf s a l).toNat + j) ((vals l).getD j 0)) →
    Completes (.ldw r a ty h) s fun t => OnlyGroup s t ∧ SplitAt s t next ∧ AccessKeeps s t ∧
      Ordered s t ⟨.plain, .lane, false⟩ ∧
      Loaded s t (pairOf ty r) (fun q l => wordIn ty r q (ofBytes (vals l))) (fun _ _ _ => 0) (fun _ => false) 48 ∧
      (s.em ≠ 0 → RewindAfter s t ((pairOf ty r).map RegId.v)))

/-- ATOM and ACAS (R198): a lane that has its address to itself takes the old element into vd and leaves the combination,
or, where the bits of old equal those of vd, the new value; nothing outside the lanes' elements changes. -/
def Obligations.Atomics : Prop := ∀ (s : State) (vd vc : Nat) (a : Addr) (op : Comb) (ty : Ty) (o : Sync) (h : Nat),
  let n := ty.bytes
  let addr := addrOf s a
  let at' := fun l => (addr l).toNat
  let next := nextPc3 s (isLit a.off)
  let alone := fun l => ∀ k, k < 32 → s.em.getLsbD k = true → k ≠ l → addr k ≠ addr l
  let old := fun l => spadAt s (at' l) n
  let new := fun l => s.grp.elem ty vc l
  let combined := fun l => match op with
    | .xchg => new l
    | .add => if ty = .f32 then combineOf .add .f32 (old l) (new l) else (old l + new l) % 2 ^ ty.width
    | _ => combineOf op ty (old l) (new l)
  let done := fun (t : State) (left : Nat → Nat) => SplitAt s t next ∧ AccessKeeps s t ∧ Ordered s t o ∧
    Stored s t (fun k => ∃ l, l < 32 ∧ s.em.getLsbD l = true ∧ at' l ≤ k ∧ k < at' l + n) ∧
    (∀ l, l < 32 → s.em.getLsbD l = true → alone l → spadAt t (at' l) n = left l ∧
      ∀ r, r ∈ pairOf ty vd → t.grp.readV r l = wordIn ty vd r (old l)) ∧
    (∀ r l, l < 32 → ¬ (r ∈ pairOf ty vd ∧ s.em.getLsbD l) → t.grp.readV r l = s.grp.readV r l) ∧
    (∀ r d l, r < 256 → l < 32 → t.grp.readT r d l =
      if r ∈ pairOf ty vd ∧ s.em.getLsbD l ∧ d < s.grp.decl.d then 0 else s.grp.readT r d l) ∧
    (s.em ≠ 0 → ∃ due, s.clock + 28 ≤ due ∧
      t.grp.deliveries = s.grp.deliveries ++ [⟨(pairOf ty vd).map RegId.v, due⟩]) ∧
    (∀ l, l < 32 → t.grp.tlost.getLsbD l =
      (s.grp.tlost.getLsbD l || (s.em.getLsbD l && carries s (pairOf ty vc) l)))
  ty.isAtomic = true → Fits s (pairOf ty vd ++ pairOf ty vc ++ if a.scalar then [] else [a.base]) → mayAccess s true o →
  Inside s addr n n (boundOf s false) →
  Completes (.atom vd a vc op ty o h) s (fun t => done t combined) ∧
  Completes (.acas vd a vc ty o h) s (fun t => done t fun l => if old l = s.grp.elem ty vd l then new l else old l)

/-- A lane access whose addresses partly fail (R33, R121, R188, R200): the lanes that pass have completed, as they do when the split
holds no others, and stand deferred at the next PC; the others trap with the cause of the lowest, and the fault file has each
one's own cause and address (R353). Where every lane fails the whole split traps and nothing is accessed. So of LD and ST with their
.D forms, ATOM, ACAS, LDT, STT and LDW. SLD and SST, which have one address, trap the whole split, with that address in every lane's
entry (R197). -/
def Obligations.PartialFaults : Prop :=
  ∀ (s : State) (vd vc n : Nat) (a : Addr) (op : Comb) (ty : Ty) (du : Bool) (o : Sync) (h : Nat),
  let next := nextPc3 s (isLit a.off)
  let addr := addrOf s a
  let row := fun (l : Nat) => addrOf s a 0 + ((4 * n * l : Nat) : Int)
  let check := fun (w k bound : Nat) (p : Nat → Int) (l : Nat) =>
    if p l % (w : Int) ≠ 0 then some 0x32
    else if p l < 0 ∨ (bound : Int) < p l + (k : Int) then some 0x33
    else none
  let map := (s.grid s.grp.grid).wsmap
  let stored := fun l => if addr l % (ty.bytes : Int) ≠ 0 then some 0x32
    else if addr l < 0 ∨ (s.readWs map (s.cur.gid / 4096) (addr l).toNat ty.bytes).isNone then some 0x33
    else none
  let own := pairOf ty vd ++ if a.scalar then [] else [a.base]
  let lane := check ty.bytes ty.bytes (boundOf s du) addr
  let word := check ty.bytes ty.bytes (boundOf s false) addr
  let rows := check 4 (4 * n) (boundOf s du) row
  Fits s own →
  (mayAccess s false o → Fails s (.ld vd a ty du o h) 0 0 addr lane next) ∧
  (mayAccess s true o → Fails s (.st vd a ty du o h) 1 0 addr lane next) ∧
  (mayAccess s true o → Fits s (pairOf ty vc) →
    Fails s (.atom vd a vc op ty o h) 2 0 addr word next ∧ Fails s (.acas vd a vc ty o h) 2 0 addr word next) ∧
  (Fits s ((List.range n).map (vd + ·)) →
    (s.accessReady false = true → Fails s (.ldt vd a ty du n h) 0 0 row rows next) ∧
    (s.accessReady true = true → Fails s (.stt vd a ty du n h) 1 0 row rows next)) ∧
  (s.accessReady false = true → Fails s (.ldw vd a ty h) 0 2 addr stored next) ∧
  (∀ (r c : Nat), check ty.bytes ty.bytes (boundOf s false) addr 0 = some c → a.scalar = true → s.grp.stack.length + 1 ≤ 32 →
    let entries := fun (t : State) (acc : Nat) => ∀ l, l < 32 → Sparse.get LaneFault.zero t.grp.faults l =
      if s.em.getLsbD l then ⟨c - 0x30, acc, 0, (addr 0 % (2 ^ 52 : Int)).toNat⟩ else Sparse.get LaneFault.zero s.grp.faults l
    (mayAccess s false o → Completes (.sld r a ty o h) s fun t =>
      (∃ low, PartTrapped s t s.grp s.em c low) ∧ entries t 0) ∧
    (mayAccess s true o → Completes (.sst r a ty o h) s fun t =>
      (∃ low, PartTrapped s t s.grp s.em c low) ∧ entries t 1))

/-- WBIND and WINV (R202): a base that translates with the permission binds the window, its fast limit the lesser of the
limit and what is left of the page; FRAME is the physical address of BASE itself (the model's choice, log 65). A base of 2^52 or more
and one that does not translate trap the whole split, with the window as it was. WINV
unbinds a window. -/
def Obligations.Windows : Prop := ∀ (s : State) (w sa : Nat) (perm : Perm) (lim : RegLit) (h : Option Nat),
  let b := (s.grp.readS sa).toNat
  let k := match lim with
    | .reg r => (s.grp.readS r).toNat
    | .lit x => x % 2 ^ 64
  let acc := match perm with
    | .r => Access.read
    | .w => Access.write
    | .rw => Access.both
  let next := nextPc s h (match lim with | .reg _ => false | .lit _ => true)
  let keeps := fun (t : State) => t.grp = { s.grp with w := t.grp.w, splits := t.grp.splits } ∧ SplitAt s t next ∧
    (∀ j, j ≠ s.cur.gid → t.group j = s.group j) ∧ ∀ j, j ≠ w → t.grp.window j = s.grp.window j
  (b < 2 ^ 52 → ∀ pa e, s.xlate (s.cur.gid / 1024) s.grp.ctx b acc s.spl.sup s.grp.groupHorizon = .ok pa e →
    Completes (.wbind w perm sa lim h) s fun t => keeps t ∧
      t = { s with groups := t.groups, quarters := t.quarters } ∧
      t.grp.window w = ⟨true, b, perm, pa, min k (e.va + e.size - b), e.sup⟩) ∧
  (∀ c, s.grp.stack.length + 1 ≤ 32 →
    (2 ^ 52 ≤ b ∧ c = 0x33) ∨ (b < 2 ^ 52 ∧ (c = 0x30 ∨ c = 0x31) ∧
      s.xlate (s.cur.gid / 1024) s.grp.ctx b acc s.spl.sup s.grp.groupHorizon = .fault c) →
    Completes (.wbind w perm sa lim h) s fun t => (∃ low, PartTrapped s t s.grp s.em c low) ∧
      ∀ l, l < 32 → Sparse.get LaneFault.zero t.grp.faults l =
        if s.em.getLsbD l then ⟨c - 0x30, (match perm with | .r => 0 | .w => 1 | .rw => 2), 1, b % 2 ^ 52⟩
        else Sparse.get LaneFault.zero s.grp.faults l) ∧
  Completes (.winv w h) s (fun t => OnlyGroup s t ∧ SplitAt s t (nextPc s h false) ∧
    t.grp = { s.grp with w := t.grp.w, splits := t.grp.splits } ∧
    (∀ j, j ≠ w → t.grp.window j = s.grp.window j) ∧ t.grp.window w = { s.grp.window w with valid := false })

namespace Sys2Proof.Claims

/-- n registers from r on. -/
def regRange (r n : Nat) : List Nat := (List.range n).map (r + ·)

/-- The vector register that an address names. -/
def baseRegs (a : Addr) : List Nat := if a.scalar then [] else [a.base]

/-- The vector registers that an instruction names, every one of a multi-register operand (R52); a vector of a factor operation
takes one for each 32 elements (R262). -/
def laneRegs (s : State) : Instr → List Nat
  | .calli _ va _ _ | .briv _ va _ _ => [va]
  | .srd vx reg _ _ | .swr vx reg _ _ => if vx then [reg] else []
  | .spawn _ va _ _ => regRange va 8
  | .vcmp _ _ va b ty _ => pairOf ty va ++ bRegs ty b
  | .vshfl vd va b ty _ | .vshup vd va b ty _ | .vshdn vd va b ty _ | .vshxor vd va b ty _
  | .vbcast vd va b ty _ => pairOf ty vd ++ pairOf ty va ++ bRegs .n32 b
  | .vgred vd va _ ty _ | .vscan vd va _ ty _ | .vnot vd va ty _ | .vabs vd va ty _ | .vneg vd va ty _ | .vrcp vd va ty _ _
  | .vrsq vd va ty _ _ | .vsqrt vd va ty _ _ | .vexp2 vd va ty _ | .vlog2 vd va ty _ | .vsin vd va ty _ | .vcos vd va ty _
  | .vfloor vd va ty _ | .vceil vd va ty _ | .vtrunc vd va ty _ | .vround vd va ty _ _ | .vfract vd va ty _
  | .vclass vd va ty _ => pairOf ty vd ++ pairOf ty va
  | .vaddInt vd va b ty _ | .vsubInt vd va b ty _ | .vmulInt vd va b ty _ | .vmulh vd va b ty _ | .vabsd vd va b ty _
  | .vadds vd va b ty _ | .vsubs vd va b ty _ | .vminInt vd va b ty _ | .vmaxInt vd va b ty _ | .vand vd va b ty _
  | .vor vd va b ty _ | .vxor vd va b ty _ | .vandn vd va b ty _ | .vshl vd va b ty _ | .vshr vd va b ty _
  | .vsra vd va b ty _ | .vrot vd va b ty _ | .vbfx vd va b ty _ | .vsel vd va b _ ty _ | .vaddFp vd va b ty _ _
  | .vsubFp vd va b ty _ _ | .vmulFp vd va b ty _ _ | .vminFp vd va b ty _ | .vmaxFp vd va b ty _ | .vcpysgn vd va b ty _
  | .vcvtsr vd va b _ ty _ => pairOf ty vd ++ pairOf ty va ++ bRegs ty b
  | .vmad vd va b vc ty _ | .vfma vd va b vc ty _ _ | .vfms vd va b vc ty _ _
  | .vfnma vd va b vc ty _ _ => pairOf ty vd ++ pairOf ty va ++ pairOf ty vc ++ bRegs ty b
  | .vbfi vd va b vc _ | .vprmt vd va b vc _ => [vd] ++ [va] ++ [vc] ++ bRegs .n32 b
  | .vclz vd va _ | .vpop vd va _ | .vbrev vd va _ | .tget vd va _ _ | .tmov vd _ va _ _ => [vd] ++ [va]
  | .vmov vd b ty _ => pairOf ty vd ++ bRegs ty b
  | .tseed vd _ b _ | .tset vd _ b _ => [vd] ++ bRegs .n32 b
  | .tzero vd _ _ => [vd]
  | .vcvt vd va ty ts _ _ => pairOf ty vd ++ pairOf ts va
  | .vrand vd va _ => [vd] ++ regRange va 2
  | .vrseed vd va _ => regRange vd 2 ++ [va]
  | .vpack vd va b _ ts _ _ _ => [vd] ++ pairOf ts va ++ bRegs ts b
  | .vunpk vd va _ ty _ _ | .gath vd va _ _ ty _ | .scat vd va _ _ ty _ | .pld vd va _ _ ty _ | .pst vd va _ _ ty _
  | .red vd va _ _ _ ty _ _ _ | .amg vd va _ _ _ ty _ _ _ => pairOf ty vd ++ [va]
  | .ld vd a ty _ _ _ | .st vd a ty _ _ _ | .ldw vd a ty _ => pairOf ty vd ++ baseRegs a
  | .ldt vd a _ _ n _ | .stt vd a _ _ n _ => regRange vd n ++ baseRegs a
  | .sld _ a _ _ _ | .sst _ a _ _ _ => baseRegs a
  | .atom vd a vc _ ty _ _ | .acas vd a vc ty _ _ => pairOf ty vd ++ pairOf ty vc ++ baseRegs a
  | .tex vd va _ _ _ | .texg vd va _ _ _ => regRange vd 4 ++ regRange va 2
  | .isect vd va _ _ _ => regRange vd 5 ++ regRange va 8
  | .visq vd va _ _ _ => regRange vd 5 ++ regRange va 2
  | .fupd f va _ | .fdown f va _ | .fsolve f va _ _ => regRange va ((((s.grp.factor f).elim 1 Prod.snd) + 31) / 32)
  | _ => []

end Sys2Proof.Claims

open Sys2Proof.Claims

/-- An instruction that names a vector register at or above the budget C takes the illegal-instruction trap, detail 6, and has no
effect (R51, R52). -/
def Sys2Proof.Claims.BudgetTraps : Prop := ∀ (s : State) (i : Instr), i.wf = true → (∃ r ∈ laneRegs s i, s.grp.decl.c ≤ r) →
  s.grp.stack.length + 1 ≤ 32 → Completes i s fun t => TrapTaken s t 0x16

/-! ## Waiting, barriers and fences -/

namespace Sys2Proof.Claims

/-- The barrier of the issuing group's gang. -/
def barOf (s : State) (b : Nat) : Barrier := (s.gang s.grp.gang).bar b

/-- Check (R215): with the arrivals and the bytes of the phase complete the generation advances and the counts start
again; EXPARR and STATUS stand. -/
def Checked (b : Barrier) (b' : Barrier) : Prop :=
  if b.arrived = b.exparr ∧ b.landed = b.expb then
    b'.gen = (b.gen + 1) % 2 ^ 32 ∧ b'.arrived = 0 ∧ b'.landed = 0 ∧ b'.expb = 0 ∧ b'.exparr = b.exparr ∧
    b'.status = b.status
  else b' = b

/-- No other split of the issuing group waits at a barrier. -/
def NoneWaits (s : State) : Prop :=
  ∀ e, e < 4 → e ≠ s.cur.entry → (s.grp.split e).state = .waiting →
    ∀ bar gen sd acq crit next, (s.grp.split e).wait ≠ .barrier bar gen sd acq crit next

/-- Does Check end the phase? -/
def phaseEnds (b : Barrier) : Prop := b.arrived = b.exparr ∧ b.landed = b.expb

/-- Every split that waited for a phase of the barrier that is over goes on after its wait (R110, R216); not on a frozen core, nor
in a gang that a stall has chosen (R324, R396). -/
def WaitersGoOn (s t : State) (bar : Nat) (old : Nat) : Prop :=
  ∀ k e gen sd acq crit next, (k, e) ≠ (s.cur.gid, s.cur.entry) → e < 4 → (s.group k).gang = s.grp.gang →
    (s.group k).life = .resident ∨ (s.group k).life = .trapped → ((s.group k).split e).v = true →
    ((s.group k).split e).state = .waiting → ((s.group k).split e).wait = .barrier bar gen sd acq crit next → gen = old →
    (s.gang s.grp.gang).chosen = false → Master.core (k / 64) ∉ s.frozen →
    (t.group k).split e = { (s.group k).split e with state := .runnable, wait := .none, pc := next, age := 0 }

end Sys2Proof.Claims

open Sys2Proof.Claims

/-- WAITC (R214): a flashback point, at which a group in drain mode, unless critical, is rewound (R335); with no more than n operations of the class outstanding it goes on and takes over the
stamps of those completed (R284), and otherwise the split waits. WAITC fx with a factor failure latched is another
statement's. -/
def Sys2Proof.Claims.WaitCounter : Prop := ∀ (s : State) (cls : Cls) (n : Nat) (h : Option Nat),
  let out := (s.grp.ops.filter fun o => o.cls = cls).length
  let next := nextPc s h false
  (drainsNow s.grp → Completes (.waitc cls n h) s fun t => RewoundAt s t) ∧
  (¬ drainsNow s.grp → out ≤ n → (cls = .fx → s.grp.latch = none) → Completes (.waitc cls n h) s fun t => OnlyGroup s t ∧
    t.spl = { s.spl with state := .runnable, wait := .none, pc := next, age := 0 } ∧
    (∀ e, e ≠ s.cur.entry → t.grp.split e = s.grp.split e) ∧
    t.grp = { s.grp with splits := t.grp.splits, rewind := true, record := some (pointAt s),
                         groupHorizon := Stamp.max s.grp.groupHorizon (Sparse.get [] s.grp.clsStamp cls.code) }) ∧
  (¬ drainsNow s.grp → n < out → Completes (.waitc cls n h) s fun t =>
    PointAndSplit s t { s.spl with state := .waiting, wait := .counter cls n next })

/-- BINIT, EXPECT, ARRIVE and TESTB (R215): what each does to the barrier's counts, with Check after EXPECT and ARRIVE,
and that a phase that ends lets its waiters go on. ARRIVE gives sd the generation, also where it ends the phase, and with .REL.CRIT
takes one off the critical depth (R130); a split of the group itself that the phase frees may then do more. -/
def Sys2Proof.Claims.BarrierOperations : Prop := ∀ (s : State) (sd bar : Nat) (n : RegLit) (rel crit : Bool) (h : Option Nat),
  let b := barOf s bar
  let k := match n with
    | .reg r => (s.grp.readS r).toNat
    | .lit x => x % 2 ^ 64
  let next := nextPc s h false
  let nextN := nextPc s h (match n with | .reg _ => false | .lit _ => true)
  s.spl.state = .runnable →
  let at' := fun (t : State) (pc : Addr52) => t.spl = { s.spl with pc := pc }
  let others := fun (t : State) => ∀ j, j ≠ bar → (t.gang s.grp.gang).bar j = (s.gang s.grp.gang).bar j
  Completes (.binit bar n h) s (fun t => t = { s with groups := t.groups, gangs := t.gangs } ∧ SplitAt s t nextN ∧
    t.grp = { s.grp with splits := t.grp.splits, rewind := false } ∧
    (∀ j, j ≠ s.grp.gang → t.gang j = s.gang j) ∧ others t ∧
    (t.gang s.grp.gang).bar bar =
      { b with exparr := k % 2 ^ 16, arrived := 0, landed := 0, expb := 0, status := 0 }) ∧
  Completes (.expect bar n h) s (fun t => at' t nextN ∧ t.grp.rewind = false ∧ others t ∧
    (let c := { b with expb := (b.expb + k % 2 ^ 40) % 2 ^ 40 }
     Checked c ((t.gang s.grp.gang).bar bar) ∧ (phaseEnds c → WaitersGoOn s t bar b.gen) ∧
     (¬ phaseEnds c → t = { s with groups := t.groups, gangs := t.gangs } ∧ SplitAt s t nextN ∧
        t.grp = { s.grp with splits := t.grp.splits, rewind := false } ∧ ∀ j, j ≠ s.cur.gid → t.group j = s.group j))) ∧
  (s.accessReady true = true → rel = false ∨ s.orderReady .gang true = true → Completes (.arrive sd bar rel crit h) s fun t =>
    at' t next ∧ t.grp.rewind = false ∧ others t ∧
    ∃ c, Checked c ((t.gang s.grp.gang).bar bar) ∧ c.arrived = (b.arrived + 1) % 2 ^ 16 ∧ c.exparr = b.exparr ∧
      c.landed = b.landed ∧ c.expb = b.expb ∧ c.gen = b.gen ∧ c.status = b.status ∧
      (phaseEnds c → WaitersGoOn s t bar b.gen) ∧
      (¬ phaseEnds c ∨ NoneWaits s → t.grp.readS sd = (if sd = 0 then s.grp.readS 0 else BitVec.ofNat 64 b.gen) ∧
        t.grp.crit = if rel ∧ crit then s.grp.crit - 1 else s.grp.crit) ∧
      (¬ phaseEnds c → t = { s with groups := t.groups, gangs := t.gangs } ∧ SplitAt s t next ∧
        (∀ r, t.grp.readS r = if r = sd ∧ sd ≠ 0 then BitVec.ofNat 64 b.gen else s.grp.readS r) ∧
        ∀ j, j ≠ s.cur.gid → t.group j = s.group j)) ∧
  Completes (.testb sd bar h) s (fun t => PutsScalar s t sd (b.status ++ BitVec.ofNat 32 b.gen) next)

/-- WAITB (R216): a flashback point, at which a group in drain mode, unless critical, is rewound (R335); with the phase over it goes on
with STATUS in sd and the phase's stamps (R284), an acquire with CRIT one deeper in its critical section (R130), and an acquire for
phases that counted bytes of a collective without the lines of the die's peer read buffer (R287); otherwise the split waits. -/
def Sys2Proof.Claims.WaitBarrier : Prop := ∀ (s : State) (sd bar : Nat) (acq crit : Bool) (h : Option Nat),
  let b := barOf s bar
  let gen := (s.grp.readS sd).toNat % 2 ^ 32
  let next := nextPc s h false
  (acq = true → s.orderReady .gang false = true) →
  (drainsNow s.grp → Completes (.waitb sd bar acq crit h) s fun t => RewoundAt s t) ∧
  (¬ drainsNow s.grp → b.gen ≠ gen → Completes (.waitb sd bar acq crit h) s fun t =>
    t = { s with groups := t.groups, dies := t.dies } ∧ (∀ j, j ≠ s.cur.gid → t.group j = s.group j) ∧
    (acq = false → t.dies = s.dies ∧ t.grp.groupHorizon = Stamp.max s.grp.groupHorizon b.stamp ∧
      t.grp.crit = s.grp.crit) ∧
    (acq = true → t.grp.crit = if crit then min 15 (s.grp.crit + 1) else s.grp.crit) ∧
    (∀ d, t.die d = if acq = true ∧ b.collSince gen = true ∧ d = s.cur.gid / 4096 then { s.die d with peerBuf := [] }
      else s.die d) ∧
    t.spl = { s.spl with state := .runnable, wait := .none, pc := next, age := 0 } ∧
    (∀ e, e ≠ s.cur.entry → t.grp.split e = s.grp.split e) ∧
    (∀ r, t.grp.readS r = if r = sd ∧ sd ≠ 0 then b.status.setWidth 64 else s.grp.readS r) ∧
    t.grp = { s.grp with s := t.grp.s, splits := t.grp.splits, rewind := t.grp.rewind, record := some (pointAt s),
                         groupHorizon := t.grp.groupHorizon, horizon := t.grp.horizon, crit := t.grp.crit,
                         critSince := t.grp.critSince, critSpent := t.grp.critSpent }) ∧
  (¬ drainsNow s.grp → b.gen = gen → Completes (.waitb sd bar acq crit h) s fun t =>
    PointAndSplit s t { s.spl with state := .waiting, wait := .barrier bar gen sd acq crit next })

/-- FENCE (R219, R280, R283): it issues at once, whatever is in flight. Where what it orders has been performed it is over: one wider
than a lane joins the horizons of the group, an acquire or a full one takes over the stamps of older reads, and one of system
scope drops the lines of the die's peer read buffer (R287). Until then it stands with the group and holds younger memory
instructions, one of .REL only those that store, arrive or command an engine. What counts as performed is the model's reading
(log 22). -/
def Sys2Proof.Claims.Fences : Prop := ∀ (s : State) (sc : Scope) (ord : MemOrd) (h : Option Nat),
  let g := s.grp
  let f : Fence := ⟨sc, ord, s.em, s.nextOp⟩
  let older := g.ops.filter fun o => o.id < s.nextOp
  let performed :=
    if sc = .lane then ∀ o ∈ older, o.done = true ∨ o.lanes &&& s.em = 0 ∨ (ord = .acq ∧ o.readsLanes = false)
    else (∀ o ∈ older, o.readsLanes = true → o.done = true) ∧
      (ord = .acq ∨ (∀ o ∈ older, o.movesLanes = true → o.done = true) ∧
        (sc = .device ∨ sc = .system → ∀ d, d < 8 → g.wrote.le (s.die d).vc = true))
  let j := if sc = .lane then g else g.joinHorizons
  let takes := ord = .acq ∨ (sc ≠ .lane ∧ ord = .plain)
  (Completes (.fence sc ord h) s fun t =>
    t = { s with groups := t.groups, dies := t.dies } ∧ (∀ k, k ≠ s.cur.gid → t.group k = s.group k) ∧
    SplitAt s t (nextPc s h false) ∧
    t.grp = { g with splits := t.grp.splits, horizon := t.grp.horizon, groupHorizon := t.grp.groupHorizon,
                     fences := t.grp.fences } ∧
    (g.fences = [] → performed →
      t.grp.fences = [] ∧ t.grp.horizon = j.horizon ∧
      (takes → t.grp.groupHorizon = Stamp.max j.groupHorizon (g.readStamps f)) ∧
      (¬ takes → t.grp.groupHorizon = j.groupHorizon) ∧
      ∀ d, t.die d = if sc = .system ∧ d = s.cur.gid / 4096 then { s.die d with peerBuf := [] } else s.die d) ∧
    (g.fences = [] → ¬ performed →
      t.grp.fences = [f] ∧ t.grp.horizon = g.horizon ∧ t.grp.groupHorizon = g.groupHorizon ∧ t.dies = s.dies)) ∧
  ∀ (r n : Nat) (a : Addr) (ty : Ty) (o : Sync) (w : Nat) (rel crit : Bool),
    Fits s (pairOf ty r ++ if a.scalar then [] else [a.base]) →
    (∃ x ∈ g.fences, x.scope ≠ .lane ∨ x.lanes &&& s.em ≠ 0) →
    exec (.st r a ty false o w) s = .next s.stand ∧ exec (.arrive r n rel crit h) s = .next s.stand ∧
    ((∃ x ∈ g.fences, x.ord ≠ .rel ∧ (x.scope ≠ .lane ∨ x.lanes &&& s.em ≠ 0)) →
      exec (.ld r a ty false o w) s = .next s.stand)

/-! ## Engine commands -/

namespace Sys2Proof.Claims

/-- May an engine command issue: fewer than 1,024 operations of the core in flight (R203), no older acquire of the group
to be performed (R193), and no fence that holds it (R219)? -/
def mayIssue (s : State) : Prop := s.coreFull = false ∧ s.accessReady true = true

/-- The descriptor of n bytes at s(sa) is aligned and lies within .spad (R207, R212, R213). -/
def DescriptorAt (s : State) (sa align n : Nat) : Prop :=
  (s.grp.readS sa).toNat % align = 0 ∧ (s.grp.readS sa).toNat + n ≤ s.grp.decl.spad

/-- An operation as it issues (R203): its class and number, the PC and privilege of its command, what it is to do, its
barrier and the registers that it will write; nothing of it has been done. -/
def opOf (s : State) (cls : Cls) (kind : OpKind) (bar : Option Nat) (nominal : Nat) (dests : List RegId) : Op :=
  { id := s.nextOp, cls := cls, pc := s.pc, sup := s.spl.sup, kind := kind, bar := bar, nominal := nominal,
    begun := false, writes := [], results := [], dests := dests, counted := 0, status := 0, fault := none,
    carry := s.grp.groupHorizon, stamp := [], laneStamps := [], asked := [], got := [], lost := [], cut := [],
    pages := [], done := false }

/-- The operation has issued: it is the last of its group's, and the group can no longer be rewound past it (R334). The
registers of the group are as they were; what else the command may change is said beside it. -/
def HasIssued (s t : State) (o : Op) : Prop :=
  t = { s with groups := t.groups, quarters := t.quarters, dies := t.dies, contexts := t.contexts, colls := t.colls,
               nextOp := s.nextOp + 1 } ∧
  (∀ k, k ≠ s.cur.gid → t.group k = s.group k) ∧ t.spl.pc = s.pc + 12 ∧
  (∀ e, e ≠ s.cur.entry → t.grp.split e = s.grp.split e) ∧
  t.grp = { s.grp with splits := t.grp.splits, tlost := t.grp.tlost, horizon := t.grp.horizon,
                       groupHorizon := t.grp.groupHorizon, crit := t.grp.crit, critSince := t.grp.critSince,
                       critSpent := t.grp.critSpent, ops := s.grp.ops ++ [o], rewind := false }

/-- Only the groups have changed. -/
def OnlyGroups (s t : State) : Prop :=
  t.quarters = s.quarters ∧ t.dies = s.dies ∧ t.contexts = s.contexts ∧ t.colls = s.colls

/-- TLOST after a command that reads the value part only of registers rs in the lanes of em (R98). -/
def DropsTangents (s t : State) (rs : List Nat) : Prop :=
  ∀ l, l < 32 → t.grp.tlost.getLsbD l = (s.grp.tlost.getLsbD l || (s.em.getLsbD l && carries s rs l))

/-- With em = 0 the command is complete at once (R206): every operation of the group that is in progress after it was so
before, and no memory of a die or scratchpad has changed. It is not irrevocable: rewind-allowed stands, unless its completion frees a
split of the group that waits at a barrier. -/
def CompletesAtOnce (i : Instr) (s : State) : Prop :=
  Completes i s fun t => t.pc = s.pc + 12 ∧ (∀ o ∈ t.grp.ops, o.done = false → o ∈ s.grp.ops) ∧
    (∀ d, (t.die d).mem = (s.die d).mem) ∧ (∀ j, (t.gang j).spad = (s.gang j).spad) ∧
    (NoneWaits s → t.grp.rewind = s.grp.rewind)

end Sys2Proof.Claims

open Sys2Proof.Claims

/-- GATH, SCAT, PLD, PST, RED and AMG (R210, R211): one operation over the lanes of em, each with its translated
address, its data and what it carries; the destinations of GATH, PLD and AMG pend, and all but GATH and PLD drop the
tangents of their data (R99); with em = 0 the command is complete at once and nothing irrevocable has happened (R206). That the data of RED, AMG, SCAT and PST set TLOST is the model's reading (log 56), and so is it
that an order joins the horizons before the accesses are formed (log 55). -/
def Obligations.LaneEngineCommands : Prop :=
  ∀ (s : State) (vd va w : Nat) (off : Int) (op : Comb) (ty : Ty) (ord : MemOrd) (crit : Bool) (h : Nat),
  s.spl.state = .runnable → Fits s (pairOf ty vd ++ [va]) → mayIssue s →
  (s.em = 0 → CompletesAtOnce (.gath vd va w off ty h) s ∧ CompletesAtOnce (.scat vd va w off ty h) s ∧
    CompletesAtOnce (.pld vd va w off ty h) s ∧ CompletesAtOnce (.pst vd va w off ty h) s ∧
    (ord = .plain ∨ s.orderReady .device (isRel ord) = true → CompletesAtOnce (.red vd va w off op ty ord crit h) s ∧
      CompletesAtOnce (.amg vd va w off op ty ord crit h) s)) ∧
  (s.em ≠ 0 → ∀ pa : Nat → Nat,
    let addr := fun l => ((s.grp.readV va l).toNat : Int) + off
    let carry := fun (ord : MemOrd) l => (if ord = .plain then s.grp else s.grp.joinHorizons).carryLane l
    let passes := fun (acc : Access) (isPriv : Bool) (ord : MemOrd) => ∀ l, l < 32 → s.em.getLsbD l = true → ∃ e,
      s.laneCheck (s.cur.gid / 1024) s.grp.ctx (s.grp.window w) (addr l) ty.bytes acc isPriv s.spl.sup (carry ord l) =
        .ok (pa l) e
    let items := fun ord => (lanesOf s.em).map fun l => (⟨l, (((s.grp.window w).base : Int) + addr l).toNat, .phys (pa l),
      s.grp.elem ty vd l, carry ord l⟩ : LaneItem)
    let dests := (pairOf ty vd).map RegId.v
    let issued := fun (t : State) (cls : Cls) (form : LaneForm) (op : Comb) (ord : MemOrd) (crit : Bool) (ds : List RegId) =>
      HasIssued s t { opOf s cls (.lanes form vd ty op ord crit (items ord)) none 0 ds with
        carry := (if ord = .plain then s.grp else s.grp.joinHorizons).groupHorizon,
        pages := ((lanesOf s.em).map fun l => (((s.grp.window w).base : Int) + addr l).toNat / 65536).eraseDups } ∧
      t.dies = s.dies ∧ t.contexts = s.contexts ∧ t.colls = s.colls ∧ SplitAt s t (s.pc + 12) ∧
      Ordered s t ⟨ord, .device, crit⟩
    (passes .read false .plain → Completes (.gath vd va w off ty h) s fun t =>
      issued t .gs .load .add .plain false dests ∧ t.grp.tlost = s.grp.tlost) ∧
    (passes .write false .plain → Completes (.scat vd va w off ty h) s fun t =>
      issued t .gs .store .add .plain false [] ∧ DropsTangents s t (pairOf ty vd)) ∧
    (passes .read true .plain → Completes (.pld vd va w off ty h) s fun t =>
      issued t .pv .load .add .plain false dests ∧ t.grp.tlost = s.grp.tlost) ∧
    (passes .write true .plain → Completes (.pst vd va w off ty h) s fun t =>
      issued t .pv .store .add .plain false [] ∧ DropsTangents s t (pairOf ty vd)) ∧
    (passes .both false ord → ord = .plain ∨ (s.orderReady .device (isRel ord) = true ∧ s.orderReady .system (isRel ord) = true) →
      Completes (.red vd va w off op ty ord crit h) s (fun t =>
        issued t .rd .red op ord crit [] ∧ DropsTangents s t (pairOf ty vd)) ∧
      Completes (.amg vd va w off op ty ord crit h) s (fun t =>
        issued t .rd .amg op ord crit dests ∧ DropsTangents s t (pairOf ty vd))))

/-- The checks of a lane engine access in their order (R189): window bound, alignment, offset and address, permission of
the window, the private region, and the S bit of the page behind the fast path; one lane of em that fails traps with the
cause, and nothing issues. -/
def Obligations.LaneEngineChecks : Prop := ∀ (s : State) (vd va w : Nat) (off : Int) (ty : Ty) (h l : Nat),
  let x := s.grp.window w
  let o := ((s.grp.readV va l).toNat : Int) + off
  let c := s.context s.grp.ctx
  let inPrivate := fun (a : Int) => (c.pbase : Int) ≤ a ∧ a < (c.plim : Int)
  let a := (x.base : Int) + o
  let cause := fun (allowed : Bool) (isPriv : Bool) (k : Nat) =>
    (x.valid = false ∧ k = 0x31) ∨
    (x.valid = true ∧ o % (ty.bytes : Int) ≠ 0 ∧ k = 0x32) ∨
    (x.valid = true ∧ o % (ty.bytes : Int) = 0 ∧ (o < 0 ∨ (2 : Int) ^ 52 ≤ a) ∧ k = 0x33) ∨
    (x.valid = true ∧ o % (ty.bytes : Int) = 0 ∧ 0 ≤ o ∧ a < (2 : Int) ^ 52 ∧
      (allowed = false ∨ ¬ (inPrivate a ↔ isPriv = true)) ∧ k = 0x31) ∨
    (x.valid = true ∧ o % (ty.bytes : Int) = 0 ∧ 0 ≤ o ∧ a < (2 : Int) ^ 52 ∧ allowed = true ∧ isPriv = true ∧
      inPrivate a ∧ (c.phwm : Int) ≤ a ∧ k = 0x30) ∨
    (x.valid = true ∧ o % (ty.bytes : Int) = 0 ∧ 0 ≤ o ∧ a < (2 : Int) ^ 52 ∧ allowed = true ∧
      (inPrivate a ↔ isPriv = true) ∧ (isPriv = true → a < (c.phwm : Int)) ∧ o < (x.flim : Int) ∧ x.sup = true ∧
      s.spl.sup = false ∧ k = 0x31)
  let traps := fun (i : Instr) (k acc space : Nat) => Completes i s fun t => OnlyGroup s t ∧ t.grp.ops = s.grp.ops ∧
    (∀ r l, t.grp.readV r l = s.grp.readV r l) ∧ t.grp.life = .trapped ∧ t.grp.faultLane = l ∧
    (∃ r rest, t.grp.stack = r :: rest ∧ r.kind = .trap ∧ r.cause = k ∧ r.mask = s.em ∧ r.pc = s.pc) ∧
    Sparse.get LaneFault.zero t.grp.faults l = ⟨k - 0x30, acc, space, (a % (2 ^ 52 : Int)).toNat⟩
  l < 32 → (∀ k, k < 32 → (s.em.getLsbD k = true ↔ k = l)) → s.grp.stack.length + 1 ≤ 32 →
  Fits s (pairOf ty vd ++ [va]) → mayIssue s → ∀ k,
  (cause (x.perm ≠ .w) false k → traps (.gath vd va w off ty h) k 0 1) ∧
  (cause (x.perm ≠ .r) false k → traps (.scat vd va w off ty h) k 1 1) ∧
  (cause (x.perm ≠ .w) true k → traps (.pld vd va w off ty h) k 0 3) ∧
  (cause (x.perm ≠ .r) true k → traps (.pst vd va w off ty h) k 1 3) ∧
  (cause (x.perm = .rw) false k → ∀ op crit, traps (.red vd va w off op ty .plain crit h) k 2 1 ∧
    traps (.amg vd va w off op ty .plain crit h) k 2 1)

/-- CPY (R207 to R209): a descriptor that R209 refuses issues an operation that has failed with ILLF, and any other, once
both sides have been translated, an operation that moves what it describes; it counts its bytes into its barrier (R204).
A copy that lands more than 1 MiB, tangents counted, first needs a power grant: without one it is held at issue and asks for a unit
(R206, R397). That its sources are read all at once, when it begins, is the
model's reading (log 62). -/
def Obligations.CopyCommand : Prop := ∀ (s : State) (sa : Nat) (bk : BarOp) (h : Nat),
  let d := spadAt s (s.grp.readS sa).toNat 256
  let c := copyDesc d
  let recs := if c.map then (List.range (c.rowLen / 128)).map fun j => spadAt s (16 * c.mapoff + 16 * j) 16 else []
  let bar := if bk.be then some bk.bar else none
  let nominal := c.nominal s.grp.decl s.fresh
  let slots := if c.dkind = 0 then s.grp.decl.d * (if s.grp.decl.bf16 then 2 else 4)
    else c.planes * (if c.bf16 then 2 else 4)
  let landed := c.count * (c.dstTy.bytes + if c.dual then slots else 0)
  DescriptorAt s sa 64 256 → mayIssue s →
  (c.illFormed s.grp.decl recs = true → Completes (.cpy sa bk h) s fun t =>
    HasIssued s t { opOf s .cp .empty bar nominal [] with begun := true, status := 8 } ∧ OnlyGroups s t ∧
    SplitAt s t (s.pc + 12)) ∧
  (c.illFormed s.grp.decl recs = false → ∀ src dst l1 l2, s.srcSide c recs = .ok src l1 → s.dstSide c = .ok dst l2 →
    (landed ≤ 2 ^ 20 ∧
        (∀ p ∈ (s.die (s.cur.gid / 4096)).grants, p.user ≠ .split s.cur.gid s.cur.entry) →
      Completes (.cpy sa bk h) s fun t =>
        HasIssued s t (opOf s .cp (.copy ⟨d, recs, src, dst, s.grp.decl⟩) bar nominal []) ∧
        t.contexts = s.contexts ∧ t.colls = s.colls ∧ (∀ k, t.die k = s.die k) ∧ SplitAt s t (s.pc + 12)) ∧
    (2 ^ 20 < landed → s.spl.hold ≠ .granted →
      let die := s.cur.gid / 4096
      Completes (.cpy sa bk h) s fun t => t = { s with groups := t.groups, dies := t.dies, stands := true } ∧
        (∀ k, k ≠ s.cur.gid → t.group k = s.group k) ∧ (∀ e, e ≠ s.cur.entry → t.grp.split e = s.grp.split e) ∧
        t.spl = { s.spl with hold := .power } ∧ t.grp = { s.grp with splits := t.grp.splits } ∧
        ∀ k, t.die k = if k = die then
            { s.die k with requests := (s.die k).requests ++ [⟨.split s.cur.gid s.cur.entry, 1, s.clock⟩] }
          else s.die k) ∧
    (s.spl.hold = .granted → Completes (.cpy sa bk h) s fun t =>
      (∃ o, o.id = s.nextOp ∧ o.cls = .cp ∧ o.kind = .copy ⟨d, recs, src, dst, s.grp.decl⟩ ∧ o.bar = bar ∧
        o.nominal = nominal ∧ o.done = false ∧ t.grp.ops = s.grp.ops ++ [o]) ∧ t.pc = s.pc + 12 ∧
      ∀ p ∈ (t.die (s.cur.gid / 4096)).grants, p.user ≠ .split s.cur.gid s.cur.entry))

/-- TEX, TEXG, ISECT and VISQ (R212): one operation over the lanes of em with what each lane's operands hold; texture
footprints come from the tangents by role unless .L0 drops them (R102), and every tangent that the footprint does not read
sets TLOST (R99); a ray descriptor that R381 refuses ends every lane as a miss, with ILLF. That the operands of ISECT, VISQ and
TEX .L0 set TLOST is the model's reading (log 61). -/
def Obligations.TextureAndRays : Prop := ∀ (s : State) (vd va sa : Nat) (l0 : Bool) (bk : BarOp) (h : Nat),
  let d := spadAt s (s.grp.readS sa).toNat 64
  let win := s.grp.window (descWin d)
  let tan := fun (r l code : Nat) => match (List.range s.grp.decl.d).find? fun k => decide (s.grp.decl.roles.getD k 0 = code) with
    | some k => if s.grp.decl.bf16 then (s.grp.readT r k l).toNat * 65536 else (s.grp.readT r k l).toNat
    | none => 0
  let unread := fun (r l : Nat) => s.grp.dual r = true ∧ ∃ k, k < s.grp.decl.d ∧
    (∀ code, code = 1 ∨ code = 2 → (List.range s.grp.decl.d).find? (fun j => decide (s.grp.decl.roles.getD j 0 = code)) ≠ some k) ∧
    tanZero s.grp.decl.bf16 (s.grp.readT r k l) = false
  let drops := fun (t : State) => ∀ l, l < 32 → (t.grp.tlost.getLsbD l = true ↔ s.grp.tlost.getLsbD l = true ∨
    (s.em.getLsbD l = true ∧ (unread va l ∨ unread (va + 1) l)))
  let samples := (lanesOf s.em).map fun l => (⟨l, (s.grp.readV va l).toNat, (s.grp.readV (va + 1) l).toNat,
    [tan va l 1, tan va l 2, tan (va + 1) l 1, tan (va + 1) l 2], s.grp.carryLane l⟩ : Sample)
  let rays := fun (vis : Bool) (n : Nat) => (lanesOf s.em).map fun l => (⟨l, (List.range n).map fun k =>
    (s.grp.readV (va + k) l).toNat, s.grp.carryLane l, false,
    if structBad vis d win then some (missWords vis rayInvalid) else none⟩ : Ray)
  let dests := fun n => ((List.range n).map (vd + ·)).map RegId.v
  let bar := if bk.be then some bk.bar else none
  let issuesRay := fun (i : Instr) (vis : Bool) (n : Nat) => Completes i s fun t =>
    HasIssued s t { opOf s .ix (.ray vis vd d win (rays vis n)) bar (20 * (rays vis n).length) (dests 5) with
      status := if structBad vis d win then 8 else 0 } ∧
    OnlyGroups s t ∧ SplitAt s t (s.pc + 12) ∧ DropsTangents s t ((List.range n).map (va + ·))
  DescriptorAt s sa 64 64 → mayIssue s → s.spl.state = .runnable →
  (Fits s ((List.range 4).map (vd + ·) ++ [va, va + 1]) →
    (s.em ≠ 0 →
      Completes (.tex vd va sa l0 h) s (fun t =>
        HasIssued s t (opOf s .tx (.tex false vd d win l0 samples) none 0 (dests 4)) ∧ OnlyGroups s t ∧
        SplitAt s t (s.pc + 12) ∧ (l0 = true → DropsTangents s t [va, va + 1]) ∧ (l0 = false → drops t)) ∧
      Completes (.texg vd va sa l0 h) s (fun t =>
        HasIssued s t (opOf s .tx (.tex true vd d win l0 samples) none 0 (dests 4)) ∧ OnlyGroups s t ∧
        SplitAt s t (s.pc + 12) ∧ (l0 = true → DropsTangents s t [va, va + 1]) ∧ (l0 = false → drops t))) ∧
    (s.em = 0 → CompletesAtOnce (.tex vd va sa l0 h) s ∧ CompletesAtOnce (.texg vd va sa l0 h) s)) ∧
  (Fits s ((List.range 5).map (vd + ·) ++ (List.range 8).map (va + ·)) → s.em ≠ 0 →
    issuesRay (.isect vd va sa bk h) false 8) ∧
  (Fits s ((List.range 5).map (vd + ·) ++ [va, va + 1]) → s.em ≠ 0 → issuesRay (.visq vd va sa bk h) true 2) ∧
  (Fits s ((List.range 5).map (vd + ·) ++ (List.range 8).map (va + ·)) → s.em = 0 →
    CompletesAtOnce (.isect vd va sa bk h) s ∧ CompletesAtOnce (.visq vd va sa bk h) s)

/-- COLL (R213, R365): with its horizons joined (R286) the command issues as the next collective of its context and group,
its header joined to those of the other ranks; a descriptor that R213 refuses, or a group that is not there, fails with
ILLF. The number by context and group, and the joined header, are the model's readings (log 41, log 62). -/
def Obligations.Collectives : Prop :=
  ∀ (s : State) (kind : CollKind) (op : CollOp) (ty : Ty) (sa bar group h : Nat),
  let d := spadAt s (s.grp.readS sa).toNat 32
  let n := collCount d
  let c := s.context s.grp.ctx
  let no := Sparse.get 0 c.collCount group
  let w := fun (p rank : Nat) (bad : Bool) (src dst : Side) =>
    (⟨kind, op, ty, group, no, d, bad, src, dst, p, rank⟩ : CollWork)
  let els := fun (off : Int) (k : Nat) => (List.range k).map fun i => (off + ((i * ty.bytes : Nat) : Int), ty.bytes)
  DescriptorAt s sa 32 32 → mayIssue s → s.grp.readsLanded = true → s.everywhere s.grp.joinHorizons.groupHorizon = true →
  (group ≥ 1024 ∨ Sparse.get none c.colls group = none → Completes (.coll kind op ty sa bar group h) s fun t =>
    HasIssued s t { opOf s .cl .empty (some bar) (n * ty.bytes % 2 ^ 40) [] with
      begun := true, status := 8 } ∧ OnlyGroups s t ∧ SplitAt s t (s.pc + 12)) ∧
  (∀ e, group < 1024 → Sparse.get none c.colls group = some e →
    let p := e.ranks.length
    let bad := collBad kind ty d p s.grp.decl.occupancy
    let srcN := if kind = .rscat then n * p else n
    let dstN := if kind = .agath then n * p else n
    ∀ src dst l1 l2,
      (bad = true → src = .spad s.grp.gang ∧ dst = .spad s.grp.gang) →
      (bad = false → collSrcSpad d = true → src = .spad s.grp.gang) →
      (bad = false → collSrcSpad d = false →
        s.windowSide (s.grp.window (collSrcWin d)) .read (els (collSrcOff d) srcN) = .ok src l1) →
      (bad = false → collDstSpad d = true → dst = .spad s.grp.gang) →
      (bad = false → collDstSpad d = false →
        s.windowSide (s.grp.window (collDstWin d)) .write (els (collDstOff d) dstN) = .ok dst l2) →
      Completes (.coll kind op ty sa bar group h) s fun t =>
        HasIssued s t { opOf s .cl (.coll (w p e.rank bad src dst)) (some bar) (dstN * ty.bytes % 2 ^ 40) [] with
          carry := s.grp.joinHorizons.groupHorizon } ∧
        SplitAt s t (s.pc + 12) ∧ t.dies = s.dies ∧
        Sparse.get 0 (t.context s.grp.ctx).collCount group = no + 1 ∧
        ∃ x, x ∈ t.colls ∧ x.ctx = s.grp.ctx ∧ x.group = group ∧ x.no = no ∧ x.here = some ⟨s.cur.gid, s.nextOp⟩ ∧
          (bad = true → x.bad = true))

/-! ## The matrix engine -/

namespace Sys2Proof.Claims

/-- Nothing but the listed parts has changed: the issuing group's record, the quarter of the group, and the next number. -/
def QuarterAndGroup (s t : State) : Prop :=
  t = { s with groups := t.groups, quarters := t.quarters, dies := t.dies, nextOp := t.nextOp } ∧
  (∀ k, k ≠ s.cur.gid → t.group k = s.group k) ∧
  (∀ k, (t.die k).mem = (s.die k).mem ∧ (t.die k).ws = (s.die k).ws) ∧
  ∀ k, k ≠ s.cur.gid / 1024 → t.quarter k = s.quarter k

/-- The operation o has issued (R203) and stands last at the sequencer or the sweeper; the split goes on at the next PC with
its power grant, if it had one, given to the operation. -/
def Arrived (s t : State) (o : Op) : Prop :=
  QuarterAndGroup s t ∧ t.nextOp = s.nextOp + 1 ∧
  t.spl = { s.spl with pc := s.pc + 12, hold := t.spl.hold } ∧
  (∀ e, e ≠ s.cur.entry → t.grp.split e = s.grp.split e) ∧
  t.grp = { s.grp with splits := t.grp.splits, t := t.grp.t, f := t.grp.f, tlost := t.grp.tlost,
                       ops := s.grp.ops ++ [o], rewind := false }

/-- A matrix operation has arrived at the sequencer; the handle named in `bound` has a new run, and every other keeps
its own. -/
def ArrivesAtArray (i : Instr) (s : State) (m : MatrixOp) (bar : Option Nat) (nominal : Nat) (σ : Stamp)
    (bound : Option (Nat × Run)) : Prop :=
  let q := s.cur.gid / 1024
  Completes i s fun t =>
    Arrived s t { opOf s .mx (.matrix m) bar (nominal % 2 ^ 40) [] with stamp := σ } ∧
    t.quarter q = { s.quarter q with seq := (s.quarter q).seq ++ [⟨s.cur.gid, s.nextOp⟩], tlb := (t.quarter q).tlb } ∧
    t.grp.f = s.grp.f ∧ t.grp.tlost = s.grp.tlost ∧
    ∀ k, t.grp.tile k = if bound.map Prod.fst = some k then (bound.map Prod.snd).getD none else s.grp.tile k

/-- The group's context owns the accumulator bank of its quarter (R247). -/
def OwnsBank (s : State) : Prop :=
  (s.quarter (s.cur.gid / 1024)).owned = true ∧ (s.quarter (s.cur.gid / 1024)).octx = s.grp.ctx

/-- Rows and columns of the block, K indices of a pass, and the length and outputs of a streamed row, by fusion mode, type
and direction (R234, R239). -/
def rowsOf (mode : Nat) : Nat := if mode = 2 ∨ mode = 3 then 512 else 256
def colsOf (mode : Nat) : Nat := if mode = 1 ∨ mode = 3 then 512 else 256
def depthOf (mode : Nat) (ty : Ty) : Nat := (if ty = .e4m3 then 4 else 2) * rowsOf mode

/-- Bytes of a stationary operand, and of one 32-row block of streamed rows of n elements (R231, R235). -/
def operandBytes (mode : Nat) (ty : Ty) : Nat :=
  depthOf mode ty * colsOf mode * ty.bytes +
    if ty = .e4m3 then 4 * (depthOf mode ty / 128) * (colsOf mode / 128) else 0
def blockOf (ty : Ty) (n : Nat) : Nat := if ty = .e4m3 then 33 * n else 64 * n

/-- The slot of tag g in a ring of the issuing group's context, as its die reads it: K, and VALID, TAG and BASE (R242). -/
def ringByte (s : State) (ring off n : Nat) : Nat :=
  ((s.die (s.cur.gid / 4096)).read (ringAt s.grp.ctx ring + off) n).num

/-- May a ring instruction go on: what it carries and every older write of the ring has been applied on its die. -/
def ringMay (s : State) (ring : Nat) : Prop :=
  s.accessReady true = true ∧ s.ringReady ring = true ∧ s.cur.gid < 32768 ∧ Numbered s

/-- The group after a ring instruction: the PC, the rewind bit, and the stamps of what it has written. -/
def RingKeeps (s t : State) : Prop :=
  (∀ k, k ≠ s.cur.gid → t.group k = s.group k) ∧ SplitAt s t (s.pc + 12) ∧ t.gangs = s.gangs ∧ t.quarters = s.quarters ∧
  t.grp = { s.grp with splits := t.grp.splits, rewind := false, wrote := t.grp.wrote }

end Sys2Proof.Claims

open Sys2Proof.Claims

/-- The six sequenced matrix instructions at issue (R228 to R230, R233, R237, R243, R245), in a group whose context owns
the bank: each checks its operands, takes its place at the sequencer (R224) and leaves what it binds in its handle. The ring
form of MSTAT takes its base from the slot of its tag (R242), in the model's layout of a ring (log 27). -/
def Sys2Proof.Claims.MatrixCommands : Prop :=
  ∀ (s : State) (t first count sa sb sc ring : Nat) (back add : Bool) (bk : BarOp) (ty : Ty) (off : Int) (h : Nat),
  let mode := (s.quarter (s.cur.gid / 1024)).fuse
  let bar := if bk.be then some bk.bar else none
  let spad := s.grp.decl.spad
  let tile := s.grp.tile t
  let inSpad := fun (a : Int) (n : Nat) => 0 ≤ a ∧ a + (n : Int) ≤ (spad : Int)
  mayIssue s → OwnsBank s →
  (first + count ≤ 1024 →
    ArrivesAtArray (.mzero t first count bk h) s (.mzero (some (first, count))) bar (4096 * count) []
      (some (t, some (first, count))) ∧
    ArrivesAtArray (.mbind t first count h) s (.mbind (some (first, count))) none 0 [] (some (t, some (first, count)))) ∧
  ArrivesAtArray (.mfree t h) s (.mfree tile) none 0 [] (some (t, none)) ∧
  (let a := (s.grp.readS sa).toInt + off
   let m := (s.grp.readS sc).toNat
   let maps := sc ≠ 0 → m % 16 = 0 ∧ m + 16 * (depthOf mode ty / 128) ≤ spad
   a % 64 = 0 → maps →
    (inSpad a (operandBytes mode ty) →
      ArrivesAtArray (.mstat false (.base sa) sc bk ty off h) s
        (.mstat ty false a.toNat (if sc = 0 then none else some m)) bar (operandBytes mode ty) [] none) ∧
    (0 ≤ a → (s.readWs (s.grid s.grp.grid).wsmap (s.cur.gid / 4096) a.toNat (operandBytes mode ty)).isSome = true →
      ArrivesAtArray (.mstat true (.base sa) sc bk ty off h) s
        (.mstat ty true a.toNat (if sc = 0 then none else some m)) bar (operandBytes mode ty) [] none)) ∧
  (let cap := ringByte s ring 0 1
   let g := (s.grp.readS sb).toNat % 2 ^ 32
   let slot := 16 + 16 * (g % cap)
   let a := (BitVec.ofNat 64 (ringByte s ring (slot + 8) 8)).toInt + off
   let m := (s.grp.readS sc).toNat
   s.ready (s.cur.gid / 4096) s.grp.groupHorizon = true → cap ≠ 0 → ringByte s ring slot 1 = 1 →
   ringByte s ring (slot + 4) 4 = g → a % 64 = 0 →
   (sc ≠ 0 → m % 16 = 0 ∧ m + 16 * (depthOf mode ty / 128) ≤ spad) → inSpad a (operandBytes mode ty) →
   ArrivesAtArray (.mstat false (.ring ring sb) sc bk ty off h) s
     (.mstat ty false a.toNat (if sc = 0 then none else some m)) bar (operandBytes mode ty) (s.ringStamp ring) none) ∧
  (let n := (s.grp.readS sc).toNat
   let tiles := (if back then depthOf mode ty else colsOf mode) / 32
   let row := if back then colsOf mode else depthOf mode ty
   let incS := ((s.grp.readS sb).setWidth 32).toInt
   let incA := (s.grp.readS sb).toNat / 2 ^ 32
   let a := (s.grp.readS sa).toInt
   let m := MatrixOp.mloop tile back ty a.toNat incS incA n
   (n = 0 → ArrivesAtArray (.mloop t back sa sb sc bk ty h) s m bar 0 [] none) ∧
   (0 < n → s.spl.hold = .granted → (∃ r, tile = some r ∧ (n - 1) * incA + tiles ≤ r.2) →
      (∀ k, k < n → (a + (k : Int) * incS) % 256 = 0 ∧ inSpad (a + (k : Int) * incS) (blockOf ty row)) →
      ArrivesAtArray (.mloop t back sa sb sc bk ty h) s m bar (4096 * tiles * n) [] none)) ∧
  (∀ r : Nat × Nat, tile = some r →
    let o := (s.grp.readS sa).toInt + off
    let n := 1024 * r.2 * ty.bytes
    let scale := if sb = 0 then 0x3F800000 else (s.grp.readS sb).toNat % 2 ^ 32
    o % 64 = 0 → (inSpad o n → ArrivesAtArray (.mdrain t none sa sb add bk ty off h) s
        (.mdrain (some r) (.spad s.grp.gang) o.toNat scale add ty) bar n [] none) ∧
      ∀ w dst ls, s.windowSide (s.grp.window w) (if add then .both else .write) ((List.range (1024 * r.2)).map fun i =>
          (o + ((i * ty.bytes : Nat) : Int), ty.bytes)) = .ok dst ls →
        ArrivesAtArray (.mdrain t (some w) sa sb add bk ty off h) s
          (.mdrain (some r) dst o.toNat scale add ty) bar n [] none)

/-- Where matrix instructions trap (R228 to R230, R237, R243, R248): another context owns the bank; an unbound or short
handle; a base that is no multiple of 64, a block that is no multiple of 256 or a map that is no multiple of 16; bytes outside
the scratchpad; a ring that is not initialised, or a tag that its slot does not hold. The layout of a ring is the model's
(log 27). -/
def Sys2Proof.Claims.MatrixTraps : Prop :=
  ∀ (s : State) (t sa sb sc r : Nat) (back add : Bool) (bk : BarOp) (ty : Ty) (off : Int) (h cause : Nat),
  let q := s.quarter (s.cur.gid / 1024)
  let traps := fun (i : Instr) (c : Nat) => Completes i s fun u => OnlyGroup s u ∧ u.grp.ops = s.grp.ops ∧
    u.grp.life = .trapped ∧ ∃ x rest, u.grp.stack = x :: rest ∧ x.kind = .trap ∧ x.cause = c ∧ x.mask = s.em ∧ x.pc = s.pc
  let spad := s.grp.decl.spad
  let inSpad := fun (a : Int) (n : Nat) => 0 ≤ a ∧ a + (n : Int) ≤ (spad : Int)
  let a := (s.grp.readS sa).toInt + off
  let n := operandBytes q.fuse ty
  let m := (s.grp.readS sc).toNat
  let mapBytes := 16 * (depthOf q.fuse ty / 128)
  mayIssue s → s.grp.stack.length + 1 ≤ 32 →
  (q.owned = true → q.octx ≠ s.grp.ctx → cause ≤ 1024 →
    traps (.mzero t 0 cause bk h) 0x40 ∧ traps (.mbind t 0 cause h) 0x40 ∧ traps (.mfree t h) 0x40 ∧
    traps (.mloop t back sa sb sc bk ty h) 0x40 ∧ traps (.mdrain t none sa sb add bk ty off h) 0x40) ∧
  (OwnsBank s → s.grp.tile t = none →
    traps (.mdrain t none sa sb add bk ty off h) 0x33 ∧
    (s.grp.readS sc ≠ 0 → traps (.mloop t back sa sb sc bk ty h) 0x33)) ∧
  (OwnsBank s → ∀ x : Nat × Nat, s.grp.tile t = some x →
    (let count := (s.grp.readS sc).toNat
     let tiles := (if back then depthOf q.fuse ty else colsOf q.fuse) / 32
     let bytes := blockOf ty (if back then colsOf q.fuse else depthOf q.fuse ty)
     let incA := (s.grp.readS sb).toNat / 2 ^ 32
     let block := fun (k : Nat) => (s.grp.readS sa).toInt + (k : Int) * ((s.grp.readS sb).setWidth 32).toInt
     (count ≠ 0 → x.2 < (count - 1) * incA + tiles → traps (.mloop t back sa sb sc bk ty h) 0x33) ∧
     ((count - 1) * incA + tiles ≤ x.2 →
       ((∃ k, k < count ∧ block k % 256 ≠ 0) → traps (.mloop t back sa sb sc bk ty h) 0x32) ∧
       ((∀ k, k < count → block k % 256 = 0) → (∃ k, k < count ∧ ¬ inSpad (block k) bytes) →
         traps (.mloop t back sa sb sc bk ty h) 0x33))) ∧
    (a % 64 ≠ 0 → ∀ w, traps (.mdrain t w sa sb add bk ty off h) 0x32) ∧
    (a % 64 = 0 → ¬ inSpad a (1024 * x.2 * ty.bytes) → traps (.mdrain t none sa sb add bk ty off h) 0x33)) ∧
  (a % 64 ≠ 0 → ∀ ws, traps (.mstat ws (.base sa) sc bk ty off h) 0x32) ∧
  (a % 64 = 0 → ¬ inSpad a n → traps (.mstat false (.base sa) sc bk ty off h) 0x33) ∧
  (a % 64 = 0 → (a < 0 ∨ (s.readWs (s.grid s.grp.grid).wsmap (s.cur.gid / 4096) a.toNat n).isNone = true) →
    traps (.mstat true (.base sa) sc bk ty off h) 0x33) ∧
  (a % 64 = 0 → inSpad a n → sc ≠ 0 →
    (m % 16 ≠ 0 → traps (.mstat false (.base sa) sc bk ty off h) 0x32) ∧
    (m % 16 = 0 → spad < m + mapBytes → traps (.mstat false (.base sa) sc bk ty off h) 0x33)) ∧
  (let cap := ringByte s r 0 1
   let g := (s.grp.readS sb).toNat % 2 ^ 32
   let slot := 16 + 16 * (g % cap)
   s.ready (s.cur.gid / 4096) s.grp.groupHorizon = true →
   (cap = 0 ∨ ringByte s r slot 1 ≠ 1 ∨ ringByte s r (slot + 4) 4 ≠ g) →
   traps (.mstat false (.ring r sb) sc bk ty off h) 0x41)

/-- MRINIT, MRPUSH and MRREL (R242) as the issuing die reads the ring afterwards, in the model's layout of a ring (log 27), and
MQSR (R246). -/
def Obligations.RingsAndStatus : Prop := ∀ (s : State) (ring sa sb sd k h : Nat),
  let g := (s.grp.readS sb).toNat % 2 ^ 32
  let cap := ringByte s ring 0 1
  let slot := 16 + 16 * (g % cap)
  let q := s.cur.gid / 1024
  let x := s.quarter q
  let next := s.pc + 12
  (ringMay s ring → 1 ≤ k → k ≤ 8 → Completes (.mrinit ring k h) s fun t => RingKeeps s t ∧ ringByte t ring 0 1 = k ∧
    ∀ j, j < 8 → ringByte t ring (16 + 16 * j) 1 = 0) ∧
  (ringMay s ring → (cap = 0 → Completes (.mrpush ring sa sb h) s fun t => RingKeeps s t ∧ t.dies = s.dies) ∧
    (1 ≤ cap → cap ≤ 8 → Completes (.mrpush ring sa sb h) s fun t => RingKeeps s t ∧ ringByte t ring 0 1 = cap ∧
      ringByte t ring slot 1 = 1 ∧ ringByte t ring (slot + 4) 4 = g ∧
      ringByte t ring (slot + 8) 8 = (s.grp.readS sa).toNat ∧
      ∀ j, j < cap → j ≠ g % cap → ringByte t ring (16 + 16 * j) 16 = ringByte s ring (16 + 16 * j) 16)) ∧
  (ringMay s ring →
    (cap = 0 ∨ ringByte s ring slot 1 ≠ 1 ∨ ringByte s ring (slot + 4) 4 ≠ g →
      Completes (.mrrel ring sb h) s fun t => RingKeeps s t ∧ t.dies = s.dies) ∧
    (1 ≤ cap → cap ≤ 8 → ringByte s ring slot 1 = 1 → ringByte s ring (slot + 4) 4 = g →
      Completes (.mrrel ring sb h) s fun t => RingKeeps s t ∧ ringByte t ring 0 1 = cap ∧ ringByte t ring slot 1 = 0 ∧
        ∀ j, j < cap → j ≠ g % cap → ringByte t ring (16 + 16 * j) 16 = ringByte s ring (16 + 16 * j) 16)) ∧
  Completes (.mqsr sd 0 h) s (fun t => PutsScalar s t sd (s.grp.mxstat.setWidth 64) next) ∧
  Completes (.mqsr sd 1 h) s (fun t => OnlyGroup s t ∧ SplitAt s t next ∧ t.grp.mxstat = 0 ∧
    (∀ r, t.grp.readS r = if r = sd ∧ sd ≠ 0 then s.grp.mxstat.setWidth 64 else s.grp.readS r) ∧
    t.grp = { s.grp with mxstat := 0, s := t.grp.s, splits := t.grp.splits, rewind := t.grp.rewind }) ∧
  Completes (.mqsr sd 2 h) s (fun t => PutsScalar s t sd
    ((BitVec.ofNat 11 (if x.owned ∧ x.octx = s.grp.ctx then (Sparse.keys x.live).length else 0) ++ 0#15 ++
      BitVec.ofBool x.owned ++ BitVec.ofNat 16 x.octx).setWidth 64) next) ∧
  Completes (.mqsr sd 3 h) s (fun t => PutsScalar s t sd
    (let lead := if x.fuse = 0 then q % 4 else x.lead
     (BitVec.ofNat 4 (match Sparse.get none x.stat s.grp.ctx with
        | some y => y.ty.code
        | none => 15) ++ 0#5 ++ BitVec.ofBool (decide (lead = q % 4)) ++ BitVec.ofNat 2 lead ++ 0#2 ++
      BitVec.ofNat 2 x.fuse).setWidth 64) next)

namespace Sys2Proof.Claims

/-- Operation id of a group has been carried out with status bits st, or has been refused with them; what it writes stands
ready. -/
def CarriedOut (s t : State) (gid : Nat) (o : Op) (st : Nat) (writes : List Pending) : Prop :=
  ∃ o', (t.group gid).op? o.id = some o' ∧ o'.begun = true ∧ o'.status = o.status ||| BitVec.ofNat 32 st ∧
    o'.writes = writes ∧ o'.kind = o.kind ∧ o'.done = o.done ∧ (t.group gid).v = (s.group gid).v

/-- The one operation that the sequencer of quarter q may take next is o of group gid (R224): it stands first, and every
operation behind it is of the same group; no operation carried out before it still writes, it has the power that it needs (R397), and
no older operation of its class still touches what it reads (R192). -/
def NextAtArray (s : State) (q gid : Nat) (o : Op) (m : MatrixOp) (rest : List OpRef) : Prop :=
  (s.quarter q).seq = ⟨gid, o.id⟩ :: rest ∧ (∀ x ∈ rest, x.gid = gid) ∧ gid / 1024 = q ∧
  (s.group gid).op? o.id = some o ∧ o.kind = .matrix m ∧ s.clockStopped = false ∧ s.hasPower gid o = true ∧
  (∀ p ∈ s.groups, p.1 / 1024 = q → ∀ z ∈ p.2.ops, z.cls = .mx → z.done = false → z.writes = []) ∧
  ((s.matrixReads gid m).any fun p => (s.group gid).blocked opTouches o p.1 p.2) = false

/-- Tiles ks of a bank hold f, every other element is as it was, and which tiles are live is given by v. -/
def TilesAre (x y : Quarter) (ks : List Nat) (f : Nat → Nat → Word32 → Prop) (v : Nat → Bool) : Prop :=
  (∀ k i, i < 1024 → if k ∈ ks then f k i (y.readTile k i) else y.readTile k i = x.readTile k i) ∧
  (∀ k, y.isLive k = if k ∈ ks then v k else x.isLive k) ∧ y.owned = x.owned ∧ y.octx = x.octx ∧ y.fuse = x.fuse

end Sys2Proof.Claims

open Sys2Proof.Claims

/-- MATRIX_OPERATION_EXECUTE (R224), where every operation that waits is of one group (log 28): the operation leaves the sequencer carried out. MZERO and MBIND make their run live,
MZERO with +0 in every element; MFREE frees it (R222, R245); MDRAIN reads its tiles and prepares the writes of each element
times the scale (R243); MSTAT takes in the operand from the scratchpad (R232, R233), an element with a poisoned or bad byte as +0 with
the status of its bytes (R205, R226). While an operation carried out before still writes, none is taken. What stands in a freed tile
is free (log 5). -/
def Obligations.SequencerCarriesOut : Prop := ∀ (s : State) (q gid : Nat) (o : Op) (m : MatrixOp) (rest : List OpRef),
  ((∃ p ∈ s.groups, p.1 / 1024 = q ∧ ∃ z ∈ p.2.ops, z.cls = .mx ∧ z.done = false ∧ z.writes ≠ []) →
    (s.quarter q).seq = [⟨gid, o.id⟩] → (s.group gid).op? o.id = some o → o.kind = .matrix m →
    exec (.matrixOperationExecute q) s = .next s) ∧
  (NextAtArray s q gid o m rest →
  let x := s.quarter q
  let g := s.group gid
  Completes (.matrixOperationExecute q) s fun t =>
    let y := t.quarter q
    y.seq = rest ∧ (∀ k, k ≠ q → t.quarter k = s.quarter k) ∧ (∀ k, (t.die k).mem = (s.die k).mem) ∧
    (∀ r, m = .mzero r → CarriedOut s t gid o 0 [] ∧ TilesAre x y (runTiles r) (fun _ _ w => w = 0) fun _ => true) ∧
    (∀ r, m = .mbind r → CarriedOut s t gid o 0 [] ∧
      TilesAre x y (runTiles r) (fun k i w => w = x.readTile k i) fun _ => true) ∧
    (∀ r, m = .mfree r → CarriedOut s t gid o 0 [] ∧ TilesAre x y (runTiles r) (fun _ _ _ => True) fun _ => false) ∧
    (∀ r dst addr scale ty, m = .mdrain (some r) dst addr scale false ty →
      TilesAre x y [] (fun _ _ _ => True) (fun _ => true) ∧
      ∃ st ws, CarriedOut s t gid o st ws ∧ ws.length = 1024 * r.2 ∧
        ∀ k i, k < r.2 → i < 1024 → ws[1024 * k + i]? = some
          ⟨sidePlace dst (addr + (1024 * k + i) * ty.bytes),
            bytesOf ty.bytes (roundTo (fmtOf ty) .rne
              (XVal.mul (Fmt.f32.value (x.readTile (r.1 + k) i).toNat) (Fmt.f32.value scale))), false, [], ty⟩) ∧
    (∀ ty addr, m = .mstat ty false addr none → x.fuse = 0 →
      let n := operandBytes 0 ty
      let err := fun j => Sparse.get 0 (s.gang g.gang).errs (addr + j)
      let width := fun j => if j < depthOf 0 ty * colsOf 0 * ty.bytes then ty.bytes else 4
      CarriedOut s t gid o ((List.range n).foldl (fun st j => st ||| err j) 0) [] ∧
      TilesAre x y [] (fun _ _ _ => True) (fun _ => true) ∧
      ∃ st, Sparse.get none y.stat g.ctx = some st ∧ st.ty = ty ∧ st.mode = 0 ∧ st.stale = false ∧
        ∀ j, j < n → ((∀ i, i < width j → err (j / width j * width j + i) = 0) →
            Sparse.get 0 st.bytes j = Sparse.get 0 (s.gang g.gang).spad (addr + j)) ∧
          ((∃ i, i < width j ∧ err (j / width j * width j + i) ≠ 0) → Sparse.get 0 st.bytes j = 0)))

/-- MLOOP carried out (R237): with no operand, an operand of another type or a quarter that does not lead its block it
fails with SHAD, TYPE or FUSE and changes no tile (R226); otherwise each step adds one pass of each row to the element
of its output (R69 to R73), here for steps whose tiles are apart, and reports what stands in the bytes it streams (R226). (Readings:
log 68.) -/
def Obligations.MatrixLoops : Prop := ∀ (s : State) (q gid : Nat) (o : Op) (m : MatrixOp) (rest : List OpRef),
  NextAtArray s q gid o m rest →
  let x := s.quarter q
  let g := s.group gid
  let lead := if x.fuse = 0 then q % 4 else x.lead
  ∀ (r : Nat × Nat) (back : Bool) (ty : Ty) (addr : Nat) (incS : Int) (incA n : Nat),
  m = .mloop (some r) back ty addr incS incA n → 0 < n →
  (∀ bad, bad = (if lead = q % 4 then 0 else 0x1000) + (match Sparse.get none x.stat g.ctx with
      | none => 0x800
      | some st => if st.ty = ty then 0 else 0x2000) → bad ≠ 0 →
    Completes (.matrixOperationExecute q) s fun t => CarriedOut s t gid o bad [] ∧
      TilesAre x (t.quarter q) [] (fun _ _ _ => True) fun _ => true) ∧
  (∀ st, lead = q % 4 → Sparse.get none x.stat g.ctx = some st → st.ty = ty → st.stale = false →
    let outs := if back then depthOf x.fuse ty else colsOf x.fuse
    let row := if back then colsOf x.fuse else depthOf x.fuse ty
    let read := (List.range n).foldl (fun st (k : Nat) => st |||
      (s.gang g.gang).spadStatus ((addr : Int) + (k : Int) * incS).toNat (blockOf ty row)) 0
    outs / 32 ≤ incA →
    Completes (.matrixOperationExecute q) s fun t =>
      (∃ b, b &&& 0xFFFFFCFF = 0 ∧ CarriedOut s t gid o (read ||| b) []) ∧
      TilesAre x (t.quarter q) ((List.range n).flatMap fun k => (List.range (outs / 32)).map (r.1 + k * incA + ·))
        (fun k e w => ∀ j c, j < n → c < outs / 32 → k = r.1 + j * incA + c →
          w = BitVec.ofNat 32 (onePass x.fuse ty back
            (s.passIn g.gang x.fuse st row ((addr : Int) + (j : Int) * incS).toNat (e / 32)) (32 * c + e % 32)
            (x.readTile k e).toNat))
        x.isLive)

/-! ## The factor unit -/

namespace Sys2Proof.Claims

/-- A factor operation stands last at the sweeper of the quarter, and the handle named in `bound` has a new binding. -/
def ArrivesAtSweeper (i : Instr) (s : State) (k : OpKind) (dests : List RegId) (drops : List (Nat × Nat))
    (bound : Option (Nat × FBind)) : Prop :=
  let q := s.cur.gid / 1024
  Completes i s fun t =>
    Arrived s t (opOf s .fx k none 0 dests) ∧
    t.quarter q = { s.quarter q with sweep := (s.quarter q).sweep ++ [⟨s.cur.gid, s.nextOp⟩] } ∧ t.grp.t = s.grp.t ∧
    (∀ l, l < 32 → t.grp.tlost.getLsbD l =
      (s.grp.tlost.getLsbD l || drops.any fun p => decide (p.2 = l) && carries s [p.1] l)) ∧
    ∀ f, t.grp.factor f = if bound.map Prod.fst = some f then (bound.map Prod.snd).getD none else s.grp.factor f

/-- The one operation that the sweeper of quarter q may take next: it has its power, and no operation carried out before it still
touches what it reads, or drains over its image (R192, R258, R397). -/
def NextAtSweeper (s : State) (q gid : Nat) (o : Op) (f slot n : Nat) (x : FactorOp) (rest : List OpRef) : Prop :=
  (s.quarter q).sweep = ⟨gid, o.id⟩ :: rest ∧ (∀ x ∈ rest, x.gid = gid) ∧ gid / 1024 = q ∧
  (s.group gid).op? o.id = some o ∧ o.kind = .factor f slot n x ∧ s.clockStopped = false ∧ s.hasPower gid o = true ∧
  ((factorReads (s.group gid).gang n x).any fun p => (s.group gid).blocked opTouches o p.1 p.2) = false ∧
  ((factorImage (s.group gid).gang n x).any fun p => s.drains (s.group gid).gang p.1 p.2) = false

/-- The operation has been carried out with status st, a fault word, prepared writes and register results, and slot k holds
y; every other slot is as it was. -/
def Swept (s t : State) (q gid : Nat) (o : Op) (st : Nat) (fault : Option Word64) (writes : List Pending)
    (results : List (RegId × Nat × Nat)) (k : Nat) (y : FactorSlot) : Prop :=
  (∃ o', (t.group gid).op? o.id = some o' ∧ o'.begun = true ∧ o'.status = o.status ||| BitVec.ofNat 32 st ∧
    o'.fault = fault ∧ o'.writes = writes ∧ o'.results = results ∧ o'.done = o.done) ∧
  (∀ j, (t.quarter q).slot j = if j = k then y else (s.quarter q).slot j) ∧
  (∀ j, (t.die j).mem = (s.die j).mem) ∧ t.gangs = s.gangs

/-- Element (k, j) of a stored tile, as a value. -/
def factorVal (y : FactorSlot) (k j : Nat) : XVal := Fmt.f32.value (Sparse.get 0 y.u (128 * k + j)).toNat

/-- A sum or quotient rounded once, nearest-even, with +0 for an exact zero (R73, R264). -/
def once (x : XVal) : Nat := if x.isZero then 0 else roundTo Fmt.f32 .rne x

/-- r, c and s of a row whose diagonal element is u and whose element of the vector is x (R264, R265). -/
def turnOf (down : Bool) (u x : XVal) : Nat × Nat × Nat :=
  let v := Fmt.f32.value
  let xx := XVal.mul x x
  let r := once (XVal.sqrt (XVal.add (XVal.mul u u) (if down then xx.neg else xx)))
  if down = false ∧ r = 0 then (0, 0x3F800000, 0) else (r, once (XVal.div u (v r)), once (XVal.div x (v r)))

/-- Element w of a row and x of the vector, turned by c and s with one rounding each; a tile element that rounds to a negative zero
is +0 (log 68). -/
def turned (down : Bool) (c s w x : Nat) : Nat × Nat :=
  let v := Fmt.f32.value
  let sx := XVal.mul (v s) (v x)
  let t := once (XVal.add (XVal.mul (v c) (v w)) (if down then sx.neg else sx))
  (if t = 2 ^ 31 then 0 else t, once (XVal.add (XVal.mul (v c) (v x)) (XVal.mul (v s) (v w)).neg))

/-- The working copy of the tile and the vector before row k of the sweep (R264, R265). -/
def workAt (down : Bool) (n : Nat) (tile : Nat → Nat → Nat) (vec : Nat → Nat) : Nat → (Nat → Nat → Nat) × (Nat → Nat)
  | 0 => (tile, vec)
  | k + 1 =>
    let p := workAt down n tile vec k
    let t := turnOf down (Fmt.f32.value (p.1 k k)) (Fmt.f32.value (p.2 k))
    let e := fun j => turned down t.2.1 t.2.2 (p.1 k j) (p.2 j)
    (fun i j => if i = k ∧ j = k then t.1 else if i = k ∧ k < j ∧ j < n then (e j).1 else p.1 i j,
     fun j => if k < j ∧ j < n then (e j).2 else p.2 j)

/-- Why row k fails (R265, R266): 1 by the margin test of FDOWN, 2 by a value that is not finite, 0 when it does not. -/
def rowFault (down : Bool) (n k : Nat) (p : (Nat → Nat → Nat) × (Nat → Nat)) : Nat :=
  let v := Fmt.f32.value
  let u := v (p.1 k k)
  let x := v (p.2 k)
  let t := turnOf down u x
  let fin := fun z => (v z).isFinite
  let uu := XVal.mul u u
  let low := XVal.mul (.fin false 1 (2 ^ 20)) uu
  let new := XVal.add uu (XVal.mul x x).neg
  if down && !(XVal.lt (.fin false 0 1) u && (XVal.lt low new || XVal.eq low new)) then 1
  else if fin t.1 && fin t.2.1 && fin t.2.2 && (List.range n).all fun j =>
    decide (j ≤ k) || (fin (turned down t.2.1 t.2.2 (p.1 k j) (p.2 j)).1 && fin (turned down t.2.1 t.2.2 (p.1 k j) (p.2 j)).2)
  then 0 else 2

end Sys2Proof.Claims

open Sys2Proof.Claims

/-- The factor instructions at issue (R258, R261 to R270): FINIT binds its handle and FFREE unbinds it; FUPD, FDOWN and
FSOLVE read their vector, whose tangents are dropped; FDRAIN and FLOAD check their address; each takes its place at the
sweeper. FUPD and FDOWN first need a power grant. That a tangent of the vector sets TLOST in lanes outside em too, as R262 reads
them, is the model's reading (log 68). -/
def Obligations.FactorCommands : Prop := ∀ (s : State) (f va sd sa slot n : Nat) (tr : Bool) (off : Int) (h : Nat),
  mayIssue s →
  (1 ≤ n → n ≤ 128 → ArrivesAtSweeper (.finit f slot n h) s (.factor f slot n .finit) [] [] (some (f, some (slot, n)))) ∧
  (∀ slot n, s.grp.factor f = some (slot, n) →
    let x := (List.range n).map fun i => (s.grp.readV (va + i / 32) (i % 32)).toNat
    let drops := (List.range n).map fun i => (va + i / 32, i % 32)
    let regs := (List.range ((n + 31) / 32)).map (va + ·)
    let a := (s.grp.readS sa).toInt + off
    let fits := a % 16 = 0 ∧ 0 ≤ a ∧ a + (2 * n * (n + 1) : Nat) ≤ (s.grp.decl.spad : Int)
    (Fits s regs →
      (s.spl.hold = .granted →
        ArrivesAtSweeper (.fupd f va h) s (.factor f slot n (.fupd x)) [] drops none ∧
        ArrivesAtSweeper (.fdown f va h) s (.factor f slot n (.fdown x)) [] drops none) ∧
      ArrivesAtSweeper (.fsolve f va tr h) s (.factor f slot n (.fsolve va x tr)) (regs.map RegId.v) drops none) ∧
    ArrivesAtSweeper (.flogdet f sd h) s (.factor f slot n (.flogdet sd)) (if sd = 0 then [] else [.s sd]) [] none ∧
    (fits → ArrivesAtSweeper (.fdrain f sa off h) s (.factor f slot n (.fdrain a.toNat)) [] [] none ∧
      ArrivesAtSweeper (.fload f sa off h) s (.factor f slot n (.fload a.toNat)) [] [] none) ∧
    (s.grp.stack.length + 1 ≤ 32 → ∀ i, i = .fdrain f sa off h ∨ i = .fload f sa off h → ∀ cause,
      (a % 16 ≠ 0 ∧ cause = 0x32) ∨
        (a % 16 = 0 ∧ (a < 0 ∨ (s.grp.decl.spad : Int) < a + (2 * n * (n + 1) : Nat)) ∧ cause = 0x33) →
      Completes i s fun t => OnlyGroup s t ∧ t.grp.ops = s.grp.ops ∧
        ∃ r rest, t.grp.stack = r :: rest ∧ r.kind = .trap ∧ r.cause = cause ∧ r.mask = s.em ∧ r.pc = s.pc) ∧
    ArrivesAtSweeper (.ffree f h) s (.factor f slot n .ffree) [] [] (some (f, none))) ∧
  (s.grp.factor f = none → s.grp.stack.length + 1 ≤ 32 → ∀ i, i = .flogdet f sd h ∨ i = .fdrain f sa off h ∨
      i = .fload f sa off h ∨ i = .ffree f h → Completes i s fun t => OnlyGroup s t ∧ t.grp.ops = s.grp.ops ∧
    ∃ r rest, t.grp.stack = r :: rest ∧ r.kind = .trap ∧ r.cause = 0x33 ∧ r.mask = s.em ∧ r.pc = s.pc)

/-- FACTOR_OPERATION_EXECUTE (R255 to R270): FINIT makes the slot live with every element +0; FUPD and FDOWN replace the
tile by the one that the sweep of R264 or R265 leaves, row by row, or leave it and report the first row that fails and why (R266);
FSOLVE delivers the solution of R267, each element rounded once; FLOGDET, FDRAIN, FLOAD and FFREE; an operation on a slot that is not live, of another band or of another dimension fails
with FSTATE. That elements which round to a negative zero are +0 in the tile is the model's reading (log 68), and the error marks
of scratchpad bytes are its form of DERR and POISON there (log 59). -/
def Sys2Proof.Claims.FactorSweeps : Prop :=
  ∀ (s : State) (q gid : Nat) (o : Op) (f slot n : Nat) (x : FactorOp) (rest : List OpRef),
  NextAtSweeper s q gid o f slot n x rest →
  let g := s.group gid
  let y := (s.quarter q).slot slot
  let mine := y.grid = g.grid ∧ y.span = g.pos.spanIdx ∧ y.band = g.pos.bandIdx
  let i := Instr.factorOperationExecute q
  let v := Fmt.f32.value
  let word := fun (row minor kind : Nat) => BitVec.ofNat 64
    (row % 256 * 2 ^ 40 + minor % 32 * 2 ^ 27 + slot % 8 * 2 ^ 24 + f % 4 * 2 ^ 22 + kind % 4 * 2 ^ 20)
  (x = .finit → (y.live = false ∨ mine) → Completes i s fun t =>
    Swept s t q gid o 0 none [] [] slot ⟨true, n, g.grid, g.pos.spanIdx, g.pos.bandIdx, []⟩) ∧
  (x = .finit → y.live = true → ¬ mine → Completes i s fun t => Swept s t q gid o 0x4000 none [] [] slot y) ∧
  (x ≠ .finit → (y.live = false ∨ ¬ mine ∨ y.n ≠ n) → Completes i s fun t =>
    Swept s t q gid o 0x4000 none [] (match x with
      | .flogdet sd => [(.s sd, 0, 0x7FC00000)]
      | _ => []) slot y) ∧
  (y.live = true → mine → y.n = n →
    (∀ a down, x = (if down then .fdown a else .fupd a) → a.length = n → n ≤ 128 →
      let work := workAt down n (fun k j => (Sparse.get 0 y.u (128 * k + j)).toNat) fun j => a.getD j 0
      let why := fun k => rowFault down n k (work k)
      let minor := if down then 2 else 1
      ((∃ e ∈ a, (v e).isFinite = false) → Completes i s fun t =>
        Swept s t q gid o 0x8000 (some (word 0 minor 2)) [] [] slot y) ∧
      ((∀ e ∈ a, (v e).isFinite = true) → (∀ k, k < n → why k = 0) → Completes i s fun t =>
        ∃ u', Swept s t q gid o 0 none [] [] slot { y with u := u' } ∧
          ∀ k j, k ≤ j → j < n → Sparse.get 0 u' (128 * k + j) = BitVec.ofNat 32 ((work n).1 k j)) ∧
      ((∀ e ∈ a, (v e).isFinite = true) → ∀ k, k < n → why k ≠ 0 → (∀ j, j < k → why j = 0) → Completes i s fun t =>
        Swept s t q gid o 0x8000 (some (word k minor (why k))) [] [] slot y)) ∧
    (∀ va a tr, x = .fsolve va a tr → a.length = n → Completes i s fun t => ∃ sol : Nat → Nat,
      (∀ k, k < n →
        let others := (List.range n).filter fun j => if tr then decide (j < k) else decide (k < j)
        let u := fun j => if tr then factorVal y j k else factorVal y k j
        sol k = once (XVal.div
          (others.foldl (fun z j => XVal.add z (XVal.mul (u j) (v (sol j))).neg) (v (a.getD k 0))) (factorVal y k k))) ∧
      Swept s t q gid o ((List.range n).foldl (fun st k => st ||| specialBits .f32 (sol k)) 0) none []
        ((List.range n).map fun k => (.v (va + k / 32), k % 32, sol k)) slot y) ∧
    (∀ sd, x = .flogdet sd → (∃ k, k < n ∧ (factorVal y k k).isZero = true) →
      (∀ k, k < n → (factorVal y k k).isFinite = true) → Completes i s fun t =>
      Swept s t q gid o 0x100 none [] [(.s sd, 0, 0xFF800000)] slot y) ∧
    (∀ sd, x = .flogdet sd → Completes i s fun t => ∃ r st, Swept s t q gid o st none [] [(.s sd, 0, r)] slot y) ∧
    (∀ addr, x = .fdrain addr → Completes i s fun t => ∃ ws, Swept s t q gid o 0 none ws [] slot y ∧
      ws.length = n * (n + 1) / 2 ∧ ∀ k j, k ≤ j → j < n → ws[k * n - k * (k - 1) / 2 + (j - k)]? = some
        ⟨.spad g.gang (addr + 4 * (k * n - k * (k - 1) / 2 + (j - k))),
          bytesOf 4 (Sparse.get 0 y.u (128 * k + j)).toNat, false, [], .f32⟩) ∧
    (∀ addr, x = .fload addr →
      let at' := fun (k j : Nat) => s.readSpad g.gang (addr + 4 * (k * n - k * (k - 1) / 2 + (j - k))) 4
      let bad := (s.gang g.gang).spadStatus addr (2 * n * (n + 1))
      (bad ≠ 0 → Completes i s fun t => Swept s t q gid o (bad ||| 0x8000) (some (word 0 6 3)) [] [] slot y) ∧
      (bad = 0 → (∀ k j, k ≤ j → j < n → (v (at' k j)).isFinite = true) → n ≤ 128 → Completes i s fun t =>
        ∃ u, Swept s t q gid o 0 none [] [] slot { y with u := u } ∧
          ∀ k j, k ≤ j → j < n → Sparse.get 0 u (128 * k + j) = BitVec.ofNat 32 (at' k j)) ∧
      (bad = 0 → (∃ k j, k ≤ j ∧ j < n ∧ (v (at' k j)).isFinite = false) → n ≤ 128 → Completes i s fun t =>
        Swept s t q gid o 0x8000 (some (word 0 6 2)) [] [] slot y)) ∧
    (x = .ffree → Completes i s fun t => Swept s t q gid o 0 none [] [] slot FactorSlot.free))

namespace Sys2Proof.Claims

/-- The bytes of pieces of memory, as a die holds them. -/
def piecesAt (s : State) (die : Nat) (l : List (Nat × Nat)) : List Byte :=
  l.flatMap fun p => Sparse.getRange 0 (s.die die).mem p.1 p.2

/-- Pieces that lie in HBM and apart from one another. -/
def HbmApart (l : List (Nat × Nat)) : Prop :=
  (∀ p ∈ l, ∃ home, physKind p.1 = .hbm home) ∧ l.Pairwise fun p r => p.1 + p.2 ≤ r.1 ∨ r.1 + r.2 ≤ p.1

end Sys2Proof.Claims

open Sys2Proof.Claims

/-- SWR of ACCOWN (R249): a write that changes nothing goes on; one that takes or releases the bank holds the split until
ACCOWN_SWITCH has carried the switch out. The switch, from a previous owner or from none, writes every live tile of the
previous owner to its save area and records it there, leaves no tile of it in the bank, and brings back the images that the
record of the new owner names, whose record is then empty; every other tile is free with +0 in every element. That the pages
are translated with supervisor permission is the model's reading (log 38). -/
def Obligations.AccumulatorOwner : Prop := ∀ (s : State) (reg e : Nat) (h : Option Nat),
  let q := s.cur.gid / 1024
  let x := s.quarter q
  let mine := x.owned = true ∧ x.octx = s.grp.ctx
  let word := s.grp.readS reg
  let next := nextPc s h false
  let holds := fun (release : Bool) => Completes (.swr false reg .accown h) s fun t => OnlyGroup s t ∧
    t.spl = { s.spl with hold := .accown release next } ∧ (∀ j, j ≠ s.cur.entry → t.grp.split j = s.grp.split j) ∧
    t.grp = { s.grp with splits := t.grp.splits }
  (s.spl.sup = true →
    (word.getLsbD 16 = true → (word.toNat % 2 ^ 16 ≠ s.grp.ctx ∨ mine) →
      Completes (.swr false reg .accown h) s fun t => OnlyPc s t next) ∧
    (word.getLsbD 16 = false → ¬ mine → Completes (.swr false reg .accown h) s fun t => OnlyPc s t next) ∧
    (word.getLsbD 16 = true → word.toNat % 2 ^ 16 = s.grp.ctx → ¬ mine → holds false) ∧
    (word.getLsbD 16 = false → mine → holds true)) ∧
  (∀ (gid : Nat) (release : Bool) (pc : Addr52),
    let g := s.group gid
    let q := gid / 1024
    let x := s.quarter q
    let live := Sparse.keys x.live
    let put := fun (k : Nat) => s.tilePieces q x.octx q k .write
    let image := fun (k : Nat) => Sparse.get 0 (s.context g.ctx).spill (1024 * q + k)
    let take := fun (k : Nat) => s.tilePieces q g.ctx (image k - 1) k .read
    (g.split e).hold = .accown release pc → (s.context g.ctx).issues = true →
    ((x.owned = true ∧ x.octx = g.ctx) ↔ release = true) → (x.owned = true → s.bankQuiet q = true) →
    gid < 32768 → Numbered s →
    (x.owned = true → ∀ k ∈ live, k < 1024 ∧ (put k).isSome = true) →
    (release = false → ∀ k, k < 1024 → image k ≠ 0 → (take k).isSome = true) →
    Completes (.accownSwitch gid e) s fun t =>
      (t.group gid).split e = { g.split e with hold := .none, pc := pc } ∧
      (t.quarter q).owned = !release ∧ (release = false → (t.quarter q).octx = g.ctx) ∧
      (x.owned = true → ∀ k ∈ live, Sparse.get 0 (t.context x.octx).spill (1024 * q + k) = q + 1) ∧
      (x.owned = true → HbmApart (live.flatMap fun k => (put k).getD []) → ∀ k ∈ live,
        piecesAt t (q / 4) ((put k).getD []) = (List.range 1024).flatMap fun i => bytesOf 4 (x.readTile k i).toNat) ∧
      (release = true → ∀ k, (t.quarter q).isLive k = false ∧ ∀ i, (t.quarter q).readTile k i = 0) ∧
      (release = false → ∀ k, k < 1024 → Sparse.get 0 (t.context g.ctx).spill (1024 * q + k) = 0 ∧
        (image k = 0 → (t.quarter q).isLive k = false ∧ ∀ i, i < 1024 → (t.quarter q).readTile k i = 0) ∧
        (image k ≠ 0 → (t.quarter q).isLive k = true ∧
          ((∀ p ∈ (take k).getD [], physKind p.1 = .hbm (q / 4) ∧ ∀ a, a < p.2 →
              ((t.die (q / 4)).mark (p.1 + a)).poison = false ∧ ((t.die (q / 4)).mark (p.1 + a)).bad = false) →
            ∀ i, i < 1024 → (t.quarter q).readTile k i =
              BitVec.ofNat 32 (ofBytes (((piecesAt t (q / 4) ((take k).getD [])).drop (4 * i)).take 4))))))

/-- A latched factor failure reaches its group at WAITC fx as cause 0x48, with the fault word in FLTADDR (R260). -/
def Sys2Proof.Claims.FactorFailuresReported : Prop := ∀ (s : State) (n : Nat) (w : Word64) (reg : Nat) (h : Option Nat),
  (¬ drainsNow s.grp → (s.grp.ops.filter fun o => o.cls = .fx).length ≤ n → s.grp.latch = some w →
    s.grp.stack.length + 1 ≤ 32 → Completes (.waitc .fx n h) s fun t => OnlyGroup s t ∧ t.grp.latch = none ∧
      t.grp.faultWord = w ∧ t.grp.life = .trapped ∧
      ∃ r rest, t.grp.stack = r :: rest ∧ r.kind = .trap ∧ r.cause = 0x48 ∧ r.mask = s.em ∧ r.pc = s.pc) ∧
  (s.spl.sup = true → (∃ above r below, s.grp.stack = above ++ r :: below ∧ r.kind = .trap ∧ r.cause = 0x48 ∧
      ∀ y ∈ above, y.kind ≠ .trap) → Completes (.swr false reg .fltaddr h) s fun t => OnlyGroup s t ∧
    SplitAt s t (nextPc s h false) ∧
    t.grp = { s.grp with splits := t.grp.splits, faultWord := t.grp.faultWord } ∧
    ∀ j, j < 64 → t.grp.faultWord.getLsbD j = (decide (20 ≤ j) && decide (j < 48) && (s.grp.readS reg).getLsbD j))

/-! ## Time, the order of writes, and power -/

namespace Sys2Proof.Claims

/-- Only the record of group gid has changed. -/
def OnlyGroupOf (s t : State) (gid : Nat) : Prop :=
  t = { s with groups := t.groups } ∧ ∀ k, k ≠ gid → t.group k = s.group k

/-- Entry e of group gid has become x, and nothing else has changed. -/
def EntryBecomes (s t : State) (gid e : Nat) (x : Split) : Prop :=
  OnlyGroupOf s t gid ∧ (t.group gid).split e = x ∧ (∀ k, k ≠ e → (t.group gid).split k = (s.group gid).split k) ∧
  t.group gid = { s.group gid with splits := (t.group gid).splits }

/-- Does a group run: is it resident or trapped (R123)? -/
def Runs (g : Group) : Prop := g.life = .resident ∨ g.life = .trapped

/-- May the die apply a held write (R281): entry e of its clock is one below the stamp's, and no other entry is below it? -/
def Admitted (d : Die) (w : HeldWrite) : Prop :=
  ∀ k, k < 8 → if k = w.src then d.vc.at k + 1 = w.stamp.at k else w.stamp.at k ≤ d.vc.at k

/-- The request served next (R397): the oldest of a critical group, or else the oldest. -/
def Next (s : State) (d : Die) (p : Power) : Prop :=
  let urgent := fun (p : Power) => ∃ gid, (s.group gid).isCritical = true ∧ (∃ x, p.user = .split gid x ∨ p.user = .op gid x)
  (∃ a b, d.requests = a ++ p :: b ∧ urgent p ∧ ∀ x ∈ a, ¬ urgent x) ∨
  (∃ b, d.requests = p :: b ∧ ∀ x ∈ d.requests, ¬ urgent x)

end Sys2Proof.Claims

open Sys2Proof.Claims

/-- The timers of a group (R129, R130, R152, R199): as cycles pass, a ready split that has waited 256 cycles to issue is
promoted at that cycle, and a critical section that has lasted its limit is one no longer; the events of the two do the same, and
a pre-emption then acts; a sleep ends at its CLOCK value and not before; a load is delivered when it is due and not before. (The
guards of the events, and AGE of a split that is not ready: log 69.) The timers of a group on a frozen core stand (R396). -/
def Sys2Proof.Claims.GroupTimers : Prop := ∀ (s : State) (gid e k : Nat),
  let g := s.group gid
  let x := g.split e
  let stands := Master.core (gid / 64) ∈ s.frozen
  (stands → exec (.splitPromotion gid e) s = .next s ∧ exec (.criticalLimitExpiry gid) s = .next s ∧
    exec (.sleepExpiry gid e) s = .next s ∧ exec (.scratchpadLoadDelivery gid k) s = .next s) ∧
  (¬ stands → e < 4 → Runs g → x.v = true → x.state = .runnable → g.preempt = false → s.clockStopped = false →
    ∀ n, 0 < n → (((s.elapse n).group gid).split e).age = Nat.min 511 (x.age + n) ∧
      (x.promoted = none → s.isReady gid e = true → 256 ≤ x.age + n →
        (((s.elapse n).group gid).split e).promoted = some (s.clock + (256 - x.age))) ∧
      (0 < g.crit → g.critSince + (s.context g.ctx).critlim ≤ s.clock + n →
        ((s.elapse n).group gid).isCritical = false)) ∧
  (¬ stands → Runs g → x.v = true → x.state = .runnable → x.hold = .none ∨ x.hold = .granted → 256 ≤ x.age → x.promoted = none →
    Completes (.splitPromotion gid e) s fun t => EntryBecomes s t gid e { x with promoted := some s.clock }) ∧
  (x.age < 256 → exec (.splitPromotion gid e) s = .next s) ∧
  (¬ stands → 0 < g.crit → g.critSpent = false → g.critSince + (s.context g.ctx).critlim ≤ s.clock → g.preempt = false →
    Completes (.criticalLimitExpiry gid) s fun t => OnlyGroupOf s t gid ∧ t.group gid = { g with critSpent := true }) ∧
  (¬ stands → 0 < g.crit → g.critSpent = false → g.critSince + (s.context g.ctx).critlim ≤ s.clock → g.preempt = true →
    (s.context g.ctx).state ≠ .faulted → g.drain = none → Runs g → g.rewind = false → g.allStand = false → Completes (.criticalLimitExpiry gid) s fun t =>
      t.group gid = { g with critSpent := true, drain := some (s.clock + (s.context g.ctx).drainlim) }) ∧
  (s.clock < g.critSince + (s.context g.ctx).critlim → exec (.criticalLimitExpiry gid) s = .next s) ∧
  (∀ c wake next, x.wait = .sleep c wake next → Runs g → x.v = true → x.state = .waiting →
    (¬ stands → wake ≤ s.clock → Completes (.sleepExpiry gid e) s fun t =>
      EntryBecomes s t gid e { x with state := .runnable, wait := .none, pc := next, age := 0 }) ∧
    (s.clock < wake → exec (.sleepExpiry gid e) s = .next s)) ∧
  (∀ d, g.deliveries[k]? = some d →
    (¬ stands → d.due ≤ s.clock → Completes (.scratchpadLoadDelivery gid k) s fun t => OnlyGroupOf s t gid ∧
      t.group gid = { g with deliveries := g.deliveries.eraseIdx k }) ∧
    (s.clock < d.due → exec (.scratchpadLoadDelivery gid k) s = .next s)) ∧
  (∀ die, exec (.refreshWindow die) s = .next s ∧ exec (.refreshWindowEnd die) s = .next s)

/-- WRITE_APPLY (R281): a die applies a held write when its vector clock allows and not before; it advances the entry of
the originating die, and each byte of the write that is not older in coherence order stands in its memory (R276); that this order is the order
of origination is a reading (log 13). A fence that
waited for it is then over (R219), and nothing else changes. -/
def Sys2Proof.Claims.WritesApplied : Prop := ∀ (s : State) (die k : Nat) (w : HeldWrite),
  let d := s.die die
  d.held[k]? = some w →
  (¬ Admitted d w → exec (.writeApply die k) s = .next s) ∧
  (Admitted d w → w.src < 8 → Completes (.writeApply die k) s fun t =>
    t = { s with dies := t.dies, groups := t.groups } ∧
    (∀ j, j ≠ die → t.die j = { s.die j with peerBuf := (t.die j).peerBuf }) ∧
    (∀ j, t.group j = { s.group j with horizon := (t.group j).horizon, groupHorizon := (t.group j).groupHorizon,
                                       fences := (t.group j).fences }) ∧
    ((∀ x ∈ s.groups, x.2.fences = []) → t.groups = s.groups ∧ ∀ j, (t.die j).peerBuf = (s.die j).peerBuf) ∧
    t.die die = { d with mem := (t.die die).mem, marks := (t.die die).marks, vc := (t.die die).vc,
                         held := d.held.eraseIdx k, peerBuf := (t.die die).peerBuf } ∧
    (∀ j, (t.die die).vc.at j = if j = w.src then d.vc.at j + 1 else d.vc.at j) ∧
    ∀ p, w.parts = [p] → ∀ a,
      let i := a - p.pa
      let inside := p.pa ≤ a ∧ i < p.bytes.length ∧ (d.mark a).seq ≤ w.seq
      (inside → Sparse.get 0 (t.die die).mem a = p.bytes.getD i 0 ∧ ((t.die die).mark a).poison = p.poison) ∧
      (¬ inside → Sparse.get 0 (t.die die).mem a = Sparse.get 0 d.mem a ∧ (t.die die).mark a = d.mark a))

/-- POWER_GRANT and GRANT_EXPIRY (R397): the oldest request of a critical group, or else the oldest, is served when enough
units are free, and its split goes on unless its core is frozen (R396); a grant ends after 2,200 cycles and not before, and work that goes on asks again. -/
def Sys2Proof.Claims.PowerGrants : Prop := ∀ (s : State) (die k : Nat) (p : Power),
  let d := s.die die
  let free := d.units - (d.grants.map Power.units).sum
  (Next s d p → ∀ gid e, p.user = .split gid e → ((s.group gid).split e).hold = .power →
    (free < p.units → exec (.powerGrant die) s = .next s) ∧
    (p.units ≤ free → Completes (.powerGrant die) s fun t =>
      (t.die die).grants = d.grants ++ [{ p with since := s.clock }] ∧ (t.die die).requests = d.requests.erase p ∧
      (t.group gid).split e = (if Master.core (gid / 64) ∈ s.frozen then (s.group gid).split e
        else { (s.group gid).split e with hold := .granted }) ∧
      (∀ j, j ≠ gid → t.group j = s.group j) ∧ ∀ j, j ≠ die → t.die j = s.die j)) ∧
  (d.requests = [] → exec (.powerGrant die) s = .next s) ∧
  (d.grants[k]? = some p →
    (s.clock < p.since + 2200 → exec (.grantExpiry die k) s = .next s) ∧
    (p.since + 2200 ≤ s.clock → Completes (.grantExpiry die k) s fun t =>
      (t.die die).grants = d.grants.eraseIdx k ∧ (∀ j, j ≠ die → t.die j = s.die j) ∧
      (∀ gid id o, p.user = .op gid id → (s.group gid).op? id = some o →
        (t.die die).requests = if o.done then d.requests else d.requests ++ [{ p with since := s.clock }]) ∧
      (∀ gid e, p.user = .split gid e → if ((s.group gid).split e).hold = .granted
        then (t.die die).requests = d.requests ++ [{ p with since := s.clock }] ∧
          (t.group gid).split e = (if Master.core (gid / 64) ∈ s.frozen then (s.group gid).split e
            else { (s.group gid).split e with hold := .power })
        else (t.die die).requests = d.requests)))

/-! ## What engines do -/

namespace Sys2Proof.Claims

/-- Operation o of group gid is in progress, the oldest of its class that is, on an engine channel that is not frozen
(R396); nothing of it has failed. -/
def InProgress (s : State) (gid : Nat) (o : Op) : Prop :=
  (s.group gid).op? o.id = some o ∧ o.done = false ∧ o.status = 0 ∧
  (∀ x ∈ (s.group gid).ops, x.cls = o.cls → x.id < o.id → x.done = true) ∧ s.channelStands gid = false

/-- The operation is over (R203): it is no longer in progress. -/
def Over (t : State) (gid id : Nat) : Prop := ∀ x, (t.group gid).op? id = some x → x.done = true

/-- The n bytes that a die holds at a physical address of HBM, as a number; and is none of them poisoned? -/
def hbmAt (s : State) (die pa n : Nat) : Nat := ofBytes (Sparse.getRange 0 (s.die die).mem pa n)
def Clean (s : State) (die pa n : Nat) : Prop := ∀ k, k < n →
  ((s.die die).mark (pa + k)).poison = false ∧ ((s.die die).mark (pa + k)).bad = false

/-- The value x has been delivered to registers vd of lane l with +0 tangents (R99). -/
def Delivered (t : State) (gid : Nat) (ty : Ty) (vd l x : Nat) : Prop :=
  ∀ r, r ∈ pairOf ty vd → (t.group gid).readV r l = wordIn ty vd r x ∧
    (r < 256 → r < (t.group gid).decl.n → ∀ d, d < (t.group gid).decl.d → (t.group gid).readT r d l = 0)

end Sys2Proof.Claims

open Sys2Proof.Claims

/-- ENGINE_OPERATION_COMPLETE for a lane form with one lane in HBM (R203, R210, R211, R281, R282): a load delivers what its
die or the home holds, with +0 tangents; a store stands in the memory of the issuing die; a reduction combines with what
the home holds, and AMG delivers what it replaced. -/
def Sys2Proof.Claims.EnginesMoveLanes : Prop :=
  ∀ (s : State) (gid : Nat) (o : Op) (form : LaneForm) (vd : Nat) (ty : Ty) (op : Comb) (it : LaneItem) (pa home : Nat),
  let die := gid / 4096
  let n := ty.bytes
  let old := hbmAt s home pa n
  let combined := match op with
    | .xchg => it.data
    | .add => if ty = .f32 then combineOf .add .f32 old it.data else (old + it.data) % 2 ^ ty.width
    | _ => combineOf op ty old it.data
  InProgress s gid o → o.kind = .lanes form vd ty op .plain false [it] → it.place = .phys pa → o.bar = none →
  o.results = [] → o.writes = [] → it.lane < 32 → gid < 32768 → vd + 1 < 256 → Numbered s →
  physKind pa = .hbm home → s.placeReady die it.carry (.phys pa) n ((s.group gid).least it.lane) = true →
  Clean s home pa n → Clean s die pa n →
  Completes (.engineOperationComplete gid o.id) s fun t =>
    (form = .load → Over t gid o.id ∧ (∀ k, (t.die k).mem = (s.die k).mem) ∧
      ∃ x, (x = hbmAt s die pa n ∨ x = old) ∧ Delivered t gid ty vd it.lane x) ∧
    (form = .store → Over t gid o.id ∧ hbmAt t die pa n = it.data % 2 ^ (8 * n) ∧
      ∀ a, ¬ (pa ≤ a ∧ a < pa + n) → Sparse.get 0 (t.die die).mem a = Sparse.get 0 (s.die die).mem a) ∧
    (form = .red ∨ form = .amg → s.homeReady die home it.carry pa n = true → ty.isAtomic = true →
      it.data < 2 ^ (8 * n) → Over t gid o.id ∧
      hbmAt t home pa n = combined % 2 ^ (8 * n) ∧ hbmAt t die pa n = combined % 2 ^ (8 * n) ∧
      (form = .amg → Delivered t gid ty vd it.lane old) ∧
      ∀ k a, ¬ (pa ≤ a ∧ a < pa + n) → Sparse.get 0 (t.die k).mem a = Sparse.get 0 (s.die k).mem a)

/-- ENGINE_OPERATION_COMPLETE for a copy within a scratchpad (R207, R208): every destination element holds what its source
element held before the copy, and no other byte changes. A copy that needs power has its grant (R397). -/
def Sys2Proof.Claims.CopiesMove : Prop := ∀ (s : State) (gid k : Nat) (o : Op) (w : CopyWork),
  let c := copyDesc w.raw
  let n := c.srcTy.bytes
  let src := fun (e : Nat × Nat) => (c.srcAt e.1 e.2).toNat
  let dst := fun (e : Nat × Nat) => (c.dstAt e.1 e.2).toNat
  InProgress s gid o → o.kind = .copy w → o.begun = false → o.writes = [] → o.bar = none →
  w.src = .spad k → w.dst = .spad k → c.skind = 0 → c.dkind = 0 → c.map = false → c.dual = false → c.src = c.dst →
  c.illFormed w.decl [] = false → s.hasPower gid o = true → (s.gang k).errs = [] →
  Completes (.engineOperationComplete gid o.id) s fun t => Over t gid o.id ∧
    (∀ e ∈ c.elements, t.readSpad k (dst e) n = s.readSpad k (src e) n) ∧
    (∀ a, (∀ e ∈ c.elements, ¬ (dst e ≤ a ∧ a < dst e + n)) →
      Sparse.get 0 (t.gang k).spad a = Sparse.get 0 (s.gang k).spad a) ∧
    (∀ j, j ≠ k → t.gang j = s.gang j) ∧ ∀ d, (t.die d).mem = (s.die d).mem

/-- BARRIER_LANDING (R203, R204, R217): n elements of an operation that has begun are performed; each adds its bytes to the
barrier of the operation, with Check, and with its last element the operation is over. A landing carries the status the
operation has so far (log 18). -/
def Sys2Proof.Claims.Landings : Prop := ∀ (s : State) (gid n size : Nat) (o : Op),
  InProgress s gid o → o.begun = true → (∃ w, o.kind = .copy w) → o.writes ≠ [] →
  (∀ p ∈ o.writes, p.adds = [] ∧ p.poison = false ∧ p.bytes.length = size ∧ ∃ k a, p.place = .spad k a) → 0 < size →
  s.hasPower gid o = true →
  (o.bar = none → o.writes.length ≤ n → Completes (.barrierLanding gid o.id n) s fun t => Over t gid o.id) ∧
  (o.bar = none → n < o.writes.length → Completes (.barrierLanding gid o.id n) s fun t =>
    t = { s with groups := t.groups, gangs := t.gangs } ∧
    ∃ o', (t.group gid).op? o.id = some o' ∧ o'.writes.length = o.writes.length - n ∧ o'.done = false ∧
      o'.counted = o.counted + n * size ∧ ∀ p ∈ o'.writes, p ∈ o.writes) ∧
  (∀ b, o.bar = some b → 1 < o.writes.length → Completes (.barrierLanding gid o.id 1) s fun t =>
    let y := (s.gang (s.group gid).gang).bar b
    Checked { y with landed := (y.landed + size) % 2 ^ 40 } ((t.gang (s.group gid).gang).bar b) ∧
    ∃ o', (t.group gid).op? o.id = some o' ∧ o'.writes.length = o.writes.length - 1 ∧ o'.counted = o.counted + size)

/-- Rays (R383, R387): one that is queued, and that R383 does not refuse, takes a stack in its turn while its context holds fewer
than its quota and all contexts fewer than the 256 of the unit; an admitted one, with what it carries applied (log 13), ends with what its traversal finds, and one that R383 refuses is a miss at once; the operation completes when
every ray has ended, and lands five words a lane. -/
def Sys2Proof.Claims.RaysRun : Prop := ∀ (s : State) (gid lane vd d : Nat) (vis : Bool) (win : Window) (o : Op) (rays : List Ray) (r : Ray),
  let q := gid / 1024
  let ctx := (s.group gid).ctx
  let taken := (s.contexts.map fun c => s.stacksHeld q c.1).sum
  let rays' := fun (f : Ray → Ray) => rays.map fun x => if x.lane = lane then f x else x
  let becomes := fun (t : State) (f : Ray → Ray) => OnlyGroupOf s t gid ∧
    ∃ o', (t.group gid).op? o.id = some o' ∧ o'.kind = .ray vis vd d win (rays' f) ∧ o'.done = false
  InProgress s gid o → o.kind = .ray vis vd d win rays → r ∈ rays → r.lane = lane → r.result = none →
  (∀ x ∈ rays, x.lane = lane → x = r) →
  (r.admitted = false → (vis = true ∨ rayRefused r.args = none) → s.firstQueued q ctx o.id lane = true →
    (s.stacksHeld q ctx < Sparse.get 0 (s.quarter q).quota ctx → taken < 256 →
      Completes (.rayAdmit gid o.id lane) s fun t => becomes t fun x => { x with admitted := true }) ∧
    (Sparse.get 0 (s.quarter q).quota ctx ≤ s.stacksHeld q ctx ∨ 256 ≤ taken → exec (.rayAdmit gid o.id lane) s = .next s)) ∧
  (∀ st, vis = false → rayRefused r.args = some st → Completes (.rayComplete gid o.id lane) s fun t =>
    becomes t fun x => { x with result := some (missWords false st) }) ∧
  (∀ x, r.admitted = true → (vis = true ∨ rayRefused r.args = none) →
    (let σ := (s.group gid).carryRead o r.carry
     let f : Fetcher := ⟨gid, o.sup, win, σ, o⟩
     s.ready (gid / 4096) σ = true ∧ (if vis then s.castSample f d r.args else s.castRay f d r.args) = some x) →
    asksOf x.status = none →
    Completes (.rayComplete gid o.id lane) s fun t => becomes t fun y => { y with result := some x.words }) ∧
  (r.admitted = false → (vis = true ∨ rayRefused r.args = none) → exec (.rayComplete gid o.id lane) s = .next s) ∧
  (∀ words, o.bar = none → words.length = 5 → vd + 5 ≤ 256 → lane < 32 → o.results = [] → o.writes = [] →
    rays = [r] → ∀ o', o' = { o with kind := .ray vis vd d win [{ r with result := some words }] } →
    Completes (.engineOperationComplete gid o.id) (s.setOp gid o') fun t => Over t gid o.id ∧
      ∀ k, k < 5 → (t.group gid).readV (vd + k) lane = BitVec.ofNat 32 (words.getD k 0))

/-! ## Queues -/

namespace Sys2Proof.Claims

/-- The dispatcher serves the queue, whose head command is c (R307, R309, R311). -/
def Served (s : State) (ctx q : Nat) (c : Command) : Prop := s.headCommand ctx q = some c ∧ s.serves ctx q = true

/-- The head command has started (R309): RPTR has moved on by one, and the commands of `run` join those that run. -/
def Started' (s t : State) (ctx q : Nat) (run : List Started) : Prop :=
  (t.queue ctx q).rptr = (s.queue ctx q).rptr + 1 ∧ (t.queue ctx q).running = (s.queue ctx q).running ++ run ∧
  (t.queue ctx q).wptr = (s.queue ctx q).wptr

/-- The queue has stopped with an error code and the host driver has been told (R312). -/
def StoppedWith (s t : State) (ctx q err : Nat) : Prop :=
  t.queue ctx q = { s.queue ctx q with stopped := true, err := err } ∧ Notice.queueError ctx q err ∈ t.notices ∧
  t.grids = s.grids

end Sys2Proof.Claims

open Sys2Proof.Claims

/-- The queue commands but LAUNCH (R307 to R312): NOP; WAITEV, which is done once its event has counted k gangs, and whose
bad event stops the queue with 4; SIGNAL, which writes 8 bytes, sends what lies in the memory of a chip to it, and is over when
every die has applied them and that chip has acknowledged them; WSLOAD, which
writes the weight store of the dies of its mask and leaves what else runs there alone; and the pointer writes of the host
driver, after which a ring whose RSIZE is outside 4 to 16 stops its queue with 1 and one that holds too many entries with 5;
they are dropped while Pradan is not usable (R362).
Where operands stand in an entry is the model's (log 29), and so is when a header is examined (log 34) and that a WSLOAD copies
its bytes as a whole and how a SIGNAL goes over a link (log 71). -/
def Obligations.QueueCommands : Prop := ∀ (s : State) (ctx q : Nat),
  let x := s.queue ctx q
  (Served s ctx q .nop → Completes (.queueNop ctx q) s fun t => Started' s t ctx q [] ∧ t.grids = s.grids ∧ t.dies = s.dies) ∧
  (∀ e k, Served s ctx q (.waitev e k) →
    (e ≤ 4095 → k ≤ Sparse.get 0 (s.context ctx).events e ∧
      Completes (.waitev ctx q) s fun t => Started' s t ctx q [] ∧ t.grids = s.grids ∧ t.dies = s.dies) ∧
    (4095 < e → Completes (.waitev ctx q) s fun t => StoppedWith s t ctx q 4)) ∧
  (∀ va v, Served s ctx q (.signal va v) →
    (s.mapped ctx .write va 8 = true → Completes (.signal ctx q) s fun t =>
      ∃ r, r = s.writeMapped ctx va (bytesOf 8 v) ∧ Started' s t ctx q [⟨x.rptr, none, some r.2⟩] ∧ t.dies = r.1.dies ∧
        t.hostMem = r.1.hostMem ∧
        (∀ pa chip, s.virtPieces 0 ctx .write 2 va 8 = some [(pa, 8)] → physKind pa = .peer chip → s.peerUp chip = true →
          ∃ k, k = s.peerPort chip pa ∧
            (t.port k).asked = (s.port k).asked ++ [⟨16 * ctx + q, x.rptr, (s.port k).seqOut, pa, 8, .signal, s.clock⟩]) ∧
        (∀ pa home, s.virtPieces 0 ctx .write 2 va 8 = some [(pa, 8)] → physKind pa = .hbm home → t.ports = s.ports)) ∧
    (s.mapped ctx .write va 8 = false → Completes (.signal ctx q) s fun t => StoppedWith s t ctx q 4)) ∧
  (∀ σ r rest, x.running = r :: rest → r.stamp = some σ →
    let awaited := ∃ k, ∃ a ∈ (s.port k).asked, a.kind = .signal ∧ a.gid = 16 * ctx + q ∧ a.id = r.entry
    (s.everywhere σ = true → ¬ awaited → Completes (.signalComplete ctx q) s fun t =>
      (t.queue ctx q).running = rest ∧ (t.queue ctx q).rptr = x.rptr) ∧
    (s.everywhere σ = false ∨ awaited → rest = [] → exec (.signalComplete ctx q) s = .next s)) ∧
  (∀ src off len mask, Served s ctx q (.wsload src off len mask) →
    (s.wsloadOk ctx src off len mask = true → Completes (.wsload ctx q) s fun t =>
      Started' s t ctx q (if mask % 256 = 0 then [] else [⟨x.rptr, none, none⟩]) ∧
      ∀ d, d < 8 → (t.die d) = if mask.testBit d
        then { s.die d with wsloads := (s.die d).wsloads ++ [⟨ctx, q, x.rptr, src, off, len⟩] } else s.die d) ∧
    (s.wsloadOk ctx src off len mask = false → Completes (.wsload ctx q) s fun t => StoppedWith s t ctx q 3)) ∧
  (∀ d w bs r rest, d < 8 → w ∈ (s.die d).wsloads → w.ctx = ctx → w.queue = q →
    (∀ k, k < 8 → ∀ v ∈ (s.die k).wsloads, v.ctx = ctx → v.queue = q → v = w) → s.readMapped ctx w.src w.len = some bs →
    x.running = r :: rest → r.entry = w.entry →
    Completes (.wsloadComplete ctx q) s fun t => (t.queue ctx q).running = rest ∧
      (∀ k, k < 8 → (t.die k).wsloads = (s.die k).wsloads.erase w) ∧
      (∀ k, k < 8 → w ∉ (s.die k).wsloads → t.die k = s.die k) ∧
      ∀ i o, i < bs.length → wsTarget (s.context ctx).wsmap d (w.off + i) = some o →
        (∀ j, j < bs.length → j ≠ i → wsTarget (s.context ctx).wsmap d (w.off + j) ≠ some o) →
        Sparse.get 0 (t.die d).ws o = bs.getD i 0) ∧
  (∀ val, s.hostUp = false → exec (.wptrWrite ctx q val) s = .next s ∧ exec (.rptrRewrite ctx q val) s = .next s) ∧
  (∀ val, s.bringUp = .ready → s.hostUp = true → (s.context ctx).state ≠ .absent → q < 16 → x.stopped = false →
    (x.rptr < val % 2 ^ 64 → x.rsize < 4 ∨ 16 < x.rsize → Completes (.wptrWrite ctx q val) s fun t =>
      t.queue ctx q = { x with wptr := val % 2 ^ 64, stopped := true, err := 1 } ∧ t.queueState ctx q = .stopped) ∧
    (x.rptr + 2 ^ x.rsize < val % 2 ^ 64 → 4 ≤ x.rsize → x.rsize ≤ 16 → Completes (.wptrWrite ctx q val) s fun t =>
      t.queue ctx q = { x with wptr := val % 2 ^ 64, stopped := true, err := 5 } ∧ t.queueState ctx q = .stopped) ∧
    (val % 2 ^ 64 = x.rptr → Completes (.wptrWrite ctx q val) s fun t =>
      t.queue ctx q = { x with wptr := val % 2 ^ 64 } ∧ t.queueState ctx q = .idle ∧ t.grids = s.grids)) ∧
  (∀ val, (s.bringUp = .ready → s.hostUp = true → x.stopped = true → val % 2 ^ 64 = x.wptr → Completes (.rptrRewrite ctx q val) s fun t =>
      t.queue ctx q = { x with rptr := val % 2 ^ 64, stopped := false, err := 0 } ∧ t.queueState ctx q = .idle) ∧
    (x.stopped = false → exec (.rptrRewrite ctx q val) s = .next s))

/-- LAUNCH (R308, R318 to R322): an image or a descriptor that is refused stops the queue with 2; any other starts a grid
with the geometry and arguments of its descriptor, and its event counts from 0. Nothing of a grid that is not co-resident is
dispatched yet. -/
def Sys2Proof.Claims.Launches : Prop := ∀ (s : State) (ctx q evid desc : Nat),
  let x := s.queue ctx q
  let p := s.part (s.context ctx).part
  Served s ctx q (.launch evid desc) →
  (s.descAt ctx desc = none → Completes (.launch ctx q) s fun t => StoppedWith s t ctx q 2) ∧
  (∀ d, s.descAt ctx desc = some d →
    ((s.loadImageAt ctx d.image).2 = none → Completes (.launch ctx q) s fun t => StoppedWith s t ctx q 2) ∧
    (∀ i, (s.loadImageAt ctx d.image).2 = some i →
      (d.refused p i.decl = true → Completes (.launch ctx q) s fun t => StoppedWith s t ctx q 2) ∧
      (d.refused p i.decl = false → Completes (.launch ctx q) s fun t =>
        let g := t.grid s.nextGrid
        Started' s t ctx q [⟨x.rptr, some s.nextGrid, none⟩] ∧ t.nextGrid = s.nextGrid + 1 ∧
        Sparse.get 0 (t.context ctx).events evid = 0 ∧ g.live = true ∧ g.ctx = ctx ∧ g.queue = q ∧ g.evid = evid ∧
        g.prio = x.prio ∧ g.entry = i.entry ∧ g.decl = i.decl ∧ g.spans = d.spans ∧ g.bands = d.bands ∧
        g.gangs = d.gangs ∧ g.groups = d.groups ∧ g.args = d.args ∧ g.cor = d.cor ∧ g.retired = 0 ∧
        (∀ j, j ≠ s.nextGrid → t.grid j = s.grid j) ∧
        (d.cor = false → g.dispatched = 0 ∧ t.groups = s.groups ∧ t.gangs = s.gangs))))

/-! ## Gangs and groups -/

namespace Sys2Proof.Claims

/-- A group as dispatch makes it (R107): every register reads zero, its first split stands at the entry with every lane and
token 16, nothing is latched, no operation is in progress, and s1 to s8 hold the arguments (R320). -/
def FreshGroup (n : Group) (entry : Nat) (args : List Word64) : Prop :=
  n.life = .resident ∧
  n.splits = [(0, { Split.free with v := true, pc := BitVec.ofNat 52 entry, mask := BitVec.allOnes 32, tok := 16 })] ∧
  (∀ r l, n.readV r l = 0) ∧ (∀ r d l, n.readT r d l = 0) ∧ (∀ k, n.readM k = 0) ∧
  (∀ r, n.readS r = if 1 ≤ r ∧ r ≤ 8 then args.getD (r - 1) 0 else 0) ∧
  (∀ k, n.tile k = none) ∧ (∀ k, n.factor k = none) ∧ n.ops = [] ∧ n.stack = [] ∧ n.tlost = 0 ∧ n.edge = 0 ∧
  n.mxstat = 0 ∧ n.latch = none ∧ n.crit = 0 ∧ n.rewind = false

end Sys2Proof.Claims

open Sys2Proof.Claims

/-- GANG_DISPATCH (R28, R107, R320): the next gang of a grid starts on a core of its band's quarter, with the data section
in its scratchpad, its declared barriers armed for its groups, and its groups fresh; nothing else starts. Saved gangs of the
quarter go first, but on a core that a stall of the grid has freed (R324, log 39). -/
def Sys2Proof.Claims.GangsStart : Prop := ∀ (s : State) (grid core : Nat) (places : List Nat),
  let g := s.grid grid
  let n := g.dispatched
  let q := Sparse.get 32 g.quarters (4 * (n / (g.bands * g.gangs)) + n / g.gangs % g.bands)
  let gang := 1024 * grid + n
  (s.savedOn (core / 16) ≠ [] → s.stallFreed grid core = false → exec (.gangDispatch grid core places) s = .next s) ∧
  (g.live = true → n < g.spans * g.bands * g.gangs → s.savedOn q = [] ∨ s.stallFreed grid core = true →
    s.quarterOpen g.ctx q = true → core / 16 = q → s.placesFit core g.groups g.decl places = true →
  Completes (.gangDispatch grid core places) s fun t =>
    let y := t.gang gang
    t = { s with gangs := t.gangs, groups := t.groups, grids := t.grids } ∧
    t.grid grid = { g with dispatched := n + 1 } ∧ (∀ j, j ≠ grid → t.grid j = s.grid j) ∧
    (∀ j, j ≠ gang → t.gang j = s.gang j) ∧ y.life = .resident ∧ y.core = core ∧ y.ctx = g.ctx ∧ y.nextIdx = g.groups ∧
    (∀ a, Sparse.get 0 y.spad a = (s.dataSection g).getD a 0) ∧
    (∀ b, b < 32 → y.bar b = if g.decl.barmask.testBit b then { Barrier.zero with exparr := g.groups } else Barrier.zero) ∧
    (∀ i, i < g.groups → ∀ p, places[i]? = some p →
      let m := t.group (64 * core + p)
      FreshGroup m g.entry g.args ∧ m.ctx = g.ctx ∧ m.grid = grid ∧ m.gang = gang ∧ m.prio = g.prio ∧ m.decl = g.decl ∧
      m.pos.groupSize = g.groups ∧ m.pos.groupIdx = i ∧ m.pos.gangSize = g.gangs ∧ m.pos.gangIdx = n % g.gangs ∧
      m.pos.bandSize = g.bands ∧ m.pos.bandIdx = n / g.gangs % g.bands ∧ m.pos.spanSize = g.spans ∧
      m.pos.spanIdx = n / (g.bands * g.gangs) ∧ m.pos.gridSize = g.spans * g.bands * g.gangs * g.groups ∧
      m.pos.gridIdx = n * g.groups + i) ∧
    ∀ k, (∀ p ∈ places, k ≠ 64 * core + p) → t.group k = s.group k)

/-- GROUP_RETIRE (R133, R257, R308, R309): a retiring group with no operation left gives up its context, unless its core is frozen
(R396); the last of a gang frees the gang's scratchpad and barriers and its event counts the gang; the last gang ends its grid. A
fault word that stands in the latch of the group is entered in the error record, with a full ring in LOST (R260, R331). -/
def Sys2Proof.Claims.GroupsRetire : Prop := ∀ (s : State) (gid : Nat),
  let g := s.group gid
  let y := s.gang g.gang
  let k := s.grid y.grid
  let alone := ∀ j, j ≠ gid → (s.group j).life = .free ∨ (s.group j).gang ≠ g.gang
  let head := s.readVirt g.ctx (s.context g.ctx).errrec 16
  let used := ((s.context g.ctx).records % 2 ^ 32 + 2 ^ 32 - field head 32 32) % 2 ^ 32
  g.life = .retiring → Sparse.wf Group.free s.groups = true →
  (g.ops ≠ [] ∨ .core (gid / 64) ∈ s.frozen → exec (.groupRetire gid) s = .next s) ∧
  (.core (gid / 64) ∉ s.frozen → g.ops = [] → ∀ w, g.latch = some w → g.splits = [] →
    let base := (s.context g.ctx).errrec
    let k := (s.context g.ctx).records
    Completes (.groupRetire gid) s fun t => t.group gid = Group.free ∧ (∀ j, j ≠ gid → t.group j = s.group j) ∧
      (used < 255 → (t.context g.ctx).records = k + 1 ∧ ∃ x : Nat, x < 2 ^ 128 ∧
        field x 76 52 = g.exitPc.toNat ∧ field x 73 3 = 0 ∧ field x 64 9 = gid / 64 % 512 ∧ field x 58 6 = gid % 64 ∧
        field x 48 10 = 0 ∧ field x 40 8 = 2 ∧ field x 36 4 = 7 ∧ field x 32 4 = 0 ∧ field x 0 32 = field w.toNat 16 32 ∧
        t.dies = ((s.writeVirt g.ctx (base + 16 * (1 + k % 255)) (bytesOf 16 x)).writeVirt g.ctx base (bytesOf 4 (k + 1))).dies) ∧
      (255 ≤ used → (t.context g.ctx).records = k ∧
        t.dies = (s.writeVirt g.ctx (base + 8) (bytesOf 4 (Nat.min (field head 64 32 + 1) (2 ^ 32 - 1)))).dies)) ∧
  (.core (gid / 64) ∉ s.frozen → g.ops = [] → g.latch = none →
    (Completes (.groupRetire gid) s fun t => t.group gid = Group.free ∧ (∀ j, j ≠ gid → t.group j = s.group j)) ∧
    ((∃ j, j ≠ gid ∧ (s.group j).life ≠ .free ∧ (s.group j).gang = g.gang) →
      Completes (.groupRetire gid) s fun t => t.gangs = s.gangs ∧ (t.grid g.grid).lastRetire = s.clock + 1) ∧
    (alone → y.grid = g.grid → y.ctx = g.ctx → Completes (.groupRetire gid) s fun t =>
      t.gang g.gang = Gang.none ∧ (∀ j, j ≠ g.gang → t.gang j = s.gang j) ∧
      Sparse.get 0 (t.context g.ctx).events k.evid = Sparse.get 0 (s.context g.ctx).events k.evid + 1 ∧
      (k.retired + 1 < k.spans * k.bands * k.gangs → (t.grid g.grid).retired = k.retired + 1 ∧ (t.grid g.grid).live = k.live) ∧
      (k.spans * k.bands * k.gangs ≤ k.retired + 1 → t.grid g.grid = Grid.none)))

/-- Grid stalls and saved gangs (R323, R324, R337): a window of 65,536 cycles ends not before its time and starts the
next, in which no group has waited yet; a stalled grid has one eligible gang chosen; the chosen gang, once its operations are
complete, is rewound and saved, unless its core is frozen (R396); and a saved gang comes back, at whole saved sets, with its vector and mask registers. (Readings: log 39.) -/
def Sys2Proof.Claims.GridStalls : Prop := ∀ (s : State) (k core : Nat) (places : List Nat),
  let anew := fun (y : Gang) => { y with saved := y.saved.map fun g => { g with waitedCycles := 0 } }
  (s.clock < s.windowStart + 65536 → exec .stallWindow s = .next s) ∧
  (s.windowStart + 65536 ≤ s.clock → Sparse.wf Group.free s.groups = true →
    Completes .stallWindow s (fun t => t.windowStart = s.windowStart + 65536 ∧ t.dies = s.dies ∧ t.grids = s.grids ∧
      (∀ j, (t.group j) = { s.group j with waitedCycles := 0 }) ∧
      ((∀ j, s.stalled j = false) → ∀ j, t.gang j = anew (s.gang j)) ∧
      ∀ y, (∀ j, s.stalled j = true ↔ j = k) → (s.grids.map Prod.fst).count k = 1 → s.stallChoice k = some y →
        t.gang y = anew { s.gang y with chosen := true } ∧ ∀ j, j ≠ y → t.gang j = anew (s.gang j))) ∧
  (let y := s.gang k
   (.core y.core ∈ s.frozen → exec (.stallGangSave k) s = .next s) ∧
   (y.chosen = true → y.life = .resident → .core y.core ∉ s.frozen →
     (∀ p ∈ s.gangGroups k, p.2.ops = []) → Sparse.wf Group.free s.groups = true →
     Completes (.stallGangSave k) s fun t => (t.gang k).life = .saved ∧ (t.gang k).chosen = false ∧
       (t.gang k).spad = y.spad ∧ (t.gang k).bars = y.bars ∧ (t.gang k).saved.length = (s.gangGroups k).length ∧
       (∀ p ∈ s.gangGroups k, t.group p.1 = Group.free) ∧ (t.gang k).savedAt = s.clock + 1 ∧
       ∀ j, j ≠ k → t.gang j = s.gang j)) ∧
  (let y := s.gang k
   s.quarterOpen y.ctx (core / 16) = true → s.restoreOk k core places = true →
     Completes (.gangRestore k core places) s fun t => (t.gang k).life = .resident ∧ (t.gang k).core = core ∧
       (t.gang k).saved = [] ∧ (t.gang k).spad = y.spad ∧ (t.gang k).bars = y.bars ∧
       ∀ (i : Nat) (x : Group) (p : Nat), y.saved[i]? = some x → places[i]? = some p →
         (∀ r, x.record = some r → r.saved = .all ∧ r.recipe = none) →
         let m := t.group (64 * core + p)
         (∀ r l, m.readV r l = x.readV r l) ∧ (∀ r, m.readM r = x.readM r) ∧ m.ctx = x.ctx ∧ m.gang = x.gang ∧
         m.decl = x.decl)

/-! ## Contexts and partitions -/

namespace Sys2Proof.Claims

/-- A context has been reset (R338): it is idle and not resident, none of its groups or gangs is left, its events and spill
record are clear, its queues are empty, and no bank is its own. -/
def WasReset (s t : State) (ctx : Nat) : Prop :=
  (t.context ctx).state = .idle ∧ (t.context ctx).events = [] ∧ (t.context ctx).spill = [] ∧
  (∀ k, (t.group k).ctx = ctx → t.group k = Group.free) ∧ (∀ k, (t.gang k).ctx = ctx → t.gang k = Gang.none) ∧
  (∀ q, (t.quarter q).owned = true → (t.quarter q).octx ≠ ctx) ∧
  (∀ q, q < 16 → t.queue ctx q = { Queue.idle with base := (s.queue ctx q).base, rsize := (s.queue ctx q).rsize,
                                                   prio := (s.queue ctx q).prio }) ∧
  (t.part (s.context ctx).part).resident ≠ some ctx

/-- A pre-emption request has reached the group (R335): it has been rewound, it drains, or it is critical and owes it. -/
def Preempted (t : State) (k : Nat) : Prop :=
  let g := t.group k
  g.life = .flashed ∨ g.drain.isSome = true ∨ g.preempt = true ∨ ¬ (g.life = .resident ∨ g.life = .trapped)

/-- The context is being switched out for another or for none: every group of it that is not on a frozen core (R396) has a
pre-emption request. The journal stands in the save areas of both contexts, where these are mapped (R337), and nothing else is
written. -/
def SwitchedOut (s t : State) (ctx inctx : Nat) : Prop :=
  let unmapped := fun (c : Nat) => ∀ n, s.virtPieces 0 c .write n ((s.context c).savebase + 4096) 64 = none
  (t.context ctx).state = .switching ∧
  (unmapped ctx → inctx = 0xFFFF ∨ unmapped inctx → ∀ d, (t.die d).mem = (s.die d).mem) ∧
  ∀ k, (s.group k).ctx = ctx → (s.group k).life ≠ .free →
    (.core (k / 64) ∉ s.frozen → Preempted t k) ∧ (.core (k / 64) ∈ s.frozen → t.group k = s.group k)

/-- May the switches of a virtual function on its partition go on: it is not suspended, and no Umber of the partition is frozen
(R344, R396)? -/
def MaySwitch (s : State) (vf part : Nat) : Prop := (s.vf vf).suspended = false ∧ s.schedulerStands part = false

end Sys2Proof.Claims

open Sys2Proof.Claims

/-- Slices and pre-emption (R333, R335 to R338, R343): a slice that is over while another context waits, or is given up, starts a
journaled switch, whose first step pre-empts the context; a context whose groups are all parked is saved with its gangs; the
scheduler's choice becomes resident; a group that has not reached a point when its drain timer ends, and a forced reset, reset
the context. (Readings: log 37, log 39, log 40, log 73.) -/
def Obligations.ContextSwitches : Prop := ∀ (s : State) (part ctx vf gid : Nat),
  let c := s.context ctx
  let p := s.part part
  (p.resident = some ctx → p.vf = some vf → c.state = .resident → ctx < 0xFFFF → s.sliceOver part = true → MaySwitch s vf part →
    (s.vf vf).journal.step = 0 → Completes (.quantumExpiry part) s fun t => SwitchedOut s t ctx (t.vf vf).journal.inctx ∧
      (t.vf vf).journal.outctx = ctx ∧ (t.vf vf).journal.step = 2 ∧ (t.part part).resident = some ctx) ∧
  ((p.resident = none ∨ s.sliceOver part = false) → exec (.quantumExpiry part) s = .next s) ∧
  (c.state = .resident → (s.part c.part).resident = some ctx → ctx < 0xFFFF → s.givesUp ctx = true → MaySwitch s c.vf c.part →
    (s.vf c.vf).journal.step = 0 → Completes (.preemptionRequest ctx) s fun t => SwitchedOut s t ctx (t.vf c.vf).journal.inctx ∧
      (t.vf c.vf).journal.outctx = ctx ∧ (t.vf c.vf).journal.step = 2) ∧
  (∀ d, (s.group gid).drain = some d → Runs (s.group gid) →
    (d ≤ s.clock → (s.vf (s.context (s.group gid).ctx).vf).suspended = false → s.frozen.contains (.core (gid / 64)) = false →
      (s.context (s.group gid).ctx).state ≠ .faulted →
      Completes (.drainTimerExpiry gid) s fun t => WasReset s t (s.group gid).ctx) ∧
    (s.clock < d ∨ (s.context (s.group gid).ctx).state = .faulted → exec (.drainTimerExpiry gid) s = .next s)) ∧
  (c.state = .switching → s.quiet ctx = true → ctx < 0xFFFF → MaySwitch s c.vf c.part → (s.vf c.vf).suspendAsked = false →
    (s.vf c.vf).journal.outctx = ctx → (s.vf c.vf).journal.step = 2 →
    Completes (.contextSave ctx) s fun t => (t.context ctx).state = .saved ∧ (t.vf c.vf).journal.step = 5 ∧
      ∀ y, (s.gang y).ctx = ctx → (s.gang y).life = .resident → (t.gang y).life = .saved) ∧
  (c.state = .switching → s.quiet ctx = false → exec (.contextSave ctx) s = .next s) ∧
  (p.resident = none → p.vf = some vf → s.nextContext part = some ctx → c.state = .idle ∨ c.state = .saved → ctx < 0xFFFF →
    MaySwitch s vf part → (s.vf vf).suspendAsked = false → (s.vf vf).journal.step = 0 → s.sweepQuiet part = true →
    Completes (.contextRestore part []) s fun t => (t.context ctx).state = .resident ∧ (t.vf vf).journal.step = 0 ∧
      (t.context ctx).sliceStart = s.clock ∧ (t.part part).resident = some ctx ∧ (t.part part).last = p.last) ∧
  (p.resident.isSome = true → (∀ k, p.vf = some k → (s.vf k).journal.step = 0) →
    exec (.contextRestore part []) s = .next s) ∧
  (s.bringUp = .ready → c.state ≠ .absent → Completes (.forcedReset ctx) s fun t => WasReset s t ctx)

/-- The life of contexts, partitions and virtual functions (R330, R340 to R344, R387): what each step of the control plane
leaves, and where it does nothing. That CTX is below 0xFFFF (log 73), that a descriptor which breaks a constraint is not taken
(log 33), what VTIME reads after a suspension and that a resident context is switched out first (log 51) and where tiles of a moved band stand (log 38) are the model's. -/
def Obligations.ControlPlane : Prop := ∀ (s : State) (ctx vf part q raw quota : Nat) (l : List Placement),
  let c := s.context ctx
  let v := s.vf vf
  (s.bringUp = .ready → v.part = some part → c.state = .absent → ctx < 0xFFFF →
    Completes (.contextCreate vf ctx) s fun t => t = { s with contexts := t.contexts } ∧
      (∀ k, k ≠ ctx → t.context k = s.context k) ∧ t.context ctx =
        { Context.absent with state := .idle, part := part, vf := vf, lastSeen := BitVec.ofNat 64 s.clock }) ∧
  (s.bringUp = .ready → c.state = .idle → Completes (.contextDestroy ctx) s fun t => t.context ctx = Context.absent ∧
    (∀ k, k ≠ ctx → t.context k = s.context k) ∧ ∀ q, (t.quarter q).owned = true → (t.quarter q).octx ≠ ctx) ∧
  (c.state ≠ .idle → exec (.contextDestroy ctx) s = .next s) ∧
  (s.bringUp = .ready → s.umberStands 0 = false → c.state ≠ .absent → s.groupsOf ctx = [] → field raw 32 5 = c.part → field raw 0 16 = ctx → descriptorOk raw = true →
    Completes (.contextDescriptorWrite ctx raw) s fun t => t.context ctx = { c with
      vtoff := BitVec.ofNat 64 (field raw 448 64), lastSeen := BitVec.ofNat 64 (s.clock + field raw 448 64),
      handler := BitVec.ofNat 52 (field raw 396 52), savebase := field raw 332 52, accsave := field raw 268 52,
      errrec := field raw 204 52, quantum := field raw 160 32, drainlim := field raw 128 32, critlim := field raw 96 32,
      records := if field raw 204 52 = c.errrec then c.records else 0 }) ∧
  (s.bringUp = .ready → part < 32 → q < 32 → (s.quarter q).part = none → Completes (.partitionAdd part q) s fun t =>
    t.quarter q = { Quarter.reset with part := some part } ∧ (∀ k, k ≠ q → t.quarter k = s.quarter k) ∧
    (t.part part).qmask = (s.part part).qmask ||| BitVec.twoPow 32 q) ∧
  ((s.quarter q).part = some part → s.groupsOn q = [] →
    (s.bringUp = .ready →
      Completes (.partitionWithdraw part q) s fun t => t.quarter q = { s.quarter q with leaving := true }) ∧
    ((s.quarter q).leaving = true → (s.quarter q).fuse = 0 → (s.quarter q).owned = false →
      (∀ k, k / 16 = q → .core k ∉ s.frozen) → (∀ p ∈ s.gangs, p.2.life = .resident → p.2.core / 16 ≠ q) → (∀ p ∈ s.grids, ∀ b ∈ p.2.quarters, b.2 ≠ q) →
      Completes (.quarterRelease q) s fun t => t.quarter q = Quarter.reset ∧
        (t.part part).qmask = (s.part part).qmask &&& ~~~(BitVec.twoPow 32 q) ∧ t.groups = s.groups)) ∧
  ((s.quarter q).leaving = false ∨ (∃ k, k / 16 = q ∧ .core k ∈ s.frozen) → exec (.quarterRelease q) s = .next s) ∧
  (∀ grid sp band, let g := s.grid grid
    g.live = true → sp < g.spans → band < g.bands → Sparse.get 32 g.quarters (4 * sp + band) = 32 →
    q / 4 = g.diemap.getD sp 8 → s.quarterOpen g.ctx q = true → (∀ b ∈ g.quarters, ¬ (b.1 / 4 = sp ∧ b.2 = q)) →
    g.savedBands = [] → q ≠ 32 → (s.quarter q).leaving = false → (s.quarter q).fuse = 0 → (s.quarter q).owned = false →
    Completes (.bandResume grid sp band q []) s fun t =>
      t.grid grid = { g with quarters := Sparse.set 32 g.quarters (4 * sp + band) q } ∧ t.groups = s.groups ∧
      let old := Sparse.get 32 g.left (4 * sp + band)
      let tiles := s.bandTiles grid sp band
      (old ≠ q → (∀ k ∈ tiles, k < 1024) → ∀ k ∈ tiles, Sparse.get 0 (s.context g.ctx).spill (1024 * old + k) ≠ 0 →
        Sparse.get 0 (t.context g.ctx).spill (1024 * q + k) = Sparse.get 0 (s.context g.ctx).spill (1024 * old + k))) ∧
  (s.bringUp = .ready → vf < 32 → part < 32 → (∀ k, k < 32 → k ≠ vf → (s.vf k).part ≠ some part) → v.part = none →
    (∀ p ∈ s.contexts, p.2.vf ≠ vf) → Completes (.vfBind vf part) s fun t => t.vf vf = { v with part := some part } ∧
      (t.part part).vf = some vf ∧ ∀ k, k ≠ vf → t.vf k = s.vf k) ∧
  (s.bringUp = .ready → v.part = some part → v.suspended = false →
    ((s.part part).resident = none → v.journal.step = 0 → Completes (.vfSuspend vf) s fun t =>
      t.vf vf = { v with suspended := true, since := s.clock, suspendAsked := false }) ∧
    ((s.part part).resident.isSome = true ∨ v.journal.step ≠ 0 → Completes (.vfSuspend vf) s fun t =>
      t.vf vf = { v with suspendAsked := true } ∧ t.contexts = s.contexts)) ∧
  (s.bringUp = .ready → v.suspended = true → Sparse.wf Context.absent s.contexts = true → Completes (.vfResume vf) s fun t =>
    t.vf vf = { v with suspended := false } ∧
    (∀ k, (s.context k).state ≠ .absent → (s.context k).vf = vf →
      BitVec.ofNat 64 s.clock + (t.context k).vtoff = (s.context k).lastSeen + 1) ∧
    ∀ k, (t.group k).drain = if (s.context (s.group k).ctx).vf = vf
      then (s.group k).drain.map (· + (s.clock - v.since)) else (s.group k).drain) ∧
  (∀ i o, v.part = some part → MaySwitch s vf part → v.journal.step = 0 →
    s.switchDue part = some (i, o) → Completes (.guestSwitchStep vf l) s fun t =>
      t.vf vf = { v with journal := ⟨i, o, 1⟩ } ∧ t.contexts = s.contexts) ∧
  (v.part = some part → MaySwitch s vf part → 1 ≤ v.journal.step → v.journal.step ≤ 6 →
    (v.journal.step = 2 → (s.context v.journal.outctx).state ≠ .switching ∨ s.quiet v.journal.outctx = true) →
    (v.journal.step = 5 → s.sweepQuiet part = true) →
    Completes (.guestSwitchStep vf l) s fun t =>
      (v.journal.step ≠ 6 → ((t.vf vf).suspended = true ↔ v.suspendAsked = true ∧
        (v.journal.inctx ≠ 0xFFFF ∨ (s.part part).resident = none))) ∧
      (v.journal.step = 6 → ((t.vf vf).suspended = true ↔ v.suspendAsked = true ∧ (t.part part).resident = none)) ∧
      (t.vf vf).journal = { v.journal with step := if v.journal.step = 6 then 0 else v.journal.step + 1 }) ∧
  (v.suspended = true → exec (.guestSwitchStep vf l) s = .next s) ∧
  (s.bringUp = .ready → q < 32 → ((Sparse.set 0 (s.quarter q).quota ctx quota).map Prod.snd).sum ≤ 256 →
    Completes (.stackQuotaAssignment q ctx quota) s fun t =>
      t.quarter q = { s.quarter q with quota := (t.quarter q).quota } ∧
      ∀ k, Sparse.get 0 (t.quarter q).quota k = if k = ctx then quota else Sparse.get 0 (s.quarter q).quota k)

/-! ## Mappings, shoot-downs and requests -/

namespace Sys2Proof.Claims

/-- A core has dropped what it holds of a range (R355): no TLB entry of its quarter lies in it, and no window of its groups whose
FRAME, of the page of its base or of the bytes it serves fast, has a byte of it. -/
def CoreDropped (t : State) (core ctx va len : Nat) : Prop :=
  (∀ e ∈ (t.quarter (core / 16)).tlb, e.ctx = ctx → ¬ (e.va < va + len ∧ va < e.va + e.size)) ∧
  ∀ k, k / 64 = core → (t.group k).ctx = ctx → ∀ w, let x := (t.group k).window w
    x.flim = 0 ∨ ∀ a, va ≤ a → a < va + len → a / 65536 ≠ x.base / 65536 ∧ ¬ (x.base ≤ a ∧ a < x.base + x.flim)

/-- The group stands at a request of a kind, and its record was the topmost trap record: it is taken off and the split goes
on at the PC where it stands. -/
def RequestEnded (g g' : Group) (h : Hold) : Prop :=
  ∀ e above r below, e < 4 → (g.split e).v = true → (g.split e).hold = h → (∀ k, k < e → (g.split k).hold ≠ h) →
    g.stack = above ++ r :: below → r.kind = .trap → (∀ x ∈ above, x.kind ≠ .trap) →
    g'.stack = above ++ below ∧ g'.split e = { g.split e with hold := .none } ∧
    ∀ k, k ≠ e → g'.split k = g.split k

end Sys2Proof.Claims

open Sys2Proof.Claims

/-- The tables of a context (R346, R349, R364): a translation descriptor, a weight-store map, which is written at WSMAP, and a
collective group are taken when they meet their constraints; a map that Indigo refuses changes nothing, and the host driver hears of it. That a
translation descriptor which breaks a constraint is not taken is the model's choice (log 33). -/
def Sys2Proof.Claims.ContextTables : Prop :=
  ∀ (s : State) (ctx raw g rank : Nat) (entries : List Nat) (ranks : List (Nat × Nat)),
  let c := s.context ctx
  let l := (List.range 16).map fun i => entries.getD i 0 % 2 ^ 128
  s.bringUp = .ready → c.state ≠ .absent →
  (translationOk raw = true → Completes (.translationUpdate ctx raw) s fun t =>
    t = { s with contexts := t.contexts } ∧ (∀ k, k ≠ ctx → t.context k = s.context k) ∧
    t.context ctx = { c with pool := field raw 448 64, phwm := field raw 396 52, plim := field raw 332 52,
                             pbase := field raw 268 52, wsmapAddr := field raw 208 48, root := field raw 144 48 }) ∧
  (translationOk raw = false → exec (.translationUpdate ctx raw) s = .next s) ∧
  (s.mapOk ctx l = true → Completes (.wsmapUpdate ctx entries) s fun t =>
    t.context ctx = { c with wsmap := (List.range 16).map fun i =>
      let x := entries.getD i 0
      ⟨65536 * field x 96 32, 65536 * field x 64 32, 65536 * field x 32 32, x.testBit 9, x.testBit 8, field x 0 8⟩ } ∧
      ((∃ home, physKind c.wsmapAddr = .hbm home) → Numbered s →
        Sparse.getRange 0 (t.die 0).mem c.wsmapAddr 256 = l.flatMap (bytesOf 16))) ∧
  (s.mapOk ctx l = false → Completes (.wsmapUpdate ctx entries) s fun t =>
    t = { s with notices := s.notices ++ [.mapRefused ctx] }) ∧
  (g < 1024 → 2 ≤ ranks.length → ranks.length ≤ 256 → rank < ranks.length →
    (∀ p ∈ s.groupsOf ctx, ∀ o ∈ p.2.ops, o.cls = .cl → o.done = true) →
    Completes (.collectiveGroupWrite ctx g ranks rank) s fun t =>
      Sparse.get none (t.context ctx).colls g = some ⟨ranks, rank⟩ ∧ Sparse.get 0 (t.context ctx).collCount g = 0 ∧
      (∀ k, k ≠ g → Sparse.get none (t.context ctx).colls k = Sparse.get none c.colls k) ∧
      ∀ k, k ≠ ctx → t.context k = s.context k) ∧
  ((∃ p ∈ s.groupsOf ctx, ∃ o ∈ p.2.ops, o.cls = .cl ∧ o.done = false) →
    exec (.collectiveGroupWrite ctx g ranks rank) s = .next s)

/-- Shoot-downs (R355 to R357): every core and every chip named beside this one has to answer, and a flit asks each such chip to
which a port leads; a core first drops what it holds of the range,
and answers when its die has applied the writes that come before the request and no operation of its own uses the range; a chip
that is silent for 1,048,576 cycles is fenced, with its bit in FENCED, and no longer waited for; the last answer sets DONE. The
layout of the request flit is the model's (log 26), and so is which operations use a range (log 49). -/
def Obligations.ShootDowns : Prop := ∀ (s : State) (ctx va len id core chip : Nat) (chips : List Nat) (x : Shoot),
  (s.bringUp = .ready → Completes (.shootDown ctx va len chips) s fun t => ∃ l, l.Nodup ∧
    (∀ c, c ∈ l ↔ c ∈ chips ∧ c < 128 ∧ c ≠ s.chip) ∧
    t.shoots = s.shoots ++ [⟨s.shoots.length, ctx, va, len, l, List.range 512, l, [], s.clock, (s.die 0).vc, none, false⟩] ∧
    (∀ c ∈ l, s.peerUp c = true → ∃ f ∈ (t.port (s.peerPort c 0)).queue, f.kind = 6 ∧ f.dst = c ∧ f.src = s.chip ∧
      f.payload = bytesOf 8 ctx ++ bytesOf 8 va ++ bytesOf 8 len) ∧
    ((∀ c ∈ l, s.peerUp c = false) → t.ports = s.ports)) ∧
  (∀ k f, (s.port k).usable = true → k < 16 → f.kind = 6 → f.len = 24 → f.src = (s.port k).peer →
    f.seq = (s.port k).seqIn → f.dst = s.chip →
    let w := fun i => ofBytes (((f.payload.take 24).drop (8 * i)).take 8)
    Completes (.shootDownFlit k f) s fun t => t.shoots = s.shoots ++
      [⟨s.shoots.length, w 0 % 2 ^ 16, w 1, w 2, [], List.range 512, [], [], s.clock, (s.die 0).vc, some (k, f.src, f.seq),
        false⟩] ∧
      (t.port k).seqIn = ((s.port k).seqIn + 1) % 2 ^ 32) ∧
  (s.shoots = [x] → x.id = id → x.done = false →
    (core ∈ x.cores → Sparse.wf Group.free s.groups = true →
      Completes (.shootDownAck id (.core core)) s (fun t => CoreDropped t core x.ctx x.va x.len) ∧
      ((s.ready (core / 64) x.need = false ∨ ∃ k o, k / 64 = core ∧ (s.group k).ctx = x.ctx ∧ (s.group k).life ≠ .free ∧
          o ∈ (s.group k).ops ∧ o.usesRange x.va x.len = true) →
        Completes (.shootDownAck id (.core core)) s fun t => t.shoots = s.shoots) ∧
      (s.ready (core / 64) x.need = true → (∀ k o, k / 64 = core → (s.group k).ctx = x.ctx → o ∈ (s.group k).ops → o.usesRange x.va x.len = false) →
        Completes (.shootDownAck id (.core core)) s fun t => ∃ y, t.shoots = [y] ∧ y.cores = x.cores.erase core ∧
          y.waiting = x.waiting ∧ (y.done = true ↔ y.cores = [] ∧ y.waiting = []))) ∧
    (Completes (.shootDownAck id (.chip chip)) s fun t => ∃ y, t.shoots = [y] ∧ y.cores = x.cores ∧
      y.waiting = x.waiting.erase chip ∧ (y.done = true ↔ y.cores = [] ∧ y.waiting = [])) ∧
    (chip ∈ x.waiting → (s.clock < x.since + 1048576 → exec (.shootDownTimeout id chip) s = .next s) ∧
      (x.since + 1048576 ≤ s.clock → Completes (.shootDownTimeout id chip) s fun t => chip ∈ t.fencedChips ∧
        ∃ y, t.shoots = [y] ∧ y.waiting = x.waiting.erase chip ∧ y.fenced = x.fenced ++ [chip] ∧
          y.word.getLsbD 0 = y.done ∧ (chip < 24 → y.word.getLsbD (8 + chip) = true))))

/-- The answers to requests (R326 to R328, R352): an escalation lets its split go on after its TRAP. A translation is written but
for word 0 of the stub, then word 0, and then the splits that wait for it go on, each once every die has applied what came
before; a stub that no lane has reached is not translated; a heap that is full gives the record cause 0x25, until the host driver
resumes it, and the translation starts again from the stub. Nothing changes on a frozen core (R396). What a translation is made of is the
model's (log 57), and so is it that an escalation which was rewound is answered when its TRAP issues again (log 46). -/
def Sys2Proof.Claims.RequestsAnswered : Prop := ∀ (s : State) (gid ctx stub : Nat) (w : Translation),
  let g := s.group gid
  let becomes := fun (t : State) (st : StubState) => ∀ y ∈ (t.context ctx).stubs, y.pc = stub → y.state = st
  s.bringUp = .ready → .core (gid / 64) ∉ s.frozen →
  (gid < 32768 → (∃ e, e < 4 ∧ (g.split e).v = true ∧ (g.split e).hold = .escalation) →
    Completes (.escalationResume gid) s fun t => OnlyGroupOf s t gid ∧ RequestEnded g (t.group gid) .escalation) ∧
  (gid < 32768 → (∀ e, e < 4 → (g.split e).hold ≠ .escalation) → g.life = .flashed → g.escalated = true →
    Completes (.escalationResume gid) s fun t => OnlyGroupOf s t gid ∧
      t.group gid = { g with escalated := false, answered := true }) ∧
  (∀ x, (s.context ctx).stubs.find? (fun y => decide (y.pc = stub)) = some x → s.umberStands 0 = false →
    (x.state = .stub → exec (.translationPublish ctx stub (some w)) s = .next s ∧
      exec (.translationPublish ctx stub none) s = .next s) ∧
    (x.state = .translating → s.translates ctx stub w = true → Completes (.translationPublish ctx stub (some w)) s fun t =>
      becomes t .written ∧ t.groups = s.groups) ∧
    (x.state = .translating → g.ctx = ctx → g.life ≠ .free → g.waitsFor stub = true → Sparse.wf Group.free s.groups = true →
      Completes (.translationPublish ctx stub none) s fun t => (t.group gid).stack.length = g.stack.length ∧
        (∀ r, g.beneath = some r → { r with cause := 0x25 } ∈ (t.group gid).stack) ∧
        (∀ e, (t.group gid).split e = g.split e) ∧ Notice.heapFull ctx stub ∈ t.notices ∧ becomes t .stub) ∧
    (x.state = .written → s.everywhere x.need = true → Completes (.translationPublish ctx stub none) s fun t =>
      becomes t .opened ∧ t.groups = s.groups) ∧
    (x.state = .opened → s.everywhere x.need = true → g.ctx = ctx → g.life ≠ .free → g.waitsFor stub = true →
      Sparse.wf Group.free s.groups = true → Completes (.translationPublish ctx stub none) s fun t =>
        becomes t .published ∧ RequestEnded g (t.group gid) .translation) ∧
    (x.state = .written ∨ x.state = .opened → s.everywhere x.need = false →
      exec (.translationPublish ctx stub none) s = .next s)) ∧
  (g.ctx = ctx → g.life ≠ .free → Sparse.wf Group.free s.groups = true →
    (∃ r, g.beneath = some r ∧ r.cause = 0x25) → (∃ e, e < 4 ∧ (g.split e).v = true ∧ (g.split e).hold = .translation) →
    Completes (.heapResume ctx) s fun t => RequestEnded g (t.group gid) .translation)

/-! ## Links and the host -/

namespace Sys2Proof.Claims

/-- A flit of a kind that a port takes (R359): usable, a Kazvel port, next in sequence, from its peer and for this chip. -/
def Taken (s : State) (k kind : Nat) (f : Flit) : Prop :=
  (s.port k).usable = true ∧ k < 16 ∧ f.kind = kind ∧ f.len ≤ 240 ∧ f.src = (s.port k).peer ∧ f.seq = (s.port k).seqIn ∧
  f.dst = s.chip

/-- Byte field of the payload in use, as a number. -/
def payloadAt (f : Flit) (i n : Nat) : Nat := ofBytes (((f.payload.take f.len).drop i).take n)

/-- The port now expects the next SEQ. -/
def NextIn (s t : State) (k : Nat) : Prop := (t.port k).seqIn = ((s.port k).seqIn + 1) % 2 ^ 32

/-- The port has sent one flit of a kind with a payload: it is the last sent and queued, and carries the port's SEQ. -/
def Sent (s t : State) (k dst kind : Nat) (payload : List Byte) : Prop :=
  let p := s.port k
  let f : Flit := { dst := dst, src := s.chip, kind := kind, len := payload.length, seq := p.seqOut, payload := payload }
  (t.port k).sent = p.sent ++ [f] ∧ (t.port k).queue = p.queue ++ [f] ∧ (t.port k).seqOut = (p.seqOut + 1) % 2 ^ 32

/-- A port is in the fenced state, in no route, and no access is open on it (R362, R363). -/
def Fenced (t : State) (k : Nat) : Prop :=
  (t.port k).state = .fenced ∧ (t.port k).asked = [] ∧ ∀ c, k ∉ Sparse.get [] t.routes c

/-- The operation of every access that was open on the port has LINK (R363). -/
def LinkLost (s t : State) (k : Nat) : Prop := ∀ a ∈ (s.port k).asked, a.kind ≠ .signal →
  ∀ o, (s.group a.gid).op? a.id = some o →
  ∃ o', (t.group a.gid).op? a.id = some o' ∧ o'.status &&& 0x10#32 = 0x10#32

/-- The lanes of a port (R358), and the answer to a flit, which names its SEQ and a status (log 26). -/
def portLanes (k : Nat) : Nat := if k = 16 then 32 else 8
def answerTo (f : Flit) (status : Nat) : List Byte := bytesOf 4 f.seq ++ bytesOf 4 status

/-- The number of a state in the status word (R361). -/
def stateNumber : PortState → Nat
  | .down => 0 | .training => 1 | .up => 2 | .degraded => 3 | .fenced => 4

end Sys2Proof.Claims

open Sys2Proof.Claims

/-- The life of a port (R361, R362): training begins from the down state; n lanes that pass make it up or degraded and, on
Kazvel, give it its place in the route of its peer; an unanswered request fences it after 1,048,576 cycles and not before; a
reset ends a fence, once the device is ready. Flits of collectives that were in flight on the port when it went to training leave it
again (R367). The status word tells the state. The width of Pradan with 8 to 31 lanes is not stated (log 48). -/
def Sys2Proof.Claims.PortsLive : Prop := ∀ (s : State) (k n peer : Nat),
  let p := s.port k
  let lanes := portLanes k
  let m := min n lanes
  let far := if k = 16 then 0 else peer % 128
  (p.replays < 2 ^ 16 → p.width < 64 → p.peer < 256 → (s.portWord k).toNat =
    (if k = 16 then 0 else p.peer) * 2 ^ 32 + p.replays * 2 ^ 16 + p.width * 2 ^ 4 + stateNumber p.state) ∧
  (k < 17 → p.state = .down → Completes (.linkTraining k) s fun t => t.port k = { p with state := .training } ∧
    ∀ j, j ≠ k → t.port j = s.port j) ∧
  (p.state ≠ .down → exec (.linkTraining k) s = .next s) ∧
  (k < 17 → p.state = .training →
    (m < 2 → Completes (.trainingComplete k n peer) s fun t => t.port k = { p with state := .down, width := 0, trained := true } ∧
      t.routes = s.routes) ∧
    (2 ≤ m → Completes (.trainingComplete k n peer) s fun t =>
      (t.port k).state = (if m = lanes then .up else .degraded) ∧ (t.port k).peer = far ∧ (t.port k).replays = 0 ∧
      (t.port k).seqIn = 0 ∧ (t.port k).trained = true ∧
      (m = lanes ∨ m < 8 → (t.port k).width = if m = lanes then lanes else if m < 4 then 2 else 4) ∧
      (s.collWaits = [] → (t.port k).sent = [] ∧ (t.port k).queue = [] ∧ (t.port k).asked = [] ∧
        (t.port k).seqOut = 0) ∧
      (k < 16 → ∀ w ∈ s.collWaits, w.port = some k → w.chip = far → w ∉ t.collWaits ∧
        ∃ f ∈ (t.port k).queue, f.kind = 5 ∧ f.dst = far ∧ f.payload = w.payload) ∧
      (k < 16 → k ∈ Sparse.get [] t.routes far ∧ far ∉ t.fencedChips) ∧ (k = 16 → t.routes = s.routes))) ∧
  (p.state ≠ .training → exec (.trainingComplete k n peer) s = .next s) ∧
  (p.usable = true → (∃ a ∈ p.asked, a.since + 1048576 ≤ s.clock) →
    Completes (.linkTimeout k) s fun t => Fenced t k ∧ LinkLost s t k ∧
      (k ≠ 16 → (∀ j, j < 16 → j ≠ k → (s.port j).usable = true → (s.port j).peer ≠ p.peer) → p.peer ∈ t.fencedChips)) ∧
  ((∀ a ∈ p.asked, s.clock < a.since + 1048576) → exec (.linkTimeout k) s = .next s) ∧
  (s.bringUp = .ready → p.state = .fenced → Completes (.portReset k) s fun t => t.port k = Port.down ∧ ∀ j, j ≠ k → t.port j = s.port j) ∧
  (p.state ≠ .fenced ∨ s.bringUp ≠ .ready → exec (.portReset k) s = .next s)

/-- The flits of Kazvel (R211, R244, R287, R359, R360, R362, R365): a read request is answered with the bytes of the home die, which
an update changes there; an element of an add-on-store tile waits for the others; a write
is applied and acknowledged; read data reaches the requester, the read buffer and peer memory; an idle flit only
counts; a flit with a bad CRC asks for a replay, which sends again what was kept, and more than 16 of them within 1,100 cycles
send the port to training; a collective flit adds its elements or says that a rank is lost, unless the collective is over. A flit that is out of sequence is
dropped, and one from another chip is a violation (R396). Pradan carries the host's answers likewise. The payload layouts and
the drop are the model's (log 26, log 52). -/
def Sys2Proof.Claims.FlitsArrive : Prop := ∀ (s : State) (k : Nat) (f : Flit) (a : Asked),
  let pa := payloadAt f 0 8 % 2 ^ 39
  let n := min 128 (payloadAt f 8 8)
  let dst := f.src
  let first := fun (kind : AskKind) => kind = a.kind ∧ a ∈ (s.port k).asked ∧ a.seq = payloadAt f 0 4 ∧
    ∀ b ∈ (s.port k).asked, b.seq = a.seq → b = a
  (Taken s k 1 f → f.len ≤ 16 → ∀ die, physKind pa = .hbm die → Clean s die pa n →
    Completes (.readRequest k f) s fun t => NextIn s t k ∧ t.dies = s.dies ∧
      Sent s t k dst 2 (answerTo f 0 ++ Sparse.getRange 0 (s.die die).mem pa n)) ∧
  (Taken s k 1 f → f.len = 26 → ∀ die op ty, physKind pa = .hbm die → Clean s die pa n → n = ty.bytes → ty.isAtomic = true →
    payloadAt f 16 1 = Comb.code op → payloadAt f 17 1 = ty.code → payloadAt f 18 8 < 2 ^ (8 * n) → Numbered s → die < 8 →
    let x := payloadAt f 18 8
    let old := ofBytes (Sparse.getRange 0 (s.die die).mem pa n)
    let combined := match op with
      | .xchg => x
      | .add => if ty = .f32 then combineOf .add .f32 old x else (old + x) % 2 ^ ty.width
      | _ => combineOf op ty old x
    s.homeReady die die [] pa n = true →
    Completes (.readRequest k f) s fun t => NextIn s t k ∧
      Sent s t k dst 2 (answerTo f 0 ++ Sparse.getRange 0 (s.die die).mem pa n) ∧
      Sparse.getRange 0 (t.die die).mem pa n = bytesOf n combined) ∧
  (Taken s k 1 f → 30 ≤ f.len → payloadAt f 16 1 = 255 → (∃ ty, payloadAt f 17 1 = Sys2Proof.Ty.code ty) →
    (s.port k).tile.length + 1 < payloadAt f 26 4 →
    Completes (.readRequest k f) s fun t => NextIn s t k ∧ t.dies = s.dies ∧ (t.port k).tile = (s.port k).tile ++ [f] ∧
      (t.port k).queue = (s.port k).queue) ∧
  (Taken s k 3 f → ∀ die, physKind pa = .hbm die → Numbered s → die < 8 →
    Completes (.write k f) s fun t => NextIn s t k ∧ Sent s t k dst 4 (answerTo f 0) ∧
      (let data := (f.payload.take f.len).drop 8
       Sparse.getRange 0 (t.die die).mem pa data.length = data)) ∧
  (Taken s k 2 f → first .read →
    Completes (.readData k f) s fun t => (t.port k).asked = (s.port k).asked.erase a ∧ NextIn s t k ∧
      ∀ i, i < min a.len (f.len - 8) → i + 8 < f.payload.length →
        Sparse.get 0 t.peerMem (a.pa + i) = f.payload.getD (8 + i) 0 ∧
        ∀ o, (s.group a.gid).op? a.id = some o → ∃ o', (t.group a.gid).op? a.id = some o' ∧
          Sparse.get none o'.got (a.pa + i) = some (f.payload.getD (8 + i) 0)) ∧
  (Taken s k 4 f → first .write ∨ first .coll ∨ first .signal →
    Completes (.acknowledgement k f) s fun t => (t.port k).asked = (s.port k).asked.erase a ∧ NextIn s t k ∧
      t.dies = s.dies ∧ t.peerMem = s.peerMem) ∧
  ((s.port 16).usable = true → k = 16 → f.len ≤ 240 → f.seq = (s.port 16).seqIn →
    (f.kind = 2 → first .read → Completes (.readData k f) s fun t => (t.port k).asked = (s.port k).asked.erase a ∧ NextIn s t k) ∧
    (f.kind = 4 → first .write →
      Completes (.acknowledgement k f) s fun t => (t.port k).asked = (s.port k).asked.erase a ∧ NextIn s t k) ∧
    (f.kind = 1 → exec (.readRequest k f) s = .next s)) ∧
  (Taken s k 5 f → payloadAt f 10 2 = 0 →
    let ctx := payloadAt f 0 2
    let g := payloadAt f 2 2
    let no := payloadAt f 4 4
    Completes (.collective k f) s fun t => NextIn s t k ∧ Sent s t k dst 4 (answerTo f 0) ∧
      (s.collOver ctx g no = false → ∃ c ∈ t.colls, c.ctx = ctx ∧ c.group = g ∧ c.no = no ∧ payloadAt f 8 2 ∈ c.joined) ∧
      (s.collOver ctx g no = true → t.colls = s.colls)) ∧
  (Taken s k 5 f → payloadAt f 10 2 = 4 → s.collOver (payloadAt f 0 2) (payloadAt f 2 2) (payloadAt f 4 4) = false →
    Completes (.collective k f) s fun t => NextIn s t k ∧ Sent s t k dst 4 (answerTo f 0) ∧
      ∃ c ∈ t.colls, c.ctx = payloadAt f 0 2 ∧ c.group = payloadAt f 2 2 ∧ c.no = payloadAt f 4 4 ∧
        payloadAt f 8 2 ∈ c.lost) ∧
  (Taken s k 0 f → Completes (.idleFlit k f) s fun t => t = { s with ports := t.ports } ∧ NextIn s t k ∧
    (∀ j, j ≠ k → t.port j = s.port j)) ∧
  ((s.port k).usable = true → k < 17 → Completes (.badCrcFlit k f) s fun t =>
    Sent s t k (s.port k).peer 7 (bytesOf 4 (s.port k).seqIn) ∧ (t.port k).seqIn = (s.port k).seqIn) ∧
  (Taken s k 7 f →
    let kept := (s.port k).sent.dropWhile fun x => decide (x.seq ≠ payloadAt f 0 4)
    let recent := ((s.port k).replayTimes.filter fun x => decide (s.clock < x + 1100)).length + 1
    (recent ≤ 16 → Completes (.replayRequest k f) s fun t => NextIn s t k ∧ (t.port k).state = (s.port k).state ∧
      (t.port k).sent = kept ∧ (t.port k).queue = (s.port k).queue ++ kept) ∧
    (16 < recent → Completes (.replayRequest k f) s fun t => (t.port k).state = .training ∧ LinkLost s t k ∧
      ∀ c, k ∉ Sparse.get [] t.routes c)) ∧
  ((s.port k).usable = true → k < 16 → f.len ≤ 240 → f.kind = 1 → f.len ≤ 16 →
    (f.src = (s.port k).peer → f.seq ≠ (s.port k).seqIn → exec (.readRequest k f) s = .next s) ∧
    (f.src ≠ (s.port k).peer → Completes (.readRequest k f) s fun t =>
      Fenced t k ∧ Master.port k ∈ t.frozen ∧ Notice.violation (.port k) ∈ t.notices))

/-- Host writes, violations and their end (R288, R396): the host writes host memory, and device memory as a write that die 0
originates; a violation freezes its master, faults the contexts in it that are resident or being switched out, and no others, and
tells the host driver; Indigo's release ends the freeze (contexts that have faulted,
log 47), and a port that is released is down. Host memory is part of the state (log 3). -/
def Sys2Proof.Claims.HostAndViolations : Prop := ∀ (s : State) (pa core k : Nat) (bytes : List Byte),
  (s.bringUp = .ready → physKind pa = .host → pa < 2 ^ 49 → Completes (.hostWrite pa bytes) s fun t =>
    t = { s with hostMem := t.hostMem } ∧ Sparse.getRange 0 t.hostMem pa bytes.length = bytes ∧
    ∀ a, ¬ (pa ≤ a ∧ a < pa + bytes.length) → Sparse.get 0 t.hostMem a = Sparse.get 0 s.hostMem a) ∧
  (s.bringUp = .ready → (∃ die, physKind pa = .hbm die) → pa < 2 ^ 49 → Numbered s →
    (s.hostUp = true → Completes (.hostWrite pa bytes) s fun t => t = { s with dies := t.dies, nextSeq := s.nextSeq + 1 } ∧
      Sparse.getRange 0 (t.die 0).mem pa bytes.length = bytes) ∧
    (s.hostUp = false → exec (.hostWrite pa bytes) s = .next s)) ∧
  (s.bringUp ≠ .ready → exec (.hostWrite pa bytes) s = .next s) ∧
  Completes (.violation (.core core)) s (fun t => Master.core core ∈ t.frozen ∧
    t.notices.length ≥ s.notices.length + 1 ∧ Notice.violation (.core core) ∈ t.notices ∧
    (∀ c ∈ s.usersOf (.core core), (s.context c).state = .resident ∨ (s.context c).state = .switching →
      (t.context c).state = .faulted) ∧
    ∀ c, (s.context c).state ≠ .resident → (s.context c).state ≠ .switching → t.context c = s.context c) ∧
  ((s.port k).usable = false → Completes (.violation (.port k)) s fun t => t.port k = s.port k ∧ t.routes = s.routes) ∧
  ((s.port k).usable = true → Completes (.violation (.port k)) s fun t => Fenced t k ∧ Master.port k ∈ t.frozen) ∧
  (s.bringUp = .ready →
    (Master.core core ∈ s.frozen → (∀ c ∈ s.usersOf (.core core), (s.context c).state ≠ .faulted) →
      Completes (.masterRelease (.core core)) s fun t => t = { s with frozen := t.frozen } ∧ Master.core core ∉ t.frozen) ∧
    (Master.core core ∉ s.frozen → exec (.masterRelease (.core core)) s = .next s) ∧
    (Master.port k ∈ s.frozen → (s.port k).asked = [] → Completes (.masterRelease (.port k)) s fun t =>
      t.port k = Port.down ∧ Master.port k ∉ t.frozen ∧ ∀ m, m ≠ .port k → (m ∈ t.frozen ↔ m ∈ s.frozen)))

/-! ## Display heads -/

namespace Sys2Proof.Claims

/-- Only the record of a head has changed. -/
def OnlyHead (s t : State) (head : Nat) : Prop := t = { s with heads := t.heads } ∧ ∀ k, k ≠ head → t.head k = s.head k

end Sys2Proof.Claims

open Sys2Proof.Claims

/-- Descriptors and frame boundaries of a head (R369, R371 to R373, R376, R380): a descriptor that Umber refuses changes nothing
and one that it accepts is staged; a boundary comes not before its time, takes a rebinding and a staged descriptor into
force, and latches a refresh; a descriptor whose CTX the partition does not hold is a violation (R396); disabling stops the head.
A frame that is newly presented becomes frame B. The boundary waits while a read of it is held (log 79). -/
def Sys2Proof.Claims.HeadFrames : Prop := ∀ (s : State) (head raw part d : Nat),
  let x := s.head head
  let die := head / 4
  let new := raw % 2 ^ 512
  let ctx := field d 0 16
  let good := headFieldsBad die new = false ∧ s.sinkTaken head (field new 156 4) = false ∧
    s.netOk die (field new 0 16) (field new 272 32) = true ∧ s.netOk die (field new 0 16) (field new 240 32) = true ∧
    s.servedBy x.part (field new 0 16) = true
  (s.bringUp = .ready → s.umberStands die = false → head < 32 →
    (good → Completes (.headDescriptor head raw) s fun t => OnlyHead s t head ∧ t.head head = { x with staged := some new }) ∧
    (¬ good → Completes (.headDescriptor head raw) s fun t => t = { s with notices := s.notices ++ [.headRefused head] })) ∧
  (s.bringUp = .ready → head < 32 → Completes (.headRebind head part) s fun t => OnlyHead s t head ∧
    t.head head = { x with rebind := some (if part < 32 then some part else none) }) ∧
  (s.bringUp ≠ .ready → exec (.headDescriptor head raw) s = .next s ∧ exec (.headRebind head part) s = .next s) ∧
  (s.clock < x.latchAt → exec (.frameLatch head) s = .next s) ∧
  (x.latchAt ≤ s.clock → x.staged = none → ∀ p, x.rebind = some p → x.running = false →
    (x.desc = none → Completes (.frameLatch head) s fun t => OnlyHead s t head ∧ t.head head = { x with part := p, rebind := none }) ∧
    (x.desc = some d → headEnable d = false → Completes (.frameLatch head) s fun t => OnlyHead s t head ∧
      t.head head = { x with part := p, rebind := none, dead := x.dead || !s.servedBy p ctx })) ∧
  (x.latchAt ≤ s.clock → x.rebind = none →
    (x.staged = none → x.desc = none → Completes (.frameLatch head) s fun t => t = s) ∧
    (x.staged = some d → s.servedBy x.part ctx = true → x.running = false → headEnable d = true →
      Completes (.frameLatch head) s fun t => t = { s with heads := t.heads, dies := t.dies } ∧
        (∀ k, k ≠ head → t.head k = s.head k) ∧ (field d 156 4 < 4 → t.dies = s.dies) ∧
        t.head head = { x with
          desc := some d, staged := none, dead := false, running := true, frameA := none, frameB := none, g := 0,
          synth := false, lines := [], latchAt := s.clock }) ∧
    (x.staged = some d → s.servedBy x.part ctx = false → x.desc = none → Completes (.frameLatch head) s fun t =>
      t.head head = { x with staged := none } ∧ Master.umber die ∈ t.frozen ∧ Notice.violation (.umber die) ∈ t.notices) ∧
    (x.staged = none → x.desc = some d → x.running = true → headEnable d = false →
      Completes (.frameLatch head) s fun t => OnlyHead s t head ∧ t.head head = { x with running := false }) ∧
    (x.staged = none → x.desc = some d → x.running = true → headEnable d = true →
      let word := field d 408 52
      let pose := field d 304 52
      (s.headReady head ctx x.carry word 8 = false → exec (.frameLatch head) s = .next s) ∧
      ∀ w σ, s.headReady head ctx x.carry word 8 = true → s.headGot head ctx x.carry word 8 = some (w, σ) →
        let f := field w 32 32
        let ahead := (f + 2 ^ 32 - x.g) % 2 ^ 32
        let fresh := (x.frameB = none ∧ f ≠ 0) ∨ (x.frameB ≠ none ∧ 1 ≤ ahead ∧ ahead < 2 ^ 31)
        let carry := Stamp.max x.carry σ
        let slot := field d 460 52 + 64 * field w 0 2
        let posed := fun (r : Refresh) => ∀ v, s.headRead head ctx carry pose 32 = some v →
          let p := (List.range 6).map fun k => field v (32 + 32 * k) 32
          (field v 0 32 = field v 224 32 → (∀ a ∈ p, a / 2 ^ 23 % 256 ≠ 255) → r.pose = p.map (BitVec.ofNat 32) ∧ r.poseOld = false) ∧
          (field v 0 32 ≠ field v 224 32 ∨ (∃ a ∈ p, a / 2 ^ 23 % 256 = 255) → r.pose = x.pose ∧ r.poseOld = true)
        s.headReady head ctx carry pose 32 = true → (fresh → s.headReady head ctx carry slot 64 = true) →
        Completes (.frameLatch head) s fun t => ∃ r, (t.head head).frames = x.frames ++ [r] ∧ r.desc = d ∧
          r.start = s.clock + (64 * field d 224 16 + 16 * field d 208 16) ∧ r.cands = [] ∧ r.codes = [] ∧ posed r ∧
          (fresh → r.newB = true ∧ r.srcNo = f ∧ r.frameA = x.frameB ∧ r.synth = (headSynth d && x.frameB.isSome && !x.synth) ∧
            ∀ rec, s.headRead head ctx carry slot 64 = some rec → r.frameB = some rec) ∧
          (¬ fresh → r.newB = false ∧ r.srcNo = x.g ∧ r.frameA = x.frameA ∧ r.frameB = x.frameB ∧ r.synth = false) ∧
          (t.head head).frameA = r.frameA ∧ (t.head head).frameB = r.frameB ∧ (t.head head).g = r.srcNo ∧
          (t.head head).synth = r.synth ∧ (t.head head).pose = r.pose ∧ (t.head head).carry = carry ∧
          (t.head head).latchAt = s.clock + field d 195 13 * field d 208 16 ∧ (t.head head).desc = some d ∧
          (∀ k, k ≠ head → t.head k = s.head k)))

/-- Bands (R374, R380): a candidate is complete once, not after the deadline, and when what it reads is good; at its deadline,
and not before, a band takes the lowest code among its complete candidates, or 3 and its last lines, and always 3 on a head whose
context is lost. What a candidate reads is the model's (log 45), and so is part of what it shows (log 79). -/
def Sys2Proof.Claims.HeadBands : Prop := ∀ (s : State) (head b code k : Nat) (r : Refresh),
  let x := s.head head
  let deadline := r.start + 16 * b * field r.desc 208 16 - 64 * field r.desc 224 16
  let done : Cand := ⟨b, code, s.bandPixels head x.carry b code r⟩
  let last := if Sparse.get [] x.lines b = [] then blackBand r.desc else Sparse.get [] x.lines b
  let completes := Completes (.candidateComplete head b code) s fun t =>
    (t.head head).frames = x.frames.set k { r with cands := r.cands ++ [done] } ∧ (∀ j, j ≠ head → t.head j = s.head j) ∧
    (code = 0 → ∀ p ∈ (t.die (head / 4)).grants, p.user ≠ .band head b)
  x.openFrame b = some (k, r) →
  (s.candOk head b code r = true → completes) ∧
  (s.candOk head b code r = false → exec (.candidateComplete head b code) s = .next s) ∧
  (r.madeBy code = some false → x.dead = false → (∀ c ∈ r.cands, ¬ (c.band = b ∧ c.code = code)) → s.clock ≤ deadline →
    s.sourceGood head x.carry b code r = true → completes) ∧
  (deadline < s.clock ∨ x.dead = true ∨ (∃ c ∈ r.cands, c.band = b ∧ c.code = code) ∨ 2 < code ∨
      s.sourceGood head x.carry b code r = false → exec (.candidateComplete head b code) s = .next s) ∧
  (s.clock < deadline → exec (.bandDeadline head b) s = .next s) ∧
  (deadline ≤ s.clock →
    (∀ c px, x.dead = false → c < 3 → (∃ p ∈ r.cands, p.band = b ∧ p.code = c) →
      (∀ p ∈ r.cands, p.band = b → c ≤ p.code ∧ (p.code = c → p.pixels = px)) →
      Completes (.bandDeadline head b) s fun t =>
        (t.head head).frames = x.frames.set k { r with codes := r.codes ++ [(b, c)] } ∧
        (∀ p ∈ (t.die (head / 4)).grants, p.user ≠ .band head b) ∧
        ∀ j, Sparse.get [] (t.head head).lines j = if j = b then px else Sparse.get [] x.lines j) ∧
    (x.dead = true ∨ (∀ p ∈ r.cands, p.band ≠ b) →
      (∀ p ∈ r.cands, ¬ (p.band = b ∧ p.code = 3)) →
      Completes (.bandDeadline head b) s fun t =>
        (t.head head).frames = x.frames.set k { r with codes := r.codes ++ [(b, 3)] } ∧
        (∀ p ∈ (t.die (head / 4)).grants, p.user ≠ .band head b) ∧
        ∀ j, Sparse.get [] (t.head head).lines j = if j = b then last else Sparse.get [] x.lines j))

/-- The ends of frames and encoder rows (R375, R379): a frame ends after its last line, not before, and its status record is
written as a release; a tile row whose bands are all coded is written on in the bitstream ring of its refresh. The bytes of a tile
row are free (log 35). -/
def Sys2Proof.Claims.HeadOutputs : Prop := ∀ (s : State) (head row : Nat) (r : Refresh) (rest : List Refresh) (y : TileRow),
  let x := s.head head
  let ended := r.start + field r.desc 182 13 * field r.desc 208 16
  (x.frames = r :: rest →
    (s.clock < ended → exec (.frameEnd head) s = .next s) ∧
    (ended ≤ s.clock → headBands r.desc ≤ r.codes.length → s.released head = true →
      Completes (.frameEnd head) s fun t =>
        let u := s.setHead head { x with frames := rest, count := (x.count + 1) % 2 ^ 32 }
        t = u.releaseFrom head (field r.desc 0 16) (field r.desc 356 52 + 128 * (x.count % 8)) (bytesOf 128 (r.status x.count)) ∧
        (t.head head).frames = rest ∧ (t.head head).count = (x.count + 1) % 2 ^ 32) ∧
    (s.released head = false → exec (.frameEnd head) s = .next s)) ∧
  (let w := r.status x.count
   (r.codes.map Prod.fst).Nodup → (∀ c ∈ r.codes, c.1 < 448 ∧ c.2 < 4) →
   field w 0 32 = x.count % 2 ^ 32 ∧ w.testBit 32 = r.newB ∧ w.testBit 33 = r.synth ∧ w.testBit 34 = r.poseOld ∧
   field w 96 32 = r.srcNo % 2 ^ 32 ∧ ∀ c ∈ r.codes, field w (128 + 2 * c.1) 2 = c.2) ∧
  (x.frames = [] → exec (.frameEnd head) s = .next s) ∧
  (y ∈ x.rows → y.row = row → (∀ z ∈ x.rows, z.row = row → z = y) → s.released head = true →
    Completes (.encoderTileRow head row) s fun t =>
      let bs := Config.tileRow s.fresh (4096 * head + row)
        (Sparse.get 0 (s.die (head / 4)).rates (field y.desc 156 4 - 4) :: y.pixels)
      t = (s.setHead head { x with rows := x.rows.erase y, written := x.written + bs.length }).releaseFrom head
        (field y.desc 0 16) (headBsRing y.desc + x.written) bs ∧
      (t.head head).rows = x.rows.erase y ∧ (t.head head).written = x.written + bs.length) ∧
  ((∀ z ∈ x.rows, z.row ≠ row) ∨ s.released head = false → exec (.encoderTileRow head row) s = .next s)

/-! ## Custody -/

namespace Sys2Proof.Claims

/-- Bytes i to i + n - 1 of a report. -/
def part_ (rep : List Byte) (i n : Nat) : List Byte := (rep.drop i).take n

end Sys2Proof.Claims

open Sys2Proof.Claims

/-- Bring-up, commitment and attestation (R391 to R395, R399): after a package reset the monitor runs a verified image on a
machine as reset leaves it, or the device awaits an image with its memories as they were; commitment raises the floor to
the running image's version; a report is 352 bytes, the last 96 of them an ECDSA signature over the SHA-384 of the first 256, and
comes with the certificate chain. The device is ready once every Kazvel port has been trained. That recovery keeps the memories is the model's reading (log 54), and so are the form of an
image's signature and the nonces (log 8). -/
def Sys2Proof.Claims.Custody : Prop := ∀ (s : State) (img : FwImage) (chip part : Nat) (nonce : List Byte),
  let started := fun (t : State) (f : Firmware) => t.bringUp = .monitor ∧ t.hostMem = s.hostMem ∧
    t.fw = { f with running := f.flash, key := deviceKey f.secret, mind := sha384 f.flash.monitor, mumb := sha384 f.flash.umber } ∧
    t.peerMem = s.peerMem ∧ t.groups = [] ∧ t.gangs = [] ∧ t.contexts = [] ∧ t.parts = [] ∧ t.heads = [] ∧ t.dies = [] ∧
    t.clock = 0 ∧ t.frozen = [] ∧ t.ports = State.reset.ports
  (img.svn < s.fw.floor ∨ 63 < img.svn → s.fw.accepts img = false) ∧
  (1 ≤ deviceKey s.fw.secret ∧ deviceKey s.fw.secret < n384) ∧
  (Sparse.wf Die.reset s.dies = true → Completes .packageReset s fun t =>
    if s.fw.accepts s.fw.flash then started t s.fw
    else t.bringUp = .recovery ∧ t.fw = { s.fw with key := deviceKey s.fw.secret } ∧ t.groups = [] ∧ t.contexts = [] ∧
      ∀ d, (t.die d).mem = (s.die d).mem ∧ (t.die d).ws = (s.die d).ws) ∧
  (s.bringUp = .recovery → Completes (.recoveryImageLoad img) s fun t =>
    if s.fw.accepts img then started t { s.fw with flash := img } else t = s) ∧
  (s.bringUp ≠ .recovery → exec (.recoveryImageLoad img) s = .next s) ∧
  (s.bringUp = .monitor → (∀ k, k < 16 → (s.port k).trained = true ∧ (s.port k).state ≠ .training) →
    Completes (.deviceReady chip) s fun t => t = { s with bringUp := .ready, chip := chip % 128 }) ∧
  (s.bringUp ≠ .monitor ∨ (∃ k, k < 16 ∧ (s.port k).trained = false) → exec (.deviceReady chip) s = .next s) ∧
  (s.bringUp = .ready → Completes .commitImage s fun t =>
    t = { s with fw := { s.fw with floor := max s.fw.floor s.fw.running.svn } }) ∧
  (s.bringUp ≠ .ready → exec .commitImage s = .next s ∧ exec (.attestationRequest part nonce) s = .next s) ∧
  (s.bringUp = .ready → part < 32 → Completes (.attestationRequest part nonce) s fun t => t = { s with fw := t.fw } ∧
    ∃ rep, t.fw = { s.fw with reports := s.fw.reports ++ [(rep, s.fw.chain)] } ∧ rep.length = 352 ∧
      (nonce.length = 48 → part_ rep 0 48 = nonce) ∧
      (s.fw.mind.length = 48 → part_ rep 48 48 = s.fw.mind) ∧ (s.fw.mumb.length = 48 → part_ rep 96 48 = s.fw.mumb) ∧
      part_ rep 144 48 = sha384 (s.measure part) ∧ part_ rep 192 4 = bytesOf 4 (s.part part).qmask.toNat ∧
      part_ rep 196 1 = bytesOf 1 part ∧ part_ rep 197 1 = bytesOf 1 s.chip ∧ part_ rep 198 2 = bytesOf 2 s.fw.running.svn ∧
      part_ rep 200 1 = bytesOf 1 s.fw.floor ∧ part_ rep 201 55 = List.replicate 55 0 ∧
      ((∃ i, i < 4 ∧
          let p := ecdsaSign s.fw.key (Config.signNonce s.fresh i % (n384 - 1) + 1) (sha384 (rep.take 256))
          p.1 ≠ 0 ∧ p.2 ≠ 0) →
        ∃ k, 1 ≤ k ∧ k < n384 ∧
          ecdsaSign s.fw.key k (sha384 (rep.take 256)) = (ofBig (part_ rep 256 48), ofBig (part_ rep 304 48))))

/-- Sensors (R398): the two readings of a die, the limits of its units by its hottest array sensor, and the stop of every arithmetic clock, at
which the host driver is told and all contexts are reset, until the clock is started again. That THERMAL_STOP itself
resets the contexts is the model's reading (log 53). -/
def Sys2Proof.Claims.Sensors : Prop := ∀ (s : State) (die : Nat) (x : Sys2Proof.Sensors),
  let d := s.die die
  let temp := x.array
  (die < 8 → 95 < temp → temp < 115 → Completes (.thermalThrottle die x) s fun t => t = { s with dies := t.dies } ∧
    (∀ k, k ≠ die → t.die k = s.die k) ∧
    t.die die = { d with arrayTemp := temp, inletTemp := x.inlet, units := if 105 < temp then min d.units 2 else min d.units 4 }) ∧
  (temp ≤ 95 ∨ 115 ≤ temp → exec (.thermalThrottle die x) s = .next s) ∧
  (die < 8 → temp ≤ 95 → Completes (.thermalRestore die x) s fun t => t = { s with dies := t.dies } ∧
    (∀ k, k ≠ die → t.die k = s.die k) ∧ t.die die = { d with arrayTemp := temp, inletTemp := x.inlet, units := if temp < 90 then 8 else d.units }) ∧
  (95 < temp → exec (.thermalRestore die x) s = .next s) ∧
  (die < 8 → 115 ≤ temp → Completes (.thermalStop die x) s fun t => t.clockStopped = true ∧
    Notice.thermalStop ∈ t.notices ∧ ∀ c, (s.context c).state ≠ .absent → (t.context c).state = .idle) ∧
  (temp < 115 → exec (.thermalStop die x) s = .next s) ∧
  (s.bringUp = .ready → Completes .arithmeticClockRestart s fun t => t = { s with clockStopped := false }) ∧
  (s.bringUp ≠ .ready → exec .arithmeticClockRestart s = .next s)

/-! ## Statements of several parts -/

/-- The scalar instructions of majors 0x18 and 0x19 (R164 to R166): each writes its result into SD and goes on. -/
def Obligations.ScalarResults : Prop := Claims.ScalarSumsAndProducts ∧ Claims.ScalarDivision ∧ Claims.ScalarLogicAndShifts ∧ Claims.ScalarChoices ∧ Claims.ScalarFieldsAndCounts

/-- Mask logic, masks read into scalars and votes (R157), and NOP, HINT, PREF and YIELD (R151, R159). -/
def Obligations.MasksAndNops : Prop := Claims.MaskLogic ∧ Claims.MasksIntoScalars ∧ Claims.NopsAndYield

/-- The branches: those that move the whole split (R138, R142 to R144), and BRV, which divides it (R139). -/
def Obligations.BranchForms : Prop := Claims.UniformBranches ∧ Claims.DivergentBranch

/-- TRAP and the words that are no instruction (R51, R148), where control instructions trap or fault twice (R112, R123, R135, R149), and the illegal-instruction trap of vector registers at or above the budget (R52). -/
def Obligations.TrapsRaised : Prop := Claims.TrapsTaken ∧ Claims.ControlTraps ∧ Claims.BudgetTraps

/-- The waits: SLEEP (R152), WAITC (R214) and WAITB (R216), which go on, wait, or in drain mode rewind the group (R335). -/
def Obligations.Waits : Prop := Claims.Sleeps ∧ Claims.WaitCounter ∧ Claims.WaitBarrier

/-- SRD and SWR (R50, R94, R154, R155): what each system register reads and takes, whole and by lane (R16, R93, R156, R201, R247, R332), and detail 7 of every other access. Which registers SWR takes is a reading (log 20). -/
def Obligations.SystemRegisters : Prop := Claims.SystemReads ∧ Claims.SystemWrites

/-- The integer vector instructions of major 0x28 (R167 to R169). -/
def Obligations.VectorIntegers : Prop := Claims.VectorIntegerArithmetic ∧ Claims.VectorLogicAndShifts ∧ Claims.VectorBits

/-- Sums, products, minima, maxima, signs and classes of floating-point lanes (R85, R90, R171 to R174). When EDGE is set is a reading (log 60). -/
def Obligations.FloatArithmetic : Prop := Claims.FloatSumsAndProducts ∧ Claims.FloatChoices

/-- The functions of floating-point lanes, and rounding to an integral value (R85, R171, R172). How VEXP2, VLOG2, VSIN and VCOS round is the model's computation (log 6). -/
def Obligations.FloatFunctions : Prop := Claims.FloatFunctionForms ∧ Claims.FloatToIntegral

/-- Conversions, packed pairs and random words (R66, R88, R179 to R183). The flags of conversions and of VPACK are a reading (log 60). -/
def Obligations.ConversionsAndRandom : Prop := Claims.Conversions ∧ Claims.RandomAndPacked

/-- The instructions that carry elements from lane to lane (R184, R185). That TLOST of a dropped tangent is set for integer types too is the model's reading (log 60). -/
def Obligations.CrossLanes : Prop := Claims.LanePermutes ∧ Claims.LaneReductions

/-- Loads and stores of lanes, transposed, of scalars, and loads from the weight store (R97, R195 to R197, R200). What an access meets that is poisoned, and what it marks, is a reading (log 59). -/
def Obligations.LoadsAndStores : Prop := Claims.PlainLoadsAndStores ∧ Claims.TransposedAccess ∧ Claims.ScalarAndWeightAccess

/-- The barrier instructions (R215) and the fences (R219, R280). What counts as performed for a fence is the model's reading (log 22). -/
def Obligations.BarriersAndFences : Prop := Claims.BarrierOperations ∧ Claims.Fences

/-- The matrix instructions at issue, and where they trap (R224, R228 to R230, R233, R237, R243, R245, R248). Where a ring keeps its slots is the model's (log 27), and so are the edges of the operations (log 68). -/
def Obligations.MatrixIssue : Prop := Claims.MatrixCommands ∧ Claims.MatrixTraps

/-- The factor operations carried out, and what a failed one reports (R255 to R270). Rounding in tiles, and bad words of a source, are readings (log 68, log 59). -/
def Obligations.FactorsRun : Prop := Claims.FactorSweeps ∧ Claims.FactorFailuresReported

/-- Timers of groups (R129, R130, R152, R199) and grants of power (R397). That timers run out as cycles elapse, and when a hold counts, are the model's (log 63, log 67, log 69); that a refresh window (R200, R201) changes nothing but the timing is a reading (log 76). -/
def Obligations.TimersAndPower : Prop := Claims.GroupTimers ∧ Claims.PowerGrants

/-- Landings at barriers (R204, R217) and writes that reach a die (R276, R281). When the bytes of an operation land is the model's (log 18), and that coherence order is the order of origination is a reading (log 13). -/
def Obligations.LandingsAndWrites : Prop := Claims.Landings ∧ Claims.WritesApplied

/-- The engines carry out what lanes, copies and rays have asked for (R203, R207 to R211, R383, R387). Which of several results comes first, the order of elements of a copy, and the stage at which a ray is refused are the model's (log 24, log 62, log 61). -/
def Obligations.EnginesRun : Prop := Claims.EnginesMoveLanes ∧ Claims.CopiesMove ∧ Claims.RaysRun

/-- Launches of grids and starts of gangs (R28, R107, R308, R318 to R322). Where a gang goes is free (log 11), co-resident gangs are placed together (log 39), and refused descriptors give their errors in a chosen order (log 33). -/
def Obligations.LaunchesAndGangs : Prop := Claims.Launches ∧ Claims.GangsStart

/-- Groups that retire (R133, R309), and what ends a grid that cannot go on (R323, R324, R337). The cycle that counts as the launch of a window is a reading (log 39). -/
def Obligations.RetireAndStalls : Prop := Claims.GroupsRetire ∧ Claims.GridStalls

/-- Tables of contexts (R346, R349, R364) and the requests that the host driver and Umber answer (R326 to R328, R352). Some of what makes a table good is the model's (log 33), and so is when a request ends (log 46) and what a translation is (log 57). -/
def Obligations.TablesAndRequests : Prop := Claims.ContextTables ∧ Claims.RequestsAnswered

/-- Ports (R361, R362) and the flits that arrive (R359, R360, R365). The layouts of payloads, the width of a degraded Pradan and the drop of flits out of sequence are the model's (log 26, log 48, log 52). -/
def Obligations.Links : Prop := Claims.PortsLive ∧ Claims.FlitsArrive

/-- Heads: descriptors and frames, bands, and encoder bytes (R369, R371 to R376, R379, R380). What the model settles there is in logs 35, 43, 44, 45 and 79. -/
def Obligations.Heads : Prop := Claims.HeadFrames ∧ Claims.HeadBands ∧ Claims.HeadOutputs

/-- Custody and bring-up (R391 to R394, R399), temperatures (R398), host writes (R288) and violations (R396). What the model settles there is in logs 3, 8, 47, 53 and 54. -/
def Obligations.CustodyAndSensors : Prop := Claims.Custody ∧ Claims.Sensors ∧ Claims.HostAndViolations
end

