-- ==== Sys2Proof/Laws/Sparse.lean ====
section
/-!
SUPPORT. Laws of sparse maps: what a read sees after each operation, and that each keeps the canonical form.
-/

namespace Sys2Proof.Machine

variable {α : Type} [DecidableEq α] {d : α}

/-! ## Reads after writes -/

omit [DecidableEq α] in
@[simp] theorem Sparse.get_nil (k : Nat) : Sparse.get d [] k = d := rfl

/-- Nothing is listed at or below a bound of a canonical map. -/
theorem Sparse.get_above {m : Sparse α} {lo k : Nat} (hw : Sparse.wf d m = true) (h : Sparse.above lo m = true)
    (hk : k ≤ lo) : Sparse.get d m k = d := by
  induction m generalizing lo with
  | nil => rfl
  | cons p n ih =>
    obtain ⟨j, v⟩ := p
    simp only [Sparse.wf, Sparse.above, Bool.and_eq_true, decide_eq_true_eq] at hw h
    have hj : j ≠ k := by omega
    simp only [Sparse.get, hj, if_false]
    exact ih hw.2 hw.1.2 (by omega)

omit [DecidableEq α] in
theorem Sparse.get_put (m : Sparse α) (k j : Nat) (v : α) :
    Sparse.get d (Sparse.put m k v) j = if j = k then v else Sparse.get d m j := by
  induction m with
  | nil => simp [Sparse.put, Sparse.get, eq_comm]
  | cons p n ih =>
    obtain ⟨i, w⟩ := p
    by_cases hjk : j = k
    · subst hjk
      simp only [if_true] at ih ⊢
      simp only [Sparse.put]
      split
      · simp [Sparse.get]
      · split
        · simp [Sparse.get]
        · have : i ≠ j := fun e => absurd e.symm ‹_›
          simp [Sparse.get, this, ih]
    · simp only [hjk, if_false] at ih ⊢
      have hkj : k ≠ j := fun e => hjk e.symm
      simp only [Sparse.put]
      split
      · simp [Sparse.get, hkj]
      · split
        · rename_i hk
          subst hk
          simp [Sparse.get, hkj]
        · simp [Sparse.get, ih]

omit [DecidableEq α] in
theorem Sparse.get_drop (m : Sparse α) (k j : Nat) :
    Sparse.get d (Sparse.drop m k) j = if j = k then d else Sparse.get d m j := by
  induction m with
  | nil => simp [Sparse.drop, Sparse.get]
  | cons p n ih =>
    obtain ⟨i, w⟩ := p
    simp only [Sparse.drop] at ih ⊢
    by_cases hi : i = k
    · subst hi
      by_cases hj : i = j
      · subst hj
        simpa [List.filter_cons] using ih
      · have hj' : j ≠ i := fun e => hj e.symm
        simpa [List.filter_cons, Sparse.get, hj, hj'] using ih
    · by_cases hj : i = j
      · subst hj
        simp [Sparse.get, hi]
      · simpa [List.filter_cons, Sparse.get, hi, hj] using ih

/-- A read after a write, of any map. -/
theorem Sparse.get_set (m : Sparse α) (k j : Nat) (v : α) :
    Sparse.get d (Sparse.set d m k v) j = if j = k then v else Sparse.get d m j := by
  unfold Sparse.set
  split
  · rename_i hv
    rw [Sparse.get_drop, hv]
  · exact Sparse.get_put m k j v

@[simp] theorem Sparse.get_set_self (m : Sparse α) (k : Nat) (v : α) :
    Sparse.get d (Sparse.set d m k v) k = v := by simp [Sparse.get_set]

theorem Sparse.get_set_ne (m : Sparse α) {k j : Nat} (h : j ≠ k) (v : α) :
    Sparse.get d (Sparse.set d m k v) j = Sparse.get d m j := by simp [Sparse.get_set, h]

/-! ## The canonical form -/

@[simp] theorem Sparse.wf_nil : Sparse.wf d ([] : Sparse α) = true := rfl

omit [DecidableEq α] in
theorem Sparse.above_mono {m : Sparse α} {lo hi : Nat} (h : Sparse.above hi m = true) (hl : lo ≤ hi) :
    Sparse.above lo m = true := by
  cases m with
  | nil => rfl
  | cons p n =>
    simp only [Sparse.above, decide_eq_true_eq] at h ⊢
    omega

theorem Sparse.above_filter {m : Sparse α} {lo : Nat} (p : Nat × α → Bool) (h : Sparse.above lo m = true)
    (hw : Sparse.wf d m = true) : Sparse.above lo (m.filter p) = true := by
  induction m generalizing lo with
  | nil => rfl
  | cons x n ih =>
    obtain ⟨j, v⟩ := x
    simp only [Sparse.wf, Bool.and_eq_true] at hw
    simp only [Sparse.above, decide_eq_true_eq] at h
    simp only [List.filter_cons]
    split
    · simp [Sparse.above, h]
    · exact ih (Sparse.above_mono hw.1.2 (by omega)) hw.2

/-- Taking entries away keeps the canonical form. -/
theorem Sparse.wf_filter {m : Sparse α} (p : Nat × α → Bool) (hw : Sparse.wf d m = true) :
    Sparse.wf d (m.filter p) = true := by
  induction m with
  | nil => rfl
  | cons x n ih =>
    obtain ⟨j, v⟩ := x
    simp only [Sparse.wf, Bool.and_eq_true] at hw
    simp only [List.filter_cons]
    split
    · simp only [Sparse.wf, Bool.and_eq_true]
      exact ⟨⟨hw.1.1, Sparse.above_filter p hw.1.2 hw.2⟩, ih hw.2⟩
    · exact ih hw.2

omit [DecidableEq α] in
theorem Sparse.above_put {m : Sparse α} {lo k : Nat} (v : α) (h : Sparse.above lo m = true) (hk : lo < k) :
    Sparse.above lo (Sparse.put m k v) = true := by
  cases m with
  | nil => simp [Sparse.put, Sparse.above, hk]
  | cons p n =>
    simp only [Sparse.above, decide_eq_true_eq] at h
    simp only [Sparse.put]
    split
    · simp [Sparse.above, hk]
    · split
      · simp [Sparse.above, hk]
      · simp [Sparse.above, h]

theorem Sparse.wf_put {m : Sparse α} (hw : Sparse.wf d m = true) (k : Nat) {v : α} (hv : v ≠ d) :
    Sparse.wf d (Sparse.put m k v) = true := by
  induction m with
  | nil => simp [Sparse.put, Sparse.wf, Sparse.above, hv]
  | cons p n ih =>
    obtain ⟨j, w⟩ := p
    have hw' := hw
    simp only [Sparse.wf, Bool.and_eq_true, decide_eq_true_eq] at hw
    simp only [Sparse.put]
    split
    · simp only [Sparse.wf, Bool.and_eq_true, decide_eq_true_eq, Sparse.above]
      exact ⟨⟨hv, ‹_›⟩, hw⟩
    · split
      · simp only [Sparse.wf, Bool.and_eq_true, decide_eq_true_eq]
        exact ⟨⟨hv, Sparse.above_mono hw.1.2 (by omega)⟩, hw.2⟩
      · simp only [Sparse.wf, Bool.and_eq_true, decide_eq_true_eq]
        exact ⟨⟨hw.1.1, Sparse.above_put v hw.1.2 (by omega)⟩, ih hw.2⟩

/-- A write keeps the canonical form. -/
theorem Sparse.wf_set {m : Sparse α} (hw : Sparse.wf d m = true) (k : Nat) (v : α) :
    Sparse.wf d (Sparse.set d m k v) = true := by
  unfold Sparse.set
  split
  · exact Sparse.wf_filter _ hw
  · exact Sparse.wf_put hw k ‹_›

theorem Sparse.wf_modify {m : Sparse α} (hw : Sparse.wf d m = true) (k : Nat) (f : α → α) :
    Sparse.wf d (Sparse.modify d m k f) = true := Sparse.wf_set hw k _

/-- A write of a run keeps the canonical form. -/
theorem Sparse.wf_setRange {m : Sparse α} (hw : Sparse.wf d m = true) (k : Nat) (vs : List α) :
    Sparse.wf d (Sparse.setRange d m k vs) = true := by
  induction vs generalizing m k with
  | nil => exact hw
  | cons v vs ih => exact ih (Sparse.wf_set hw k v) (k + 1)

theorem Sparse.wf_clearRange {m : Sparse α} (hw : Sparse.wf d m = true) (lo hi : Nat) :
    Sparse.wf d (Sparse.clearRange m lo hi) = true := Sparse.wf_filter _ hw

theorem Sparse.above_mapVals {m : Sparse α} {lo : Nat} (f : Nat → α → α) (h : Sparse.above lo m = true)
    (hw : Sparse.wf d m = true) : Sparse.above lo (Sparse.mapVals d f m) = true := by
  induction m generalizing lo with
  | nil => rfl
  | cons x n ih =>
    obtain ⟨j, v⟩ := x
    simp only [Sparse.wf, Bool.and_eq_true] at hw
    simp only [Sparse.above, decide_eq_true_eq] at h
    simp only [Sparse.mapVals]
    split
    · exact ih (Sparse.above_mono hw.1.2 (by omega)) hw.2
    · simp [Sparse.above, h]

/-- Changing the listed values keeps the canonical form. -/
theorem Sparse.wf_mapVals {m : Sparse α} (f : Nat → α → α) (hw : Sparse.wf d m = true) :
    Sparse.wf d (Sparse.mapVals d f m) = true := by
  induction m with
  | nil => rfl
  | cons x n ih =>
    obtain ⟨j, v⟩ := x
    simp only [Sparse.wf, Bool.and_eq_true] at hw
    simp only [Sparse.mapVals]
    split
    · exact ih hw.2
    · simp only [Sparse.wf, Bool.and_eq_true, decide_eq_true_eq]
      exact ⟨⟨‹_›, Sparse.above_mapVals f hw.1.2 hw.2⟩, ih hw.2⟩

/-! ## Runs -/

/-- A read outside a run that was written. -/
theorem Sparse.get_setRange_out (m : Sparse α) {k j : Nat} {vs : List α} (h : j < k ∨ k + vs.length ≤ j) :
    Sparse.get d (Sparse.setRange d m k vs) j = Sparse.get d m j := by
  induction vs generalizing m k with
  | nil => rfl
  | cons v vs ih =>
    simp only [List.length_cons] at h
    simp only [Sparse.setRange]
    rw [ih (Sparse.set d m k v) (by omega), Sparse.get_set_ne m (by omega)]

/-- A read inside a run that was written. -/
theorem Sparse.get_setRange_in (m : Sparse α) {k i : Nat} {vs : List α} (h : i < vs.length) : Sparse.get d (Sparse.setRange d m k vs) (k + i) = vs[i] := by
  induction vs generalizing m k i with
  | nil => simp at h
  | cons v vs ih =>
    simp only [Sparse.setRange]
    cases i with
    | zero =>
      rw [Sparse.get_setRange_out _ (by omega), Nat.add_zero, Sparse.get_set_self]
      rfl
    | succ i =>
      have e : k + (i + 1) = (k + 1) + i := by omega
      rw [e, ih (Sparse.set d m k v) (by simpa using h)]
      rfl

/-- A read after the listed values were changed. -/
theorem Sparse.get_mapVals {m : Sparse α} (f : Nat → α → α) (hw : Sparse.wf d m = true) (k : Nat) :
    Sparse.get d (Sparse.mapVals d f m) k =
      if Sparse.get d m k = d then d else f k (Sparse.get d m k) := by
  induction m with
  | nil => simp [Sparse.mapVals]
  | cons x n ih =>
    obtain ⟨j, v⟩ := x
    simp only [Sparse.wf, Bool.and_eq_true, decide_eq_true_eq] at hw
    simp only [Sparse.mapVals]
    by_cases hk : j = k
    · subst hk
      split
      · rename_i hf
        rw [Sparse.get_above (Sparse.wf_mapVals f hw.2) (Sparse.above_mapVals f hw.1.2 hw.2) (Nat.le_refl j)]
        simp [Sparse.get, hw.1.1, hf]
      · simp [Sparse.get, hw.1.1]
    · split
      · simpa [Sparse.get, hk] using ih hw.2
      · simpa [Sparse.get, hk] using ih hw.2

/-- Canonical maps that read alike are equal. -/
theorem Sparse.ext {m n : Sparse α} (hm : Sparse.wf d m = true) (hn : Sparse.wf d n = true)
    (h : ∀ k, Sparse.get d m k = Sparse.get d n k) : m = n := by
  induction m generalizing n with
  | nil =>
    cases n with
    | nil => rfl
    | cons p n =>
      obtain ⟨j, v⟩ := p
      simp only [Sparse.wf, Bool.and_eq_true, decide_eq_true_eq] at hn
      exact absurd (by simpa [Sparse.get] using h j) (Ne.symm hn.1.1)
  | cons p m ih =>
    obtain ⟨i, u⟩ := p
    have hm' := hm
    simp only [Sparse.wf, Bool.and_eq_true, decide_eq_true_eq] at hm
    cases n with
    | nil => exact absurd (by simpa [Sparse.get] using h i) hm.1.1
    | cons q n =>
      obtain ⟨j, v⟩ := q
      have hn' := hn
      simp only [Sparse.wf, Bool.and_eq_true, decide_eq_true_eq] at hn
      have hij : i = j := by
        rcases Nat.lt_trichotomy i j with hlt | heq | hgt
        · have := h i
          rw [Sparse.get_above (lo := i) hn' (by simp [Sparse.above, hlt]) (Nat.le_refl i)] at this
          exact absurd (by simpa [Sparse.get] using this) hm.1.1
        · exact heq
        · have := h j
          rw [Sparse.get_above (lo := j) hm' (by simp [Sparse.above, hgt]) (Nat.le_refl j)] at this
          exact absurd (by simpa [Sparse.get] using this.symm) hn.1.1
      subst hij
      have huv : u = v := by simpa [Sparse.get] using h i
      subst huv
      have hmn : m = n := ih hm.2 hn.2 fun k => by
        by_cases hk : i = k
        · subst hk
          rw [Sparse.get_above hm.2 hm.1.2 (Nat.le_refl i), Sparse.get_above hn.2 hn.1.2 (Nat.le_refl i)]
        · simpa [Sparse.get, hk] using h k
      rw [hmn]

end Sys2Proof.Machine
end

