-- ==== Sys2Proof/Laws/State.lean ====
section
/-!
SUPPORT. What each update of the state leaves alone, field by field, and what a read after it sees.
-/

namespace Sys2Proof.Machine

/-! ## The objects of the state -/

section SetGroup
variable (s : State) (k : Nat) (x : Group)

@[simp] theorem State.setGroup_agenda : (s.setGroup k x).agenda = s.agenda := rfl
@[simp] theorem State.setGroup_cur : (s.setGroup k x).cur = s.cur := rfl
@[simp] theorem State.setGroup_was : (s.setGroup k x).was = s.was := rfl
@[simp] theorem State.setGroup_fresh : (s.setGroup k x).fresh = s.fresh := rfl
@[simp] theorem State.setGroup_stands : (s.setGroup k x).stands = s.stands := rfl
@[simp] theorem State.setGroup_clock : (s.setGroup k x).clock = s.clock := rfl
@[simp] theorem State.setGroup_bringUp : (s.setGroup k x).bringUp = s.bringUp := rfl
@[simp] theorem State.setGroup_clockStopped : (s.setGroup k x).clockStopped = s.clockStopped := rfl
@[simp] theorem State.setGroup_busy : (s.setGroup k x).busy = s.busy := rfl
@[simp] theorem State.setGroup_chip : (s.setGroup k x).chip = s.chip := rfl
@[simp] theorem State.setGroup_gangs : (s.setGroup k x).gangs = s.gangs := rfl
@[simp] theorem State.setGroup_grids : (s.setGroup k x).grids = s.grids := rfl
@[simp] theorem State.setGroup_quarters : (s.setGroup k x).quarters = s.quarters := rfl
@[simp] theorem State.setGroup_dies : (s.setGroup k x).dies = s.dies := rfl
@[simp] theorem State.setGroup_contexts : (s.setGroup k x).contexts = s.contexts := rfl
@[simp] theorem State.setGroup_parts : (s.setGroup k x).parts = s.parts := rfl
@[simp] theorem State.setGroup_vfs : (s.setGroup k x).vfs = s.vfs := rfl
@[simp] theorem State.setGroup_ports : (s.setGroup k x).ports = s.ports := rfl
@[simp] theorem State.setGroup_routes : (s.setGroup k x).routes = s.routes := rfl
@[simp] theorem State.setGroup_fencedChips : (s.setGroup k x).fencedChips = s.fencedChips := rfl
@[simp] theorem State.setGroup_colls : (s.setGroup k x).colls = s.colls := rfl
@[simp] theorem State.setGroup_collWaits : (s.setGroup k x).collWaits = s.collWaits := rfl
@[simp] theorem State.setGroup_shoots : (s.setGroup k x).shoots = s.shoots := rfl
@[simp] theorem State.setGroup_heads : (s.setGroup k x).heads = s.heads := rfl
@[simp] theorem State.setGroup_hostMem : (s.setGroup k x).hostMem = s.hostMem := rfl
@[simp] theorem State.setGroup_peerMem : (s.setGroup k x).peerMem = s.peerMem := rfl
@[simp] theorem State.setGroup_nextSeq : (s.setGroup k x).nextSeq = s.nextSeq := rfl
@[simp] theorem State.setGroup_nextOp : (s.setGroup k x).nextOp = s.nextOp := rfl
@[simp] theorem State.setGroup_nextGrid : (s.setGroup k x).nextGrid = s.nextGrid := rfl
@[simp] theorem State.setGroup_fw : (s.setGroup k x).fw = s.fw := rfl
@[simp] theorem State.setGroup_frozen : (s.setGroup k x).frozen = s.frozen := rfl
@[simp] theorem State.setGroup_notices : (s.setGroup k x).notices = s.notices := rfl
@[simp] theorem State.setGroup_windowStart : (s.setGroup k x).windowStart = s.windowStart := rfl
@[simp] theorem State.group_setGroup_self : (s.setGroup k x).group k = x := Sparse.get_set_self _ _ _
theorem State.group_setGroup (j : Nat) : (s.setGroup k x).group j = if j = k then x else s.group j := Sparse.get_set _ _ _ _

end SetGroup

section SetGang
variable (s : State) (k : Nat) (x : Gang)

@[simp] theorem State.setGang_agenda : (s.setGang k x).agenda = s.agenda := rfl
@[simp] theorem State.setGang_cur : (s.setGang k x).cur = s.cur := rfl
@[simp] theorem State.setGang_was : (s.setGang k x).was = s.was := rfl
@[simp] theorem State.setGang_fresh : (s.setGang k x).fresh = s.fresh := rfl
@[simp] theorem State.setGang_stands : (s.setGang k x).stands = s.stands := rfl
@[simp] theorem State.setGang_clock : (s.setGang k x).clock = s.clock := rfl
@[simp] theorem State.setGang_bringUp : (s.setGang k x).bringUp = s.bringUp := rfl
@[simp] theorem State.setGang_clockStopped : (s.setGang k x).clockStopped = s.clockStopped := rfl
@[simp] theorem State.setGang_busy : (s.setGang k x).busy = s.busy := rfl
@[simp] theorem State.setGang_chip : (s.setGang k x).chip = s.chip := rfl
@[simp] theorem State.setGang_groups : (s.setGang k x).groups = s.groups := rfl
@[simp] theorem State.setGang_grids : (s.setGang k x).grids = s.grids := rfl
@[simp] theorem State.setGang_quarters : (s.setGang k x).quarters = s.quarters := rfl
@[simp] theorem State.setGang_dies : (s.setGang k x).dies = s.dies := rfl
@[simp] theorem State.setGang_contexts : (s.setGang k x).contexts = s.contexts := rfl
@[simp] theorem State.setGang_parts : (s.setGang k x).parts = s.parts := rfl
@[simp] theorem State.setGang_vfs : (s.setGang k x).vfs = s.vfs := rfl
@[simp] theorem State.setGang_ports : (s.setGang k x).ports = s.ports := rfl
@[simp] theorem State.setGang_routes : (s.setGang k x).routes = s.routes := rfl
@[simp] theorem State.setGang_fencedChips : (s.setGang k x).fencedChips = s.fencedChips := rfl
@[simp] theorem State.setGang_colls : (s.setGang k x).colls = s.colls := rfl
@[simp] theorem State.setGang_collWaits : (s.setGang k x).collWaits = s.collWaits := rfl
@[simp] theorem State.setGang_shoots : (s.setGang k x).shoots = s.shoots := rfl
@[simp] theorem State.setGang_heads : (s.setGang k x).heads = s.heads := rfl
@[simp] theorem State.setGang_hostMem : (s.setGang k x).hostMem = s.hostMem := rfl
@[simp] theorem State.setGang_peerMem : (s.setGang k x).peerMem = s.peerMem := rfl
@[simp] theorem State.setGang_nextSeq : (s.setGang k x).nextSeq = s.nextSeq := rfl
@[simp] theorem State.setGang_nextOp : (s.setGang k x).nextOp = s.nextOp := rfl
@[simp] theorem State.setGang_nextGrid : (s.setGang k x).nextGrid = s.nextGrid := rfl
@[simp] theorem State.setGang_fw : (s.setGang k x).fw = s.fw := rfl
@[simp] theorem State.setGang_frozen : (s.setGang k x).frozen = s.frozen := rfl
@[simp] theorem State.setGang_notices : (s.setGang k x).notices = s.notices := rfl
@[simp] theorem State.setGang_windowStart : (s.setGang k x).windowStart = s.windowStart := rfl
@[simp] theorem State.gang_setGang_self : (s.setGang k x).gang k = x := Sparse.get_set_self _ _ _
theorem State.gang_setGang (j : Nat) : (s.setGang k x).gang j = if j = k then x else s.gang j := Sparse.get_set _ _ _ _

end SetGang

section SetGrid
variable (s : State) (k : Nat) (x : Grid)

@[simp] theorem State.setGrid_agenda : (s.setGrid k x).agenda = s.agenda := rfl
@[simp] theorem State.setGrid_cur : (s.setGrid k x).cur = s.cur := rfl
@[simp] theorem State.setGrid_was : (s.setGrid k x).was = s.was := rfl
@[simp] theorem State.setGrid_fresh : (s.setGrid k x).fresh = s.fresh := rfl
@[simp] theorem State.setGrid_stands : (s.setGrid k x).stands = s.stands := rfl
@[simp] theorem State.setGrid_clock : (s.setGrid k x).clock = s.clock := rfl
@[simp] theorem State.setGrid_bringUp : (s.setGrid k x).bringUp = s.bringUp := rfl
@[simp] theorem State.setGrid_clockStopped : (s.setGrid k x).clockStopped = s.clockStopped := rfl
@[simp] theorem State.setGrid_busy : (s.setGrid k x).busy = s.busy := rfl
@[simp] theorem State.setGrid_chip : (s.setGrid k x).chip = s.chip := rfl
@[simp] theorem State.setGrid_groups : (s.setGrid k x).groups = s.groups := rfl
@[simp] theorem State.setGrid_gangs : (s.setGrid k x).gangs = s.gangs := rfl
@[simp] theorem State.setGrid_quarters : (s.setGrid k x).quarters = s.quarters := rfl
@[simp] theorem State.setGrid_dies : (s.setGrid k x).dies = s.dies := rfl
@[simp] theorem State.setGrid_contexts : (s.setGrid k x).contexts = s.contexts := rfl
@[simp] theorem State.setGrid_parts : (s.setGrid k x).parts = s.parts := rfl
@[simp] theorem State.setGrid_vfs : (s.setGrid k x).vfs = s.vfs := rfl
@[simp] theorem State.setGrid_ports : (s.setGrid k x).ports = s.ports := rfl
@[simp] theorem State.setGrid_routes : (s.setGrid k x).routes = s.routes := rfl
@[simp] theorem State.setGrid_fencedChips : (s.setGrid k x).fencedChips = s.fencedChips := rfl
@[simp] theorem State.setGrid_colls : (s.setGrid k x).colls = s.colls := rfl
@[simp] theorem State.setGrid_collWaits : (s.setGrid k x).collWaits = s.collWaits := rfl
@[simp] theorem State.setGrid_shoots : (s.setGrid k x).shoots = s.shoots := rfl
@[simp] theorem State.setGrid_heads : (s.setGrid k x).heads = s.heads := rfl
@[simp] theorem State.setGrid_hostMem : (s.setGrid k x).hostMem = s.hostMem := rfl
@[simp] theorem State.setGrid_peerMem : (s.setGrid k x).peerMem = s.peerMem := rfl
@[simp] theorem State.setGrid_nextSeq : (s.setGrid k x).nextSeq = s.nextSeq := rfl
@[simp] theorem State.setGrid_nextOp : (s.setGrid k x).nextOp = s.nextOp := rfl
@[simp] theorem State.setGrid_nextGrid : (s.setGrid k x).nextGrid = s.nextGrid := rfl
@[simp] theorem State.setGrid_fw : (s.setGrid k x).fw = s.fw := rfl
@[simp] theorem State.setGrid_frozen : (s.setGrid k x).frozen = s.frozen := rfl
@[simp] theorem State.setGrid_notices : (s.setGrid k x).notices = s.notices := rfl
@[simp] theorem State.setGrid_windowStart : (s.setGrid k x).windowStart = s.windowStart := rfl
@[simp] theorem State.grid_setGrid_self : (s.setGrid k x).grid k = x := Sparse.get_set_self _ _ _
theorem State.grid_setGrid (j : Nat) : (s.setGrid k x).grid j = if j = k then x else s.grid j := Sparse.get_set _ _ _ _

end SetGrid

section SetQuarter
variable (s : State) (k : Nat) (x : Quarter)

@[simp] theorem State.setQuarter_agenda : (s.setQuarter k x).agenda = s.agenda := rfl
@[simp] theorem State.setQuarter_cur : (s.setQuarter k x).cur = s.cur := rfl
@[simp] theorem State.setQuarter_was : (s.setQuarter k x).was = s.was := rfl
@[simp] theorem State.setQuarter_fresh : (s.setQuarter k x).fresh = s.fresh := rfl
@[simp] theorem State.setQuarter_stands : (s.setQuarter k x).stands = s.stands := rfl
@[simp] theorem State.setQuarter_clock : (s.setQuarter k x).clock = s.clock := rfl
@[simp] theorem State.setQuarter_bringUp : (s.setQuarter k x).bringUp = s.bringUp := rfl
@[simp] theorem State.setQuarter_clockStopped : (s.setQuarter k x).clockStopped = s.clockStopped := rfl
@[simp] theorem State.setQuarter_busy : (s.setQuarter k x).busy = s.busy := rfl
@[simp] theorem State.setQuarter_chip : (s.setQuarter k x).chip = s.chip := rfl
@[simp] theorem State.setQuarter_groups : (s.setQuarter k x).groups = s.groups := rfl
@[simp] theorem State.setQuarter_gangs : (s.setQuarter k x).gangs = s.gangs := rfl
@[simp] theorem State.setQuarter_grids : (s.setQuarter k x).grids = s.grids := rfl
@[simp] theorem State.setQuarter_dies : (s.setQuarter k x).dies = s.dies := rfl
@[simp] theorem State.setQuarter_contexts : (s.setQuarter k x).contexts = s.contexts := rfl
@[simp] theorem State.setQuarter_parts : (s.setQuarter k x).parts = s.parts := rfl
@[simp] theorem State.setQuarter_vfs : (s.setQuarter k x).vfs = s.vfs := rfl
@[simp] theorem State.setQuarter_ports : (s.setQuarter k x).ports = s.ports := rfl
@[simp] theorem State.setQuarter_routes : (s.setQuarter k x).routes = s.routes := rfl
@[simp] theorem State.setQuarter_fencedChips : (s.setQuarter k x).fencedChips = s.fencedChips := rfl
@[simp] theorem State.setQuarter_colls : (s.setQuarter k x).colls = s.colls := rfl
@[simp] theorem State.setQuarter_collWaits : (s.setQuarter k x).collWaits = s.collWaits := rfl
@[simp] theorem State.setQuarter_shoots : (s.setQuarter k x).shoots = s.shoots := rfl
@[simp] theorem State.setQuarter_heads : (s.setQuarter k x).heads = s.heads := rfl
@[simp] theorem State.setQuarter_hostMem : (s.setQuarter k x).hostMem = s.hostMem := rfl
@[simp] theorem State.setQuarter_peerMem : (s.setQuarter k x).peerMem = s.peerMem := rfl
@[simp] theorem State.setQuarter_nextSeq : (s.setQuarter k x).nextSeq = s.nextSeq := rfl
@[simp] theorem State.setQuarter_nextOp : (s.setQuarter k x).nextOp = s.nextOp := rfl
@[simp] theorem State.setQuarter_nextGrid : (s.setQuarter k x).nextGrid = s.nextGrid := rfl
@[simp] theorem State.setQuarter_fw : (s.setQuarter k x).fw = s.fw := rfl
@[simp] theorem State.setQuarter_frozen : (s.setQuarter k x).frozen = s.frozen := rfl
@[simp] theorem State.setQuarter_notices : (s.setQuarter k x).notices = s.notices := rfl
@[simp] theorem State.setQuarter_windowStart : (s.setQuarter k x).windowStart = s.windowStart := rfl
@[simp] theorem State.quarter_setQuarter_self : (s.setQuarter k x).quarter k = x := Sparse.get_set_self _ _ _
theorem State.quarter_setQuarter (j : Nat) : (s.setQuarter k x).quarter j = if j = k then x else s.quarter j := Sparse.get_set _ _ _ _

end SetQuarter

section SetDie
variable (s : State) (k : Nat) (x : Die)

@[simp] theorem State.setDie_agenda : (s.setDie k x).agenda = s.agenda := rfl
@[simp] theorem State.setDie_cur : (s.setDie k x).cur = s.cur := rfl
@[simp] theorem State.setDie_was : (s.setDie k x).was = s.was := rfl
@[simp] theorem State.setDie_fresh : (s.setDie k x).fresh = s.fresh := rfl
@[simp] theorem State.setDie_stands : (s.setDie k x).stands = s.stands := rfl
@[simp] theorem State.setDie_clock : (s.setDie k x).clock = s.clock := rfl
@[simp] theorem State.setDie_bringUp : (s.setDie k x).bringUp = s.bringUp := rfl
@[simp] theorem State.setDie_clockStopped : (s.setDie k x).clockStopped = s.clockStopped := rfl
@[simp] theorem State.setDie_busy : (s.setDie k x).busy = s.busy := rfl
@[simp] theorem State.setDie_chip : (s.setDie k x).chip = s.chip := rfl
@[simp] theorem State.setDie_groups : (s.setDie k x).groups = s.groups := rfl
@[simp] theorem State.setDie_gangs : (s.setDie k x).gangs = s.gangs := rfl
@[simp] theorem State.setDie_grids : (s.setDie k x).grids = s.grids := rfl
@[simp] theorem State.setDie_quarters : (s.setDie k x).quarters = s.quarters := rfl
@[simp] theorem State.setDie_contexts : (s.setDie k x).contexts = s.contexts := rfl
@[simp] theorem State.setDie_parts : (s.setDie k x).parts = s.parts := rfl
@[simp] theorem State.setDie_vfs : (s.setDie k x).vfs = s.vfs := rfl
@[simp] theorem State.setDie_ports : (s.setDie k x).ports = s.ports := rfl
@[simp] theorem State.setDie_routes : (s.setDie k x).routes = s.routes := rfl
@[simp] theorem State.setDie_fencedChips : (s.setDie k x).fencedChips = s.fencedChips := rfl
@[simp] theorem State.setDie_colls : (s.setDie k x).colls = s.colls := rfl
@[simp] theorem State.setDie_collWaits : (s.setDie k x).collWaits = s.collWaits := rfl
@[simp] theorem State.setDie_shoots : (s.setDie k x).shoots = s.shoots := rfl
@[simp] theorem State.setDie_heads : (s.setDie k x).heads = s.heads := rfl
@[simp] theorem State.setDie_hostMem : (s.setDie k x).hostMem = s.hostMem := rfl
@[simp] theorem State.setDie_peerMem : (s.setDie k x).peerMem = s.peerMem := rfl
@[simp] theorem State.setDie_nextSeq : (s.setDie k x).nextSeq = s.nextSeq := rfl
@[simp] theorem State.setDie_nextOp : (s.setDie k x).nextOp = s.nextOp := rfl
@[simp] theorem State.setDie_nextGrid : (s.setDie k x).nextGrid = s.nextGrid := rfl
@[simp] theorem State.setDie_fw : (s.setDie k x).fw = s.fw := rfl
@[simp] theorem State.setDie_frozen : (s.setDie k x).frozen = s.frozen := rfl
@[simp] theorem State.setDie_notices : (s.setDie k x).notices = s.notices := rfl
@[simp] theorem State.setDie_windowStart : (s.setDie k x).windowStart = s.windowStart := rfl
@[simp] theorem State.die_setDie_self : (s.setDie k x).die k = x := Sparse.get_set_self _ _ _
theorem State.die_setDie (j : Nat) : (s.setDie k x).die j = if j = k then x else s.die j := Sparse.get_set _ _ _ _

end SetDie

section SetContext
variable (s : State) (k : Nat) (x : Context)

@[simp] theorem State.setContext_agenda : (s.setContext k x).agenda = s.agenda := rfl
@[simp] theorem State.setContext_cur : (s.setContext k x).cur = s.cur := rfl
@[simp] theorem State.setContext_was : (s.setContext k x).was = s.was := rfl
@[simp] theorem State.setContext_fresh : (s.setContext k x).fresh = s.fresh := rfl
@[simp] theorem State.setContext_stands : (s.setContext k x).stands = s.stands := rfl
@[simp] theorem State.setContext_clock : (s.setContext k x).clock = s.clock := rfl
@[simp] theorem State.setContext_bringUp : (s.setContext k x).bringUp = s.bringUp := rfl
@[simp] theorem State.setContext_clockStopped : (s.setContext k x).clockStopped = s.clockStopped := rfl
@[simp] theorem State.setContext_busy : (s.setContext k x).busy = s.busy := rfl
@[simp] theorem State.setContext_chip : (s.setContext k x).chip = s.chip := rfl
@[simp] theorem State.setContext_groups : (s.setContext k x).groups = s.groups := rfl
@[simp] theorem State.setContext_gangs : (s.setContext k x).gangs = s.gangs := rfl
@[simp] theorem State.setContext_grids : (s.setContext k x).grids = s.grids := rfl
@[simp] theorem State.setContext_quarters : (s.setContext k x).quarters = s.quarters := rfl
@[simp] theorem State.setContext_dies : (s.setContext k x).dies = s.dies := rfl
@[simp] theorem State.setContext_parts : (s.setContext k x).parts = s.parts := rfl
@[simp] theorem State.setContext_vfs : (s.setContext k x).vfs = s.vfs := rfl
@[simp] theorem State.setContext_ports : (s.setContext k x).ports = s.ports := rfl
@[simp] theorem State.setContext_routes : (s.setContext k x).routes = s.routes := rfl
@[simp] theorem State.setContext_fencedChips : (s.setContext k x).fencedChips = s.fencedChips := rfl
@[simp] theorem State.setContext_colls : (s.setContext k x).colls = s.colls := rfl
@[simp] theorem State.setContext_collWaits : (s.setContext k x).collWaits = s.collWaits := rfl
@[simp] theorem State.setContext_shoots : (s.setContext k x).shoots = s.shoots := rfl
@[simp] theorem State.setContext_heads : (s.setContext k x).heads = s.heads := rfl
@[simp] theorem State.setContext_hostMem : (s.setContext k x).hostMem = s.hostMem := rfl
@[simp] theorem State.setContext_peerMem : (s.setContext k x).peerMem = s.peerMem := rfl
@[simp] theorem State.setContext_nextSeq : (s.setContext k x).nextSeq = s.nextSeq := rfl
@[simp] theorem State.setContext_nextOp : (s.setContext k x).nextOp = s.nextOp := rfl
@[simp] theorem State.setContext_nextGrid : (s.setContext k x).nextGrid = s.nextGrid := rfl
@[simp] theorem State.setContext_fw : (s.setContext k x).fw = s.fw := rfl
@[simp] theorem State.setContext_frozen : (s.setContext k x).frozen = s.frozen := rfl
@[simp] theorem State.setContext_notices : (s.setContext k x).notices = s.notices := rfl
@[simp] theorem State.setContext_windowStart : (s.setContext k x).windowStart = s.windowStart := rfl
@[simp] theorem State.context_setContext_self : (s.setContext k x).context k = x := Sparse.get_set_self _ _ _
theorem State.context_setContext (j : Nat) : (s.setContext k x).context j = if j = k then x else s.context j := Sparse.get_set _ _ _ _

end SetContext

section SetPart
variable (s : State) (k : Nat) (x : Partition)

@[simp] theorem State.setPart_agenda : (s.setPart k x).agenda = s.agenda := rfl
@[simp] theorem State.setPart_cur : (s.setPart k x).cur = s.cur := rfl
@[simp] theorem State.setPart_was : (s.setPart k x).was = s.was := rfl
@[simp] theorem State.setPart_fresh : (s.setPart k x).fresh = s.fresh := rfl
@[simp] theorem State.setPart_stands : (s.setPart k x).stands = s.stands := rfl
@[simp] theorem State.setPart_clock : (s.setPart k x).clock = s.clock := rfl
@[simp] theorem State.setPart_bringUp : (s.setPart k x).bringUp = s.bringUp := rfl
@[simp] theorem State.setPart_clockStopped : (s.setPart k x).clockStopped = s.clockStopped := rfl
@[simp] theorem State.setPart_busy : (s.setPart k x).busy = s.busy := rfl
@[simp] theorem State.setPart_chip : (s.setPart k x).chip = s.chip := rfl
@[simp] theorem State.setPart_groups : (s.setPart k x).groups = s.groups := rfl
@[simp] theorem State.setPart_gangs : (s.setPart k x).gangs = s.gangs := rfl
@[simp] theorem State.setPart_grids : (s.setPart k x).grids = s.grids := rfl
@[simp] theorem State.setPart_quarters : (s.setPart k x).quarters = s.quarters := rfl
@[simp] theorem State.setPart_dies : (s.setPart k x).dies = s.dies := rfl
@[simp] theorem State.setPart_contexts : (s.setPart k x).contexts = s.contexts := rfl
@[simp] theorem State.setPart_vfs : (s.setPart k x).vfs = s.vfs := rfl
@[simp] theorem State.setPart_ports : (s.setPart k x).ports = s.ports := rfl
@[simp] theorem State.setPart_routes : (s.setPart k x).routes = s.routes := rfl
@[simp] theorem State.setPart_fencedChips : (s.setPart k x).fencedChips = s.fencedChips := rfl
@[simp] theorem State.setPart_colls : (s.setPart k x).colls = s.colls := rfl
@[simp] theorem State.setPart_collWaits : (s.setPart k x).collWaits = s.collWaits := rfl
@[simp] theorem State.setPart_shoots : (s.setPart k x).shoots = s.shoots := rfl
@[simp] theorem State.setPart_heads : (s.setPart k x).heads = s.heads := rfl
@[simp] theorem State.setPart_hostMem : (s.setPart k x).hostMem = s.hostMem := rfl
@[simp] theorem State.setPart_peerMem : (s.setPart k x).peerMem = s.peerMem := rfl
@[simp] theorem State.setPart_nextSeq : (s.setPart k x).nextSeq = s.nextSeq := rfl
@[simp] theorem State.setPart_nextOp : (s.setPart k x).nextOp = s.nextOp := rfl
@[simp] theorem State.setPart_nextGrid : (s.setPart k x).nextGrid = s.nextGrid := rfl
@[simp] theorem State.setPart_fw : (s.setPart k x).fw = s.fw := rfl
@[simp] theorem State.setPart_frozen : (s.setPart k x).frozen = s.frozen := rfl
@[simp] theorem State.setPart_notices : (s.setPart k x).notices = s.notices := rfl
@[simp] theorem State.setPart_windowStart : (s.setPart k x).windowStart = s.windowStart := rfl
@[simp] theorem State.part_setPart_self : (s.setPart k x).part k = x := Sparse.get_set_self _ _ _
theorem State.part_setPart (j : Nat) : (s.setPart k x).part j = if j = k then x else s.part j := Sparse.get_set _ _ _ _

end SetPart

section SetVf
variable (s : State) (k : Nat) (x : VirtFn)

@[simp] theorem State.setVf_agenda : (s.setVf k x).agenda = s.agenda := rfl
@[simp] theorem State.setVf_cur : (s.setVf k x).cur = s.cur := rfl
@[simp] theorem State.setVf_was : (s.setVf k x).was = s.was := rfl
@[simp] theorem State.setVf_fresh : (s.setVf k x).fresh = s.fresh := rfl
@[simp] theorem State.setVf_stands : (s.setVf k x).stands = s.stands := rfl
@[simp] theorem State.setVf_clock : (s.setVf k x).clock = s.clock := rfl
@[simp] theorem State.setVf_bringUp : (s.setVf k x).bringUp = s.bringUp := rfl
@[simp] theorem State.setVf_clockStopped : (s.setVf k x).clockStopped = s.clockStopped := rfl
@[simp] theorem State.setVf_busy : (s.setVf k x).busy = s.busy := rfl
@[simp] theorem State.setVf_chip : (s.setVf k x).chip = s.chip := rfl
@[simp] theorem State.setVf_groups : (s.setVf k x).groups = s.groups := rfl
@[simp] theorem State.setVf_gangs : (s.setVf k x).gangs = s.gangs := rfl
@[simp] theorem State.setVf_grids : (s.setVf k x).grids = s.grids := rfl
@[simp] theorem State.setVf_quarters : (s.setVf k x).quarters = s.quarters := rfl
@[simp] theorem State.setVf_dies : (s.setVf k x).dies = s.dies := rfl
@[simp] theorem State.setVf_contexts : (s.setVf k x).contexts = s.contexts := rfl
@[simp] theorem State.setVf_parts : (s.setVf k x).parts = s.parts := rfl
@[simp] theorem State.setVf_ports : (s.setVf k x).ports = s.ports := rfl
@[simp] theorem State.setVf_routes : (s.setVf k x).routes = s.routes := rfl
@[simp] theorem State.setVf_fencedChips : (s.setVf k x).fencedChips = s.fencedChips := rfl
@[simp] theorem State.setVf_colls : (s.setVf k x).colls = s.colls := rfl
@[simp] theorem State.setVf_collWaits : (s.setVf k x).collWaits = s.collWaits := rfl
@[simp] theorem State.setVf_shoots : (s.setVf k x).shoots = s.shoots := rfl
@[simp] theorem State.setVf_heads : (s.setVf k x).heads = s.heads := rfl
@[simp] theorem State.setVf_hostMem : (s.setVf k x).hostMem = s.hostMem := rfl
@[simp] theorem State.setVf_peerMem : (s.setVf k x).peerMem = s.peerMem := rfl
@[simp] theorem State.setVf_nextSeq : (s.setVf k x).nextSeq = s.nextSeq := rfl
@[simp] theorem State.setVf_nextOp : (s.setVf k x).nextOp = s.nextOp := rfl
@[simp] theorem State.setVf_nextGrid : (s.setVf k x).nextGrid = s.nextGrid := rfl
@[simp] theorem State.setVf_fw : (s.setVf k x).fw = s.fw := rfl
@[simp] theorem State.setVf_frozen : (s.setVf k x).frozen = s.frozen := rfl
@[simp] theorem State.setVf_notices : (s.setVf k x).notices = s.notices := rfl
@[simp] theorem State.setVf_windowStart : (s.setVf k x).windowStart = s.windowStart := rfl
@[simp] theorem State.vf_setVf_self : (s.setVf k x).vf k = x := Sparse.get_set_self _ _ _
theorem State.vf_setVf (j : Nat) : (s.setVf k x).vf j = if j = k then x else s.vf j := Sparse.get_set _ _ _ _

end SetVf

section SetPort
variable (s : State) (k : Nat) (x : Port)

@[simp] theorem State.setPort_agenda : (s.setPort k x).agenda = s.agenda := rfl
@[simp] theorem State.setPort_cur : (s.setPort k x).cur = s.cur := rfl
@[simp] theorem State.setPort_was : (s.setPort k x).was = s.was := rfl
@[simp] theorem State.setPort_fresh : (s.setPort k x).fresh = s.fresh := rfl
@[simp] theorem State.setPort_stands : (s.setPort k x).stands = s.stands := rfl
@[simp] theorem State.setPort_clock : (s.setPort k x).clock = s.clock := rfl
@[simp] theorem State.setPort_bringUp : (s.setPort k x).bringUp = s.bringUp := rfl
@[simp] theorem State.setPort_clockStopped : (s.setPort k x).clockStopped = s.clockStopped := rfl
@[simp] theorem State.setPort_busy : (s.setPort k x).busy = s.busy := rfl
@[simp] theorem State.setPort_chip : (s.setPort k x).chip = s.chip := rfl
@[simp] theorem State.setPort_groups : (s.setPort k x).groups = s.groups := rfl
@[simp] theorem State.setPort_gangs : (s.setPort k x).gangs = s.gangs := rfl
@[simp] theorem State.setPort_grids : (s.setPort k x).grids = s.grids := rfl
@[simp] theorem State.setPort_quarters : (s.setPort k x).quarters = s.quarters := rfl
@[simp] theorem State.setPort_dies : (s.setPort k x).dies = s.dies := rfl
@[simp] theorem State.setPort_contexts : (s.setPort k x).contexts = s.contexts := rfl
@[simp] theorem State.setPort_parts : (s.setPort k x).parts = s.parts := rfl
@[simp] theorem State.setPort_vfs : (s.setPort k x).vfs = s.vfs := rfl
@[simp] theorem State.setPort_routes : (s.setPort k x).routes = s.routes := rfl
@[simp] theorem State.setPort_fencedChips : (s.setPort k x).fencedChips = s.fencedChips := rfl
@[simp] theorem State.setPort_colls : (s.setPort k x).colls = s.colls := rfl
@[simp] theorem State.setPort_collWaits : (s.setPort k x).collWaits = s.collWaits := rfl
@[simp] theorem State.setPort_shoots : (s.setPort k x).shoots = s.shoots := rfl
@[simp] theorem State.setPort_heads : (s.setPort k x).heads = s.heads := rfl
@[simp] theorem State.setPort_hostMem : (s.setPort k x).hostMem = s.hostMem := rfl
@[simp] theorem State.setPort_peerMem : (s.setPort k x).peerMem = s.peerMem := rfl
@[simp] theorem State.setPort_nextSeq : (s.setPort k x).nextSeq = s.nextSeq := rfl
@[simp] theorem State.setPort_nextOp : (s.setPort k x).nextOp = s.nextOp := rfl
@[simp] theorem State.setPort_nextGrid : (s.setPort k x).nextGrid = s.nextGrid := rfl
@[simp] theorem State.setPort_fw : (s.setPort k x).fw = s.fw := rfl
@[simp] theorem State.setPort_frozen : (s.setPort k x).frozen = s.frozen := rfl
@[simp] theorem State.setPort_notices : (s.setPort k x).notices = s.notices := rfl
@[simp] theorem State.setPort_windowStart : (s.setPort k x).windowStart = s.windowStart := rfl
@[simp] theorem State.port_setPort_self : (s.setPort k x).port k = x := Sparse.get_set_self _ _ _
theorem State.port_setPort (j : Nat) : (s.setPort k x).port j = if j = k then x else s.port j := Sparse.get_set _ _ _ _

end SetPort

section SetHead
variable (s : State) (k : Nat) (x : Head)

@[simp] theorem State.setHead_agenda : (s.setHead k x).agenda = s.agenda := rfl
@[simp] theorem State.setHead_cur : (s.setHead k x).cur = s.cur := rfl
@[simp] theorem State.setHead_was : (s.setHead k x).was = s.was := rfl
@[simp] theorem State.setHead_fresh : (s.setHead k x).fresh = s.fresh := rfl
@[simp] theorem State.setHead_stands : (s.setHead k x).stands = s.stands := rfl
@[simp] theorem State.setHead_clock : (s.setHead k x).clock = s.clock := rfl
@[simp] theorem State.setHead_bringUp : (s.setHead k x).bringUp = s.bringUp := rfl
@[simp] theorem State.setHead_clockStopped : (s.setHead k x).clockStopped = s.clockStopped := rfl
@[simp] theorem State.setHead_busy : (s.setHead k x).busy = s.busy := rfl
@[simp] theorem State.setHead_chip : (s.setHead k x).chip = s.chip := rfl
@[simp] theorem State.setHead_groups : (s.setHead k x).groups = s.groups := rfl
@[simp] theorem State.setHead_gangs : (s.setHead k x).gangs = s.gangs := rfl
@[simp] theorem State.setHead_grids : (s.setHead k x).grids = s.grids := rfl
@[simp] theorem State.setHead_quarters : (s.setHead k x).quarters = s.quarters := rfl
@[simp] theorem State.setHead_dies : (s.setHead k x).dies = s.dies := rfl
@[simp] theorem State.setHead_contexts : (s.setHead k x).contexts = s.contexts := rfl
@[simp] theorem State.setHead_parts : (s.setHead k x).parts = s.parts := rfl
@[simp] theorem State.setHead_vfs : (s.setHead k x).vfs = s.vfs := rfl
@[simp] theorem State.setHead_ports : (s.setHead k x).ports = s.ports := rfl
@[simp] theorem State.setHead_routes : (s.setHead k x).routes = s.routes := rfl
@[simp] theorem State.setHead_fencedChips : (s.setHead k x).fencedChips = s.fencedChips := rfl
@[simp] theorem State.setHead_colls : (s.setHead k x).colls = s.colls := rfl
@[simp] theorem State.setHead_collWaits : (s.setHead k x).collWaits = s.collWaits := rfl
@[simp] theorem State.setHead_shoots : (s.setHead k x).shoots = s.shoots := rfl
@[simp] theorem State.setHead_hostMem : (s.setHead k x).hostMem = s.hostMem := rfl
@[simp] theorem State.setHead_peerMem : (s.setHead k x).peerMem = s.peerMem := rfl
@[simp] theorem State.setHead_nextSeq : (s.setHead k x).nextSeq = s.nextSeq := rfl
@[simp] theorem State.setHead_nextOp : (s.setHead k x).nextOp = s.nextOp := rfl
@[simp] theorem State.setHead_nextGrid : (s.setHead k x).nextGrid = s.nextGrid := rfl
@[simp] theorem State.setHead_fw : (s.setHead k x).fw = s.fw := rfl
@[simp] theorem State.setHead_frozen : (s.setHead k x).frozen = s.frozen := rfl
@[simp] theorem State.setHead_notices : (s.setHead k x).notices = s.notices := rfl
@[simp] theorem State.setHead_windowStart : (s.setHead k x).windowStart = s.windowStart := rfl
@[simp] theorem State.head_setHead_self : (s.setHead k x).head k = x := Sparse.get_set_self _ _ _
theorem State.head_setHead (j : Nat) : (s.setHead k x).head j = if j = k then x else s.head j := Sparse.get_set _ _ _ _

end SetHead

/-! ## What is told to the host -/

@[simp] theorem State.notify_agenda (s : State) (n : Notice) : (s.notify n).agenda = s.agenda := rfl
@[simp] theorem State.notify_cur (s : State) (n : Notice) : (s.notify n).cur = s.cur := rfl
@[simp] theorem State.notify_was (s : State) (n : Notice) : (s.notify n).was = s.was := rfl
@[simp] theorem State.notify_fresh (s : State) (n : Notice) : (s.notify n).fresh = s.fresh := rfl
@[simp] theorem State.notify_stands (s : State) (n : Notice) : (s.notify n).stands = s.stands := rfl
@[simp] theorem State.notify_clock (s : State) (n : Notice) : (s.notify n).clock = s.clock := rfl
@[simp] theorem State.notify_bringUp (s : State) (n : Notice) : (s.notify n).bringUp = s.bringUp := rfl
@[simp] theorem State.notify_clockStopped (s : State) (n : Notice) : (s.notify n).clockStopped = s.clockStopped := rfl
@[simp] theorem State.notify_busy (s : State) (n : Notice) : (s.notify n).busy = s.busy := rfl
@[simp] theorem State.notify_chip (s : State) (n : Notice) : (s.notify n).chip = s.chip := rfl
@[simp] theorem State.notify_groups (s : State) (n : Notice) : (s.notify n).groups = s.groups := rfl
@[simp] theorem State.notify_gangs (s : State) (n : Notice) : (s.notify n).gangs = s.gangs := rfl
@[simp] theorem State.notify_grids (s : State) (n : Notice) : (s.notify n).grids = s.grids := rfl
@[simp] theorem State.notify_quarters (s : State) (n : Notice) : (s.notify n).quarters = s.quarters := rfl
@[simp] theorem State.notify_dies (s : State) (n : Notice) : (s.notify n).dies = s.dies := rfl
@[simp] theorem State.notify_contexts (s : State) (n : Notice) : (s.notify n).contexts = s.contexts := rfl
@[simp] theorem State.notify_parts (s : State) (n : Notice) : (s.notify n).parts = s.parts := rfl
@[simp] theorem State.notify_vfs (s : State) (n : Notice) : (s.notify n).vfs = s.vfs := rfl
@[simp] theorem State.notify_ports (s : State) (n : Notice) : (s.notify n).ports = s.ports := rfl
@[simp] theorem State.notify_routes (s : State) (n : Notice) : (s.notify n).routes = s.routes := rfl
@[simp] theorem State.notify_fencedChips (s : State) (n : Notice) : (s.notify n).fencedChips = s.fencedChips := rfl
@[simp] theorem State.notify_colls (s : State) (n : Notice) : (s.notify n).colls = s.colls := rfl
@[simp] theorem State.notify_collWaits (s : State) (n : Notice) : (s.notify n).collWaits = s.collWaits := rfl
@[simp] theorem State.notify_shoots (s : State) (n : Notice) : (s.notify n).shoots = s.shoots := rfl
@[simp] theorem State.notify_heads (s : State) (n : Notice) : (s.notify n).heads = s.heads := rfl
@[simp] theorem State.notify_hostMem (s : State) (n : Notice) : (s.notify n).hostMem = s.hostMem := rfl
@[simp] theorem State.notify_peerMem (s : State) (n : Notice) : (s.notify n).peerMem = s.peerMem := rfl
@[simp] theorem State.notify_nextSeq (s : State) (n : Notice) : (s.notify n).nextSeq = s.nextSeq := rfl
@[simp] theorem State.notify_nextOp (s : State) (n : Notice) : (s.notify n).nextOp = s.nextOp := rfl
@[simp] theorem State.notify_nextGrid (s : State) (n : Notice) : (s.notify n).nextGrid = s.nextGrid := rfl
@[simp] theorem State.notify_fw (s : State) (n : Notice) : (s.notify n).fw = s.fw := rfl
@[simp] theorem State.notify_frozen (s : State) (n : Notice) : (s.notify n).frozen = s.frozen := rfl
@[simp] theorem State.notify_windowStart (s : State) (n : Notice) : (s.notify n).windowStart = s.windowStart := rfl

/-! ## The group that issues -/

@[simp] theorem State.setGrp_agenda (s : State) (g : Group) : (s.setGrp g).agenda = s.agenda := rfl
@[simp] theorem State.setGrp_cur (s : State) (g : Group) : (s.setGrp g).cur = s.cur := rfl
@[simp] theorem State.setGrp_was (s : State) (g : Group) : (s.setGrp g).was = s.was := rfl
@[simp] theorem State.setGrp_fresh (s : State) (g : Group) : (s.setGrp g).fresh = s.fresh := rfl
@[simp] theorem State.setGrp_stands (s : State) (g : Group) : (s.setGrp g).stands = s.stands := rfl
@[simp] theorem State.setGrp_clock (s : State) (g : Group) : (s.setGrp g).clock = s.clock := rfl
@[simp] theorem State.setGrp_bringUp (s : State) (g : Group) : (s.setGrp g).bringUp = s.bringUp := rfl
@[simp] theorem State.setGrp_clockStopped (s : State) (g : Group) : (s.setGrp g).clockStopped = s.clockStopped := rfl
@[simp] theorem State.setGrp_busy (s : State) (g : Group) : (s.setGrp g).busy = s.busy := rfl
@[simp] theorem State.setGrp_chip (s : State) (g : Group) : (s.setGrp g).chip = s.chip := rfl
@[simp] theorem State.setGrp_gangs (s : State) (g : Group) : (s.setGrp g).gangs = s.gangs := rfl
@[simp] theorem State.setGrp_grids (s : State) (g : Group) : (s.setGrp g).grids = s.grids := rfl
@[simp] theorem State.setGrp_quarters (s : State) (g : Group) : (s.setGrp g).quarters = s.quarters := rfl
@[simp] theorem State.setGrp_dies (s : State) (g : Group) : (s.setGrp g).dies = s.dies := rfl
@[simp] theorem State.setGrp_contexts (s : State) (g : Group) : (s.setGrp g).contexts = s.contexts := rfl
@[simp] theorem State.setGrp_parts (s : State) (g : Group) : (s.setGrp g).parts = s.parts := rfl
@[simp] theorem State.setGrp_vfs (s : State) (g : Group) : (s.setGrp g).vfs = s.vfs := rfl
@[simp] theorem State.setGrp_ports (s : State) (g : Group) : (s.setGrp g).ports = s.ports := rfl
@[simp] theorem State.setGrp_routes (s : State) (g : Group) : (s.setGrp g).routes = s.routes := rfl
@[simp] theorem State.setGrp_fencedChips (s : State) (g : Group) : (s.setGrp g).fencedChips = s.fencedChips := rfl
@[simp] theorem State.setGrp_colls (s : State) (g : Group) : (s.setGrp g).colls = s.colls := rfl
@[simp] theorem State.setGrp_collWaits (s : State) (g : Group) : (s.setGrp g).collWaits = s.collWaits := rfl
@[simp] theorem State.setGrp_shoots (s : State) (g : Group) : (s.setGrp g).shoots = s.shoots := rfl
@[simp] theorem State.setGrp_heads (s : State) (g : Group) : (s.setGrp g).heads = s.heads := rfl
@[simp] theorem State.setGrp_hostMem (s : State) (g : Group) : (s.setGrp g).hostMem = s.hostMem := rfl
@[simp] theorem State.setGrp_peerMem (s : State) (g : Group) : (s.setGrp g).peerMem = s.peerMem := rfl
@[simp] theorem State.setGrp_nextSeq (s : State) (g : Group) : (s.setGrp g).nextSeq = s.nextSeq := rfl
@[simp] theorem State.setGrp_nextOp (s : State) (g : Group) : (s.setGrp g).nextOp = s.nextOp := rfl
@[simp] theorem State.setGrp_nextGrid (s : State) (g : Group) : (s.setGrp g).nextGrid = s.nextGrid := rfl
@[simp] theorem State.setGrp_fw (s : State) (g : Group) : (s.setGrp g).fw = s.fw := rfl
@[simp] theorem State.setGrp_frozen (s : State) (g : Group) : (s.setGrp g).frozen = s.frozen := rfl
@[simp] theorem State.setGrp_notices (s : State) (g : Group) : (s.setGrp g).notices = s.notices := rfl
@[simp] theorem State.setGrp_windowStart (s : State) (g : Group) : (s.setGrp g).windowStart = s.windowStart := rfl

@[simp] theorem State.grp_setGrp (s : State) (g : Group) : (s.setGrp g).grp = g := Sparse.get_set_self _ _ _
theorem State.group_setGrp (s : State) (g : Group) (k : Nat) :
    (s.setGrp g).group k = if k = s.cur.gid then g else s.group k := Sparse.get_set _ _ _ _

/-! ## The registers of a group -/

@[simp] theorem Group.setSplit_life (g : Group) (e : Nat) (x : Split) : (g.setSplit e x).life = g.life := rfl
@[simp] theorem Group.setSplit_ctx (g : Group) (e : Nat) (x : Split) : (g.setSplit e x).ctx = g.ctx := rfl
@[simp] theorem Group.setSplit_grid (g : Group) (e : Nat) (x : Split) : (g.setSplit e x).grid = g.grid := rfl
@[simp] theorem Group.setSplit_gang (g : Group) (e : Nat) (x : Split) : (g.setSplit e x).gang = g.gang := rfl
@[simp] theorem Group.setSplit_prio (g : Group) (e : Nat) (x : Split) : (g.setSplit e x).prio = g.prio := rfl
@[simp] theorem Group.setSplit_decl (g : Group) (e : Nat) (x : Split) : (g.setSplit e x).decl = g.decl := rfl
@[simp] theorem Group.setSplit_pos (g : Group) (e : Nat) (x : Split) : (g.setSplit e x).pos = g.pos := rfl
@[simp] theorem Group.setSplit_v (g : Group) (e : Nat) (x : Split) : (g.setSplit e x).v = g.v := rfl
@[simp] theorem Group.setSplit_tan (g : Group) (e : Nat) (x : Split) : (g.setSplit e x).tan = g.tan := rfl
@[simp] theorem Group.setSplit_s (g : Group) (e : Nat) (x : Split) : (g.setSplit e x).s = g.s := rfl
@[simp] theorem Group.setSplit_m (g : Group) (e : Nat) (x : Split) : (g.setSplit e x).m = g.m := rfl
@[simp] theorem Group.setSplit_w (g : Group) (e : Nat) (x : Split) : (g.setSplit e x).w = g.w := rfl
@[simp] theorem Group.setSplit_t (g : Group) (e : Nat) (x : Split) : (g.setSplit e x).t = g.t := rfl
@[simp] theorem Group.setSplit_f (g : Group) (e : Nat) (x : Split) : (g.setSplit e x).f = g.f := rfl
@[simp] theorem Group.setSplit_ops (g : Group) (e : Nat) (x : Split) : (g.setSplit e x).ops = g.ops := rfl
@[simp] theorem Group.setSplit_deliveries (g : Group) (e : Nat) (x : Split) : (g.setSplit e x).deliveries = g.deliveries := rfl
@[simp] theorem Group.setSplit_tlost (g : Group) (e : Nat) (x : Split) : (g.setSplit e x).tlost = g.tlost := rfl
@[simp] theorem Group.setSplit_edge (g : Group) (e : Nat) (x : Split) : (g.setSplit e x).edge = g.edge := rfl
@[simp] theorem Group.setSplit_stack (g : Group) (e : Nat) (x : Split) : (g.setSplit e x).stack = g.stack := rfl
@[simp] theorem Group.setSplit_crit (g : Group) (e : Nat) (x : Split) : (g.setSplit e x).crit = g.crit := rfl
@[simp] theorem Group.setSplit_critSince (g : Group) (e : Nat) (x : Split) : (g.setSplit e x).critSince = g.critSince := rfl
@[simp] theorem Group.setSplit_critSpent (g : Group) (e : Nat) (x : Split) : (g.setSplit e x).critSpent = g.critSpent := rfl
@[simp] theorem Group.setSplit_mxstat (g : Group) (e : Nat) (x : Split) : (g.setSplit e x).mxstat = g.mxstat := rfl
@[simp] theorem Group.setSplit_latch (g : Group) (e : Nat) (x : Split) : (g.setSplit e x).latch = g.latch := rfl
@[simp] theorem Group.setSplit_faults (g : Group) (e : Nat) (x : Split) : (g.setSplit e x).faults = g.faults := rfl
@[simp] theorem Group.setSplit_faultLane (g : Group) (e : Nat) (x : Split) : (g.setSplit e x).faultLane = g.faultLane := rfl
@[simp] theorem Group.setSplit_faultWord (g : Group) (e : Nat) (x : Split) : (g.setSplit e x).faultWord = g.faultWord := rfl
@[simp] theorem Group.setSplit_horizon (g : Group) (e : Nat) (x : Split) : (g.setSplit e x).horizon = g.horizon := rfl
@[simp] theorem Group.setSplit_groupHorizon (g : Group) (e : Nat) (x : Split) : (g.setSplit e x).groupHorizon = g.groupHorizon := rfl
@[simp] theorem Group.setSplit_wrote (g : Group) (e : Nat) (x : Split) : (g.setSplit e x).wrote = g.wrote := rfl
@[simp] theorem Group.setSplit_clsStamp (g : Group) (e : Nat) (x : Split) : (g.setSplit e x).clsStamp = g.clsStamp := rfl
@[simp] theorem Group.setSplit_seen (g : Group) (e : Nat) (x : Split) : (g.setSplit e x).seen = g.seen := rfl
@[simp] theorem Group.setSplit_fences (g : Group) (e : Nat) (x : Split) : (g.setSplit e x).fences = g.fences := rfl
@[simp] theorem Group.setSplit_rewind (g : Group) (e : Nat) (x : Split) : (g.setSplit e x).rewind = g.rewind := rfl
@[simp] theorem Group.setSplit_record (g : Group) (e : Nat) (x : Split) : (g.setSplit e x).record = g.record := rfl
@[simp] theorem Group.setSplit_recipes (g : Group) (e : Nat) (x : Split) : (g.setSplit e x).recipes = g.recipes := rfl
@[simp] theorem Group.setSplit_drain (g : Group) (e : Nat) (x : Split) : (g.setSplit e x).drain = g.drain := rfl
@[simp] theorem Group.setSplit_preempt (g : Group) (e : Nat) (x : Split) : (g.setSplit e x).preempt = g.preempt := rfl
@[simp] theorem Group.setSplit_escalated (g : Group) (e : Nat) (x : Split) : (g.setSplit e x).escalated = g.escalated := rfl
@[simp] theorem Group.setSplit_answered (g : Group) (e : Nat) (x : Split) : (g.setSplit e x).answered = g.answered := rfl
@[simp] theorem Group.setSplit_exitPc (g : Group) (e : Nat) (x : Split) : (g.setSplit e x).exitPc = g.exitPc := rfl
@[simp] theorem Group.setSplit_waitedCycles (g : Group) (e : Nat) (x : Split) : (g.setSplit e x).waitedCycles = g.waitedCycles := rfl
@[simp] theorem Group.setSplit_waitSince (g : Group) (e : Nat) (x : Split) : (g.setSplit e x).waitSince = g.waitSince := rfl
@[simp] theorem Group.setSplit_gctx (g : Group) (e : Nat) (x : Split) : (g.setSplit e x).gctx = g.gctx := rfl

@[simp] theorem Group.writeV_life (g : Group) (r l : Nat) (x : Word32) : (g.writeV r l x).life = g.life := rfl
@[simp] theorem Group.writeV_ctx (g : Group) (r l : Nat) (x : Word32) : (g.writeV r l x).ctx = g.ctx := rfl
@[simp] theorem Group.writeV_grid (g : Group) (r l : Nat) (x : Word32) : (g.writeV r l x).grid = g.grid := rfl
@[simp] theorem Group.writeV_gang (g : Group) (r l : Nat) (x : Word32) : (g.writeV r l x).gang = g.gang := rfl
@[simp] theorem Group.writeV_prio (g : Group) (r l : Nat) (x : Word32) : (g.writeV r l x).prio = g.prio := rfl
@[simp] theorem Group.writeV_decl (g : Group) (r l : Nat) (x : Word32) : (g.writeV r l x).decl = g.decl := rfl
@[simp] theorem Group.writeV_pos (g : Group) (r l : Nat) (x : Word32) : (g.writeV r l x).pos = g.pos := rfl
@[simp] theorem Group.writeV_tan (g : Group) (r l : Nat) (x : Word32) : (g.writeV r l x).tan = g.tan := rfl
@[simp] theorem Group.writeV_s (g : Group) (r l : Nat) (x : Word32) : (g.writeV r l x).s = g.s := rfl
@[simp] theorem Group.writeV_m (g : Group) (r l : Nat) (x : Word32) : (g.writeV r l x).m = g.m := rfl
@[simp] theorem Group.writeV_w (g : Group) (r l : Nat) (x : Word32) : (g.writeV r l x).w = g.w := rfl
@[simp] theorem Group.writeV_t (g : Group) (r l : Nat) (x : Word32) : (g.writeV r l x).t = g.t := rfl
@[simp] theorem Group.writeV_f (g : Group) (r l : Nat) (x : Word32) : (g.writeV r l x).f = g.f := rfl
@[simp] theorem Group.writeV_ops (g : Group) (r l : Nat) (x : Word32) : (g.writeV r l x).ops = g.ops := rfl
@[simp] theorem Group.writeV_deliveries (g : Group) (r l : Nat) (x : Word32) : (g.writeV r l x).deliveries = g.deliveries := rfl
@[simp] theorem Group.writeV_tlost (g : Group) (r l : Nat) (x : Word32) : (g.writeV r l x).tlost = g.tlost := rfl
@[simp] theorem Group.writeV_edge (g : Group) (r l : Nat) (x : Word32) : (g.writeV r l x).edge = g.edge := rfl
@[simp] theorem Group.writeV_splits (g : Group) (r l : Nat) (x : Word32) : (g.writeV r l x).splits = g.splits := rfl
@[simp] theorem Group.writeV_stack (g : Group) (r l : Nat) (x : Word32) : (g.writeV r l x).stack = g.stack := rfl
@[simp] theorem Group.writeV_crit (g : Group) (r l : Nat) (x : Word32) : (g.writeV r l x).crit = g.crit := rfl
@[simp] theorem Group.writeV_critSince (g : Group) (r l : Nat) (x : Word32) : (g.writeV r l x).critSince = g.critSince := rfl
@[simp] theorem Group.writeV_critSpent (g : Group) (r l : Nat) (x : Word32) : (g.writeV r l x).critSpent = g.critSpent := rfl
@[simp] theorem Group.writeV_mxstat (g : Group) (r l : Nat) (x : Word32) : (g.writeV r l x).mxstat = g.mxstat := rfl
@[simp] theorem Group.writeV_latch (g : Group) (r l : Nat) (x : Word32) : (g.writeV r l x).latch = g.latch := rfl
@[simp] theorem Group.writeV_faults (g : Group) (r l : Nat) (x : Word32) : (g.writeV r l x).faults = g.faults := rfl
@[simp] theorem Group.writeV_faultLane (g : Group) (r l : Nat) (x : Word32) : (g.writeV r l x).faultLane = g.faultLane := rfl
@[simp] theorem Group.writeV_faultWord (g : Group) (r l : Nat) (x : Word32) : (g.writeV r l x).faultWord = g.faultWord := rfl
@[simp] theorem Group.writeV_horizon (g : Group) (r l : Nat) (x : Word32) : (g.writeV r l x).horizon = g.horizon := rfl
@[simp] theorem Group.writeV_groupHorizon (g : Group) (r l : Nat) (x : Word32) : (g.writeV r l x).groupHorizon = g.groupHorizon := rfl
@[simp] theorem Group.writeV_wrote (g : Group) (r l : Nat) (x : Word32) : (g.writeV r l x).wrote = g.wrote := rfl
@[simp] theorem Group.writeV_clsStamp (g : Group) (r l : Nat) (x : Word32) : (g.writeV r l x).clsStamp = g.clsStamp := rfl
@[simp] theorem Group.writeV_seen (g : Group) (r l : Nat) (x : Word32) : (g.writeV r l x).seen = g.seen := rfl
@[simp] theorem Group.writeV_fences (g : Group) (r l : Nat) (x : Word32) : (g.writeV r l x).fences = g.fences := rfl
@[simp] theorem Group.writeV_rewind (g : Group) (r l : Nat) (x : Word32) : (g.writeV r l x).rewind = g.rewind := rfl
@[simp] theorem Group.writeV_record (g : Group) (r l : Nat) (x : Word32) : (g.writeV r l x).record = g.record := rfl
@[simp] theorem Group.writeV_recipes (g : Group) (r l : Nat) (x : Word32) : (g.writeV r l x).recipes = g.recipes := rfl
@[simp] theorem Group.writeV_drain (g : Group) (r l : Nat) (x : Word32) : (g.writeV r l x).drain = g.drain := rfl
@[simp] theorem Group.writeV_preempt (g : Group) (r l : Nat) (x : Word32) : (g.writeV r l x).preempt = g.preempt := rfl
@[simp] theorem Group.writeV_escalated (g : Group) (r l : Nat) (x : Word32) : (g.writeV r l x).escalated = g.escalated := rfl
@[simp] theorem Group.writeV_answered (g : Group) (r l : Nat) (x : Word32) : (g.writeV r l x).answered = g.answered := rfl
@[simp] theorem Group.writeV_exitPc (g : Group) (r l : Nat) (x : Word32) : (g.writeV r l x).exitPc = g.exitPc := rfl
@[simp] theorem Group.writeV_waitedCycles (g : Group) (r l : Nat) (x : Word32) : (g.writeV r l x).waitedCycles = g.waitedCycles := rfl
@[simp] theorem Group.writeV_waitSince (g : Group) (r l : Nat) (x : Word32) : (g.writeV r l x).waitSince = g.waitSince := rfl
@[simp] theorem Group.writeV_gctx (g : Group) (r l : Nat) (x : Word32) : (g.writeV r l x).gctx = g.gctx := rfl

@[simp] theorem Group.writeM_life (g : Group) (k : Nat) (x : Word32) : (g.writeM k x).life = g.life := rfl
@[simp] theorem Group.writeM_ctx (g : Group) (k : Nat) (x : Word32) : (g.writeM k x).ctx = g.ctx := rfl
@[simp] theorem Group.writeM_grid (g : Group) (k : Nat) (x : Word32) : (g.writeM k x).grid = g.grid := rfl
@[simp] theorem Group.writeM_gang (g : Group) (k : Nat) (x : Word32) : (g.writeM k x).gang = g.gang := rfl
@[simp] theorem Group.writeM_prio (g : Group) (k : Nat) (x : Word32) : (g.writeM k x).prio = g.prio := rfl
@[simp] theorem Group.writeM_decl (g : Group) (k : Nat) (x : Word32) : (g.writeM k x).decl = g.decl := rfl
@[simp] theorem Group.writeM_pos (g : Group) (k : Nat) (x : Word32) : (g.writeM k x).pos = g.pos := rfl
@[simp] theorem Group.writeM_v (g : Group) (k : Nat) (x : Word32) : (g.writeM k x).v = g.v := rfl
@[simp] theorem Group.writeM_tan (g : Group) (k : Nat) (x : Word32) : (g.writeM k x).tan = g.tan := rfl
@[simp] theorem Group.writeM_s (g : Group) (k : Nat) (x : Word32) : (g.writeM k x).s = g.s := rfl
@[simp] theorem Group.writeM_w (g : Group) (k : Nat) (x : Word32) : (g.writeM k x).w = g.w := rfl
@[simp] theorem Group.writeM_t (g : Group) (k : Nat) (x : Word32) : (g.writeM k x).t = g.t := rfl
@[simp] theorem Group.writeM_f (g : Group) (k : Nat) (x : Word32) : (g.writeM k x).f = g.f := rfl
@[simp] theorem Group.writeM_ops (g : Group) (k : Nat) (x : Word32) : (g.writeM k x).ops = g.ops := rfl
@[simp] theorem Group.writeM_deliveries (g : Group) (k : Nat) (x : Word32) : (g.writeM k x).deliveries = g.deliveries := rfl
@[simp] theorem Group.writeM_tlost (g : Group) (k : Nat) (x : Word32) : (g.writeM k x).tlost = g.tlost := rfl
@[simp] theorem Group.writeM_edge (g : Group) (k : Nat) (x : Word32) : (g.writeM k x).edge = g.edge := rfl
@[simp] theorem Group.writeM_splits (g : Group) (k : Nat) (x : Word32) : (g.writeM k x).splits = g.splits := rfl
@[simp] theorem Group.writeM_stack (g : Group) (k : Nat) (x : Word32) : (g.writeM k x).stack = g.stack := rfl
@[simp] theorem Group.writeM_crit (g : Group) (k : Nat) (x : Word32) : (g.writeM k x).crit = g.crit := rfl
@[simp] theorem Group.writeM_critSince (g : Group) (k : Nat) (x : Word32) : (g.writeM k x).critSince = g.critSince := rfl
@[simp] theorem Group.writeM_critSpent (g : Group) (k : Nat) (x : Word32) : (g.writeM k x).critSpent = g.critSpent := rfl
@[simp] theorem Group.writeM_mxstat (g : Group) (k : Nat) (x : Word32) : (g.writeM k x).mxstat = g.mxstat := rfl
@[simp] theorem Group.writeM_latch (g : Group) (k : Nat) (x : Word32) : (g.writeM k x).latch = g.latch := rfl
@[simp] theorem Group.writeM_faults (g : Group) (k : Nat) (x : Word32) : (g.writeM k x).faults = g.faults := rfl
@[simp] theorem Group.writeM_faultLane (g : Group) (k : Nat) (x : Word32) : (g.writeM k x).faultLane = g.faultLane := rfl
@[simp] theorem Group.writeM_faultWord (g : Group) (k : Nat) (x : Word32) : (g.writeM k x).faultWord = g.faultWord := rfl
@[simp] theorem Group.writeM_horizon (g : Group) (k : Nat) (x : Word32) : (g.writeM k x).horizon = g.horizon := rfl
@[simp] theorem Group.writeM_groupHorizon (g : Group) (k : Nat) (x : Word32) : (g.writeM k x).groupHorizon = g.groupHorizon := rfl
@[simp] theorem Group.writeM_wrote (g : Group) (k : Nat) (x : Word32) : (g.writeM k x).wrote = g.wrote := rfl
@[simp] theorem Group.writeM_clsStamp (g : Group) (k : Nat) (x : Word32) : (g.writeM k x).clsStamp = g.clsStamp := rfl
@[simp] theorem Group.writeM_seen (g : Group) (k : Nat) (x : Word32) : (g.writeM k x).seen = g.seen := rfl
@[simp] theorem Group.writeM_fences (g : Group) (k : Nat) (x : Word32) : (g.writeM k x).fences = g.fences := rfl
@[simp] theorem Group.writeM_rewind (g : Group) (k : Nat) (x : Word32) : (g.writeM k x).rewind = g.rewind := rfl
@[simp] theorem Group.writeM_record (g : Group) (k : Nat) (x : Word32) : (g.writeM k x).record = g.record := rfl
@[simp] theorem Group.writeM_recipes (g : Group) (k : Nat) (x : Word32) : (g.writeM k x).recipes = g.recipes := rfl
@[simp] theorem Group.writeM_drain (g : Group) (k : Nat) (x : Word32) : (g.writeM k x).drain = g.drain := rfl
@[simp] theorem Group.writeM_preempt (g : Group) (k : Nat) (x : Word32) : (g.writeM k x).preempt = g.preempt := rfl
@[simp] theorem Group.writeM_escalated (g : Group) (k : Nat) (x : Word32) : (g.writeM k x).escalated = g.escalated := rfl
@[simp] theorem Group.writeM_answered (g : Group) (k : Nat) (x : Word32) : (g.writeM k x).answered = g.answered := rfl
@[simp] theorem Group.writeM_exitPc (g : Group) (k : Nat) (x : Word32) : (g.writeM k x).exitPc = g.exitPc := rfl
@[simp] theorem Group.writeM_waitedCycles (g : Group) (k : Nat) (x : Word32) : (g.writeM k x).waitedCycles = g.waitedCycles := rfl
@[simp] theorem Group.writeM_waitSince (g : Group) (k : Nat) (x : Word32) : (g.writeM k x).waitSince = g.waitSince := rfl
@[simp] theorem Group.writeM_gctx (g : Group) (k : Nat) (x : Word32) : (g.writeM k x).gctx = g.gctx := rfl

@[simp] theorem Group.setWindow_life (g : Group) (k : Nat) (x : Window) : (g.setWindow k x).life = g.life := rfl
@[simp] theorem Group.setWindow_ctx (g : Group) (k : Nat) (x : Window) : (g.setWindow k x).ctx = g.ctx := rfl
@[simp] theorem Group.setWindow_grid (g : Group) (k : Nat) (x : Window) : (g.setWindow k x).grid = g.grid := rfl
@[simp] theorem Group.setWindow_gang (g : Group) (k : Nat) (x : Window) : (g.setWindow k x).gang = g.gang := rfl
@[simp] theorem Group.setWindow_prio (g : Group) (k : Nat) (x : Window) : (g.setWindow k x).prio = g.prio := rfl
@[simp] theorem Group.setWindow_decl (g : Group) (k : Nat) (x : Window) : (g.setWindow k x).decl = g.decl := rfl
@[simp] theorem Group.setWindow_pos (g : Group) (k : Nat) (x : Window) : (g.setWindow k x).pos = g.pos := rfl
@[simp] theorem Group.setWindow_v (g : Group) (k : Nat) (x : Window) : (g.setWindow k x).v = g.v := rfl
@[simp] theorem Group.setWindow_tan (g : Group) (k : Nat) (x : Window) : (g.setWindow k x).tan = g.tan := rfl
@[simp] theorem Group.setWindow_s (g : Group) (k : Nat) (x : Window) : (g.setWindow k x).s = g.s := rfl
@[simp] theorem Group.setWindow_m (g : Group) (k : Nat) (x : Window) : (g.setWindow k x).m = g.m := rfl
@[simp] theorem Group.setWindow_t (g : Group) (k : Nat) (x : Window) : (g.setWindow k x).t = g.t := rfl
@[simp] theorem Group.setWindow_f (g : Group) (k : Nat) (x : Window) : (g.setWindow k x).f = g.f := rfl
@[simp] theorem Group.setWindow_ops (g : Group) (k : Nat) (x : Window) : (g.setWindow k x).ops = g.ops := rfl
@[simp] theorem Group.setWindow_deliveries (g : Group) (k : Nat) (x : Window) : (g.setWindow k x).deliveries = g.deliveries := rfl
@[simp] theorem Group.setWindow_tlost (g : Group) (k : Nat) (x : Window) : (g.setWindow k x).tlost = g.tlost := rfl
@[simp] theorem Group.setWindow_edge (g : Group) (k : Nat) (x : Window) : (g.setWindow k x).edge = g.edge := rfl
@[simp] theorem Group.setWindow_splits (g : Group) (k : Nat) (x : Window) : (g.setWindow k x).splits = g.splits := rfl
@[simp] theorem Group.setWindow_stack (g : Group) (k : Nat) (x : Window) : (g.setWindow k x).stack = g.stack := rfl
@[simp] theorem Group.setWindow_crit (g : Group) (k : Nat) (x : Window) : (g.setWindow k x).crit = g.crit := rfl
@[simp] theorem Group.setWindow_critSince (g : Group) (k : Nat) (x : Window) : (g.setWindow k x).critSince = g.critSince := rfl
@[simp] theorem Group.setWindow_critSpent (g : Group) (k : Nat) (x : Window) : (g.setWindow k x).critSpent = g.critSpent := rfl
@[simp] theorem Group.setWindow_mxstat (g : Group) (k : Nat) (x : Window) : (g.setWindow k x).mxstat = g.mxstat := rfl
@[simp] theorem Group.setWindow_latch (g : Group) (k : Nat) (x : Window) : (g.setWindow k x).latch = g.latch := rfl
@[simp] theorem Group.setWindow_faults (g : Group) (k : Nat) (x : Window) : (g.setWindow k x).faults = g.faults := rfl
@[simp] theorem Group.setWindow_faultLane (g : Group) (k : Nat) (x : Window) : (g.setWindow k x).faultLane = g.faultLane := rfl
@[simp] theorem Group.setWindow_faultWord (g : Group) (k : Nat) (x : Window) : (g.setWindow k x).faultWord = g.faultWord := rfl
@[simp] theorem Group.setWindow_horizon (g : Group) (k : Nat) (x : Window) : (g.setWindow k x).horizon = g.horizon := rfl
@[simp] theorem Group.setWindow_groupHorizon (g : Group) (k : Nat) (x : Window) : (g.setWindow k x).groupHorizon = g.groupHorizon := rfl
@[simp] theorem Group.setWindow_wrote (g : Group) (k : Nat) (x : Window) : (g.setWindow k x).wrote = g.wrote := rfl
@[simp] theorem Group.setWindow_clsStamp (g : Group) (k : Nat) (x : Window) : (g.setWindow k x).clsStamp = g.clsStamp := rfl
@[simp] theorem Group.setWindow_seen (g : Group) (k : Nat) (x : Window) : (g.setWindow k x).seen = g.seen := rfl
@[simp] theorem Group.setWindow_fences (g : Group) (k : Nat) (x : Window) : (g.setWindow k x).fences = g.fences := rfl
@[simp] theorem Group.setWindow_rewind (g : Group) (k : Nat) (x : Window) : (g.setWindow k x).rewind = g.rewind := rfl
@[simp] theorem Group.setWindow_record (g : Group) (k : Nat) (x : Window) : (g.setWindow k x).record = g.record := rfl
@[simp] theorem Group.setWindow_recipes (g : Group) (k : Nat) (x : Window) : (g.setWindow k x).recipes = g.recipes := rfl
@[simp] theorem Group.setWindow_drain (g : Group) (k : Nat) (x : Window) : (g.setWindow k x).drain = g.drain := rfl
@[simp] theorem Group.setWindow_preempt (g : Group) (k : Nat) (x : Window) : (g.setWindow k x).preempt = g.preempt := rfl
@[simp] theorem Group.setWindow_escalated (g : Group) (k : Nat) (x : Window) : (g.setWindow k x).escalated = g.escalated := rfl
@[simp] theorem Group.setWindow_answered (g : Group) (k : Nat) (x : Window) : (g.setWindow k x).answered = g.answered := rfl
@[simp] theorem Group.setWindow_exitPc (g : Group) (k : Nat) (x : Window) : (g.setWindow k x).exitPc = g.exitPc := rfl
@[simp] theorem Group.setWindow_waitedCycles (g : Group) (k : Nat) (x : Window) : (g.setWindow k x).waitedCycles = g.waitedCycles := rfl
@[simp] theorem Group.setWindow_waitSince (g : Group) (k : Nat) (x : Window) : (g.setWindow k x).waitSince = g.waitSince := rfl
@[simp] theorem Group.setWindow_gctx (g : Group) (k : Nat) (x : Window) : (g.setWindow k x).gctx = g.gctx := rfl

@[simp] theorem Group.setTile_life (g : Group) (k : Nat) (x : Run) : (g.setTile k x).life = g.life := rfl
@[simp] theorem Group.setTile_ctx (g : Group) (k : Nat) (x : Run) : (g.setTile k x).ctx = g.ctx := rfl
@[simp] theorem Group.setTile_grid (g : Group) (k : Nat) (x : Run) : (g.setTile k x).grid = g.grid := rfl
@[simp] theorem Group.setTile_gang (g : Group) (k : Nat) (x : Run) : (g.setTile k x).gang = g.gang := rfl
@[simp] theorem Group.setTile_prio (g : Group) (k : Nat) (x : Run) : (g.setTile k x).prio = g.prio := rfl
@[simp] theorem Group.setTile_decl (g : Group) (k : Nat) (x : Run) : (g.setTile k x).decl = g.decl := rfl
@[simp] theorem Group.setTile_pos (g : Group) (k : Nat) (x : Run) : (g.setTile k x).pos = g.pos := rfl
@[simp] theorem Group.setTile_v (g : Group) (k : Nat) (x : Run) : (g.setTile k x).v = g.v := rfl
@[simp] theorem Group.setTile_tan (g : Group) (k : Nat) (x : Run) : (g.setTile k x).tan = g.tan := rfl
@[simp] theorem Group.setTile_s (g : Group) (k : Nat) (x : Run) : (g.setTile k x).s = g.s := rfl
@[simp] theorem Group.setTile_m (g : Group) (k : Nat) (x : Run) : (g.setTile k x).m = g.m := rfl
@[simp] theorem Group.setTile_w (g : Group) (k : Nat) (x : Run) : (g.setTile k x).w = g.w := rfl
@[simp] theorem Group.setTile_f (g : Group) (k : Nat) (x : Run) : (g.setTile k x).f = g.f := rfl
@[simp] theorem Group.setTile_ops (g : Group) (k : Nat) (x : Run) : (g.setTile k x).ops = g.ops := rfl
@[simp] theorem Group.setTile_deliveries (g : Group) (k : Nat) (x : Run) : (g.setTile k x).deliveries = g.deliveries := rfl
@[simp] theorem Group.setTile_tlost (g : Group) (k : Nat) (x : Run) : (g.setTile k x).tlost = g.tlost := rfl
@[simp] theorem Group.setTile_edge (g : Group) (k : Nat) (x : Run) : (g.setTile k x).edge = g.edge := rfl
@[simp] theorem Group.setTile_splits (g : Group) (k : Nat) (x : Run) : (g.setTile k x).splits = g.splits := rfl
@[simp] theorem Group.setTile_stack (g : Group) (k : Nat) (x : Run) : (g.setTile k x).stack = g.stack := rfl
@[simp] theorem Group.setTile_crit (g : Group) (k : Nat) (x : Run) : (g.setTile k x).crit = g.crit := rfl
@[simp] theorem Group.setTile_critSince (g : Group) (k : Nat) (x : Run) : (g.setTile k x).critSince = g.critSince := rfl
@[simp] theorem Group.setTile_critSpent (g : Group) (k : Nat) (x : Run) : (g.setTile k x).critSpent = g.critSpent := rfl
@[simp] theorem Group.setTile_mxstat (g : Group) (k : Nat) (x : Run) : (g.setTile k x).mxstat = g.mxstat := rfl
@[simp] theorem Group.setTile_latch (g : Group) (k : Nat) (x : Run) : (g.setTile k x).latch = g.latch := rfl
@[simp] theorem Group.setTile_faults (g : Group) (k : Nat) (x : Run) : (g.setTile k x).faults = g.faults := rfl
@[simp] theorem Group.setTile_faultLane (g : Group) (k : Nat) (x : Run) : (g.setTile k x).faultLane = g.faultLane := rfl
@[simp] theorem Group.setTile_faultWord (g : Group) (k : Nat) (x : Run) : (g.setTile k x).faultWord = g.faultWord := rfl
@[simp] theorem Group.setTile_horizon (g : Group) (k : Nat) (x : Run) : (g.setTile k x).horizon = g.horizon := rfl
@[simp] theorem Group.setTile_groupHorizon (g : Group) (k : Nat) (x : Run) : (g.setTile k x).groupHorizon = g.groupHorizon := rfl
@[simp] theorem Group.setTile_wrote (g : Group) (k : Nat) (x : Run) : (g.setTile k x).wrote = g.wrote := rfl
@[simp] theorem Group.setTile_clsStamp (g : Group) (k : Nat) (x : Run) : (g.setTile k x).clsStamp = g.clsStamp := rfl
@[simp] theorem Group.setTile_seen (g : Group) (k : Nat) (x : Run) : (g.setTile k x).seen = g.seen := rfl
@[simp] theorem Group.setTile_fences (g : Group) (k : Nat) (x : Run) : (g.setTile k x).fences = g.fences := rfl
@[simp] theorem Group.setTile_rewind (g : Group) (k : Nat) (x : Run) : (g.setTile k x).rewind = g.rewind := rfl
@[simp] theorem Group.setTile_record (g : Group) (k : Nat) (x : Run) : (g.setTile k x).record = g.record := rfl
@[simp] theorem Group.setTile_recipes (g : Group) (k : Nat) (x : Run) : (g.setTile k x).recipes = g.recipes := rfl
@[simp] theorem Group.setTile_drain (g : Group) (k : Nat) (x : Run) : (g.setTile k x).drain = g.drain := rfl
@[simp] theorem Group.setTile_preempt (g : Group) (k : Nat) (x : Run) : (g.setTile k x).preempt = g.preempt := rfl
@[simp] theorem Group.setTile_escalated (g : Group) (k : Nat) (x : Run) : (g.setTile k x).escalated = g.escalated := rfl
@[simp] theorem Group.setTile_answered (g : Group) (k : Nat) (x : Run) : (g.setTile k x).answered = g.answered := rfl
@[simp] theorem Group.setTile_exitPc (g : Group) (k : Nat) (x : Run) : (g.setTile k x).exitPc = g.exitPc := rfl
@[simp] theorem Group.setTile_waitedCycles (g : Group) (k : Nat) (x : Run) : (g.setTile k x).waitedCycles = g.waitedCycles := rfl
@[simp] theorem Group.setTile_waitSince (g : Group) (k : Nat) (x : Run) : (g.setTile k x).waitSince = g.waitSince := rfl
@[simp] theorem Group.setTile_gctx (g : Group) (k : Nat) (x : Run) : (g.setTile k x).gctx = g.gctx := rfl

@[simp] theorem Group.setFactor_life (g : Group) (k : Nat) (x : FBind) : (g.setFactor k x).life = g.life := rfl
@[simp] theorem Group.setFactor_ctx (g : Group) (k : Nat) (x : FBind) : (g.setFactor k x).ctx = g.ctx := rfl
@[simp] theorem Group.setFactor_grid (g : Group) (k : Nat) (x : FBind) : (g.setFactor k x).grid = g.grid := rfl
@[simp] theorem Group.setFactor_gang (g : Group) (k : Nat) (x : FBind) : (g.setFactor k x).gang = g.gang := rfl
@[simp] theorem Group.setFactor_prio (g : Group) (k : Nat) (x : FBind) : (g.setFactor k x).prio = g.prio := rfl
@[simp] theorem Group.setFactor_decl (g : Group) (k : Nat) (x : FBind) : (g.setFactor k x).decl = g.decl := rfl
@[simp] theorem Group.setFactor_pos (g : Group) (k : Nat) (x : FBind) : (g.setFactor k x).pos = g.pos := rfl
@[simp] theorem Group.setFactor_v (g : Group) (k : Nat) (x : FBind) : (g.setFactor k x).v = g.v := rfl
@[simp] theorem Group.setFactor_tan (g : Group) (k : Nat) (x : FBind) : (g.setFactor k x).tan = g.tan := rfl
@[simp] theorem Group.setFactor_s (g : Group) (k : Nat) (x : FBind) : (g.setFactor k x).s = g.s := rfl
@[simp] theorem Group.setFactor_m (g : Group) (k : Nat) (x : FBind) : (g.setFactor k x).m = g.m := rfl
@[simp] theorem Group.setFactor_w (g : Group) (k : Nat) (x : FBind) : (g.setFactor k x).w = g.w := rfl
@[simp] theorem Group.setFactor_t (g : Group) (k : Nat) (x : FBind) : (g.setFactor k x).t = g.t := rfl
@[simp] theorem Group.setFactor_ops (g : Group) (k : Nat) (x : FBind) : (g.setFactor k x).ops = g.ops := rfl
@[simp] theorem Group.setFactor_deliveries (g : Group) (k : Nat) (x : FBind) : (g.setFactor k x).deliveries = g.deliveries := rfl
@[simp] theorem Group.setFactor_tlost (g : Group) (k : Nat) (x : FBind) : (g.setFactor k x).tlost = g.tlost := rfl
@[simp] theorem Group.setFactor_edge (g : Group) (k : Nat) (x : FBind) : (g.setFactor k x).edge = g.edge := rfl
@[simp] theorem Group.setFactor_splits (g : Group) (k : Nat) (x : FBind) : (g.setFactor k x).splits = g.splits := rfl
@[simp] theorem Group.setFactor_stack (g : Group) (k : Nat) (x : FBind) : (g.setFactor k x).stack = g.stack := rfl
@[simp] theorem Group.setFactor_crit (g : Group) (k : Nat) (x : FBind) : (g.setFactor k x).crit = g.crit := rfl
@[simp] theorem Group.setFactor_critSince (g : Group) (k : Nat) (x : FBind) : (g.setFactor k x).critSince = g.critSince := rfl
@[simp] theorem Group.setFactor_critSpent (g : Group) (k : Nat) (x : FBind) : (g.setFactor k x).critSpent = g.critSpent := rfl
@[simp] theorem Group.setFactor_mxstat (g : Group) (k : Nat) (x : FBind) : (g.setFactor k x).mxstat = g.mxstat := rfl
@[simp] theorem Group.setFactor_latch (g : Group) (k : Nat) (x : FBind) : (g.setFactor k x).latch = g.latch := rfl
@[simp] theorem Group.setFactor_faults (g : Group) (k : Nat) (x : FBind) : (g.setFactor k x).faults = g.faults := rfl
@[simp] theorem Group.setFactor_faultLane (g : Group) (k : Nat) (x : FBind) : (g.setFactor k x).faultLane = g.faultLane := rfl
@[simp] theorem Group.setFactor_faultWord (g : Group) (k : Nat) (x : FBind) : (g.setFactor k x).faultWord = g.faultWord := rfl
@[simp] theorem Group.setFactor_horizon (g : Group) (k : Nat) (x : FBind) : (g.setFactor k x).horizon = g.horizon := rfl
@[simp] theorem Group.setFactor_groupHorizon (g : Group) (k : Nat) (x : FBind) : (g.setFactor k x).groupHorizon = g.groupHorizon := rfl
@[simp] theorem Group.setFactor_wrote (g : Group) (k : Nat) (x : FBind) : (g.setFactor k x).wrote = g.wrote := rfl
@[simp] theorem Group.setFactor_clsStamp (g : Group) (k : Nat) (x : FBind) : (g.setFactor k x).clsStamp = g.clsStamp := rfl
@[simp] theorem Group.setFactor_seen (g : Group) (k : Nat) (x : FBind) : (g.setFactor k x).seen = g.seen := rfl
@[simp] theorem Group.setFactor_fences (g : Group) (k : Nat) (x : FBind) : (g.setFactor k x).fences = g.fences := rfl
@[simp] theorem Group.setFactor_rewind (g : Group) (k : Nat) (x : FBind) : (g.setFactor k x).rewind = g.rewind := rfl
@[simp] theorem Group.setFactor_record (g : Group) (k : Nat) (x : FBind) : (g.setFactor k x).record = g.record := rfl
@[simp] theorem Group.setFactor_recipes (g : Group) (k : Nat) (x : FBind) : (g.setFactor k x).recipes = g.recipes := rfl
@[simp] theorem Group.setFactor_drain (g : Group) (k : Nat) (x : FBind) : (g.setFactor k x).drain = g.drain := rfl
@[simp] theorem Group.setFactor_preempt (g : Group) (k : Nat) (x : FBind) : (g.setFactor k x).preempt = g.preempt := rfl
@[simp] theorem Group.setFactor_escalated (g : Group) (k : Nat) (x : FBind) : (g.setFactor k x).escalated = g.escalated := rfl
@[simp] theorem Group.setFactor_answered (g : Group) (k : Nat) (x : FBind) : (g.setFactor k x).answered = g.answered := rfl
@[simp] theorem Group.setFactor_exitPc (g : Group) (k : Nat) (x : FBind) : (g.setFactor k x).exitPc = g.exitPc := rfl
@[simp] theorem Group.setFactor_waitedCycles (g : Group) (k : Nat) (x : FBind) : (g.setFactor k x).waitedCycles = g.waitedCycles := rfl
@[simp] theorem Group.setFactor_waitSince (g : Group) (k : Nat) (x : FBind) : (g.setFactor k x).waitSince = g.waitSince := rfl
@[simp] theorem Group.setFactor_gctx (g : Group) (k : Nat) (x : FBind) : (g.setFactor k x).gctx = g.gctx := rfl

@[simp] theorem Group.writeS_life (g : Group) (r : Nat) (x : Word64) : (g.writeS r x).life = g.life := by
  unfold Group.writeS; split <;> rfl
@[simp] theorem Group.writeS_ctx (g : Group) (r : Nat) (x : Word64) : (g.writeS r x).ctx = g.ctx := by
  unfold Group.writeS; split <;> rfl
@[simp] theorem Group.writeS_grid (g : Group) (r : Nat) (x : Word64) : (g.writeS r x).grid = g.grid := by
  unfold Group.writeS; split <;> rfl
@[simp] theorem Group.writeS_gang (g : Group) (r : Nat) (x : Word64) : (g.writeS r x).gang = g.gang := by
  unfold Group.writeS; split <;> rfl
@[simp] theorem Group.writeS_prio (g : Group) (r : Nat) (x : Word64) : (g.writeS r x).prio = g.prio := by
  unfold Group.writeS; split <;> rfl
@[simp] theorem Group.writeS_decl (g : Group) (r : Nat) (x : Word64) : (g.writeS r x).decl = g.decl := by
  unfold Group.writeS; split <;> rfl
@[simp] theorem Group.writeS_pos (g : Group) (r : Nat) (x : Word64) : (g.writeS r x).pos = g.pos := by
  unfold Group.writeS; split <;> rfl
@[simp] theorem Group.writeS_v (g : Group) (r : Nat) (x : Word64) : (g.writeS r x).v = g.v := by
  unfold Group.writeS; split <;> rfl
@[simp] theorem Group.writeS_tan (g : Group) (r : Nat) (x : Word64) : (g.writeS r x).tan = g.tan := by
  unfold Group.writeS; split <;> rfl
@[simp] theorem Group.writeS_m (g : Group) (r : Nat) (x : Word64) : (g.writeS r x).m = g.m := by
  unfold Group.writeS; split <;> rfl
@[simp] theorem Group.writeS_w (g : Group) (r : Nat) (x : Word64) : (g.writeS r x).w = g.w := by
  unfold Group.writeS; split <;> rfl
@[simp] theorem Group.writeS_t (g : Group) (r : Nat) (x : Word64) : (g.writeS r x).t = g.t := by
  unfold Group.writeS; split <;> rfl
@[simp] theorem Group.writeS_f (g : Group) (r : Nat) (x : Word64) : (g.writeS r x).f = g.f := by
  unfold Group.writeS; split <;> rfl
@[simp] theorem Group.writeS_ops (g : Group) (r : Nat) (x : Word64) : (g.writeS r x).ops = g.ops := by
  unfold Group.writeS; split <;> rfl
@[simp] theorem Group.writeS_deliveries (g : Group) (r : Nat) (x : Word64) : (g.writeS r x).deliveries = g.deliveries := by
  unfold Group.writeS; split <;> rfl
@[simp] theorem Group.writeS_tlost (g : Group) (r : Nat) (x : Word64) : (g.writeS r x).tlost = g.tlost := by
  unfold Group.writeS; split <;> rfl
@[simp] theorem Group.writeS_edge (g : Group) (r : Nat) (x : Word64) : (g.writeS r x).edge = g.edge := by
  unfold Group.writeS; split <;> rfl
@[simp] theorem Group.writeS_splits (g : Group) (r : Nat) (x : Word64) : (g.writeS r x).splits = g.splits := by
  unfold Group.writeS; split <;> rfl
@[simp] theorem Group.writeS_stack (g : Group) (r : Nat) (x : Word64) : (g.writeS r x).stack = g.stack := by
  unfold Group.writeS; split <;> rfl
@[simp] theorem Group.writeS_crit (g : Group) (r : Nat) (x : Word64) : (g.writeS r x).crit = g.crit := by
  unfold Group.writeS; split <;> rfl
@[simp] theorem Group.writeS_critSince (g : Group) (r : Nat) (x : Word64) : (g.writeS r x).critSince = g.critSince := by
  unfold Group.writeS; split <;> rfl
@[simp] theorem Group.writeS_critSpent (g : Group) (r : Nat) (x : Word64) : (g.writeS r x).critSpent = g.critSpent := by
  unfold Group.writeS; split <;> rfl
@[simp] theorem Group.writeS_mxstat (g : Group) (r : Nat) (x : Word64) : (g.writeS r x).mxstat = g.mxstat := by
  unfold Group.writeS; split <;> rfl
@[simp] theorem Group.writeS_latch (g : Group) (r : Nat) (x : Word64) : (g.writeS r x).latch = g.latch := by
  unfold Group.writeS; split <;> rfl
@[simp] theorem Group.writeS_faults (g : Group) (r : Nat) (x : Word64) : (g.writeS r x).faults = g.faults := by
  unfold Group.writeS; split <;> rfl
@[simp] theorem Group.writeS_faultLane (g : Group) (r : Nat) (x : Word64) : (g.writeS r x).faultLane = g.faultLane := by
  unfold Group.writeS; split <;> rfl
@[simp] theorem Group.writeS_faultWord (g : Group) (r : Nat) (x : Word64) : (g.writeS r x).faultWord = g.faultWord := by
  unfold Group.writeS; split <;> rfl
@[simp] theorem Group.writeS_horizon (g : Group) (r : Nat) (x : Word64) : (g.writeS r x).horizon = g.horizon := by
  unfold Group.writeS; split <;> rfl
@[simp] theorem Group.writeS_groupHorizon (g : Group) (r : Nat) (x : Word64) : (g.writeS r x).groupHorizon = g.groupHorizon := by
  unfold Group.writeS; split <;> rfl
@[simp] theorem Group.writeS_wrote (g : Group) (r : Nat) (x : Word64) : (g.writeS r x).wrote = g.wrote := by
  unfold Group.writeS; split <;> rfl
@[simp] theorem Group.writeS_clsStamp (g : Group) (r : Nat) (x : Word64) : (g.writeS r x).clsStamp = g.clsStamp := by
  unfold Group.writeS; split <;> rfl
@[simp] theorem Group.writeS_seen (g : Group) (r : Nat) (x : Word64) : (g.writeS r x).seen = g.seen := by
  unfold Group.writeS; split <;> rfl
@[simp] theorem Group.writeS_fences (g : Group) (r : Nat) (x : Word64) : (g.writeS r x).fences = g.fences := by
  unfold Group.writeS; split <;> rfl
@[simp] theorem Group.writeS_rewind (g : Group) (r : Nat) (x : Word64) : (g.writeS r x).rewind = g.rewind := by
  unfold Group.writeS; split <;> rfl
@[simp] theorem Group.writeS_record (g : Group) (r : Nat) (x : Word64) : (g.writeS r x).record = g.record := by
  unfold Group.writeS; split <;> rfl
@[simp] theorem Group.writeS_recipes (g : Group) (r : Nat) (x : Word64) : (g.writeS r x).recipes = g.recipes := by
  unfold Group.writeS; split <;> rfl
@[simp] theorem Group.writeS_drain (g : Group) (r : Nat) (x : Word64) : (g.writeS r x).drain = g.drain := by
  unfold Group.writeS; split <;> rfl
@[simp] theorem Group.writeS_preempt (g : Group) (r : Nat) (x : Word64) : (g.writeS r x).preempt = g.preempt := by
  unfold Group.writeS; split <;> rfl
@[simp] theorem Group.writeS_escalated (g : Group) (r : Nat) (x : Word64) : (g.writeS r x).escalated = g.escalated := by
  unfold Group.writeS; split <;> rfl
@[simp] theorem Group.writeS_answered (g : Group) (r : Nat) (x : Word64) : (g.writeS r x).answered = g.answered := by
  unfold Group.writeS; split <;> rfl
@[simp] theorem Group.writeS_exitPc (g : Group) (r : Nat) (x : Word64) : (g.writeS r x).exitPc = g.exitPc := by
  unfold Group.writeS; split <;> rfl
@[simp] theorem Group.writeS_waitedCycles (g : Group) (r : Nat) (x : Word64) : (g.writeS r x).waitedCycles = g.waitedCycles := by
  unfold Group.writeS; split <;> rfl
@[simp] theorem Group.writeS_waitSince (g : Group) (r : Nat) (x : Word64) : (g.writeS r x).waitSince = g.waitSince := by
  unfold Group.writeS; split <;> rfl
@[simp] theorem Group.writeS_gctx (g : Group) (r : Nat) (x : Word64) : (g.writeS r x).gctx = g.gctx := by
  unfold Group.writeS; split <;> rfl

@[simp] theorem Group.writeT_life (g : Group) (r d l : Nat) (x : Word32) : (g.writeT r d l x).life = g.life := by
  unfold Group.writeT; split <;> rfl
@[simp] theorem Group.writeT_ctx (g : Group) (r d l : Nat) (x : Word32) : (g.writeT r d l x).ctx = g.ctx := by
  unfold Group.writeT; split <;> rfl
@[simp] theorem Group.writeT_grid (g : Group) (r d l : Nat) (x : Word32) : (g.writeT r d l x).grid = g.grid := by
  unfold Group.writeT; split <;> rfl
@[simp] theorem Group.writeT_gang (g : Group) (r d l : Nat) (x : Word32) : (g.writeT r d l x).gang = g.gang := by
  unfold Group.writeT; split <;> rfl
@[simp] theorem Group.writeT_prio (g : Group) (r d l : Nat) (x : Word32) : (g.writeT r d l x).prio = g.prio := by
  unfold Group.writeT; split <;> rfl
@[simp] theorem Group.writeT_decl (g : Group) (r d l : Nat) (x : Word32) : (g.writeT r d l x).decl = g.decl := by
  unfold Group.writeT; split <;> rfl
@[simp] theorem Group.writeT_pos (g : Group) (r d l : Nat) (x : Word32) : (g.writeT r d l x).pos = g.pos := by
  unfold Group.writeT; split <;> rfl
@[simp] theorem Group.writeT_v (g : Group) (r d l : Nat) (x : Word32) : (g.writeT r d l x).v = g.v := by
  unfold Group.writeT; split <;> rfl
@[simp] theorem Group.writeT_s (g : Group) (r d l : Nat) (x : Word32) : (g.writeT r d l x).s = g.s := by
  unfold Group.writeT; split <;> rfl
@[simp] theorem Group.writeT_m (g : Group) (r d l : Nat) (x : Word32) : (g.writeT r d l x).m = g.m := by
  unfold Group.writeT; split <;> rfl
@[simp] theorem Group.writeT_w (g : Group) (r d l : Nat) (x : Word32) : (g.writeT r d l x).w = g.w := by
  unfold Group.writeT; split <;> rfl
@[simp] theorem Group.writeT_t (g : Group) (r d l : Nat) (x : Word32) : (g.writeT r d l x).t = g.t := by
  unfold Group.writeT; split <;> rfl
@[simp] theorem Group.writeT_f (g : Group) (r d l : Nat) (x : Word32) : (g.writeT r d l x).f = g.f := by
  unfold Group.writeT; split <;> rfl
@[simp] theorem Group.writeT_ops (g : Group) (r d l : Nat) (x : Word32) : (g.writeT r d l x).ops = g.ops := by
  unfold Group.writeT; split <;> rfl
@[simp] theorem Group.writeT_deliveries (g : Group) (r d l : Nat) (x : Word32) : (g.writeT r d l x).deliveries = g.deliveries := by
  unfold Group.writeT; split <;> rfl
@[simp] theorem Group.writeT_tlost (g : Group) (r d l : Nat) (x : Word32) : (g.writeT r d l x).tlost = g.tlost := by
  unfold Group.writeT; split <;> rfl
@[simp] theorem Group.writeT_edge (g : Group) (r d l : Nat) (x : Word32) : (g.writeT r d l x).edge = g.edge := by
  unfold Group.writeT; split <;> rfl
@[simp] theorem Group.writeT_splits (g : Group) (r d l : Nat) (x : Word32) : (g.writeT r d l x).splits = g.splits := by
  unfold Group.writeT; split <;> rfl
@[simp] theorem Group.writeT_stack (g : Group) (r d l : Nat) (x : Word32) : (g.writeT r d l x).stack = g.stack := by
  unfold Group.writeT; split <;> rfl
@[simp] theorem Group.writeT_crit (g : Group) (r d l : Nat) (x : Word32) : (g.writeT r d l x).crit = g.crit := by
  unfold Group.writeT; split <;> rfl
@[simp] theorem Group.writeT_critSince (g : Group) (r d l : Nat) (x : Word32) : (g.writeT r d l x).critSince = g.critSince := by
  unfold Group.writeT; split <;> rfl
@[simp] theorem Group.writeT_critSpent (g : Group) (r d l : Nat) (x : Word32) : (g.writeT r d l x).critSpent = g.critSpent := by
  unfold Group.writeT; split <;> rfl
@[simp] theorem Group.writeT_mxstat (g : Group) (r d l : Nat) (x : Word32) : (g.writeT r d l x).mxstat = g.mxstat := by
  unfold Group.writeT; split <;> rfl
@[simp] theorem Group.writeT_latch (g : Group) (r d l : Nat) (x : Word32) : (g.writeT r d l x).latch = g.latch := by
  unfold Group.writeT; split <;> rfl
@[simp] theorem Group.writeT_faults (g : Group) (r d l : Nat) (x : Word32) : (g.writeT r d l x).faults = g.faults := by
  unfold Group.writeT; split <;> rfl
@[simp] theorem Group.writeT_faultLane (g : Group) (r d l : Nat) (x : Word32) : (g.writeT r d l x).faultLane = g.faultLane := by
  unfold Group.writeT; split <;> rfl
@[simp] theorem Group.writeT_faultWord (g : Group) (r d l : Nat) (x : Word32) : (g.writeT r d l x).faultWord = g.faultWord := by
  unfold Group.writeT; split <;> rfl
@[simp] theorem Group.writeT_horizon (g : Group) (r d l : Nat) (x : Word32) : (g.writeT r d l x).horizon = g.horizon := by
  unfold Group.writeT; split <;> rfl
@[simp] theorem Group.writeT_groupHorizon (g : Group) (r d l : Nat) (x : Word32) : (g.writeT r d l x).groupHorizon = g.groupHorizon := by
  unfold Group.writeT; split <;> rfl
@[simp] theorem Group.writeT_wrote (g : Group) (r d l : Nat) (x : Word32) : (g.writeT r d l x).wrote = g.wrote := by
  unfold Group.writeT; split <;> rfl
@[simp] theorem Group.writeT_clsStamp (g : Group) (r d l : Nat) (x : Word32) : (g.writeT r d l x).clsStamp = g.clsStamp := by
  unfold Group.writeT; split <;> rfl
@[simp] theorem Group.writeT_seen (g : Group) (r d l : Nat) (x : Word32) : (g.writeT r d l x).seen = g.seen := by
  unfold Group.writeT; split <;> rfl
@[simp] theorem Group.writeT_fences (g : Group) (r d l : Nat) (x : Word32) : (g.writeT r d l x).fences = g.fences := by
  unfold Group.writeT; split <;> rfl
@[simp] theorem Group.writeT_rewind (g : Group) (r d l : Nat) (x : Word32) : (g.writeT r d l x).rewind = g.rewind := by
  unfold Group.writeT; split <;> rfl
@[simp] theorem Group.writeT_record (g : Group) (r d l : Nat) (x : Word32) : (g.writeT r d l x).record = g.record := by
  unfold Group.writeT; split <;> rfl
@[simp] theorem Group.writeT_recipes (g : Group) (r d l : Nat) (x : Word32) : (g.writeT r d l x).recipes = g.recipes := by
  unfold Group.writeT; split <;> rfl
@[simp] theorem Group.writeT_drain (g : Group) (r d l : Nat) (x : Word32) : (g.writeT r d l x).drain = g.drain := by
  unfold Group.writeT; split <;> rfl
@[simp] theorem Group.writeT_preempt (g : Group) (r d l : Nat) (x : Word32) : (g.writeT r d l x).preempt = g.preempt := by
  unfold Group.writeT; split <;> rfl
@[simp] theorem Group.writeT_escalated (g : Group) (r d l : Nat) (x : Word32) : (g.writeT r d l x).escalated = g.escalated := by
  unfold Group.writeT; split <;> rfl
@[simp] theorem Group.writeT_answered (g : Group) (r d l : Nat) (x : Word32) : (g.writeT r d l x).answered = g.answered := by
  unfold Group.writeT; split <;> rfl
@[simp] theorem Group.writeT_exitPc (g : Group) (r d l : Nat) (x : Word32) : (g.writeT r d l x).exitPc = g.exitPc := by
  unfold Group.writeT; split <;> rfl
@[simp] theorem Group.writeT_waitedCycles (g : Group) (r d l : Nat) (x : Word32) : (g.writeT r d l x).waitedCycles = g.waitedCycles := by
  unfold Group.writeT; split <;> rfl
@[simp] theorem Group.writeT_waitSince (g : Group) (r d l : Nat) (x : Word32) : (g.writeT r d l x).waitSince = g.waitSince := by
  unfold Group.writeT; split <;> rfl
@[simp] theorem Group.writeT_gctx (g : Group) (r d l : Nat) (x : Word32) : (g.writeT r d l x).gctx = g.gctx := by
  unfold Group.writeT; split <;> rfl

@[simp] theorem Group.noteWrite_life (g : Group) (r : RegId) : (g.noteWrite r).life = g.life := by
  unfold Group.noteWrite; (repeat' split) <;> rfl
@[simp] theorem Group.noteWrite_ctx (g : Group) (r : RegId) : (g.noteWrite r).ctx = g.ctx := by
  unfold Group.noteWrite; (repeat' split) <;> rfl
@[simp] theorem Group.noteWrite_grid (g : Group) (r : RegId) : (g.noteWrite r).grid = g.grid := by
  unfold Group.noteWrite; (repeat' split) <;> rfl
@[simp] theorem Group.noteWrite_gang (g : Group) (r : RegId) : (g.noteWrite r).gang = g.gang := by
  unfold Group.noteWrite; (repeat' split) <;> rfl
@[simp] theorem Group.noteWrite_prio (g : Group) (r : RegId) : (g.noteWrite r).prio = g.prio := by
  unfold Group.noteWrite; (repeat' split) <;> rfl
@[simp] theorem Group.noteWrite_decl (g : Group) (r : RegId) : (g.noteWrite r).decl = g.decl := by
  unfold Group.noteWrite; (repeat' split) <;> rfl
@[simp] theorem Group.noteWrite_pos (g : Group) (r : RegId) : (g.noteWrite r).pos = g.pos := by
  unfold Group.noteWrite; (repeat' split) <;> rfl
@[simp] theorem Group.noteWrite_v (g : Group) (r : RegId) : (g.noteWrite r).v = g.v := by
  unfold Group.noteWrite; (repeat' split) <;> rfl
@[simp] theorem Group.noteWrite_tan (g : Group) (r : RegId) : (g.noteWrite r).tan = g.tan := by
  unfold Group.noteWrite; (repeat' split) <;> rfl
@[simp] theorem Group.noteWrite_s (g : Group) (r : RegId) : (g.noteWrite r).s = g.s := by
  unfold Group.noteWrite; (repeat' split) <;> rfl
@[simp] theorem Group.noteWrite_m (g : Group) (r : RegId) : (g.noteWrite r).m = g.m := by
  unfold Group.noteWrite; (repeat' split) <;> rfl
@[simp] theorem Group.noteWrite_w (g : Group) (r : RegId) : (g.noteWrite r).w = g.w := by
  unfold Group.noteWrite; (repeat' split) <;> rfl
@[simp] theorem Group.noteWrite_t (g : Group) (r : RegId) : (g.noteWrite r).t = g.t := by
  unfold Group.noteWrite; (repeat' split) <;> rfl
@[simp] theorem Group.noteWrite_f (g : Group) (r : RegId) : (g.noteWrite r).f = g.f := by
  unfold Group.noteWrite; (repeat' split) <;> rfl
@[simp] theorem Group.noteWrite_ops (g : Group) (r : RegId) : (g.noteWrite r).ops = g.ops := by
  unfold Group.noteWrite; (repeat' split) <;> rfl
@[simp] theorem Group.noteWrite_deliveries (g : Group) (r : RegId) : (g.noteWrite r).deliveries = g.deliveries := by
  unfold Group.noteWrite; (repeat' split) <;> rfl
@[simp] theorem Group.noteWrite_tlost (g : Group) (r : RegId) : (g.noteWrite r).tlost = g.tlost := by
  unfold Group.noteWrite; (repeat' split) <;> rfl
@[simp] theorem Group.noteWrite_edge (g : Group) (r : RegId) : (g.noteWrite r).edge = g.edge := by
  unfold Group.noteWrite; (repeat' split) <;> rfl
@[simp] theorem Group.noteWrite_splits (g : Group) (r : RegId) : (g.noteWrite r).splits = g.splits := by
  unfold Group.noteWrite; (repeat' split) <;> rfl
@[simp] theorem Group.noteWrite_stack (g : Group) (r : RegId) : (g.noteWrite r).stack = g.stack := by
  unfold Group.noteWrite; (repeat' split) <;> rfl
@[simp] theorem Group.noteWrite_crit (g : Group) (r : RegId) : (g.noteWrite r).crit = g.crit := by
  unfold Group.noteWrite; (repeat' split) <;> rfl
@[simp] theorem Group.noteWrite_critSince (g : Group) (r : RegId) : (g.noteWrite r).critSince = g.critSince := by
  unfold Group.noteWrite; (repeat' split) <;> rfl
@[simp] theorem Group.noteWrite_critSpent (g : Group) (r : RegId) : (g.noteWrite r).critSpent = g.critSpent := by
  unfold Group.noteWrite; (repeat' split) <;> rfl
@[simp] theorem Group.noteWrite_mxstat (g : Group) (r : RegId) : (g.noteWrite r).mxstat = g.mxstat := by
  unfold Group.noteWrite; (repeat' split) <;> rfl
@[simp] theorem Group.noteWrite_latch (g : Group) (r : RegId) : (g.noteWrite r).latch = g.latch := by
  unfold Group.noteWrite; (repeat' split) <;> rfl
@[simp] theorem Group.noteWrite_faults (g : Group) (r : RegId) : (g.noteWrite r).faults = g.faults := by
  unfold Group.noteWrite; (repeat' split) <;> rfl
@[simp] theorem Group.noteWrite_faultLane (g : Group) (r : RegId) : (g.noteWrite r).faultLane = g.faultLane := by
  unfold Group.noteWrite; (repeat' split) <;> rfl
@[simp] theorem Group.noteWrite_faultWord (g : Group) (r : RegId) : (g.noteWrite r).faultWord = g.faultWord := by
  unfold Group.noteWrite; (repeat' split) <;> rfl
@[simp] theorem Group.noteWrite_horizon (g : Group) (r : RegId) : (g.noteWrite r).horizon = g.horizon := by
  unfold Group.noteWrite; (repeat' split) <;> rfl
@[simp] theorem Group.noteWrite_groupHorizon (g : Group) (r : RegId) : (g.noteWrite r).groupHorizon = g.groupHorizon := by
  unfold Group.noteWrite; (repeat' split) <;> rfl
@[simp] theorem Group.noteWrite_wrote (g : Group) (r : RegId) : (g.noteWrite r).wrote = g.wrote := by
  unfold Group.noteWrite; (repeat' split) <;> rfl
@[simp] theorem Group.noteWrite_clsStamp (g : Group) (r : RegId) : (g.noteWrite r).clsStamp = g.clsStamp := by
  unfold Group.noteWrite; (repeat' split) <;> rfl
@[simp] theorem Group.noteWrite_seen (g : Group) (r : RegId) : (g.noteWrite r).seen = g.seen := by
  unfold Group.noteWrite; (repeat' split) <;> rfl
@[simp] theorem Group.noteWrite_fences (g : Group) (r : RegId) : (g.noteWrite r).fences = g.fences := by
  unfold Group.noteWrite; (repeat' split) <;> rfl
@[simp] theorem Group.noteWrite_record (g : Group) (r : RegId) : (g.noteWrite r).record = g.record := by
  unfold Group.noteWrite; (repeat' split) <;> rfl
@[simp] theorem Group.noteWrite_recipes (g : Group) (r : RegId) : (g.noteWrite r).recipes = g.recipes := by
  unfold Group.noteWrite; (repeat' split) <;> rfl
@[simp] theorem Group.noteWrite_drain (g : Group) (r : RegId) : (g.noteWrite r).drain = g.drain := by
  unfold Group.noteWrite; (repeat' split) <;> rfl
@[simp] theorem Group.noteWrite_preempt (g : Group) (r : RegId) : (g.noteWrite r).preempt = g.preempt := by
  unfold Group.noteWrite; (repeat' split) <;> rfl
@[simp] theorem Group.noteWrite_escalated (g : Group) (r : RegId) : (g.noteWrite r).escalated = g.escalated := by
  unfold Group.noteWrite; (repeat' split) <;> rfl
@[simp] theorem Group.noteWrite_answered (g : Group) (r : RegId) : (g.noteWrite r).answered = g.answered := by
  unfold Group.noteWrite; (repeat' split) <;> rfl
@[simp] theorem Group.noteWrite_exitPc (g : Group) (r : RegId) : (g.noteWrite r).exitPc = g.exitPc := by
  unfold Group.noteWrite; (repeat' split) <;> rfl
@[simp] theorem Group.noteWrite_waitedCycles (g : Group) (r : RegId) : (g.noteWrite r).waitedCycles = g.waitedCycles := by
  unfold Group.noteWrite; (repeat' split) <;> rfl
@[simp] theorem Group.noteWrite_waitSince (g : Group) (r : RegId) : (g.noteWrite r).waitSince = g.waitSince := by
  unfold Group.noteWrite; (repeat' split) <;> rfl
@[simp] theorem Group.noteWrite_gctx (g : Group) (r : RegId) : (g.noteWrite r).gctx = g.gctx := by
  unfold Group.noteWrite; (repeat' split) <;> rfl

/-! ## Reads after writes -/

@[simp] theorem Group.split_setSplit_self (g : Group) (e : Nat) (x : Split) : (g.setSplit e x).split e = x :=
  Sparse.get_set_self _ _ _

theorem Group.split_setSplit (g : Group) (e j : Nat) (x : Split) :
    (g.setSplit e x).split j = if j = e then x else g.split j := Sparse.get_set _ _ _ _

/-- s0 stays zero; any other scalar takes what is written (R25). -/
theorem Group.readS_writeS (g : Group) (r q : Nat) (x : Word64) :
    (g.writeS r x).readS q = if q = r ∧ r ≠ 0 then x else g.readS q := by
  unfold Group.readS Group.writeS
  by_cases hr : r = 0
  · simp [hr]
  · by_cases hq : q = 0
    · subst hq
      simp [hr, Ne.symm hr]
    · simp [hr, hq, Sparse.get_set]

theorem Group.readM_writeM (g : Group) (k j : Nat) (x : Word32) :
    (g.writeM k x).readM j = if j = k then x else g.readM j := Sparse.get_set _ _ _ _

theorem Group.window_setWindow (g : Group) (k j : Nat) (x : Window) :
    (g.setWindow k x).window j = if j = k then x else g.window j := Sparse.get_set _ _ _ _

theorem Group.tile_setTile (g : Group) (k j : Nat) (x : Run) :
    (g.setTile k x).tile j = if j = k then x else g.tile j := Sparse.get_set _ _ _ _

theorem Group.factor_setFactor (g : Group) (k j : Nat) (x : FBind) :
    (g.setFactor k x).factor j = if j = k then x else g.factor j := Sparse.get_set _ _ _ _

/-- Lanes below 32 of different registers never meet. -/
theorem Group.readV_writeV (g : Group) {r q l j : Nat} (x : Word32) (hl : l < 32) (hj : j < 32) :
    (g.writeV r l x).readV q j = if q = r ∧ j = l then x else g.readV q j := by
  unfold Group.readV Group.writeV
  rw [Sparse.get_set]
  have e : 32 * q + j = 32 * r + l ↔ q = r ∧ j = l := by omega
  simp only [e]

/-- A register outside the dual range keeps no tangent (R79). -/
theorem Group.readT_writeT (g : Group) {r q d c l j : Nat} (x : Word32) (hl : l < 32) (hj : j < 32) (hr : r < 256)
    (hq : q < 256) :
    (g.writeT r d l x).readT q c j = if (q = r ∧ c = d ∧ j = l) ∧ g.dual r = true then x else g.readT q c j := by
  have e : (256 * c + q) * 32 + j = (256 * d + r) * 32 + l ↔ q = r ∧ c = d ∧ j = l := by omega
  have hw : ∀ k, (g.writeT r d l x).dual k = g.dual k := fun k => by unfold Group.dual; rw [Group.writeT_decl]
  have ht : (g.writeT r d l x).tan =
      if g.dual r = true then Sparse.set 0 g.tan ((256 * d + r) * 32 + l) x else g.tan := by
    unfold Group.writeT; split <;> rfl
  simp only [Group.readT, hw, ht]
  by_cases hu : g.dual r = true
  · by_cases hk : q = r
    · subst hk
      simp [hu, Sparse.get_set, e]
    · simp [hu, Sparse.get_set, e, hk]
  · simp [hu]

end Sys2Proof.Machine
end

