-- ==== Sys2Proof/Laws/Ops.lean ====
section
/-!
SUPPORT. One lemma for each shared operation on the issuing group that says what it does: a move of the split, a write of
a scalar or a mask, a trap.
-/

namespace Sys2Proof.Machine

variable (s : State)

/-! ## The issuing group and its split -/

@[simp] theorem State.spl_setGrp (g : Group) : (s.setGrp g).spl = g.split s.cur.entry := by
  simp [State.spl]

theorem State.setGrp_setGrp_group (g g' : Group) (k : Nat) :
    ((s.setGrp g).setGrp g').group k = (s.setGrp g').group k := by
  simp only [State.group_setGrp, State.setGrp_cur]; split <;> rfl

/-- A change of the issuing group alone: the rest of the state stands. -/
theorem State.setGrp_only (g : Group) :
    s.setGrp g = { s with groups := (s.setGrp g).groups } ∧ ∀ k, k ≠ s.cur.gid → (s.setGrp g).group k = s.group k :=
  ⟨rfl, fun k hk => by simp [State.group_setGrp, hk]⟩

@[simp] theorem State.goto_cur (pc : Addr52) : (s.goto pc).cur = s.cur := rfl

/-- A move of the split changes its PC and nothing else. -/
@[simp] theorem State.grp_goto (pc : Addr52) : (s.goto pc).grp = s.grp.setSplit s.cur.entry { s.spl with pc := pc } := by
  simp [State.goto]

@[simp] theorem State.spl_goto (pc : Addr52) : (s.goto pc).spl = { s.spl with pc := pc } := by simp [State.goto]

theorem State.split_goto (pc : Addr52) {e : Nat} (he : e ≠ s.cur.entry) :
    (s.goto pc).grp.split e = s.grp.split e := by simp [Group.split_setSplit, he]

theorem State.goto_only (pc : Addr52) :
    s.goto pc = { s with groups := (s.goto pc).groups } ∧ ∀ k, k ≠ s.cur.gid → (s.goto pc).group k = s.group k :=
  s.setGrp_only _

/-! ## Writes of scalars and masks -/

@[simp] theorem State.putS_cur (d : Nat) (x : Word64) : (s.putS d x).cur = s.cur := rfl

@[simp] theorem State.grp_putS (d : Nat) (x : Word64) : (s.putS d x).grp = (s.grp.writeS d x).noteWrite (.s d) := by
  simp [State.putS]

@[simp] theorem State.spl_putS (d : Nat) (x : Word64) : (s.putS d x).spl = s.spl := by
  simp [State.spl, Group.split]

@[simp] theorem State.putM_cur (k : Nat) (x : Word32) : (s.putM k x).cur = s.cur := rfl

@[simp] theorem State.grp_putM (k : Nat) (x : Word32) : (s.putM k x).grp = (s.grp.writeM k x).noteWrite (.m k) := by
  simp [State.putM]

@[simp] theorem State.spl_putM (k : Nat) (x : Word32) : (s.putM k x).spl = s.spl := by
  simp [State.spl, Group.split]

theorem State.putS_only (d : Nat) (x : Word64) :
    s.putS d x = { s with groups := (s.putS d x).groups } ∧
      ∀ k, k ≠ s.cur.gid → (s.putS d x).group k = s.group k := s.setGrp_only _

theorem State.putM_only (k : Nat) (x : Word32) :
    s.putM k x = { s with groups := (s.putM k x).groups } ∧
      ∀ j, j ≠ s.cur.gid → (s.putM k x).group j = s.group j := s.setGrp_only _

/-- A register write changes rewind-allowed only through the saved set (R334). -/
theorem Group.noteWrite_rewind (g : Group) (r : RegId) :
    (g.noteWrite r).rewind = (g.rewind && !(match g.record with | none => false | some x => x.saved.has g.decl.c r)) := by
  unfold Group.noteWrite
  cases h : g.record with
  | none => simp
  | some x => by_cases hx : x.saved.has g.decl.c r <;> simp [hx]

/-- A noted write changes rewind-allowed and nothing else. -/
theorem Group.noteWrite_keep (g : Group) (r : RegId) : g.noteWrite r = { g with rewind := (g.noteWrite r).rewind } := by
  unfold Group.noteWrite
  split
  · rfl
  · split <;> rfl

theorem Group.writeS_keep (g : Group) (r : Nat) (x : Word64) : g.writeS r x = { g with s := (g.writeS r x).s } := by
  unfold Group.writeS; split <;> rfl

/-! ## The PC after an instruction (R35) -/

theorem words1_bytes (h : Option Nat) (lit : Bool) :
    4 * words1 h lit = 4 + (if h.isSome then 8 else 0) + (if lit then 8 else 0) := by
  unfold words1; cases h <;> cases lit <;> rfl

/-- The next PC does not depend on the register written. -/
@[simp] theorem State.advance_putS (d : Nat) (x : Word64) (n : Nat) :
    (s.putS d x).advance n = (s.putS d x).goto (s.pcPlus n) := by simp [State.advance, State.pcPlus, State.pc]

@[simp] theorem State.advance_putM (k : Nat) (x : Word32) (n : Nat) :
    (s.putM k x).advance n = (s.putM k x).goto (s.pcPlus n) := by simp [State.advance, State.pcPlus, State.pc]

/-! ## Taking a trap (R121) -/

/-- The two outcomes of a trap: the stack has no room, and the group takes a double fault (R123); or the group takes the
trap, with the lane faults filed where the cause files them, and no other group changes. -/
theorem State.trap_cases (gid e : Nat) (fm : Word32) (cause : Nat) (pc : Addr52) (faults : List (Nat × LaneFault)) :
    (32 < (s.group gid).depth + (if ((s.group gid).split e).mask &&& ~~~fm = 0 then 1 else 2) ∧
      s.trap gid e fm cause pc faults = s.doubleFault gid) ∨
    ((s.group gid).depth + (if ((s.group gid).split e).mask &&& ~~~fm = 0 then 1 else 2) ≤ 32 ∧
      ∃ g : Group, s.trap gid e fm cause pc faults =
          s.setGroup gid (g.pushTrap e fm cause pc (s.context (s.group gid).ctx).handler) ∧
        g = { s.group gid with rewind := false, faults := g.faults } ∧
        (filesFault cause = false → g.faults = (s.group gid).faults)) := by
  by_cases h : 32 < (s.group gid).depth + (if ((s.group gid).split e).mask &&& ~~~fm = 0 then 1 else 2)
  · exact .inl ⟨h, if_pos h⟩
  · refine .inr ⟨Nat.le_of_not_lt h, _, if_neg h, ?_, ?_⟩
    · split <;> rfl
    · intro hf; simp [hf]

/-- Holding the other splits writes the split table alone. -/
theorem Group.holdOthers_keep (g : Group) (e : Nat) : g.holdOthers e = { g with splits := (g.holdOthers e).splits } := by
  have key : ∀ (ks : List Nat) (g : Group),
      ks.foldl (fun g k => if k ≠ e ∧ (g.split k).v ∧ (g.split k).state ≠ .held then
          g.setSplit k { g.split k with state := .held, hstate := (g.split k).state } else g) g =
        { g with splits := (ks.foldl (fun g k => if k ≠ e ∧ (g.split k).v ∧ (g.split k).state ≠ .held then
          g.setSplit k { g.split k with state := .held, hstate := (g.split k).state } else g) g).splits } := by
    intro ks
    induction ks with
    | nil => exact fun _ => rfl
    | cons k ks ih =>
      intro g
      rw [List.foldl_cons, ih]
      split <;> rfl
  exact key _ g

/-- What taking a trap writes of the group: the stack, the state, the lowest trapping lane and the split table. -/
theorem Group.pushTrap_keep (g : Group) (e : Nat) (fm : Word32) (cause : Nat) (pc handler : Addr52) :
    g.pushTrap e fm cause pc handler = { g with
      life := .trapped, faultLane := lowLane fm, splits := (g.pushTrap e fm cause pc handler).splits,
      stack := ⟨cause, (g.split e).tok, .trap, (g.split e).sup, fm, pc, 0⟩ ::
        (if (g.split e).mask &&& ~~~fm = 0 then g.stack
          else ⟨0, (g.split e).tok, .deferred, (g.split e).sup, (g.split e).mask &&& ~~~fm, (g.split e).pc, 0⟩ ::
            g.stack) } := by
  unfold Group.pushTrap
  rw [Group.holdOthers_keep]
  rfl

end Sys2Proof.Machine
end

