-- ==== Sys2Proof/Laws/Lanes.lean ====
section
/-!
SUPPORT. What the operations over vector registers do: reads after writes, a form that works in every lane of em, seen in
one lane at a time, and the guard of the register limits.
-/

namespace Sys2Proof.Machine

variable (g : Group)

/-! ## Reads after writes -/

@[simp] theorem Group.readV_writeT (r d l q k : Nat) (x : Word32) : (g.writeT r d l x).readV q k = g.readV q k := by
  unfold Group.writeT; split <;> rfl

@[simp] theorem Group.readT_writeV (r l q e k : Nat) (x : Word32) : (g.writeV r l x).readT q e k = g.readT q e k := rfl

/-- The flags after one is set in a lane. -/
theorem Group.tlost_setTlost {l k : Nat} (hk : k < 32) :
    (g.setTlost l).tlost.getLsbD k = (g.tlost.getLsbD k || decide (k = l)) := by
  simp [Group.setTlost, hk, eq_comm]

theorem Group.edge_setEdge {l k : Nat} (hk : k < 32) :
    (g.setEdge l).edge.getLsbD k = (g.edge.getLsbD k || decide (k = l)) := by
  simp [Group.setEdge, hk, eq_comm]

/-! ## The lanes of a mask -/

theorem mem_lanesOf {m : Word32} {l : Nat} : l ∈ lanesOf m ↔ l < 32 ∧ m.getLsbD l = true := by
  simp [lanesOf]

theorem lanesOf_nodup (m : Word32) : (lanesOf m).Nodup := List.Nodup.filter _ List.nodup_range

theorem lanesOf_zero : lanesOf 0 = [] := by decide

/-- What a lane form leaves in one lane: where the work of lane l changes only what lane l shows, a lane of em shows what
its own work made of the group as it stood, and another lane shows what it showed. -/
theorem Group.eachLane_lane {α : Type} (em : Word32) (f : Group → Nat → Group → Group) (see : Nat → Group → α)
    (other : ∀ l k acc, l < 32 → l ≠ k → see k (f g l acc) = see k acc)
    (same : ∀ l acc acc', l < 32 → see l acc = see l acc' → see l (f g l acc) = see l (f g l acc')) {k : Nat} (hk : k < 32) :
    see k (g.eachLane em f) = if em.getLsbD k then see k (f g k g) else see k g := by
  have key : ∀ (ls : List Nat) (acc : Group), ls.Nodup → (∀ l ∈ ls, l < 32) →
      see k (ls.foldl (fun acc l => f g l acc) acc) = if k ∈ ls then see k (f g k acc) else see k acc := by
    intro ls
    induction ls with
    | nil => intro acc _ _; simp
    | cons l ls ih =>
      intro acc hn hb
      obtain ⟨hl, hn⟩ := List.nodup_cons.1 hn
      rw [List.foldl_cons, ih _ hn fun x hx => hb x (List.mem_cons_of_mem _ hx)]
      by_cases hkl : k = l
      · subst hkl
        simp [hl]
      · have h1 := other l k acc (hb l List.mem_cons_self) (Ne.symm hkl)
        simp only [List.mem_cons, hkl, false_or]
        split
        · exact same k _ _ hk h1
        · exact h1
  rw [Group.eachLane, key _ _ (lanesOf_nodup em) fun l hl => (mem_lanesOf.1 hl).1]
  simp [mem_lanesOf, hk]

/-- What every lane's work leaves alone, the form leaves alone. -/
theorem Group.eachLane_keep {α : Type} (em : Word32) (f : Group → Nat → Group → Group) (see : Group → α)
    (h : ∀ l acc, see (f g l acc) = see acc) : see (g.eachLane em f) = see g := by
  have key : ∀ (ls : List Nat) (acc : Group), see (ls.foldl (fun acc l => f g l acc) acc) = see acc := by
    intro ls
    induction ls with
    | nil => exact fun _ => rfl
    | cons l ls ih => exact fun acc => by rw [List.foldl_cons, ih, h]
  exact key _ _

/-! ## Noted writes -/

/-- Noting writes of several registers clears rewind-allowed where one of them is in the saved set, and nothing else. -/
theorem Group.noteWrites (rs : List RegId) :
    rs.foldl (fun g r => g.noteWrite r) g = { g with rewind := g.rewind && !rs.any fun r =>
      match g.record with
      | none => false
      | some x => x.saved.has g.decl.c r } := by
  induction rs generalizing g with
  | nil => simp
  | cons r rs ih =>
    rw [List.foldl_cons, ih, Group.noteWrite_keep g r]
    simp only [Group.noteWrite_rewind, List.any_cons, Bool.not_or, Bool.and_assoc]
    try rfl

/-! ## Lane forms -/

variable (s : State)

/-- A lane form changes the issuing group and nothing else of the machine, and its split goes n words on. -/
theorem State.laneOp_only (n : Nat) (rs : List Nat) (f : Group → Nat → Group → Group) :
    s.laneOp n rs f = { s with groups := (s.laneOp n rs f).groups } ∧
      ∀ k, k ≠ s.cur.gid → (s.laneOp n rs f).group k = s.group k := by
  refine ⟨rfl, fun k hk => ?_⟩
  simp [State.laneOp, State.advance, State.goto, State.group_setGrp, hk]

/-- The group after a lane form: the work of the lanes, the noted writes, and the PC. -/
theorem State.laneOp_grp (n : Nat) (rs : List Nat) (f : Group → Nat → Group → Group)
    (hf : ∀ l acc, (f s.grp l acc).splits = acc.splits) :
    (s.laneOp n rs f).grp =
      (if s.em = 0 then s.grp.eachLane s.em f
        else (rs.map RegId.v).foldl (fun g r => g.noteWrite r) (s.grp.eachLane s.em f)).setSplit s.cur.entry
        { s.spl with pc := s.pcPlus n } := by
  have hs : (s.grp.eachLane s.em f).splits = s.grp.splits := Group.eachLane_keep _ _ _ Group.splits hf
  have hn : ((rs.map RegId.v).foldl (fun g r => g.noteWrite r) (s.grp.eachLane s.em f)).splits = s.grp.splits := by
    rw [Group.noteWrites]; exact hs
  have hsplit : ∀ g' : Group, g'.splits = s.grp.splits → g'.split s.cur.entry = s.spl := by
    intro g' h; simp [Group.split, State.spl, h]
  simp only [State.laneOp, State.advance, State.grp_goto, State.grp_setGrp, State.setGrp_cur, State.spl_setGrp,
    State.pcPlus, State.pc]
  rw [List.foldl_map] at hn ⊢
  split
  · rw [hsplit _ hs]
  · rw [hsplit _ hn]

/-- Registers below C: the form runs (R52). -/
theorem State.guardRegs_ok {rs : List Nat} (k : State → State) (h : ∀ r ∈ rs, r < s.grp.decl.c) :
    s.guardRegs rs k = .next (k s) := by
  have : s.fits rs = true := by simpa [State.fits] using h
  simp [State.guardRegs, this]

/-- A register that is not: detail 6 (R52). -/
theorem State.guardRegs_not {rs : List Nat} (k : State → State) (h : ∃ r ∈ rs, s.grp.decl.c ≤ r) :
    s.guardRegs rs k = .next (s.illegal 6) := by
  have : s.fits rs = false := by
    obtain ⟨r, hr, hc⟩ := h
    simpa [State.fits] using ⟨r, hr, hc⟩
  simp [State.guardRegs, this]

theorem vecForm_ok {regs dests : List Nat} {f : Group → Nat → Group → Group} (h : ∀ r ∈ regs, r < s.grp.decl.c) :
    vecForm regs dests f s = .next (s.laneOp 3 dests f) := State.guardRegs_ok s _ h

end Sys2Proof.Machine
end

