-- ==== Sys2Proof/Laws/Memory.lean ====
section
/-!
SUPPORT. What the operations over memory do, once each: every one keeps the canonical form of every memory, a write of a
run reads back, and every byte outside the run stands.
-/

namespace Sys2Proof.Machine

/-! ## The parts of the canonical form -/

theorem Die.wf_iff (d : Die) :
    d.wf = true ↔ Memory.wf d.mem = true ∧ Sparse.wf Mark.clear d.marks = true ∧ Memory.wf d.ws = true := by
  simp [Die.wf, and_assoc]

theorem Die.wf_reset : Die.reset.wf = true := by decide

theorem State.memoryWf_iff (s : State) :
    s.memoryWf = true ↔ Sparse.wf Die.reset s.dies = true ∧ (∀ p ∈ s.dies, p.2.wf = true) ∧
      Memory.wf s.hostMem = true ∧ Memory.wf s.peerMem = true := by
  simp [State.memoryWf, List.all_eq_true, and_assoc]

/-- A value that a sparse map holds is a listed one or the default. -/
theorem Sparse.get_mem_or {α : Type} (d : α) (m : Sparse α) (k : Nat) :
    Sparse.get d m k = d ∨ ∃ p ∈ m, p.2 = Sparse.get d m k := by
  induction m with
  | nil => exact .inl rfl
  | cons x n ih =>
    obtain ⟨j, v⟩ := x
    simp only [Sparse.get]
    split
    · exact .inr ⟨(j, v), by simp, rfl⟩
    · exact ih.imp id fun ⟨p, hp, h⟩ => ⟨p, List.mem_cons_of_mem _ hp, h⟩

theorem Sparse.mem_put {α : Type} {m : Sparse α} {k : Nat} {v : α} {p : Nat × α} (h : p ∈ Sparse.put m k v) :
    p = (k, v) ∨ p ∈ m := by
  induction m with
  | nil => exact .inl (by simpa [Sparse.put] using h)
  | cons x n ih =>
    obtain ⟨j, w⟩ := x
    simp only [Sparse.put] at h
    split at h
    · exact (List.mem_cons.1 h)
    · split at h
      · exact (List.mem_cons.1 h).imp id (List.mem_cons_of_mem _)
      · rcases List.mem_cons.1 h with h | h
        · exact .inr (h ▸ List.mem_cons_self)
        · exact (ih h).imp id (List.mem_cons_of_mem _)

/-- What a map lists after a write was written or was listed before. -/
theorem Sparse.mem_set {α : Type} [DecidableEq α] {d : α} {m : Sparse α} {k : Nat} {v : α} {p : Nat × α}
    (h : p ∈ Sparse.set d m k v) : p = (k, v) ∨ p ∈ m := by
  unfold Sparse.set at h
  split at h
  · exact .inr (List.mem_filter.1 h).1
  · exact Sparse.mem_put h

variable {s : State}

/-- Every die of a state in canonical form is in canonical form. -/
theorem State.memoryWf_die (h : s.memoryWf = true) (k : Nat) : (s.die k).wf = true := by
  obtain ⟨-, hd, -⟩ := s.memoryWf_iff.1 h
  rcases Sparse.get_mem_or Die.reset s.dies k with e | ⟨p, hp, e⟩
  · simpa [State.die, e] using Die.wf_reset
  · simpa [State.die, e] using hd p hp

/-- Giving a die a value in canonical form keeps the canonical form. -/
theorem State.memoryWf_setDie (h : s.memoryWf = true) (k : Nat) {d : Die} (hd : d.wf = true) :
    (s.setDie k d).memoryWf = true := by
  obtain ⟨h1, h2, h3⟩ := s.memoryWf_iff.1 h
  refine (State.memoryWf_iff _).2 ⟨Sparse.wf_set h1 k d, fun p hp => ?_, h3⟩
  rcases Sparse.mem_set hp with rfl | hp
  · exact hd
  · exact h2 p hp

/-- A change that leaves the dies and the memories outside alone keeps the canonical form. -/
theorem State.memoryWf_congr {t : State} (h : s.memoryWf = true) (hd : t.dies = s.dies) (hh : t.hostMem = s.hostMem)
    (hp : t.peerMem = s.peerMem) : t.memoryWf = true := by
  simpa [State.memoryWf, hd, hh, hp] using h

theorem State.memoryWf_reset : State.reset.memoryWf = true := by decide

/-! ## Writes of HBM -/

theorem Die.wf_putByte {d : Die} (h : d.wf = true) (pa : Nat) (b : Byte) (m : Mark) : (d.putByte pa b m).wf = true := by
  obtain ⟨h1, h2, h3⟩ := d.wf_iff.1 h
  unfold Die.putByte
  split
  · exact (Die.wf_iff _).2 ⟨Sparse.wf_set h1 pa b, Sparse.wf_set h2 pa m, h3⟩
  · exact h

theorem Die.wf_putBytes {d : Die} (h : d.wf = true) (pa : Nat) (m : Mark) (bs : List Byte) :
    (d.putBytes pa m bs).wf = true := by
  induction bs generalizing d pa with
  | nil => exact h
  | cons b bs ih => exact ih (Die.wf_putByte h pa b m) (pa + 1)

/-- A die that applies a write stays in canonical form (R281). -/
theorem Die.wf_apply {d : Die} (h : d.wf = true) (w : HeldWrite) : (d.apply w).wf = true := by
  have key : ∀ (ps : List Part) (d : Die), d.wf = true →
      (ps.foldl (fun d p => d.putBytes p.pa ⟨w.seq, w.stamp, p.poison, false⟩ p.bytes) d).wf = true := by
    intro ps
    induction ps with
    | nil => exact fun _ h => h
    | cons p ps ih => exact fun d h => ih _ (Die.wf_putBytes h _ _ _)
  have := key w.parts d h
  simpa [Die.apply, Die.wf] using this

/-- A write of HBM keeps the canonical form of every memory (R281). -/
theorem State.memoryWf_writeParts (h : s.memoryWf = true) (e : Nat) (now : List Nat) (parts : List Part)
    (carry : Stamp) : (s.writeParts e now parts carry).1.memoryWf = true := by
  simp only [State.writeParts]
  generalize (⟨e, _, _, parts⟩ : HeldWrite) = w
  have key : ∀ (ks : List Nat) (t : State), t.memoryWf = true →
      (ks.foldl (fun s k => if k = e ∨ k ∈ now then s.setDie k ((s.die k).apply w)
        else s.setDie k { (s.die k) with held := (s.die k).held ++ [w] }) t).memoryWf = true := by
    intro ks
    induction ks with
    | nil => exact fun _ h => h
    | cons k ks ih =>
      intro t h
      refine ih _ ?_
      beta_reduce
      split
      · exact State.memoryWf_setDie h k (Die.wf_apply (State.memoryWf_die h k) w)
      · exact State.memoryWf_setDie h k (by simpa [Die.wf] using State.memoryWf_die h k)
  exact key _ _ (State.memoryWf_congr h rfl rfl rfl)

theorem State.memoryWf_writeHbm (h : s.memoryWf = true) (e : Nat) (now : List Nat) (pa : Nat) (bytes : List Byte)
    (carry : Stamp) (poison : Bool) : (s.writeHbm e now pa bytes carry poison).1.memoryWf = true :=
  State.memoryWf_writeParts h e now _ carry

/-! ## Peer and host memory, and places -/

theorem State.memoryWf_unbuffer (h : s.memoryWf = true) (die pa n : Nat) : (s.unbuffer die pa n).memoryWf = true :=
  State.memoryWf_setDie h die (by simpa [Die.wf] using State.memoryWf_die h die)

theorem State.memoryWf_bufferPeer (h : s.memoryWf = true) (die pa : Nat) (bytes : List Byte) :
    (s.bufferPeer die pa bytes).memoryWf = true :=
  State.memoryWf_setDie h die (by simpa [Die.wf] using State.memoryWf_die h die)

theorem State.memoryWf_dropPeerBuf (h : s.memoryWf = true) (die : Nat) : (s.dropPeerBuf die).memoryWf = true :=
  State.memoryWf_setDie h die (by simpa [Die.wf] using State.memoryWf_die h die)

theorem State.memoryWf_hostMem (h : s.memoryWf = true) (pa : Nat) (bytes : List Byte) :
    ({ s with hostMem := Sparse.setRange 0 s.hostMem pa bytes } : State).memoryWf = true := by
  obtain ⟨h1, h2, h3, h4⟩ := s.memoryWf_iff.1 h
  exact (State.memoryWf_iff _).2 ⟨h1, h2, Sparse.wf_setRange h3 pa bytes, h4⟩

theorem State.memoryWf_peerMem {m : Memory} (h : s.memoryWf = true) (hm : Memory.wf m = true) :
    ({ s with peerMem := m } : State).memoryWf = true := by
  obtain ⟨h1, h2, h3, -⟩ := s.memoryWf_iff.1 h
  exact (State.memoryWf_iff _).2 ⟨h1, h2, h3, hm⟩

theorem State.peerMem_wf (h : s.memoryWf = true) : Memory.wf s.peerMem = true := (s.memoryWf_iff.1 h).2.2.2

/-- A write at a physical address keeps the canonical form, whatever lies there (R345). -/
theorem State.memoryWf_writePhys (h : s.memoryWf = true) (die pa : Nat) (bytes : List Byte) (carry : Stamp)
    (poison : Bool) : (s.writePhys die pa bytes carry poison).1.memoryWf = true := by
  unfold State.writePhys
  split
  · exact State.memoryWf_writeHbm h ..
  · split
    · exact State.memoryWf_peerMem (State.memoryWf_unbuffer h ..) (Sparse.wf_setRange (State.peerMem_wf h) ..)
    · exact h
  · split
    · exact State.memoryWf_hostMem h ..
    · exact h
  · exact h

/-- An indivisible update keeps the canonical form, whatever it writes (R211, R244). -/
theorem State.memoryWf_updatePhys (h : s.memoryWf = true) (die pa n : Nat) (carry : Stamp) (poison : Bool)
    (f : List Byte → List Byte) : (s.updatePhys die pa n carry poison f).1.memoryWf = true := by
  unfold State.updatePhys
  split
  · exact State.memoryWf_writeHbm h ..
  · split
    · exact State.memoryWf_peerMem (State.memoryWf_unbuffer h ..) (Sparse.wf_setRange (State.peerMem_wf h) ..)
    · exact h
  · split
    · exact State.memoryWf_hostMem h ..
    · exact h
  · exact h

/-- A write at a place keeps the canonical form. -/
theorem State.memoryWf_writePlace (h : s.memoryWf = true) (die : Nat) (carry : Stamp) (p : Place) (bytes : List Byte)
    (poison : Bool) : (s.writePlace die carry p bytes poison).1.memoryWf = true := by
  unfold State.writePlace
  split
  · exact State.memoryWf_congr h rfl rfl rfl
  · exact h
  · exact State.memoryWf_writePhys h ..
  · exact h

/-! ## What a byte reads as after a write -/

/-- A byte of a run that no later write has reached reads as the run has it (R276). -/
theorem Die.putByte_mem (d : Die) (pa : Nat) (b : Byte) (m : Mark) (h : (d.mark pa).seq ≤ m.seq) (k : Nat) :
    Sparse.get 0 (d.putByte pa b m).mem k = if k = pa then b else Sparse.get 0 d.mem k := by
  simp [Die.putByte, h, Sparse.get_set]

/-- A byte that a write does not reach stands, with its mark. -/
theorem Die.putBytes_out (d : Die) (pa : Nat) (m : Mark) (bs : List Byte) {k : Nat} (hk : k < pa ∨ pa + bs.length ≤ k) :
    Sparse.get 0 (d.putBytes pa m bs).mem k = Sparse.get 0 d.mem k ∧ (d.putBytes pa m bs).mark k = d.mark k := by
  induction bs generalizing d pa with
  | nil => exact ⟨rfl, rfl⟩
  | cons b bs ih =>
    have hne : k ≠ pa := by simp at hk; omega
    obtain ⟨h1, h2⟩ := ih (d.putByte pa b m) (pa + 1) (by simp at hk; omega)
    simp only [Die.putBytes]
    rw [h1, h2]
    unfold Die.putByte Die.mark
    split <;> simp [Sparse.get_set, hne]

/-- A write of host memory reads back where the port is usable, and every other byte of it stands (R362). -/
theorem State.writePhys_host {die pa : Nat} {bytes : List Byte} {carry : Stamp} {poison : Bool}
    (hp : physKind pa = .host) (hu : s.hostUp = true) :
    s.writePhys die pa bytes carry poison = ({ s with hostMem := Sparse.setRange 0 s.hostMem pa bytes }, [], 0) := by
  simp [State.writePhys, hp, hu]

/-- Nothing backs the address: a write has no effect and raises the poison status (R345). -/
theorem State.writePhys_unbacked {die pa : Nat} {bytes : List Byte} {carry : Stamp} {poison : Bool}
    (hp : physKind pa = .unbacked) : s.writePhys die pa bytes carry poison = (s, [], stPoison) := by
  simp [State.writePhys, hp]

end Sys2Proof.Machine
end

