-- ==== Sys2Proof/Laws/PerInstr.lean ====
section
/-!
SUPPORT. A law of every instruction as syntax: an encoding has as many words as the LEN of its word 0 says (R35).
-/

namespace Sys2Proof.Laws

open Sys2Proof.Machine

/-- The words of an encoded instruction number as LEN says (R35). -/
def Sized.Statement (i : Instr) : Prop := ∀ f, encodeFrame i = some f → f.words.length = wordCount f.w0

/-- A one-word format: LEN counts the extension words and the literal. -/
theorem enc1_words (maj body : Nat) (h lit : Option Nat) (hb : body % 4 = 0) :
    (enc1 maj body h lit).words.length = wordCount (enc1 maj body h lit).w0 := by
  cases h <;> cases lit <;> simp [enc1, len1, Frame.words, wordCount] <;> (repeat' split) <;> omega

theorem encV_words (maj mn vd va : Nat) (b : VOp) (vc ty m3 h : Nat) :
    (encV maj mn vd va b vc ty m3 h).words.length = wordCount (encV maj mn vd va b vc ty m3 h).w0 := by
  have e : (mn * 2 ^ 27 + vd * 2 ^ 19 + va * 2 ^ 11 + b.bk * 2 ^ 9 + maj * 4 + 1) % 4 = 1 := by omega
  simp only [encV, Frame.words, wordCount, e]
  rfl

theorem encL_words (mn vd : Nat) (a : Addr) (du : Bool) (ty m3 vc : Nat) (o : Sync) (h : Nat) :
    (encL mn vd a du ty m3 vc o h).words.length = wordCount (encL mn vd a du ty m3 vc o h).w0 := by
  obtain ⟨sc, base, off⟩ := a
  cases off <;> simp [encL, Off.lit?, Frame.words, wordCount] <;> (repeat' split) <;> omega

theorem encE_words (mn vd va o sa : Nat) (bk : BarOp) (w ty op : Nat) (crit : Bool) (imm h : Nat) :
    (encE mn vd va o sa bk w ty op crit imm h).words.length =
      wordCount (encE mn vd va o sa bk w ty op crit imm h).w0 := by
  have e : (mn * 2 ^ 27 + vd * 2 ^ 19 + va * 2 ^ 11 + o * 2 ^ 9 + 0x60 * 4 + 1) % 4 = 1 := by omega
  simp only [encE, Frame.words, wordCount, e]
  rfl

theorem encMX_words (mn t sa sb dir sc : Nat) (bk : BarOp) (ty q imm h : Nat) :
    (encMX mn t sa sb dir sc bk ty q imm h).words.length =
      wordCount (encMX mn t sa sb dir sc bk ty q imm h).w0 := by
  have e : (mn * 2 ^ 27 + t * 2 ^ 23 + sa * 2 ^ 17 + sb * 2 ^ 11 + dir * 2 ^ 9 + 0x6C * 4 + 1) % 4 = 1 := by omega
  simp only [encMX, Frame.words, wordCount, e]
  rfl

theorem encFX_words (mn f va sa q imm h : Nat) :
    (encFX mn f va sa q imm h).words.length = wordCount (encFX mn f va sa q imm h).w0 := by
  have e : (mn * 2 ^ 27 + f * 2 ^ 25 + va * 2 ^ 17 + sa * 2 ^ 11 + 0x74 * 4 + 1) % 4 = 1 := by omega
  simp only [encFX, Frame.words, wordCount, e]
  rfl

theorem Sized.join (x0 : Nat) (x1 : Option Nat) : Sized.Statement (.join x0 x1) :=
  fun _ h => Option.some.inj h ▸ enc1_words _ _ _ _ (by omega)

theorem Sized.ret (x0 : Nat) (x1 : Option Nat) : Sized.Statement (.ret x0 x1) :=
  fun _ h => Option.some.inj h ▸ enc1_words _ _ _ _ (by omega)

theorem Sized.exit (x0 : Option Nat) : Sized.Statement (.exit x0) :=
  fun _ h => Option.some.inj h ▸ enc1_words _ _ _ _ (by omega)

theorem Sized.tret (x0 : Option Nat) : Sized.Statement (.tret x0) :=
  fun _ h => Option.some.inj h ▸ enc1_words _ _ _ _ (by omega)

theorem Sized.yield (x0 : Option Nat) : Sized.Statement (.yield x0) :=
  fun _ h => Option.some.inj h ▸ enc1_words _ _ _ _ (by omega)

theorem Sized.sleep (x0 : RegLit) (x1 : Option Nat) : Sized.Statement (.sleep x0 x1) :=
  fun _ h => Option.some.inj h ▸ enc1_words _ _ _ _ (by omega)

theorem Sized.bri (x0 : Nat) (x1 : Option Nat) : Sized.Statement (.bri x0 x1) :=
  fun _ h => Option.some.inj h ▸ enc1_words _ _ _ _ (by omega)

theorem Sized.calli (x0 : Nat) (x1 : Nat) (x2 : Nat) (x3 : Option Nat) : Sized.Statement (.calli x0 x1 x2 x3) :=
  fun _ h => Option.some.inj h ▸ enc1_words _ _ _ _ (by omega)

theorem Sized.briv (x0 : Nat) (x1 : Nat) (x2 : Nat) (x3 : Option Nat) : Sized.Statement (.briv x0 x1 x2 x3) :=
  fun _ h => Option.some.inj h ▸ enc1_words _ _ _ _ (by omega)

theorem Sized.br (x0 : Off) (x1 : Option Nat) : Sized.Statement (.br x0 x1) :=
  fun _ h => Option.some.inj h ▸ enc1_words _ _ _ _ (by omega)

theorem Sized.call (x0 : Off) (x1 : Option Nat) : Sized.Statement (.call x0 x1) :=
  fun _ h => Option.some.inj h ▸ enc1_words _ _ _ _ (by omega)

theorem Sized.bz (x0 : Nat) (x1 : Off) (x2 : Option Nat) : Sized.Statement (.bz x0 x1 x2) :=
  fun _ h => Option.some.inj h ▸ enc1_words _ _ _ _ (by omega)

theorem Sized.bnz (x0 : Nat) (x1 : Off) (x2 : Option Nat) : Sized.Statement (.bnz x0 x1 x2) :=
  fun _ h => Option.some.inj h ▸ enc1_words _ _ _ _ (by omega)

theorem Sized.bltz (x0 : Nat) (x1 : Off) (x2 : Option Nat) : Sized.Statement (.bltz x0 x1 x2) :=
  fun _ h => Option.some.inj h ▸ enc1_words _ _ _ _ (by omega)

theorem Sized.bgez (x0 : Nat) (x1 : Off) (x2 : Option Nat) : Sized.Statement (.bgez x0 x1 x2) :=
  fun _ h => Option.some.inj h ▸ enc1_words _ _ _ _ (by omega)

theorem Sized.bgtz (x0 : Nat) (x1 : Off) (x2 : Option Nat) : Sized.Statement (.bgtz x0 x1 x2) :=
  fun _ h => Option.some.inj h ▸ enc1_words _ _ _ _ (by omega)

theorem Sized.blez (x0 : Nat) (x1 : Off) (x2 : Option Nat) : Sized.Statement (.blez x0 x1 x2) :=
  fun _ h => Option.some.inj h ▸ enc1_words _ _ _ _ (by omega)

theorem Sized.brv (x0 : Nat) (x1 : Off) (x2 : Nat) (x3 : Option Nat) : Sized.Statement (.brv x0 x1 x2 x3) :=
  fun _ h => Option.some.inj h ▸ enc1_words _ _ _ _ (by omega)

theorem Sized.brk (x0 : Nat) (x1 : Off) (x2 : Nat) (x3 : Option Nat) : Sized.Statement (.brk x0 x1 x2 x3) :=
  fun _ h => Option.some.inj h ▸ enc1_words _ _ _ _ (by omega)

theorem Sized.ball (x0 : Nat) (x1 : Off) (x2 : Option Nat) : Sized.Statement (.ball x0 x1 x2) :=
  fun _ h => Option.some.inj h ▸ enc1_words _ _ _ _ (by omega)

theorem Sized.bnone (x0 : Nat) (x1 : Off) (x2 : Option Nat) : Sized.Statement (.bnone x0 x1 x2) :=
  fun _ h => Option.some.inj h ▸ enc1_words _ _ _ _ (by omega)

theorem Sized.srd (x0 : Bool) (x1 : Nat) (x2 : SysReg) (x3 : Option Nat) : Sized.Statement (.srd x0 x1 x2 x3) :=
  fun _ h => Option.some.inj h ▸ enc1_words _ _ _ _ (by omega)

theorem Sized.swr (x0 : Bool) (x1 : Nat) (x2 : SysReg) (x3 : Option Nat) : Sized.Statement (.swr x0 x1 x2 x3) :=
  fun _ h => Option.some.inj h ▸ enc1_words _ _ _ _ (by omega)

theorem Sized.trap (x0 : Nat) (x1 : Option Nat) : Sized.Statement (.trap x0 x1) :=
  fun _ h => Option.some.inj h ▸ enc1_words _ _ _ _ (by omega)

theorem Sized.spawn (x0 : Nat) (x1 : Nat) (x2 : Nat) (x3 : Option Nat) : Sized.Statement (.spawn x0 x1 x2 x3) :=
  fun _ h => Option.some.inj h ▸ enc1_words _ _ _ _ (by omega)

theorem Sized.mmov (x0 : Nat) (x1 : Nat) (x2 : Option Nat) : Sized.Statement (.mmov x0 x1 x2) :=
  fun _ h => Option.some.inj h ▸ enc1_words _ _ _ _ (by omega)

theorem Sized.mand (x0 : Nat) (x1 : Nat) (x2 : Nat) (x3 : Option Nat) : Sized.Statement (.mand x0 x1 x2 x3) :=
  fun _ h => Option.some.inj h ▸ enc1_words _ _ _ _ (by omega)

theorem Sized.mor (x0 : Nat) (x1 : Nat) (x2 : Nat) (x3 : Option Nat) : Sized.Statement (.mor x0 x1 x2 x3) :=
  fun _ h => Option.some.inj h ▸ enc1_words _ _ _ _ (by omega)

theorem Sized.mxor (x0 : Nat) (x1 : Nat) (x2 : Nat) (x3 : Option Nat) : Sized.Statement (.mxor x0 x1 x2 x3) :=
  fun _ h => Option.some.inj h ▸ enc1_words _ _ _ _ (by omega)

theorem Sized.mandn (x0 : Nat) (x1 : Nat) (x2 : Nat) (x3 : Option Nat) : Sized.Statement (.mandn x0 x1 x2 x3) :=
  fun _ h => Option.some.inj h ▸ enc1_words _ _ _ _ (by omega)

theorem Sized.mnot (x0 : Nat) (x1 : Nat) (x2 : Option Nat) : Sized.Statement (.mnot x0 x1 x2) :=
  fun _ h => Option.some.inj h ▸ enc1_words _ _ _ _ (by omega)

theorem Sized.mset (x0 : Nat) (x1 : RegLit) (x2 : Option Nat) : Sized.Statement (.mset x0 x1 x2) :=
  fun _ h => Option.some.inj h ▸ enc1_words _ _ _ _ (by omega)

theorem Sized.mpop (x0 : Nat) (x1 : Nat) (x2 : Option Nat) : Sized.Statement (.mpop x0 x1 x2) :=
  fun _ h => Option.some.inj h ▸ enc1_words _ _ _ _ (by omega)

theorem Sized.mfirst (x0 : Nat) (x1 : Nat) (x2 : Option Nat) : Sized.Statement (.mfirst x0 x1 x2) :=
  fun _ h => Option.some.inj h ▸ enc1_words _ _ _ _ (by omega)

theorem Sized.ballot (x0 : Nat) (x1 : Nat) (x2 : Option Nat) : Sized.Statement (.ballot x0 x1 x2) :=
  fun _ h => Option.some.inj h ▸ enc1_words _ _ _ _ (by omega)

theorem Sized.vany (x0 : Nat) (x1 : Nat) (x2 : Option Nat) : Sized.Statement (.vany x0 x1 x2) :=
  fun _ h => Option.some.inj h ▸ enc1_words _ _ _ _ (by omega)

theorem Sized.vall (x0 : Nat) (x1 : Nat) (x2 : Option Nat) : Sized.Statement (.vall x0 x1 x2) :=
  fun _ h => Option.some.inj h ▸ enc1_words _ _ _ _ (by omega)

theorem Sized.msave (x0 : Nat) (x1 : Nat) (x2 : Option Nat) : Sized.Statement (.msave x0 x1 x2) :=
  fun _ h => Option.some.inj h ▸ enc1_words _ _ _ _ (by omega)

theorem Sized.mrestore (x0 : Nat) (x1 : Nat) (x2 : Option Nat) : Sized.Statement (.mrestore x0 x1 x2) :=
  fun _ h => Option.some.inj h ▸ enc1_words _ _ _ _ (by omega)

theorem Sized.sadd (x0 : Nat) (x1 : Nat) (x2 : Nat) (x3 : Option Nat) : Sized.Statement (.sadd x0 x1 x2 x3) :=
  fun _ h => Option.some.inj h ▸ enc1_words _ _ _ _ (by omega)

theorem Sized.saddImm (x0 : Nat) (x1 : Nat) (x2 : Off) (x3 : Option Nat) : Sized.Statement (.saddImm x0 x1 x2 x3) :=
  fun _ h => Option.some.inj h ▸ enc1_words _ _ _ _ (by omega)

theorem Sized.ssub (x0 : Nat) (x1 : Nat) (x2 : Nat) (x3 : Option Nat) : Sized.Statement (.ssub x0 x1 x2 x3) :=
  fun _ h => Option.some.inj h ▸ enc1_words _ _ _ _ (by omega)

theorem Sized.ssubImm (x0 : Nat) (x1 : Nat) (x2 : Off) (x3 : Option Nat) : Sized.Statement (.ssubImm x0 x1 x2 x3) :=
  fun _ h => Option.some.inj h ▸ enc1_words _ _ _ _ (by omega)

theorem Sized.smul (x0 : Nat) (x1 : Nat) (x2 : Nat) (x3 : Option Nat) : Sized.Statement (.smul x0 x1 x2 x3) :=
  fun _ h => Option.some.inj h ▸ enc1_words _ _ _ _ (by omega)

theorem Sized.smulImm (x0 : Nat) (x1 : Nat) (x2 : Off) (x3 : Option Nat) : Sized.Statement (.smulImm x0 x1 x2 x3) :=
  fun _ h => Option.some.inj h ▸ enc1_words _ _ _ _ (by omega)

theorem Sized.smulh (x0 : Nat) (x1 : Nat) (x2 : Nat) (x3 : Option Nat) : Sized.Statement (.smulh x0 x1 x2 x3) :=
  fun _ h => Option.some.inj h ▸ enc1_words _ _ _ _ (by omega)

theorem Sized.smulhImm (x0 : Nat) (x1 : Nat) (x2 : Off) (x3 : Option Nat) : Sized.Statement (.smulhImm x0 x1 x2 x3) :=
  fun _ h => Option.some.inj h ▸ enc1_words _ _ _ _ (by omega)

theorem Sized.sdiv (x0 : Nat) (x1 : Nat) (x2 : Nat) (x3 : Option Nat) : Sized.Statement (.sdiv x0 x1 x2 x3) :=
  fun _ h => Option.some.inj h ▸ enc1_words _ _ _ _ (by omega)

theorem Sized.sdivImm (x0 : Nat) (x1 : Nat) (x2 : Off) (x3 : Option Nat) : Sized.Statement (.sdivImm x0 x1 x2 x3) :=
  fun _ h => Option.some.inj h ▸ enc1_words _ _ _ _ (by omega)

theorem Sized.sdivu (x0 : Nat) (x1 : Nat) (x2 : Nat) (x3 : Option Nat) : Sized.Statement (.sdivu x0 x1 x2 x3) :=
  fun _ h => Option.some.inj h ▸ enc1_words _ _ _ _ (by omega)

theorem Sized.sdivuImm (x0 : Nat) (x1 : Nat) (x2 : Off) (x3 : Option Nat) : Sized.Statement (.sdivuImm x0 x1 x2 x3) :=
  fun _ h => Option.some.inj h ▸ enc1_words _ _ _ _ (by omega)

theorem Sized.srem (x0 : Nat) (x1 : Nat) (x2 : Nat) (x3 : Option Nat) : Sized.Statement (.srem x0 x1 x2 x3) :=
  fun _ h => Option.some.inj h ▸ enc1_words _ _ _ _ (by omega)

theorem Sized.sremImm (x0 : Nat) (x1 : Nat) (x2 : Off) (x3 : Option Nat) : Sized.Statement (.sremImm x0 x1 x2 x3) :=
  fun _ h => Option.some.inj h ▸ enc1_words _ _ _ _ (by omega)

theorem Sized.sremu (x0 : Nat) (x1 : Nat) (x2 : Nat) (x3 : Option Nat) : Sized.Statement (.sremu x0 x1 x2 x3) :=
  fun _ h => Option.some.inj h ▸ enc1_words _ _ _ _ (by omega)

theorem Sized.sremuImm (x0 : Nat) (x1 : Nat) (x2 : Off) (x3 : Option Nat) : Sized.Statement (.sremuImm x0 x1 x2 x3) :=
  fun _ h => Option.some.inj h ▸ enc1_words _ _ _ _ (by omega)

theorem Sized.sand (x0 : Nat) (x1 : Nat) (x2 : Nat) (x3 : Option Nat) : Sized.Statement (.sand x0 x1 x2 x3) :=
  fun _ h => Option.some.inj h ▸ enc1_words _ _ _ _ (by omega)

theorem Sized.sandImm (x0 : Nat) (x1 : Nat) (x2 : Off) (x3 : Option Nat) : Sized.Statement (.sandImm x0 x1 x2 x3) :=
  fun _ h => Option.some.inj h ▸ enc1_words _ _ _ _ (by omega)

theorem Sized.sor (x0 : Nat) (x1 : Nat) (x2 : Nat) (x3 : Option Nat) : Sized.Statement (.sor x0 x1 x2 x3) :=
  fun _ h => Option.some.inj h ▸ enc1_words _ _ _ _ (by omega)

theorem Sized.sorImm (x0 : Nat) (x1 : Nat) (x2 : Off) (x3 : Option Nat) : Sized.Statement (.sorImm x0 x1 x2 x3) :=
  fun _ h => Option.some.inj h ▸ enc1_words _ _ _ _ (by omega)

theorem Sized.sxor (x0 : Nat) (x1 : Nat) (x2 : Nat) (x3 : Option Nat) : Sized.Statement (.sxor x0 x1 x2 x3) :=
  fun _ h => Option.some.inj h ▸ enc1_words _ _ _ _ (by omega)

theorem Sized.sxorImm (x0 : Nat) (x1 : Nat) (x2 : Off) (x3 : Option Nat) : Sized.Statement (.sxorImm x0 x1 x2 x3) :=
  fun _ h => Option.some.inj h ▸ enc1_words _ _ _ _ (by omega)

theorem Sized.sandn (x0 : Nat) (x1 : Nat) (x2 : Nat) (x3 : Option Nat) : Sized.Statement (.sandn x0 x1 x2 x3) :=
  fun _ h => Option.some.inj h ▸ enc1_words _ _ _ _ (by omega)

theorem Sized.sandnImm (x0 : Nat) (x1 : Nat) (x2 : Off) (x3 : Option Nat) : Sized.Statement (.sandnImm x0 x1 x2 x3) :=
  fun _ h => Option.some.inj h ▸ enc1_words _ _ _ _ (by omega)

theorem Sized.sshl (x0 : Nat) (x1 : Nat) (x2 : Nat) (x3 : Option Nat) : Sized.Statement (.sshl x0 x1 x2 x3) :=
  fun _ h => Option.some.inj h ▸ enc1_words _ _ _ _ (by omega)

theorem Sized.sshlImm (x0 : Nat) (x1 : Nat) (x2 : Off) (x3 : Option Nat) : Sized.Statement (.sshlImm x0 x1 x2 x3) :=
  fun _ h => Option.some.inj h ▸ enc1_words _ _ _ _ (by omega)

theorem Sized.sshr (x0 : Nat) (x1 : Nat) (x2 : Nat) (x3 : Option Nat) : Sized.Statement (.sshr x0 x1 x2 x3) :=
  fun _ h => Option.some.inj h ▸ enc1_words _ _ _ _ (by omega)

theorem Sized.sshrImm (x0 : Nat) (x1 : Nat) (x2 : Off) (x3 : Option Nat) : Sized.Statement (.sshrImm x0 x1 x2 x3) :=
  fun _ h => Option.some.inj h ▸ enc1_words _ _ _ _ (by omega)

theorem Sized.ssra (x0 : Nat) (x1 : Nat) (x2 : Nat) (x3 : Option Nat) : Sized.Statement (.ssra x0 x1 x2 x3) :=
  fun _ h => Option.some.inj h ▸ enc1_words _ _ _ _ (by omega)

theorem Sized.ssraImm (x0 : Nat) (x1 : Nat) (x2 : Off) (x3 : Option Nat) : Sized.Statement (.ssraImm x0 x1 x2 x3) :=
  fun _ h => Option.some.inj h ▸ enc1_words _ _ _ _ (by omega)

theorem Sized.srot (x0 : Nat) (x1 : Nat) (x2 : Nat) (x3 : Option Nat) : Sized.Statement (.srot x0 x1 x2 x3) :=
  fun _ h => Option.some.inj h ▸ enc1_words _ _ _ _ (by omega)

theorem Sized.srotImm (x0 : Nat) (x1 : Nat) (x2 : Off) (x3 : Option Nat) : Sized.Statement (.srotImm x0 x1 x2 x3) :=
  fun _ h => Option.some.inj h ▸ enc1_words _ _ _ _ (by omega)

theorem Sized.smin (x0 : Nat) (x1 : Nat) (x2 : Nat) (x3 : Option Nat) : Sized.Statement (.smin x0 x1 x2 x3) :=
  fun _ h => Option.some.inj h ▸ enc1_words _ _ _ _ (by omega)

theorem Sized.sminImm (x0 : Nat) (x1 : Nat) (x2 : Off) (x3 : Option Nat) : Sized.Statement (.sminImm x0 x1 x2 x3) :=
  fun _ h => Option.some.inj h ▸ enc1_words _ _ _ _ (by omega)

theorem Sized.smax (x0 : Nat) (x1 : Nat) (x2 : Nat) (x3 : Option Nat) : Sized.Statement (.smax x0 x1 x2 x3) :=
  fun _ h => Option.some.inj h ▸ enc1_words _ _ _ _ (by omega)

theorem Sized.smaxImm (x0 : Nat) (x1 : Nat) (x2 : Off) (x3 : Option Nat) : Sized.Statement (.smaxImm x0 x1 x2 x3) :=
  fun _ h => Option.some.inj h ▸ enc1_words _ _ _ _ (by omega)

theorem Sized.sminu (x0 : Nat) (x1 : Nat) (x2 : Nat) (x3 : Option Nat) : Sized.Statement (.sminu x0 x1 x2 x3) :=
  fun _ h => Option.some.inj h ▸ enc1_words _ _ _ _ (by omega)

theorem Sized.sminuImm (x0 : Nat) (x1 : Nat) (x2 : Off) (x3 : Option Nat) : Sized.Statement (.sminuImm x0 x1 x2 x3) :=
  fun _ h => Option.some.inj h ▸ enc1_words _ _ _ _ (by omega)

theorem Sized.smaxu (x0 : Nat) (x1 : Nat) (x2 : Nat) (x3 : Option Nat) : Sized.Statement (.smaxu x0 x1 x2 x3) :=
  fun _ h => Option.some.inj h ▸ enc1_words _ _ _ _ (by omega)

theorem Sized.smaxuImm (x0 : Nat) (x1 : Nat) (x2 : Off) (x3 : Option Nat) : Sized.Statement (.smaxuImm x0 x1 x2 x3) :=
  fun _ h => Option.some.inj h ▸ enc1_words _ _ _ _ (by omega)

theorem Sized.smov (x0 : Nat) (x1 : Nat) (x2 : Option Nat) : Sized.Statement (.smov x0 x1 x2) :=
  fun _ h => Option.some.inj h ▸ enc1_words _ _ _ _ (by omega)

theorem Sized.smovImm (x0 : Nat) (x1 : Off) (x2 : Option Nat) : Sized.Statement (.smovImm x0 x1 x2) :=
  fun _ h => Option.some.inj h ▸ enc1_words _ _ _ _ (by omega)

theorem Sized.sseq (x0 : Nat) (x1 : Nat) (x2 : Nat) (x3 : Option Nat) : Sized.Statement (.sseq x0 x1 x2 x3) :=
  fun _ h => Option.some.inj h ▸ enc1_words _ _ _ _ (by omega)

theorem Sized.sseqImm (x0 : Nat) (x1 : Nat) (x2 : Off) (x3 : Option Nat) : Sized.Statement (.sseqImm x0 x1 x2 x3) :=
  fun _ h => Option.some.inj h ▸ enc1_words _ _ _ _ (by omega)

theorem Sized.sslt (x0 : Nat) (x1 : Nat) (x2 : Nat) (x3 : Option Nat) : Sized.Statement (.sslt x0 x1 x2 x3) :=
  fun _ h => Option.some.inj h ▸ enc1_words _ _ _ _ (by omega)

theorem Sized.ssltImm (x0 : Nat) (x1 : Nat) (x2 : Off) (x3 : Option Nat) : Sized.Statement (.ssltImm x0 x1 x2 x3) :=
  fun _ h => Option.some.inj h ▸ enc1_words _ _ _ _ (by omega)

theorem Sized.ssltu (x0 : Nat) (x1 : Nat) (x2 : Nat) (x3 : Option Nat) : Sized.Statement (.ssltu x0 x1 x2 x3) :=
  fun _ h => Option.some.inj h ▸ enc1_words _ _ _ _ (by omega)

theorem Sized.ssltuImm (x0 : Nat) (x1 : Nat) (x2 : Off) (x3 : Option Nat) : Sized.Statement (.ssltuImm x0 x1 x2 x3) :=
  fun _ h => Option.some.inj h ▸ enc1_words _ _ _ _ (by omega)

theorem Sized.sbfx (x0 : Nat) (x1 : Nat) (x2 : Nat) (x3 : Option Nat) : Sized.Statement (.sbfx x0 x1 x2 x3) :=
  fun _ h => Option.some.inj h ▸ enc1_words _ _ _ _ (by omega)

theorem Sized.sbfxImm (x0 : Nat) (x1 : Nat) (x2 : Off) (x3 : Option Nat) : Sized.Statement (.sbfxImm x0 x1 x2 x3) :=
  fun _ h => Option.some.inj h ▸ enc1_words _ _ _ _ (by omega)

theorem Sized.sbfi (x0 : Nat) (x1 : Nat) (x2 : Nat) (x3 : Option Nat) : Sized.Statement (.sbfi x0 x1 x2 x3) :=
  fun _ h => Option.some.inj h ▸ enc1_words _ _ _ _ (by omega)

theorem Sized.sbfiImm (x0 : Nat) (x1 : Nat) (x2 : Off) (x3 : Option Nat) : Sized.Statement (.sbfiImm x0 x1 x2 x3) :=
  fun _ h => Option.some.inj h ▸ enc1_words _ _ _ _ (by omega)

theorem Sized.sclz (x0 : Nat) (x1 : Nat) (x2 : Option Nat) : Sized.Statement (.sclz x0 x1 x2) :=
  fun _ h => Option.some.inj h ▸ enc1_words _ _ _ _ (by omega)

theorem Sized.sctz (x0 : Nat) (x1 : Nat) (x2 : Option Nat) : Sized.Statement (.sctz x0 x1 x2) :=
  fun _ h => Option.some.inj h ▸ enc1_words _ _ _ _ (by omega)

theorem Sized.spop (x0 : Nat) (x1 : Nat) (x2 : Option Nat) : Sized.Statement (.spop x0 x1 x2) :=
  fun _ h => Option.some.inj h ▸ enc1_words _ _ _ _ (by omega)

theorem Sized.sbrev (x0 : Nat) (x1 : Nat) (x2 : Option Nat) : Sized.Statement (.sbrev x0 x1 x2) :=
  fun _ h => Option.some.inj h ▸ enc1_words _ _ _ _ (by omega)

theorem Sized.vcmp (x0 : Cond) (x1 : Nat) (x2 : Nat) (x3 : VOp) (x4 : Ty) (x5 : Nat) : Sized.Statement (.vcmp x0 x1 x2 x3 x4 x5) :=
  fun _ h => Option.some.inj h ▸ encV_words _ _ _ _ _ _ _ _ _

theorem Sized.vshfl (x0 : Nat) (x1 : Nat) (x2 : VOp) (x3 : Ty) (x4 : Nat) : Sized.Statement (.vshfl x0 x1 x2 x3 x4) :=
  fun _ h => Option.some.inj h ▸ encV_words _ _ _ _ _ _ _ _ _

theorem Sized.vshup (x0 : Nat) (x1 : Nat) (x2 : VOp) (x3 : Ty) (x4 : Nat) : Sized.Statement (.vshup x0 x1 x2 x3 x4) :=
  fun _ h => Option.some.inj h ▸ encV_words _ _ _ _ _ _ _ _ _

theorem Sized.vshdn (x0 : Nat) (x1 : Nat) (x2 : VOp) (x3 : Ty) (x4 : Nat) : Sized.Statement (.vshdn x0 x1 x2 x3 x4) :=
  fun _ h => Option.some.inj h ▸ encV_words _ _ _ _ _ _ _ _ _

theorem Sized.vshxor (x0 : Nat) (x1 : Nat) (x2 : VOp) (x3 : Ty) (x4 : Nat) : Sized.Statement (.vshxor x0 x1 x2 x3 x4) :=
  fun _ h => Option.some.inj h ▸ encV_words _ _ _ _ _ _ _ _ _

theorem Sized.vbcast (x0 : Nat) (x1 : Nat) (x2 : VOp) (x3 : Ty) (x4 : Nat) : Sized.Statement (.vbcast x0 x1 x2 x3 x4) :=
  fun _ h => Option.some.inj h ▸ encV_words _ _ _ _ _ _ _ _ _

theorem Sized.vgred (x0 : Nat) (x1 : Nat) (x2 : Comb) (x3 : Ty) (x4 : Nat) : Sized.Statement (.vgred x0 x1 x2 x3 x4) :=
  fun _ h => Option.some.inj h ▸ encV_words _ _ _ _ _ _ _ _ _

theorem Sized.vscan (x0 : Nat) (x1 : Nat) (x2 : Comb) (x3 : Ty) (x4 : Nat) : Sized.Statement (.vscan x0 x1 x2 x3 x4) :=
  fun _ h => Option.some.inj h ▸ encV_words _ _ _ _ _ _ _ _ _

theorem Sized.vaddInt (x0 : Nat) (x1 : Nat) (x2 : VOp) (x3 : Ty) (x4 : Nat) : Sized.Statement (.vaddInt x0 x1 x2 x3 x4) :=
  fun _ h => Option.some.inj h ▸ encV_words _ _ _ _ _ _ _ _ _

theorem Sized.vsubInt (x0 : Nat) (x1 : Nat) (x2 : VOp) (x3 : Ty) (x4 : Nat) : Sized.Statement (.vsubInt x0 x1 x2 x3 x4) :=
  fun _ h => Option.some.inj h ▸ encV_words _ _ _ _ _ _ _ _ _

theorem Sized.vmulInt (x0 : Nat) (x1 : Nat) (x2 : VOp) (x3 : Ty) (x4 : Nat) : Sized.Statement (.vmulInt x0 x1 x2 x3 x4) :=
  fun _ h => Option.some.inj h ▸ encV_words _ _ _ _ _ _ _ _ _

theorem Sized.vmulh (x0 : Nat) (x1 : Nat) (x2 : VOp) (x3 : Ty) (x4 : Nat) : Sized.Statement (.vmulh x0 x1 x2 x3 x4) :=
  fun _ h => Option.some.inj h ▸ encV_words _ _ _ _ _ _ _ _ _

theorem Sized.vmad (x0 : Nat) (x1 : Nat) (x2 : VOp) (x3 : Nat) (x4 : Ty) (x5 : Nat) : Sized.Statement (.vmad x0 x1 x2 x3 x4 x5) :=
  fun _ h => Option.some.inj h ▸ encV_words _ _ _ _ _ _ _ _ _

theorem Sized.vabsd (x0 : Nat) (x1 : Nat) (x2 : VOp) (x3 : Ty) (x4 : Nat) : Sized.Statement (.vabsd x0 x1 x2 x3 x4) :=
  fun _ h => Option.some.inj h ▸ encV_words _ _ _ _ _ _ _ _ _

theorem Sized.vadds (x0 : Nat) (x1 : Nat) (x2 : VOp) (x3 : Ty) (x4 : Nat) : Sized.Statement (.vadds x0 x1 x2 x3 x4) :=
  fun _ h => Option.some.inj h ▸ encV_words _ _ _ _ _ _ _ _ _

theorem Sized.vsubs (x0 : Nat) (x1 : Nat) (x2 : VOp) (x3 : Ty) (x4 : Nat) : Sized.Statement (.vsubs x0 x1 x2 x3 x4) :=
  fun _ h => Option.some.inj h ▸ encV_words _ _ _ _ _ _ _ _ _

theorem Sized.vminInt (x0 : Nat) (x1 : Nat) (x2 : VOp) (x3 : Ty) (x4 : Nat) : Sized.Statement (.vminInt x0 x1 x2 x3 x4) :=
  fun _ h => Option.some.inj h ▸ encV_words _ _ _ _ _ _ _ _ _

theorem Sized.vmaxInt (x0 : Nat) (x1 : Nat) (x2 : VOp) (x3 : Ty) (x4 : Nat) : Sized.Statement (.vmaxInt x0 x1 x2 x3 x4) :=
  fun _ h => Option.some.inj h ▸ encV_words _ _ _ _ _ _ _ _ _

theorem Sized.vand (x0 : Nat) (x1 : Nat) (x2 : VOp) (x3 : Ty) (x4 : Nat) : Sized.Statement (.vand x0 x1 x2 x3 x4) :=
  fun _ h => Option.some.inj h ▸ encV_words _ _ _ _ _ _ _ _ _

theorem Sized.vor (x0 : Nat) (x1 : Nat) (x2 : VOp) (x3 : Ty) (x4 : Nat) : Sized.Statement (.vor x0 x1 x2 x3 x4) :=
  fun _ h => Option.some.inj h ▸ encV_words _ _ _ _ _ _ _ _ _

theorem Sized.vxor (x0 : Nat) (x1 : Nat) (x2 : VOp) (x3 : Ty) (x4 : Nat) : Sized.Statement (.vxor x0 x1 x2 x3 x4) :=
  fun _ h => Option.some.inj h ▸ encV_words _ _ _ _ _ _ _ _ _

theorem Sized.vandn (x0 : Nat) (x1 : Nat) (x2 : VOp) (x3 : Ty) (x4 : Nat) : Sized.Statement (.vandn x0 x1 x2 x3 x4) :=
  fun _ h => Option.some.inj h ▸ encV_words _ _ _ _ _ _ _ _ _

theorem Sized.vnot (x0 : Nat) (x1 : Nat) (x2 : Ty) (x3 : Nat) : Sized.Statement (.vnot x0 x1 x2 x3) :=
  fun _ h => Option.some.inj h ▸ encV_words _ _ _ _ _ _ _ _ _

theorem Sized.vshl (x0 : Nat) (x1 : Nat) (x2 : VOp) (x3 : Ty) (x4 : Nat) : Sized.Statement (.vshl x0 x1 x2 x3 x4) :=
  fun _ h => Option.some.inj h ▸ encV_words _ _ _ _ _ _ _ _ _

theorem Sized.vshr (x0 : Nat) (x1 : Nat) (x2 : VOp) (x3 : Ty) (x4 : Nat) : Sized.Statement (.vshr x0 x1 x2 x3 x4) :=
  fun _ h => Option.some.inj h ▸ encV_words _ _ _ _ _ _ _ _ _

theorem Sized.vsra (x0 : Nat) (x1 : Nat) (x2 : VOp) (x3 : Ty) (x4 : Nat) : Sized.Statement (.vsra x0 x1 x2 x3 x4) :=
  fun _ h => Option.some.inj h ▸ encV_words _ _ _ _ _ _ _ _ _

theorem Sized.vrot (x0 : Nat) (x1 : Nat) (x2 : VOp) (x3 : Ty) (x4 : Nat) : Sized.Statement (.vrot x0 x1 x2 x3 x4) :=
  fun _ h => Option.some.inj h ▸ encV_words _ _ _ _ _ _ _ _ _

theorem Sized.vbfx (x0 : Nat) (x1 : Nat) (x2 : VOp) (x3 : Ty) (x4 : Nat) : Sized.Statement (.vbfx x0 x1 x2 x3 x4) :=
  fun _ h => Option.some.inj h ▸ encV_words _ _ _ _ _ _ _ _ _

theorem Sized.vbfi (x0 : Nat) (x1 : Nat) (x2 : VOp) (x3 : Nat) (x4 : Nat) : Sized.Statement (.vbfi x0 x1 x2 x3 x4) :=
  fun _ h => Option.some.inj h ▸ encV_words _ _ _ _ _ _ _ _ _

theorem Sized.vclz (x0 : Nat) (x1 : Nat) (x2 : Nat) : Sized.Statement (.vclz x0 x1 x2) :=
  fun _ h => Option.some.inj h ▸ encV_words _ _ _ _ _ _ _ _ _

theorem Sized.vpop (x0 : Nat) (x1 : Nat) (x2 : Nat) : Sized.Statement (.vpop x0 x1 x2) :=
  fun _ h => Option.some.inj h ▸ encV_words _ _ _ _ _ _ _ _ _

theorem Sized.vbrev (x0 : Nat) (x1 : Nat) (x2 : Nat) : Sized.Statement (.vbrev x0 x1 x2) :=
  fun _ h => Option.some.inj h ▸ encV_words _ _ _ _ _ _ _ _ _

theorem Sized.vsel (x0 : Nat) (x1 : Nat) (x2 : VOp) (x3 : Nat) (x4 : Ty) (x5 : Nat) : Sized.Statement (.vsel x0 x1 x2 x3 x4 x5) :=
  fun _ h => Option.some.inj h ▸ encV_words _ _ _ _ _ _ _ _ _

theorem Sized.vmov (x0 : Nat) (x1 : VOp) (x2 : Ty) (x3 : Nat) : Sized.Statement (.vmov x0 x1 x2 x3) :=
  fun _ h => Option.some.inj h ▸ encV_words _ _ _ _ _ _ _ _ _

theorem Sized.vprmt (x0 : Nat) (x1 : Nat) (x2 : VOp) (x3 : Nat) (x4 : Nat) : Sized.Statement (.vprmt x0 x1 x2 x3 x4) :=
  fun _ h => Option.some.inj h ▸ encV_words _ _ _ _ _ _ _ _ _

theorem Sized.vaddFp (x0 : Nat) (x1 : Nat) (x2 : VOp) (x3 : Ty) (x4 : Rm) (x5 : Nat) : Sized.Statement (.vaddFp x0 x1 x2 x3 x4 x5) :=
  fun _ h => Option.some.inj h ▸ encV_words _ _ _ _ _ _ _ _ _

theorem Sized.vsubFp (x0 : Nat) (x1 : Nat) (x2 : VOp) (x3 : Ty) (x4 : Rm) (x5 : Nat) : Sized.Statement (.vsubFp x0 x1 x2 x3 x4 x5) :=
  fun _ h => Option.some.inj h ▸ encV_words _ _ _ _ _ _ _ _ _

theorem Sized.vmulFp (x0 : Nat) (x1 : Nat) (x2 : VOp) (x3 : Ty) (x4 : Rm) (x5 : Nat) : Sized.Statement (.vmulFp x0 x1 x2 x3 x4 x5) :=
  fun _ h => Option.some.inj h ▸ encV_words _ _ _ _ _ _ _ _ _

theorem Sized.vfma (x0 : Nat) (x1 : Nat) (x2 : VOp) (x3 : Nat) (x4 : Ty) (x5 : Rm) (x6 : Nat) : Sized.Statement (.vfma x0 x1 x2 x3 x4 x5 x6) :=
  fun _ h => Option.some.inj h ▸ encV_words _ _ _ _ _ _ _ _ _

theorem Sized.vfms (x0 : Nat) (x1 : Nat) (x2 : VOp) (x3 : Nat) (x4 : Ty) (x5 : Rm) (x6 : Nat) : Sized.Statement (.vfms x0 x1 x2 x3 x4 x5 x6) :=
  fun _ h => Option.some.inj h ▸ encV_words _ _ _ _ _ _ _ _ _

theorem Sized.vfnma (x0 : Nat) (x1 : Nat) (x2 : VOp) (x3 : Nat) (x4 : Ty) (x5 : Rm) (x6 : Nat) : Sized.Statement (.vfnma x0 x1 x2 x3 x4 x5 x6) :=
  fun _ h => Option.some.inj h ▸ encV_words _ _ _ _ _ _ _ _ _

theorem Sized.vminFp (x0 : Nat) (x1 : Nat) (x2 : VOp) (x3 : Ty) (x4 : Nat) : Sized.Statement (.vminFp x0 x1 x2 x3 x4) :=
  fun _ h => Option.some.inj h ▸ encV_words _ _ _ _ _ _ _ _ _

theorem Sized.vmaxFp (x0 : Nat) (x1 : Nat) (x2 : VOp) (x3 : Ty) (x4 : Nat) : Sized.Statement (.vmaxFp x0 x1 x2 x3 x4) :=
  fun _ h => Option.some.inj h ▸ encV_words _ _ _ _ _ _ _ _ _

theorem Sized.vabs (x0 : Nat) (x1 : Nat) (x2 : Ty) (x3 : Nat) : Sized.Statement (.vabs x0 x1 x2 x3) :=
  fun _ h => Option.some.inj h ▸ encV_words _ _ _ _ _ _ _ _ _

theorem Sized.vneg (x0 : Nat) (x1 : Nat) (x2 : Ty) (x3 : Nat) : Sized.Statement (.vneg x0 x1 x2 x3) :=
  fun _ h => Option.some.inj h ▸ encV_words _ _ _ _ _ _ _ _ _

theorem Sized.vcpysgn (x0 : Nat) (x1 : Nat) (x2 : VOp) (x3 : Ty) (x4 : Nat) : Sized.Statement (.vcpysgn x0 x1 x2 x3 x4) :=
  fun _ h => Option.some.inj h ▸ encV_words _ _ _ _ _ _ _ _ _

theorem Sized.vrcp (x0 : Nat) (x1 : Nat) (x2 : Ty) (x3 : Rm) (x4 : Nat) : Sized.Statement (.vrcp x0 x1 x2 x3 x4) :=
  fun _ h => Option.some.inj h ▸ encV_words _ _ _ _ _ _ _ _ _

theorem Sized.vrsq (x0 : Nat) (x1 : Nat) (x2 : Ty) (x3 : Rm) (x4 : Nat) : Sized.Statement (.vrsq x0 x1 x2 x3 x4) :=
  fun _ h => Option.some.inj h ▸ encV_words _ _ _ _ _ _ _ _ _

theorem Sized.vsqrt (x0 : Nat) (x1 : Nat) (x2 : Ty) (x3 : Rm) (x4 : Nat) : Sized.Statement (.vsqrt x0 x1 x2 x3 x4) :=
  fun _ h => Option.some.inj h ▸ encV_words _ _ _ _ _ _ _ _ _

theorem Sized.vexp2 (x0 : Nat) (x1 : Nat) (x2 : Ty) (x3 : Nat) : Sized.Statement (.vexp2 x0 x1 x2 x3) :=
  fun _ h => Option.some.inj h ▸ encV_words _ _ _ _ _ _ _ _ _

theorem Sized.vlog2 (x0 : Nat) (x1 : Nat) (x2 : Ty) (x3 : Nat) : Sized.Statement (.vlog2 x0 x1 x2 x3) :=
  fun _ h => Option.some.inj h ▸ encV_words _ _ _ _ _ _ _ _ _

theorem Sized.vsin (x0 : Nat) (x1 : Nat) (x2 : Ty) (x3 : Nat) : Sized.Statement (.vsin x0 x1 x2 x3) :=
  fun _ h => Option.some.inj h ▸ encV_words _ _ _ _ _ _ _ _ _

theorem Sized.vcos (x0 : Nat) (x1 : Nat) (x2 : Ty) (x3 : Nat) : Sized.Statement (.vcos x0 x1 x2 x3) :=
  fun _ h => Option.some.inj h ▸ encV_words _ _ _ _ _ _ _ _ _

theorem Sized.vfloor (x0 : Nat) (x1 : Nat) (x2 : Ty) (x3 : Nat) : Sized.Statement (.vfloor x0 x1 x2 x3) :=
  fun _ h => Option.some.inj h ▸ encV_words _ _ _ _ _ _ _ _ _

theorem Sized.vceil (x0 : Nat) (x1 : Nat) (x2 : Ty) (x3 : Nat) : Sized.Statement (.vceil x0 x1 x2 x3) :=
  fun _ h => Option.some.inj h ▸ encV_words _ _ _ _ _ _ _ _ _

theorem Sized.vtrunc (x0 : Nat) (x1 : Nat) (x2 : Ty) (x3 : Nat) : Sized.Statement (.vtrunc x0 x1 x2 x3) :=
  fun _ h => Option.some.inj h ▸ encV_words _ _ _ _ _ _ _ _ _

theorem Sized.vround (x0 : Nat) (x1 : Nat) (x2 : Ty) (x3 : Rm) (x4 : Nat) : Sized.Statement (.vround x0 x1 x2 x3 x4) :=
  fun _ h => Option.some.inj h ▸ encV_words _ _ _ _ _ _ _ _ _

theorem Sized.vfract (x0 : Nat) (x1 : Nat) (x2 : Ty) (x3 : Nat) : Sized.Statement (.vfract x0 x1 x2 x3) :=
  fun _ h => Option.some.inj h ▸ encV_words _ _ _ _ _ _ _ _ _

theorem Sized.vclass (x0 : Nat) (x1 : Nat) (x2 : Ty) (x3 : Nat) : Sized.Statement (.vclass x0 x1 x2 x3) :=
  fun _ h => Option.some.inj h ▸ encV_words _ _ _ _ _ _ _ _ _

theorem Sized.tseed (x0 : Nat) (x1 : Nat) (x2 : VOp) (x3 : Nat) : Sized.Statement (.tseed x0 x1 x2 x3) :=
  fun _ h => Option.some.inj h ▸ encV_words _ _ _ _ _ _ _ _ _

theorem Sized.tzero (x0 : Nat) (x1 : Option Nat) (x2 : Nat) : Sized.Statement (.tzero x0 x1 x2) :=
  fun _ h => Option.some.inj h ▸ encV_words _ _ _ _ _ _ _ _ _

theorem Sized.tget (x0 : Nat) (x1 : Nat) (x2 : Nat) (x3 : Nat) : Sized.Statement (.tget x0 x1 x2 x3) :=
  fun _ h => Option.some.inj h ▸ encV_words _ _ _ _ _ _ _ _ _

theorem Sized.tset (x0 : Nat) (x1 : Nat) (x2 : VOp) (x3 : Nat) : Sized.Statement (.tset x0 x1 x2 x3) :=
  fun _ h => Option.some.inj h ▸ encV_words _ _ _ _ _ _ _ _ _

theorem Sized.tmov (x0 : Nat) (x1 : Nat) (x2 : Nat) (x3 : Nat) (x4 : Nat) : Sized.Statement (.tmov x0 x1 x2 x3 x4) :=
  fun _ h => Option.some.inj h ▸ encV_words _ _ _ _ _ _ _ _ _

theorem Sized.vcvt (x0 : Nat) (x1 : Nat) (x2 : Ty) (x3 : Ty) (x4 : Rm) (x5 : Nat) : Sized.Statement (.vcvt x0 x1 x2 x3 x4 x5) :=
  fun _ h => Option.some.inj h ▸ encV_words _ _ _ _ _ _ _ _ _

theorem Sized.vcvtsr (x0 : Nat) (x1 : Nat) (x2 : VOp) (x3 : Nat) (x4 : Ty) (x5 : Nat) : Sized.Statement (.vcvtsr x0 x1 x2 x3 x4 x5) :=
  fun _ h => Option.some.inj h ▸ encV_words _ _ _ _ _ _ _ _ _

theorem Sized.vrand (x0 : Nat) (x1 : Nat) (x2 : Nat) : Sized.Statement (.vrand x0 x1 x2) :=
  fun _ h => Option.some.inj h ▸ encV_words _ _ _ _ _ _ _ _ _

theorem Sized.vrseed (x0 : Nat) (x1 : Nat) (x2 : Nat) : Sized.Statement (.vrseed x0 x1 x2) :=
  fun _ h => Option.some.inj h ▸ encV_words _ _ _ _ _ _ _ _ _

theorem Sized.vpack (x0 : Nat) (x1 : Nat) (x2 : VOp) (x3 : Ty) (x4 : Ty) (x5 : Bool) (x6 : Rm) (x7 : Nat) : Sized.Statement (.vpack x0 x1 x2 x3 x4 x5 x6 x7) :=
  fun _ h => Option.some.inj h ▸ encV_words _ _ _ _ _ _ _ _ _

theorem Sized.vunpk (x0 : Nat) (x1 : Nat) (x2 : Nat) (x3 : Ty) (x4 : Ty) (x5 : Nat) : Sized.Statement (.vunpk x0 x1 x2 x3 x4 x5) :=
  fun _ h => Option.some.inj h ▸ encV_words _ _ _ _ _ _ _ _ _

theorem Sized.ld (x0 : Nat) (x1 : Addr) (x2 : Ty) (x3 : Bool) (x4 : Sync) (x5 : Nat) : Sized.Statement (.ld x0 x1 x2 x3 x4 x5) :=
  fun _ h => Option.some.inj h ▸ encL_words _ _ _ _ _ _ _ _ _

theorem Sized.st (x0 : Nat) (x1 : Addr) (x2 : Ty) (x3 : Bool) (x4 : Sync) (x5 : Nat) : Sized.Statement (.st x0 x1 x2 x3 x4 x5) :=
  fun _ h => Option.some.inj h ▸ encL_words _ _ _ _ _ _ _ _ _

theorem Sized.ldt (x0 : Nat) (x1 : Addr) (x2 : Ty) (x3 : Bool) (x4 : Nat) (x5 : Nat) : Sized.Statement (.ldt x0 x1 x2 x3 x4 x5) :=
  fun _ h => Option.some.inj h ▸ encL_words _ _ _ _ _ _ _ _ _

theorem Sized.stt (x0 : Nat) (x1 : Addr) (x2 : Ty) (x3 : Bool) (x4 : Nat) (x5 : Nat) : Sized.Statement (.stt x0 x1 x2 x3 x4 x5) :=
  fun _ h => Option.some.inj h ▸ encL_words _ _ _ _ _ _ _ _ _

theorem Sized.ldw (x0 : Nat) (x1 : Addr) (x2 : Ty) (x3 : Nat) : Sized.Statement (.ldw x0 x1 x2 x3) :=
  fun _ h => Option.some.inj h ▸ encL_words _ _ _ _ _ _ _ _ _

theorem Sized.sld (x0 : Nat) (x1 : Addr) (x2 : Ty) (x3 : Sync) (x4 : Nat) : Sized.Statement (.sld x0 x1 x2 x3 x4) :=
  fun _ h => Option.some.inj h ▸ encL_words _ _ _ _ _ _ _ _ _

theorem Sized.sst (x0 : Nat) (x1 : Addr) (x2 : Ty) (x3 : Sync) (x4 : Nat) : Sized.Statement (.sst x0 x1 x2 x3 x4) :=
  fun _ h => Option.some.inj h ▸ encL_words _ _ _ _ _ _ _ _ _

theorem Sized.atom (x0 : Nat) (x1 : Addr) (x2 : Nat) (x3 : Comb) (x4 : Ty) (x5 : Sync) (x6 : Nat) : Sized.Statement (.atom x0 x1 x2 x3 x4 x5 x6) :=
  fun _ h => Option.some.inj h ▸ encL_words _ _ _ _ _ _ _ _ _

theorem Sized.acas (x0 : Nat) (x1 : Addr) (x2 : Nat) (x3 : Ty) (x4 : Sync) (x5 : Nat) : Sized.Statement (.acas x0 x1 x2 x3 x4 x5) :=
  fun _ h => Option.some.inj h ▸ encL_words _ _ _ _ _ _ _ _ _

theorem Sized.cpy (x0 : Nat) (x1 : BarOp) (x2 : Nat) : Sized.Statement (.cpy x0 x1 x2) :=
  fun _ h => Option.some.inj h ▸ encE_words _ _ _ _ _ _ _ _ _ _ _ _

theorem Sized.gath (x0 : Nat) (x1 : Nat) (x2 : Nat) (x3 : Int) (x4 : Ty) (x5 : Nat) : Sized.Statement (.gath x0 x1 x2 x3 x4 x5) :=
  fun _ h => Option.some.inj h ▸ encE_words _ _ _ _ _ _ _ _ _ _ _ _

theorem Sized.scat (x0 : Nat) (x1 : Nat) (x2 : Nat) (x3 : Int) (x4 : Ty) (x5 : Nat) : Sized.Statement (.scat x0 x1 x2 x3 x4 x5) :=
  fun _ h => Option.some.inj h ▸ encE_words _ _ _ _ _ _ _ _ _ _ _ _

theorem Sized.pld (x0 : Nat) (x1 : Nat) (x2 : Nat) (x3 : Int) (x4 : Ty) (x5 : Nat) : Sized.Statement (.pld x0 x1 x2 x3 x4 x5) :=
  fun _ h => Option.some.inj h ▸ encE_words _ _ _ _ _ _ _ _ _ _ _ _

theorem Sized.pst (x0 : Nat) (x1 : Nat) (x2 : Nat) (x3 : Int) (x4 : Ty) (x5 : Nat) : Sized.Statement (.pst x0 x1 x2 x3 x4 x5) :=
  fun _ h => Option.some.inj h ▸ encE_words _ _ _ _ _ _ _ _ _ _ _ _

theorem Sized.red (x0 : Nat) (x1 : Nat) (x2 : Nat) (x3 : Int) (x4 : Comb) (x5 : Ty) (x6 : MemOrd) (x7 : Bool) (x8 : Nat) : Sized.Statement (.red x0 x1 x2 x3 x4 x5 x6 x7 x8) :=
  fun _ h => Option.some.inj h ▸ encE_words _ _ _ _ _ _ _ _ _ _ _ _

theorem Sized.amg (x0 : Nat) (x1 : Nat) (x2 : Nat) (x3 : Int) (x4 : Comb) (x5 : Ty) (x6 : MemOrd) (x7 : Bool) (x8 : Nat) : Sized.Statement (.amg x0 x1 x2 x3 x4 x5 x6 x7 x8) :=
  fun _ h => Option.some.inj h ▸ encE_words _ _ _ _ _ _ _ _ _ _ _ _

theorem Sized.tex (x0 : Nat) (x1 : Nat) (x2 : Nat) (x3 : Bool) (x4 : Nat) : Sized.Statement (.tex x0 x1 x2 x3 x4) :=
  fun _ h => Option.some.inj h ▸ encE_words _ _ _ _ _ _ _ _ _ _ _ _

theorem Sized.texg (x0 : Nat) (x1 : Nat) (x2 : Nat) (x3 : Bool) (x4 : Nat) : Sized.Statement (.texg x0 x1 x2 x3 x4) :=
  fun _ h => Option.some.inj h ▸ encE_words _ _ _ _ _ _ _ _ _ _ _ _

theorem Sized.isect (x0 : Nat) (x1 : Nat) (x2 : Nat) (x3 : BarOp) (x4 : Nat) : Sized.Statement (.isect x0 x1 x2 x3 x4) :=
  fun _ h => Option.some.inj h ▸ encE_words _ _ _ _ _ _ _ _ _ _ _ _

theorem Sized.visq (x0 : Nat) (x1 : Nat) (x2 : Nat) (x3 : BarOp) (x4 : Nat) : Sized.Statement (.visq x0 x1 x2 x3 x4) :=
  fun _ h => Option.some.inj h ▸ encE_words _ _ _ _ _ _ _ _ _ _ _ _

theorem Sized.coll (x0 : CollKind) (x1 : CollOp) (x2 : Ty) (x3 : Nat) (x4 : Nat) (x5 : Nat) (x6 : Nat) : Sized.Statement (.coll x0 x1 x2 x3 x4 x5 x6) :=
  fun _ h => Option.some.inj h ▸ encE_words _ _ _ _ _ _ _ _ _ _ _ _

theorem Sized.wbind (x0 : Nat) (x1 : Perm) (x2 : Nat) (x3 : RegLit) (x4 : Option Nat) : Sized.Statement (.wbind x0 x1 x2 x3 x4) :=
  fun _ h => Option.some.inj h ▸ enc1_words _ _ _ _ (by omega)

theorem Sized.winv (x0 : Nat) (x1 : Option Nat) : Sized.Statement (.winv x0 x1) :=
  fun _ h => Option.some.inj h ▸ enc1_words _ _ _ _ (by omega)

theorem Sized.waitc (x0 : Cls) (x1 : Nat) (x2 : Option Nat) : Sized.Statement (.waitc x0 x1 x2) :=
  fun _ h => Option.some.inj h ▸ enc1_words _ _ _ _ (by omega)

theorem Sized.binit (x0 : Nat) (x1 : RegLit) (x2 : Option Nat) : Sized.Statement (.binit x0 x1 x2) :=
  fun _ h => Option.some.inj h ▸ enc1_words _ _ _ _ (by omega)

theorem Sized.expect (x0 : Nat) (x1 : RegLit) (x2 : Option Nat) : Sized.Statement (.expect x0 x1 x2) :=
  fun _ h => Option.some.inj h ▸ enc1_words _ _ _ _ (by omega)

theorem Sized.arrive (x0 : Nat) (x1 : Nat) (x2 : Bool) (x3 : Bool) (x4 : Option Nat) : Sized.Statement (.arrive x0 x1 x2 x3 x4) :=
  fun _ h => Option.some.inj h ▸ enc1_words _ _ _ _ (by omega)

theorem Sized.waitb (x0 : Nat) (x1 : Nat) (x2 : Bool) (x3 : Bool) (x4 : Option Nat) : Sized.Statement (.waitb x0 x1 x2 x3 x4) :=
  fun _ h => Option.some.inj h ▸ enc1_words _ _ _ _ (by omega)

theorem Sized.testb (x0 : Nat) (x1 : Nat) (x2 : Option Nat) : Sized.Statement (.testb x0 x1 x2) :=
  fun _ h => Option.some.inj h ▸ enc1_words _ _ _ _ (by omega)

theorem Sized.fence (x0 : Scope) (x1 : MemOrd) (x2 : Option Nat) : Sized.Statement (.fence x0 x1 x2) :=
  fun _ h => Option.some.inj h ▸ enc1_words _ _ _ _ (by omega)

theorem Sized.mstat (x0 : Bool) (x1 : StatSrc) (x2 : Nat) (x3 : BarOp) (x4 : Ty) (x5 : Int) (x6 : Nat) : Sized.Statement (.mstat x0 x1 x2 x3 x4 x5 x6) :=
  fun _ h => Option.some.inj h ▸ encMX_words _ _ _ _ _ _ _ _ _ _ _

theorem Sized.mloop (x0 : Nat) (x1 : Bool) (x2 : Nat) (x3 : Nat) (x4 : Nat) (x5 : BarOp) (x6 : Ty) (x7 : Nat) : Sized.Statement (.mloop x0 x1 x2 x3 x4 x5 x6 x7) :=
  fun _ h => Option.some.inj h ▸ encMX_words _ _ _ _ _ _ _ _ _ _ _

theorem Sized.mzero (x0 : Nat) (x1 : Nat) (x2 : Nat) (x3 : BarOp) (x4 : Nat) : Sized.Statement (.mzero x0 x1 x2 x3 x4) :=
  fun _ h => Option.some.inj h ▸ encMX_words _ _ _ _ _ _ _ _ _ _ _

theorem Sized.mdrain (x0 : Nat) (x1 : Option Nat) (x2 : Nat) (x3 : Nat) (x4 : Bool) (x5 : BarOp) (x6 : Ty) (x7 : Int) (x8 : Nat) : Sized.Statement (.mdrain x0 x1 x2 x3 x4 x5 x6 x7 x8) :=
  fun _ h => Option.some.inj h ▸ encMX_words _ _ _ _ _ _ _ _ _ _ _

theorem Sized.mbind (x0 : Nat) (x1 : Nat) (x2 : Nat) (x3 : Nat) : Sized.Statement (.mbind x0 x1 x2 x3) :=
  fun _ h => Option.some.inj h ▸ encMX_words _ _ _ _ _ _ _ _ _ _ _

theorem Sized.mfree (x0 : Nat) (x1 : Nat) : Sized.Statement (.mfree x0 x1) :=
  fun _ h => Option.some.inj h ▸ encMX_words _ _ _ _ _ _ _ _ _ _ _

theorem Sized.mrinit (x0 : Nat) (x1 : Nat) (x2 : Nat) : Sized.Statement (.mrinit x0 x1 x2) :=
  fun _ h => Option.some.inj h ▸ encMX_words _ _ _ _ _ _ _ _ _ _ _

theorem Sized.mrpush (x0 : Nat) (x1 : Nat) (x2 : Nat) (x3 : Nat) : Sized.Statement (.mrpush x0 x1 x2 x3) :=
  fun _ h => Option.some.inj h ▸ encMX_words _ _ _ _ _ _ _ _ _ _ _

theorem Sized.mrrel (x0 : Nat) (x1 : Nat) (x2 : Nat) : Sized.Statement (.mrrel x0 x1 x2) :=
  fun _ h => Option.some.inj h ▸ encMX_words _ _ _ _ _ _ _ _ _ _ _

theorem Sized.mqsr (x0 : Nat) (x1 : Nat) (x2 : Nat) : Sized.Statement (.mqsr x0 x1 x2) :=
  fun _ h => Option.some.inj h ▸ encMX_words _ _ _ _ _ _ _ _ _ _ _

theorem Sized.finit (x0 : Nat) (x1 : Nat) (x2 : Nat) (x3 : Nat) : Sized.Statement (.finit x0 x1 x2 x3) :=
  fun _ h => Option.some.inj h ▸ encFX_words _ _ _ _ _ _ _

theorem Sized.fupd (x0 : Nat) (x1 : Nat) (x2 : Nat) : Sized.Statement (.fupd x0 x1 x2) :=
  fun _ h => Option.some.inj h ▸ encFX_words _ _ _ _ _ _ _

theorem Sized.fdown (x0 : Nat) (x1 : Nat) (x2 : Nat) : Sized.Statement (.fdown x0 x1 x2) :=
  fun _ h => Option.some.inj h ▸ encFX_words _ _ _ _ _ _ _

theorem Sized.fsolve (x0 : Nat) (x1 : Nat) (x2 : Bool) (x3 : Nat) : Sized.Statement (.fsolve x0 x1 x2 x3) :=
  fun _ h => Option.some.inj h ▸ encFX_words _ _ _ _ _ _ _

theorem Sized.flogdet (x0 : Nat) (x1 : Nat) (x2 : Nat) : Sized.Statement (.flogdet x0 x1 x2) :=
  fun _ h => Option.some.inj h ▸ encFX_words _ _ _ _ _ _ _

theorem Sized.fdrain (x0 : Nat) (x1 : Nat) (x2 : Int) (x3 : Nat) : Sized.Statement (.fdrain x0 x1 x2 x3) :=
  fun _ h => Option.some.inj h ▸ encFX_words _ _ _ _ _ _ _

theorem Sized.fload (x0 : Nat) (x1 : Nat) (x2 : Int) (x3 : Nat) : Sized.Statement (.fload x0 x1 x2 x3) :=
  fun _ h => Option.some.inj h ▸ encFX_words _ _ _ _ _ _ _

theorem Sized.ffree (x0 : Nat) (x1 : Nat) : Sized.Statement (.ffree x0 x1) :=
  fun _ h => Option.some.inj h ▸ encFX_words _ _ _ _ _ _ _

theorem Sized.nop (x0 : Option Nat) : Sized.Statement (.nop x0) :=
  fun _ h => Option.some.inj h ▸ enc1_words _ _ _ _ (by omega)

theorem Sized.hint (x0 : Option Nat) : Sized.Statement (.hint x0) :=
  fun _ h => Option.some.inj h ▸ enc1_words _ _ _ _ (by omega)

theorem Sized.pref (x0 : Option Nat) : Sized.Statement (.pref x0) :=
  fun _ h => Option.some.inj h ▸ enc1_words _ _ _ _ (by omega)

theorem Sized.accownSwitch (x0 : Nat) (x1 : Nat) : Sized.Statement (.accownSwitch x0 x1) :=
  fun _ h => nomatch h

theorem Sized.splitPromotion (x0 : Nat) (x1 : Nat) : Sized.Statement (.splitPromotion x0 x1) :=
  fun _ h => nomatch h

theorem Sized.criticalLimitExpiry (x0 : Nat) : Sized.Statement (.criticalLimitExpiry x0) :=
  fun _ h => nomatch h

theorem Sized.sleepExpiry (x0 : Nat) (x1 : Nat) : Sized.Statement (.sleepExpiry x0 x1) :=
  fun _ h => nomatch h

theorem Sized.refreshWindow (x0 : Nat) : Sized.Statement (.refreshWindow x0) :=
  fun _ h => nomatch h

theorem Sized.refreshWindowEnd (x0 : Nat) : Sized.Statement (.refreshWindowEnd x0) :=
  fun _ h => nomatch h

theorem Sized.scratchpadLoadDelivery (x0 : Nat) (x1 : Nat) : Sized.Statement (.scratchpadLoadDelivery x0 x1) :=
  fun _ h => nomatch h

theorem Sized.engineOperationComplete (x0 : Nat) (x1 : Nat) : Sized.Statement (.engineOperationComplete x0 x1) :=
  fun _ h => nomatch h

theorem Sized.barrierLanding (x0 : Nat) (x1 : Nat) (x2 : Nat) : Sized.Statement (.barrierLanding x0 x1 x2) :=
  fun _ h => nomatch h

theorem Sized.writeApply (x0 : Nat) (x1 : Nat) : Sized.Statement (.writeApply x0 x1) :=
  fun _ h => nomatch h

theorem Sized.matrixOperationExecute (x0 : Nat) : Sized.Statement (.matrixOperationExecute x0) :=
  fun _ h => nomatch h

theorem Sized.factorOperationExecute (x0 : Nat) : Sized.Statement (.factorOperationExecute x0) :=
  fun _ h => nomatch h

theorem Sized.powerGrant (x0 : Nat) : Sized.Statement (.powerGrant x0) :=
  fun _ h => nomatch h

theorem Sized.grantExpiry (x0 : Nat) (x1 : Nat) : Sized.Statement (.grantExpiry x0 x1) :=
  fun _ h => nomatch h

theorem Sized.rayAdmit (x0 : Nat) (x1 : Nat) (x2 : Nat) : Sized.Statement (.rayAdmit x0 x1 x2) :=
  fun _ h => nomatch h

theorem Sized.rayComplete (x0 : Nat) (x1 : Nat) (x2 : Nat) : Sized.Statement (.rayComplete x0 x1 x2) :=
  fun _ h => nomatch h

theorem Sized.groupRetire (x0 : Nat) : Sized.Statement (.groupRetire x0) :=
  fun _ h => nomatch h

theorem Sized.launch (x0 : Nat) (x1 : Nat) : Sized.Statement (.launch x0 x1) :=
  fun _ h => nomatch h

theorem Sized.wsload (x0 : Nat) (x1 : Nat) : Sized.Statement (.wsload x0 x1) :=
  fun _ h => nomatch h

theorem Sized.wsloadComplete (x0 : Nat) (x1 : Nat) : Sized.Statement (.wsloadComplete x0 x1) :=
  fun _ h => nomatch h

theorem Sized.waitev (x0 : Nat) (x1 : Nat) : Sized.Statement (.waitev x0 x1) :=
  fun _ h => nomatch h

theorem Sized.signal (x0 : Nat) (x1 : Nat) : Sized.Statement (.signal x0 x1) :=
  fun _ h => nomatch h

theorem Sized.signalComplete (x0 : Nat) (x1 : Nat) : Sized.Statement (.signalComplete x0 x1) :=
  fun _ h => nomatch h

theorem Sized.queueNop (x0 : Nat) (x1 : Nat) : Sized.Statement (.queueNop x0 x1) :=
  fun _ h => nomatch h

theorem Sized.wptrWrite (x0 : Nat) (x1 : Nat) (x2 : Nat) : Sized.Statement (.wptrWrite x0 x1 x2) :=
  fun _ h => nomatch h

theorem Sized.rptrRewrite (x0 : Nat) (x1 : Nat) (x2 : Nat) : Sized.Statement (.rptrRewrite x0 x1 x2) :=
  fun _ h => nomatch h

theorem Sized.gangDispatch (x0 : Nat) (x1 : Nat) (x2 : List Nat) : Sized.Statement (.gangDispatch x0 x1 x2) :=
  fun _ h => nomatch h

theorem Sized.stallWindow : Sized.Statement .stallWindow :=
  fun _ h => nomatch h

theorem Sized.stallGangSave (x0 : Nat) : Sized.Statement (.stallGangSave x0) :=
  fun _ h => nomatch h

theorem Sized.gangRestore (x0 : Nat) (x1 : Nat) (x2 : List Nat) : Sized.Statement (.gangRestore x0 x1 x2) :=
  fun _ h => nomatch h

theorem Sized.preemptionRequest (x0 : Nat) : Sized.Statement (.preemptionRequest x0) :=
  fun _ h => nomatch h

theorem Sized.drainTimerExpiry (x0 : Nat) : Sized.Statement (.drainTimerExpiry x0) :=
  fun _ h => nomatch h

theorem Sized.quantumExpiry (x0 : Nat) : Sized.Statement (.quantumExpiry x0) :=
  fun _ h => nomatch h

theorem Sized.contextSave (x0 : Nat) : Sized.Statement (.contextSave x0) :=
  fun _ h => nomatch h

theorem Sized.contextRestore (x0 : Nat) (x1 : List Placement) : Sized.Statement (.contextRestore x0 x1) :=
  fun _ h => nomatch h

theorem Sized.forcedReset (x0 : Nat) : Sized.Statement (.forcedReset x0) :=
  fun _ h => nomatch h

theorem Sized.contextCreate (x0 : Nat) (x1 : Nat) : Sized.Statement (.contextCreate x0 x1) :=
  fun _ h => nomatch h

theorem Sized.contextDestroy (x0 : Nat) : Sized.Statement (.contextDestroy x0) :=
  fun _ h => nomatch h

theorem Sized.contextDescriptorWrite (x0 : Nat) (x1 : Nat) : Sized.Statement (.contextDescriptorWrite x0 x1) :=
  fun _ h => nomatch h

theorem Sized.partitionAdd (x0 : Nat) (x1 : Nat) : Sized.Statement (.partitionAdd x0 x1) :=
  fun _ h => nomatch h

theorem Sized.partitionWithdraw (x0 : Nat) (x1 : Nat) : Sized.Statement (.partitionWithdraw x0 x1) :=
  fun _ h => nomatch h

theorem Sized.quarterRelease (x0 : Nat) : Sized.Statement (.quarterRelease x0) :=
  fun _ h => nomatch h

theorem Sized.bandResume (x0 : Nat) (x1 : Nat) (x2 : Nat) (x3 : Nat) (x4 : List Placement) : Sized.Statement (.bandResume x0 x1 x2 x3 x4) :=
  fun _ h => nomatch h

theorem Sized.vfBind (x0 : Nat) (x1 : Nat) : Sized.Statement (.vfBind x0 x1) :=
  fun _ h => nomatch h

theorem Sized.vfSuspend (x0 : Nat) : Sized.Statement (.vfSuspend x0) :=
  fun _ h => nomatch h

theorem Sized.vfResume (x0 : Nat) : Sized.Statement (.vfResume x0) :=
  fun _ h => nomatch h

theorem Sized.guestSwitchStep (x0 : Nat) (x1 : List Placement) : Sized.Statement (.guestSwitchStep x0 x1) :=
  fun _ h => nomatch h

theorem Sized.translationUpdate (x0 : Nat) (x1 : Nat) : Sized.Statement (.translationUpdate x0 x1) :=
  fun _ h => nomatch h

theorem Sized.wsmapUpdate (x0 : Nat) (x1 : List Nat) : Sized.Statement (.wsmapUpdate x0 x1) :=
  fun _ h => nomatch h

theorem Sized.shootDown (x0 : Nat) (x1 : Nat) (x2 : Nat) (x3 : List Nat) : Sized.Statement (.shootDown x0 x1 x2 x3) :=
  fun _ h => nomatch h

theorem Sized.shootDownAck (x0 : Nat) (x1 : AckNode) : Sized.Statement (.shootDownAck x0 x1) :=
  fun _ h => nomatch h

theorem Sized.shootDownTimeout (x0 : Nat) (x1 : Nat) : Sized.Statement (.shootDownTimeout x0 x1) :=
  fun _ h => nomatch h

theorem Sized.escalationResume (x0 : Nat) : Sized.Statement (.escalationResume x0) :=
  fun _ h => nomatch h

theorem Sized.translationPublish (x0 : Nat) (x1 : Nat) (x2 : Option Translation) : Sized.Statement (.translationPublish x0 x1 x2) :=
  fun _ h => nomatch h

theorem Sized.heapResume (x0 : Nat) : Sized.Statement (.heapResume x0) :=
  fun _ h => nomatch h

theorem Sized.collectiveGroupWrite (x0 : Nat) (x1 : Nat) (x2 : List (Nat × Nat)) (x3 : Nat) : Sized.Statement (.collectiveGroupWrite x0 x1 x2 x3) :=
  fun _ h => nomatch h

theorem Sized.hostWrite (x0 : Nat) (x1 : List Byte) : Sized.Statement (.hostWrite x0 x1) :=
  fun _ h => nomatch h

theorem Sized.readRequest (x0 : Nat) (x1 : Flit) : Sized.Statement (.readRequest x0 x1) :=
  fun _ h => nomatch h

theorem Sized.readData (x0 : Nat) (x1 : Flit) : Sized.Statement (.readData x0 x1) :=
  fun _ h => nomatch h

theorem Sized.write (x0 : Nat) (x1 : Flit) : Sized.Statement (.write x0 x1) :=
  fun _ h => nomatch h

theorem Sized.acknowledgement (x0 : Nat) (x1 : Flit) : Sized.Statement (.acknowledgement x0 x1) :=
  fun _ h => nomatch h

theorem Sized.collective (x0 : Nat) (x1 : Flit) : Sized.Statement (.collective x0 x1) :=
  fun _ h => nomatch h

theorem Sized.shootDownFlit (x0 : Nat) (x1 : Flit) : Sized.Statement (.shootDownFlit x0 x1) :=
  fun _ h => nomatch h

theorem Sized.replayRequest (x0 : Nat) (x1 : Flit) : Sized.Statement (.replayRequest x0 x1) :=
  fun _ h => nomatch h

theorem Sized.idleFlit (x0 : Nat) (x1 : Flit) : Sized.Statement (.idleFlit x0 x1) :=
  fun _ h => nomatch h

theorem Sized.linkTraining (x0 : Nat) : Sized.Statement (.linkTraining x0) :=
  fun _ h => nomatch h

theorem Sized.trainingComplete (x0 : Nat) (x1 : Nat) (x2 : Nat) : Sized.Statement (.trainingComplete x0 x1 x2) :=
  fun _ h => nomatch h

theorem Sized.linkTimeout (x0 : Nat) : Sized.Statement (.linkTimeout x0) :=
  fun _ h => nomatch h

theorem Sized.portReset (x0 : Nat) : Sized.Statement (.portReset x0) :=
  fun _ h => nomatch h

theorem Sized.headDescriptor (x0 : Nat) (x1 : Nat) : Sized.Statement (.headDescriptor x0 x1) :=
  fun _ h => nomatch h

theorem Sized.frameLatch (x0 : Nat) : Sized.Statement (.frameLatch x0) :=
  fun _ h => nomatch h

theorem Sized.candidateComplete (x0 : Nat) (x1 : Nat) (x2 : Nat) : Sized.Statement (.candidateComplete x0 x1 x2) :=
  fun _ h => nomatch h

theorem Sized.bandDeadline (x0 : Nat) (x1 : Nat) : Sized.Statement (.bandDeadline x0 x1) :=
  fun _ h => nomatch h

theorem Sized.frameEnd (x0 : Nat) : Sized.Statement (.frameEnd x0) :=
  fun _ h => nomatch h

theorem Sized.encoderTileRow (x0 : Nat) (x1 : Nat) : Sized.Statement (.encoderTileRow x0 x1) :=
  fun _ h => nomatch h

theorem Sized.headRebind (x0 : Nat) (x1 : Nat) : Sized.Statement (.headRebind x0 x1) :=
  fun _ h => nomatch h

theorem Sized.packageReset : Sized.Statement .packageReset :=
  fun _ h => nomatch h

theorem Sized.recoveryImageLoad (x0 : FwImage) : Sized.Statement (.recoveryImageLoad x0) :=
  fun _ h => nomatch h

theorem Sized.deviceReady (x0 : Nat) : Sized.Statement (.deviceReady x0) :=
  fun _ h => nomatch h

theorem Sized.commitImage : Sized.Statement .commitImage :=
  fun _ h => nomatch h

theorem Sized.attestationRequest (x0 : Nat) (x1 : List Byte) : Sized.Statement (.attestationRequest x0 x1) :=
  fun _ h => nomatch h

theorem Sized.violation (x0 : Master) : Sized.Statement (.violation x0) :=
  fun _ h => nomatch h

theorem Sized.masterRelease (x0 : Master) : Sized.Statement (.masterRelease x0) :=
  fun _ h => nomatch h

theorem Sized.thermalThrottle (x0 : Nat) (x1 : Sensors) : Sized.Statement (.thermalThrottle x0 x1) :=
  fun _ h => nomatch h

theorem Sized.thermalRestore (x0 : Nat) (x1 : Sensors) : Sized.Statement (.thermalRestore x0 x1) :=
  fun _ h => nomatch h

theorem Sized.thermalStop (x0 : Nat) (x1 : Sensors) : Sized.Statement (.thermalStop x0 x1) :=
  fun _ h => nomatch h

theorem Sized.illegalInstructionWord (x0 : Nat) : Sized.Statement (.illegalInstructionWord x0) :=
  fun _ h => nomatch h

theorem Sized.badCrcFlit (x0 : Nat) (x1 : Flit) : Sized.Statement (.badCrcFlit x0 x1) :=
  fun _ h => nomatch h

theorem Sized.stackQuotaAssignment (x0 : Nat) (x1 : Nat) (x2 : Nat) : Sized.Statement (.stackQuotaAssignment x0 x1 x2) :=
  fun _ h => nomatch h

theorem Sized.arithmeticClockRestart : Sized.Statement .arithmeticClockRestart :=
  fun _ h => nomatch h

end Sys2Proof.Laws
end

