-- ==== Sys2Proof/Tests/Slice0.lean ====
section
/-!
SUPPORT. Tests: ill-formed terms that WellFormed refuses, words of the manual that decode to what they stand for, single
steps whose results the manual gives, and a witness for the hypotheses of every statement.
-/

namespace Sys2Proof.Tests

open Sys2Proof Sys2Proof.Machine Sys2Proof.Claims

/- The kernel evaluates these theorems one after another. -/
set_option Elab.async false

/-! ## Ill-formed instructions: one for each check -/

def illFormed (l : List Instr) : Bool := l.all fun i => i.wf == false

theorem illformed_fields : illFormed [
    Instr.join 16 none, .join 0 (some 256), .ret 64 none, .exit (some 256), .tret (some 256), .yield (some 256),
    .sleep (.reg 64) none, .sleep (.lit (2 ^ 64)) none, .bri 64 none, .calli 64 0 0 none, .calli 0 256 0 none,
    .calli 0 0 16 none, .briv 0 256 0 none, .br (.small 4194304) none, .call (.small (-4194305)) none,
    .bz 64 (.small 0) none, .bnz 0 (.small 8192) none, .brv 17 (.small 0) 0 none, .brk 0 (.small 0) 16 none,
    .ball 17 (.small 0) none, .srd false 64 .lane none, .srd true 256 .lane none, .swr false 64 .lane none,
    .trap 0x8000 none, .spawn 0 0 (2 ^ 64) none, .spawn 0 0 2 none] = true := by decide

theorem illformed_masks_and_scalars : illFormed [
    Instr.mmov 16 0 none, .mmov 0 17 none, .mand 0 0 17 none, .mset 0 (.lit (2 ^ 32)) none, .mset 0 (.reg 64) none,
    .msave 0 16 none, .msave 0 3 none, .mrestore 1 0 none, .mpop 64 0 none, .sadd 64 0 0 none, .sadd 0 64 0 none,
    .sadd 0 0 64 none, .saddImm 0 0 (.small 32) none, .saddImm 0 0 (.small (-33)) none,
    .smovImm 0 (.lit (2 ^ 64)) none, .sclz 0 64 none, .nop (some 256)] = true := by decide

theorem illformed_vectors : illFormed [
    Instr.vaddInt 256 0 (.imm 0) .i32 0, .vaddInt 0 256 (.imm 0) .i32 0, .vaddInt 0 0 (.vec 256) .i32 0,
    .vaddInt 0 0 (.scalar 64) .i32 0, .vaddInt 0 0 (.imm (2 ^ 32)) .i32 0, .vaddInt 0 0 (.imm 256) .n8 0,
    .vaddInt 0 0 (.imm 0) .i32 256, .vaddInt 0 0 (.imm 0) .f32 0, .vaddInt 1 0 (.imm 0) .i64 0,
    .vaddInt 0 3 (.imm 0) .i64 0, .vaddInt 0 0 (.vec 1) .n64 0, .vaddInt 0 0 (.scalar 1) .n64 0,
    .vmulInt 0 0 (.imm 0) .i64 0, .vmad 0 0 (.imm 0) 256 .i32 0, .vand 0 0 (.imm 0) .f32 0, .vbfx 0 0 (.imm 0) .n16 0,
    .vsel 0 0 (.imm 0) 17 .n32 0, .vmov 0 (.imm 0) .i64 0, .vaddFp 0 0 (.imm 0) .i32 .rne 0,
    .vminFp 0 0 (.imm 0) .e4m3 0, .vcmp .eq 16 0 (.imm 0) .i32 0, .vcmp .ord 0 0 (.imm 0) .i32 0,
    .vshup 0 0 (.vec 3) .n32 0, .vshfl 0 0 (.imm 0) .i64 0, .vgred 0 0 .xchg .i32 0, .vscan 0 0 .xor .f32 0] = true := by decide

theorem illformed_tangents_and_conversions : illFormed [
    Instr.tseed 0 8 (.imm 0) 0, .tzero 0 (some 8) 0, .tget 0 0 8 0, .tset 0 8 (.imm 0) 0, .tmov 0 8 0 0 0,
    .tmov 0 0 0 8 0, .vcvt 0 0 .f32 .f32 .rne 0, .vcvt 1 0 .i64 .f32 .rne 0, .vcvt 0 1 .f32 .n64 .rne 0,
    .vcvt 0 0 .i32 .i16 .rup 0, .vcvtsr 0 0 (.vec 0) 256 .bf16 0, .vcvtsr 0 0 (.vec 0) 8 .f32 0, .vrand 0 1 0,
    .vrand 2 2 0, .vrand 3 2 0, .vrseed 1 2 0, .vrseed 2 1 0, .vunpk 0 0 4 .f32 .f16 0] = true := by decide

theorem illformed_memory : illFormed [
    Instr.ld 0 ⟨true, 64, .small 0⟩ .f32 false ⟨.plain, .lane, false⟩ 0,
    .ld 0 ⟨false, 0, .small 32768⟩ .f32 false ⟨.plain, .lane, false⟩ 0,
    .ld 1 ⟨false, 0, .small 0⟩ .i64 false ⟨.plain, .lane, false⟩ 0,
    .ld 0 ⟨false, 0, .small 0⟩ .n32 true ⟨.plain, .lane, false⟩ 0,
    .ld 0 ⟨false, 0, .small 0⟩ .f32 false ⟨.rel, .group, false⟩ 0,
    .ld 0 ⟨false, 0, .small 0⟩ .f32 false ⟨.plain, .group, false⟩ 0,
    .st 0 ⟨false, 0, .small 0⟩ .f32 false ⟨.acq, .group, false⟩ 0,
    .st 0 ⟨false, 0, .small 0⟩ .f32 false ⟨.plain, .lane, true⟩ 0,
    .ldt 0 ⟨false, 0, .small 0⟩ .f32 false 4 0, .ldt 0 ⟨true, 0, .small 0⟩ .f32 false 0 0,
    .stt 0 ⟨true, 0, .small 0⟩ .f32 false 33 0, .stt 0 ⟨true, 0, .small 0⟩ .i64 false 4 0,
    .ldw 3 ⟨false, 0, .small 0⟩ .n64 0, .sld 0 ⟨false, 0, .small 0⟩ .n32 ⟨.plain, .lane, false⟩ 0,
    .sst 64 ⟨true, 0, .small 0⟩ .n32 ⟨.plain, .lane, false⟩ 0,
    .atom 0 ⟨false, 0, .small 0⟩ 0 .add .f16 ⟨.plain, .lane, false⟩ 0,
    .atom 0 ⟨false, 0, .small 0⟩ 0 .xor .f32 ⟨.plain, .lane, false⟩ 0,
    .acas 0 ⟨false, 0, .small 0⟩ 3 .n64 ⟨.plain, .lane, false⟩ 0,
    .wbind 8 .rw 0 (.reg 0) none, .winv 8 none] = true := by decide

theorem illformed_engines : illFormed [
    Instr.cpy 64 ⟨false, 0⟩ 0, .cpy 0 ⟨true, 32⟩ 0, .gath 0 0 8 0 .f32 0, .scat 0 0 0 (2 ^ 31) .f32 0,
    .pld 1 0 0 0 .i64 0, .pst 0 256 0 0 .f32 0, .red 0 0 0 0 .add .f16 .plain false 0,
    .amg 0 0 0 0 .xor .f32 .plain false 0, .tex 0 0 64 false 0, .texg 256 0 0 false 0, .isect 0 0 0 ⟨true, 32⟩ 0,
    .visq 0 0 64 ⟨false, 0⟩ 0, .coll .ared .sum .i32 0 0 0 0, .coll .ared .sum .f32 0 32 0 0,
    .coll .ared .sum .f32 0 0 65536 0, .waitc .cp 2048 none, .binit 32 (.reg 0) none, .binit 0 (.lit 65536) none,
    .expect 0 (.lit (2 ^ 40)) none, .arrive 0 0 false true none, .waitb 0 0 false true none, .testb 64 0 none,
    .fence .gang .ar none] = true := by decide

theorem illformed_matrix_and_factors : illFormed [
    Instr.mbind 16 0 1 0, .mbind 0 1024 1 0, .mbind 0 0 0 0, .mbind 0 0 2048 0, .mfree 16 0, .mzero 0 0 0 ⟨false, 0⟩ 0,
    .mzero 0 1024 1 ⟨false, 0⟩ 0, .mrinit 64 1 0, .mrinit 0 0 0, .mrinit 0 9 0, .mrpush 64 0 0 0, .mrrel 64 0 0,
    .mqsr 0 4 0, .finit 4 0 0 0, .finit 0 8 0 0, .finit 0 0 256 0, .fupd 4 0 0, .fdown 0 256 0, .flogdet 0 64 0,
    .fdrain 0 64 0 0, .fload 0 0 (2 ^ 31) 0, .ffree 4 0] = true := by decide

/-! ## Decoding: words of the manual's worked encodings, a family each -/

theorem decode_control :
    decodeWords [0x1007E000] = .instr (.ret 63 none) ∧ decodeWords [0x18000000] = .instr (.exit none) ∧
    decodeWords [0x40A14400] = .instr (.calli 10 20 2 none) ∧
    decodeWords [0x30000002, 0x3E8, 0] = .instr (.sleep (.lit 1000) none) ∧
    decodeWords [0x00004224] = .instr (.trap 0x21 none) ∧
    decodeWords [0x2480002A, 0x200, 0] = .instr (.spawn 9 32 0x200 none) ∧
    decodeWords [0x2600380C] = .instr (.bnz 12 (.small 28) none) := by decide

theorem decode_scalar_and_masks :
    decodeWords [0x00E28C60] = .instr (.sadd 7 5 6 none) ∧ decodeWords [0x44000020] = .instr (.srd true 16 .lane none) ∧
    decodeWords [0x00480040] = .instr (.mmov 2 16 none) ∧
    decodeWords [0x30600042, 0xFF, 0] = .instr (.mset 3 (.lit 255) none) ∧
    decodeWords [0x000001FC] = .instr (.nop none) := by decide

theorem decode_vectors :
    decodeWords [0x00008141, 0x000A0000, 0] = .instr (.vcvt 0 16 .f32 .n32 .rne 0) ∧
    decodeWords [0x10082845, 0x02000000, 0] = .instr (.vcmp .lt 1 5 (.vec 2) .f32 0) ∧
    decodeWords [0x50A884A1, 0xA000, 3] = .instr (.vand 21 16 (.imm 3) .n32 0) ∧
    decodeWords [0x08484141, 0x28082000, 0] = .instr (.vcvtsr 9 8 (.vec 40) 8 .bf16 0) ∧
    decodeWords [0x28605049, 0, 0] = .instr (.vgred 12 10 .add .f32 0) ∧
    decodeWords [0x000004E5, 0, 0x3F800000] = .instr (.tseed 0 0 (.imm 0x3F800000) 0) ∧
    decodeWords [0x201810E5, 0x00010000, 0] = .instr (.tmov 3 1 2 0 0) := by decide

theorem decode_memory_and_engines :
    decodeWords [0x00180561, 0, 0] = .instr (.ld 3 ⟨true, 0, .small 0⟩ .f32 false ⟨.plain, .lane, false⟩ 0) ∧
    decodeWords [0x08382361, 0x01000000, 0] = .instr (.st 7 ⟨false, 4, .small 256⟩ .f32 true ⟨.plain, .lane, false⟩ 0) ∧
    decodeWords [0x30482181, 0x00054000, 0] = .instr (.amg 9 4 2 0 .add .n32 .plain false 0) ∧
    decodeWords [0x480001B1, 0x78000000, 0] = .instr (.mqsr 30 0 0) := by decide

/-- Words that are no instruction are rejected by name, and words that end too early. -/
theorem decode_rejects : decodeWords [0] = .reject .reservedMinor ∧ decodeWords [] = .reject .truncated ∧
    decodeWords [0x00008141, 0x000A0000] = .reject .truncated := by decide

/-! ## Small states -/

/-- The machine after reset with a program placed, its issuing group changed by f. -/
def mach (f : Group → Group) : State :=
  let s := State.reset.placeWords []
  s.setGrp (f s.grp)

/-- A running split. -/
def runs (pc : Nat) (m : Word32) : Split := Split.run (BitVec.ofNat 52 pc) m 16 false

/-- A group with the splits and the stack, m1 and s5, s6, s7 set. -/
def mid (l : List (Nat × Split)) (stk : List StackEntry := []) : State := mach fun g =>
  { g with splits := l, stack := stk, m := [(1, 0x0F)], s := [(5, 0x1000), (6, 3), (7, 0xFFFFFFFFFFFFFFFF)] }

/-- The lanes of a mask are below 32. -/
theorem lanes_of {m : Word32} {p : Nat → Prop} (h : ∀ l, l < 32 → m.getLsbD l = true → p l) :
    ∀ l, m.getLsbD l = true → p l := fun l hl => h l (BitVec.lt_of_getLsbD hl) hl

/-! ## Witnesses: the machine as a whole -/

theorem wit_decode_reads_encode : [
    Instr.calli 63 255 15 (some 255), .br (.small (-4194304)) none, .br (.lit (2 ^ 64 - 1)) none, .sadd 63 63 63 none,
    .saddImm 0 0 (.small 31) none, .ld 254 ⟨false, 255, .small (-32768)⟩ .i64 false ⟨.acq, .system, true⟩ 255].all
    (fun i => i.wf && (encodeFrame i).isSome) = true := by decide

theorem wit_words_have_one_meaning : (∀ w ∈ [0x00E28C60, 0xFFFFFFFF], w < 2 ^ 32) ∧
    decodeWords [0x00E28C60, 0xFFFFFFFF] = .instr (.sadd 7 5 6 none) := by decide

/-- What the fetch of the selected split delivers. -/
def fetchGives (s : State) (p : Decoded → Bool) : Bool :=
  match s.wordsOfSplit 0 0 with
  | .ok (ws, _) => p (decodeWords ws)
  | .error _ => false

def faultsFetch (s : State) : Bool :=
  match s.wordsOfSplit 0 0 with
  | .ok _ => false
  | .error _ => true

/-- The state in which the slot of the next turn looks for a split. -/
def looks (s : State) : State := atSlot s.nextTurn.2 s.nextTurn.1 0

theorem wit_step_event : ({ State.reset with agenda := [⟨0, .event .packageReset⟩] } : State).nextTurn.1.who =
    .event .packageReset ∧ isEvent .packageReset = true := by decide +kernel

theorem wit_step_idle : ({ State.reset with agenda := [⟨3, .idle⟩] } : State).nextTurn.1.who = .idle := by decide +kernel

theorem wit_step_waits : (mach id).nextTurn.1.who = .issue 0 ∧
    (looks { mach id with busy := [(0, 5)] }).clock < Sparse.get 0 (looks { mach id with busy := [(0, 5)] }).busy 0 ∧
    (looks (mach fun _ => Group.free)).select 0 = none := by decide +kernel

theorem wit_step_runs :
    let s := looks (State.reset.withFetchWord 32 0x00E28C60)
    Sparse.get 0 s.busy 0 ≤ s.clock ∧ s.select 0 = some ⟨0, 0⟩ ∧
      fetchGives s (fun d => decide (d = .instr (.sadd 7 5 6 none))) = true := by decide +kernel

theorem wit_step_rejects :
    let s := looks (State.reset.withFetchWord 32 0)
    Sparse.get 0 s.busy 0 ≤ s.clock ∧ s.select 0 = some ⟨0, 0⟩ ∧
      fetchGives s (fun d => decide (d = .reject .reservedMinor)) = true := by decide +kernel

theorem wit_step_cannot_fetch :
    let s := looks (mid [(0, runs 0x8000000000000 1)])
    Sparse.get 0 s.busy 0 ≤ s.clock ∧ s.select 0 = some ⟨0, 0⟩ ∧ faultsFetch s = true := by decide +kernel

theorem wit_step_fetch_held :
    (match (looks (mach fun g => { g with groupHorizon := [(1, 5)] })).wordsOfSplit 0 0 with
      | .error .held => true
      | _ => false) = true := by decide +kernel

/-- Words of an instruction that the user split may not run, and of one that the group runs after its flashback point. -/
theorem wit_step_legal :
    (let s := looks (State.reset.withFetchWord 32 0x44000020)
     (s.chosen ⟨0, 0⟩).grp.legal (s.chosen ⟨0, 0⟩).spl.sup (.srd true 16 .lane none) = true) ∧
    (let s := looks (mach id); (s.chosen ⟨0, 0⟩).grp.legal (s.chosen ⟨0, 0⟩).spl.sup (.srd false 5 .fltpc none) = false) := by
  decide +kernel

/-- A fence that is not complete holds the load at PC 0 of one split, and the slot goes on with the other, at 0x40. -/
def fencedSplits : State :=
  let s := State.reset.placeWords (bytesOf 12 0x00180561 ++ List.replicate 52 0 ++ bytesOf 4 0x00E28C60)
  s.setGrp { s.grp with splits := [(0, runs 0 1), (1, runs 0x40 2)], fences := [⟨.lane, .acq, 1, 0⟩] }

theorem wit_issue_stands :
    let s := looks fencedSplits
    s.firstOf (s.readySplits 0) = some ⟨0, 0⟩ ∧
    (match State.issueSplit 0 exec ⟨0, 0⟩ s with
      | .next t => t.stands
      | _ => false) = true ∧
    (match State.issueFrom 0 exec 2 (s.readySplits 0) s with
      | .next t => t.cur == ⟨0, 1⟩ && t.pc == 0x44 && (t.grp.split 0).pc == 0
      | _ => false) = true := by decide +kernel

theorem wit_selects : (looks (mid [(0, runs 0 1), (1, runs 8 2)])).select 0 = some ⟨0, 0⟩ ∧
    (looks (mid [(0, runs 0 1), (1, runs 8 2)])).isReady 0 1 = true := by decide +kernel

/-- A step from the machine after reset, and from a machine with a program placed, answers a next state. -/
theorem wit_invariants : State.reset.memoryWf = true ∧ TablesWf State.reset ∧ StacksOk State.reset ∧
    TablesWf (mach id) ∧ StacksOk (mach id) := by
  unfold TablesWf StacksOk StackOk; decide +kernel

theorem wit_step_next : (match step State.reset with | .next _ => true | _ => false) = true ∧
    (match step (mach id) with | .next _ => true | _ => false) = true := by decide +kernel

theorem wit_numbered : Numbered State.reset :=
  ⟨fun d pa => by simp [State.reset, State.die, Die.mark, Die.reset, Mark.clear],
   fun d w h => by simp [State.reset, State.die, Die.reset] at h⟩

/-! ## Witnesses: control -/

/-- A deferred entry whose JOIN is at token 3, of lanes that stand nowhere. -/
def region (tok : Nat) (m : Word32) : StackEntry := ⟨0, tok, .join, false, m, 0x10, 0⟩

theorem wit_settle : (mid [(0, runs 0x40 0xFF)] [⟨0, 3, .deferred, false, 0xF00, 0x80, 0⟩, region 3 0xFFF]).grp.stack.length ≤ 32 ∧
    (eligible 0 (mid [(0, runs 0x40 0xFF)] [⟨0, 3, .deferred, false, 0xF00, 0x80, 0⟩, region 3 0xFFF]).grp.stack).isSome = true := by
  decide

theorem wit_uniform_branches : okTarget (.small (-3)) ∧ okTarget (.lit 8) := by simp [okTarget]

/-- s5 holds 0x1000, s6 holds 3 and s7 holds -1; m1 holds the lanes 0 to 3. -/
theorem wit_branch_conditions :
    let s := mid [(0, runs 0x40 0xFF)]
    (s.grp.readS 4).toInt = 0 ∧ (s.grp.readS 6).toInt > 0 ∧ (s.grp.readS 7).toInt < 0 ∧
    s.em &&& ~~~(s.grp.readM 1) ≠ 0 ∧ s.em &&& s.grp.readM 1 ≠ 0 ∧ s.em &&& s.grp.readM 2 = 0 ∧
    ((s.grp.readS 5).setWidth 52 : Addr52).toNat % 4 = 0 ∧ ((s.grp.readS 6).setWidth 52 : Addr52).toNat % 4 ≠ 0 ∧
    s.grp.recipes = [] := by decide

/-- Lanes 0 and 1 return from a recipe whose point is 0x1000, all of its lanes or two of four; s63 is in the saved set or not. -/
theorem wit_recipe_returns :
    (let s := mid [(0, runs 0x40 3)]
     let s := s.setGrp { s.grp with recipes := [⟨3, 0x1000, some 77⟩] }
     s.grp.recipes = ⟨3, 0x1000, some 77⟩ :: [] ∧ (s.grp.readS 5).setWidth 52 = 0x1000#52 ∧
      (⟨3, 0x1000, some 77⟩ : Recipe).lanes &&& ~~~s.em = 0) ∧
    (let s := mid [(0, runs 0x40 3)]
     let s := s.setGrp { s.grp with recipes := [⟨15, 0x1000, none⟩, ⟨3, 0x2000, none⟩] }
     s.grp.recipes = ⟨15, 0x1000, none⟩ :: [⟨3, 0x2000, none⟩] ∧ (⟨15, 0x1000, none⟩ : Recipe).lanes &&& ~~~s.em ≠ 0 ∧
      (⟨15, 0x1000, none⟩ : Recipe).point ≠ (s.grp.readS 6).setWidth 52) := by decide

theorem wit_divergent_branch :
    (mid [(0, runs 0x40 0)]).em = 0 ∧
    (let s := mid [(0, runs 0x40 0xF0)]; s.em ≠ 0 ∧ s.em &&& s.grp.readM 1 = 0) ∧
    (let s := mid [(0, runs 0x40 0x0F)]; s.em ≠ 0 ∧ s.em &&& ~~~s.grp.readM 1 = 0) ∧
    (let s := mid [(0, runs 0x40 0xFF), (1, runs 0x80 0xF00)] (List.replicate 29 (region 5 0xF000))
     s.em &&& ~~~s.grp.readM 1 ≠ 0 ∧ s.em &&& s.grp.readM 1 ≠ 0 ∧ (s.grp.split 2).v = false ∧
      (∀ e, e < 2 → (s.grp.split e).v = true) ∧ s.grp.stack.length + 1 ≤ 30) ∧
    (let s := mid [(0, runs 0x40 0xFF), (1, runs 0x80 0xF00), (2, runs 0x80 0x1000), (3, runs 0x80 0x2000)]
        (List.replicate 28 (region 5 0xF000))
     s.em &&& ~~~s.grp.readM 1 ≠ 0 ∧ s.em &&& s.grp.readM 1 ≠ 0 ∧ (∀ e, e < 4 → (s.grp.split e).v = true) ∧
      s.grp.stack.length + 2 ≤ 30) := by decide

theorem wit_loop_break :
    (mid [(0, runs 0x40 0)]).em = 0 ∧
    (let s := mid [(0, runs 0x40 0xF0)] (List.replicate 29 (region 5 0xF000))
     s.em ≠ 0 ∧ s.em &&& s.grp.readM 1 = 0 ∧ ¬ Covered s.grp.stack 3 s.em ∧ s.grp.stack.length + 1 ≤ 30) ∧
    (let s := mid [(0, runs 0x40 0xF0)] [region 3 0xFF]
     s.em &&& s.grp.readM 1 = 0 ∧ Covered s.grp.stack 3 s.em) ∧
    (let s := mid [(0, runs 0x40 0x0F)] [region 3 0xFF]
     s.em &&& s.grp.readM 1 ≠ 0 ∧ s.em &&& ~~~s.grp.readM 1 = 0) ∧
    (let s := mid [(0, runs 0x40 0xFF)] [region 4 0x0F, region 3 0xFF]
     let g := Group.closeRegions 33 { s.grp with stack := brokenStack 3 s.em (s.em &&& s.grp.readM 1) s.grp.stack }
     s.em &&& s.grp.readM 1 ≠ 0 ∧ s.em &&& ~~~s.grp.readM 1 ≠ 0 ∧ (g.split 1).v = false ∧
      (∀ e, e < 1 → (g.split e).v = true) ∧ g.stack.length ≤ 30) := by
  unfold Covered; decide

/-- Lanes go to 0x1000 and 0x1010 by turns, lane by lane, through s5 and v1. -/
def lanesTo (m : Word32) (f : Nat → Nat) : State :=
  let s := mid [(0, runs 0x40 m)]
  s.setGrp { s.grp with v := ((List.range 32).map fun l => (32 + l, BitVec.ofNat 32 (f l))).filter fun p => p.2 ≠ 0 }

theorem wit_lane_branches :
    (let s := lanesTo 0 (fun _ => 0); 1 < s.grp.decl.c ∧ s.em = 0) ∧
    (let s := lanesTo 0xFF (fun _ => 0x10)
     (∀ l, l < 32 → s.em.getLsbD l = true → (s.grp.readS 5).setWidth 52 + (s.grp.readV 1 l).setWidth 52 = 0x1010#52) ∧
      s.em.getLsbD 0 = true) ∧
    (let s := lanesTo 0xFF (fun l => 0x10 * (l % 2))
     let parts := laneParts s.em fun l => (s.grp.readS 5).setWidth 52 + (s.grp.readV 1 l).setWidth 52
     2 ≤ parts.length ∧ (s.grp.divide s.cur.entry 3 s.pc true parts).isSome = true) := by decide

/-- A function descriptor of one register block stands before 0x10: its target may be called. -/
theorem wit_callable :
    let s := State.reset.placeWords [0, 0, 0, 0, 1, 0, 0, 0]
    (match s.fetchWords (quarterOf s.cur.gid) s.grp.ctx s.spl.sup (s.grp.carryLane 0) (0x10#52 - 16#52).toNat 4 with
    | .ok (ws, _) => decide (1 ≤ ws.getD 1 0 % 256 ∧ ws.getD 1 0 % 256 ≤ 32 ∧ 8 * (ws.getD 1 0 % 256) ≤ s.grp.decl.c)
    | .error _ => false) = true := by decide +kernel

theorem wit_joins :
    (let s := mid [(0, runs 0x40 0xFF)] [region 4 0xFF]; ¬ Covered s.grp.stack 3 s.em) ∧
    (let s := mid [(0, runs 0x40 0xFF), (1, runs 0x40 0xF00)] [region 3 0xFFF]; Covered s.grp.stack 3 s.em) ∧
    (let s := mid [(0, runs 0x40 0xFF)] [⟨0, 3, .join, false, 0xFF, 0x10, 0⟩]
     s.em ≠ 0 ∧ s.spl.v = true ∧ s.cur.entry < 4 ∧
      (∀ e, e < 4 → e ≠ s.cur.entry → (s.grp.split e).v = false) ∧
      s.grp.stack = [⟨0, 3, .join, s.spl.sup, s.em, 0x10, 0⟩]) := by
  unfold Covered; decide

/-- A trap record of the split. -/
def trapped (cause : Nat) (m : Word32) : StackEntry := ⟨cause, 16, .trap, false, m, 0x10, 0⟩

def handler (m : Word32) : Split := Split.run 0x200 m 16 true

theorem wit_leaving_lanes :
    (let s := mid [(0, runs 0x40 0xFF), (1, runs 0x80 0xF00)] [region 3 0xFFF]
     Sparse.wf Group.free s.groups = true ∧ s.spl.sup = false) ∧
    (let s := mid [(0, handler 0xFF), (1, { runs 0x80 0xF00 with state := .held, hstate := .runnable })] [trapped 0x8001 0xFF]
     Sparse.wf Group.free s.groups = true ∧ s.spl.sup = true ∧
      (∀ k, k < 4 → k ≠ s.cur.entry → (s.grp.split k).v = true → (s.grp.split k).sup = false) ∧
      s.grp.stack = [trapped 0x8001 0xFF] ∧ (trapped 0x8001 0xFF).kind = .trap) := by decide

theorem wit_traps_taken :
    (let s := mid [(0, runs 0x40 0xFF)] (List.replicate 31 (region 3 0xFF))
     s.grp.stack.length + 1 ≤ 32 ∧ s.spl.sup = false) ∧
    (let s := mid [(0, handler 0xFF)] [trapped 0x8001 0xFF]
     s.grp.stack.length + 1 ≤ 32 ∧ s.spl.sup = true ∧ (0x7EFF ≠ 0x7E00 ∧ 0x7EFF < 0x7F00)) := by decide

theorem wit_control_traps :
    (let s := mid [(0, runs 0x40 0xFF)] (List.replicate 30 (region 5 0xFF))
     s.grp.stack.length + 1 ≤ 32 ∧ s.spl.sup = false ∧ ((s.grp.readS 6).setWidth 52 : Addr52).toNat % 4 ≠ 0 ∧
      30 ≤ s.grp.stack.length ∧ s.em &&& s.grp.readM 1 ≠ 0 ∧ s.em &&& ~~~s.grp.readM 1 ≠ 0) ∧
    (let s := mid [(0, runs 0x40 0xF0)] (List.replicate 30 (region 5 0xFF))
     30 ≤ s.grp.stack.length ∧ s.em ≠ 0 ∧ s.em &&& s.grp.readM 1 = 0 ∧ ¬ Covered s.grp.stack 3 s.em) ∧
    (let s := mid [(0, runs 0x40 0xFF)] (List.replicate 32 (region 5 0xFF))
     s.grp.stack.length = 32 ∧ s.spl.sup = false) ∧
    (let s := mid [(0, handler 0xFF)] [region 3 0xFF, trapped 0x8001 0xFF]
     s.spl.sup = true ∧ s.grp.stack = [region 3 0xFF, trapped 0x8001 0xFF] ∧ (region 3 0xFF).kind ≠ .trap) ∧
    (let s := mid [(0, handler 0xFF), (1, handler 0xF00)] [trapped 0x8001 0xFF]
     s.spl.sup = true ∧ (∃ e, e < 4 ∧ e ≠ s.cur.entry ∧ (s.grp.split e).v = true ∧ (s.grp.split e).sup = true)) := by
  unfold Covered; decide


/-- The lanes break out of a loop to the next PC; with no free entry; and with a stack that is full. -/
theorem wit_loop_breaks_deep :
    (let s := mid [(0, runs 0x40 0xFF)] [region 3 0xFF]
     s.em &&& s.grp.readM 1 ≠ 0 ∧ s.em &&& ~~~s.grp.readM 1 ≠ 0 ∧ targetPc s (.small 1) = nextPc s none false ∧
      targetPc s (.small 2) ≠ nextPc s none false) ∧
    (let s := mid [(0, runs 0x40 0xFF), (1, runs 0x80 0xF00), (2, runs 0x80 0x1000), (3, runs 0x80 0x2000)] [region 3 0x3FFF]
     let g := Group.closeRegions 33 { s.grp with stack := brokenStack 3 s.em (s.em &&& s.grp.readM 1) s.grp.stack }
     (∀ e, e < 4 → (g.split e).v = true) ∧ g.stack.length + 1 ≤ 30) ∧
    (let s := mid [(0, runs 0x40 0xFF)] (List.replicate 31 (region 5 0xFF))
     let g := Group.closeRegions 33 { s.grp with stack := brokenStack 3 s.em (s.em &&& s.grp.readM 1) s.grp.stack }
     30 < g.stack.length ∧ s.grp.stack.length + 1 ≤ 32) := by decide +kernel

/-- Odd lanes name a misaligned target; the others go to one target, to two, or are none. -/
def oddLanes (m : Word32) (f : Nat → Nat) (stk : List StackEntry) : State :=
  let s := lanesTo m fun l => if l % 2 = 1 then 2 else f l
  s.setGrp { s.grp with stack := stk }

theorem wit_lanes_misaligned :
    ([oddLanes 0xFF (fun _ => 0x10) [], oddLanes 0xFF (fun l => 0x10 * (l / 2)) [], oddLanes 0xAA (fun _ => 0) []].all fun s =>
      (List.range 32).all fun l => (0xAA#32).getLsbD l ==
        (s.em.getLsbD l && ((s.grp.readS 5).setWidth 52 + (s.grp.readV 1 l).setWidth 52 : Addr52).toNat % 4 != 0)) = true ∧
    (let s := oddLanes 0xFF (fun _ => 0x10) []
     laneParts (s.em &&& ~~~0xAA#32) (fun l => (s.grp.readS 5).setWidth 52 + (s.grp.readV 1 l).setWidth 52) = [(0x55, 0x1010)] ∧
      (s.grp.setSplit s.cur.entry { s.spl with pc := 0x1010 }).stack.length + 2 ≤ 32) ∧
    (let s := oddLanes 0xFF (fun l => 0x10 * (l / 2)) []
     let go := laneParts (s.em &&& ~~~0xAA#32) (fun l => (s.grp.readS 5).setWidth 52 + (s.grp.readV 1 l).setWidth 52)
     2 ≤ go.length ∧ (match s.grp.divide s.cur.entry 3 s.pc true go with
       | some g => decide (g.stack.length + 2 ≤ 32)
       | none => false) = true) ∧
    (let s := oddLanes 0xFF (fun l => 0x10 * (l / 2)) (List.replicate 30 (region 5 0xFF))
     let go := laneParts (s.em &&& ~~~0xAA#32) (fun l => (s.grp.readS 5).setWidth 52 + (s.grp.readV 1 l).setWidth 52)
     2 ≤ go.length ∧ s.grp.divide s.cur.entry 3 s.pc true go = none ∧ s.grp.stack.length + 1 ≤ 32) ∧
    (let s := oddLanes 0xAA (fun _ => 0) []
     laneParts (s.em &&& ~~~0xAA#32) (fun l => (s.grp.readS 5).setWidth 52 + (s.grp.readV 1 l).setWidth 52) = []) := by
  decide +kernel

/-- What CALLI fetches before a target, if it can. -/
def headerBefore (s : State) (l a : Nat) : Option Nat :=
  match s.fetchWords (quarterOf s.cur.gid) s.grp.ctx s.spl.sup (s.grp.carryLane l) (a - 16) 4 with
  | .ok (ws, _) => some (ws.getD 1 0 % 256)
  | .error _ => none

/-- Lane 0 calls a function whose header names no budget, lane 1 a misaligned address, lane 2 one that no page holds, and lane 3 a
function that may be called. -/
theorem wit_calls_fail :
    (let s := State.reset.placeWords ([0, 0, 0, 0, 1, 0, 0, 0] ++ List.replicate 64 0)
     let s := s.setGrp { s.grp with s := [(5, 0x10)], v := [(33, 2), (34, 0x7FFFFFF0), (35, 0)], splits := [(0, runs 0x20 0xF)] }
     headerBefore s 0 0x30 = some 0 ∧ (0x12 : Nat) % 4 ≠ 0 ∧ headerBefore s 2 0x80000000 = none ∧
      headerBefore s 3 0x10 = some 1 ∧ 8 * 1 ≤ s.grp.decl.c) := by decide +kernel

theorem wit_traps_deep :
    (let s := mid [(0, runs 0x40 0xFF), (1, runs 0x80 0xF00), (2, runs 0x80 0x1000), (3, runs 0x80 0x2000)]
        (List.replicate 29 (region 5 0xF000))
     29 ≤ s.grp.stack.length ∧ (∀ e, e < 4 → (s.grp.split e).v = true) ∧ s.em &&& s.grp.readM 1 ≠ 0 ∧
      s.em &&& ~~~s.grp.readM 1 ≠ 0 ∧ targetPc s (.small 2) ≠ nextPc s none false) ∧
    (let s := mid [(0, runs 0x40 0xFF)] (List.replicate 32 (region 5 0xFF))
     s.grp.stack.length = 32 ∧ (s.context s.grp.ctx).state = .resident) ∧
    (let s := mid [(0, runs 0x40 0xFF)] (List.replicate 32 (region 5 0xFF))
     (s.setContext 0 { s.context 0 with state := .saved }).grp.stack.length = 32) := by decide +kernel
/-! ## Witnesses: handlers, spawns and system registers -/

theorem wit_sleeps :
    (let s := mid [(0, runs 0x40 0xFF)]
     (s.grp.readS 4).toNat = 0 ∧ (s.grp.readS 7).toNat ≠ 0 ∧ s.grp.drain = none ∧ 2 ^ 64 % 2 ^ 64 = 0) ∧
    (let s := mid [(0, runs 0x40 0xFF)]; (s.setGrp { s.grp with drain := some 9 }).grp.drain ≠ none) := by decide

/-- A handler of a trap at a stub that Umber has not filled. -/
def inHandler (answered : Bool) (stk : List StackEntry) : State :=
  let s := mid [(0, handler 0xFF), (1, runs 0x80 0xF00)] stk
  let s := s.setGrp { s.grp with answered := answered }
  s.setContext 0 { s.context 0 with stubs := [⟨0x10, .stub, [], 0, [], 0, 0, []⟩] }

theorem wit_handler_requests :
    (let s := inHandler false (List.replicate 31 (trapped 0x48 0xFF))
     s.spl.sup = true ∧ s.grp.drain = none ∧ s.grp.stack.length + 1 ≤ 32 ∧ 0x7F00 ≤ 0x7F00 ∧ s.grp.answered = false) ∧
    (let s := inHandler true [trapped 0x48 0xFF]; s.grp.answered = true ∧ s.spl.sup = true) ∧
    (let s := inHandler false [region 3 0xFF, trapped 0x48 0xFF]
     (∃ x ∈ (s.context s.grp.ctx).stubs, x.pc = (trapped 0x48 0xFF).pc.toNat ∧ x.state ≠ .published)) ∧
    (∀ x ∈ ((mid [(0, handler 0xFF)] [trapped 0x48 0xFF]).context 0).stubs, x.state = .published) := by decide

theorem wit_top_trap : TopTrap (inHandler false [region 3 0xFF, trapped 0x48 0xFF]).grp (trapped 0x48 0xFF) :=
  ⟨[region 3 0xFF], [], by decide, by decide, by decide⟩

/-- The gang's groups, of which the group 0 issues; k groups more are resident in its core. -/
def crowd (k : Nat) (d : Decl) : State :=
  let s := mid [(0, runs 0x40 0xFF)]
  let s := s.setGrp { s.grp with decl := d }
  (List.range k).foldl (fun s j => s.setGroup (j + 1) { s.grp with decl := d }) s

def smallDecl : Decl := ⟨16, 0, 0, false, [], 0, 0⟩

theorem wit_spawns :
    (let s := inHandler false []; (248 : Nat) ≤ 248 ∧ 248 + 7 < s.grp.decl.c ∧ s.grp.life ≠ .free ∧ s.spl.sup = true) ∧
    (let s := mid [(0, runs 0x40 0)]; s.spl.sup = false ∧ s.em = 0 ∧ s.grp.life ≠ .free) ∧
    (let s := crowd 15 smallDecl
     8 + 7 < s.grp.decl.c ∧ s.em ≠ 0 ∧
       16 ≤ (s.groups.filter fun p => p.2.gang == s.grp.gang && p.2.life != .free).length) ∧
    (let s := crowd 14 smallDecl
     s.em ≠ 0 ∧ (s.groups.filter fun p => p.2.gang == s.grp.gang && p.2.life != .free).length < 16 ∧
       (s.group (64 * 0 + 15)).life = .free ∧ (∀ j, j < 15 → ¬ (s.group (64 * 0 + j)).life = .free) ∧
       s.poolFits 0 1 s.grp.decl = true) ∧
    (let s := crowd 0 ⟨256, 8, 256, false, [], 0, 0⟩
     (s.group 1).life = .free ∧ (∀ j, j < 1 → ¬ (s.group j).life = .free) ∧ s.poolFits 0 1 s.grp.decl = false) := by
  decide +kernel

/-- Every group context of the core is held, by groups of other gangs. -/
def fullCore : State :=
  let s := mid [(0, runs 0x40 0xFF)]
  (List.range 63).foldl (fun s j => s.setGroup (j + 1) { s.grp with gang := 5 }) s

theorem wit_spawn_no_context :
    (fullCore.groups.filter fun p => p.2.gang == fullCore.grp.gang && p.2.life != .free).length < 16 ∧
    (∀ k, k < 64 → ¬ (fullCore.group (64 * 0 + k)).life = .free) := by decide +kernel

theorem wit_system_reads :
    (let s := mid [(0, runs 0x40 0xFF)] (List.replicate 31 (trapped 0x24 0xFF))
     mayRead s.spl.sup .lane ∧ ¬ mayRead s.spl.sup .fltpc ∧ 255 < s.grp.decl.c ∧ s.grp.stack.length + 1 ≤ 32) ∧
    (let s := inHandler false []; mayRead s.spl.sup .fltcause ∧ s.em ≠ 0) ∧ (mid [(0, runs 0x40 0)]).em = 0 := by
  unfold mayRead; decide

theorem wit_system_writes :
    (let s := mid [(0, handler 0xFF)] [region 3 0xFF, trapped 0x33 0xFF]
     s.spl.sup = true ∧ s.grp.stack = [region 3 0xFF] ++ trapped 0x33 0xFF :: [] ∧ (trapped 0x33 0xFF).kind = .trap ∧
      (∀ y ∈ [region 3 0xFF], y.kind ≠ .trap) ∧ (0x30 ≤ (trapped 0x33 0xFF).cause ∧ (trapped 0x33 0xFF).cause ≤ 0x33)) ∧
    ((trapped 0x48 0xFF).cause = 0x48 ∧ ¬ ((trapped 0x20 0xFF).cause = 0x24 ∨ 0x30 ≤ (trapped 0x20 0xFF).cause)) ∧
    (let s := mid [(0, runs 0x40 0xFF)] (List.replicate 31 (region 3 0xFF))
     255 < s.grp.decl.c ∧ s.grp.stack.length + 1 ≤ 32 ∧ s.spl.sup = false) := by decide


/-- In drain mode, and critical there or not. -/
def draining (crit : Nat) (spent : Bool) : State :=
  let s := inHandler true [region 3 0xFF, trapped 0x48 0xFF]
  s.setGrp { s.grp with drain := some 9, crit := crit, critSpent := spent }

theorem wit_drains :
    drainsNow (draining 0 false).grp ∧ drainsNow (draining 2 true).grp ∧ ¬ drainsNow (draining 2 false).grp ∧
    (draining 0 false).spl.sup = true ∧ (draining 2 false).grp.stack.length + 1 ≤ 32 := by
  unfold drainsNow; decide

/-- A group of 16 vector registers at user level. -/
theorem wit_budget_traps :
    (let s := mid [(0, runs 0x40 0xFF)] (List.replicate 31 (region 3 0xFF))
     let s := s.setGrp { s.grp with decl := smallDecl }
     (Instr.vaddInt 2 14 (.vec 16) .i64 0).wf = true ∧ (∃ r ∈ laneRegs s (.vaddInt 2 14 (.vec 16) .i64 0), s.grp.decl.c ≤ r) ∧
      s.grp.stack.length + 1 ≤ 32) := by decide
/-! ## Witnesses: vector forms -/

theorem wit_vector_integers :
    (let s := mid [(0, runs 0x40 0xFF)]
     Fits s (pairOf .i64 254 ++ pairOf .i64 0 ++ bRegs .i64 (.vec 2) ++ pairOf .i64 4) ∧ Ty.i64.isInt = true ∧
     Fits s (pairOf .n8 255 ++ pairOf .n8 0 ++ bRegs .n8 (.imm 3) ++ pairOf .n8 4) ∧ Ty.n8.isInt = true ∧
     Fits s ([255, 0, 7] ++ bRegs .n32 (.scalar 5)) ∧ Ty.n32.is32 = true ∧
     Fits s (pairOf .n64 254 ++ bRegs .n64 (.vec 2))) := by
  unfold Fits; decide

theorem wit_vector_floats :
    (let s := mid [(0, runs 0x40 0xFF)]
     FpOk s .bf16 ([255, 0, 3] ++ bRegs .bf16 (.vec 4)) ∧ FpOk s .f32 [255, 0] ∧
     Fits s ([255, 0] ++ bRegs .f32 (.imm 0x3F800000)) ∧ 0 < s.grp.decl.d ∧ s.grp.decl.d ≤ 1 ∧
     s.grp.stack.length + 1 ≤ 32) := by
  unfold FpOk Fits; decide

theorem wit_conversions :
    (let s := mid [(0, runs 0x40 0xFF)]
     Ty.i64 ≠ .f32 ∧ Fits s (pairOf .i64 254 ++ pairOf .f32 0) ∧ 24 ≤ 24 ∧ Ty.e4m3.width ≤ 32 ∧
     Fits s ([255, 0] ++ bRegs .n32 (.vec 9)) ∧ Fits s [255, 2, 3] ∧ Fits s [254, 255, 0] ∧
     Fits s ([255, 0] ++ bRegs .f32 (.scalar 9)) ∧ Ty.f32.is32 = true ∧ Ty.bf16.width ≤ 16) := by
  unfold Fits; decide

theorem wit_cross_lanes :
    (let s := mid [(0, runs 0x40 0xF0F0)]
     Fits s ([255, 0] ++ bRegs .n32 (.vec 9)) ∧ Ty.n32.is32 = true ∧ Fits s [255, 0] ∧ Comb.max ≠ .xchg ∧
     (Ty.f16.isFp3 = true ∧ (Comb.max = .add ∨ Comb.max = .min ∨ Comb.max = .max))) := by
  unfold Fits; decide

/-! ## Witnesses: scratchpad, weight store and windows -/

/-- Lane l of v1 holds f l. -/
def addresses (m : Word32) (f : Nat → Nat) : State :=
  let s := mid [(0, runs 0x40 m)]
  s.setGrp { s.grp with v := ((List.range 32).map fun l => (32 + l, BitVec.ofNat 32 (f l))).filter fun p => p.2 ≠ 0 }

def plainSync : Sync := ⟨.plain, .lane, false⟩

/-- The last element inside, of the scratchpad of the values and of all of it, and from each lane another. -/
theorem wit_loads :
    (let s := addresses 0xFF (fun l => 131068 - 4 * l)
     Fits s (pairOf .f32 255 ++ [1]) ∧ mayAccess s false plainSync ∧ mayAccess s true plainSync ∧
      Inside s (addrOf s ⟨false, 1, .small 0⟩) 4 4 (boundOf s true)) ∧
    (let s := addresses 0xFF (fun _ => 0)
     Fits s (pairOf .i64 254 ++ []) ∧ mayAccess s false ⟨.acq, .gang, true⟩ ∧ mayAccess s true ⟨.rel, .gang, true⟩ ∧
      Inside s (addrOf s ⟨true, 0, .lit 262136⟩) 8 8 (boundOf s false)) := by
  unfold Fits mayAccess Inside; decide +kernel

theorem wit_transposed :
    (let s := addresses 0xFFFFFFFF (fun _ => 0)
     Fits s ((List.range 32).map (224 + ·)) ∧ s.accessReady false = true ∧ s.accessReady true = true ∧
      Inside s (fun l => addrOf s ⟨true, 5, .small 4⟩ 0 + ((4 * 32 * l : Nat) : Int)) 4 (4 * 32) (boundOf s true)) := by
  unfold Fits Inside; decide +kernel

/-- The grid of the group maps the weight store from address 0 on. -/
def weighed : State :=
  let s := addresses 0xFF (fun l => 8 * l)
  let s := s.setGrid 0 { s.grid 0 with wsmap := [⟨0, 4096, 64, true, true, 1⟩] }
  s.setDie 0 { s.die 0 with ws := (List.range 64).map fun k => (4096 + k, BitVec.ofNat 8 (k + 1)) }

theorem wit_scalar_access :
    (let s := addresses 0xFF (fun l => 8 * l)
     mayAccess s false plainSync ∧ mayAccess s true plainSync ∧ addrOf s ⟨true, 0, .lit 262136⟩ 0 % 8 = 0 ∧ 0 ≤ addrOf s ⟨true, 0, .lit 262136⟩ 0 ∧
      addrOf s ⟨true, 0, .lit 262136⟩ 0 + 8 ≤ (boundOf s false : Int)) := by
  unfold mayAccess; decide +kernel

theorem wit_weight_access :
    (let s := weighed
     let a : Addr := ⟨false, 1, .small 0⟩
     let e : WsEntry := ⟨0, 4096, 64, true, true, 1⟩
     Fits s (pairOf .i64 254 ++ [1]) ∧
     (∀ l, l < 32 → s.em.getLsbD l = true → addrOf s a l % 8 = 0 ∧ 0 ≤ addrOf s a l ∧
      ∀ j, j < 8 → (s.grid s.grp.grid).wsmap.find? (fun e => e.len != 0 && decide (e.base ≤ (addrOf s a l).toNat + j) &&
        decide ((addrOf s a l).toNat + j < e.base + e.len)) = some e ∧ e.rd = true ∧ e.dies.testBit 0 = true)) := by
  unfold Fits; decide +kernel

theorem wit_atomics :
    (let s := addresses 0xFF (fun l => 8 * (l / 2))
     Ty.n64.isAtomic = true ∧ Fits s (pairOf .n64 254 ++ pairOf .n64 2 ++ [1]) ∧ mayAccess s true ⟨.ar, .group, false⟩ ∧
      Inside s (addrOf s ⟨false, 1, .small 262056⟩) 8 8 (boundOf s false)) := by
  unfold Fits mayAccess Inside; decide +kernel

/-- Lane 0 is inside; lane 1 is misaligned; lane 2 begins where the memory ends. -/
def partOut : State := addresses 7 (fun l => [262140, 2, 262144].getD l 0)

/-- Does the access of lane 0 alone answer a next state? -/
def partGoes (i : Instr) : Bool :=
  match exec i (narrowed partOut 1) with
  | .next _ => true
  | _ => false

theorem wit_partial_faults :
    (let s := partOut
     let addr := addrOf s ⟨false, 1, .small 0⟩
     let fails := fun l => addr l % 4 ≠ 0 ∨ addr l < 0 ∨ (boundOf s false : Int) < addr l + 4
     Fits s (pairOf .f32 255 ++ [1]) ∧ mayAccess s false plainSync ∧ mayAccess s true plainSync ∧
     s.accessReady false = true ∧ s.accessReady true = true ∧ s.grp.stack.length + 2 ≤ 32 ∧
     (∀ l, l < 32 → ((1 : Word32).getLsbD l = true ↔ s.em.getLsbD l = true ∧ ¬ fails l)) ∧
     (∀ l, l < 32 → ((6 : Word32).getLsbD l = true ↔ s.em.getLsbD l = true ∧ fails l)) ∧
     (6 : Word32).getLsbD 1 = true ∧ (∀ l, l < 1 → (6 : Word32).getLsbD l = false)) ∧
    ([Instr.ld 255 ⟨false, 1, .small 0⟩ .f32 false plainSync 0, .st 255 ⟨false, 1, .small 0⟩ .f32 false plainSync 0,
      .atom 255 ⟨false, 1, .small 0⟩ 0 .add .n32 plainSync 0, .acas 255 ⟨false, 1, .small 0⟩ 0 .n32 plainSync 0].all
      partGoes) = true := by
  unfold Fits mayAccess; decide +kernel

/-- Row 1 of 512 columns' bytes begins beyond the memory; and of the weight store byte 64 is in no entry. -/
theorem wit_partial_rows :
    (let s := addresses 3 (fun _ => 0)
     addrOf s ⟨true, 0, .lit 262016⟩ 0 + ((4 * 32 * 0 : Nat) : Int) + 128 ≤ (boundOf s false : Int) ∧
      (boundOf s false : Int) < addrOf s ⟨true, 0, .lit 262016⟩ 0 + ((4 * 32 * 1 : Nat) : Int) + 128 ∧
      (match exec (.ldt 64 ⟨true, 0, .lit 262016⟩ .n32 false 32 0) (narrowed s 1) with | .next _ => true | _ => false) = true) ∧
    (let s := weighed
     (s.readWs (s.grid s.grp.grid).wsmap 0 56 8).isNone = false ∧ (s.readWs (s.grid s.grp.grid).wsmap 0 64 8).isNone = true) := by
  decide +kernel

def translates (s : State) (b : Nat) (acc : Access) : Bool :=
  match s.xlate (s.cur.gid / 1024) s.grp.ctx b acc s.spl.sup s.grp.groupHorizon with
  | .ok _ _ => true
  | _ => false

theorem wit_windows :
    (let s := mid [(0, runs 0x40 0xFF)]
     (s.grp.readS 5).toNat < 2 ^ 52 ∧ translates s (s.grp.readS 5).toNat .both = true) := by decide +kernel


/-- Every lane is misaligned or beyond the end, and so is the one address of a scalar access. -/
def allOut : State := addresses 6 (fun l => [262140, 2, 262144].getD l 0)

theorem wit_all_fail :
    (let s := allOut
     let addr := addrOf s ⟨false, 1, .small 0⟩
     let fails := fun l => addr l % 4 ≠ 0 ∨ addr l < 0 ∨ (boundOf s false : Int) < addr l + 4
     (∀ l, l < 32 → (s.em.getLsbD l = true ↔ s.em.getLsbD l = true ∧ fails l)) ∧ s.em.getLsbD 1 = true ∧
      (∀ l, l < 1 → s.em.getLsbD l = false) ∧ s.grp.stack.length + 1 ≤ 32) ∧
    (let s := addresses 3 (fun _ => 0)
     let a : Addr := ⟨true, 0, .lit 262140⟩
     addrOf s a 0 % 8 ≠ 0 ∧ a.scalar = true ∧ mayAccess s false plainSync ∧ mayAccess s true plainSync) := by
  unfold mayAccess; decide +kernel

def faultAt (s : State) (b : Nat) (acc : Access) : Option Nat :=
  match s.xlate (s.cur.gid / 1024) s.grp.ctx b acc s.spl.sup s.grp.groupHorizon with
  | .fault c => some c
  | _ => none

/-- The base s5 of a window, where the pages from 0x40000000 on may be read and not written. -/
def based (b : Nat) : State :=
  let s := mid [(0, runs 0x40 0xFF)]
  let s := s.setGrp { s.grp with s := [(5, BitVec.ofNat 64 b)] }
  s.setDie 0 ((s.die 0).place [(0x20008, bytesOf 8 (5 * 2 ^ 60 + 3))])

theorem wit_windows_fail :
    ((based (2 ^ 52)).grp.readS 5).toNat = 2 ^ 52 ∧ (based (2 ^ 52)).grp.stack.length + 1 ≤ 32 ∧
    faultAt (based 0x8000000000000) 0x8000000000000 .read = some 0x30 ∧ faultAt (based 0x40400000) 0x40400000 .both = some 0x31 := by
  decide +kernel
/-! ## Witnesses: waiting, barriers and fences -/

/-- The gang's barrier 3, at generation 7. -/
def barred (b : Barrier) : State :=
  let s := mid [(0, runs 0x40 0xFF), (1, { runs 0x80 0xF00 with state := .waiting, wait := .barrier 3 7 9 true true 0x90 })]
  let s := s.setGrp { s.grp with s := [(9, 7)] }
  s.setGang 0 { s.gang 0 with bars := [(3, b)] }

def openPhase : Barrier := { Barrier.zero with gen := 7, exparr := 2 }

theorem wit_wait_counter :
    (let s := mid [(0, runs 0x40 0xFF)]; s.grp.drain = none ∧ (s.grp.ops.filter fun o => o.cls = .fx).length ≤ 0 ∧
      s.grp.latch = none) ∧
    (let s := mid [(0, runs 0x40 0xFF)]
     let s := s.setGrp { s.grp with ops := [opOf s .cp .empty none 0 []] }
     s.grp.drain = none ∧ 0 < (s.grp.ops.filter fun o => o.cls = .cp).length ∧
      (s.grp.ops.filter fun o => o.cls = .cp).length ≤ 1) := by decide

theorem wit_barriers :
    (let s := barred openPhase
     s.spl.state = .runnable ∧ s.grp.drain = none ∧ s.accessReady true = true ∧ s.orderReady .gang true = true ∧ s.orderReady .gang false = true ∧
      (barOf s 3).gen = (s.grp.readS 9).toNat % 2 ^ 32 ∧ (barOf s 3).gen ≠ (s.grp.readS 8).toNat % 2 ^ 32 ∧
      ¬ phaseEnds (barOf s 3) ∧ ((s.group 0).split 1).wait = .barrier 3 7 9 true true 0x90) ∧
    (let s := barred { openPhase with arrived := 1 }
     phaseEnds { barOf s 3 with arrived := ((barOf s 3).arrived + 1) % 2 ^ 16 }) ∧
    (let s := barred { openPhase with arrived := 2, landed := 5 }
     phaseEnds { barOf s 3 with expb := ((barOf s 3).expb + 5 % 2 ^ 40) % 2 ^ 40 }) := by
  unfold phaseEnds; decide +kernel

/-- In drain mode; and WAITB of an acquire, whose reads have landed. -/
theorem wit_waits_drain :
    (let s := barred openPhase; (s.setGrp { s.grp with drain := some 9 }).grp.drain ≠ none ∧ s.orderReady .gang false = true) := by
  decide +kernel

/-- Operations in flight: a load of the lanes of the split, which an acquire waits for, and a store, which a release does. -/
def inFlight (form : LaneForm) (l : Nat) (fences : List Fence) : State :=
  let s := mid [(0, runs 0x40 0xFF)]
  let s := { s with nextOp := 9 }
  let k := OpKind.lanes form 254 .n64 .add .plain false [⟨l, 0x100008, .phys 0x100008, 5, []⟩]
  s.setGrp { s.grp with ops := [{ opOf s .gs k none 0 [] with id := 3 }], fences := fences }

/-- What a fence orders has been performed: by its scope, and the operations older than 9. -/
def performed (s : State) (sc : Scope) (ord : MemOrd) : Prop :=
  (sc = .lane → ∀ o ∈ s.grp.ops.filter fun o => o.id < s.nextOp,
    o.done = true ∨ o.lanes &&& s.em = 0 ∨ (ord = .acq ∧ o.readsLanes = false)) ∧
  (sc ≠ .lane → (∀ o ∈ s.grp.ops.filter fun o => o.id < s.nextOp, o.readsLanes = true → o.done = true) ∧
    (ord = .acq ∨ (∀ o ∈ s.grp.ops.filter fun o => o.id < s.nextOp, o.movesLanes = true → o.done = true) ∧
      (sc = .device ∨ sc = .system → ∀ d, d < 8 → s.grp.wrote.le (s.die d).vc = true)))

theorem wit_fences :
    performed (barred openPhase) .system .rel ∧ performed (barred openPhase) .lane .acq ∧
    performed (inFlight .store 0 []) .gang .acq ∧ performed (inFlight .store 8 []) .lane .plain ∧
    ¬ performed (inFlight .load 0 []) .gang .acq ∧ ¬ performed (inFlight .store 0 []) .device .rel ∧
    ¬ performed (inFlight .store 0 []) .lane .plain ∧ (inFlight .load 0 []).grp.fences = [] := by
  unfold performed; refine ⟨?_, ?_, ?_, ?_, ?_, ?_, ?_, ?_⟩ <;> decide +kernel

theorem wit_fences_hold :
    (∃ x ∈ (inFlight .load 0 [⟨.lane, .acq, 1, 9⟩]).grp.fences, x.ord ≠ .rel ∧
      (x.scope ≠ .lane ∨ x.lanes &&& (inFlight .load 0 [⟨.lane, .acq, 1, 9⟩]).em ≠ 0)) ∧
    Fits (inFlight .load 0 []) (pairOf .f32 255 ++ [1]) := by
  unfold Fits; decide +kernel


/-- The last arrival of a phase, for which no other split of the group waits, in a critical section. -/
def arrivingLast : State :=
  let s := mid [(0, runs 0x40 0xFF)]
  let s := s.setGrp { s.grp with s := [(9, 7)], crit := 2 }
  s.setGang 0 { s.gang 0 with bars := [(3, { openPhase with arrived := 1 })] }

theorem none_waits {s : State} (h0 : s.cur.entry = 0) (h : ∀ e, e = 1 ∨ e = 2 ∨ e = 3 → (s.grp.split e).state ≠ .waiting) :
    NoneWaits s := fun e he hne hw => (h e (by omega) hw).elim

theorem wit_none_waits : NoneWaits arrivingLast := by
  refine none_waits rfl ?_
  rintro e (rfl | rfl | rfl) <;> decide +kernel

/-- That arrival; and an acquire of a collective's phase, on a die whose buffer holds a line. -/
theorem wit_barriers_critical :
    (let s := arrivingLast
     s.spl.state = .runnable ∧ s.accessReady true = true ∧ s.orderReady .gang true = true ∧
      phaseEnds { barOf s 3 with arrived := ((barOf s 3).arrived + 1) % 2 ^ 16 }) ∧
    (let s := barred { openPhase with gen := 8, collGens := [7] }
     let s := s.setDie 0 { s.die 0 with peerBuf := [(5, some 1)] }
     ¬ drainsNow s.grp ∧ (barOf s 3).gen ≠ (s.grp.readS 9).toNat % 2 ^ 32 ∧ (barOf s 3).collSince 7 = true ∧
      s.orderReady .gang false = true) ∧
    (let s := barred openPhase
     (s.gang s.grp.gang).chosen = false ∧ Master.core (0 / 64) ∉ s.frozen) := by
  unfold phaseEnds drainsNow; decide +kernel
/-! ## Witnesses: engine commands -/

/-- A window over a page, the upper half of it private, lane l at f l. -/
def windowed (m : Word32) (perm : Perm) (f : Nat → Nat) : State :=
  let s := addresses m f
  let s := s.setContext 0 { s.context 0 with pbase := 0x100800, plim := 0x101000, phwm := 0x100C00 }
  s.setGrp { s.grp with w := [(2, ⟨true, 0x100000, perm, 0x100000, 0x1000, false⟩)] }

def laneOk (s : State) (acc : Access) (isPriv : Bool) (l : Nat) : Bool :=
  match s.laneCheck (s.cur.gid / 1024) s.grp.ctx (s.grp.window 2) ((s.grp.readV 1 l).toNat : Int) 4 acc isPriv s.spl.sup
      (s.grp.carryLane l) with
  | .ok _ _ => true
  | _ => false

theorem wit_lane_engines :
    (let s := windowed 0xFF .rw (fun l => 4 * l)
     s.spl.state = .runnable ∧ Fits s (pairOf .f32 255 ++ [1]) ∧ mayIssue s ∧ s.em ≠ 0 ∧
      (∀ l, l < 32 → s.em.getLsbD l = true → laneOk s .read false l = true ∧ laneOk s .write false l = true ∧
        laneOk s .both false l = true)) ∧
    (let s := windowed 0xFF .rw (fun l => 0x800 + 4 * l)
     (∀ l, l < 32 → s.em.getLsbD l = true → laneOk s .read true l = true ∧ laneOk s .write true l = true)) ∧
    (let s := windowed 0 .rw (fun _ => 0); s.em = 0 ∧ mayIssue s) ∧
    (let s := windowed 0xFF .rw (fun l => 4 * l); s.orderReady .device true = true) := by
  unfold Fits mayIssue; decide +kernel

/-- Lane 4 alone: a window that is not bound, a misaligned offset, an address below the base, one that the permission or
the space forbids, and one above the heap of the lane. -/
theorem wit_lane_checks :
    (let s := windowed 16 .r (fun _ => 0)
     (∀ k, k < 32 → (s.em.getLsbD k = true ↔ k = 4)) ∧ s.grp.stack.length + 1 ≤ 32 ∧ Fits s (pairOf .f32 255 ++ [1]) ∧
      mayIssue s ∧ (s.grp.window 3).valid = false ∧ (s.grp.window 2).valid = true ∧
      ((0 : Int) + 2) % (Ty.f32.bytes : Int) ≠ 0 ∧ ((0 : Int) + -4) % (Ty.f32.bytes : Int) = 0 ∧ (0 : Int) + -4 < 0 ∧
      ¬ (s.grp.window 2).perm ≠ .r ∧ (s.grp.window 2).perm ≠ .w ∧ ¬ (s.grp.window 2).perm = .rw) ∧
    (let s := windowed 16 .rw (fun _ => 0xC00)
     let a := ((s.grp.window 2).base : Int) + ((s.grp.readV 1 4).toNat : Int)
     ((s.context 0).pbase : Int) ≤ a ∧ a < ((s.context 0).plim : Int) ∧ ((s.context 0).phwm : Int) ≤ a ∧
      (s.grp.window 2).perm = .rw ∧ a < (2 : Int) ^ 52) := by
  unfold Fits mayIssue; decide +kernel

/-- A window that a supervisor split bound on a page of the supervisor's: the fast path refuses a user split (R189, R347). -/
theorem wit_lane_check_supervisor :
    (let s := windowed 16 .rw (fun _ => 0)
     let s := s.setGrp { s.grp with w := [(2, ⟨true, 0x100000, .rw, 0x100000, 0x1000, true⟩)] }
     ((s.grp.window 2).base : Int) + (0 + 4) < (2 : Int) ^ 52 ∧ (0 : Int) + 4 < ((s.grp.window 2).flim : Int) ∧
      (s.grp.window 2).sup = true ∧ s.spl.sup = false ∧ laneOk s .read false 4 = false) := by decide +kernel

/-- n bytes of a descriptor at 0x1000 in the scratchpad of the gang; s5 holds its address. -/
def described (n d : Nat) : State :=
  let s := windowed 0xFF .rw (fun l => 4 * l)
  s.setGang 0 { s.gang 0 with spad := Sparse.setRange 0 [] 0x1000 (bytesOf n d) }

/-- A copy of one row of eight F32 elements within the scratchpad, from 0 to 256. -/
def copyWords : Nat := 2 ^ 268 + 256 * 2 ^ 192 + 8 * 2 ^ 512 + 4 * 2 ^ 544 + 4 * 2 ^ 592

def sideOk : SideCheck → Bool
  | .ok _ _ => true
  | _ => false

theorem wit_copy :
    (let s := described 256 copyWords
     let c := copyDesc (spadAt s (s.grp.readS 5).toNat 256)
     DescriptorAt s 5 64 256 ∧ mayIssue s ∧ c.map = false ∧ c.illFormed s.grp.decl [] = false ∧
      sideOk (s.srcSide c []) = true ∧ sideOk (s.dstSide c) = true ∧ c.dual = false ∧ c.count * c.dstTy.bytes ≤ 2 ^ 20 ∧
      (s.die (s.cur.gid / 4096)).grants = []) ∧
    (let s := described 256 (copyWords + 7)
     (copyDesc (spadAt s (s.grp.readS 5).toNat 256)).illFormed s.grp.decl [] = true) ∧
    (let s := described 256 copyWords
     (s.setGrp (s.grp.setSplit 0 { s.spl with hold := .granted })).spl.hold = .granted) := by
  unfold DescriptorAt mayIssue; decide +kernel

theorem wit_texture_and_rays :
    (let s := described 64 2
     DescriptorAt s 5 64 64 ∧ mayIssue s ∧ s.spl.state = .runnable ∧ s.em ≠ 0 ∧
      Fits s ((List.range 4).map (252 + ·) ++ [1, 2]) ∧
      Fits s ((List.range 5).map (251 + ·) ++ (List.range 8).map (248 + ·)) ∧
      Fits s ((List.range 5).map (251 + ·) ++ [1, 2])) ∧ (windowed 0 .rw fun _ => 0).em = 0 := by
  unfold DescriptorAt mayIssue Fits; decide +kernel

/-- Group 3 of the context has two ranks. -/
def ranked (d : Nat) : State :=
  let s := described 32 d
  s.setContext 0 { s.context 0 with colls := [(3, some ⟨[(1, 0), (2, 0)], 0⟩)] }

def collWords : Nat := 8 * 2 ^ 192 + 64 * 2 ^ 64 + 128 * 2 ^ 128

theorem wit_collectives :
    (let s := ranked (collWords + 2 ^ 11 + 2 ^ 15)
     let d := spadAt s (s.grp.readS 5).toNat 32
     DescriptorAt s 5 32 32 ∧ mayIssue s ∧ s.grp.readsLanded = true ∧
      s.everywhere s.grp.joinHorizons.groupHorizon = true ∧ (Sparse.get none (s.context 0).colls 3).isSome = true ∧
      Sparse.get none (s.context 0).colls 4 = none ∧ collBad .ared .f32 d 2 s.grp.decl.occupancy = false ∧
      collSrcSpad d = true ∧ collDstSpad d = true) ∧
    (let s := ranked (collWords + 2 * 2 ^ 8 + 2 * 2 ^ 12)
     let d := spadAt s (s.grp.readS 5).toNat 32
     collBad .ared .f32 d 2 s.grp.decl.occupancy = false ∧ collSrcSpad d = false ∧ collDstSpad d = false ∧
      sideOk (s.windowSide (s.grp.window (collSrcWin d)) .read
        ((List.range 8).map fun i => (collSrcOff d + ((i * 4 : Nat) : Int), 4))) = true ∧
      sideOk (s.windowSide (s.grp.window (collDstWin d)) .write
        ((List.range 8).map fun i => (collDstOff d + ((i * 4 : Nat) : Int), 4))) = true) ∧
    (let s := ranked (collWords + 9)
     collBad .ared .f32 (spadAt s (s.grp.readS 5).toNat 32) 2 s.grp.decl.occupancy = true) := by
  unfold DescriptorAt mayIssue; decide +kernel


/-- One row of 262,145 elements with source stride 0. -/
def largeWords : Nat := 2 ^ 262 + 2 * 2 ^ 265 + 2 ^ 268 + 262145 * 2 ^ 512 + 4 * 2 ^ 592

/-- The descriptor of a copy of one element of the scratchpad to 262,145 places of a window: 4 bytes more than 1 MiB. -/
def large : State :=
  let s := described 256 largeWords
  s.setGrp { s.grp with w := [(2, ⟨true, 2 ^ 30, .rw, 2 ^ 30, 2 ^ 21, false⟩)] }

def largeCopy : CopyDesc := copyDesc largeWords

theorem mem_large_elements {e : Nat × Nat} (h : e ∈ largeCopy.elements) : e.1 = 0 ∧ e.2 < 262145 := by
  have hr : largeCopy.rows = 1 := by decide +kernel
  have hl : largeCopy.rowLen = 262145 := by decide +kernel
  simp only [CopyDesc.elements, hr, hl, List.mem_flatMap, List.mem_range, List.mem_map] at h
  obtain ⟨ρ, hρ, i, hi, rfl⟩ := h
  exact ⟨Nat.lt_one_iff.mp hρ, hi⟩

theorem large_at (i : Nat) : largeCopy.srcAt 0 i = 0 ∧ largeCopy.dstAt 0 i = 4 * (i : Int) := by
  have hu : largeCopy.used = [⟨262145, 0, 4⟩] := by decide +kernel
  have hs : largeCopy.srcBase = 0 ∧ largeCopy.dstBase = 0 ∧ largeCopy.layout = false := by decide +kernel
  obtain ⟨h1, h2, h3⟩ := hs
  simp [CopyDesc.srcAt, CopyDesc.dstAt, hu, h1, h2, h3, rowOffset]
  omega

theorem large_nodup : (largeCopy.elements.map fun e => largeCopy.dstAt e.1 e.2).Nodup := by
  have hr : largeCopy.rows = 1 := by decide +kernel
  have he : largeCopy.elements = (List.range largeCopy.rowLen).map fun i => (0, i) := by
    simp [CopyDesc.elements, hr]
  rw [he, List.map_map]
  refine List.Nodup.map (fun a b h => ?_) List.nodup_range
  simp only [Function.comp_apply, (large_at _).2] at h
  omega

theorem large_well : largeCopy.illFormed large.grp.decl [] = false := by
  have h1 : largeCopy.resv = false ∧ largeCopy.formatBad large.grp.decl.occupancy [] = false ∧ largeCopy.ndim = 1 ∧
      largeCopy.skind = 0 ∧ largeCopy.dkind = 1 ∧ (largeCopy.used.any fun x => decide (x.extent = 0)) = false ∧
      largeCopy.destBytes large.grp.decl < 2 ^ 40 ∧ largeCopy.layoutBad = false ∧ largeCopy.dual = false ∧
      largeCopy.pstride = 0 ∧ largeCopy.srcTy.bytes = 4 ∧ largeCopy.dstTy.bytes = 4 ∧ 4 ≤ large.grp.decl.occupancy := by
    decide +kernel
  obtain ⟨a, b, c, d, e, f, g, h, i, j, k, l, m⟩ := h1
  have hd : ¬ 2 ^ 40 ≤ largeCopy.destBytes large.grp.decl := by omega
  have hel : (largeCopy.elements.any fun e =>
      decide (largeCopy.srcAt e.1 e.2 % ((4 : Nat) : Int) ≠ 0) || decide (largeCopy.dstAt e.1 e.2 % ((4 : Nat) : Int) ≠ 0) ||
      (decide (0 = 0) && !inside large.grp.decl.occupancy 4 (largeCopy.srcAt e.1 e.2)) ||
      (decide (1 = 0) && !inside large.grp.decl.occupancy 4 (largeCopy.dstAt e.1 e.2))) = false := by
    rw [List.any_eq_false]
    intro x hx
    obtain ⟨hx1, -⟩ := mem_large_elements hx
    simp only [hx1, (large_at _).1, (large_at _).2, inside]
    simp
    omega
  simp only [CopyDesc.illFormed, CopyDesc.dualBad, a, b, c, d, e, f, h, i, j, k, l, hd, large_nodup]
  simpa using hel

theorem side_ok {α : Type} (f : α → Xlate) (a : α → Int) : ∀ (l : List α) (b : Nat) (fr : Sparse Nat) (ls : List TlbEntry),
    (∀ x ∈ l, ∃ pa e, f x = .ok pa e) → ∃ fr' ls', l.foldl (fun r x => foldElement (a x) (f x) r) (.ok (.window b fr) ls) =
      .ok (.window b fr') ls'
  | [], _, fr, ls, _ => ⟨fr, ls, rfl⟩
  | x :: xs, b, fr, ls, h => by
    obtain ⟨pa, e, hx⟩ := h x (by simp)
    simp only [List.foldl_cons, hx, foldElement]
    exact side_ok f a xs b _ _ fun y hy => h y (by simp [hy])

theorem large_side : ∃ side leaves, large.dstSide largeCopy = .ok side leaves := by
  have h1 : largeCopy.dkind = 1 ∧ largeCopy.dual = false ∧ largeCopy.dstTy.bytes = 4 ∧
      large.grp.window largeCopy.dwin = ⟨true, 2 ^ 30, .rw, 2 ^ 30, 2 ^ 21, false⟩ ∧
      (large.context large.grp.ctx).plim = 0x101000 := by decide +kernel
  obtain ⟨a, b, c, d, e⟩ := h1
  have hp : largeCopy.planesMoved large.grp.decl = 0 := by simp [CopyDesc.planesMoved, b]
  simp only [State.dstSide, a, State.windowSide, d]
  have hk : ∀ x ∈ largeCopy.dstElements large.grp.decl, ∃ pa l, large.laneCheck (quarterOf large.cur.gid) large.grp.ctx
      ⟨true, 2 ^ 30, .rw, 2 ^ 30, 2 ^ 21, false⟩ x.1 x.2 .write false large.spl.sup large.grp.groupHorizon = .ok pa l := by
    intro x hx
    simp only [CopyDesc.dstElements, hp, c, List.mem_append, List.mem_map] at hx
    obtain ⟨y, hy, rfl⟩ := hx.resolve_right (by simp [a])
    obtain ⟨hy1, hy2⟩ := mem_large_elements hy
    rw [hy1, (large_at _).2]
    refine ⟨2 ^ 30 + (4 * (y.2 : Int)).toNat, ⟨large.grp.ctx, 0, 0, 0, false, false, false, false⟩, ?_⟩
    have q : (large.context large.grp.ctx).isPrivate (((2 ^ 30 : Nat) : Int) + 4 * (y.2 : Int)).toNat = false := by
      simp only [Context.isPrivate, e]; simp; omega
    simp only [State.laneCheck, q, permAllows]
    rw [if_neg (by simp), if_neg (by omega), if_neg (by omega)]
    simp
    omega
  obtain ⟨fr, ls, h⟩ := side_ok _ (fun x : Int × Nat => ((2 ^ 30 : Nat) : Int) + x.1) _ (2 ^ 30) [] [] hk
  exact ⟨_, _, h⟩

/-- Before its grant the large copy asks for power; with a reduction that orders at device scope em may be empty. -/
theorem wit_copy_large :
    (∃ src dst l1 l2, large.srcSide largeCopy [] = .ok src l1 ∧ large.dstSide largeCopy = .ok dst l2) ∧
    largeCopy = copyDesc (spadAt large (large.grp.readS 5).toNat 256) ∧ largeCopy.map = false ∧
    largeCopy.illFormed large.grp.decl [] = false ∧ DescriptorAt large 5 64 256 ∧ mayIssue large ∧
    2 ^ 20 < largeCopy.count * largeCopy.dstTy.bytes ∧ large.spl.hold ≠ .granted ∧
    (let s := windowed 0 .rw (fun _ => 0)
     s.em = 0 ∧ mayIssue s ∧ s.orderReady .device (isRel .ar) = true ∧ NoneWaits s) := by
  obtain ⟨dst, l2, h⟩ := large_side
  refine ⟨⟨.spad large.grp.gang, dst, [], l2, by decide +kernel, h⟩, by decide +kernel, by decide +kernel, large_well, ?_⟩
  unfold DescriptorAt mayIssue
  refine ⟨?_, ?_, ?_, ?_, ?_, ?_, ?_, none_waits (s := windowed 0 .rw fun _ => 0) ?_ (by rintro e (rfl | rfl | rfl) <;> decide +kernel)⟩ <;> decide +kernel
/-! ## Witnesses: the matrix engine and the factor unit -/

/-- The context owns the bank of the quarter; tile register 2 holds 16 tiles from 40 on. -/
def banked (owned : Bool) (octx : Nat) : State :=
  let s := windowed 0xFF .rw (fun l => 4 * l)
  let s := s.setGrp { s.grp with t := [(2, some (40, 16))], decl := { s.grp.decl with spad := 393216 },
                                 s := [(5, 0x1000), (7, 2), (8, 0x800000100), (9, 0x10010)] }
  s.setQuarter 0 { s.quarter 0 with owned := owned, octx := octx, live := [(40, true)] }

theorem wit_matrix_commands :
    (let s := banked true 0
     mayIssue s ∧ OwnsBank s ∧ 1023 + 1 ≤ 1024 ∧ (s.quarter 0).fuse = 0 ∧
      (s.grp.readS 5).toInt % 64 = 0 ∧ (s.grp.readS 5).toInt + (operandBytes 0 .bf16 : Int) ≤ (s.grp.decl.spad : Int) ∧
      (s.grp.readS 9).toNat % 16 = 0 ∧ (s.grp.readS 9).toNat + 16 * (depthOf 0 .e4m3 / 128) ≤ s.grp.decl.spad ∧
      (s.grp.readS 0).toNat = 0 ∧ 0 < (s.grp.readS 7).toNat ∧ s.grp.tile 2 = some (40, 16) ∧
      ((s.grp.readS 7).toNat - 1) * ((s.grp.readS 8).toNat / 2 ^ 32) + colsOf 0 / 32 ≤ 16 ∧
      (∀ k, k < (s.grp.readS 7).toNat → ((s.grp.readS 5).toInt + (k : Int) * ((s.grp.readS 8).setWidth 32).toInt) % 256 = 0 ∧
        (s.grp.readS 5).toInt + (k : Int) * ((s.grp.readS 8).setWidth 32).toInt + (blockOf .bf16 (depthOf 0 .bf16) : Int) ≤
          (s.grp.decl.spad : Int)) ∧
      (s.grp.readS 5).toInt + ((1024 * 16 * 4 : Nat) : Int) ≤ (s.grp.decl.spad : Int)) := by
  unfold mayIssue OwnsBank; decide +kernel

/-- A drain of one tile into the window. -/
theorem wit_drain_to_window :
    (let s := banked true 0
     sideOk (s.windowSide (s.grp.window 2) .write ((List.range 32).map fun i => (((i * 4 : Nat) : Int), 4))) = true) := by
  decide +kernel

/-- A weight-store operand of any length that one entry of the map holds. -/
theorem wit_weight_operand (s : State) (n : Nat) (h : n ≤ 2 ^ 20) :
    (s.readWs [⟨0, 0, 2 ^ 20, true, true, 1⟩] 0 0 n).isSome = true := by
  have : ∀ k ∈ span 0 n, (wsByte [⟨0, 0, 2 ^ 20, true, true, 1⟩] 0 k).isSome = true := by
    intro k hk
    have hk : k < 2 ^ 20 := by simp [span] at hk; omega
    have he : wsEntry [⟨0, 0, 2 ^ 20, true, true, 1⟩] k = some ⟨0, 0, 2 ^ 20, true, true, 1⟩ := by
      simp only [wsEntry, List.find?_cons]
      rw [decide_eq_true (by decide), decide_eq_true (Nat.zero_le k), decide_eq_true (by simpa using hk)]
      rfl
    have hb : bitAt 1 0 = true := by decide
    simp only [wsByte, he, hb]
    rfl
  unfold State.readWs
  simp only [List.all_map]
  rw [if_pos]
  · rfl
  · simp only [List.all_eq_true, Function.comp_apply, Option.isSome_map]
    exact this

theorem wit_matrix_traps :
    (let s := banked true 5
     mayIssue s ∧ s.grp.stack.length + 1 ≤ 32 ∧ (s.quarter 0).owned = true ∧ (s.quarter 0).octx ≠ s.grp.ctx) ∧
    (let s := banked true 0
     OwnsBank s ∧ s.grp.tile 3 = none ∧ s.grp.readS 7 ≠ 0 ∧ ((s.grp.readS 5).toInt + 1) % 64 ≠ 0 ∧
      ((s.grp.readS 5).toInt + -8192) % 64 = 0 ∧ (s.grp.readS 5).toInt + -8192 < 0 ∧
      s.ready (s.cur.gid / 4096) s.grp.groupHorizon = true ∧ ringByte s 3 0 1 = 0) := by
  unfold mayIssue OwnsBank; decide +kernel

/-- No die of the state has a write to apply, or a byte that a write has marked. -/
theorem numbered_of {s : State} (h : (s.dies.all fun p => p.2.marks == [] && p.2.held == []) = true) : Numbered s := by
  have key : ∀ d, (s.die d).marks = [] ∧ (s.die d).held = [] := by
    intro d
    rcases Sparse.get_mem_or Die.reset s.dies d with e | ⟨p, hp, e⟩
    · unfold State.die; rw [e]; exact ⟨rfl, rfl⟩
    · have := List.all_eq_true.1 h p hp
      simpa [State.die, ← e] using this
  refine ⟨fun d pa => ?_, fun d w hw => ?_⟩
  · simp [Die.mark, (key d).1, Mark.clear]
  · simp [(key d).2] at hw

/-- Ring 3 of the context with k slots, the first of them full at generation 0. -/
def ringed (k : Nat) : State :=
  let s := banked true 0
  let a := ringAt 0 3
  s.setDie 0 { s.die 0 with mem := Sparse.setRange 0 (s.die 0).mem a [BitVec.ofNat 8 k, 0, 0, 0, 0, 0, 0, 0, 0, 0, 0, 0, 0, 0, 0, 0, 1] }

theorem wit_rings :
    (let s := ringed 8
     s.accessReady true = true ∧ s.ringReady 3 = true ∧ s.cur.gid < 32768 ∧ ringByte s 3 0 1 = 8 ∧ 1 ≤ 8 ∧
      (s.grp.readS 0).toNat % 2 ^ 32 = 0 ∧ ringByte s 3 (16 + 16 * (0 % 8)) 1 = 1 ∧
      ringByte s 3 (16 + 16 * (0 % 8) + 4) 4 = 0) ∧
    (let s := ringed 0; s.accessReady true = true ∧ s.ringReady 3 = true ∧ ringByte s 3 0 1 = 0) := by decide +kernel

/-- The ring form of MSTAT: the slot of tag 0 holds base 0; and where it traps. -/
theorem wit_ring_stationary :
    (let s := ringed 8
     mayIssue s ∧ OwnsBank s ∧ s.ready (s.cur.gid / 4096) s.grp.groupHorizon = true ∧ ringByte s 3 0 1 ≠ 0 ∧
      (s.grp.readS 0).toNat % 2 ^ 32 = 0 ∧ ringByte s 3 16 1 = 1 ∧ ringByte s 3 (16 + 4) 4 = 0 ∧ ringByte s 3 (16 + 8) 8 = 0 ∧
      operandBytes 0 .bf16 ≤ s.grp.decl.spad ∧ s.grp.stack.length + 1 ≤ 32 ∧
      (s.grp.readS 7).toNat % 2 ^ 32 = 2 ∧ ringByte s 3 (16 + 16 * (2 % 8)) 1 ≠ 1) ∧ ringByte (ringed 0) 3 0 1 = 0 := by
  unfold mayIssue OwnsBank; decide +kernel

/-- Handle 2 has 16 tiles: two blocks of eight tiles apart fit and three do not. Blocks lie at 0x1000 and 0x100 bytes on;
with a stride of 0x1001 one is misaligned, and with 2^31 - 256 one lies outside. -/
theorem wit_loop_traps :
    (let s := banked true 0
     s.grp.tile 2 = some (40, 16) ∧ 16 < (3 - 1) * 8 + colsOf 0 / 32 ∧ (2 - 1) * 8 + colsOf 0 / 32 ≤ 16 ∧
      ((s.grp.readS 5).toInt + (1 : Int) * (0x1001#64 : Word64).toInt) % 256 ≠ 0 ∧
      ((s.grp.readS 5).toInt + (1 : Int) * (0x7FFFFF00#64 : Word64).toInt) % 256 = 0 ∧
      (s.grp.decl.spad : Int) < (s.grp.readS 5).toInt + (1 : Int) * (0x7FFFFF00#64 : Word64).toInt ∧
      ((s.grp.readS 5).toInt + 1048576) % 64 = 0 ∧ (s.grp.decl.spad : Int) < (s.grp.readS 5).toInt + 1048576 ∧
      (s.readWs (s.grid s.grp.grid).wsmap 0 0x1000 64).isNone = true ∧
      (s.grp.readS 7).toNat % 16 ≠ 0 ∧ (2 ^ 20) % 16 = 0 ∧ s.grp.decl.spad < 2 ^ 20 + 16 * (depthOf 0 .e4m3 / 128)) := by
  decide +kernel

theorem wit_rings_numbered : Numbered (ringed 8) ∧ Numbered (ringed 0) :=
  ⟨numbered_of (by decide +kernel), numbered_of (by decide +kernel)⟩

/-- An operation of the group that its array or its factor unit takes next. -/
def arrayOp (cls : Cls) (k : OpKind) : Op := { opOf (banked true 0) cls k none 0 [] with id := 5 }

def atArray (m : MatrixOp) : State :=
  let s := banked true 0
  let s := s.setGrp { s.grp with ops := [arrayOp .mx (.matrix m)] }
  let s := s.setDie 0 { s.die 0 with grants := [⟨.op 0 5, 2, 0⟩] }
  s.setQuarter 0 { s.quarter 0 with seq := [⟨0, 5⟩] }

theorem wit_sequencer : ∀ m ∈ [MatrixOp.mzero (some (0, 1024)), .mbind (some (1023, 1)), .mfree none,
    .mdrain (some (40, 1)) (.spad 0) 0x1000 0x3F800000 false .f32, .mstat .bf16 false 0x1000 none,
    .mloop (some (40, 16)) false .bf16 0x1000 256 8 2],
    NextAtArray (atArray m) 0 0 (arrayOp .mx (.matrix m)) m [] ∧ ((atArray m).quarter 0).fuse = 0 := by
  unfold NextAtArray; decide +kernel

/-- The bank of the loop holds an operand of BF16, or none. -/
theorem wit_matrix_loops :
    (let s := atArray (.mloop (some (40, 16)) false .bf16 0x1000 256 8 2)
     let x := s.quarter 0
     Sparse.get none x.stat 0 = none ∧ (if x.fuse = 0 then 0 % 4 else x.lead) = 0 ∧ 0 < 2 ∧ colsOf x.fuse / 32 ≤ 8) ∧
    (let s := atArray (.mloop (some (40, 16)) false .bf16 0x1000 256 8 2)
     let st : Stationary := ⟨0, .bf16, false, 0, 0x1000, [], [], [(0, 1)], false⟩
     let s := s.setQuarter 0 { s.quarter 0 with stat := [(0, some st)] }
     Sparse.get none (s.quarter 0).stat 0 = some st ∧ st.ty = .bf16 ∧ st.stale = false) := by decide +kernel

/-- Factor register 1 names slot 3, of n rows. -/
def factored (n : Nat) : State :=
  let s := banked true 0
  s.setGrp { s.grp with f := [(1, some (3, n))] }

theorem wit_factor_commands :
    (let s := factored 128
     mayIssue s ∧ 1 ≤ 128 ∧ s.grp.factor 1 = some (3, 128) ∧ Fits s ((List.range ((128 + 31) / 32)).map (252 + ·)) ∧
      ((s.grp.readS 5).toInt + 16) % 16 = 0 ∧ 0 ≤ (s.grp.readS 5).toInt + 16 ∧
      (s.grp.readS 5).toInt + 16 + ((2 * 128 * (128 + 1) : Nat) : Int) ≤ (s.grp.decl.spad : Int) ∧
      s.grp.factor 2 = none ∧ s.grp.stack.length + 1 ≤ 32) := by
  unfold mayIssue Fits; decide +kernel

/-- A misaligned image, one outside, and one with a poisoned byte. -/
theorem wit_factor_traps :
    (let s := factored 128
     ((s.grp.readS 7).toInt + 0) % 16 ≠ 0 ∧ ((s.grp.readS 5).toInt + 1048576) % 16 = 0 ∧
      (s.grp.decl.spad : Int) < (s.grp.readS 5).toInt + 1048576 + ((2 * 128 * (128 + 1) : Nat) : Int) ∧
      (s.gang 0).spadStatus 0x1000 4 = 0 ∧ ({ s.gang 0 with errs := [(0x1001, 2)] } : Gang).spadStatus 0x1000 4 ≠ 0) := by
  decide +kernel

/-- The slot 3 holds the factor u of one row, of the band of the group or not live; the operation is next. -/
def atSweeper (x : FactorOp) (live : Bool) (band u : Nat) : State :=
  let s := factored 1
  let s := s.setGrp { s.grp with ops := [arrayOp .fx (.factor 1 3 1 x)] }
  let s := s.setDie 0 { s.die 0 with grants := [⟨.op 0 5, 1, 0⟩] }
  s.setQuarter 0 { s.quarter 0 with sweep := [⟨0, 5⟩],
                                    slots := [(3, ⟨live, 1, 0, s.grp.pos.spanIdx, band, if u = 0 then [] else [(0, BitVec.ofNat 32 u)]⟩)] }

theorem wit_factor_sweeps : ∀ x ∈ [FactorOp.finit, .fupd [0x40800000], .fdown [0x3F800000], .fsolve 9 [0x40800000] false,
    .flogdet 7, .fdrain 0x1000, .fload 0x1000, .ffree],
    (let s := atSweeper x true (banked true 0).grp.pos.bandIdx 0x40400000
     NextAtSweeper s 0 0 (arrayOp .fx (.factor 1 3 1 x)) 1 3 1 x [] ∧ ((s.quarter 0).slot 3).live = true ∧
      ((s.quarter 0).slot 3).grid = s.grp.grid ∧ ((s.quarter 0).slot 3).span = s.grp.pos.spanIdx ∧
      ((s.quarter 0).slot 3).band = s.grp.pos.bandIdx ∧ ((s.quarter 0).slot 3).n = 1 ∧
      (factorVal ((s.quarter 0).slot 3) 0 0).isFinite = true ∧
      (Fmt.f32.value (s.readSpad s.grp.gang 0x1000 4)).isFinite = true) ∧
    ((atSweeper x false 0 0).quarter 0).slot 3 = ⟨false, 1, 0, (banked true 0).grp.pos.spanIdx, 0, []⟩ ∧
    ((atSweeper x true 9 0).quarter 0).slot 3 = ⟨true, 1, 0, (banked true 0).grp.pos.spanIdx, 9, []⟩ := by
  unfold NextAtSweeper; decide +kernel

/-- Three and four give five, and the quotients are finite. -/
theorem wit_factor_update :
    let v := Fmt.f32.value
    let r := once (XVal.sqrt (XVal.add (XVal.mul (v 0x40400000) (v 0x40400000)) (XVal.mul (v 0x40800000) (v 0x40800000))))
    r = 0x40A00000 ∧ (v r).isFinite = true ∧ (v (once (XVal.div (v 0x40400000) (v r)))).isFinite = true ∧
      (v (once (XVal.div (v 0x40800000) (v r)))).isFinite = true ∧ (v 0x7F800000).isFinite = false ∧
      (factorVal ((atSweeper (.flogdet 7) true 0 0).quarter 0 |>.slot 3) 0 0).isZero = true := by decide +kernel

/-- A poisoned byte of a stationary operand; and a drain of another group of the quarter that still writes. -/
theorem wit_stationary_errors :
    (let m : MatrixOp := .mstat .bf16 false 0x1000 none
     let s := atArray m
     let s := s.setGang 0 { s.gang 0 with errs := [(0x1003, 2)] }
     NextAtArray s 0 0 (arrayOp .mx (.matrix m)) m [] ∧ Sparse.get 0 (s.gang 0).errs (0x1000 + 3) ≠ 0) ∧
    (let m : MatrixOp := .mstat .bf16 false 0x1000 none
     let s := atArray m
     let s := s.setGroup 1 { s.grp with ops := [{ arrayOp .mx .empty with begun := true, writes := [⟨.phys 64, [1], false, [], .i8⟩] }] }
     (∃ p ∈ s.groups, p.1 / 1024 = 0 ∧ ∃ z ∈ p.2.ops, z.cls = .mx ∧ z.done = false ∧ z.writes ≠ []) ∧
      (s.quarter 0).seq = [⟨0, 5⟩] ∧ (s.group 0).op? 5 = some (arrayOp .mx (.matrix m))) := by
  unfold NextAtArray
  refine ⟨?_, ?_⟩ <;> decide +kernel

/-- Slot 3 holds the identity of two rows, its last element u instead; the operation is next. -/
def atSweeper2 (x : FactorOp) (u : Nat) : State :=
  let s := factored 2
  let s := s.setGrp { s.grp with ops := [arrayOp .fx (.factor 1 3 2 x)] }
  let s := s.setDie 0 { s.die 0 with grants := [⟨.op 0 5, 1, 0⟩] }
  s.setQuarter 0 { s.quarter 0 with sweep := [⟨0, 5⟩],
                                    slots := [(3, ⟨true, 2, 0, s.grp.pos.spanIdx, s.grp.pos.bandIdx,
                                      [(0, 0x3F800000), (129, BitVec.ofNat 32 u)]⟩)] }

/-- The rows that an update or a downdate of the vector a leaves, as far as they do not fail. -/
def whyAt (down : Bool) (u : Nat) (a : List Nat) (k : Nat) : Nat :=
  rowFault down 2 k (workAt down 2 (fun k j => (Sparse.get 0 ((atSweeper2 .finit u).quarter 0 |>.slot 3).u (128 * k + j)).toNat)
    (fun j => a.getD j 0) k)

/-- An update by (1, 1) runs; a downdate by (1/2, 1/4) runs, one by (0, 1) fails the margin test of row 1, and an update
whose second row grows past the format fails there. -/
theorem wit_two_rows :
    (∀ x ∈ [FactorOp.fupd [0x3F800000, 0x3F800000], .fdown [0x3F000000, 0x3E800000], .fdown [0, 0x3F800000],
        .fsolve 9 [0x40800000, 0x3F800000] false, .fsolve 9 [0x40800000, 0x3F800000] true],
      let s := atSweeper2 x 0x3F800000
      NextAtSweeper s 0 0 (arrayOp .fx (.factor 1 3 2 x)) 1 3 2 x [] ∧ ((s.quarter 0).slot 3).live = true ∧
        ((s.quarter 0).slot 3).grid = s.grp.grid ∧ ((s.quarter 0).slot 3).span = s.grp.pos.spanIdx ∧
        ((s.quarter 0).slot 3).band = s.grp.pos.bandIdx ∧ ((s.quarter 0).slot 3).n = 2) ∧
    (∀ k, k < 2 → whyAt false 0x3F800000 [0x3F800000, 0x3F800000] k = 0) ∧
    (∀ k, k < 2 → whyAt true 0x3F800000 [0x3F000000, 0x3E800000] k = 0) ∧
    (whyAt true 0x3F800000 [0, 0x3F800000] 0 = 0 ∧ whyAt true 0x3F800000 [0, 0x3F800000] 1 = 1) ∧
    (whyAt false 0x7F7FFFFF [0, 0x7F7FFFFF] 0 = 0 ∧ whyAt false 0x7F7FFFFF [0, 0x7F7FFFFF] 1 = 2) ∧
    (∀ e ∈ [0x3F800000, 0, 0x7F7FFFFF, 0x3F000000, 0x3E800000], (Fmt.f32.value e).isFinite = true) := by
  unfold NextAtSweeper
  refine ⟨?_, ?_, ?_, ⟨?_, ?_⟩, ⟨?_, ?_⟩, ?_⟩ <;> decide +kernel

theorem wit_sweep_fails : (sweep true 1 [(0, 0x40400000)] [0x40800000]).fail ≠ none ∧
    (sweep false 1 [(0, 0x40400000)] [0x40800000]).fail = none := by decide +kernel

/-- A handler of the context may take the bank, and give it back with a live tile. -/
def askOwner (owned : Bool) (octx : Nat) (h : Hold) : State :=
  let s := banked owned octx
  let s := s.setGrp (s.grp.setSplit 0 { handler 0xFF with hold := h })
  let s := s.setGrp { s.grp with s := [(5, 0x10000), (6, 0x10005)] }
  s.setContext 0 { s.context 0 with accsave := 0x200000 }

theorem wit_owner_writes :
    (let s := askOwner true 0 .none
     s.spl.sup = true ∧ (s.grp.readS 5).getLsbD 16 = true ∧ (s.grp.readS 5).toNat % 2 ^ 16 = s.grp.ctx ∧
      (s.grp.readS 6).toNat % 2 ^ 16 ≠ s.grp.ctx ∧ (s.grp.readS 0).getLsbD 16 = false ∧
      ((s.quarter 0).owned = true ∧ (s.quarter 0).octx = s.grp.ctx)) ∧
    (let s := askOwner false 0 .none; ¬ ((s.quarter 0).owned = true ∧ (s.quarter 0).octx = s.grp.ctx)) := by
  decide +kernel

theorem wit_owner_switch :
    (let s := askOwner true 0 (.accown true 0x44)
     ((s.group 0).split 0).hold = .accown true 0x44 ∧ (s.context 0).issues = true ∧ (s.quarter 0).owned = true ∧
      (s.quarter 0).octx = 0 ∧ s.bankQuiet 0 = true ∧
      (∀ k ∈ Sparse.keys (s.quarter 0).live, k < 1024 ∧ (s.tilePieces 0 0 0 k .write).isSome = true) ∧
      HbmApart ((Sparse.keys (s.quarter 0).live).flatMap fun k => (s.tilePieces 0 0 0 k .write).getD [])) ∧
    (let s := askOwner false 0 (.accown false 0x44)
     (s.quarter 0).owned = false ∧ ((s.group 0).split 0).hold = .accown false 0x44) := by
  refine ⟨⟨?_, ?_, ?_, ?_, ?_, ?_, ?_, ?_⟩, by decide +kernel⟩
  · decide +kernel
  · decide +kernel
  · decide +kernel
  · decide +kernel
  · decide +kernel
  · decide +kernel
  · intro p hp
    have h : ∀ p ∈ ((Sparse.keys ((askOwner true 0 (.accown true 0x44)).quarter 0).live).flatMap fun k =>
      ((askOwner true 0 (.accown true 0x44)).tilePieces 0 0 0 k .write).getD []), physKind p.1 = .hbm 0 := by decide +kernel
    exact ⟨0, h p hp⟩
  · decide +kernel

/-- Context 7 owned the bank before; context 0 has an image of tile 3 that quarter 0 has written. -/
theorem wit_owner_switch_from_another :
    (let s := askOwner true 7 (.accown false 0x44)
     let s := s.setContext 7 { s.context 0 with accsave := 0x400000 }
     let s := s.setContext 0 { s.context 0 with spill := [(3, 1)] }
     ((s.group 0).split 0).hold = .accown false 0x44 ∧ (s.context 0).issues = true ∧ (s.quarter 0).octx = 7 ∧
      s.bankQuiet 0 = true ∧ (∀ k ∈ Sparse.keys (s.quarter 0).live, k < 1024 ∧ (s.tilePieces 0 7 0 k .write).isSome = true) ∧
      Sparse.get 0 (s.context 0).spill (1024 * 0 + 3) = 1 ∧ (s.tilePieces 0 0 (1 - 1) 3 .read).isSome = true) := by
  decide +kernel

theorem wit_factor_failures :
    (let s := mid [(0, runs 0x40 0xFF)]
     let s := s.setGrp { s.grp with latch := some 0x1234500000 }
     s.grp.drain = none ∧ (s.grp.ops.filter fun o => o.cls = .fx).length ≤ 0 ∧ s.grp.latch = some 0x1234500000 ∧
      s.grp.stack.length + 1 ≤ 32) ∧
    (let s := mid [(0, handler 0xFF)] [region 3 0xFF, trapped 0x48 0xFF]
     s.spl.sup = true ∧ s.grp.stack = [region 3 0xFF] ++ trapped 0x48 0xFF :: [] ∧ (trapped 0x48 0xFF).cause = 0x48) := by
  decide +kernel

/-! ## Witnesses: time, the order of writes, and power -/

/-- A group that has issued none for 256 slots, entered a critical region at 10 and waits for cycle 300 with its entry 1. -/
def timed (clock crit age : Nat) (pre : Bool) : State :=
  let s := mid [(0, { runs 0x40 0xFF with age := age }), (1, { runs 0x50 0xF00 with state := .waiting, wait := .sleep 5 300 0x60 })]
  let s := { s with clock := clock }
  let s := s.setContext 0 { s.context 0 with critlim := 1000, drainlim := 500 }
  s.setGrp { s.grp with crit := crit, critSince := 10, preempt := pre, deliveries := [⟨[.v 3], 300⟩, ⟨[.s 3], 301⟩] }

theorem wit_timers :
    (let s := timed 300 0 256 false
     let g := s.group 0
     Runs g ∧ (g.split 0).v = true ∧ (g.split 0).state = .runnable ∧ (g.split 0).hold = .none ∧ 256 ≤ (g.split 0).age ∧
      (g.split 0).promoted = none ∧ (g.split 1).wait = .sleep 5 300 0x60 ∧ (g.split 1).state = .waiting ∧ 300 ≤ s.clock ∧
      (g.deliveries[0]?.map Delivery.due) = some 300 ∧ (g.deliveries[1]?.map Delivery.due) = some 301) ∧
    (let s := timed 299 0 255 false; ((s.group 0).split 0).age < 256 ∧ s.clock < 300) ∧
    (let s := timed 1010 1 0 false
     let g := s.group 0
     0 < g.crit ∧ g.critSpent = false ∧ g.critSince + (s.context g.ctx).critlim ≤ s.clock ∧ g.preempt = false) ∧
    (let s := timed 1010 1 0 true
     let g := s.group 0
     g.preempt = true ∧ g.drain = none ∧ Runs g ∧ ({ g with rewind := false } : Group).rewind = false ∧ ({ g with rewind := false } : Group).allStand = false) ∧
    (let s := timed 1009 1 0 true; s.clock < (s.group 0).critSince + (s.context (s.group 0).ctx).critlim) := by
  unfold Runs; decide +kernel

/-- After 60 cycles more the split of AGE 200 has waited its 256, and the critical section its limit of 1,000. -/
theorem wit_elapse :
    (let s := timed 960 1 200 false
     let g := s.group 0
     Runs g ∧ (g.split 0).v = true ∧ (g.split 0).state = .runnable ∧ g.preempt = false ∧ s.clockStopped = false ∧
      (g.split 0).promoted = none ∧ s.isReady 0 0 = true ∧ 256 ≤ (g.split 0).age + 60 ∧ 0 < g.crit ∧
      g.critSince + (s.context g.ctx).critlim ≤ s.clock + 60 ∧
      (((s.elapse 60).group 0).split 0).promoted = some 1016 ∧ ((s.elapse 60).group 0).isCritical = false) := by
  unfold Runs; decide +kernel

/-- A write of die 1 that die 0 still has to apply, and what die 0 has applied. -/
def holding (vc : Stamp) : State :=
  let s := mid [(0, runs 0x40 0xFF)]
  s.setDie 0 { s.die 0 with vc := vc, held := [⟨1, [(1, 3), (2, 5)], 9, [⟨0x40, [1, 2, 3, 4], false⟩]⟩],
                            marks := [(0x41, ⟨10, [], false, false⟩)] }

theorem wit_writes_applied :
    (let s := holding [(1, 2), (2, 5)]
     (s.die 0).held.length = 1 ∧ ∀ w ∈ (s.die 0).held, Admitted (s.die 0) w ∧ w.src < 8 ∧ w.parts.length = 1 ∧
       ((s.die 0).mark 0x40).seq ≤ w.seq ∧ ¬ ((s.die 0).mark 0x41).seq ≤ w.seq) ∧
    (∀ w ∈ ((holding [(1, 2), (2, 4)]).die 0).held, ¬ Admitted ((holding [(1, 2), (2, 4)]).die 0) w) := by
  unfold Admitted; decide +kernel

/-- The split asks for power: two units of the eight, n of them granted. -/
def powered (n since : Nat) : State :=
  let s := mid [(0, { runs 0x40 0xFF with hold := .power })]
  let s := { s with clock := 2300 }
  s.setDie 0 { s.die 0 with requests := [⟨.split 0 0, 2, 5⟩], grants := [⟨.op 0 5, n, since⟩] }

theorem wit_power :
    (let s := powered 6 100
     let d := s.die 0
     ((s.group 0).split 0).hold = .power ∧ 2 ≤ d.units - (d.grants.map Power.units).sum ∧ d.grants[0]? = some ⟨.op 0 5, 6, 100⟩ ∧
      100 + 2200 ≤ s.clock) ∧
    (let s := powered 7 101
     let d := s.die 0
     d.units - (d.grants.map Power.units).sum < 2 ∧ s.clock < 101 + 2200) ∧
    ((mid [(0, runs 0x40 0xFF)]).die 0).requests = [] := by decide +kernel

/-- A grant of a split that has not issued, and one of an operation in progress, both 2,200 cycles old. -/
theorem wit_grants_end :
    (let s := powered 6 100
     let s := s.setGrp (s.grp.setSplit 0 { s.spl with hold := .granted })
     let s := s.setDie 0 { s.die 0 with grants := [⟨.split 0 0, 2, 100⟩] }
     (s.die 0).grants[0]? = some ⟨.split 0 0, 2, 100⟩ ∧ 100 + 2200 ≤ s.clock ∧ ((s.group 0).split 0).hold = .granted) ∧
    (let s := powered 6 100
     let s := s.setGrp { s.grp with ops := [{ opOf s .cp .empty none 0 [] with id := 5 }] }
     ((s.group 0).op? 5).isSome = true ∧ (s.die 0).grants[0]? = some ⟨.op 0 5, 6, 100⟩) := by decide +kernel

theorem wit_power_next : Next (powered 6 100) ((powered 6 100).die 0) ⟨.split 0 0, 2, 5⟩ := by
  refine .inr ⟨[], by decide +kernel, ?_⟩
  have hr : ((powered 6 100).die 0).requests = [⟨.split 0 0, 2, 5⟩] := by decide +kernel
  rw [hr]
  rintro x hx ⟨gid, hc, k, hk⟩
  obtain rfl := List.mem_singleton.1 hx
  rcases hk with hk | hk
  · injection hk with h1 h2
    subst h1
    exact absurd hc (by decide +kernel)
  · cases hk

/-! ## Witnesses: what engines do -/

/-- The group has one operation in progress. -/
def working (o : Op) : State :=
  let s := windowed 0xFF .rw (fun l => 4 * l)
  s.setGrp { s.grp with ops := [o] }

def workOp (cls : Cls) (k : OpKind) : Op := { opOf (mid [(0, runs 0x40 0xFF)]) cls k none 0 [] with id := 77 }

def laneWork (form : LaneForm) : Op :=
  workOp (match form with | .load => .gs | .store => .gs | _ => .rd)
    (.lanes form 254 .n64 .add .plain false [⟨31, 0x100008, .phys 0x100008, 2 ^ 63, []⟩])

theorem wit_lane_work : ∀ form ∈ [LaneForm.load, .store, .red, .amg],
    (let s := working (laneWork form)
     InProgress s 0 (laneWork form) ∧ (laneWork form).bar = none ∧ (laneWork form).results = [] ∧
      (laneWork form).writes = [] ∧ physKind 0x100008 = .hbm 0 ∧ s.ready 0 [] = true ∧ Clean s 0 0x100008 8 ∧
      s.homeReady 0 0 [] 0x100008 8 = true ∧
      s.placeReady 0 [] (.phys 0x100008) 8 ((s.group 0).least 31) = true ∧ Ty.n64.isAtomic = true ∧ 2 ^ 63 < 2 ^ (8 * Ty.n64.bytes)) := by
  unfold InProgress Clean; decide +kernel

theorem wit_lane_work_numbered : Numbered (working (laneWork .load)) := numbered_of (by decide +kernel)

/-- The copy of 256 bytes of descriptor, read at issue. -/
def copyWork : CopyWork := ⟨copyWords, [], .spad 0, .spad 0, fetchDecl⟩

theorem wit_copies_move :
    (let o := workOp .cp (.copy copyWork)
     let c := copyDesc copyWork.raw
     InProgress (working o) 0 o ∧ o.begun = false ∧ o.writes = [] ∧ o.bar = none ∧ c.skind = 0 ∧ c.dkind = 0 ∧
      c.map = false ∧ c.dual = false ∧ c.src = c.dst ∧ c.illFormed copyWork.decl [] = false ∧
      (working o).hasPower 0 o = true ∧ ((working o).gang 0).errs = []) := by
  unfold InProgress; decide +kernel

/-- Three writes of a copy that has begun, into a barrier or into none. -/
def landing (bar : Option Nat) : Op :=
  { workOp .cp (.copy copyWork) with
      begun := true, bar := bar,
      writes := [⟨.spad 0 0, [1, 2, 3, 4], false, [], .f32⟩, ⟨.spad 0 4, [5, 6, 7, 8], false, [], .f32⟩,
        ⟨.spad 0 8, [1, 2, 3, 4], false, [], .f32⟩] }

theorem wit_landings :
    InProgress (working (landing none)) 0 (landing none) ∧ InProgress (working (landing (some 31))) 0 (landing (some 31)) ∧
    (landing none).begun = true ∧ (landing none).writes ≠ [] ∧ 3 ≤ (landing none).writes.length ∧ 0 < 4 ∧
    (∀ p ∈ (landing none).writes, p.adds = [] ∧ p.poison = false ∧ p.bytes.length = 4) ∧
    (working (landing none)).hasPower 0 (landing none) = true ∧ (landing (some 31)).bar = some 31 := by
  unfold InProgress; decide +kernel

/-- A ray of lane 5 from the origin along z, admitted or not, with so many stacks of quarter 0 for the context. -/
def rayWork (vis adm : Bool) (args : List Nat) : Op :=
  workOp .ix (.ray vis 2 0x1000 ((windowed 0xFF .rw (fun _ => 0)).grp.window 2) [⟨5, args, [], adm, none⟩])

def rayState (quota : Nat) (o : Op) : State :=
  let s := working o
  s.setQuarter 0 { s.quarter 0 with quota := [(0, quota)] }

def forward : List Nat := [0, 0, 0, 0x3F800000, 0, 0, 0, 0x41000000]

theorem wit_rays :
    (let o := rayWork false false forward
     InProgress (rayState 1 o) 0 o ∧ (rayState 1 o).firstQueued 0 0 77 5 = true ∧
      (rayState 1 o).stacksHeld 0 0 < Sparse.get 0 ((rayState 1 o).quarter 0).quota 0 ∧
      Sparse.get 0 ((rayState 0 o).quarter 0).quota 0 ≤ (rayState 0 o).stacksHeld 0 0 ∧ rayRefused forward = none) ∧
    (let o := rayWork false true [0, 0, 0, 0x7FC00000, 0, 0, 0, 0x41000000]
     InProgress (rayState 1 o) 0 o ∧ (rayRefused [0, 0, 0, 0x7FC00000, 0, 0, 0, 0x41000000]).isSome = true) ∧
    (let o := rayWork false true forward
     let s := rayState 1 o
     InProgress s 0 o ∧ s.ready 0 [] = true ∧
      (s.castRay ⟨0, false, s.grp.window 2, [], o⟩ 0x1000 forward).map (fun x => asksOf x.status) = some none) ∧
    (let o := rayWork true true [0x3F000000, 0x3F000000]
     let s := rayState 1 o
     InProgress s 0 o ∧ (s.castSample ⟨0, false, s.grp.window 2, [], o⟩ 0x1000 [0x3F000000, 0x3F000000]).map (fun x => asksOf x.status) = some none) := by
  unfold InProgress; decide +kernel

/-- Another context holds all 256 stacks of the unit. -/
theorem wit_rays_full :
    (let o := rayWork false false forward
     let s := rayState 1 o
     let held := rayWork false true forward
     let s := s.setGroup 1 { s.grp with ctx := 1, ops := List.replicate 256 held }
     let s := s.setContext 1 (s.context 0)
     InProgress s 0 o ∧ s.firstQueued 0 0 77 5 = true ∧ 256 ≤ (s.contexts.map fun c => s.stacksHeld 0 c.1).sum) := by
  unfold InProgress; decide +kernel

theorem wit_rays_complete :
    (let o := rayWork false true forward
     o.bar = none ∧ o.results = [] ∧ o.writes = [] ∧ [1, 2, 3, 4, 5].length = 5 ∧ 251 + 5 ≤ 256 ∧ 5 < 32) := by decide

/-! ## Witnesses: queues -/

theorem get_absent {α : Type} {d : α} {m : Sparse α} {k : Nat} (h : ∀ p ∈ m, p.1 ≠ k) : Sparse.get d m k = d := by
  induction m with
  | nil => rfl
  | cons x n ih =>
    obtain ⟨j, v⟩ := x
    simp only [Sparse.get]
    rw [if_neg (h (j, v) List.mem_cons_self)]
    exact ih fun p hp => h p (List.mem_cons_of_mem _ hp)

/-- The words of a command of a queue. -/
def command (op evid : Nat) (ws : List Nat) : Nat :=
  op + evid * 2 ^ 48 + (ws.zipIdx.map fun (p : Nat × Nat) => p.1 * 2 ^ (64 + 64 * p.2)).sum

/-- Queue 2 of the context has a command at its head, and data stand in HBM. -/
def queued (cmd : Nat) (data : List (Nat × List Byte)) (f : Context → Context) (g : Queue → Queue) : State :=
  let s := mach id
  let s := { s with clock := 100, grids := [], nextGrid := 9 }
  let s := s.setDie 0 { s.die 0 with mem := (data ++ [(0x1000C0, bytesOf 64 cmd)]).foldl (fun (m : Memory) (p : Nat × List Byte) => Sparse.setRange 0 m p.1 p.2) (s.die 0).mem }
  let s := s.setContext 0 (f { s.context 0 with events := [(3, 5)], wsmap := [⟨0, 1000, 0x20000, true, true, 0xFF⟩] })
  s.setQueue 0 2 (g ⟨0x100000, 4, 7, false, 0, 5, 3, []⟩)

theorem wit_queue_commands :
    Served (queued (command 5 0 []) [] id id) 0 2 .nop ∧ Served (queued (command 3 0 [3, 5]) [] id id) 0 2 (.waitev 3 5) ∧
    Served (queued (command 3 0 [4095, 0]) [] id id) 0 2 (.waitev 4095 0) ∧
    Served (queued (command 3 0 [4096, 0]) [] id id) 0 2 (.waitev 4096 0) ∧
    Served (queued (command 4 0 [0x200000, 0x1234]) [] id id) 0 2 (.signal 0x200000 0x1234) ∧
    (queued (command 4 0 [0x200000, 0x1234]) [] id id).mapped 0 .write 0x200000 8 = true ∧
    Served (queued (command 4 0 [0x40000000, 0x1234]) [] id id) 0 2 (.signal 0x40000000 0x1234) ∧
    (queued (command 4 0 [0x40000000, 0x1234]) [] id id).mapped 0 .write 0x40000000 8 = false := by
  unfold Served; decide +kernel

theorem wit_queue_weights :
    (let s := queued (command 2 0 [0x300000, 0x10000, 0x10000, 0x6]) [] id id
     Served s 0 2 (.wsload 0x300000 0x10000 0x10000 0x6) ∧ s.mapped 0 .read 0x300000 0x10000 = true ∧
      (s.context 0).wsmap = [⟨0, 1000, 0x20000, true, true, 0xFF⟩]) ∧
    (let s := queued (command 2 0 [0x300000, 0x18000, 0x10001, 0x1]) [] id id
     Served s 0 2 (.wsload 0x300000 0x18000 0x10001 0x1) ∧ s.wsloadOk 0 0x300000 0x18000 0x10001 0x1 = false) := by
  unfold Served; decide +kernel

/-- Every byte of the load lies in the one entry of the map. -/
theorem wit_queue_weights_fit :
    (queued (command 2 0 [0x300000, 0x10000, 0x10000, 0x6]) [] id id).wsloadOk 0 0x300000 0x10000 0x10000 0x6 = true := by
  obtain ⟨⟨-, hm, hw⟩, -⟩ := wit_queue_weights
  have key : ∀ d, d < 8 → ∀ k, k < 0x20000 →
      (wsTarget [⟨0, 1000, 0x20000, true, true, 0xFF⟩] d k).isSome = true := by
    intro d hd k hk
    have hb : bitAt 255 d = true := by interval_cases d <;> decide
    have he : wsEntry [⟨0, 1000, 0x20000, true, true, 0xFF⟩] k = some ⟨0, 1000, 0x20000, true, true, 0xFF⟩ := by
      simp only [wsEntry, List.find?_cons]
      rw [decide_eq_true (by decide), decide_eq_true (Nat.zero_le k), decide_eq_true (by simpa using hk)]
      rfl
    simp [wsTarget, he, hb]
  simp only [State.wsloadOk, hm, hw, Bool.and_eq_true, List.all_eq_true, List.mem_range, Bool.or_eq_true]
  exact ⟨⟨by decide, trivial⟩, fun d hd => .inr fun i hi => key d hd _ (by omega)⟩

/-- A load of sixteen bytes into the weight store of die 0 is under way. -/
def loading : State :=
  let s := queued (command 5 0 []) [(0x300000, [1, 2, 3, 4])] id fun x => { x with running := [⟨2, none, none⟩] }
  s.setDie 0 { s.die 0 with wsloads := [⟨0, 2, 2, 0x300000, 8, 16⟩] }

theorem wit_queue_completions :
    (let s := queued (command 5 0 []) [] id fun x => { x with running := [⟨2, none, some []⟩] }
     (s.queue 0 2).running = [⟨2, none, some []⟩] ∧ s.everywhere [] = true) ∧
    (let s := loading
     (s.die 0).wsloads = [⟨0, 2, 2, 0x300000, 8, 16⟩] ∧ (∀ k, k < 8 → k ≠ 0 → (s.die k).wsloads = []) ∧
      (s.readMapped 0 0x300000 16).isSome = true ∧ (s.queue 0 2).running = [⟨2, none, none⟩] ∧
      wsTarget (s.context 0).wsmap 0 (8 + 15) = some 1023) := by decide +kernel

theorem wit_queue_pointers :
    (let s := queued (command 5 0 []) [] id id
     let x := s.queue 0 2
     s.bringUp = .ready ∧ (s.context 0).state ≠ .absent ∧ x.stopped = false ∧ x.rptr + 2 ^ x.rsize < 20 % 2 ^ 64 ∧
      4 ≤ x.rsize ∧ x.rsize ≤ 16 ∧ 3 % 2 ^ 64 = x.rptr) ∧
    (let s := queued (command 5 0 []) [] id fun x => { x with rsize := 2 }
     (s.queue 0 2).rptr < 5 % 2 ^ 64 ∧ (s.queue 0 2).rsize < 4) ∧
    (let s := queued (command 5 0 []) [] id fun x => { x with stopped := true }
     (s.queue 0 2).stopped = true ∧ 5 % 2 ^ 64 = (s.queue 0 2).wptr) := by decide +kernel

/-- A signal to the memory of chip 9, to which port 3 leads; and one whose acknowledgement is awaited. -/
def signalling (run : List Started) (l : List Asked) : State :=
  let s := queued (command 4 0 [0x40000000, 0x1234]) [(0x20008, bytesOf 8 (7 * 2 ^ 60 + 2 ^ 47 + 9 * 2 ^ 39 + 3))] id
    fun x => { x with running := run }
  let s := { s with routes := [(9, [3])] }
  s.setPort 3 { Port.down with state := .up, peer := 9, asked := l }

theorem wit_signal_to_peer :
    (let s := signalling [] []
     Served s 0 2 (.signal 0x40000000 0x1234) ∧ s.mapped 0 .write 0x40000000 8 = true ∧
      s.virtPieces 0 0 .write 2 0x40000000 8 = some [(2 ^ 47 + 9 * 2 ^ 39, 8)] ∧
      physKind (2 ^ 47 + 9 * 2 ^ 39) = .peer 9 ∧ s.peerUp 9 = true) ∧
    (let s := signalling [⟨1, none, some []⟩] [⟨16 * 0 + 2, 1, 0, 2 ^ 47 + 9 * 2 ^ 39, 8, .signal, 40⟩]
     (s.queue 0 2).running = [⟨1, none, some []⟩] ∧ s.everywhere [] = true ∧
      (∃ a ∈ (s.port 3).asked, a.kind = .signal ∧ a.gid = 16 * 0 + 2 ∧ a.id = 1)) ∧
    ((signalling [] []).setPort 16 Port.down).hostUp = false := by
  unfold Served; decide +kernel

/-- A launch descriptor: its image and counts, and what else it holds. -/
def launchWords (image groups gangs bands spans junk : Nat) : Nat :=
  image + groups * 2 ^ 160 + gangs * 2 ^ 168 + bands * 2 ^ 176 + spans * 2 ^ 184 + 2 ^ 512 * 11 + junk

def loaded : Image := ⟨0x400000, 1, 0x400040, 64, 5, ⟨64, 2, 16, true, [6, 6], 1000, 5⟩, [], []⟩

def launching (desc va : Nat) : State :=
  let s := queued (command 1 77 [va]) [(0x500000, bytesOf 128 desc)] (fun c => { c with images := [loaded], events := [(77, 5)] }) id
  let s := s.setPart 0 { s.part 0 with qmask := 0xFFFFFFFF }
  (List.range 32).foldl (fun s k => s.setQuarter k { s.quarter k with part := some 0 }) s

/-- What becomes of the launch: 0 no descriptor, 1 no image, 2 refused, 3 accepted. -/
def launchCase (desc va : Nat) : Nat :=
  let s := launching desc va
  match s.descAt 0 va with
  | none => 0
  | some d => match (s.loadImageAt 0 d.image).2 with
    | none => 1
    | some i => if d.refused (s.part 0) i.decl then 2 else 3

theorem wit_launches :
    Served (launching (launchWords 0x400000 4 3 2 1 0) 0x500000) 0 2 (.launch 77 0x500000) ∧
    launchCase (launchWords 0x400000 4 3 2 1 0) 0x40000000 = 0 ∧ launchCase (launchWords 0x600000 4 3 2 1 0) 0x500000 = 1 ∧
    launchCase (launchWords 0x400000 4 3 5 1 0) 0x500000 = 2 ∧ launchCase (launchWords 0x400000 4 3 2 1 0) 0x500000 = 3 := by
  unfold Served; decide +kernel

/-! ## Witnesses: gangs and groups -/

/-- The state after the event. -/
def after (i : Instr) (s : State) : State :=
  match exec i s with
  | .next t => t
  | _ => s

/-- The grid 9 of three gangs of four groups, and the core that its first gang goes to. -/
def gridded : State := after (.launch 0 2) (launching (launchWords 0x400000 4 3 2 1 0) 0x500000)

def firstCore : Nat := 16 * Sparse.get 32 (gridded.grid 9).quarters 0 + 3

theorem wit_gangs_start :
    (gridded.grid 9).dispatched = 0 ∧ 0 < (gridded.grid 9).spans * (gridded.grid 9).bands * (gridded.grid 9).gangs ∧ (gridded.grid 9).live = true ∧ gridded.savedOn (Sparse.get 32 (gridded.grid 9).quarters 0) = [] ∧ gridded.quarterOpen 0 (firstCore / 16) = true ∧
    (4 * (0 / (2 * 3)) + 0 / 3 % 2) = 0 ∧ firstCore / 16 = Sparse.get 32 (gridded.grid 9).quarters 0 ∧
    gridded.placesFit firstCore 4 (gridded.grid 9).decl [5, 9, 11, 60] = true := by decide +kernel

/-- One group is retiring; a second one of its gang is resident, or there is none. -/
def retiring (ops : List Op) (mate : Bool) : State :=
  let s := mid [(0, runs 0x40 0xFF)]
  let s := { s with clock := 999, grids := [(0, { Grid.none with live := true, spans := 1, bands := 1, gangs := 2 })] }
  let s := if mate then s.setGroup 1 s.grp else s
  s.setGrp { s.grp with life := .retiring, ops := ops }

theorem wit_groups_retire :
    (let s := retiring [workOp .cp .empty] false
     (s.group 0).life = .retiring ∧ Sparse.wf Group.free s.groups = true ∧ (s.group 0).ops ≠ []) ∧
    (let s := retiring [] true
     (s.group 0).life = .retiring ∧ Sparse.wf Group.free s.groups = true ∧ (s.group 0).ops = [] ∧
      (s.group 0).latch = none ∧ (s.group 1).life ≠ .free ∧ (s.group 1).gang = (s.group 0).gang) ∧
    (let s := retiring [] false
     (s.group 0).life = .retiring ∧ (s.gang (s.group 0).gang).grid = (s.group 0).grid ∧
      (s.gang (s.group 0).gang).ctx = (s.group 0).ctx ∧ (s.grid 0).retired + 1 < (s.grid 0).spans * (s.grid 0).bands * (s.grid 0).gangs ∧
      (∀ p ∈ s.groups, p.1 = 0)) := by decide +kernel

theorem wit_retires_alone : ∀ j, j ≠ 0 → ((retiring [] false).group j).life = .free := by
  intro j hj
  have h : ∀ p ∈ (retiring [] false).groups, p.1 = 0 := by decide +kernel
  unfold State.group
  rw [get_absent fun p hp => by rw [h p hp]; omega]
  rfl

/-- Another grid's gang is saved on the quarter of grid 9, and grid 9 has freed no core; or it has freed the first. -/
def heldBack (freed : Bool) : State :=
  let s := gridded
  let other : Gang := { Gang.none with life := .saved, ctx := 0, grid := 8, savedAt := 3 }
  let s := s.setGrid 8 { s.grid 9 with live := true }
  let s := s.setGang 8192 other
  if freed then s.setGang 9299 { other with grid := 9, core := firstCore } else s

theorem wit_saved_first :
    (heldBack false).savedOn (firstCore / 16) ≠ [] ∧ (heldBack false).stallFreed 9 firstCore = false ∧
    (heldBack true).savedOn (firstCore / 16) ≠ [] ∧ (heldBack true).stallFreed 9 firstCore = true := by decide +kernel

/-- Grid 0 has gangs to place and none that fits: its one group has waited for most of the window. -/
def stalling (waited : Nat) : State :=
  let s := mid [(0, { runs 0x40 0xFF with state := .waiting, wait := .sleep 5 9 0x50 })]
  let s := { s with clock := 140000, windowStart := 65536 }
  let s := { s with grids := [(0, { Grid.none with live := true, spans := 1, bands := 1, gangs := 2, groups := 1, dispatched := 2 })] }
  let s := s.setGang 4 { s.gang 0 with life := .saved, saved := List.replicate 65 Group.free }
  s.setGrp { s.grp with waitedCycles := waited, rewind := true, waitSince := 50,
                        record := some ⟨0, 0, .all, none, s.grp.snapshot⟩ }

theorem wit_stalls :
    (let s := stalling 40000
     s.windowStart + 65536 ≤ s.clock ∧ Sparse.wf Group.free s.groups = true ∧ s.stalled 0 = true ∧
      (s.grids.map Prod.fst).count 0 = 1 ∧ s.stallChoice 0 = some 0) ∧
    (let s := stalling 100; s.stalled 0 = false ∧ (∀ p ∈ s.grids, p.1 = 0)) ∧
    ({ stalling 100 with clock := 131071 } : State).clock < 65536 + 65536 := by decide +kernel

theorem wit_stalled_alone (j : Nat) : (stalling 40000).stalled j = true ↔ j = 0 := by
  refine ⟨fun h => ?_, fun h => by subst h; decide +kernel⟩
  by_contra hj
  have hk : ∀ p ∈ (stalling 40000).grids, p.1 = 0 := by decide +kernel
  have : (stalling 40000).grid j = Grid.none := get_absent fun p hp => by rw [hk p hp]; omega
  simp [State.stalled, this, Grid.none] at h

theorem wit_saves_and_restores :
    (let s := stalling 40000
     let s := s.setGang 0 { s.gang 0 with chosen := true }
     (s.gang 0).chosen = true ∧ (s.gang 0).life = .resident ∧ (∀ p ∈ s.gangGroups 0, p.2.ops = []) ∧
      Sparse.wf Group.free s.groups = true) ∧
    (let s := gridded
     let s := s.setGang 9216 { Gang.none with life := .saved, ctx := 0, grid := 9, decl := loaded.decl,
                                              saved := [{ Group.free with life := .resident, decl := loaded.decl }] }
     s.quarterOpen 0 (firstCore / 16) = true ∧ s.restoreOk 9216 firstCore [7] = true) := by decide +kernel

/-- The last gang of its grid retires; the core of a retiring group is frozen; one leaves a fault word, n records unread. -/
theorem wit_retires_last :
    (let s := retiring [] false
     let s := s.setGrid 0 { s.grid 0 with retired := 1 }
     (s.grid 0).spans * (s.grid 0).bands * (s.grid 0).gangs ≤ (s.grid 0).retired + 1 ∧ (s.group 0).life = .retiring) ∧
    (let s := { retiring [] false with frozen := [.core 0] }
     Master.core (0 / 64) ∈ s.frozen ∧ (s.group 0).life = .retiring) ∧
    ([254, 255].all fun n =>
      let s := retiring [] false
      let s := s.setGrp { s.grp with latch := some 0x1234500000, splits := [] }
      let s := s.setContext 0 { s.context 0 with errrec := 0x300000, records := n }
      let head := s.readVirt 0 (s.context 0).errrec 16
      let used := ((s.context 0).records % 2 ^ 32 + 2 ^ 32 - field head 32 32) % 2 ^ 32
      decide ((s.group 0).life = .retiring) && decide (Sparse.wf Group.free s.groups = true) && decide ((s.group 0).ops = []) &&
        decide ((s.group 0).latch = some 0x1234500000) && decide ((s.group 0).splits = []) && decide (used = n)) = true ∧
    (let s := { stalling 40000 with frozen := [.core 0] }; Master.core (s.gang 0).core ∈ s.frozen) := by
  refine ⟨?_, ?_, ?_, ?_⟩ <;> decide +kernel

/-! ## Witnesses: contexts and partitions -/

/-- Context 0 of virtual function 3 and partition 0, its slice begun at 1000 with a quantum of 4096, and context 4, idle
with a queue that is ready. -/
def switching (clock : Nat) (st : CtxState) (f : Group → Group) : State :=
  let s := queued (command 5 0 []) [] id id
  let s := { s with clock := clock }
  let s := s.setContext 0 { s.context 0 with state := st, sliceStart := 1000, quantum := 4096, vf := 3, queues := [] }
  let s := s.setContext 4 { s.context 0 with state := .idle, vf := 3, queues := [(2, ⟨0x100000, 4, 7, false, 0, 5, 3, []⟩)] }
  let s := s.setVf 3 { s.vf 3 with part := some 0 }
  let s := s.setPart 0 { s.part 0 with vf := some 3, resident := if st = .resident ∨ st = .switching then some 0 else none }
  s.setGrp (f s.grp)

/-- Function 3 has taken step 1 of the switch from context 0 to context 4, and its groups have reached their points. -/
def switchedOut : State :=
  let s := switching 5096 .switching fun g => { g with life := .flashed }
  s.setVf 3 { s.vf 3 with journal := ⟨4, 0, 2⟩ }

theorem wit_slices_end :
    (let s := switching 5096 .resident id
     (s.part 0).resident = some 0 ∧ (s.part 0).vf = some 3 ∧ (s.context 0).state = .resident ∧ s.sliceOver 0 = true ∧
      s.givesUp 0 = true ∧ MaySwitch s 3 0 ∧ (s.context 0).vf = 3 ∧ (s.context 0).part = 0 ∧
      (s.vf 3).journal.step = 0 ∧ (s.vf 3).suspendAsked = false) ∧
    (let s := switching 5095 .resident id; s.sliceOver 0 = false) := by
  unfold MaySwitch; decide +kernel

theorem wit_contexts_saved :
    (let s := switchedOut
     (s.context 0).state = .switching ∧ s.quiet 0 = true ∧ MaySwitch s (s.context 0).vf (s.context 0).part ∧
      (s.vf (s.context 0).vf).suspendAsked = false ∧ (s.vf (s.context 0).vf).journal.outctx = 0 ∧
      (s.vf (s.context 0).vf).journal.step = 2) ∧
    (let s := switching 5096 .switching id; (s.context 0).state = .switching ∧ s.quiet 0 = false) := by
  unfold MaySwitch; decide +kernel

theorem wit_drain_timers :
    (let s := switching 5096 .switching fun g => { g with drain := some 5096 }
     (s.group 0).drain = some 5096 ∧ Runs (s.group 0) ∧ 5096 ≤ s.clock ∧
      (s.vf (s.context (s.group 0).ctx).vf).suspended = false ∧ s.frozen.contains (.core (0 / 64)) = false) ∧
    (let s := switching 5095 .switching fun g => { g with drain := some 5096 }
     (s.group 0).drain = some 5096 ∧ Runs (s.group 0) ∧ s.clock < 5096) := by
  unfold Runs; decide +kernel

theorem wit_contexts_enter :
    (let s := switching 5096 .saved fun _ => Group.free
     (s.part 0).resident = none ∧ (s.part 0).vf = some 3 ∧ s.nextContext 0 = some 4 ∧ (s.context 4).state = .idle ∧
      MaySwitch s 3 0 ∧ (s.vf 3).suspendAsked = false ∧ (s.vf 3).journal.step = 0 ∧ s.sweepQuiet 0 = true) ∧
    (let s := switching 5095 .resident id
     (s.part 0).resident.isSome = true ∧ (s.part 0).vf = some 3 ∧ (s.vf 3).journal.step = 0) ∧
    (let s := switching 5095 .resident id; s.bringUp = .ready ∧ (s.context 0).state ≠ .absent) := by
  unfold MaySwitch; decide +kernel

/-- A context descriptor of context 0: VTOFF, the handler, the save areas and the limits. -/
def descriptorWords : Nat :=
  77 * 2 ^ 448 + 0x48D0 * 2 ^ 396 + 0x10000 * 2 ^ 332 + 0x55000 * 2 ^ 268 + 0x7000 * 2 ^ 204 + 5000 * 2 ^ 160 +
    1024 * 2 ^ 128 + 9 * 2 ^ 96

/-- The control plane, with no group: the state of context 0, the owner of quarter 3, and the journal of function 3. -/
def planned (st : CtxState) (leaving suspended : Bool) (step : Nat) : State :=
  let s := switching 5096 st id
  let s := { s with groups := [], gangs := [(1, { Gang.none with
    life := .saved, grid := 9, band := 1, saved := [{ Group.free with t := [(0, some (7, 1))] }] })], grids := [(9, { Grid.none with
    live := true, spans := 2, bands := 2, diemap := [0, 5], quarters := [(4, 20)], left := [(1, 1)] })] }
  let s := s.setContext 0 { s.context 0 with spill := [(1024 + 7, 2)] }
  let s := s.setVf 3 { s.vf 3 with suspended := suspended, journal := ⟨4, 0, step⟩ }
  let s := s.setQuarter 3 { s.quarter 3 with part := some 0, leaving := leaving }
  s.setQuarter 2 { s.quarter 2 with part := some 0 }

theorem wit_control_plane :
    (let s := planned .absent false false 0
     s.bringUp = .ready ∧ (s.vf 3).part = some 0 ∧ s.umberStands 0 = false ∧ (s.context 0).state = .absent ∧ 0 < 0xFFFF ∧ 31 < 32 ∧
      (s.quarter 31).part = none) ∧
    (let s := planned .idle false false 0
     (s.context 0).state = .idle ∧ s.groupsOf 0 = [] ∧ field descriptorWords 32 5 = (s.context 0).part ∧
      field descriptorWords 0 16 = 0 ∧ descriptorOk descriptorWords = true ∧ s.umberStands 0 = false ∧
      (s.part 0).resident = none ∧ (s.vf 3).part = some 0 ∧ MaySwitch s 3 0 ∧ (s.vf 3).journal.step = 0 ∧
      s.switchDue 0 = some (0, 0xFFFF) ∧ (s.quarter 3).leaving = false) ∧
    (let s := planned .idle true true 0
     (s.quarter 3).part = some 0 ∧ s.groupsOn 3 = [] ∧ (s.quarter 3).leaving = true ∧ (s.quarter 3).fuse = 0 ∧
      (s.quarter 3).owned = false ∧ (∀ p ∈ s.gangs, p.2.life = .resident → p.2.core / 16 ≠ 3) ∧
      (∀ p ∈ s.grids, ∀ b ∈ p.2.quarters, b.2 ≠ 3) ∧ (s.vf 3).suspended = true ∧
      Sparse.wf Context.absent s.contexts = true ∧ (s.context 0).state ≠ .absent ∧ (s.context 0).vf = 3) := by
  unfold MaySwitch; decide +kernel

theorem wit_guest_switch_steps :
    (let s := planned .switching false false 2
     (s.vf 3).part = some 0 ∧ MaySwitch s 3 0 ∧ (s.vf 3).journal.outctx = 0 ∧ (s.context 0).state = .switching ∧
      s.quiet 0 = true ∧ (s.vf 3).journal.step = 2) ∧
    (let s := planned .saved false false 5
     (s.vf 3).part = some 0 ∧ MaySwitch s 3 0 ∧ (s.vf 3).journal.step = 5 ∧ s.sweepQuiet 0 = true) ∧
    (let s := planned .saved false false 6; MaySwitch s 3 0 ∧ (s.vf 3).journal.step = 6) ∧
    (let s := planned .resident false false 1
     MaySwitch s 3 0 ∧ (s.vf 3).journal.step = 1 ∧ (s.part 0).resident.isSome = true) ∧
    (let s := planned .resident false false 0
     MaySwitch s 3 0 ∧ s.switchDue 0 = some (4, 0) ∧ (s.part 0).resident.isSome = true ∧ (s.vf 3).journal.step = 0) := by
  unfold MaySwitch; decide +kernel

theorem wit_control_grids :
    (let s := planned .resident false false 0
     let g := s.grid 9
     g.live = true ∧ 0 < g.spans ∧ 1 < g.bands ∧ Sparse.get 32 g.quarters (4 * 0 + 1) = 32 ∧ 2 / 4 = g.diemap.getD 0 8 ∧
      s.quarterOpen g.ctx 2 = true ∧ (∀ b ∈ g.quarters, ¬ (b.1 / 4 = 0 ∧ b.2 = 2)) ∧ g.savedBands = [] ∧
      (s.quarter 2).leaving = false ∧ (s.quarter 2).fuse = 0 ∧ (s.quarter 2).owned = false ∧
      Sparse.get 32 g.left (4 * 0 + 1) = 1 ∧ s.bandTiles 9 0 1 = [7] ∧
      Sparse.get 0 (s.context g.ctx).spill (1024 * 1 + 7) ≠ 0) ∧
    (let s := planned .resident false false 0
     31 < 32 ∧ (∀ k, k < 32 → k ≠ 31 → (s.vf k).part ≠ some 9) ∧ (s.vf 31).part = none ∧ (∀ p ∈ s.contexts, p.2.vf ≠ 31) ∧
      ((Sparse.set 0 (s.quarter 31).quota 0 256).map Prod.snd).sum ≤ 256) := by decide +kernel

/-- The save areas of both contexts are not mapped; the drain timer of a context that has faulted; a quarter with a frozen core. -/
theorem wit_switches_elsewhere :
    (let s := switching 5096 .resident id
     let s := s.setContext 0 { s.context 0 with savebase := 0x8000000000000 }
     let s := s.setContext 4 { s.context 4 with savebase := 0x8000000000000 }
     s.sliceOver 0 = true ∧ s.switchDue 0 = some (4, 0) ∧ s.leafAt 0 0 (0x8000000000000 + 4096) .write = none ∧
      s.leafAt 0 4 (0x8000000000000 + 4096) .write = none) ∧
    (let s := switching 5096 .faulted fun g => { g with drain := some 5096 }
     (s.group 0).drain = some 5096 ∧ Runs (s.group 0) ∧ (s.context (s.group 0).ctx).state = .faulted) ∧
    (let s := { planned .idle true false 0 with frozen := [.core 48] }
     (s.quarter 3).part = some 0 ∧ s.groupsOn 3 = [] ∧ (∃ k ∈ [48], k / 16 = 3 ∧ .core k ∈ s.frozen)) := by
  unfold Runs; refine ⟨?_, ?_, ?_⟩ <;> decide +kernel

/-- The host driver has asked for function 3 to be suspended while a switch is under way, to no context and then to context 4. -/
theorem wit_suspends_after_switch :
    ([(0xFFFF, CtxState.resident, 1), (0xFFFF, .saved, 4), (4, .saved, 4), (0xFFFF, .saved, 6)].all fun (i, st, n) =>
      let s := planned st false false n
      let s := s.setVf 3 { s.vf 3 with journal := ⟨i, 0, n⟩, suspendAsked := true }
      decide ((s.vf 3).part = some 0) && decide ((s.vf 3).suspended = false) && decide (s.schedulerStands 0 = false) &&
        decide ((s.vf 3).suspendAsked = true) && decide ((s.vf 3).journal.step = n)) = true := by decide +kernel

/-! ## Witnesses: mappings, shoot-downs and requests -/

theorem wit_context_tables :
    (let s := planned .idle false false 0
     let wide := 2 ^ 64 * 5 + 2 ^ 32 * 2 + 0x3FF
     s.bringUp = .ready ∧ (s.context 0).state ≠ .absent ∧ physKind (s.context 0).wsmapAddr = .hbm 0 ∧
      translationOk (0x340 * 2 ^ 448 + 0x50000 * 2 ^ 396 + 0x60000 * 2 ^ 332 + 0x40000 * 2 ^ 268 + 0x1100 * 2 ^ 208 + 0x30000 * 2 ^ 144) = true ∧
      translationOk 1 = false ∧
      s.mapOk 0 ((List.range 16).map fun i => [wide].getD i 0 % 2 ^ 128) = true ∧
      s.mapOk 0 ((List.range 16).map fun i => [wide, wide].getD i 0 % 2 ^ 128) = false ∧
      1023 < 1024 ∧ 2 ≤ [(1, 0), (2, 0)].length ∧ 1 < [(1, 0), (2, 0)].length ∧ s.groupsOf 0 = []) ∧
    (let s := working (workOp .cl .empty)
     ∃ p ∈ s.groupsOf 0, ∃ o ∈ p.2.ops, o.cls = .cl ∧ o.done = false) := by
  decide +kernel

theorem wit_maps_numbered : Numbered (planned .idle false false 0) := numbered_of (by decide +kernel)

/-- A shoot-down that core 387 and chip 3 have still to acknowledge, begun at 24, when die 0 had applied four of its own writes, and
a group of the core whose load went through a page. -/
def shooting (clock : Nat) (page : Nat) : State :=
  let s := mid [(0, runs 0x40 0xFF)]
  let s := s.setGroup (64 * 387 + 5) { s.grp with ops := [{ workOp .gs (.lanes .load 2 .n32 .add .plain false []) with pages := [page] }] }
  let s := s.setDie 6 { s.die 6 with vc := [(0, 4)] }
  { s with clock := clock, shoots := [⟨9, 0, 0x20000, 0x10000, [], [387, 5], [3], [], 24, [(0, 4)], none, false⟩] }

theorem wit_shoot_downs :
    (let s := shooting 1048600 2
     s.bringUp = .ready ∧ 387 ∈ [387, 5] ∧ Sparse.wf Group.free s.groups = true ∧ (64 * 387 + 5) / 64 = 387 ∧
      (s.group (64 * 387 + 5)).ctx = 0 ∧ (s.group (64 * 387 + 5)).life ≠ .free ∧
      (∃ o ∈ (s.group (64 * 387 + 5)).ops, o.usesRange 0x20000 0x10000 = true) ∧ s.ready (387 / 64) [(0, 4)] = true ∧
      s.ready (387 / 64) [(0, 5)] = false ∧ 24 + 1048576 ≤ s.clock ∧ 3 ∈ [3]) ∧
    (shooting 1048599 0).clock < 24 + 1048576 ∧
    (∀ p ∈ (shooting 0 1).groups, p.1 / 64 = 387 → ∀ o ∈ p.2.ops, o.usesRange 0x20000 0x10000 = false) := by
  decide +kernel

/-- No group of the core outside the table has an operation. -/
theorem wit_shoot_down_clear : ∀ k o, k / 64 = 387 → o ∈ ((shooting 0 1).group k).ops → o.usesRange 0x20000 0x10000 = false := by
  intro k o hk ho
  obtain ⟨-, -, h⟩ := wit_shoot_downs
  by_cases hc : ∀ p ∈ (shooting 0 1).groups, p.1 ≠ k
  · have : (shooting 0 1).group k = Group.free := get_absent hc
    simp [this, Group.free] at ho
  · obtain ⟨p, hp, he⟩ : ∃ p ∈ (shooting 0 1).groups, p.1 = k := by simpa using hc
    have hl : ∀ p ∈ (shooting 0 1).groups, (shooting 0 1).group p.1 = p.2 := by decide +kernel
    rw [← he, hl p hp] at ho
    exact h p hp (he ▸ hk) o ho

/-- A request flit that comes over port 3, up, from chip 9. -/
theorem wit_shoot_down_flits :
    (let s := { mid [] with ports := [(3, { Port.down with state := .up, width := 32, peer := 9, seqIn := 77 })] }
     let f : Flit := { dst := 0, src := 9, kind := 6, len := 24, seq := 77, payload := List.replicate 32 1 }
     (s.port 3).usable = true ∧ f.len = 24 ∧ f.src = (s.port 3).peer ∧ f.seq = (s.port 3).seqIn ∧ f.dst = s.chip) := by
  decide +kernel

/-- Chip 9 is named and a port leads to it; chip 4 is named and none does. -/
theorem wit_shoot_down_chips :
    (let s := { mid [] with ports := [(3, { Port.down with state := .up, width := 32, peer := 9, seqIn := 77 })], routes := [(9, [3])] }
     s.bringUp = .ready ∧ s.peerUp 9 = true ∧ s.peerUp 4 = false ∧ 9 < 128 ∧ 9 ≠ s.chip) := by decide +kernel

/-- A handler of entry 2 that holds, over the trap of the stub 0x50000, which is so far published. -/
def asking (h : Hold) (life : GroupLife) (cause : Nat) (st : StubState) : State :=
  let s := mid [(0, { runs 0x40 0xF0 with state := .held }), (2, { handler 0xF with hold := h })]
    [region 5 0xF, ⟨0xFE00, 4, .trap, false, 0xF, 0x14, 0⟩, ⟨cause, 4, .trap, false, 0xF, 0x50000, 0⟩, region 5 0xFF]
  let s := s.setContext 0 { s.context 0 with stubs := [⟨0x50000, st, [], 0, [], 0, 0, []⟩] }
  s.setGrp { s.grp with life := life, escalated := true }

theorem wit_requests :
    (let s := asking .escalation .resident 0x24 .stub
     s.bringUp = .ready ∧ (∃ e, e < 4 ∧ ((s.group 0).split e).v = true ∧ ((s.group 0).split e).hold = .escalation)) ∧
    (let s := asking .none .flashed 0x24 .stub
     (∀ e, e < 4 → ((s.group 0).split e).hold ≠ .escalation) ∧ (s.group 0).life = .flashed ∧ (s.group 0).escalated = true) ∧
    ([StubState.stub, .translating, .written, .opened].all fun st =>
      let s := asking .translation .resident 0x24 st
      decide ((s.context 0).stubs.find? (fun y => decide (y.pc = 0x50000)) = some ⟨0x50000, st, [], 0, [], 0, 0, []⟩) &&
        decide ((Master.core 0) ∉ s.frozen) &&
        decide (s.umberStands 0 = false) && decide (s.everywhere [] = true) && decide ((s.group 0).ctx = 0) &&
        decide ((s.group 0).life ≠ .free) && decide ((s.group 0).waitsFor 0x50000 = true) &&
        decide (Sparse.wf Group.free s.groups = true)) = true ∧
    (asking .translation .resident 0x24 .opened).everywhere [(3, 1)] = false ∧
    (let s := asking .translation .resident 0x25 .stub
     ((s.group 0).beneath.map StackEntry.cause) = some 0x25 ∧
      (∃ e, e < 4 ∧ ((s.group 0).split e).v = true ∧ ((s.group 0).split e).hold = .translation)) := by decide +kernel

/-- What RequestEnded speaks of, at the request of entry 2. -/
theorem wit_request_ended :
    (let s := asking .translation .resident 0x24 .opened
     (2 : Nat) < 4 ∧ (s.grp.split 2).v = true ∧ (s.grp.split 2).hold = .translation ∧
      (∀ k, k < 2 → (s.grp.split k).hold ≠ .translation) ∧
      s.grp.stack = [region 5 0xF] ++ ⟨0xFE00, 4, .trap, false, 0xF, 0x14, 0⟩ ::
        [⟨0x24, 4, .trap, false, 0xF, 0x50000, 0⟩, region 5 0xFF] ∧
      (∀ x ∈ [region 5 0xF], x.kind ≠ .trap)) := by decide +kernel

/-- The words of an instruction. -/
def wordsFor (i : Instr) : List Nat := wordsOf (encode i)

/-- A tile-form image of one function, in pages that may be read and executed, and its translation. -/
def heaped : State :=
  let s := asking .translation .resident 0x24 .stub
  let code := List.replicate 16 0 ++ List.replicate 16 0 ++ encode (.smovImm 3 (.small 9) none) ++ encode (.exit none)
  let header := bytesOf 64 (2 + 2 ^ 48 + 2 ^ 128 + code.length * 2 ^ 352 + 4096 * 2 ^ 384 + 2 ^ 416)
  let table := bytesOf 16 (16 + (code.length - 16) * 2 ^ 32 + 2 ^ 64)
  let s := s.setDie 0 ((s.die 0).place [(0x20008, bytesOf 8 (5 * 2 ^ 60 + 3)), (0x400000, header), (0x400040, code), (0x401000, table)])
  s.setContext 0 { s.context 0 with
    stubs := [⟨0x40400050, .translating, [], 0, [], 0, 0, []⟩],
    images := [⟨0x40400000, 2, 0x40400050, code.length, 0, fetchDecl, [], [(0x40400050, 1)]⟩] }

theorem wit_translates :
    heaped.translates 0 0x40400050 ⟨0x40500000, wordsFor (.smovImm 3 (.small 9) none) ++ wordsFor (.exit none),
      wordsFor (.br (.small ((0x40500000 - 0x40400050) / 4)) none), [⟨0x40500004, [(1, 3)], none⟩], 0x40600000, [], []⟩ = true ∧
    heaped.translates 0 0x40400050 ⟨0x40500000, wordsFor (.exit none), wordsFor (.br (.small 3) none), [], 0x40600000, [], []⟩ = false := by
  decide +kernel

/-! ## Witnesses: links and the host -/

/-- Port 3 leads to chip 9; this is chip 5. -/
def linked (st : PortState) (asked : List Asked) (clock : Nat) : State :=
  let s := mid [(0, runs 0x40 0xFF)]
  let s := { s with clock := clock, chip := 5, routes := [(9, [2, 3])], frozen := [.core 7] }
  s.setPort 3 ⟨st, 8, 0, 9, 0xFFFFFFFF, 7, [], [], asked, [5, 6], [], false⟩

def flit (kind : Nat) (payload : List Byte) (seq : Nat) : Flit :=
  { dst := 5, src := 9, kind := kind, len := payload.length, seq := seq, payload := payload }

def wanted (kind : AskKind) : Asked := { gid := 0, id := 7, seq := 77, pa := 0x500000, len := 4, kind := kind, since := 24 }

theorem wit_ports :
    (linked .down [] 0).port 3 = ⟨.down, 8, 0, 9, 0xFFFFFFFF, 7, [], [], [], [5, 6], [], false⟩ ∧
    ((linked .training [] 0).port 3).state = .training ∧ ((linked .fenced [] 0).port 3).state = .fenced ∧
    (let s := linked .up [wanted .write] 1048600
     (s.port 3).usable = true ∧ (∃ a ∈ (s.port 3).asked, a.since + 1048576 ≤ s.clock) ∧
      (∀ j, j < 16 → j ≠ 3 → (s.port j).usable = true → (s.port j).peer ≠ (s.port 3).peer)) ∧
    (let s := linked .up [wanted .write] 1048599; (∀ a ∈ (s.port 3).asked, s.clock < a.since + 1048576)) ∧
    (let s := linked .training [wanted .read] 0; (∀ a ∈ (s.port 3).asked, a.kind ≠ .coll)) ∧
    (let p := (linked .up [] 0).port 3; p.replays < 2 ^ 16 ∧ p.width < 64 ∧ p.peer < 256) := by decide +kernel

/-- An operation of the group for which the port still waits, as LinkLost speaks of it. -/
def asked : State :=
  let s := linked .up [wanted .write] 1048600
  s.setGrp { s.grp with ops := [{ workOp .gs (.lanes .store 2 .n32 .add .plain false []) with id := 7 }] }

theorem wit_link_lost : ((asked.group 0).op? 7).isSome = true ∧ wanted .write ∈ (asked.port 3).asked := by decide +kernel

theorem wit_flits :
    (let s := linked .up [wanted .read] 0
     Taken s 3 1 (flit 1 (bytesOf 8 0x500000 ++ bytesOf 8 300) 7) ∧
      physKind (payloadAt (flit 1 (bytesOf 8 0x500000 ++ bytesOf 8 300) 7) 0 8 % 2 ^ 39) = .hbm 0 ∧ Clean s 0 0x500000 128 ∧
      Taken s 3 3 (flit 3 (bytesOf 8 0x500003 ++ [1, 2, 3]) 7) ∧ Taken s 3 2 (flit 2 (bytesOf 4 77 ++ bytesOf 4 0 ++ [1, 2, 3, 4]) 7) ∧
      payloadAt (flit 2 (bytesOf 4 77 ++ bytesOf 4 0 ++ [1, 2, 3, 4]) 7) 0 4 = 77 ∧ (s.port 3).asked = [wanted .read]) ∧
    (let s := linked .up [wanted .write] 0
     Taken s 3 4 (flit 4 (bytesOf 4 77 ++ bytesOf 4 0) 7) ∧ (s.port 3).asked = [wanted .write] ∧
      Taken s 3 5 (flit 5 (bytesOf 2 0 ++ bytesOf 2 3 ++ bytesOf 4 8 ++ bytesOf 2 1 ++ bytesOf 2 0 ++ bytesOf 12 0) 7) ∧
      payloadAt (flit 5 (bytesOf 2 0 ++ bytesOf 2 3 ++ bytesOf 4 8 ++ bytesOf 2 1 ++ bytesOf 2 0 ++ bytesOf 12 0) 7) 10 2 = 0 ∧
      s.collOver 0 3 8 = false ∧ Taken s 3 0 (flit 0 [] 7) ∧ Taken s 3 7 (flit 7 (bytesOf 4 77) 7) ∧
      ((s.port 3).replayTimes.filter fun x => decide (s.clock < x + 1100)).length + 1 ≤ 16 ∧
      (flit 1 [] 8).seq ≠ (s.port 3).seqIn ∧ (flit 1 [] 7).src ≠ (s.port 4).peer) := by
  unfold Taken Clean; decide +kernel

/-- A collective that has been folded and forgotten; the seventeenth replay within 1,100 cycles; and an update's acknowledgement. -/
theorem wit_flits_late :
    (let s := linked .up [wanted .coll] 0
     let s := s.setContext 0 { s.context 0 with collCount := [(3, 9)] }
     s.collOver 0 3 8 = true ∧ (s.port 3).asked = [wanted .coll]) ∧
    (let s := linked .up [] 0
     let s := s.setPort 3 { s.port 3 with replayTimes := List.replicate 16 0 }
     16 < ((s.port 3).replayTimes.filter fun x => decide (s.clock < x + 1100)).length + 1) := by decide +kernel

/-- The host's answer to a read and to a write of its memory. -/
theorem wit_host_answers :
    ([AskKind.read, .write].all fun kind =>
      let s := mid []
      let s := s.setPort 16 { s.port 16 with asked := [wanted kind], seqIn := 7 }
      decide ((s.port 16).usable = true) && decide (wanted kind ∈ (s.port 16).asked) && decide (7 = (s.port 16).seqIn) &&
        decide ((s.port 16).asked.all fun b => b.seq != 77 || b == wanted kind)) = true := by decide +kernel

theorem wit_flits_numbered : Numbered (linked .up [] 0) := numbered_of (by decide +kernel)

theorem wit_host :
    (let s := linked .up [] 0
     s.bringUp = .ready ∧ physKind (3 * 2 ^ 46) = .host ∧ 3 * 2 ^ 46 < 2 ^ 49 ∧ physKind 0 = .hbm 0 ∧ s.hostUp = true ∧
      Master.core 7 ∈ s.frozen ∧ (∀ c ∈ s.usersOf (.core 7), (s.context c).state ≠ .faulted) ∧ Master.core 8 ∉ s.frozen) ∧
    (let s := linked .up [] 0; (s.setPort 16 Port.down).hostUp = false ∧ (s.port 3).usable = true) ∧
    (linked .fenced [] 0).bringUp = .ready ∧ ((linked .down [] 0).port 3).usable = false ∧
    (let s := { linked .fenced [] 0 with frozen := [.port 3, .core 7] }
     Master.port 3 ∈ s.frozen ∧ (s.port 3).asked = []) := by decide +kernel

/-- A part of a collective that waits for port 3 to train; an update of the word at 0x500000, whole and as the first of two elements
of a tile; the notice that a rank is lost; and the acknowledgement of a signal. -/
theorem wit_flits_of_units :
    (let s := { linked .training [] 0 with collWaits := [⟨0, 7, 9, some 3, [1, 2]⟩] }
     (s.port 3).state = .training ∧ (∃ w ∈ s.collWaits, w.port = some 3 ∧ w.chip = 9 % 128)) ∧
    (let s := linked .up [] 0
     let f := flit 1 (bytesOf 8 0x500000 ++ bytesOf 8 4 ++ [BitVec.ofNat 8 (Comb.code .add), BitVec.ofNat 8 Ty.n32.code] ++ bytesOf 8 5) 7
     Taken s 3 1 f ∧ f.len = 26 ∧ Clean s 0 0x500000 4 ∧ payloadAt f 16 1 = Comb.code .add ∧ payloadAt f 17 1 = Ty.n32.code ∧
      Ty.n32.isAtomic = true ∧ payloadAt f 18 8 < 2 ^ (8 * 4) ∧ s.homeReady 0 0 [] 0x500000 4 = true) ∧
    (let s := linked .up [] 0
     let f := flit 1 (bytesOf 8 0x500000 ++ bytesOf 8 4 ++ [255, BitVec.ofNat 8 Ty.f32.code] ++ bytesOf 8 5 ++ bytesOf 4 2) 7
     Taken s 3 1 f ∧ 30 ≤ f.len ∧ payloadAt f 16 1 = 255 ∧ payloadAt f 17 1 = Ty.f32.code ∧
      (s.port 3).tile.length + 1 < payloadAt f 26 4) ∧
    (let s := linked .up [] 0
     let f := flit 5 (bytesOf 2 0 ++ bytesOf 2 3 ++ bytesOf 4 8 ++ bytesOf 2 1 ++ bytesOf 2 4 ++ bytesOf 12 0) 7
     Taken s 3 5 f ∧ payloadAt f 10 2 = 4 ∧ s.collOver (payloadAt f 0 2) (payloadAt f 2 2) (payloadAt f 4 4) = false) ∧
    (let s := linked .up [wanted .signal] 0
     let f := flit 4 (bytesOf 4 77 ++ bytesOf 4 0) 7
     Taken s 3 4 f ∧ wanted .signal ∈ (s.port 3).asked ∧ payloadAt f 0 4 = 77) := by
  unfold Taken Clean
  refine ⟨?_, ?_, ?_, ?_, ?_⟩ <;> decide +kernel

/-! ## Witnesses: display heads, custody and sensors -/

/-- A head descriptor of 48 lines of 10 cycles, three bands, of context 0, enabled or not. -/
def headWords (en : Nat) : Nat :=
  en * 2 ^ 16 + 0x600000 * 2 ^ 80 + 2 ^ 166 + 48 * 2 ^ 168 + 48 * 2 ^ 182 + 60 * 2 ^ 195 + 10 * 2 ^ 208 + 2 ^ 224 +
    0x610000 * 2 ^ 304 + 0x620000 * 2 ^ 356 + 0x630000 * 2 ^ 408 + 0x640000 * 2 ^ 460

def refresh (start : Nat) (cands : List Cand) (codes : List (Nat × Nat)) : Refresh :=
  ⟨headWords 1, start, none, some 0, 4, true, false, [], false, cands, codes⟩

/-- Head 1 belongs to partition 0. -/
def shown (f : Head → Head) : State :=
  let s := mid [(0, runs 0x40 0xFF)]
  let s := { s with clock := 1000 }
  s.setHead 1 (f { Head.idle with part := some 0 })

theorem wit_head_frames :
    (let s := shown id
     s.bringUp = .ready ∧ s.umberStands (1 / 4) = false ∧ headFieldsBad (1 / 4) (headWords 1 % 2 ^ 512) = false ∧
      s.sinkTaken 1 (headSink (headWords 1 % 2 ^ 512)) = false ∧
      s.netOk (1 / 4) (headCtx (headWords 1 % 2 ^ 512)) (headSynNet (headWords 1 % 2 ^ 512)) = true ∧
      s.netOk (1 / 4) (headCtx (headWords 1 % 2 ^ 512)) (headUpNet (headWords 1 % 2 ^ 512)) = true ∧
      s.servedBy (some 0) (headCtx (headWords 1 % 2 ^ 512)) = true ∧ headFieldsBad (1 / 4) 0 = true ∧
      (s.head 1).latchAt ≤ s.clock ∧ (s.head 1).rebind = none ∧ (s.head 1).staged = none ∧ (s.head 1).desc = none ∧
      headEnable (headWords 1) = true ∧ headEnable (headWords 0) = false) ∧
    (let s := shown fun h => { h with staged := some (headWords 1) }
     (s.head 1).staged = some (headWords 1) ∧ s.servedBy (s.head 1).part (headCtx (headWords 1)) = true ∧
      (s.head 1).running = false) ∧
    (let s := shown fun h => { h with desc := some (headWords 1), running := true, latchAt := 1001 }
     s.clock < (s.head 1).latchAt ∧ (s.head 1).running = true) := by decide +kernel

theorem wit_head_rebound :
    (let s := shown fun h => { h with rebind := some (some 3) }
     (s.head 1).latchAt ≤ s.clock ∧ (s.head 1).staged = none ∧ (s.head 1).rebind = some (some 3) ∧ (s.head 1).running = false ∧
      (s.head 1).desc = none) ∧
    (let s := shown fun h => { h with rebind := some none, desc := some (headWords 0) }
     (s.head 1).rebind = some none ∧ (s.head 1).desc = some (headWords 0) ∧ headEnable (headWords 0) = false) ∧
    (let s := shown fun h => { h with staged := some (headWords 1 + 4) }
     (s.head 1).staged = some (headWords 1 + 4) ∧ s.servedBy (s.head 1).part (field (headWords 1 + 4) 0 16) = false ∧
      (s.head 1).desc = none) ∧
    (shown fun h => { h with staged := some (headWords 1 + 4) }).umberStands 0 = false := by decide +kernel

/-- The head runs; its present word is 0, or names frame 5 of slot 2; its pose slot holds a pose that is good, or not. -/
def latching (word pose0 pose7 : Nat) : State :=
  let s := shown fun h => { h with desc := some (headWords 1), running := true }
  s.setDie 0 ((s.die 0).place [(0x630000, bytesOf 8 word), (0x610000, bytesOf 32 (pose0 + pose7 * 2 ^ 224))])

theorem wit_head_latches :
    (let s := latching (5 * 2 ^ 32 + 2) 6 6
     (s.head 1).latchAt ≤ s.clock ∧ (s.head 1).rebind = none ∧ (s.head 1).staged = none ∧ (s.head 1).desc = some (headWords 1) ∧
      (s.head 1).running = true ∧ field (headWords 1) 408 52 = 0x630000 ∧ field (headWords 1) 304 52 = 0x610000 ∧
      s.headReady 1 0 [] 0x630000 8 = true ∧ s.headGot 1 0 [] 0x630000 8 = some (5 * 2 ^ 32 + 2, []) ∧
      s.headReady 1 0 [] 0x610000 32 = true ∧ s.headReady 1 0 [] (0x640000 + 128) 64 = true ∧
      s.headRead 1 0 [] 0x610000 32 = some (6 + 6 * 2 ^ 224) ∧ s.headRead 1 0 [] (0x640000 + 128) 64 = some 0) ∧
    (let s := latching 0 6 7
     s.headGot 1 0 [] 0x630000 8 = some (0, []) ∧ s.headRead 1 0 [] 0x610000 32 = some (6 + 7 * 2 ^ 224)) ∧
    (let s := latching 0 6 7
     let s := s.setHead 1 { s.head 1 with carry := [(3, 9)] }
     s.headReady 1 (headCtx (headWords 1)) (s.head 1).carry (field (headWords 1) 408 52) 8 = false) := by decide +kernel

/-- The same descriptor for a picture three elements wide, of which a band reads few. -/
def thinWords : Nat := headWords 1 - 45 * 2 ^ 168

def thin (start : Nat) (cands : List Cand) : Refresh := { refresh start cands [(0, 3)] with desc := thinWords }

def bands (start : Nat) (cands : List Cand) (dead : Bool) : State := shown fun h =>
  { h with desc := some thinWords, running := true, dead := dead, frames := [thin start cands] }

theorem wit_head_bands :
    (let s := bands 904 [⟨1, 2, [7]⟩] false
     let r := thin 904 [⟨1, 2, [7]⟩]
     let x := s.head 1
     x.openFrame 1 = some (0, r) ∧ s.candOk 1 1 0 r = true ∧ r.madeBy 0 = some false ∧ x.dead = false ∧
      (∀ c ∈ r.cands, ¬ (c.band = 1 ∧ c.code = 0)) ∧ s.sourceGood 1 x.carry 1 0 r = true ∧
      904 + 16 * 1 * field thinWords 208 16 - 64 * field thinWords 224 16 = s.clock ∧
      (∃ c ∈ r.cands, c.band = 1 ∧ c.code = 2) ∧ s.candOk 1 1 2 r = false ∧
      (∀ p ∈ r.cands, p.band = 1 → 2 ≤ p.code ∧ (p.code = 2 → p.pixels = [7]))) ∧
    (let s := bands 905 [] true
     (s.head 1).openFrame 1 = some (0, thin 905 []) ∧ (s.head 1).dead = true ∧
      s.clock < 905 + 16 * 1 * field thinWords 208 16 - 64 * field thinWords 224 16) ∧
    (let s := bands 904 [] true
     (s.head 1).openFrame 1 = some (0, thin 904 []) ∧
      904 + 16 * 1 * field thinWords 208 16 - 64 * field thinWords 224 16 ≤ s.clock ∧
      (∀ p ∈ ([] : List Cand), ¬ (p.band = 1 ∧ p.code = 3))) ∧
    (903 + 16 * 1 * field thinWords 208 16 - 64 * field thinWords 224 16 < (bands 903 [] false).clock) := by
  refine ⟨⟨?_, ?_, ?_, ?_, ?_, ?_, ?_, ?_, ?_, ?_⟩, ?_, ?_, ?_⟩ <;> decide +kernel

/-- A frame whose bands all have codes, and a tile row of it. -/
def ending (display : Stamp) : State :=
  let s := shown fun h => { h with desc := some (headWords 1), frames := [refresh 520 [] [(0, 3), (1, 3), (2, 3)]],
                                   rows := [⟨5, headWords 1, [1, 2]⟩] }
  s.setDie 0 { s.die 0 with display := display }

theorem wit_head_outputs :
    (let s := ending []
     let x := s.head 1
     x.frames = [refresh 520 [] [(0, 3), (1, 3), (2, 3)]] ∧
      520 + field (headWords 1) 182 13 * field (headWords 1) 208 16 ≤ s.clock ∧ headBands (headWords 1) ≤ 3 ∧
      s.released 1 = true ∧ (∀ z ∈ x.rows, z.row = 5 → z = ⟨5, headWords 1, [1, 2]⟩) ∧
      x.rows = [⟨5, headWords 1, [1, 2]⟩] ∧ (∀ z ∈ x.rows, z.row ≠ 6)) ∧
    ([(0, 3), (1, 3), (2, 3)].map Prod.fst).Nodup ∧ (∀ c ∈ [(0, 3), (1, 3), (2, 3)], c.1 < 448 ∧ c.2 < 4) ∧
    (ending [(0, 1)]).released 1 = false ∧
    (shown id).clock < 521 + field (headWords 1) 182 13 * field (headWords 1) 208 16 ∧ ((shown id).head 1).frames = [] := by
  decide +kernel

theorem wit_custody : Sparse.wf Die.reset State.reset.dies = true ∧
    ({ State.reset with bringUp := .recovery } : State).bringUp = .recovery ∧
    (let s := { State.reset with bringUp := .monitor, ports := (List.range 16).map fun k => (k, { Port.down with trained := true }) }
     s.bringUp = .monitor ∧ (∀ k, k < 16 → (s.port k).trained = true ∧ (s.port k).state ≠ .training) ∧ (State.reset.port 3).trained = false) ∧ (mach id).bringUp = .ready ∧
    (⟨[], [], 64, []⟩ : FwImage).svn > 63 ∧ 31 < 32 := by decide +kernel

theorem wit_sensors : (7 < 8 ∧ 95 < 96 ∧ 96 < 115) ∧ (89 < 90 ∧ 90 ≤ 95) ∧ (115 ≤ 115 ∧ 114 < 115) := by decide

/-! ## Single steps: results that the manual gives -/

/-- What holds of the next state. -/
def nextHas (o : Out) (p : State → Bool) : Bool :=
  match o with
  | .next t => p t
  | _ => false

/-- Lane 0 alone; v1 holds x and v3 holds y. -/
def lane0 (x y : Nat) : State :=
  let s := mid [(0, runs 0x40 1)]
  s.setGrp { s.grp with v := [(32, BitVec.ofNat 32 x), (96, BitVec.ofNat 32 y)].filter fun p => p.2 ≠ 0 }

/-- The table of conversions of 08_arithmetic_instructions.md (R183). -/
theorem test_conversions : [
    (Instr.vcvt 2 1 .f16 .f32 .rne 0, 0x477FF000, 0x7C00), (.vcvt 2 1 .f16 .f32 .rtz 0, 0x477FF000, 0x7BFF),
    (.vcvt 2 1 .e4m3 .f32 .rne 0, 0x43FA0000, 0x7E), (.vcvt 2 1 .i8 .f32 .rne 0, 0x4348B333, 0x7F),
    (.vcvt 2 1 .i8 .f32 .rne 0, 0xC3960000, 0xFFFFFF80), (.vcvt 2 1 .n16 .f32 .rne 0, 0xBFC00000, 0),
    (.vcvt 2 1 .i32 .f32 .rne 0, 0x7FC00000, 0), (.vcvt 2 1 .i32 .f32 .rne 0, 0x7F800000, 0x7FFFFFFF),
    (.vcvtsr 2 1 (.imm 7) 4 .bf16 0, 0x3F809C00, 0x3F81), (.vcvtsr 2 1 (.imm 6) 4 .bf16 0, 0x3F809C00, 0x3F80),
    (.vunpk 2 1 1 .n32 .i16 0, 0xFFFB0000, 0)].all (fun (i, x, r) =>
      nextHas (exec i (lane0 x 0)) fun t => t.grp.readV 2 0 == BitVec.ofNat 32 r && t.pc == 0x4C) = true := by
  decide +kernel

/-- Lanes 0 to 3 of v10 hold 2^24, 1, 1 and 1 (R185). -/
def fourLanes : State :=
  let s := mid [(0, runs 0x40 0xF)]
  s.setGrp { s.grp with v := [(320, 0x4B800000), (321, 0x3F800000), (322, 0x3F800000), (323, 0x3F800000), (356, 7)] }

theorem test_vgred : nextHas (exec (.vgred 11 10 .add .f32 0) fourLanes) (fun t =>
    (List.range 4).all (fun l => t.grp.readV 11 l == 0x4B800001) && t.grp.readV 11 4 == 7) = true := by decide +kernel

theorem test_vscan : nextHas (exec (.vscan 11 10 .add .f32 0) fourLanes) (fun t =>
    (List.range 4).all (fun l => t.grp.readV 11 l == 0x4B800000) && t.grp.readV 11 4 == 7) = true := by decide +kernel

/-- The square root of +0 with a tangent of 1, of -2 and of +0 (05_duals.md, after R85). -/
theorem test_vsqrt_tangent : [(0x3F800000, 0x7F800000), (0xC0000000, 0xFF800000), (0, 0)].all (fun (x, r) =>
    let s := lane0 0 0
    nextHas (exec (.vsqrt 2 1 .f32 .rne 0) (s.setGrp (s.grp.writeT 1 0 0 (BitVec.ofNat 32 x)))) fun t =>
      t.grp.readV 2 0 == 0 && t.grp.readT 2 0 0 == BitVec.ofNat 32 r) = true := by decide +kernel

/-- At CLOCK 110,130: INREF 1, BANK 2 and COUNT 90 (R201). -/
theorem test_wsphase : nextHas (exec (.srd false 5 .wsphase none) { lane0 0 0 with clock := 110130 }) (fun t =>
    t.grp.readS 5 == BitVec.ofNat 64 (2 ^ 20 + 2 * 2 ^ 16 + 90)) = true := by decide +kernel

/-- BRIV of 32 lanes to six targets: step 1 of the example of 06_groups.md. Part k goes to 0x1000 + 0x10 k. -/
theorem test_briv : nextHas (exec (.briv 5 1 2 none) (lanesTo 0xFFFFFFFF fun l => 0x10 * (l % 6))) (fun t =>
    (List.range 4).map (fun e => (t.grp.split e).mask) == [0x41041041, 0x82082082, 0x04104104, 0x08208208] &&
    (List.range 4).map (fun e => (t.grp.split e).pc) == [0x1000, 0x1010, 0x1020, 0x1030] &&
    (t.grp.split 3).tok == 2 &&
    t.grp.stack.map (fun x => (x.kind, x.mask, x.pc)) ==
      [(.deferred, 0x10410410, 0x1040), (.deferred, 0x20820820, 0x1050), (.join, 0xFFFFFFFF, 0x40)]) = true := by
  decide +kernel

/-- A dual store to value byte 0x0140 of a scratchpad of 0xC000 writes its slots at 0xC140 and 0x18140 (R96). -/
theorem test_dual_store :
    (let s := lane0 0x140 5
     let s := s.setGrp { s.grp with decl := { s.grp.decl with spad := 0xC000, d := 2, n := 16 } }
     let s := s.setGrp ((s.grp.writeT 3 0 0 6).writeT 3 1 0 7)
     nextHas (exec (.st 3 ⟨false, 1, .small 0⟩ .f32 true plainSync 0) s) fun t =>
       t.readSpad 0 0x140 4 == 5 && t.readSpad 0 0xC140 4 == 6 && t.readSpad 0 0x18140 4 == 7) = true := by decide +kernel

/-! ## Single steps: the corners of the rules -/

/-- R165: division by zero, the quotient that overflows, and a result into s0. -/
theorem test_scalar_corners :
    nextHas (exec (.sdiv 9 6 4 none) (lane0 0 0)) (fun t => t.grp.readS 9 == BitVec.allOnes 64) = true ∧
    nextHas (exec (.srem 9 6 4 none) (lane0 0 0)) (fun t => t.grp.readS 9 == 3) = true ∧
    nextHas (exec (.sadd 0 6 6 none) (lane0 0 0)) (fun t => t.grp.readS 0 == 0 && t.pc == 0x44) = true ∧
    nextHas (exec (.saddImm 9 7 (.lit 2) none) (lane0 0 0)) (fun t => t.grp.readS 9 == 1 && t.pc == 0x4C) = true := by
  decide +kernel

/-- R168: saturation, the high half of a product, and the sign that a right shift keeps. -/
theorem test_vector_integer_corners : [
    (Instr.vadds 2 1 (.imm 1) .i32 0, 0x7FFFFFFF, 0x7FFFFFFF), (.vsubs 2 1 (.imm 1) .n8 0, 0, 0),
    (.vmulh 2 1 (.imm 2) .i32 0, 0x80000000, 0xFFFFFFFF), (.vsra 2 1 (.imm 4) .i16 0, 0x8000, 0xFFFFF800),
    (.vshl 2 1 (.imm 33) .n32 0, 1, 2), (.vclz 2 1 0, 0, 32), (.vpop 2 1 0, 0xF00F, 8)].all (fun (i, x, r) =>
      nextHas (exec i (lane0 x 0)) fun t => t.grp.readV 2 0 == BitVec.ofNat 32 r) = true := by decide +kernel

/-- R173: a NaN makes the minimum canonical, and ties keep the first operand. -/
theorem test_float_choices :
    nextHas (exec (.vminFp 2 1 (.vec 3) .f32 0) (lane0 0x7F800001 0)) (fun t => t.grp.readV 2 0 == 0x7FC00000) = true ∧
    nextHas (exec (.vmaxFp 2 1 (.vec 3) .f32 0) (lane0 0x80000000 0)) (fun t => t.grp.readV 2 0 == 0x80000000) = true ∧
    nextHas (exec (.vmulFp 2 1 (.vec 3) .f32 .rne 0) (lane0 0x7F800000 0)) (fun t => t.grp.readV 2 0 == 0x7FC00000) = true := by
  decide +kernel

/-- R121, R148: TRAP 0x21 pushes a record at its PC, and the handler has the split. -/
theorem test_trap :
    (let s := lane0 0 0
     let s := s.setContext 0 { s.context 0 with handler := 0x200 }
     nextHas (exec (.trap 0x21 none) s) fun t => t.grp.stack == [⟨0x8021, 16, .trap, false, 1, 0x40, 0⟩] && t.pc == 0x200 &&
       t.spl.sup) = true := by decide +kernel

/-- R122: TRET goes back to where the record says. -/
theorem test_tret : nextHas (exec (.tret none) (mid [(0, handler 1)] [⟨0x8021, 16, .trap, false, 1, 0x44, 0⟩])) (fun t =>
    t.grp.stack == [] && t.pc == 0x44 && !t.spl.sup && t.grp.life == .resident) = true := by decide +kernel

/-- R51, R53: a word that is no instruction traps in the step that fetches it. -/
theorem test_step_traps : nextHas (step (State.reset.withFetchWord 32 0)) (fun t =>
    t.grp.stack.map StackEntry.cause == [0x12] && t.grp.life == .trapped) = true := by decide +kernel

/-- A step runs the instruction that stands at the program counter. -/
theorem test_step_runs : nextHas (step (State.reset.withFetchWord 96 (0x30600042 + 0xFF * 2 ^ 32))) (fun t =>
    t.grp.readM 3 == 0xFF && t.pc == 12) = true := by decide +kernel

/-- R215: the arrival that completes the phase lets the waiting split go on with the status. -/
theorem test_arrive : nextHas (exec (.arrive 5 3 false false none) (barred { openPhase with arrived := 1 })) (fun t =>
    (t.gang 0).bar 3 == { openPhase with gen := 8 } && t.grp.readS 5 == 7 && (t.grp.split 1).state == .runnable &&
      (t.grp.split 1).pc == 0x90) = true := by decide +kernel

/-- The worked example of 04_numbers.md (R69 to R73): one FP8 K-step whose order of rounding keeps 2^24. -/
theorem test_k_step :
    (let f := Fmt.f32.value
     let el := fun k => (fmtOf .e4m3).value (if k = 0 then 0x58 else if k = 128 ∨ k = 256 then 0x38 else 0)
     let x : PassIn := ⟨el, fun j => f (if j = 0 then 0x43800000 else if j = 3 then 0x7F800000 else 0x3F800000),
       fun k c => el (k + c), fun j c => f (if j + c = 0 then 0x43800000 else 0x3F800000)⟩
     onePass 0 .e4m3 false x 0 0) = 0x4B800000 := by decide +kernel

/-- R316: a flashback entry for the third instruction of an image at 0x1000 that saves s63 and names no recipe. -/
theorem test_flash_entry :
    flashEntryWords ⟨0x1048, [(1, 63)], none⟩ 0x1000 = [8, 0xFFFFFFFF, 0x13F01, 0, 0, 0, 0, 0] := by decide +kernel

/-- R205: a read that meets an uncorrectable data error delivers zero bits and status DERR. -/
theorem test_derr :
    ({ Die.reset with mem := [(0x41, 7)], marks := [(0x41, ⟨1, [], false, true⟩)] } : Die).read 0x40 4 =
      ⟨[0, 0, 0, 0], [], 1⟩ := by decide +kernel

end Sys2Proof.Tests
end

section
/-!
PROOF. Every step answers a next state: no meaning of an instruction or event faults or is refused, and what a turn does
around the meanings (holds, waits, tries of further splits, idle turns) only passes next states on.
-/

namespace Sys2Proof.Machine

/-- The outcome is a next state, neither a fault nor a refusal. -/
def Answers (o : Out) : Prop := ∃ t, o = .next t

theorem answers_next (t : State) : Answers (.next t) := ⟨t, rfl⟩

theorem goesOn_iff_answers_step (s : State) : s.goesOn ↔ Answers (step s) := Iff.rfl

theorem thenDo_answers {o : Out} (ho : Answers o) (k : State → State) : Answers (thenDo o k) := by
  obtain ⟨t, rfl⟩ := ho
  exact answers_next (k t)

/-! ## Instructions and events -/

theorem vecForm_answers (regs dests : List Nat) (f : Group → Nat → Group → Group) (s : State) :
    Answers (vecForm regs dests f s) :=
  answers_next _

/-- VCVTSR alone chooses among outcomes: the lane form, or detail 6 for a count outside 1 to 24 (R52). -/
theorem execVcvtsr_answers (vd va : Nat) (b : VOp) (n : Nat) (ty : Ty) (h : Nat) (s : State) :
    Answers (execVcvtsr vd va b n ty h s) := by
  unfold execVcvtsr
  split
  · exact vecForm_answers _ _ _ s
  · exact answers_next _

/-- Every arm of exec but VCVTSR's is a next state by its definition, whose outermost constructor is .next: its traps, holds
and waits are choices among states, not among outcomes. -/
theorem exec_answers (i : Instr) (s : State) : Answers (exec i s) := by
  cases i with
  | vcvtsr vd va b n ty h => exact execVcvtsr_answers vd va b n ty h s
  | _ => exact answers_next _

/-! ## Issue of a slot and turns, for any meaning of instructions that answers -/

section Turn
variable {f : Instr → State → Out} (hf : ∀ i s, Answers (f i s))
include hf

/-- A split that is fetched is held, takes the fetch fault, is rewound at a point in drain mode, or carries out f. -/
theorem issueSplit_answers (slot : Nat) (c : Cursor) (s : State) : Answers (State.issueSplit slot f c s) := by
  unfold State.issueSplit
  split
  next => exact answers_next _
  next => exact answers_next _
  next ws es _ =>
    dsimp only
    split
    · split
      · exact hf _ _
      · exact answers_next _
    · exact hf _ _

/-- Induction on the number of tries: a split that is held leaves one try fewer for the others. -/
theorem issueFrom_answers (slot n : Nat) (cs : List Cursor) (s : State) : Answers (State.issueFrom slot f n cs s) := by
  induction n generalizing cs s with
  | zero => exact answers_next s
  | succ n ih =>
    unfold State.issueFrom
    cases s.firstOf cs with
    | none => exact answers_next s
    | some c =>
      obtain ⟨t, ht⟩ := issueSplit_answers hf slot c s
      simp only [ht]
      split
      · exact ih _ _
      · exact answers_next t

theorem issueWith_answers (s : State) (slot : Nat) : Answers (s.issueWith slot f) := by
  unfold State.issueWith
  dsimp only
  split
  · exact answers_next _
  · exact issueFrom_answers hf slot _ _ _

theorem runTurn_answers (s : State) (t : Turn) : Answers (s.runTurn f t) := by
  unfold State.runTurn
  cases t.who with
  | event i =>
    dsimp only
    split
    · exact hf i _
    · exact answers_next _
  | issue slot => exact thenDo_answers (issueWith_answers hf _ slot) afterIssue
  | idle => exact answers_next _

end Turn

/-- Settles O6: a step is one turn of the agenda, and every meaning that a turn can carry out answers a next state. -/
theorem everyStepGoesOn : Obligations.EveryStepGoesOn := by
  unfold Obligations.EveryStepGoesOn
  intro s
  rw [goesOn_iff_answers_step]
  exact runTurn_answers exec_answers s.nextTurn.2 s.nextTurn.1

end Sys2Proof.Machine
end

section
/-!
PROOF. What the statements say an instruction leaves alone, shown once for each way an instruction goes on: a change of the
issuing group that leaves its split table, followed by the next PC; a write of a scalar; and the trap of the whole split.
-/

namespace Sys2Proof.Machine

open Sys2Proof.Claims

variable (s : State)

/-! ## The next PC -/

/-- The model counts words where the statements count bytes (R35). -/
theorem State.pcPlus_words1 (h : Option Nat) (lit : Bool) : s.pcPlus (words1 h lit) = nextPc s h lit := by
  rw [State.pcPlus, words1_bytes]; rfl

@[simp] theorem State.pcPlus_setGrp {g : Group} (hg : g.splits = s.grp.splits) (n : Nat) :
    (s.setGrp g).pcPlus n = s.pcPlus n := by
  simp [State.pcPlus, State.pc, State.spl, Group.split, hg]

/-! ## The issuing group changes and the split goes on -/

/-- The splits of a group are read off its split table alone. -/
theorem Group.split_congr {g h : Group} (hs : g.splits = h.splits) (e : Nat) : g.split e = h.split e := by
  simp only [Group.split, hs]

theorem Group.split_setSplit_ne (g : Group) {e j : Nat} (x : Split) (h : j ≠ e) : (g.setSplit e x).split j = g.split j := by
  rw [Group.split_setSplit, if_neg h]

theorem State.onlyGroup_setGrp (g : Group) : OnlyGroup s (s.setGrp g) := s.setGrp_only g

/-- A group whose split table stands, and then the next PC. -/
theorem State.grp_setGrp_advance {g : Group} (hg : g.splits = s.grp.splits) (n : Nat) :
    ((s.setGrp g).advance n).grp = g.setSplit s.cur.entry { s.spl with pc := s.pcPlus n } := by
  have hspl : g.split s.cur.entry = s.spl := Group.split_congr hg _
  simp [State.advance, hg, hspl]

theorem State.onlyGroup_setGrp_advance (g : Group) (n : Nat) : OnlyGroup s ((s.setGrp g).advance n) :=
  ⟨rfl, fun k hk => by simp [State.advance, State.goto, State.group_setGrp, hk]⟩

theorem State.splitAt_setGrp_advance {g : Group} (hg : g.splits = s.grp.splits) (n : Nat) :
    SplitAt s ((s.setGrp g).advance n) (s.pcPlus n) := by
  have hspl : g.split s.cur.entry = s.spl := Group.split_congr hg _
  refine ⟨?_, fun e he => ?_⟩
  · simp [State.advance, hg, hspl]
  · rw [s.grp_setGrp_advance hg, Group.split_setSplit_ne _ _ he, Group.split_congr hg]

/-- The whole of what such an instruction leaves alone, in the words of the statements. -/
theorem State.setGrp_advance_spec {g : Group} (hg : g.splits = s.grp.splits) (n : Nat) :
    let t := (s.setGrp g).advance n
    OnlyGroup s t ∧ SplitAt s t (s.pcPlus n) ∧ t.grp = { g with splits := t.grp.splits } := by
  refine ⟨s.onlyGroup_setGrp_advance g n, s.splitAt_setGrp_advance hg n, ?_⟩
  rw [s.grp_setGrp_advance hg]; rfl

/-- Going on alone changes only the PC. -/
theorem State.onlyPc_advance (n : Nat) : OnlyPc s (s.advance n) (s.pcPlus n) := by
  refine ⟨s.goto_only _, ⟨?_, fun e he => ?_⟩, ?_⟩
  · simp [State.advance]
  · simp [State.advance, Group.split_setSplit, he]
  · simp [State.advance, Group.setSplit]

/-! ## A scalar is written (R25, R334) -/

theorem Group.noteWrite_rewind_inSaved (g : Group) (r : RegId) :
    (g.noteWrite r).rewind = (g.rewind && !inSaved g r) := by
  rw [Group.noteWrite_rewind]; rfl

@[simp] theorem Group.inSaved_writeS (g : Group) (d : Nat) (x : Word64) (r : RegId) :
    inSaved (g.writeS d x) r = inSaved g r := by
  simp [inSaved]

/-- A noted write of a scalar changes the scalars and rewind-allowed. -/
theorem Group.noteWrite_writeS_keep (g : Group) (d : Nat) (x : Word64) (r : RegId) : (g.writeS d x).noteWrite r =
    { g with s := (g.writeS d x).s, rewind := ((g.writeS d x).noteWrite r).rewind } :=
  (Group.noteWrite_keep _ r).trans (congrArg (fun h : Group => { h with rewind := ((g.writeS d x).noteWrite r).rewind })
    (Group.writeS_keep g d x))

/-- A write of a scalar and the next PC: exactly what PutsScalar says. -/
theorem State.putsScalar_advance (d : Nat) (x : Word64) (n : Nat) :
    PutsScalar s ((s.putS d x).advance n) d x (s.pcPlus n) := by
  have hg : ((s.grp.writeS d x).noteWrite (.s d)).splits = s.grp.splits := by simp
  have ht : (s.putS d x).advance n = (s.setGrp ((s.grp.writeS d x).noteWrite (.s d))).advance n := rfl
  rw [ht]
  refine ⟨s.onlyGroup_setGrp_advance _ n, s.splitAt_setGrp_advance hg n, ?_, fun r => ?_, ?_⟩
  · rw [s.grp_setGrp_advance hg, Group.noteWrite_writeS_keep]
    rfl
  · rw [s.grp_setGrp_advance hg, ← Group.readS_writeS]
    simp [Group.readS]
  · simp [RewindAfter, s.grp_setGrp_advance hg, Group.noteWrite_rewind_inSaved]

/-! ## The lowest lane of a mask -/

/-- The search finds the lowest set bit. -/
theorem lowestFrom_eq_some {n k x j : Nat} (h : lowestFrom n k x = some j) :
    k ≤ j ∧ j < k + n ∧ x.testBit (j - k) = true ∧ ∀ i, i < j - k → x.testBit i = false := by
  induction n generalizing k x with
  | zero => simp [lowestFrom] at h
  | succ n ih =>
    unfold lowestFrom at h
    split at h
    · next hx =>
      obtain rfl : k = j := by simpa using h
      simp [hx]
    · next hx =>
      obtain ⟨hk, hj, hbit, hlow⟩ := ih h
      obtain ⟨m, hm⟩ : ∃ m, j - k = m + 1 := ⟨j - k - 1, by omega⟩
      have hm' : j - (k + 1) = m := by omega
      rw [hm'] at hbit hlow
      refine ⟨by omega, by omega, by rwa [hm, Nat.testBit_add_one], fun i hi => ?_⟩
      cases i with
      | zero => simpa using hx
      | succ i => rw [Nat.testBit_add_one]; exact hlow i (by omega)

/-- The search fails where no bit is set. -/
theorem lowestFrom_eq_none {n k x i : Nat} (h : lowestFrom n k x = none) (hi : i < n) : x.testBit i = false := by
  induction n generalizing k x i with
  | zero => omega
  | succ n ih =>
    unfold lowestFrom at h
    split at h
    · simp at h
    · next hx =>
      cases i with
      | zero => simpa using hx
      | succ i => rw [Nat.testBit_add_one]; exact ih h (by omega)

theorem lowLane_zero : lowLane 0 = 0 := by decide

/-- lowLane names the lowest lane of a mask that is not empty. -/
theorem lowLane_lowest {m : Word32} (hm : m ≠ 0) :
    lowLane m < 32 ∧ m.getLsbD (lowLane m) = true ∧ ∀ l, l < lowLane m → m.getLsbD l = false := by
  unfold lowLane lowestBit
  cases h : lowestFrom 32 0 m.toNat with
  | none =>
    refine absurd (BitVec.eq_of_getLsbD_eq fun i hi => ?_) hm
    exact (lowestFrom_eq_none h hi).trans BitVec.getLsbD_zero.symm
  | some j =>
    obtain ⟨-, hj, hbit, hlow⟩ := lowestFrom_eq_some h
    exact ⟨by simpa using hj, hbit, hlow⟩

/-! ## The trap of the whole split (R121) -/

/-- Split k of the group becomes held, unless it is split e, free or held already. -/
def Group.holdOther (e : Nat) (g : Group) (k : Nat) : Group :=
  if k ≠ e ∧ (g.split k).v ∧ (g.split k).state ≠ .held then
    g.setSplit k { g.split k with state := .held, hstate := (g.split k).state }
  else g

theorem Group.holdOthers_eq (g : Group) (e : Nat) : g.holdOthers e = (List.range 4).foldl (Group.holdOther e) g := rfl

theorem Group.split_holdOther (g : Group) (e k j : Nat) : (g.holdOther e k).split j =
    if j = k ∧ j ≠ e ∧ (g.split j).v ∧ (g.split j).state ≠ .held then
      { g.split j with state := .held, hstate := (g.split j).state }
    else g.split j := by
  by_cases hj : j = k
  · subst hj
    unfold Group.holdOther
    by_cases hc : j ≠ e ∧ (g.split j).v ∧ (g.split j).state ≠ .held
    · simp only [if_pos hc, Group.split_setSplit_self, true_and]
    · simp only [if_neg hc, true_and]
  · unfold Group.holdOther
    simp only [hj, false_and, if_false]
    split
    · rw [Group.split_setSplit, if_neg hj]
    · rfl

/-- By induction on the entries that have been gone through: each of them is looked at once. -/
theorem Group.split_foldl_holdOther (g : Group) (e n j : Nat) : ((List.range n).foldl (Group.holdOther e) g).split j =
    if j < n ∧ j ≠ e ∧ (g.split j).v ∧ (g.split j).state ≠ .held then
      { g.split j with state := .held, hstate := (g.split j).state }
    else g.split j := by
  induction n with
  | zero => simp
  | succ n ih =>
    rw [List.range_succ, List.foldl_append, List.foldl_cons, List.foldl_nil, Group.split_holdOther]
    by_cases hj : j = n
    · subst hj
      rw [ih]
      simp
    · have hlt : j < n + 1 ↔ j < n := by omega
      simp only [hj, false_and, if_false, hlt, ih]

/-- Holding the other splits, entry by entry. -/
theorem Group.split_holdOthers (g : Group) (e j : Nat) : (g.holdOthers e).split j =
    if j < 4 ∧ j ≠ e ∧ (g.split j).v ∧ (g.split j).state ≠ .held then
      { g.split j with state := .held, hstate := (g.split j).state }
    else g.split j := by
  rw [Group.holdOthers_eq]
  exact g.split_foldl_holdOther e 4 j

/-- The trapping split goes on at the handler, at supervisor level. -/
theorem Group.split_pushTrap_self (g : Group) (e : Nat) (fm : Word32) (cause : Nat) (pc handler : Addr52) :
    (g.pushTrap e fm cause pc handler).split e = { Split.run handler fm 16 true with age := (g.split e).age } := by
  simp [Group.pushTrap, Group.split_holdOthers]

/-- Holding the splits other than the one that has just been written. -/
theorem Group.split_holdOthers_setSplit {g h : Group} {e j : Nat} (hs : h.splits = g.splits) (x : Split) (hj : j < 4)
    (hje : j ≠ e) : ((h.setSplit e x).holdOthers e).split j =
      if (g.split j).v ∧ (g.split j).state ≠ .held then
        { g.split j with state := .held, hstate := (g.split j).state }
      else g.split j := by
  rw [Group.split_holdOthers, Group.split_setSplit_ne _ _ hje, Group.split_congr hs]
  simp only [hj, hje, ne_eq, not_false_eq_true, true_and]

/-- Every other split of the table becomes held. -/
theorem Group.split_pushTrap_other (g : Group) {e j : Nat} (fm : Word32) (cause : Nat) (pc handler : Addr52)
    (hj : j < 4) (hje : j ≠ e) : (g.pushTrap e fm cause pc handler).split j =
      if (g.split j).v ∧ (g.split j).state ≠ .held then
        { g.split j with state := .held, hstate := (g.split j).state }
      else g.split j :=
  Group.split_holdOthers_setSplit rfl _ hj hje

/-- A trap of every lane that the split holds defers none. -/
theorem Group.pushTrap_whole (g : Group) {e : Nat} {fm : Word32} (cause : Nat) (pc handler : Addr52)
    (hrest : (g.split e).mask &&& ~~~fm = 0) : g.pushTrap e fm cause pc handler =
      { g with life := .trapped, faultLane := lowLane fm, splits := (g.pushTrap e fm cause pc handler).splits,
               stack := ⟨cause, (g.split e).tok, .trap, (g.split e).sup, fm, pc, 0⟩ :: g.stack } :=
  (Group.pushTrap_keep g e fm cause pc handler).trans (by rw [if_pos hrest])

/-- A trap of every lane whose cause files no lane fault, with room on the stack (R121 with Fm = em). -/
theorem State.trapTaken_trapAll {cause : Nat} (hc : filesFault cause = false) (hd : s.grp.stack.length + 1 ≤ 32) :
    TrapTaken s (s.trapAll cause) cause := by
  have hrest : (s.grp.split s.cur.entry).mask &&& ~~~s.em = 0 := BitVec.and_not_self _
  obtain ⟨hfull, -⟩ | ⟨-, g, htrap, hg, hf⟩ := s.trap_cases s.cur.gid s.cur.entry s.em cause s.pc []
  · change 32 < s.grp.stack.length + (if (s.grp.split s.cur.entry).mask &&& ~~~s.em = 0 then 1 else 2) at hfull
    rw [if_pos hrest] at hfull
    omega
  · replace hg : g = { s.grp with rewind := false } := by rw [hg, hf hc]; rfl
    have hpush := g.pushTrap_whole (e := s.cur.entry) (fm := s.em) cause s.pc (s.context s.grp.ctx).handler
      (by rw [hg]; exact hrest)
    have ht : s.trapAll cause = s.setGrp (g.pushTrap s.cur.entry s.em cause s.pc (s.context s.grp.ctx).handler) := htrap
    have hsplit : ∀ e, g.split e = s.grp.split e := fun e => Group.split_congr (by rw [hg]) e
    rw [ht]
    refine ⟨s.onlyGroup_setGrp _, ?_, ?_, fun e he hne => ?_, ?_⟩
    · rw [State.grp_setGrp, hpush, hsplit, hg]; rfl
    · rw [State.spl_setGrp, Group.split_pushTrap_self, hsplit]; rfl
    · rw [State.grp_setGrp, Group.split_pushTrap_other _ _ _ _ _ he hne, hsplit]
    · rw [State.grp_setGrp, hpush]
      by_cases hm : s.em = 0
      · exact .inl ⟨hm, by rw [hm]; exact lowLane_zero⟩
      · obtain ⟨-, hbit, hlow⟩ := lowLane_lowest hm
        exact .inr ⟨hbit, hlow⟩

/-- The illegal-instruction trap files no lane fault, whatever its detail below 16 (R51, R353). -/
theorem State.trapTaken_illegal {detail : Nat} (hdet : detail < 16) (hd : s.grp.stack.length + 1 ≤ 32) :
    TrapTaken s (s.illegal detail) (0x10 + detail) := by
  refine s.trapTaken_trapAll ?_ hd
  have h1 : 0x10 + detail ≠ 0x24 := by omega
  have h2 : ¬ 0x30 ≤ 0x10 + detail := by omega
  simp [filesFault, h1, h2]

end Sys2Proof.Machine
end

section
/-!
PROOF. Tangent slots of one register in one lane: what a read sees after they are written together, delivered (R84, R92) or
cleared.
-/

namespace Sys2Proof.Machine

/-- Slots below n of register r in lane l take the bits t. -/
def Group.writeSlots (g : Group) (r l : Nat) (t : Nat → Word32) (n : Nat) : Group :=
  (List.range n).foldl (fun g d => g.writeT r d l (t d)) g

variable (g : Group) (r l : Nat) (t : Nat → Word32) (n : Nat)

theorem Group.writeSlots_succ : g.writeSlots r l t (n + 1) = (g.writeSlots r l t n).writeT r n l (t n) := by
  simp [Group.writeSlots, List.range_succ, List.foldl_append]

theorem Group.zeroTan_singleton : g.zeroTan [r] l = g.writeSlots r l (fun _ => 0) g.decl.d := rfl

/-- A register of the dual range takes what is delivered to it. -/
theorem Group.giveTan_dual (hr : g.dual r = true) : g.giveTan r l t = g.writeSlots r l t g.decl.d := by
  simp [Group.giveTan, Group.writeSlots, hr]

/-- Any other register drops it, and TLOST tells (R92). -/
theorem Group.giveTan_not_dual (hr : g.dual r = false) : g.giveTan r l t =
    g.tlostIf ((List.range g.decl.d).any fun d => !tanZero g.decl.bf16 (t d)) l := by
  simp [Group.giveTan, hr]

/-- A write of a tangent slot changes tangents and nothing else. -/
theorem Group.writeT_keep (d : Nat) (x : Word32) : g.writeT r d l x = { g with tan := (g.writeT r d l x).tan } := by
  unfold Group.writeT; split <;> rfl

theorem Group.writeSlots_keep : g.writeSlots r l t n = { g with tan := (g.writeSlots r l t n).tan } := by
  induction n with
  | zero => rfl
  | succ n ih => rw [Group.writeSlots_succ, Group.writeT_keep, ih]

@[simp] theorem Group.writeSlots_decl : (g.writeSlots r l t n).decl = g.decl := by rw [Group.writeSlots_keep]

@[simp] theorem Group.dual_writeSlots (q : Nat) : (g.writeSlots r l t n).dual q = g.dual q := by simp [Group.dual]

@[simp] theorem Group.readV_writeSlots (q k : Nat) : (g.writeSlots r l t n).readV q k = g.readV q k := by
  rw [Group.writeSlots_keep]; rfl

/-- Slots of other registers, in other lanes and from n on stand. -/
theorem Group.readT_writeSlots {r l q c k : Nat} (hr : r < 256) (hl : l < 32) (hq : q < 256) (hk : k < 32) :
    (g.writeSlots r l t n).readT q c k =
      if (q = r ∧ c < n ∧ k = l) ∧ g.dual r = true then t c else g.readT q c k := by
  induction n with
  | zero => simp [Group.writeSlots]
  | succ n ih =>
    rw [Group.writeSlots_succ, Group.readT_writeT _ _ hl hk hr hq, Group.dual_writeSlots, ih]
    by_cases hc : c = n
    · subst hc
      simp
    · have hlt : c < n + 1 ↔ c < n := by omega
      simp [hc, hlt]

/-- A delivery changes tangents and TLOST and nothing else. -/
theorem Group.giveTan_keep :
    g.giveTan r l t = { g with tan := (g.giveTan r l t).tan, tlost := (g.giveTan r l t).tlost } := by
  cases hr : g.dual r with
  | true => rw [Group.giveTan_dual _ _ _ _ hr, Group.writeSlots_keep]
  | false => rw [Group.giveTan_not_dual _ _ _ _ hr]; unfold Group.tlostIf; split <;> rfl

@[simp] theorem Group.giveTan_decl : (g.giveTan r l t).decl = g.decl := by rw [Group.giveTan_keep]

@[simp] theorem Group.readV_giveTan (q k : Nat) : (g.giveTan r l t).readV q k = g.readV q k := by
  rw [Group.giveTan_keep]; rfl

theorem Group.readT_giveTan {r l q c k : Nat} (hr : r < 256) (hl : l < 32) (hq : q < 256) (hk : k < 32) :
    (g.giveTan r l t).readT q c k =
      if (q = r ∧ c < g.decl.d ∧ k = l) ∧ g.dual r = true then t c else g.readT q c k := by
  cases hd : g.dual r with
  | true => rw [Group.giveTan_dual _ _ _ _ hd, Group.readT_writeSlots _ _ _ hr hl hq hk, hd]
  | false =>
    rw [Group.giveTan_not_dual _ _ _ _ hd, if_neg (by simp)]
    unfold Group.tlostIf
    split <;> rfl

/-- TLOST of a lane after a delivery: as it was, or set where a tangent that is not exactly zero was dropped there (R92). -/
theorem Group.tlost_giveTan {k : Nat} (hk : k < 32) : (g.giveTan r l t).tlost.getLsbD k =
    (g.tlost.getLsbD k || (decide (k = l) && !g.dual r &&
      (List.range g.decl.d).any fun d => !tanZero g.decl.bf16 (t d))) := by
  cases hd : g.dual r with
  | true => rw [Group.giveTan_dual _ _ _ _ hd, Group.writeSlots_keep]; simp
  | false =>
    rw [Group.giveTan_not_dual _ _ _ _ hd]
    unfold Group.tlostIf
    split
    next h => rw [Group.tlost_setTlost _ hk, h]; simp
    next h => rw [Bool.not_eq_true] at h; rw [h]; simp

end Sys2Proof.Machine
end

section
/-!
PROOF. System registers: what SRD reads of each is the concatenation of its fields (R16, R93, R124, R126, R156, R201, R247,
R260, R332, R340, R354).
-/

namespace Sys2Proof.Machine

open Sys2Proof.Claims

/-! ## Fields side by side -/

/-- The number of two fields side by side. -/
theorem toNat_append_eq_add {m n : Nat} (x : BitVec m) (y : BitVec n) :
    (x ++ y).toNat = x.toNat * 2 ^ n + y.toNat := by
  rw [BitVec.toNat_append, ← Nat.shiftLeft_add_eq_or_of_lt y.isLt, Nat.shiftLeft_eq]

/-- A flag as a field of one bit. -/
theorem ite_eq_toNat_mul (b : Bool) (n : Nat) : (if b = true then n else 0) = b.toNat * n := by cases b <;> simp

theorem positionWord_eq (size idx : Nat) : positionWord size idx = positionOf size idx := by
  apply BitVec.eq_of_toNat_eq
  simp only [positionWord, positionOf, BitVec.toNat_setWidth, BitVec.toNat_ofNat, toNat_append_eq_add]

theorem popCount_eq_length (n x : Nat) : popCount n x = ((List.range n).filter fun k => x.testBit k).length := by
  induction n generalizing x with
  | zero => rfl
  | succ n ih =>
    rw [popCount, ih, List.range_succ_eq_map, List.filter_cons, List.filter_map]
    have hbits : (fun k => x.testBit k) ∘ Nat.succ = fun k => (x / 2).testBit k := funext fun k => Nat.testBit_succ x k
    rw [hbits, Nat.testBit_zero]
    rcases Nat.mod_two_eq_zero_or_one x with h | h <;> simp [h, Nat.add_comm]

/-! ## The topmost trap record -/

theorem Group.topTrap_eq_some {g : Group} {r : StackEntry} : g.topTrap = some r ↔ TopTrap g r := by
  unfold Group.topTrap TopTrap
  rw [List.find?_eq_some_iff_append]
  constructor
  · rintro ⟨hr, above, below, hs, ha⟩
    exact ⟨above, below, hs, by simpa using hr, by simpa using ha⟩
  · rintro ⟨above, below, hs, hr, ha⟩
    exact ⟨by simpa using hr, above, below, hs, by simpa using ha⟩

theorem Group.topTrap_eq_none {g : Group} (h : ∀ e ∈ g.stack, e.kind ≠ .trap) : g.topTrap = none := by
  unfold Group.topTrap
  rw [List.find?_eq_none]
  simpa using h

theorem filesFault_iff (cause : Nat) :
    filesFault cause = true ↔ cause = 0x24 ∨ 0x30 ≤ cause ∧ cause ≤ 0x33 := by
  simp [filesFault]

/-! ## Register by register -/

variable (s : State)

/-- LANE to a scalar: 32 lanes, and the lowest lane of em (R16). -/
theorem State.isSysValue_lane : IsSysValue s .lane (s.sysValue .lane) := by
  simp only [IsSysValue, State.sysValue, positionWord_eq]
  split
  next hm => rw [hm, lowLane_zero]
  next hm =>
    obtain ⟨hl, hbit, hlow⟩ := lowLane_lowest hm
    exact ⟨lowLane s.em, hl, hbit, hlow, rfl⟩

theorem State.isSysValue_split : IsSysValue s .split (s.sysValue .split) := by
  have hem := s.em.isLt
  simp only [IsSysValue, State.sysValue]
  apply BitVec.eq_of_toNat_eq
  simp only [State.splitWord, Group.depth, Group.validEntries, BitVec.toNat_setWidth, BitVec.toNat_ofNat,
    toNat_append_eq_add, BitVec.toNat_ofBool, ite_eq_toNat_mul]
  omega

theorem State.isSysValue_ctxid : IsSysValue s .ctxid (s.sysValue .ctxid) := by
  simp only [IsSysValue, State.sysValue]
  apply BitVec.eq_of_toNat_eq
  simp only [State.ctxidWord, BitVec.toNat_setWidth, BitVec.toNat_ofNat, toNat_append_eq_add]

theorem State.isSysValue_partid : IsSysValue s .partid (s.sysValue .partid) := by
  simp only [IsSysValue, State.sysValue]
  generalize hm : (s.part (s.context s.grp.ctx).part).qmask = m
  have hlt := m.isLt
  have hcount : ((List.range 32).filter fun k => m.getLsbD k).length ≤ 32 :=
    (List.length_filter_le _ _).trans (List.length_range).le
  have hpop : popCount 32 m.toNat = ((List.range 32).filter fun k => m.getLsbD k).length := popCount_eq_length 32 _
  apply BitVec.eq_of_toNat_eq
  simp only [State.partidWord, hm, hpop, BitVec.toNat_setWidth, BitVec.toNat_ofNat, toNat_append_eq_add]
  omega

theorem State.isSysValue_accown : IsSysValue s .accown (s.sysValue .accown) := by
  simp only [IsSysValue, State.sysValue, State.accownWord, ite_eq_toNat_mul]
  apply BitVec.eq_of_toNat_eq
  simp only [quarterOf, BitVec.toNat_setWidth, BitVec.toNat_ofNat, toNat_append_eq_add, BitVec.toNat_ofBool]

theorem State.isSysValue_wsphase : IsSysValue s .wsphase (s.sysValue .wsphase) := by
  simp only [IsSysValue, State.sysValue, wsphaseWord]
  split <;> apply BitVec.eq_of_toNat_eq <;>
    simp only [BitVec.toNat_setWidth, BitVec.toNat_ofNat, toNat_append_eq_add] <;> omega

theorem State.isSysValue_fltcause : IsSysValue s .fltcause (s.sysValue .fltcause) := by
  refine ⟨fun e he => ?_, fun hn => ?_⟩
  · have hlt := e.mask.isLt
    rw [State.sysValue, Group.fltCause, Group.topTrap_eq_some.2 he]
    apply BitVec.eq_of_toNat_eq
    simp only [BitVec.toNat_setWidth, BitVec.toNat_ofNat, toNat_append_eq_add]
  · rw [State.sysValue, Group.fltCause, Group.topTrap_eq_none hn]

theorem State.isSysValue_fltpc : IsSysValue s .fltpc (s.sysValue .fltpc) := by
  refine ⟨fun e he => ?_, fun hn => ?_⟩
  · rw [State.sysValue, Group.fltPc, Group.topTrap_eq_some.2 he]
  · rw [State.sysValue, Group.fltPc, Group.topTrap_eq_none hn]

/-- An entry of the lane fault file is the lane number over the entry's fields, or over zeros for a lane that is not in
the record (R354). -/
theorem faultWordOf_eq (lane : Nat) (inMask : Bool) (f : LaneFault) : faultWordOf lane inMask f =
    BitVec.ofNat 5 lane ++ (if inMask = true then
      BitVec.ofNat 3 f.lcause ++ BitVec.ofNat 2 f.acc ++ BitVec.ofNat 2 f.space ++ BitVec.ofNat 52 f.addr else 0#59) := by
  apply BitVec.eq_of_toNat_eq
  cases inMask <;>
    simp only [faultWordOf, BitVec.toNat_ofNat, toNat_append_eq_add, if_true, if_false, Bool.false_eq_true] <;> omega

theorem State.isSysValue_fltaddr : IsSysValue s .fltaddr (s.sysValue .fltaddr) := by
  have top : ∀ e, TopTrap s.grp e → s.sysValue .fltaddr =
      if filesFault e.cause = true then
        faultWordOf s.grp.faultLane (e.mask.getLsbD s.grp.faultLane) (Sparse.get LaneFault.zero s.grp.faults s.grp.faultLane)
      else if e.cause = 0x48 then s.grp.faultWord else 0 := by
    intro e he
    rw [State.sysValue, Group.fltAddr, Group.topTrap_eq_some.2 he]
  refine ⟨fun e he hc => ?_, fun e he hc => ?_, fun e he hc => ?_⟩
  · rw [top e he, if_pos ((filesFault_iff _).2 hc)]
    exact faultWordOf_eq _ _ _
  · rw [top e he, if_neg (by rw [filesFault_iff]; omega), if_pos hc]
  · rw [top e he, if_neg (by rw [filesFault_iff]; omega), if_neg (by omega)]

/-- What the model reads is what the fields say, for every register. -/
theorem State.isSysValue_sysValue (r : SysReg) : IsSysValue s r (s.sysValue r) := by
  cases r with
  | lane => exact s.isSysValue_lane
  | group => exact positionWord_eq _ _
  | gang => exact positionWord_eq _ _
  | band => exact positionWord_eq _ _
  | span => exact positionWord_eq _ _
  | grid => exact positionWord_eq _ _
  | split => exact s.isSysValue_split
  | ctxid => exact s.isSysValue_ctxid
  | partid => exact s.isSysValue_partid
  | accown => exact s.isSysValue_accown
  | wsphase => exact s.isSysValue_wsphase
  | clock => exact rfl
  | vtime => exact rfl
  | fltcause => exact s.isSysValue_fltcause
  | fltaddr => exact s.isSysValue_fltaddr
  | fltpc => exact s.isSysValue_fltpc
  | tlost => exact rfl
  | edge => exact rfl

end Sys2Proof.Machine
end

section
/-!
PROOF. SRD and SWR (R154, R155): the whole register to a scalar, a part of it to each lane of em, the flags of the lanes of em
from a scalar or a vector register, the fields of the topmost trap record, and the access trap of everything else.
-/

namespace Sys2Proof.Machine

open Sys2Proof.Claims

/-! ## Lane forms in the words of the statements -/

/-- Elements are read off the vector registers, and tangents off the tangent file and the declaration. -/
theorem Group.readV_congr {g h : Group} (hv : g.v = h.v) (r l : Nat) : g.readV r l = h.readV r l := by
  simp only [Group.readV, hv]

theorem Group.readT_congr {g h : Group} (hd : g.decl = h.decl) (ht : g.tan = h.tan) (r d l : Nat) :
    g.readT r d l = h.readT r d l := by
  have hdual : g.dual r = h.dual r := by rw [Group.dual, hd]; rfl
  rw [Group.readT, hdual, ht]; rfl

/-- Another split table and another rewind-allowed leave the lanes alone. -/
theorem Group.lanes_of_eq {g h : Group} {splits : Sparse Split} {rewind : Bool}
    (e : g = { h with splits := splits, rewind := rewind }) : g.v = h.v ∧ g.tan = h.tan ∧ g.decl = h.decl := by
  subst e; exact ⟨rfl, rfl, rfl⟩

/-- What a lane below 32 shows, with the declaration that the rule of a lane's work may ask. -/
def laneSees {α : Type} (see : Nat → Group → α) (k : Nat) (g : Group) : Decl × Option α :=
  (g.decl, if k < 32 then some (see k g) else none)

/-- Where the work of lane l changes what lane l shows by a rule of its own and nothing that another lane shows, a lane of em
shows what the rule makes of it, and any other lane what it showed. -/
theorem Group.eachLane_rule (g : Group) {α : Type} (em : Word32) (f : Group → Nat → Group → Group) (see : Nat → Group → α)
    (rule : Decl → Nat → α → α) (hdecl : ∀ l acc, (f g l acc).decl = acc.decl)
    (hf : ∀ l k acc, l < 32 → k < 32 → see k (f g l acc) = if k = l then rule acc.decl k (see k acc) else see k acc)
    {k : Nat} (hk : k < 32) :
    see k (g.eachLane em f) = if em.getLsbD k then rule g.decl k (see k g) else see k g := by
  have other : ∀ l k acc, l < 32 → l ≠ k → laneSees see k (f g l acc) = laneSees see k acc := by
    intro l k acc hl hne
    unfold laneSees
    rw [hdecl]
    split
    next hk => rw [hf l k acc hl hk, if_neg (Ne.symm hne)]
    next => rfl
  have same : ∀ l acc acc', l < 32 → laneSees see l acc = laneSees see l acc' →
      laneSees see l (f g l acc) = laneSees see l (f g l acc') := by
    intro l acc acc' hl h
    simp only [laneSees, hl, if_true, Prod.mk.injEq, Option.some.injEq] at h ⊢
    obtain ⟨hd, hs⟩ := h
    rw [hdecl, hdecl, hf l l acc hl hl, hf l l acc' hl hl, hd, hs]
    exact ⟨rfl, rfl⟩
  have pair := g.eachLane_lane em (fun _ => f g) (laneSees see) other same hk
  have hval : laneSees see k (f g k g) = (g.decl, some (rule g.decl k (see k g))) := by
    simp only [laneSees, hk, if_true, hdecl, hf k k g hk hk]
  rw [hval] at pair
  have hsnd := congrArg Prod.snd pair
  simp only [laneSees, hk, if_true, apply_ite Prod.snd] at hsnd
  rw [← apply_ite some] at hsnd
  exact Option.some.inj hsnd

variable (s : State)

/-- The group after the lanes of a form have worked and its writes have been noted. -/
def State.laneResult (rs : List Nat) (f : Group → Nat → Group → Group) : Group :=
  if s.em = 0 then s.grp.eachLane s.em f
  else rs.foldl (fun g r => g.noteWrite (.v r)) (s.grp.eachLane s.em f)

theorem State.laneOp_eq (n : Nat) (rs : List Nat) (f : Group → Nat → Group → Group) :
    s.laneOp n rs f = (s.setGrp (s.laneResult rs f)).advance n := rfl

theorem State.laneResult_keep (rs : List Nat) (f : Group → Nat → Group → Group) :
    s.laneResult rs f = { s.grp.eachLane s.em f with rewind := (s.laneResult rs f).rewind } := by
  unfold State.laneResult
  split
  · rfl
  · rw [← List.foldl_map, Group.noteWrites]

/-- Rewind-allowed after a lane form: the registers it writes are noted when a lane of em writes them (R334). -/
theorem State.laneResult_rewind (rs : List Nat) {f : Group → Nat → Group → Group}
    (hw : (s.grp.eachLane s.em f).rewind = s.grp.rewind) (hr : (s.grp.eachLane s.em f).record = s.grp.record)
    (hd : (s.grp.eachLane s.em f).decl = s.grp.decl) : (s.laneResult rs f).rewind =
      if s.em = 0 then s.grp.rewind else s.grp.rewind && !(rs.map RegId.v).any (inSaved s.grp) := by
  unfold State.laneResult
  split
  · exact hw
  · rw [← List.foldl_map (f := RegId.v) (g := fun (g : Group) r => g.noteWrite r), Group.noteWrites, hw, hr, hd]
    rfl

/-- What a lane form leaves alone and notes, when the work of its lanes leaves split table, rewind record and declaration. -/
theorem State.laneOp_spec (n : Nat) (rs : List Nat) {f : Group → Nat → Group → Group}
    (hs : (s.grp.eachLane s.em f).splits = s.grp.splits) (hw : (s.grp.eachLane s.em f).rewind = s.grp.rewind)
    (hr : (s.grp.eachLane s.em f).record = s.grp.record) (hd : (s.grp.eachLane s.em f).decl = s.grp.decl) :
    let t := s.laneOp n rs f
    OnlyGroup s t ∧ SplitAt s t (s.pcPlus n) ∧
      t.grp = { s.grp.eachLane s.em f with splits := t.grp.splits, rewind := t.grp.rewind } ∧
      (s.em ≠ 0 → RewindAfter s t (rs.map RegId.v)) ∧ (s.em = 0 → t.grp.rewind = s.grp.rewind) := by
  have hsplits : (s.laneResult rs f).splits = s.grp.splits := by rw [State.laneResult_keep]; exact hs
  have hrewind : (s.laneOp n rs f).grp.rewind = _ :=
    (congrArg Group.rewind (s.grp_setGrp_advance hsplits n)).trans (s.laneResult_rewind rs hw hr hd)
  refine ⟨s.onlyGroup_setGrp_advance _ n, s.splitAt_setGrp_advance hsplits n, ?_, fun hem => ?_, fun hem => ?_⟩
  · rw [State.laneOp_eq, s.grp_setGrp_advance hsplits, State.laneResult_keep]; rfl
  · exact hrewind.trans (if_neg hem)
  · exact hrewind.trans (if_pos hem)

/-! ## SRD -/

theorem srdAllowed_iff (sup : Bool) (r : SysReg) : srdAllowed sup r = true ↔ mayRead sup r := by
  cases r <;> simp [srdAllowed, mayRead]

/-- The check of the lane forms passes for a register below C (R52), and the scalar forms have none. -/
theorem State.check_passes {vx : Bool} {reg : Nat} (hreg : vx = true → reg < s.grp.decl.c) :
    (vx && !s.fits [reg]) = false := by
  cases vx with
  | false => rfl
  | true => simp [State.fits, hreg rfl]

/-- The work of SRD in one lane. -/
def State.srdLane (reg : Nat) (r : SysReg) (_ : Group) (l : Nat) (acc : Group) : Group :=
  (acc.writeV reg l (s.sysLane r l)).zeroTan [reg] l

theorem execSrd_scalar {r : SysReg} (reg : Nat) (h : Option Nat) (hr : mayRead s.spl.sup r) :
    execSrd false reg r h s = .next ((s.putS reg (s.sysValue r)).advance (words1 h false)) := by
  simp [execSrd, (srdAllowed_iff _ _).2 hr]

theorem execSrd_lanes {r : SysReg} {reg : Nat} (h : Option Nat) (hr : mayRead s.spl.sup r) (hreg : reg < s.grp.decl.c) :
    execSrd true reg r h s = .next (s.laneOp (words1 h false) [reg] (s.srdLane reg r)) := by
  simp only [execSrd, (srdAllowed_iff _ _).2 hr, s.check_passes fun _ => hreg]
  rfl

/-- A register of the handler, read at user level, is the access trap (R50). -/
theorem execSrd_denied {r : SysReg} {vx : Bool} {reg : Nat} (h : Option Nat) (hr : ¬ mayRead s.spl.sup r)
    (hreg : vx = true → reg < s.grp.decl.c) : execSrd vx reg r h s = .next (s.illegal 7) := by
  have hno : srdAllowed s.spl.sup r = false := by rwa [← srdAllowed_iff, Bool.not_eq_true] at hr
  simp [execSrd, s.check_passes hreg, hno]

/-- A group without its vector registers and their tangents. -/
def Group.butVectors (g : Group) : Group := { g with v := [], tan := [] }

theorem Group.eq_of_butVectors {g g' : Group} (h : g.butVectors = g'.butVectors) : g = { g' with v := g.v, tan := g.tan } :=
  congrArg (fun x : Group => { x with v := g.v, tan := g.tan }) h

section SrdLane
variable (reg : Nat) (r : SysReg) (g acc : Group) (l : Nat)

theorem State.srdLane_eq : s.srdLane reg r g l acc =
    (acc.writeV reg l (s.sysLane r l)).writeSlots reg l (fun _ => 0) acc.decl.d :=
  Group.zeroTan_singleton _ reg l

theorem State.butVectors_srdLane : (s.srdLane reg r g l acc).butVectors = acc.butVectors := by
  rw [State.srdLane_eq, Group.writeSlots_keep]; rfl

theorem State.srdLane_decl : (s.srdLane reg r g l acc).decl = acc.decl := by rw [State.srdLane_eq]; simp

theorem State.readV_srdLane {l k : Nat} (hl : l < 32) (hk : k < 32) (q : Nat) :
    (s.srdLane reg r g l acc).readV q k =
      if k = l then (if q = reg then s.sysLane r k else acc.readV q k) else acc.readV q k := by
  rw [State.srdLane_eq, Group.readV_writeSlots, Group.readV_writeV _ _ hl hk]
  by_cases hkl : k = l <;> simp [hkl]

/-- A slot of the register reads +0 afterwards: it is cleared in the dual range and has no bits outside it (R34). -/
theorem State.readT_srdLane {reg l q k : Nat} (hreg : reg < 256) (hl : l < 32) (hq : q < 256) (hk : k < 32) (c : Nat) :
    (s.srdLane reg r g l acc).readT q c k =
      if k = l then (if q = reg ∧ c < acc.decl.d then 0 else acc.readT q c k) else acc.readT q c k := by
  rw [State.srdLane_eq, Group.readT_writeSlots _ _ _ hreg hl hq hk, Group.readT_writeV]
  cases hd : (acc.writeV reg l (s.sysLane r l)).dual reg with
  | true => by_cases hkl : k = l <;> simp [hkl]
  | false =>
    have hzero : q = reg → acc.readT q c k = 0 := fun e => by
      subst e; unfold Group.readT; exact if_neg (by rw [Bool.not_eq_true]; exact hd)
    by_cases hq' : q = reg
    · simp [hzero hq']
    · simp [hq']

end SrdLane

/-- What the lanes of SRD leave of the group: only vector registers and tangents change. -/
theorem State.eachLane_srdLane_keep (reg : Nat) (r : SysReg) : s.grp.eachLane s.em (s.srdLane reg r) =
    { s.grp with v := (s.grp.eachLane s.em (s.srdLane reg r)).v, tan := (s.grp.eachLane s.em (s.srdLane reg r)).tan } :=
  Group.eq_of_butVectors (Group.eachLane_keep _ _ _ Group.butVectors fun l acc => s.butVectors_srdLane reg r _ acc l)

theorem State.readV_eachLane_srdLane (reg : Nat) (r : SysReg) (q : Nat) {l : Nat} (hl : l < 32) :
    (s.grp.eachLane s.em (s.srdLane reg r)).readV q l =
      if q = reg ∧ s.em.getLsbD l = true then s.sysLane r l else s.grp.readV q l := by
  rw [s.grp.eachLane_rule s.em (s.srdLane reg r) (fun k g => g.readV q k)
    (fun _ k x => if q = reg then s.sysLane r k else x) (fun l acc => s.srdLane_decl reg r _ acc l)
    (fun l k acc hl hk => s.readV_srdLane reg r _ acc hl hk q) hl]
  by_cases hq : q = reg <;> simp [hq]

theorem State.readT_eachLane_srdLane {reg : Nat} (hreg : reg < 256) (r : SysReg) {q : Nat} (hq : q < 256) (d : Nat) {l : Nat}
    (hl : l < 32) : (s.grp.eachLane s.em (s.srdLane reg r)).readT q d l =
      if q = reg ∧ s.em.getLsbD l = true ∧ d < s.grp.decl.d then 0 else s.grp.readT q d l := by
  rw [s.grp.eachLane_rule s.em (s.srdLane reg r) (fun k g => g.readT q d k)
    (fun c _ x => if q = reg ∧ d < c.d then 0 else x) (fun l acc => s.srdLane_decl reg r _ acc l)
    (fun l k acc hl hk => s.readT_srdLane r _ acc hreg hl hq hk d) hl]
  by_cases hem : s.em.getLsbD l = true <;> simp [hem]

/-- The low half word of a register, as a lane receives it. -/
theorem ofNat_mod_eq_setWidth (x : Word64) : BitVec.ofNat 32 (x.toNat % 2 ^ 16) = (x.setWidth 16).setWidth 32 := by
  apply BitVec.eq_of_toNat_eq
  simp only [BitVec.toNat_ofNat, BitVec.toNat_setWidth]

/-- SRD (R154): the whole register to a scalar, its part to each lane of em, and the access trap (R50). -/
theorem systemReads : Claims.SystemReads := by
  intro s reg r h
  refine ⟨fun hr => ?_, fun hr hreg hreg256 => ?_, fun hr hd => ⟨?_, fun hreg => ?_⟩⟩
  · refine ⟨_, execSrd_scalar s reg h hr, _, s.isSysValue_sysValue r, ?_⟩
    rw [← State.pcPlus_words1]
    exact s.putsScalar_advance _ _ _
  · have hkeep := s.eachLane_srdLane_keep reg r
    obtain ⟨honly, hsplit, hgrp, hwrote, hidle⟩ := s.laneOp_spec (words1 h false) [reg] (f := s.srdLane reg r)
      (by rw [hkeep]) (by rw [hkeep]) (by rw [hkeep]) (by rw [hkeep])
    obtain ⟨hv, ht, hd⟩ := Group.lanes_of_eq hgrp
    refine ⟨_, execSrd_lanes s h hr hreg, s.sysValue r, s.isSysValue_sysValue r, honly, ?_, ?_, fun q l hl => ?_,
      fun q d l hq hl => ?_, hwrote, hidle⟩
    · rw [← State.pcPlus_words1]; exact hsplit
    · rw [hv, ht]
      exact hgrp.trans (by rw [hkeep])
    · rw [Group.readV_congr hv, s.readV_eachLane_srdLane reg r q hl]
      cases r with
      | group | gang | band | span | grid => simp only [State.sysLane, ofNat_mod_eq_setWidth]
      | _ => rfl
    · rw [Group.readT_congr hd ht, s.readT_eachLane_srdLane hreg256 r hq d hl]
  · exact ⟨_, execSrd_denied s h hr (by simp), s.trapTaken_illegal (by decide) hd⟩
  · exact ⟨_, execSrd_denied s h hr fun _ => hreg, s.trapTaken_illegal (by decide) hd⟩

/-! ## SWR -/

/-- An access that R50 does not give is the access trap, once the vector register is below C. -/
theorem execSwr_denied {r : SysReg} {vx : Bool} {reg : Nat} (h : Option Nat) (hr : swrAllowed s.spl.sup vx r = false)
    (hreg : vx = true → reg < s.grp.decl.c) : execSwr vx reg r h s = .next (s.illegal 7) := by
  simp [execSwr, s.check_passes hreg, hr]

theorem execSwr_allowed {r : SysReg} {vx : Bool} {reg : Nat} (h : Option Nat) (hr : swrAllowed s.spl.sup vx r = true)
    (hreg : vx = true → reg < s.grp.decl.c) :
    execSwr vx reg r h s = .next (s.sysWrite r vx reg (words1 h false)) := by
  simp [execSwr, s.check_passes hreg, hr]

/-- The flags of the lanes of em take the new bits (R94). -/
theorem getLsbD_newFlags (old em bits : Word32) {l : Nat} (hl : l < 32) :
    (newFlags old em bits).getLsbD l = if em.getLsbD l then bits.getLsbD l else old.getLsbD l := by
  simp only [newFlags, BitVec.getLsbD_or, BitVec.getLsbD_and, BitVec.getLsbD_not, hl, decide_true, Bool.true_and]
  cases em.getLsbD l <;> simp

theorem getLsbD_maskUpTo (p : Nat → Bool) {n l : Nat} (hn : n ≤ 32) :
    (maskUpTo p n).getLsbD l = (decide (l < n) && p l) := by
  induction n with
  | zero => simp [maskUpTo]
  | succ n ih =>
    have hbit : (BitVec.twoPow 32 n).getLsbD l = decide (l = n) := by
      rw [BitVec.getLsbD_twoPow]
      simp [eq_comm, show n < 32 by omega]
    unfold maskUpTo
    by_cases hl : l = n
    · subst hl
      split
      next h => rw [BitVec.getLsbD_or, hbit, h]; simp
      next h => rw [ih (by omega)]; simp [h]
    · have hlt : l < n + 1 ↔ l < n := by omega
      split
      · rw [BitVec.getLsbD_or, hbit, ih (by omega)]; simp [hl, hlt]
      · rw [ih (by omega)]; simp [hlt]

theorem getLsbD_maskOf (p : Nat → Bool) {l : Nat} (hl : l < 32) : (maskOf p).getLsbD l = p l := by
  rw [maskOf, getLsbD_maskUpTo p (Nat.le_refl 32)]; simp [hl]

theorem State.getLsbD_flagBits_scalar (reg : Nat) {l : Nat} (hl : l < 32) :
    (s.flagBits false reg).getLsbD l = (s.grp.readS reg).getLsbD l := by
  simp [State.flagBits, hl]

theorem State.getLsbD_flagBits_lanes (reg : Nat) {l : Nat} (hl : l < 32) :
    (s.flagBits true reg).getLsbD l = (s.grp.readV reg l).getLsbD 0 := by
  rw [State.flagBits, if_pos rfl, getLsbD_maskOf _ hl]

theorem Group.tlost_of_eq {g h : Group} {x : Word32} {splits : Sparse Split}
    (e : g = { h with tlost := x, splits := splits }) : g = { h with tlost := g.tlost, splits := splits } ∧ g.tlost = x := by
  subst e; exact ⟨rfl, rfl⟩

theorem Group.edge_of_eq {g h : Group} {x : Word32} {splits : Sparse Split}
    (e : g = { h with edge := x, splits := splits }) : g = { h with edge := g.edge, splits := splits } ∧ g.edge = x := by
  subst e; exact ⟨rfl, rfl⟩

/-- SWR of TLOST: the flags of the lanes of em, and the PC. -/
theorem State.sysWrite_tlost (vx : Bool) (reg n : Nat) :
    let t := s.sysWrite .tlost vx reg n
    OnlyGroup s t ∧ SplitAt s t (s.pcPlus n) ∧
      t.grp = { s.grp with tlost := t.grp.tlost, splits := t.grp.splits } ∧
      t.grp.tlost = newFlags s.grp.tlost s.em (s.flagBits vx reg) := by
  obtain ⟨honly, hsplit, hgrp⟩ := s.setGrp_advance_spec
    (g := { s.grp with tlost := newFlags s.grp.tlost s.em (s.flagBits vx reg) }) rfl n
  exact ⟨honly, hsplit, Group.tlost_of_eq hgrp⟩

/-- SWR of EDGE, likewise. -/
theorem State.sysWrite_edge (vx : Bool) (reg n : Nat) :
    let t := s.sysWrite .edge vx reg n
    OnlyGroup s t ∧ SplitAt s t (s.pcPlus n) ∧
      t.grp = { s.grp with edge := t.grp.edge, splits := t.grp.splits } ∧
      t.grp.edge = newFlags s.grp.edge s.em (s.flagBits vx reg) := by
  obtain ⟨honly, hsplit, hgrp⟩ := s.setGrp_advance_spec
    (g := { s.grp with edge := newFlags s.grp.edge s.em (s.flagBits vx reg) }) rfl n
  exact ⟨honly, hsplit, Group.edge_of_eq hgrp⟩

/-- The change reaches the topmost trap record and no other entry. -/
theorem updTop_append (f : StackEntry → StackEntry) {above : List StackEntry} (ha : ∀ y ∈ above, y.kind ≠ .trap)
    {r : StackEntry} (hr : r.kind = .trap) (below : List StackEntry) :
    updTop f (above ++ r :: below) = above ++ f r :: below := by
  induction above with
  | nil => simp [updTop, hr]
  | cons y above ih =>
    have hy : y.kind ≠ .trap := ha y List.mem_cons_self
    rw [List.cons_append, updTop, if_neg hy, ih fun z hz => ha z (List.mem_cons_of_mem _ hz)]
    rfl

/-- FLTPC takes a PC, a multiple of 4 (R124). -/
theorem ofNat_div_mul_eq_and (x : Word64) : BitVec.ofNat 52 (x.toNat % 2 ^ 52 / 4 * 4) = x.setWidth 52 &&& ~~~3#52 := by
  apply BitVec.eq_of_getLsbD_eq
  intro i hi
  have h3 : (3#52).getLsbD i = !decide (2 ≤ i) := by
    rw [BitVec.getLsbD_ofNat, show 3 = 2 ^ 2 - 1 from rfl, Nat.testBit_two_pow_sub_one]
    by_cases h2 : 2 ≤ i
    · simp [h2, Nat.not_lt.2 h2]
    · simp [hi, h2, Nat.not_le.1 h2]
  rw [BitVec.getLsbD_and, BitVec.getLsbD_not, h3, BitVec.getLsbD_ofNat, BitVec.getLsbD_setWidth,
    show (4 : Nat) = 2 ^ 2 from rfl, Nat.testBit_mul_two_pow, Nat.testBit_div_two_pow, Nat.testBit_mod_two_pow]
  by_cases h2 : 2 ≤ i
  · simp [hi, h2, BitVec.getLsbD, Nat.sub_add_cancel h2]
  · simp [h2]

/-- The field of FLTADDR that is not RO after cause 0x48 (R260). -/
theorem ofNat_field_eq_and (x : Word64) : BitVec.ofNat 64 (field x.toNat 20 28 * 2 ^ 20) = x &&& 0xFFFFFFF00000#64 := by
  apply BitVec.eq_of_getLsbD_eq
  intro i hi
  have hmask : (0xFFFFFFF00000#64).getLsbD i = (decide (20 ≤ i) && decide (i - 20 < 28)) := by
    rw [BitVec.getLsbD_ofNat, show 0xFFFFFFF00000 = (2 ^ 28 - 1) * 2 ^ 20 by decide, Nat.testBit_mul_two_pow,
      Nat.testBit_two_pow_sub_one]
    simp [hi]
  rw [BitVec.getLsbD_and, hmask, BitVec.getLsbD_ofNat, field, Nat.testBit_mul_two_pow, Nat.testBit_mod_two_pow,
    Nat.testBit_div_two_pow]
  by_cases h20 : 20 ≤ i
  · simp [hi, h20, BitVec.getLsbD, Nat.sub_add_cancel h20, Bool.and_comm]
  · simp [h20]

theorem toNat_ushiftRight_59 (x : Word64) : (x >>> 59).toNat = x.toNat / 2 ^ 59 % 32 := by
  have := x.isLt
  rw [BitVec.toNat_ushiftRight, Nat.shiftRight_eq_div_pow]
  omega

theorem sysWrite_fltcause (reg n : Nat) : s.sysWrite .fltcause false reg n = (s.setGrp { s.grp with
    stack := updTop (fun e => { e with cause := (s.grp.readS reg).toNat % 2 ^ 16 }) s.grp.stack }).advance n := rfl

theorem sysWrite_fltpc (reg n : Nat) : s.sysWrite .fltpc false reg n = (s.setGrp { s.grp with
    stack := updTop (fun e => { e with pc := (s.grp.readS reg).setWidth 52 &&& ~~~3#52 }) s.grp.stack }).advance n := by
  rw [← ofNat_div_mul_eq_and]; rfl

/-- What SWR of FLTADDR does by the cause of the topmost trap record. -/
theorem sysWrite_fltaddr {e : StackEntry} (he : TopTrap s.grp e) (reg n : Nat) : s.sysWrite .fltaddr false reg n =
    if filesFault e.cause then (s.setGrp { s.grp with faultLane := (s.grp.readS reg >>> 59).toNat }).advance n
    else if e.cause = 0x48 then
      (s.setGrp { s.grp with faultWord := s.grp.readS reg &&& 0xFFFFFFF00000#64 }).advance n
    else s.advance n := by
  rw [toNat_ushiftRight_59, ← ofNat_field_eq_and, State.sysWrite, Group.topTrap_eq_some.2 he]

/-- At supervisor level a scalar SWR reaches the registers of the handler (R50). -/
theorem swrAllowed_handler {r : SysReg} (hr : r = .fltcause ∨ r = .fltpc ∨ r = .fltaddr) :
    swrAllowed true false r = true := by
  rcases hr with rfl | rfl | rfl <;> rfl

/-- Registers that SWR never takes (log 20). -/
theorem swrAllowed_readOnly (sup vx : Bool) {r : SysReg}
    (hr : r = .lane ∨ r = .group ∨ r = .gang ∨ r = .band ∨ r = .span ∨ r = .grid ∨ r = .split ∨ r = .ctxid ∨
      r = .partid ∨ r = .wsphase ∨ r = .clock ∨ r = .vtime) : swrAllowed sup vx r = false := by
  rcases hr with rfl | rfl | rfl | rfl | rfl | rfl | rfl | rfl | rfl | rfl | rfl | rfl <;> rfl

/-- By lane SWR takes the two flags alone (R94). -/
theorem swrAllowed_lanes (sup : Bool) {r : SysReg} (ht : r ≠ .tlost) (he : r ≠ .edge) : swrAllowed sup true r = false := by
  cases r with
  | tlost => exact absurd rfl ht
  | edge => exact absurd rfl he
  | accown | fltcause | fltaddr | fltpc => exact Bool.and_false sup
  | _ => rfl

/-- At user level SWR takes the two flags alone. -/
theorem swrAllowed_user (vx : Bool) {r : SysReg} (hr : r = .accown ∨ r = .fltcause ∨ r = .fltaddr ∨ r = .fltpc) :
    swrAllowed false vx r = false := by
  rcases hr with rfl | rfl | rfl | rfl <;> rfl

/-- SWR of TLOST and EDGE from a scalar or from the elements of a vector register (R94). -/
theorem swr_flags {vx : Bool} {reg : Nat} (h : Option Nat) (hreg : vx = true → reg < s.grp.decl.c) {bits : Nat → Bool}
    (hbits : ∀ l, l < 32 → (s.flagBits vx reg).getLsbD l = bits l) :
    Completes (.swr vx reg .tlost h) s (fun t => OnlyGroup s t ∧ SplitAt s t (nextPc s h false) ∧
      t.grp = { s.grp with tlost := t.grp.tlost, splits := t.grp.splits } ∧
      ∀ l, l < 32 → t.grp.tlost.getLsbD l = if s.em.getLsbD l then bits l else s.grp.tlost.getLsbD l) ∧
    Completes (.swr vx reg .edge h) s (fun t => OnlyGroup s t ∧ SplitAt s t (nextPc s h false) ∧
      t.grp = { s.grp with edge := t.grp.edge, splits := t.grp.splits } ∧
      ∀ l, l < 32 → t.grp.edge.getLsbD l = if s.em.getLsbD l then bits l else s.grp.edge.getLsbD l) := by
  rw [← State.pcPlus_words1]
  constructor
  · obtain ⟨honly, hsplit, hgrp, hflags⟩ := s.sysWrite_tlost vx reg (words1 h false)
    refine ⟨_, execSwr_allowed s h rfl hreg, honly, hsplit, hgrp, fun l hl => ?_⟩
    rw [hflags, getLsbD_newFlags _ _ _ hl, hbits l hl]
  · obtain ⟨honly, hsplit, hgrp, hflags⟩ := s.sysWrite_edge vx reg (words1 h false)
    refine ⟨_, execSwr_allowed s h rfl hreg, honly, hsplit, hgrp, fun l hl => ?_⟩
    rw [hflags, getLsbD_newFlags _ _ _ hl, hbits l hl]

/-- SWR by a handler of the registers of the topmost trap record (R124, R155). -/
theorem swr_handler (hsup : s.spl.sup = true) (reg : Nat) (h : Option Nat) {above below : List StackEntry} {r : StackEntry}
    (hstack : s.grp.stack = above ++ r :: below) (hr : r.kind = .trap) (ha : ∀ y ∈ above, y.kind ≠ .trap) :
    let next := nextPc s h false
    let g := s.grp
    let x := g.readS reg
    Completes (.swr false reg .fltcause h) s (fun t => OnlyGroup s t ∧ SplitAt s t next ∧
      t.grp = { g with splits := t.grp.splits, stack := above ++ { r with cause := x.toNat % 2 ^ 16 } :: below }) ∧
    Completes (.swr false reg .fltpc h) s (fun t => OnlyGroup s t ∧ SplitAt s t next ∧
      t.grp = { g with splits := t.grp.splits, stack := above ++ { r with pc := x.setWidth 52 &&& ~~~3#52 } :: below }) ∧
    ((r.cause = 0x24 ∨ 0x30 ≤ r.cause ∧ r.cause ≤ 0x33) → Completes (.swr false reg .fltaddr h) s (fun t =>
      OnlyGroup s t ∧ SplitAt s t next ∧
      t.grp = { g with splits := t.grp.splits, faultLane := (x >>> 59).toNat })) ∧
    (r.cause = 0x48 → Completes (.swr false reg .fltaddr h) s (fun t => OnlyGroup s t ∧ SplitAt s t next ∧
      t.grp = { g with splits := t.grp.splits, faultWord := x &&& 0xFFFFFFF00000#64 })) ∧
    (¬ (r.cause = 0x24 ∨ 0x30 ≤ r.cause ∧ r.cause ≤ 0x33 ∨ r.cause = 0x48) →
      Completes (.swr false reg .fltaddr h) s fun t => OnlyPc s t next) := by
  intro next g x
  have hnext : s.pcPlus (words1 h false) = next := s.pcPlus_words1 h false
  have hexec : ∀ q, q = SysReg.fltcause ∨ q = .fltpc ∨ q = .fltaddr →
      exec (.swr false reg q h) s = .next (s.sysWrite q false reg (words1 h false)) := fun q hq =>
    execSwr_allowed s h (by rw [hsup]; exact swrAllowed_handler hq) (by simp)
  have htop : TopTrap s.grp r := ⟨above, below, hstack, hr, ha⟩
  have haddr := sysWrite_fltaddr s htop reg (words1 h false)
  rw [← hnext]
  refine ⟨⟨_, hexec _ (by simp), ?_⟩, ⟨_, hexec _ (by simp), ?_⟩, fun hc => ⟨_, hexec _ (by simp), ?_⟩,
    fun hc => ⟨_, hexec _ (by simp), ?_⟩, fun hc => ⟨_, hexec _ (by simp), ?_⟩⟩
  · rw [sysWrite_fltcause, hstack, updTop_append _ ha hr]
    exact s.setGrp_advance_spec (by rfl) _
  · rw [sysWrite_fltpc, hstack, updTop_append _ ha hr]
    exact s.setGrp_advance_spec (by rfl) _
  · rw [haddr, if_pos ((filesFault_iff _).2 hc)]
    exact s.setGrp_advance_spec (by rfl) _
  · rw [haddr, if_neg (by rw [filesFault_iff]; omega), if_pos hc]
    exact s.setGrp_advance_spec (by rfl) _
  · rw [haddr, if_neg (by rw [filesFault_iff]; omega), if_neg (by omega)]
    exact s.onlyPc_advance _

/-- SWR (R155): flags, the registers of the handler, and the access trap. -/
theorem systemWrites : Claims.SystemWrites := by
  intro s reg h
  obtain ⟨htlost, hedge⟩ := swr_flags s (vx := false) (reg := reg) h (by simp) fun l hl => s.getLsbD_flagBits_scalar reg hl
  refine ⟨htlost, hedge, fun hreg => ?_, fun hsup above r below hstack hr ha => swr_handler s hsup reg h hstack hr ha,
    fun hd => ⟨fun r hr => ?_, fun hsup r hr => ?_, fun hreg r ht he => ?_⟩⟩
  · exact swr_flags s h (fun _ => hreg) fun l hl => s.getLsbD_flagBits_lanes reg hl
  · exact ⟨_, execSwr_denied s h (swrAllowed_readOnly _ _ hr) (by simp), s.trapTaken_illegal (by decide) hd⟩
  · exact ⟨_, execSwr_denied s h (by rw [hsup]; exact swrAllowed_user _ hr) (by simp), s.trapTaken_illegal (by decide) hd⟩
  · exact ⟨_, execSwr_denied s h (swrAllowed_lanes _ ht he) fun _ => hreg, s.trapTaken_illegal (by decide) hd⟩

/-- Settles O42: what SRD reads is the concatenation of the register's fields, what SWR writes is a change of one field of the
group, and every other access is the trap of the whole split with detail 7. -/
theorem systemRegisters : Obligations.SystemRegisters := ⟨systemReads, systemWrites⟩

end Sys2Proof.Machine
end

section
/-!
PROOF. SPAWN (R132, R153): which refusal comes first, what the new group is, and what the spawning group keeps.
-/

namespace Sys2Proof.Machine

open Sys2Proof.Claims

/-! ## The registers that a spawned group receives (R132) -/

/-- The first n registers that a spawned group receives in lane l. -/
def Group.spawnRegs (src : Group) (va l n : Nat) (g : Group) : Group :=
  (List.range n).foldl
    (fun g i => (g.writeV i l (src.readV (va + i) l)).giveTan i l fun d => src.readT (va + i) d l) g

theorem Group.spawnLane_eq (src : Group) (va l : Nat) (g : Group) : src.spawnLane va l g = src.spawnRegs va l 8 g := rfl

/-- A group without vector registers, tangents and TLOST. -/
def Group.butLanes (g : Group) : Group := { g with v := [], tan := [], tlost := 0 }

theorem Group.eq_of_butLanes {g g' : Group} (h : g.butLanes = g'.butLanes) :
    g = { g' with v := g.v, tan := g.tan, tlost := g.tlost } :=
  congrArg (fun x : Group => { x with v := g.v, tan := g.tan, tlost := g.tlost }) h

section SpawnRegs
variable (src g : Group) (va l n : Nat)

theorem Group.spawnRegs_succ : src.spawnRegs va l (n + 1) g =
    ((src.spawnRegs va l n g).writeV n l (src.readV (va + n) l)).giveTan n l fun d => src.readT (va + n) d l := by
  simp [Group.spawnRegs, List.range_succ, List.foldl_append]

theorem Group.butLanes_spawnRegs : (src.spawnRegs va l n g).butLanes = g.butLanes := by
  induction n with
  | zero => rfl
  | succ n ih => rw [Group.spawnRegs_succ, Group.giveTan_keep]; exact ih

@[simp] theorem Group.spawnRegs_decl : (src.spawnRegs va l n g).decl = g.decl := by
  have hdecl := congrArg Group.decl (src.butLanes_spawnRegs g va l n)
  exact hdecl

theorem Group.readV_spawnRegs {l k : Nat} (hl : l < 32) (hk : k < 32) (q : Nat) : (src.spawnRegs va l n g).readV q k =
    if k = l then (if q < n then src.readV (va + q) k else g.readV q k) else g.readV q k := by
  induction n with
  | zero => simp [Group.spawnRegs]
  | succ n ih =>
    rw [Group.spawnRegs_succ, Group.readV_giveTan, Group.readV_writeV _ _ hl hk, ih]
    by_cases hkl : k = l
    · subst hkl
      by_cases hq : q = n
      · subst hq; simp
      · have hlt : q < n + 1 ↔ q < n := by omega
        simp [hq, hlt]
    · simp [hkl]

/-- Tangents go where the new group's register is in the dual range. -/
theorem Group.readT_spawnRegs {l k q : Nat} (hl : l < 32) (hk : k < 32) (hq : q < 256) {n : Nat} (hn : n ≤ 256) (c : Nat) :
    (src.spawnRegs va l n g).readT q c k =
      if k = l then (if q < n ∧ q < g.decl.n ∧ c < g.decl.d then src.readT (va + q) c k else g.readT q c k)
      else g.readT q c k := by
  induction n with
  | zero => simp [Group.spawnRegs]
  | succ n ih =>
    rw [Group.spawnRegs_succ, Group.readT_giveTan _ _ (by omega) hl hq hk, Group.readT_writeV, ih (by omega)]
    by_cases hkl : k = l
    · subst hkl
      by_cases hqn : q = n
      · subst hqn
        simp [Group.dual, and_comm]
      · have hlt : q < n + 1 ↔ q < n := by omega
        simp [hqn, hlt]
    · simp [hkl]

/-- A tangent that is dropped sets TLOST in its lane (R92). -/
theorem Group.tlost_spawnRegs {k : Nat} (hk : k < 32) : (src.spawnRegs va l n g).tlost.getLsbD k =
    if k = l then g.tlost.getLsbD k || (List.range n).any fun r => decide (g.decl.n ≤ r) &&
      (List.range g.decl.d).any fun d => !tanZero g.decl.bf16 (src.readT (va + r) d k)
    else g.tlost.getLsbD k := by
  induction n with
  | zero => simp [Group.spawnRegs]
  | succ n ih =>
    rw [Group.spawnRegs_succ, Group.tlost_giveTan _ _ _ _ hk, Group.writeV_tlost, ih]
    by_cases hkl : k = l
    · subst hkl
      have hdual : (!decide (n < g.decl.n)) = decide (g.decl.n ≤ n) := by
        rw [← decide_not]; exact decide_eq_decide.2 Nat.not_lt
      simp [List.range_succ, Group.dual, Bool.or_assoc, hdual]
    · simp [hkl]

end SpawnRegs

variable (s : State)

/-! ## The new group -/

/-- The new group before it receives registers (R132, log 64). -/
def State.spawnBase (entry : Nat) : Group :=
  { newGroup s.grp.ctx s.grp.grid s.grp.gang s.grp.prio s.grp.decl
      { s.grp.pos with groupIdx := (s.gang s.grp.gang).nextIdx, gridIdx := 0xFFFF } (s.pc + BitVec.ofNat 52 entry) s.em with
    preempt := s.grp.preempt }

/-- What lane l of the spawning split gives to the new group. -/
def State.spawnWork (va : Nat) (_ : Group) (l : Nat) (acc : Group) : Group := s.grp.spawnLane va l acc

theorem State.spawnWork_eq (va : Nat) (g : Group) (l : Nat) (acc : Group) :
    s.spawnWork va g l acc = s.grp.spawnRegs va l 8 acc := s.grp.spawnLane_eq va l acc

theorem State.spawnWork_decl (va : Nat) (g : Group) (l : Nat) (acc : Group) : (s.spawnWork va g l acc).decl = acc.decl := by
  rw [State.spawnWork_eq, Group.spawnRegs_decl]

/-- The new group: every lane of em gives it registers. -/
def State.spawned (va entry : Nat) : Group := (s.spawnBase entry).eachLane s.em (s.spawnWork va)

theorem State.spawned_eq (va entry : Nat) : s.spawned va entry = { s.spawnBase entry with
    v := (s.spawned va entry).v, tan := (s.spawned va entry).tan, tlost := (s.spawned va entry).tlost } :=
  Group.eq_of_butLanes (Group.eachLane_keep _ _ _ Group.butLanes fun l acc => s.grp.butLanes_spawnRegs acc va l 8)

theorem State.readV_spawned (va entry r : Nat) {l : Nat} (hl : l < 32) : (s.spawned va entry).readV r l =
    if r < 8 ∧ s.em.getLsbD l = true then s.grp.readV (va + r) l else 0 := by
  have hrule := (s.spawnBase entry).eachLane_rule s.em (s.spawnWork va) (fun k g => g.readV r k)
    (fun _ k x => if r < 8 then s.grp.readV (va + r) k else x) (s.spawnWork_decl va _)
    (fun l k acc hl hk => s.grp.readV_spawnRegs acc va 8 hl hk r) hl
  have hbase : (s.spawnBase entry).readV r l = 0 := rfl
  refine hrule.trans ?_
  rw [hbase]
  by_cases hem : s.em.getLsbD l = true <;> simp [hem]

theorem State.readT_spawned (va entry : Nat) {r d l : Nat} (hr : r < 8) (hd : d < s.grp.decl.d) (hl : l < 32)
    (hem : s.em.getLsbD l = true) (hn : r < s.grp.decl.n) : (s.spawned va entry).readT r d l = s.grp.readT (va + r) d l := by
  have hrule := (s.spawnBase entry).eachLane_rule s.em (s.spawnWork va) (fun k g => g.readT r d k)
    (fun c k x => if r < 8 ∧ r < c.n ∧ d < c.d then s.grp.readT (va + r) d k else x)
    (s.spawnWork_decl va _)
    (fun l k acc hl hk => s.grp.readT_spawnRegs acc va hl hk (by omega) (by omega) d) hl
  exact hrule.trans (by rw [if_pos hem]; exact if_pos ⟨hr, hn, hd⟩)

theorem State.tlost_spawned (va entry : Nat) {l : Nat} (hl : l < 32) : (s.spawned va entry).tlost.getLsbD l =
    (s.em.getLsbD l && (List.range 8).any fun r => decide (s.grp.decl.n ≤ r) &&
      (List.range s.grp.decl.d).any fun d => !tanZero s.grp.decl.bf16 (s.grp.readT (va + r) d l)) := by
  have hrule := (s.spawnBase entry).eachLane_rule s.em (s.spawnWork va) (fun k g => g.tlost.getLsbD k)
    (fun c k x => x || (List.range 8).any fun r => decide (c.n ≤ r) &&
      (List.range c.d).any fun d => !tanZero c.bf16 (s.grp.readT (va + r) d k))
    (s.spawnWork_decl va _) (fun l k acc hl hk => s.grp.tlost_spawnRegs acc va l 8 hk) hl
  have hbase : (s.spawnBase entry).tlost.getLsbD l = false := BitVec.getLsbD_zero
  refine hrule.trans ?_
  rw [hbase]
  cases s.em.getLsbD l
  · rfl
  · exact Bool.false_or _

/-! ## The machine after SPAWN -/

/-- The machine with the new group in context gid and the gang's next GROUP INDEX counted. -/
def State.withSpawned (va entry gid : Nat) : State :=
  (s.setGroup gid (s.spawned va entry)).setGang s.grp.gang
    { s.gang s.grp.gang with nextIdx := (s.gang s.grp.gang).nextIdx + 1 }

/-- The effect of SPAWN on the spawning group is irrevocable (R334). -/
def State.spawnPut (va entry gid sd n : Nat) : State :=
  (((s.withSpawned va entry gid).setGrp (s.withSpawned va entry gid).grp.irrevocable).putS sd
    (BitVec.ofNat 64 (s.gang s.grp.gang).nextIdx)).advance n

theorem State.group_withSpawned (va entry gid j : Nat) :
    (s.withSpawned va entry gid).group j = if j = gid then s.spawned va entry else s.group j :=
  s.group_setGroup gid _ j

theorem State.gang_withSpawned (va entry gid j : Nat) : (s.withSpawned va entry gid).gang j =
    if j = s.grp.gang then { s.gang s.grp.gang with nextIdx := (s.gang s.grp.gang).nextIdx + 1 } else s.gang j :=
  (s.setGroup gid (s.spawned va entry)).gang_setGang s.grp.gang _ j

theorem gangs_eq_of_onlyGroup {u t : State} (h : OnlyGroup u t) : t.gangs = u.gangs := by rw [h.1]

/-- A change of one group after a change of groups and gangs. -/
theorem groups_gangs_of_onlyGroup {s u t : State} (h : OnlyGroup u t)
    (hu : u = { s with groups := u.groups, gangs := u.gangs }) : t = { s with groups := t.groups, gangs := t.gangs } := by
  rw [gangs_eq_of_onlyGroup h]
  exact h.1.trans (by rw [hu])

section SpawnPut
variable {gid : Nat} (va entry sd n : Nat)

/-- The spawning group stands in another context. -/
theorem State.grp_withSpawned (hgid : gid ≠ s.cur.gid) : (s.withSpawned va entry gid).grp = s.grp := by
  change (s.withSpawned va entry gid).group s.cur.gid = s.group s.cur.gid
  rw [State.group_withSpawned, if_neg (Ne.symm hgid)]

/-- The spawning group and its split, before SD is written. -/
theorem State.putsScalar_spawnPut (hgid : gid ≠ s.cur.gid) :
    let u := (s.withSpawned va entry gid).setGrp s.grp.irrevocable
    PutsScalar u (s.spawnPut va entry gid sd n) sd (BitVec.ofNat 64 (s.gang s.grp.gang).nextIdx) (s.pcPlus n) ∧
      u.grp = s.grp.irrevocable ∧ u.spl = s.spl := by
  intro u
  have hgrp : u.grp = s.grp.irrevocable := State.grp_setGrp _ _
  have hspl : u.spl = s.spl := by
    rw [State.spl, hgrp]; rfl
  have hpc : u.pcPlus n = s.pcPlus n := by rw [State.pcPlus, State.pcPlus, State.pc, State.pc, hspl]
  refine ⟨?_, hgrp, hspl⟩
  rw [← hpc, State.spawnPut, s.grp_withSpawned va entry hgid]
  exact u.putsScalar_advance sd _ n

/-- Only groups and gangs change. -/
theorem State.spawnPut_only (hgid : gid ≠ s.cur.gid) : s.spawnPut va entry gid sd n =
    { s with groups := (s.spawnPut va entry gid sd n).groups, gangs := (s.spawnPut va entry gid sd n).gangs } := by
  obtain ⟨⟨honly, -⟩, -⟩ := s.putsScalar_spawnPut va entry sd n hgid
  exact groups_gangs_of_onlyGroup honly rfl

theorem State.gang_spawnPut (hgid : gid ≠ s.cur.gid) (j : Nat) : (s.spawnPut va entry gid sd n).gang j =
    if j = s.grp.gang then { s.gang s.grp.gang with nextIdx := (s.gang s.grp.gang).nextIdx + 1 } else s.gang j := by
  obtain ⟨⟨honly, -⟩, -⟩ := s.putsScalar_spawnPut va entry sd n hgid
  rw [State.gang, gangs_eq_of_onlyGroup honly, State.setGrp_gangs]
  exact s.gang_withSpawned va entry gid j

/-- No group but the spawning one and the new one changes; the new one stands as it was made. -/
theorem State.group_spawnPut (hgid : gid ≠ s.cur.gid) {j : Nat} (hj : j ≠ s.cur.gid) :
    (s.spawnPut va entry gid sd n).group j = if j = gid then s.spawned va entry else s.group j := by
  obtain ⟨⟨⟨-, hothers⟩, -⟩, -⟩ := s.putsScalar_spawnPut va entry sd n hgid
  rw [hothers j hj, State.group_setGrp, ← State.group_withSpawned]
  exact if_neg hj

/-- What the spawning group keeps: everything but SD, rewind-allowed and its split's PC. -/
theorem State.spawner_spawnPut (hgid : gid ≠ s.cur.gid) :
    let t := s.spawnPut va entry gid sd n
    SplitAt s t (s.pcPlus n) ∧ t.grp = { s.grp with s := t.grp.s, splits := t.grp.splits, rewind := false } ∧
      ∀ r, t.grp.readS r =
        if r = sd ∧ sd ≠ 0 then BitVec.ofNat 64 (s.gang s.grp.gang).nextIdx else s.grp.readS r := by
  intro t
  obtain ⟨⟨-, ⟨hspl, hsplits⟩, hkeep, hread, hrewind⟩, hgrp, huspl⟩ := s.putsScalar_spawnPut va entry sd n hgid
  refine ⟨⟨by rw [hspl, huspl], fun e he => ?_⟩, ?_, fun r => ?_⟩
  · rw [hsplits e he, hgrp]; rfl
  · have hno : t.grp.rewind = false := by
      rw [hrewind, hgrp]; rfl
    rw [hgrp] at hkeep
    rw [← hno]
    exact hkeep
  · rw [hread r, hgrp]; rfl

end SpawnPut

/-! ## The order of the causes -/

/-- The lowest number below n that passes a test stands first among those that do. -/
theorem filter_range_eq_cons {p : Nat → Bool} {n k : Nat} (hk : k < n) (hp : p k = true)
    (hlow : ∀ j, j < k → p j = false) : ∃ rest, (List.range n).filter p = k :: rest := by
  induction n with
  | zero => omega
  | succ n ih =>
    rw [List.range_succ, List.filter_append]
    by_cases hkn : k = n
    · subst hkn
      have hnone : (List.range k).filter p = [] := List.filter_eq_nil_iff.2 fun j hj => by simp [hlow j (List.mem_range.1 hj)]
      exact ⟨[], by simp [hnone, hp]⟩
    · obtain ⟨rest, hrest⟩ := ih (by omega)
      exact ⟨_, by rw [hrest]; rfl⟩

theorem State.freeContexts_eq_cons {core k : Nat} (hk : k < 64) (hfree : (s.group (64 * core + k)).life = .free)
    (hlow : ∀ j, j < k → ¬ (s.group (64 * core + j)).life = .free) : ∃ rest, s.freeContexts core = k :: rest :=
  filter_range_eq_cons hk (by simp [hfree]) fun j hj => by simp [hlow j hj]

theorem State.freeContexts_eq_nil {core : Nat} (h : ∀ k, k < 64 → ¬ (s.group (64 * core + k)).life = .free) :
    s.freeContexts core = [] :=
  List.filter_eq_nil_iff.2 fun k hk => by simp [h k (List.mem_range.1 hk)]

/-- At user level with a lane, in this order: too many groups in the gang, no free context, no room in the pools. -/
theorem State.spawnRefused_user (hsup : s.spl.sup = false) (hem : s.em ≠ 0) : s.spawnRefused =
    if 16 ≤ (s.gangGroups s.grp.gang).length then some (-3)
    else if s.freeContexts (s.cur.gid / 64) = [] then some (-1)
    else if s.poolFits (s.cur.gid / 64) 1 s.grp.decl = false then some (-2)
    else none := by
  simp only [State.spawnRefused, hsup, Bool.false_eq_true, if_false, if_neg hem, coreOf, Bool.not_eq_true']

section Exec
variable {va : Nat} (sd entry : Nat) (h : Option Nat)

theorem State.fits_span (hfit : va + 7 < s.grp.decl.c) : s.fits (span va 8) = true := by
  simp only [State.fits, span, List.all_map, List.all_eq_true, List.mem_range, Function.comp_apply, decide_eq_true_eq]
  omega

/-- A refusal writes its code into SD and goes on. -/
theorem execSpawn_refused (hva : va ≤ 248) (hfit : va + 7 < s.grp.decl.c) {c : Int} (hc : s.spawnRefused = some c) :
    Completes (.spawn sd va entry h) s fun t => PutsScalar s t sd (BitVec.ofInt 64 c) (nextPc s h true) := by
  have hexec : execSpawn sd va entry h s = .next ((s.putS sd (BitVec.ofInt 64 c)).advance (words1 h true)) := by
    simp only [execSpawn, if_neg (Nat.not_lt.2 hva), s.fits_span hfit, hc]
    rfl
  refine ⟨_, hexec, ?_⟩
  rw [← State.pcPlus_words1]
  exact s.putsScalar_advance _ _ _

theorem execSpawn_done (hva : va ≤ 248) (hfit : va + 7 < s.grp.decl.c) (hc : s.spawnRefused = none) {k : Nat}
    {rest : List Nat} (hk : s.freeContexts (s.cur.gid / 64) = k :: rest) : execSpawn sd va entry h s =
      .next (s.spawnPut va entry (64 * (s.cur.gid / 64) + k) sd (words1 h true)) := by
  simp only [execSpawn, if_neg (Nat.not_lt.2 hva), s.fits_span hfit, hc, coreOf, hk]
  rfl

end Exec

/-- Settles O17: the causes are tried in the order of R132, and where none holds the new group stands in the lowest free context,
which is not the spawning group's, because that is not free. -/
theorem spawns : Obligations.Spawns := by
  unfold Obligations.Spawns
  intro s sd va entry h
  dsimp only
  intro hva hfit hlife
  have refused := fun {c : Int} => execSpawn_refused s sd entry h hva hfit (c := c)
  refine ⟨fun hsup => refused ?_, fun hsup hem => refused ?_, fun hsup hem hheld => refused ?_,
    fun hsup hem hheld hfull => refused ?_, fun hsup hem hheld k hk hfree hlow => ?_⟩
  · simp [State.spawnRefused, hsup]
  · simp [State.spawnRefused, hsup, hem]
  · change 16 ≤ (s.gangGroups s.grp.gang).length at hheld
    rw [s.spawnRefused_user hsup hem, if_pos hheld]
  · change (s.gangGroups s.grp.gang).length < 16 at hheld
    rw [s.spawnRefused_user hsup hem, if_neg (Nat.not_le.2 hheld), if_pos (s.freeContexts_eq_nil hfull)]
  · change (s.gangGroups s.grp.gang).length < 16 at hheld
    obtain ⟨rest, hrest⟩ := s.freeContexts_eq_cons hk hfree hlow
    have hsome : s.freeContexts (s.cur.gid / 64) ≠ [] := by simp [hrest]
    refine ⟨fun hpool => refused ?_, fun hpool => ?_⟩
    · rw [s.spawnRefused_user hsup hem, if_neg (Nat.not_le.2 hheld), if_neg hsome, if_pos hpool]
    · have hnone : s.spawnRefused = none := by
        rw [s.spawnRefused_user hsup hem, if_neg (Nat.not_le.2 hheld), if_neg hsome, if_neg (by simp [hpool])]
      have hgid : 64 * (s.cur.gid / 64) + k ≠ s.cur.gid := fun e => hlife (by rw [e] at hfree; exact hfree)
      have hnew := s.group_spawnPut va entry sd (words1 h true) hgid hgid
      rw [if_pos rfl] at hnew
      obtain ⟨hsplit, hkeep, hread⟩ := s.spawner_spawnPut va entry sd (words1 h true) hgid
      refine ⟨_, execSpawn_done s sd entry h hva hfit hnone hrest, ?_⟩
      dsimp only
      rw [hnew, ← State.pcPlus_words1]
      refine ⟨s.spawnPut_only va entry sd _ hgid, s.gang_spawnPut va entry sd _ hgid, fun j hj hjk => ?_, hsplit, hkeep,
        hread, s.spawned_eq va entry,
        fun r l hl => s.readV_spawned va entry r hl,
        fun r d l hr hd hl hem hn => s.readT_spawned va entry hr hd hl hem hn, fun l hl => s.tlost_spawned va entry hl⟩
      rw [s.group_spawnPut va entry sd _ hgid hj, if_neg hjk]

end Sys2Proof.Machine
end

section
/-!
PROOF. What a lane access neither reads nor, but for its own lanes' work, writes: the control part of its group, which a trap
changes. An access by fewer lanes of a split therefore does the same to everything else.
-/

namespace Sys2Proof.Machine

open Sys2Proof.Claims

/-! ## The control part of a group -/

/-- The fields of a group that a lane access leaves to the trap that may follow it. -/
structure Control where
  splits : Sparse Split
  stack : List StackEntry
  faults : Sparse LaneFault
  ctx : Nat

def Group.control (g : Group) : Control := ⟨g.splits, g.stack, g.faults, g.ctx⟩

/-- The group with another control part. -/
def Group.withControl (g : Group) (v : Control) : Group :=
  { g with splits := v.splits, stack := v.stack, faults := v.faults, ctx := v.ctx }

@[simp] theorem Group.control_withControl (g : Group) (v : Control) : (g.withControl v).control = v := rfl

section WithControl
variable (g : Group) (v : Control)

/-! Reads of lanes, of declarations and of addresses do not see the control part. -/

@[simp] theorem Group.withControl_gang : (g.withControl v).gang = g.gang := rfl
@[simp] theorem Group.elem_withControl (ty : Ty) (r l : Nat) : (g.withControl v).elem ty r l = g.elem ty r l := rfl
@[simp] theorem Group.laneAddr_withControl (a : Addr) : (g.withControl v).laneAddr a = g.laneAddr a := rfl
@[simp] theorem Group.touched_withControl : (g.withControl v).touched = g.touched := rfl
@[simp] theorem Gang.storeLanes_withControl (y : Gang) : y.storeLanes (g.withControl v) = y.storeLanes g := rfl
@[simp] theorem State.storedTan_withControl (s : State) : s.storedTan (g.withControl v) = s.storedTan g := rfl

/-! Writes of lanes, of flags and of orders commute with a change of the control part. -/

@[simp] theorem Group.irrevocable_withControl : (g.withControl v).irrevocable = g.irrevocable.withControl v := rfl

@[simp] theorem Group.deliver_withControl (clock lat : Nat) (ds : List RegId) :
    (g.withControl v).deliver clock lat ds = (g.deliver clock lat ds).withControl v := rfl

@[simp] theorem Group.tlostIf_withControl (b : Bool) (l : Nat) :
    (g.withControl v).tlostIf b l = (g.tlostIf b l).withControl v := by cases b <;> rfl

@[simp] theorem Group.writeT_withControl (r d l : Nat) (x : Word32) :
    (g.withControl v).writeT r d l x = (g.writeT r d l x).withControl v := by
  unfold Group.writeT
  rw [show (g.withControl v).dual r = g.dual r from rfl]
  split <;> rfl

@[simp] theorem Group.putElem_withControl (ty : Ty) (r l x : Nat) :
    (g.withControl v).putElem ty r l x = (g.putElem ty r l x).withControl v := by
  unfold Group.putElem; split <;> rfl

@[simp] theorem Group.noteWrite_withControl (r : RegId) :
    (g.withControl v).noteWrite r = (g.noteWrite r).withControl v := by
  rw [Group.noteWrite_keep (g.withControl v), Group.noteWrite_keep g, Group.noteWrite_rewind, Group.noteWrite_rewind]
  rfl

theorem Group.joinHorizons_withControl : (g.withControl v).joinHorizons = g.joinHorizons.withControl v := by
  simp only [Group.joinHorizons, Group.laneHorizon, Group.withControl]

@[simp] theorem Group.joinFor_withControl (o : MemOrd) (sc : Scope) :
    (g.withControl v).joinFor o sc = (g.joinFor o sc).withControl v := by
  unfold Group.joinFor
  split
  · exact g.joinHorizons_withControl v
  · rfl

@[simp] theorem Group.critStep_withControl (clock : Nat) (o : MemOrd) (crit : Bool) :
    (g.withControl v).critStep clock o crit = (g.critStep clock o crit).withControl v := by
  unfold Group.critStep
  cases crit with
  | false => rfl
  | true => cases o <;> rfl

/-- Work over a list commutes with a change of the control part where each step does. -/
theorem Group.foldl_withControl {α : Type} {f f' : Group → α → Group}
    (h : ∀ g x, f' (g.withControl v) x = (f g x).withControl v)
    (l : List α) : l.foldl f' (g.withControl v) = (l.foldl f g).withControl v :=
  List.foldl_hom (fun g => Group.withControl g v) (fun g x => h g x)

@[simp] theorem Group.noteAll_withControl (rs : List RegId) : (g.withControl v).noteAll rs = (g.noteAll rs).withControl v :=
  g.foldl_withControl v (fun g r => g.noteWrite_withControl v r) rs

theorem Group.writeSlots_withControl (r l : Nat) (t : Nat → Word32) (n : Nat) :
    (g.withControl v).writeSlots r l t n = (g.writeSlots r l t n).withControl v :=
  g.foldl_withControl v (fun g d => g.writeT_withControl v r d l (t d)) _

@[simp] theorem Group.zeroTan_withControl (rs : List Nat) (l : Nat) :
    (g.withControl v).zeroTan rs l = (g.zeroTan rs l).withControl v :=
  g.foldl_withControl v (fun g r => g.writeSlots_withControl v r l (fun _ => 0) g.decl.d) rs

@[simp] theorem Group.giveTan_withControl (r l : Nat) (t : Nat → Word32) :
    (g.withControl v).giveTan r l t = (g.giveTan r l t).withControl v := by
  unfold Group.giveTan
  rw [show (g.withControl v).dual r = g.dual r from rfl]
  split
  · exact g.writeSlots_withControl v r l t g.decl.d
  · exact g.tlostIf_withControl v _ l

@[simp] theorem Group.dropData_withControl (rs : List Nat) (ok : Word32) :
    (g.withControl v).dropData rs ok = (g.dropData rs ok).withControl v :=
  g.foldl_withControl v (fun h l => h.tlostIf_withControl v _ l) _

end WithControl

/-! ## States that differ in the control part of the issuing group -/

theorem onlyGroup_symm {s t : State} (h : OnlyGroup s t) : OnlyGroup t s := by
  obtain ⟨hst, hk⟩ := h
  have hcur : t.cur = s.cur := by rw [hst]
  exact ⟨by rw [hst], fun k hne => (hk k (by rwa [hcur] at hne)).symm⟩

theorem onlyGroup_trans {s t u : State} (h : OnlyGroup s t) (h' : OnlyGroup t u) : OnlyGroup s u := by
  obtain ⟨hst, hk⟩ := h
  obtain ⟨htu, hk'⟩ := h'
  have hcur : t.cur = s.cur := by rw [hst]
  exact ⟨htu.trans (by rw [hst]), fun k hne => (hk' k (by rwa [hcur])).trans (hk k hne)⟩

theorem onlyGroup_refl (s : State) : OnlyGroup s s := ⟨rfl, fun _ _ => rfl⟩

/-- The second state is the first with the control part v of the issuing group. -/
structure SameBut (v : Control) (s t : State) : Prop where
  only : OnlyGroup s t
  grp : t.grp = s.grp.withControl v

theorem SameBut.refl (s : State) : SameBut s.grp.control s s := ⟨onlyGroup_refl s, rfl⟩

section SameBut
variable {v : Control} {s t : State} (h : SameBut v s t)
include h

theorem SameBut.cur : t.cur = s.cur := by rw [h.only.1]
theorem SameBut.clock : t.clock = s.clock := by rw [h.only.1]
theorem SameBut.fresh : t.fresh = s.fresh := by rw [h.only.1]
theorem SameBut.gangs : t.gangs = s.gangs := by rw [h.only.1]
theorem SameBut.grids : t.grids = s.grids := by rw [h.only.1]
theorem SameBut.dies : t.dies = s.dies := by rw [h.only.1]
theorem SameBut.contexts : t.contexts = s.contexts := by rw [h.only.1]
theorem SameBut.gang (k : Nat) : t.gang k = s.gang k := by simp only [State.gang, h.gangs]
theorem SameBut.readSpad (k a n : Nat) : t.readSpad k a n = s.readSpad k a n := by simp only [State.readSpad, h.gang]
theorem SameBut.storedTan (g : Group) (a d : Nat) : t.storedTan g a d = s.storedTan g a d := by
  simp only [State.storedTan, h.readSpad]
theorem SameBut.storeOrder (m : Word32) : t.storeOrder m = s.storeOrder m := by simp only [State.storeOrder, h.fresh]
theorem SameBut.grid (k : Nat) : t.grid k = s.grid k := by simp only [State.grid, h.grids]
theorem SameBut.readWs (map : List WsEntry) (die a n : Nat) : t.readWs map die a n = s.readWs map die a n := by
  unfold State.readWs State.die; rw [h.dies]

/-- A write of the issuing group. -/
theorem SameBut.setGrp (g : Group) : SameBut v (s.setGrp g) (t.setGrp (g.withControl v)) := by
  refine ⟨onlyGroup_trans (onlyGroup_trans (onlyGroup_symm (s.onlyGroup_setGrp g)) h.only) (t.onlyGroup_setGrp _), ?_⟩
  rw [State.grp_setGrp, State.grp_setGrp]

/-- A write of a gang. -/
theorem SameBut.setGang (k : Nat) (y : Gang) : SameBut v (s.setGang k y) (t.setGang k y) := by
  obtain ⟨⟨hst, hk⟩, hg⟩ := h
  generalize t.groups = gs at hst
  subst hst
  exact ⟨⟨rfl, hk⟩, hg⟩

end SameBut

/-- What a lane access does in its lanes: the same whatever the control part of its group, which it leaves as it is. -/
structure LaneWork (work : State → State) : Prop where
  blind : ∀ {v : Control} {s t : State}, SameBut v s t → SameBut v (work s) (work t)
  cur : ∀ s, (work s).cur = s.cur
  contexts : ∀ s, (work s).contexts = s.contexts

/-- A state agrees with itself, and so the work leaves the control part. -/
theorem LaneWork.control {work : State → State} (h : LaneWork work) (s : State) : (work s).grp.control = s.grp.control := by
  rw [(h.blind (SameBut.refl s)).grp, Group.control_withControl]

end Sys2Proof.Machine
end

section
/-!
PROOF. Traps that file lane faults (R121, R353), and what a lane access does whose lanes fail in part or all (R33, R188).
-/

namespace Sys2Proof.Machine

open Sys2Proof.Claims

/-! ## The lane fault file -/

/-- The fault file after entries have been filed one after another. -/
def fileAll (entries : List (Nat × LaneFault)) (m : Sparse LaneFault) : Sparse LaneFault :=
  entries.foldl (fun m p => Sparse.set LaneFault.zero m p.1 p.2) m

/-- Where lane l's entry depends on l alone, each lane has its own entry, or what it had where there is none. -/
theorem get_fileAll (f : Nat → Option LaneFault) (ls : List Nat) (m : Sparse LaneFault) (j : Nat) :
    Sparse.get LaneFault.zero (fileAll (ls.filterMap fun l => (f l).map fun x => (l, x)) m) j =
      if j ∈ ls then (f j).getD (Sparse.get LaneFault.zero m j) else Sparse.get LaneFault.zero m j := by
  induction ls generalizing m with
  | nil => rfl
  | cons l ls ih =>
    cases hl : f l with
    | none =>
      rw [List.filterMap_cons_none (by rw [hl]; rfl), ih]
      by_cases hj : j = l
      · subst hj; simp [hl]
      · simp [hj]
    | some x =>
      rw [List.filterMap_cons_some (b := (l, x)) (by rw [hl]; rfl)]
      change Sparse.get LaneFault.zero (fileAll _ (Sparse.set LaneFault.zero m l x)) j = _
      rw [ih, Sparse.get_set]
      by_cases hj : j = l
      · subst hj; simp [hl]
      · simp [hj]

/-! ## The lowest failing lane -/

/-- A set lane with none set below it is the lowest. -/
theorem lowLane_eq {m : Word32} {low : Nat} (hbit : m.getLsbD low = true) (hlow : ∀ l, l < low → m.getLsbD l = false) :
    lowLane m = low := by
  have hm : m ≠ 0 := by rintro rfl; simp at hbit
  obtain ⟨-, hbit', hlow'⟩ := lowLane_lowest hm
  rcases Nat.lt_trichotomy (lowLane m) low with h | h | h
  · rw [hlow _ h] at hbit'; simp at hbit'
  · exact h
  · rw [hlow' _ h] at hbit; simp at hbit

/-- In a rising list the first hit is that of the lowest member with one. -/
theorem findSome?_lowest {α : Type} {f : Nat → Option α} {ls : List Nat} (hs : ls.Pairwise (· < ·)) {low : Nat}
    (hmem : low ∈ ls) (hne : f low ≠ none) (hlow : ∀ l ∈ ls, l < low → f l = none) : ls.findSome? f = f low := by
  induction ls with
  | nil => simp at hmem
  | cons k ks ih =>
    obtain ⟨hk, hs⟩ := List.pairwise_cons.1 hs
    rw [List.findSome?_cons]
    rcases List.mem_cons.1 hmem with rfl | hmem
    · cases hf : f low with
      | none => exact absurd hf hne
      | some x => rfl
    · rw [hlow k List.mem_cons_self (hk low hmem)]
      exact ih hs hmem fun l hl => hlow l (List.mem_cons_of_mem _ hl)

variable (s : State)

theorem State.firstCause_eq {chk : Nat → Option Nat} {low : Nat} (h32 : low < 32) (hem : s.em.getLsbD low = true)
    (hne : chk low ≠ none) (hlow : ∀ l, l < low → s.em.getLsbD l = true → chk l = none) :
    s.firstCause chk = (chk low).getD 0 := by
  have hsorted : (lanesOf s.em).Pairwise (· < ·) := List.pairwise_lt_range.filter _
  rw [State.firstCause, findSome?_lowest hsorted (mem_lanesOf.2 ⟨h32, hem⟩) hne
    fun l hl hlt => hlow l hlt (mem_lanesOf.1 hl).2]

/-! ## A trap of some or all lanes, with their entries -/

/-- What a trap of the lanes fm at pc does to the issuing group, where the stack has room and the cause files lane faults. -/
structure Trapped (s t : State) (fm : Word32) (cause : Nat) (pc : Addr52) (entries : List (Nat × LaneFault)) : Prop where
  only : OnlyGroup s t
  grp : t.grp = { s.grp with stack := t.grp.stack, splits := t.grp.splits, life := .trapped, faultLane := lowLane fm,
                             faults := t.grp.faults, rewind := false }
  stack : t.grp.stack = ⟨cause, s.spl.tok, .trap, s.spl.sup, fm, pc, 0⟩ ::
    (if s.em &&& ~~~fm = 0 then s.grp.stack
      else ⟨0, s.spl.tok, .deferred, s.spl.sup, s.em &&& ~~~fm, s.spl.pc, 0⟩ :: s.grp.stack)
  spl : t.spl = { Split.free with v := true, sup := true, pc := (s.context s.grp.ctx).handler, mask := fm, tok := 16,
                                  age := s.spl.age }
  held : ∀ e, e < 4 → e ≠ s.cur.entry → t.grp.split e =
    if (s.grp.split e).v ∧ (s.grp.split e).state ≠ .held then
      { s.grp.split e with state := .held, hstate := (s.grp.split e).state }
    else s.grp.split e
  faults : t.grp.faults = fileAll entries s.grp.faults

theorem State.trapped_trapCur {fm : Word32} {cause : Nat} (hc : filesFault cause = true)
    (hd : s.grp.stack.length + (if s.em &&& ~~~fm = 0 then 1 else 2) ≤ 32) (pc : Addr52)
    (entries : List (Nat × LaneFault)) : Trapped s (s.trapCur fm cause pc entries) fm cause pc entries := by
  have htrap : s.trapCur fm cause pc entries = s.setGrp
      (({ s.grp with rewind := false, faults := fileAll entries s.grp.faults } : Group).pushTrap s.cur.entry fm cause pc
        (s.context s.grp.ctx).handler) := by
    unfold State.trapCur State.trap
    dsimp only
    rw [if_pos hc]
    exact if_neg (Nat.not_lt.2 hd)
  have hkeep := Group.pushTrap_keep ({ s.grp with rewind := false, faults := fileAll entries s.grp.faults } : Group)
    s.cur.entry fm cause pc (s.context s.grp.ctx).handler
  rw [htrap]
  refine ⟨s.onlyGroup_setGrp _, ?_, ?_, ?_, fun e he hne => ?_, ?_⟩
  · rw [State.grp_setGrp, hkeep]
  · rw [State.grp_setGrp, hkeep]; rfl
  · rw [State.spl_setGrp, Group.split_pushTrap_self]; rfl
  · rw [State.grp_setGrp, Group.split_pushTrap_other _ _ _ _ _ he hne]; rfl
  · rw [State.grp_setGrp, hkeep]

/-- A trap of the whole split at its own PC, in the words of the statements. -/
theorem Trapped.partTrapped {s t : State} {cause : Nat} {entries : List (Nat × LaneFault)}
    (h : Trapped s t s.em cause s.pc entries) : PartTrapped s t s.grp s.em cause (lowLane s.em) :=
  ⟨h.only, h.grp, h.stack, h.spl, h.held⟩

/-- One entry for every lane of the split (R197). -/
theorem State.trapped_trapEntry {cause : Nat} (hc : filesFault cause = true) (hd : s.grp.stack.length + 1 ≤ 32)
    (f : LaneFault) : ∃ entries, Trapped s (s.trapEntry cause f) s.em cause s.pc entries ∧
      ∀ l, l < 32 → Sparse.get LaneFault.zero (s.trapEntry cause f).grp.faults l =
        if s.em.getLsbD l then f else Sparse.get LaneFault.zero s.grp.faults l := by
  have hlist : (lanesOf s.em).map (fun l => (l, f)) = (lanesOf s.em).filterMap fun l => (some f).map fun x => (l, x) := by
    simp [List.filterMap_eq_map']
  have ht := s.trapped_trapCur (fm := s.em) hc (by rw [if_pos (BitVec.and_not_self _)]; exact hd) s.pc
    ((lanesOf s.em).map fun l => (l, f))
  refine ⟨_, ht, fun l hl => ?_⟩
  change Sparse.get LaneFault.zero (s.trapCur s.em cause s.pc _).grp.faults l = _
  rw [ht.faults, hlist, get_fileAll (fun _ => some f)]
  simp [mem_lanesOf, hl]

/-! ## An access of the lanes of em -/

/-- s with the issuing split narrowed to some of its lanes, and at least one. -/
structure Narrower (s t : State) : Prop where
  same : ∃ v, SameBut v s t
  lanes : ∀ l, t.em.getLsbD l = true → s.em.getLsbD l = true
  some : t.em ≠ 0

theorem Narrower.refl {s : State} (h : s.em ≠ 0) : Narrower s s := ⟨⟨_, SameBut.refl s⟩, fun _ hl => hl, h⟩

theorem State.em_narrowed (m : Word32) : (narrowed s m).em = m := by simp [narrowed, State.em]

/-- Another mask of the issuing split is another split table. -/
theorem State.sameBut_narrowed (m : Word32) :
    SameBut { s.grp.control with splits := (narrowed s m).grp.splits } s (narrowed s m) :=
  ⟨s.onlyGroup_setGrp _, by rw [narrowed, State.grp_setGrp]; rfl⟩

/-- The instruction is a lane access of n words: its lanes are checked one by one, and those that pass do the work
(R121, R188). -/
structure LaneAccess (s : State) (i : Instr) (n acc space : Nat) (addr : Nat → Int) (chk : Nat → Option Nat)
    (work : Word32 → State → State) : Prop where
  runs : ∀ t, Narrower s t → exec i t = .next (t.checkedLanes n acc space addr chk work)
  work : ∀ ok, LaneWork (work ok)
  files : ∀ l c, chk l = some c → filesFault c = true

/-- The entries of a trap of an access are those of the lanes that fail (R353, R354). -/
theorem Trapped.filed {s t u : State} {fm : Word32} {cause acc space : Nat} {pc : Addr52} {addr : Nat → Int}
    {chk : Nat → Option Nat} (h : Trapped u t fm cause pc (s.laneFaults acc space addr chk))
    (hu : u.grp.faults = s.grp.faults) : Filed s t acc space addr chk := by
  have hlist : s.laneFaults acc space addr chk = (lanesOf s.em).filterMap fun l =>
      ((chk l).map fun c => (⟨c - 0x30, acc, space, patternOf 52 (addr l)⟩ : LaneFault)).map fun x => (l, x) := by
    simp [State.laneFaults, Option.map_map, Function.comp_def]
  intro l hl
  rw [h.faults, hu, hlist, get_fileAll fun l => (chk l).map fun c => ⟨c - 0x30, acc, space, patternOf 52 (addr l)⟩]
  cases chk l with
  | none => simp
  | some c => simp [mem_lanesOf, hl, patternOf]

/-! ### The three ways the checks can go -/

section Checks
variable {n acc space : Nat} {addr : Nat → Int} {chk : Nat → Option Nat} {work : Word32 → State → State}

theorem State.checkedLanes_all (hpass : s.passing chk = s.em) (hem : s.em ≠ 0) :
    s.checkedLanes n acc space addr chk work = (work s.em s).advance n := by
  simp only [State.checkedLanes, hpass, if_neg hem, BitVec.and_not_self, if_true]

theorem State.checkedLanes_none (hpass : s.passing chk = 0) (hem : s.em ≠ 0) : s.checkedLanes n acc space addr chk work =
    (s.advance n).trapCur s.em (s.firstCause chk) s.pc (s.laneFaults acc space addr chk) := by
  have hall : s.em &&& ~~~(0 : Word32) = s.em := by
    change s.em &&& ~~~0#32 = s.em
    rw [BitVec.not_zero, BitVec.and_allOnes]
  simp only [State.checkedLanes, hpass, hall, if_neg hem, if_true]

theorem State.checkedLanes_some {ok bad : Word32} (hpass : s.passing chk = ok) (hok : ok ≠ 0) (hnot : s.em &&& ~~~ok = bad)
    (hbad : bad ≠ 0) : s.checkedLanes n acc space addr chk work =
      ((work ok s).advance n).trapCur bad (s.firstCause chk) s.pc (s.laneFaults acc space addr chk) := by
  simp only [State.checkedLanes, hpass, hnot, if_neg hok, if_neg hbad]

end Checks

/-! ### The lanes that pass and the lanes that fail, by their bits -/

section Parted
variable {s} {chk : Nat → Option Nat} {ok bad : Word32}
  (hok : ∀ l, l < 32 → (ok.getLsbD l = true ↔ s.em.getLsbD l = true ∧ chk l = none))
  (hbad : ∀ l, l < 32 → (bad.getLsbD l = true ↔ s.em.getLsbD l = true ∧ chk l ≠ none))

include hok in
theorem State.passing_eq : s.passing chk = ok := by
  refine BitVec.eq_of_getLsbD_eq fun l hl => ?_
  rw [State.passing, getLsbD_maskOf _ hl, Bool.eq_iff_iff, hok l hl]
  simp

include hok hbad in
theorem em_and_not_passing : s.em &&& ~~~ok = bad := by
  refine BitVec.eq_of_getLsbD_eq fun l hl => ?_
  have hbit : ok.getLsbD l = (s.em.getLsbD l && (chk l).isNone) := by rw [Bool.eq_iff_iff, hok l hl]; simp
  rw [Bool.eq_iff_iff, hbad l hl, BitVec.getLsbD_and, BitVec.getLsbD_not, hbit]
  cases s.em.getLsbD l <;> simp [hl, Option.isSome_iff_ne_none]

include hok hbad in
theorem em_and_not_failing : s.em &&& ~~~bad = ok := by
  refine BitVec.eq_of_getLsbD_eq fun l hl => ?_
  have hbit : bad.getLsbD l = (s.em.getLsbD l && (chk l).isSome) := by
    rw [Bool.eq_iff_iff, hbad l hl]; simp [Option.isSome_iff_ne_none]
  rw [Bool.eq_iff_iff, hok l hl, BitVec.getLsbD_and, BitVec.getLsbD_not, hbit]
  cases s.em.getLsbD l <;> simp [hl]

include hbad in
theorem firstCause_of_failing {low : Nat} (h32 : low < 32) (hbit : bad.getLsbD low = true)
    (hlow : ∀ l, l < low → bad.getLsbD l = false) : s.firstCause chk = (chk low).getD 0 := by
  obtain ⟨hem, hne⟩ := (hbad low h32).1 hbit
  refine s.firstCause_eq h32 hem hne fun l hl hset => ?_
  by_contra hc
  have hset' := (hbad l (by omega)).2 ⟨hset, hc⟩
  rw [hlow l hl] at hset'
  exact Bool.noConfusion hset'

end Parted

/-! ### After the work of the lanes that pass -/

section Work
variable {s} {work : State → State} (hw : LaneWork work) (n : Nat)
include hw

theorem LaneWork.spl_advance : ((work s).advance n).spl = { s.spl with pc := s.pcPlus n } := by
  have hsplits : (work s).grp.splits = s.grp.splits := congrArg Control.splits (hw.control s)
  have hspl : (work s).spl = s.spl := by rw [State.spl, hw.cur]; exact Group.split_congr hsplits _
  rw [State.advance, State.spl_goto, State.pcPlus, State.pc, hspl]; rfl

theorem LaneWork.stack_advance : ((work s).advance n).grp.stack = s.grp.stack := by
  rw [State.advance, State.grp_goto]; exact congrArg Control.stack (hw.control s)

theorem LaneWork.faults_advance : ((work s).advance n).grp.faults = s.grp.faults := by
  rw [State.advance, State.grp_goto]; exact congrArg Control.faults (hw.control s)

theorem LaneWork.handler_advance : ((work s).advance n).context ((work s).advance n).grp.ctx = s.context s.grp.ctx := by
  have hctx : (work s).grp.ctx = s.grp.ctx := congrArg Control.ctx (hw.control s)
  rw [State.advance, State.grp_goto]
  change Sparse.get Context.absent (work s).contexts (work s).grp.ctx = _
  rw [hw.contexts, hctx]
  rfl

/-- With another control part of the same context, the work ends in the same state but for that part. -/
theorem LaneWork.advance_sameBut {v : Control} {t : State} (h : SameBut v s t) (hv : v.ctx = s.grp.ctx) :
    OnlyGroup ((work t).advance n) ((work s).advance n) ∧ ∃ splits stack faults,
      ((work t).advance n).grp = { ((work s).advance n).grp with splits := splits, stack := stack, faults := faults } := by
  have hst := hw.blind h
  have hctx : (work s).grp.ctx = v.ctx := (congrArg Control.ctx (hw.control s)).trans hv.symm
  have hgrp : ((work t).advance n).grp = ((work s).grp.withControl v).setSplit (work t).cur.entry ((work t).advance n).spl := by
    rw [State.advance, State.grp_goto, State.spl_goto, hst.grp]
  refine ⟨onlyGroup_trans (onlyGroup_symm (onlyGroup_trans hst.only (State.goto_only _ _))) (State.goto_only _ _),
    ((work t).advance n).grp.splits, v.stack, v.faults, ?_⟩
  have hgrp' : ((work s).advance n).grp = (work s).grp.setSplit (work s).cur.entry ((work s).advance n).spl := by
    rw [State.advance, State.grp_goto, State.spl_goto]
  rw [hgrp, hgrp', Group.withControl, ← hctx]
  rfl

end Work

/-! ### The access -/

section Access
variable {s} {i : Instr} {n acc space : Nat} {addr : Nat → Int} {chk : Nat → Option Nat} {work : Word32 → State → State}
  (h : LaneAccess s i n acc space addr chk work)
include h

theorem LaneAccess.files_of_fails {low : Nat} (hne : chk low ≠ none) : filesFault ((chk low).getD 0) = true := by
  obtain ⟨c, hc⟩ := Option.ne_none_iff_exists'.1 hne
  rw [hc]
  exact h.files low c hc

/-- Where no lane passes, nothing is accessed (R33). -/
theorem LaneAccess.allFail : AllFail s i acc space addr chk := by
  intro low ⟨hall, h32, hbit, hlow⟩ hdepth
  have hem : s.em ≠ 0 := by intro h0; rw [h0] at hbit; simp at hbit
  have hpass : s.passing chk = 0 := State.passing_eq fun l hl => by
    simpa using fun hset => ((hall l hl).1 hset).2
  have hself : (s.grp.split s.cur.entry).mask &&& ~~~s.em = 0 := BitVec.and_not_self _
  have hexec : exec i s = .next ((s.advance n).trapCur s.em ((chk low).getD 0) s.pc (s.laneFaults acc space addr chk)) := by
    rw [h.runs s (Narrower.refl hem), s.checkedLanes_none hpass hem, firstCause_of_failing hall h32 hbit hlow]
  have hgrp : (s.advance n).grp = s.grp.setSplit s.cur.entry { s.spl with pc := s.pcPlus n } := s.grp_goto _
  have hspl : (s.advance n).spl = { s.spl with pc := s.pcPlus n } := s.spl_goto _
  have hrest : (s.advance n).em &&& ~~~s.em = 0 := by rw [State.em, hspl]; exact hself
  have ht := (s.advance n).trapped_trapCur (fm := s.em) (h.files_of_fails ((hall low h32).1 hbit).2)
    (by rw [if_pos hrest, hgrp]; exact hdepth) s.pc (s.laneFaults acc space addr chk)
  refine ⟨_, hexec, ⟨onlyGroup_trans (s.goto_only _) ht.only, ?_, ?_, ?_, fun e he hne => ?_⟩,
    ht.filed (by rw [hgrp]; rfl)⟩
  · refine ht.grp.trans ?_
    rw [hgrp, lowLane_eq hbit hlow]; rfl
  · rw [ht.stack, if_pos hrest, if_pos hself, hspl, hgrp]; rfl
  · rw [ht.spl, hspl, hgrp]; rfl
  · have hsplit : (s.advance n).grp.split e = s.grp.split e := s.split_goto _ hne
    rw [ht.held e he hne, hsplit]

/-- The lanes that pass do what they do when the split holds no others, and the others trap (R33, R121). -/
theorem LaneAccess.partFails : PartFails s i acc space addr chk (s.pcPlus n) := by
  intro ok bad low u hok hbad hne h32 hbit hlow hu hdepth
  have hbad0 : bad ≠ 0 := by rintro rfl; simp at hbit
  have hem0 : s.em ≠ 0 := by
    intro h0
    have hset := ((hbad low h32).1 hbit).1
    rw [h0] at hset
    simp at hset
  have hexec : exec i s =
      .next (((work ok s).advance n).trapCur bad ((chk low).getD 0) s.pc (s.laneFaults acc space addr chk)) := by
    rw [h.runs s (Narrower.refl hem0),
      s.checkedLanes_some (State.passing_eq hok) hne (em_and_not_passing hok hbad) hbad0,
      firstCause_of_failing hbad h32 hbit hlow]
  have hsame := s.sameBut_narrowed ok
  have hem := s.em_narrowed ok
  have hu : (work ok (narrowed s ok)).advance n = u := by
    have hnarrow : Narrower s (narrowed s ok) :=
      ⟨⟨_, hsame⟩, fun l hl => by rw [hem] at hl; exact ((hok l (BitVec.lt_of_getLsbD hl)).1 hl).1, by rwa [hem]⟩
    have hpass : (narrowed s ok).passing chk = (narrowed s ok).em := State.passing_eq fun l hl => by
      rw [hem]
      exact ⟨fun hl' => ⟨hl', ((hok l hl).1 hl').2⟩, And.left⟩
    rw [h.runs _ hnarrow, (narrowed s ok).checkedLanes_all hpass (by rwa [hem]), hem] at hu
    exact Host.Outcome.next.inj hu
  subst hu
  have hwork := h.work ok
  have hspl := hwork.spl_advance (s := s) n
  have hrest : ((work ok s).advance n).em &&& ~~~bad = ok := by
    rw [State.em, hspl]; exact em_and_not_failing hok hbad
  have ht := ((work ok s).advance n).trapped_trapCur (fm := bad) (h.files_of_fails ((hbad low h32).1 hbit).2)
    (by rw [hrest, if_neg hne, hwork.stack_advance]; exact hdepth) s.pc (s.laneFaults acc space addr chk)
  obtain ⟨honly, splits, stack, faults, hgrp⟩ := hwork.advance_sameBut n hsame rfl
  have honly := onlyGroup_trans honly ht.only
  have hcur : ((work ok (narrowed s ok)).advance n).cur = s.cur := hwork.cur (narrowed s ok)
  refine ⟨_, hexec, honly.1, fun k hk => honly.2 k (by rwa [hcur]), ?_, ?_, ?_, ht.filed (hwork.faults_advance n)⟩
  · refine ht.grp.trans ?_
    rw [hgrp, lowLane_eq hbit hlow]
  · rw [ht.stack, hrest, if_neg hne, hspl, hwork.stack_advance]
    rfl
  · rw [ht.spl, hwork.handler_advance, hspl]

theorem LaneAccess.fails : Fails s i acc space addr chk (s.pcPlus n) :=
  ⟨h.partFails, h.allFail⟩

end Access

end Sys2Proof.Machine
end

section
/-!
PROOF. Accesses of the scratchpad and of the weight store that fail in some lanes, in all, or as a whole (R33, R121, R188,
R197, R198, R200, R353): each lane form is a lane access, whose work does not see the control part of its group.
-/

namespace Sys2Proof.Machine

open Sys2Proof.Claims

/-! ## Addresses and bounds in the words of the statements -/

theorem signedOf_eq_toInt (n x : Nat) : signedOf n x = (BitVec.ofNat n x).toInt := by
  rw [signedOf, BitVec.toInt_eq_toNat_cond, BitVec.toNat_ofNat]
  cases n with
  | zero => simp [Nat.mod_one]
  | succ n =>
    have hlt : x % 2 ^ (n + 1) < 2 ^ (n + 1 - 1) ↔ 2 * (x % 2 ^ (n + 1)) < 2 ^ (n + 1) := by
      rw [Nat.add_sub_cancel, Nat.pow_succ]; omega
    simp only [hlt]

theorem State.laneAddr_eq (s : State) (a : Addr) (l : Nat) : s.grp.laneAddr a l = addrOf s a l := by
  have hbase : signedOf 64 (s.grp.readS a.base).toNat = (s.grp.readS a.base).toInt := by
    rw [signedOf_eq_toInt, BitVec.ofNat_toNat, BitVec.setWidth_eq]
  rw [Group.laneAddr, addrOf, hbase]
  cases a.off with
  | small k => rfl
  | lit x => rw [offValue, signedOf_eq_toInt]

theorem State.bound_eq (s : State) (du : Bool) : s.grp.decl.bound du = boundOf s du := by
  cases du with
  | true => rfl
  | false =>
    simp only [Decl.bound, Decl.occupancy, boundOf, Bool.false_eq_true, if_false]
    split
    · rename_i h; simp [h]
    · rfl

theorem State.pcPlus_words3 (s : State) (o : Off) : s.pcPlus (words3 o) = nextPc3 s (isLit o) := by
  cases o <;> rfl

theorem filesFault_spadCheck {bound w n : Nat} {x : Int} {c : Nat} (h : spadCheck bound w n x = some c) :
    filesFault c = true := by
  unfold spadCheck at h
  split at h
  · cases h; rfl
  · split at h
    · cases h; rfl
    · cases h

theorem filesFault_wsCheck {s : State} {map : List WsEntry} {die w : Nat} {x : Int} {c : Nat}
    (h : s.wsCheck map die w x = some c) : filesFault c = true := by
  unfold State.wsCheck at h
  split at h
  · cases h; rfl
  · split at h
    · cases h; rfl
    · cases h

/-! ## What goes on in a split goes on in a narrower one -/

section Narrower
variable {s t : State} (h : Narrower s t)
include h

theorem Narrower.decl : t.grp.decl = s.grp.decl := by
  obtain ⟨⟨v, hs⟩, -, -⟩ := h
  rw [hs.grp]; rfl

theorem Narrower.laneAddr (a : Addr) (l : Nat) : t.grp.laneAddr a l = addrOf s a l := by
  obtain ⟨⟨v, hs⟩, -, -⟩ := h
  rw [hs.grp, Group.laneAddr_withControl, s.laneAddr_eq]

theorem Narrower.bound (du : Bool) : t.grp.decl.bound du = boundOf s du := by rw [h.decl, s.bound_eq]

/-- A fence that holds none of the lanes holds no fewer of them (R219). -/
theorem Narrower.accessReady {stores : Bool} (hr : s.accessReady stores = true) : t.accessReady stores = true := by
  obtain ⟨⟨v, hs⟩, hlanes, -⟩ := h
  have hops : t.grp.ops = s.grp.ops := by rw [hs.grp]; rfl
  have hfences : t.grp.fences = s.grp.fences := by rw [hs.grp]; rfl
  simp only [State.accessReady, hops, hfences, Bool.and_eq_true, List.all_eq_true, Bool.not_eq_true'] at hr ⊢
  refine ⟨hr.1, fun f hf => ?_⟩
  have hno := hr.2 f hf
  have hmeet : f.lanes &&& s.em = 0 → f.lanes &&& t.em = 0 := fun h0 => BitVec.eq_of_getLsbD_eq fun l _ => by
    have hl := congrArg (BitVec.getLsbD · l) h0
    simp only [BitVec.getLsbD_and] at hl ⊢
    cases ht : t.em.getLsbD l with
    | false => simp
    | true => rw [← hlanes l ht]; exact hl
  simp only [Fence.holds, Bool.and_eq_false_iff, Bool.or_eq_false_iff, decide_eq_false_iff_not, not_not] at hno ⊢
  exact hno.imp_right fun hj => ⟨hj.1, hmeet hj.2⟩

theorem Narrower.spadReady {stores : Bool} {o : Sync} (hr : mayAccess s stores o) : t.spadReady stores o = true := by
  have hacc := fun hr' => h.accessReady (stores := stores) hr'
  obtain ⟨⟨v, hs⟩, -, -⟩ := h
  have horder : ∀ sc rel, t.orderReady sc rel = s.orderReady sc rel := fun sc rel => by
    unfold State.orderReady State.everywhere State.die
    rw [hs.grp, hs.dies]; rfl
  simp only [mayAccess, State.spadReady, Bool.and_eq_true, horder] at hr ⊢
  exact ⟨hacc hr.1, hr.2⟩

theorem Narrower.guard {rs : List Nat} (hfit : Fits s rs) (k : State → State) : t.guardRegs rs k = .next (k t) :=
  t.guardRegs_ok k fun r hr => by rw [h.decl]; exact (hfit r hr).1

end Narrower

/-- Addresses and checks count by lane, and what the lanes that pass do by what it does to the state itself. -/
theorem State.checkedLanes_congr (s : State) {n acc space : Nat} {addr addr' : Nat → Int} {chk chk' : Nat → Option Nat}
    {k k' : Word32 → State → State} (haddr : ∀ l, addr l = addr' l) (hchk : ∀ l, chk l = chk' l)
    (hk : ∀ ok, k ok s = k' ok s) : s.checkedLanes n acc space addr chk k = s.checkedLanes n acc space addr' chk' k' := by
  rw [funext haddr, funext hchk]
  simp only [State.checkedLanes, hk]

/-! ## LD and ST -/

section Forms
variable (vd vc n : Nat) (a : Addr) (op : Comb) (ty : Ty) (du : Bool) (o : Sync) (h : Nat)

/-- Where lane l's address falls as a number. -/
def Group.byteAddr (g : Group) (a : Addr) (l : Nat) : Nat := (g.laneAddr a l).toNat

theorem Group.byteAddr_withControl (g : Group) (v : Control) : (g.withControl v).byteAddr a = g.byteAddr a := rfl

/-- What the order of an access does to its group at the end. -/
def Group.ordered (g : Group) (clock : Nat) (o : Sync) : Group := (g.joinFor o.ord o.scope).critStep clock o.ord o.crit

theorem Group.ordered_withControl (g : Group) (v : Control) (clock : Nat) :
    (g.withControl v).ordered clock o = (g.ordered clock o).withControl v := by
  rw [Group.ordered, Group.joinFor_withControl, Group.critStep_withControl]; rfl

theorem SameBut.loadLanes {v : Control} {s t : State} (hs : SameBut v s t) (addr : Nat → Nat) (ok : Word32) :
    t.loadLanes vd ty du addr ok = (s.loadLanes vd ty du addr ok).withControl v := by
  simp only [State.loadLanes, hs.grp]
  refine Group.foldl_withControl _ v (fun g l => ?_) _
  cases du <;> simp [hs.readSpad, hs.storedTan]

/-- LD in the lanes that pass. -/
def ldWork (ok : Word32) (s : State) : State :=
  let rs := (regsOf ty vd).map RegId.v
  let lat := 19 + bankCycles ((lanesOf ok).flatMap fun l => s.grp.touched du ty.bytes (s.grp.byteAddr a l))
  s.setGrp ((((s.loadLanes vd ty du (s.grp.byteAddr a) ok).noteAll rs).deliver s.clock lat rs).ordered s.clock o)

theorem laneWork_ldWork (ok : Word32) : LaneWork (ldWork vd a ty du o ok) where
  blind {v s t} hs := by
    simp only [ldWork, hs.loadLanes, hs.grp, hs.clock, Group.byteAddr_withControl, Group.touched_withControl,
      Group.noteAll_withControl, Group.deliver_withControl, Group.ordered_withControl]
    exact hs.setGrp _
  cur _ := rfl
  contexts _ := rfl

/-- ST in the lanes that pass. -/
def stWork (ok : Word32) (s : State) : State :=
  let y := (s.gang s.grp.gang).storeLanes s.grp vd ty du (s.grp.byteAddr a) (s.storeOrder ok)
  let g := (if du then s.grp else s.grp.dropData (regsOf ty vd) ok).irrevocable
  (s.setGang s.grp.gang y).setGrp (g.ordered s.clock o)

theorem laneWork_stWork (ok : Word32) : LaneWork (stWork vd a ty du o ok) where
  blind {v s t} hs := by
    simp only [stWork, hs.grp, hs.gang, hs.clock, hs.storeOrder, Group.byteAddr_withControl, Group.withControl_gang,
      Gang.storeLanes_withControl, Group.dropData_withControl, ← apply_ite (Group.withControl · v),
      Group.irrevocable_withControl, Group.ordered_withControl]
    exact (hs.setGang _ _).setGrp _
  cur _ := rfl
  contexts _ := rfl

/-! ## ATOM and ACAS -/

section Atom
variable (upd : Group → Nat → Nat → Nat)

/-- The read-modify-write of one lane. -/
def State.atomLane (addr : Nat → Nat) (upd : Nat → Nat → Nat) (s : State) (l : Nat) : State :=
  let old := s.readSpad s.grp.gang (addr l) ty.bytes
  let s1 := s.writeSpad s.grp.gang (addr l) ty.bytes (upd l old)
  s1.setGrp ((s1.grp.putElem ty vd l old).zeroTan (regsOf ty vd) l)

theorem State.atomLanes_eq (s : State) (addr : Nat → Nat) (upd : Nat → Nat → Nat) (ls : List Nat) :
    s.atomLanes vd ty addr upd ls = ls.foldl (State.atomLane vd ty addr upd) s := rfl

theorem SameBut.atomLane {v : Control} {s t : State} (hs : SameBut v s t) (addr : Nat → Nat) (upd : Nat → Nat → Nat)
    (l : Nat) : SameBut v (State.atomLane vd ty addr upd s l) (State.atomLane vd ty addr upd t l) := by
  have hput := hs.setGang s.grp.gang ((s.gang s.grp.gang).writeSpad (addr l) ty.bytes
    (upd l (s.readSpad s.grp.gang (addr l) ty.bytes)))
  simp only [State.atomLane, State.writeSpad, hs.grp, Group.withControl_gang, hs.readSpad, hs.gang, hput.grp,
    Group.putElem_withControl, Group.zeroTan_withControl]
  exact hput.setGrp _

theorem SameBut.atomLanes {v : Control} {s t : State} (hs : SameBut v s t) (addr : Nat → Nat) (upd : Nat → Nat → Nat)
    (ls : List Nat) : SameBut v (s.atomLanes vd ty addr upd ls) (t.atomLanes vd ty addr upd ls) := by
  rw [State.atomLanes_eq, State.atomLanes_eq]
  induction ls generalizing s t with
  | nil => exact hs
  | cons l ls ih => exact ih (hs.atomLane vd ty addr upd l)

theorem State.atomLanes_keeps (s : State) (addr : Nat → Nat) (upd : Nat → Nat → Nat) (ls : List Nat) :
    (s.atomLanes vd ty addr upd ls).cur = s.cur ∧ (s.atomLanes vd ty addr upd ls).contexts = s.contexts := by
  rw [State.atomLanes_eq]
  induction ls generalizing s with
  | nil => exact ⟨rfl, rfl⟩
  | cons l ls ih => exact ih _

/-- What ATOM and ACAS leave of an old element in lane l (R198). -/
def atomValue (g : Group) (l old : Nat) : Nat := combine op ty old (g.elem ty vc l)
def acasValue (g : Group) (l old : Nat) : Nat := if old = g.elem ty vd l then g.elem ty vc l else old

theorem atomValue_withControl (g : Group) (v : Control) : atomValue vc op ty (g.withControl v) = atomValue vc op ty g := by
  funext l old
  rw [atomValue, Group.elem_withControl, atomValue]

theorem acasValue_withControl (g : Group) (v : Control) : acasValue vd vc ty (g.withControl v) = acasValue vd vc ty g := by
  funext l old
  rw [acasValue, Group.elem_withControl, Group.elem_withControl, acasValue]

/-- ATOM or ACAS in the lanes that pass. -/
def atomWork (ok : Word32) (s : State) : State :=
  let rs := (regsOf ty vd).map RegId.v
  let t := (s.setGrp (s.grp.dropData (regsOf ty vc) ok).irrevocable).atomLanes vd ty (s.grp.byteAddr a) (upd s.grp) (lanesOf ok)
  let lat := 27 + sameWord ((lanesOf ok).map fun l => s.grp.byteAddr a l / 4)
  t.setGrp (((t.grp.noteAll rs).deliver s.clock lat rs).ordered s.clock o)

theorem laneWork_atomWork (hupd : ∀ g v, upd (Group.withControl g v) = upd g) (ok : Word32) :
    LaneWork (atomWork vd vc a ty o upd ok) where
  blind {v s t} hs := by
    have hlanes := (hs.setGrp (s.grp.dropData (regsOf ty vc) ok).irrevocable).atomLanes vd ty (s.grp.byteAddr a) (upd s.grp)
      (lanesOf ok)
    simp only [atomWork, hs.grp, hs.clock, hupd, Group.byteAddr_withControl, Group.dropData_withControl,
      Group.irrevocable_withControl, hlanes.grp, Group.noteAll_withControl, Group.deliver_withControl,
      Group.ordered_withControl]
    exact hlanes.setGrp _
  cur s := (State.atomLanes_keeps vd ty _ _ _ _).1
  contexts s := (State.atomLanes_keeps vd ty _ _ _ _).2

end Atom

/-! ## LDT and STT -/

/-- Where the row of lane l starts, as a number. -/
def Group.rowByte (g : Group) (a : Addr) (n l : Nat) : Nat := (rowAddr (g.laneAddr a 0) n l).toNat

theorem Group.rowByte_withControl (g : Group) (v : Control) : (g.withControl v).rowByte a = g.rowByte a := rfl

/-- Element j of the row of lane l, and its tangents, into the register of the row's place. -/
def State.loadRow (s : State) (j : Nat) (acc : Group) (l : Nat) : Group :=
  let b := s.grp.rowByte a n l + 4 * j
  let acc1 := acc.putElem ty (vd + j) l (s.readSpad s.grp.gang b 4)
  if du then acc1.giveTan (vd + j) l fun d => s.storedTan s.grp b d else acc1.zeroTan [vd + j] l

theorem SameBut.loadRow {v : Control} {s t : State} (hs : SameBut v s t) (j : Nat) (acc : Group) (l : Nat) :
    t.loadRow vd n a ty du j (acc.withControl v) l = (s.loadRow vd n a ty du j acc l).withControl v := by
  simp only [State.loadRow, hs.grp, Group.rowByte_withControl, hs.readSpad, hs.storedTan]
  cases du <;> simp

def State.loadRows (s : State) (ok : Word32) : Group :=
  (List.range n).foldl (fun acc j => (lanesOf ok).foldl (s.loadRow vd n a ty du j) acc) s.grp

theorem SameBut.loadRows {v : Control} {s t : State} (hs : SameBut v s t) (ok : Word32) :
    t.loadRows vd n a ty du ok = (s.loadRows vd n a ty du ok).withControl v := by
  rw [State.loadRows, hs.grp]
  exact s.grp.foldl_withControl v (fun acc j => acc.foldl_withControl v (fun acc l => hs.loadRow vd n a ty du j acc l) _) _

/-- LDT in the lanes that pass. -/
def ldtWork (ok : Word32) (s : State) : State :=
  let rs := (span vd n).map RegId.v
  let lat := 19 + bankCycles ((lanesOf ok).flatMap fun l =>
    (List.range n).flatMap fun j => s.grp.touched du 4 (s.grp.rowByte a n l + 4 * j))
  s.setGrp (((s.loadRows vd n a ty du ok).noteAll rs).deliver s.clock lat rs)

theorem laneWork_ldtWork (ok : Word32) : LaneWork (ldtWork vd n a ty du ok) where
  blind {v s t} hs := by
    simp only [ldtWork, hs.loadRows, hs.grp, hs.clock, Group.rowByte_withControl, Group.touched_withControl,
      Group.noteAll_withControl, Group.deliver_withControl]
    exact hs.setGrp _
  cur _ := rfl
  contexts _ := rfl

/-- STT in the lanes that pass. -/
def sttWork (ok : Word32) (s : State) : State :=
  let y := (List.range n).foldl (fun y j =>
    y.storeLanes s.grp (vd + j) ty du (fun l => s.grp.rowByte a n l + 4 * j) (lanesOf ok)) (s.gang s.grp.gang)
  (s.setGang s.grp.gang y).setGrp (if du then s.grp else s.grp.dropData (span vd n) ok).irrevocable

theorem laneWork_sttWork (ok : Word32) : LaneWork (sttWork vd n a ty du ok) where
  blind {v s t} hs := by
    simp only [sttWork, hs.grp, hs.gang, Group.rowByte_withControl, Group.withControl_gang, Gang.storeLanes_withControl,
      Group.dropData_withControl, ← apply_ite (Group.withControl · v), Group.irrevocable_withControl]
    exact (hs.setGang _ _).setGrp _
  cur _ := rfl
  contexts _ := rfl

/-! ## LDW -/

/-- The weight-store map of the grid of the issuing group, and its die. -/
def State.wsMap (s : State) : List WsEntry := (s.grid s.grp.grid).wsmap
def State.wsDie (s : State) : Nat := dieOf s.cur.gid

theorem SameBut.wsMap {v : Control} {s t : State} (hs : SameBut v s t) : t.wsMap = s.wsMap := by
  rw [State.wsMap, hs.grp, hs.grid]; rfl

theorem SameBut.wsDie {v : Control} {s t : State} (hs : SameBut v s t) : t.wsDie = s.wsDie := by
  rw [State.wsDie, hs.cur]; rfl

/-- The lanes take their elements of the weight store, with +0 tangents. -/
def State.loadElems (s : State) (ok : Word32) : Group :=
  (lanesOf ok).foldl (fun acc l =>
    let x := ofBytes ((s.readWs s.wsMap s.wsDie (s.grp.byteAddr a l) ty.bytes).getD [])
    (acc.putElem ty vd l x).zeroTan (regsOf ty vd) l) s.grp

theorem SameBut.loadElems {v : Control} {s t : State} (hs : SameBut v s t) (ok : Word32) :
    t.loadElems vd a ty ok = (s.loadElems vd a ty ok).withControl v := by
  simp only [State.loadElems, hs.wsMap, hs.wsDie, hs.readWs, hs.grp, Group.byteAddr_withControl]
  exact Group.foldl_withControl _ v (fun acc l => by simp) _

/-- LDW in the lanes that pass. -/
def ldwWork (ok : Word32) (s : State) : State :=
  let rs := (regsOf ty vd).map RegId.v
  let lat := ldwCycles s.clock ((lanesOf ok).map (s.grp.byteAddr a))
  s.setGrp (((s.loadElems vd a ty ok).noteAll rs).deliver s.clock lat rs)

theorem laneWork_ldwWork (ok : Word32) : LaneWork (ldwWork vd a ty ok) where
  blind {v s t} hs := by
    simp only [ldwWork, hs.loadElems, hs.grp, hs.clock, Group.byteAddr_withControl, Group.noteAll_withControl,
      Group.deliver_withControl]
    exact hs.setGrp _
  cur _ := rfl
  contexts _ := rfl

/-- The checks of LDW are those of the whole split. -/
theorem Narrower.wsCheck {s t : State} (hn : Narrower s t) (w : Nat) (x : Int) :
    t.wsCheck t.wsMap t.wsDie w x = s.wsCheck s.wsMap s.wsDie w x := by
  obtain ⟨⟨v, hs⟩, -, -⟩ := hn
  simp only [State.wsCheck, hs.readWs, hs.wsMap, hs.wsDie]

/-! ## Each form is a lane access -/

variable {vd vc n a op ty du o} {s : State}

/-- The checks of an access of w bytes from each lane's own address. -/
def laneCheck (s : State) (a : Addr) (bound w l : Nat) : Option Nat := spadCheck bound w w (addrOf s a l)

/-- The checks of an access of a row of n words in each lane. -/
def rowCheck (s : State) (a : Addr) (bound n l : Nat) : Option Nat := spadCheck bound 4 (4 * n) (rowAddr (addrOf s a 0) n l)

theorem laneAccess_ld (hfit : Fits s (regsOf ty vd ++ addrRegs a)) (hr : mayAccess s false o) :
    LaneAccess s (.ld vd a ty du o h) (words3 a.off) 0 0 (addrOf s a) (laneCheck s a (boundOf s du) ty.bytes)
      (ldWork vd a ty du o) where
  runs t hn := by
    change execLd vd a ty du o h t = _
    simp only [execLd, hn.guard hfit, hn.spadReady hr, Bool.not_true, Bool.false_eq_true, if_false, if_neg hn.some]
    exact congrArg Host.Outcome.next
      (t.checkedLanes_congr (fun l => hn.laneAddr a l) (fun l => by rw [hn.bound, hn.laneAddr]; rfl) fun ok => rfl)
  work := laneWork_ldWork vd a ty du o
  files _ _ := filesFault_spadCheck

theorem laneAccess_st (hfit : Fits s (regsOf ty vd ++ addrRegs a)) (hr : mayAccess s true o) :
    LaneAccess s (.st vd a ty du o h) (words3 a.off) 1 0 (addrOf s a) (laneCheck s a (boundOf s du) ty.bytes)
      (stWork vd a ty du o) where
  runs t hn := by
    change execSt vd a ty du o h t = _
    simp only [execSt, hn.guard hfit, hn.spadReady hr, Bool.not_true, Bool.false_eq_true, if_false, if_neg hn.some]
    exact congrArg Host.Outcome.next
      (t.checkedLanes_congr (fun l => hn.laneAddr a l) (fun l => by rw [hn.bound, hn.laneAddr]; rfl) fun ok => rfl)
  work := laneWork_stWork vd a ty du o
  files _ _ := filesFault_spadCheck

theorem atomForm_runs {upd : Group → Nat → Nat → Nat} (hfit : Fits s (regsOf ty vd ++ regsOf ty vc ++ addrRegs a))
    (hr : mayAccess s true o) {t : State} (hn : Narrower s t) : atomForm vd a vc ty o upd t =
      .next (t.checkedLanes (words3 a.off) 2 0 (addrOf s a) (laneCheck s a (boundOf s false) ty.bytes)
        (atomWork vd vc a ty o upd)) := by
  have hbound : t.grp.decl.occupancy = boundOf s false := hn.bound false
  simp only [atomForm, hn.guard hfit, hn.spadReady hr, Bool.not_true, Bool.false_eq_true, if_false, if_neg hn.some]
  exact congrArg Host.Outcome.next
    (t.checkedLanes_congr (fun l => hn.laneAddr a l) (fun l => by rw [hbound, hn.laneAddr]; rfl) fun ok => rfl)

theorem laneAccess_atom (hfit : Fits s (regsOf ty vd ++ regsOf ty vc ++ addrRegs a)) (hr : mayAccess s true o) :
    LaneAccess s (.atom vd a vc op ty o h) (words3 a.off) 2 0 (addrOf s a) (laneCheck s a (boundOf s false) ty.bytes)
      (atomWork vd vc a ty o (atomValue vc op ty)) where
  runs t hn := by
    change execAtom vd a vc op ty o h t = _
    exact atomForm_runs hfit hr hn
  work := laneWork_atomWork vd vc a ty o _ (atomValue_withControl vc op ty)
  files _ _ := filesFault_spadCheck

theorem laneAccess_acas (hfit : Fits s (regsOf ty vd ++ regsOf ty vc ++ addrRegs a)) (hr : mayAccess s true o) :
    LaneAccess s (.acas vd a vc ty o h) (words3 a.off) 2 0 (addrOf s a) (laneCheck s a (boundOf s false) ty.bytes)
      (atomWork vd vc a ty o (acasValue vd vc ty)) where
  runs t hn := by
    change execAcas vd a vc ty o h t = _
    exact atomForm_runs hfit hr hn
  work := laneWork_atomWork vd vc a ty o _ (acasValue_withControl vd vc ty)
  files _ _ := filesFault_spadCheck

theorem laneAccess_ldt (hfit : Fits s (span vd n)) (hr : s.accessReady false = true) :
    LaneAccess s (.ldt vd a ty du n h) (words3 a.off) 0 0 (rowAddr (addrOf s a 0) n) (rowCheck s a (boundOf s du) n)
      (ldtWork vd n a ty du) where
  runs t hn := by
    change execLdt vd a ty du n h t = _
    simp only [execLdt, hn.guard hfit, hn.accessReady hr, Bool.not_true, Bool.false_eq_true, if_false]
    exact congrArg Host.Outcome.next
      (t.checkedLanes_congr (fun l => by rw [hn.laneAddr]) (fun l => by rw [hn.bound, hn.laneAddr]; rfl) fun ok => rfl)
  work := laneWork_ldtWork vd n a ty du
  files _ _ := filesFault_spadCheck

theorem laneAccess_stt (hfit : Fits s (span vd n)) (hr : s.accessReady true = true) :
    LaneAccess s (.stt vd a ty du n h) (words3 a.off) 1 0 (rowAddr (addrOf s a 0) n) (rowCheck s a (boundOf s du) n)
      (sttWork vd n a ty du) where
  runs t hn := by
    change execStt vd a ty du n h t = _
    simp only [execStt, hn.guard hfit, hn.accessReady hr, Bool.not_true, Bool.false_eq_true, if_false]
    exact congrArg Host.Outcome.next
      (t.checkedLanes_congr (fun l => by rw [hn.laneAddr]) (fun l => by rw [hn.bound, hn.laneAddr]; rfl) fun ok => rfl)
  work := laneWork_sttWork vd n a ty du
  files _ _ := filesFault_spadCheck

theorem laneAccess_ldw (hfit : Fits s (regsOf ty vd ++ addrRegs a)) (hr : s.accessReady false = true) :
    LaneAccess s (.ldw vd a ty h) (words3 a.off) 0 2 (addrOf s a) (fun l => s.wsCheck s.wsMap s.wsDie ty.bytes (addrOf s a l))
      (ldwWork vd a ty) where
  runs t hn := by
    change execLdw vd a ty h t = _
    simp only [execLdw, hn.guard hfit, hn.accessReady hr, Bool.not_true, Bool.false_eq_true, if_false]
    exact congrArg Host.Outcome.next
      (t.checkedLanes_congr (fun l => hn.laneAddr a l) (fun l => by rw [hn.laneAddr]; exact hn.wsCheck _ _) fun ok => rfl)
  work := laneWork_ldwWork vd a ty
  files _ _ := filesFault_wsCheck

end Forms

/-! ## SLD and SST (R197) -/

section Whole
variable {s : State} {r c : Nat} {a : Addr} {ty : Ty} {o : Sync} (h : Nat)
  (hc : laneCheck s a (boundOf s false) ty.bytes 0 = some c)
include hc

theorem spadCheck_scalar : spadCheck s.grp.decl.occupancy ty.bytes ty.bytes (s.grp.laneAddr a 0) = some c := by
  have hbound : s.grp.decl.occupancy = boundOf s false := s.bound_eq false
  rw [hbound, s.laneAddr_eq]
  exact hc

theorem execSld_fails (hr : mayAccess s false o) : exec (.sld r a ty o h) s =
    .next (s.trapEntry c ⟨c - 0x30, 0, 0, patternOf 52 (addrOf s a 0)⟩) := by
  change execSld r a ty o h s = _
  rw [← s.laneAddr_eq]
  simp only [execSld, show s.spadReady false o = true from hr, spadCheck_scalar hc, Bool.not_true, Bool.false_eq_true, if_false]

theorem execSst_fails (hr : mayAccess s true o) : exec (.sst r a ty o h) s =
    .next (s.trapEntry c ⟨c - 0x30, 1, 0, patternOf 52 (addrOf s a 0)⟩) := by
  change execSst r a ty o h s = _
  rw [← s.laneAddr_eq]
  simp only [execSst, show s.spadReady true o = true from hr, spadCheck_scalar hc, Bool.not_true, Bool.false_eq_true, if_false]

/-- The whole split traps, with the one address in every lane's entry. -/
theorem completes_trapEntry {i : Instr} {acc : Nat} (hd : s.grp.stack.length + 1 ≤ 32)
    (hexec : exec i s = .next (s.trapEntry c ⟨c - 0x30, acc, 0, patternOf 52 (addrOf s a 0)⟩)) :
    Completes i s fun t => (∃ low, PartTrapped s t s.grp s.em c low) ∧
      ∀ l, l < 32 → Sparse.get LaneFault.zero t.grp.faults l =
        if s.em.getLsbD l then ⟨c - 0x30, acc, 0, (addrOf s a 0 % (2 ^ 52 : Int)).toNat⟩
        else Sparse.get LaneFault.zero s.grp.faults l := by
  obtain ⟨_, htrap, hfiled⟩ := s.trapped_trapEntry (filesFault_spadCheck hc) hd
    ⟨c - 0x30, acc, 0, patternOf 52 (addrOf s a 0)⟩
  exact ⟨_, hexec, ⟨_, htrap.partTrapped⟩, fun l hl => by simpa [patternOf] using hfiled l hl⟩

end Whole

/-- Settles O21: each lane form is a lane access, so the lanes that pass do the work that they do in a split that holds no
others, and the trap takes the rest; SLD and SST trap as a whole. -/
theorem partialFaults : Obligations.PartialFaults := by
  unfold Obligations.PartialFaults
  intro s vd vc n a op ty du o h
  dsimp only
  rw [← s.pcPlus_words3]
  intro hown
  have hboth : Fits s (pairOf ty vc) → Fits s (regsOf ty vd ++ regsOf ty vc ++ addrRegs a) := fun hvc r hr => by
    rcases List.mem_append.1 hr with hr | hr
    · rcases List.mem_append.1 hr with hr | hr
      · exact hown r (List.mem_append_left _ hr)
      · exact hvc r hr
    · exact hown r (List.mem_append_right _ hr)
  refine ⟨fun hr => (laneAccess_ld h hown hr).fails, fun hr => (laneAccess_st h hown hr).fails,
    fun hr hvc => ⟨(laneAccess_atom h (hboth hvc) hr).fails, (laneAccess_acas h (hboth hvc) hr).fails⟩,
    fun hrow => ⟨fun hr => (laneAccess_ldt h hrow hr).fails, fun hr => (laneAccess_stt h hrow hr).fails⟩,
    fun hr => (laneAccess_ldw h hown hr).fails, fun r c hc _ hd => ⟨fun hr => ?_, fun hr => ?_⟩⟩
  · exact completes_trapEntry hc hd (execSld_fails h hc hr)
  · exact completes_trapEntry hc hd (execSst_fails h hc hr)

end Sys2Proof.Machine
end

section
/-!
PROOF. The start of a gang (R28, R107, R320): what dispatch writes of gangs, groups and grids.
-/

namespace Sys2Proof.Machine

open Sys2Proof.Claims

/-! ## Groups put at the group contexts of a core -/

section PutGroups
variable (s : State) (core : Nat)

theorem State.putGroups_cons (p : Nat × Group) (l : List (Nat × Group)) :
    s.putGroups core (p :: l) = (s.setGroup (64 * core + p.1) p.2).putGroups core l := rfl

theorem State.putGroups_keep (l : List (Nat × Group)) :
    s.putGroups core l = { s with groups := (s.putGroups core l).groups } := by
  induction l generalizing s with
  | nil => rfl
  | cons p l ih => rw [State.putGroups_cons, ih]; rfl

theorem State.group_putGroups_other {l : List (Nat × Group)} {k : Nat} (h : ∀ p ∈ l, k ≠ 64 * core + p.1) :
    (s.putGroups core l).group k = s.group k := by
  induction l generalizing s with
  | nil => rfl
  | cons p l ih =>
    rw [State.putGroups_cons, ih _ fun q hq => h q (List.mem_cons_of_mem _ hq), State.group_setGroup,
      if_neg (h p List.mem_cons_self)]

theorem State.group_putGroups_mem {l : List (Nat × Group)} (hn : (l.map Prod.fst).Nodup) {p : Nat} {x : Group}
    (h : (p, x) ∈ l) : (s.putGroups core l).group (64 * core + p) = x := by
  induction l generalizing s with
  | nil => simp at h
  | cons q l ih =>
    rw [List.map_cons, List.nodup_cons] at hn
    rw [State.putGroups_cons]
    rcases List.mem_cons.1 h with rfl | h
    · rw [State.group_putGroups_other, State.group_setGroup_self]
      intro r hr he
      exact hn.1 (List.mem_map.2 ⟨r, hr, by omega⟩)
    · exact ih _ hn.2 h

end PutGroups

/-! ## The gang and its groups as dispatch makes them -/

section Fresh
variable (g : Grid) (grid core n : Nat)

theorem Grid.spad_newGang (data : List Byte) (a : Nat) :
    Sparse.get 0 (g.newGang grid core n data).spad a = data.getD a 0 := by
  change Sparse.get 0 (Sparse.setRange 0 [] 0 data) a = _
  by_cases ha : a < data.length
  · have hin := Sparse.get_setRange_in (d := (0 : Byte)) [] (k := 0) ha
    rw [Nat.zero_add] at hin
    rw [hin, List.getD_eq_getElem _ _ ha]
  · rw [Sparse.get_setRange_out _ (by omega), List.getD_eq_default _ _ (by omega)]
    rfl

/-- A value set at every key of a list. -/
theorem Sparse.get_foldl_set {α : Type} [DecidableEq α] {d : α} (x : α) (ks : List Nat) (m : Sparse α) (j : Nat) :
    Sparse.get d (ks.foldl (fun m k => Sparse.set d m k x) m) j = if j ∈ ks then x else Sparse.get d m j := by
  induction ks generalizing m with
  | nil => simp
  | cons k ks ih =>
    rw [List.foldl_cons, ih, Sparse.get_set]
    by_cases hj : j = k <;> simp [hj]

theorem bitAt_eq_testBit (x k : Nat) : bitAt x k = x.testBit k := by
  rw [bitAt, Nat.testBit_eq_decide_div_mod_eq]

/-- The declared barriers are armed for the groups of the gang (R28). -/
theorem Grid.bar_newGang (data : List Byte) {b : Nat} (hb : b < 32) : (g.newGang grid core n data).bar b =
    if g.decl.barmask.testBit b then { Barrier.zero with exparr := g.groups } else Barrier.zero := by
  refine (Sparse.get_foldl_set (d := Barrier.zero) (armed g.groups) _ [] b).trans ?_
  simp [bitAt_eq_testBit, hb, armed]

/-- The scalars below k + 1 take the arguments. -/
def putArgs (args : List Word64) (k : Nat) (x : Group) : Group :=
  (List.range k).foldl (fun x i => x.writeS (i + 1) (args.getD i 0)) x

theorem putArgs_succ (args : List Word64) (k : Nat) (x : Group) :
    putArgs args (k + 1) x = (putArgs args k x).writeS (k + 1) (args.getD k 0) := by
  simp [putArgs, List.range_succ, List.foldl_append]

theorem putArgs_keep (args : List Word64) (k : Nat) (x : Group) :
    putArgs args k x = { x with s := (putArgs args k x).s } := by
  induction k with
  | zero => rfl
  | succ k ih => rw [putArgs_succ, Group.writeS_keep, ih]

theorem readS_putArgs (args : List Word64) (k : Nat) (x : Group) (r : Nat) :
    (putArgs args k x).readS r = if 1 ≤ r ∧ r ≤ k then args.getD (r - 1) 0 else x.readS r := by
  induction k with
  | zero => rw [if_neg (by omega)]; rfl
  | succ k ih =>
    rw [putArgs_succ, Group.readS_writeS, ih]
    by_cases hr : r = k + 1
    · subst hr; simp
    · rw [if_neg (by omega)]
      exact if_congr (by omega) rfl rfl

theorem Grid.launchGroup_eq (k : Nat) : g.launchGroup grid n k = putArgs g.args 8
    (newGroup g.ctx grid (gangKey grid n) g.prio g.decl (g.position n k) (BitVec.ofNat 52 g.entry) (BitVec.allOnes 32)) := rfl

theorem Grid.freshGroup_launchGroup (k : Nat) : FreshGroup (g.launchGroup grid n k) g.entry g.args := by
  have hread := readS_putArgs g.args 8 (newGroup g.ctx grid (gangKey grid n) g.prio g.decl (g.position n k)
    (BitVec.ofNat 52 g.entry) (BitVec.allOnes 32))
  have hzero : ∀ r, (newGroup g.ctx grid (gangKey grid n) g.prio g.decl (g.position n k) (BitVec.ofNat 52 g.entry)
      (BitVec.allOnes 32)).readS r = 0 := fun r => by simp [Group.readS, newGroup, Group.free]
  rw [g.launchGroup_eq]
  simp only [hzero] at hread
  rw [putArgs_keep] at hread ⊢
  refine ⟨rfl, rfl, fun _ _ => rfl, fun r d l => ?_, fun _ => rfl, hread, fun _ => rfl, fun _ => rfl, rfl, rfl, rfl, rfl, rfl,
    rfl, rfl, rfl⟩
  unfold Group.readT
  split <;> rfl

end Fresh

/-! ## Dispatch -/

section Dispatch
variable (s : State) (grid core : Nat) (places : List Nat)

/-- Only gangs, groups and the count of gangs dispatched of one grid change. -/
structure Dispatched (k : Nat) (s t : State) : Prop where
  keep : t = { s with gangs := t.gangs, groups := t.groups, grids := t.grids }
  others : ∀ j, j ≠ k → t.grid j = s.grid j
  grid : t.grid k = { s.grid k with dispatched := (t.grid k).dispatched }

theorem Dispatched.refl (k : Nat) (s : State) : Dispatched k s s := ⟨rfl, fun _ _ => rfl, rfl⟩

theorem Dispatched.trans {k : Nat} {s t u : State} (h : Dispatched k s t) (h' : Dispatched k t u) : Dispatched k s u where
  keep := by rw [h'.keep, h.keep]
  others j hj := (h'.others j hj).trans (h.others j hj)
  grid := by rw [h'.grid, h.grid]

theorem Dispatched.context {k : Nat} {s t : State} (h : Dispatched k s t) (ctx : Nat) : t.context ctx = s.context ctx := by
  rw [h.keep]; rfl

theorem Dispatched.queue {k : Nat} {s t : State} (h : Dispatched k s t) (ctx q : Nat) : t.queue ctx q = s.queue ctx q := by
  rw [State.queue, h.context]; rfl

theorem Dispatched.nextGrid {k : Nat} {s t : State} (h : Dispatched k s t) : t.nextGrid = s.nextGrid := by rw [h.keep]

/-- The places of the next gang of the grid, with its groups. -/
def State.nextGroups : List (Nat × Group) :=
  places.zipIdx.map fun p => (p.1, (s.grid grid).launchGroup grid (s.grid grid).dispatched p.2)

/-- The next gang of the grid. -/
def State.nextGang : Gang := (s.grid grid).newGang grid core (s.grid grid).dispatched (s.dataSection (s.grid grid))

theorem State.dispatchGang_eq : s.dispatchGang grid core places =
    ((s.setGang (gangKey grid (s.grid grid).dispatched) (s.nextGang grid core)).putGroups core
      (s.nextGroups grid places)).setGrid grid { s.grid grid with dispatched := (s.grid grid).dispatched + 1 } := rfl

theorem State.dispatchGang_keep : s.dispatchGang grid core places = { s with
    gangs := (s.dispatchGang grid core places).gangs, groups := (s.dispatchGang grid core places).groups,
    grids := (s.dispatchGang grid core places).grids } := by
  rw [State.dispatchGang_eq, State.putGroups_keep]; rfl

theorem State.grid_dispatchGang (j : Nat) : (s.dispatchGang grid core places).grid j =
    if j = grid then { s.grid grid with dispatched := (s.grid grid).dispatched + 1 } else s.grid j := by
  rw [State.dispatchGang_eq, State.grid_setGrid, State.putGroups_keep]; rfl

theorem State.gang_dispatchGang (j : Nat) : (s.dispatchGang grid core places).gang j =
    if j = gangKey grid (s.grid grid).dispatched then s.nextGang grid core else s.gang j := by
  rw [State.dispatchGang_eq, State.putGroups_keep, ← State.gang_setGang]; rfl

theorem State.group_dispatchGang (k : Nat) : (s.dispatchGang grid core places).group k =
    ((s.setGang (gangKey grid (s.grid grid).dispatched) (s.nextGang grid core)).putGroups core
      (s.nextGroups grid places)).group k := rfl

theorem State.dispatched_dispatchGang : Dispatched grid s (s.dispatchGang grid core places) where
  keep := s.dispatchGang_keep grid core places
  others j hj := by rw [State.grid_dispatchGang, if_neg hj]
  grid := by rw [State.grid_dispatchGang, if_pos rfl]

variable {places}

/-- Group i of the gang stands at the i-th place. -/
theorem State.group_dispatchGang_place (hn : places.Nodup) {i p : Nat} (hp : places[i]? = some p) :
    (s.dispatchGang grid core places).group (64 * core + p) =
      (s.grid grid).launchGroup grid (s.grid grid).dispatched i := by
  have hfst : (s.nextGroups grid places).map Prod.fst = places := by
    simp [State.nextGroups, Function.comp_def, List.zipIdx_map_fst]
  rw [State.group_dispatchGang]
  refine State.group_putGroups_mem _ _ (by rwa [hfst]) ?_
  exact List.mem_map.2 ⟨(p, i), List.mk_mem_zipIdx_iff_getElem?.2 hp, rfl⟩

theorem State.group_dispatchGang_other {k : Nat} (hk : ∀ p ∈ places, k ≠ 64 * core + p) :
    (s.dispatchGang grid core places).group k = s.group k := by
  rw [State.group_dispatchGang, State.group_putGroups_other]
  · rfl
  · intro q hq
    obtain ⟨r, hr, rfl⟩ := List.mem_map.1 hq
    exact hk r.1 (List.fst_mem_of_mem_zipIdx hr)

end Dispatch

/-! ## GANG_DISPATCH -/

variable (s : State) (grid core : Nat) (places : List Nat)

/-- Saved gangs go first, but on a core that a stall has freed (R324). -/
theorem execGangDispatch_waits (hsaved : s.savedOn (core / 16) ≠ []) (hstall : s.stallFreed grid core = false) :
    exec (.gangDispatch grid core places) s = .next s := by
  have hturn : s.dispatchTurn grid core = false := by simp [State.dispatchTurn, hsaved, hstall]
  change execGangDispatch grid core places s = _
  simp [execGangDispatch, hturn]

theorem gangsStart : Claims.GangsStart := by
  intro s grid core places
  dsimp only
  refine ⟨execGangDispatch_waits s grid core places, fun hlive hmore hfirst hopen hcore hfit => ?_⟩
  have hturn : s.dispatchTurn grid core = true := by
    have hfirst' : ((s.savedOn (core / 16)).isEmpty || s.stallFreed grid core) = true := by
      rw [hcore]; simpa using hfirst
    simp [State.dispatchTurn, hlive, hfirst', Grid.total, hmore]
  have hexec : exec (.gangDispatch grid core places) s = .next (s.dispatchGang grid core places) := by
    change execGangDispatch grid core places s = _
    have hall : (s.dispatchTurn grid core &&
        s.quarterOpen (s.grid grid).ctx ((s.grid grid).quarterOf ((s.grid grid).spanOf (s.grid grid).dispatched)
          ((s.grid grid).bandOf (s.grid grid).dispatched)) &&
        decide (core / 16 = (s.grid grid).quarterOf ((s.grid grid).spanOf (s.grid grid).dispatched)
          ((s.grid grid).bandOf (s.grid grid).dispatched)) &&
        s.placesFit core (s.grid grid).groups (s.grid grid).decl places) = true := by
      simp only [Grid.quarterOf, Grid.spanOf, Grid.bandOf, hturn, hopen, hcore, hfit, decide_true, Bool.and_true]
    unfold execGangDispatch
    dsimp only
    rw [if_pos hall]
  have hnodup : places.Nodup := by
    simp only [State.placesFit, Bool.and_eq_true, decide_eq_true_eq] at hfit
    exact hfit.1.1.1.1.2
  have hgang := s.gang_dispatchGang grid core places
  have hself : (s.dispatchGang grid core places).gang (1024 * grid + (s.grid grid).dispatched) = s.nextGang grid core :=
    (hgang _).trans (if_pos rfl)
  refine ⟨_, hexec, s.dispatchGang_keep grid core places, ?_, (s.dispatched_dispatchGang grid core places).others,
    fun j hj => (hgang j).trans (if_neg hj), ?_⟩
  · rw [State.grid_dispatchGang, if_pos rfl]
  · rw [hself]
    refine ⟨rfl, rfl, rfl, rfl, fun a => Grid.spad_newGang _ _ _ _ _ a, fun b hb => Grid.bar_newGang _ _ _ _ _ hb,
      fun i _ p hp => ?_, fun k hk => s.group_dispatchGang_other grid core hk⟩
    rw [s.group_dispatchGang_place grid core hnodup hp]
    refine ⟨Grid.freshGroup_launchGroup _ _ _ i, ?_⟩
    rw [Grid.launchGroup_eq, putArgs_keep]
    exact ⟨rfl, rfl, rfl, rfl, rfl, rfl, rfl, rfl, rfl, rfl, rfl, rfl, rfl, rfl, rfl⟩

end Sys2Proof.Machine
end

section
/-!
PROOF. LAUNCH (R308, R312, R318 to R322): the queue that stops, the command that starts, and the grid that is admitted.
-/

namespace Sys2Proof.Machine

open Sys2Proof.Claims

/-! ## Queues of a context -/

theorem Context.queue_setQueue (c : Context) (q : Nat) (x : Queue) : (c.setQueue q x).queue q = x := Sparse.get_set_self _ _ _

variable (s : State) (ctx q : Nat)

theorem State.queue_setContext (x : Context) : (s.setContext ctx x).queue ctx q = x.queue q := by
  rw [State.queue, State.context_setContext_self]

theorem State.queue_queueError (err : Nat) :
    (s.queueError ctx q err).queue ctx q = { s.queue ctx q with stopped := true, err := err } :=
  (State.queue_setContext s ctx q _).trans (Context.queue_setQueue _ _ _)

/-- A queue stops with an error whatever has happened beside it before. -/
theorem stoppedWith_queueError {s t : State} {ctx q : Nat} (err : Nat) (hq : t.queue ctx q = s.queue ctx q)
    (hg : t.grids = s.grids) : StoppedWith s (t.queueError ctx q err) ctx q err :=
  ⟨by rw [State.queue_queueError, hq], List.mem_append_right _ List.mem_cons_self, hg⟩

/-- What the commands of a queue leave alone when it is examined or stops, or when its next command starts: grids, gangs,
groups, and the event counts of its context. -/
structure GridsStand (ctx : Nat) (s t : State) : Prop where
  grids : t.grids = s.grids
  groups : t.groups = s.groups
  gangs : t.gangs = s.gangs
  nextGrid : t.nextGrid = s.nextGrid
  events : (t.context ctx).events = (s.context ctx).events

theorem GridsStand.refl (s : State) : GridsStand ctx s s := ⟨rfl, rfl, rfl, rfl, rfl⟩

theorem GridsStand.trans {ctx : Nat} {s t u : State} (h : GridsStand ctx s t) (h' : GridsStand ctx t u) : GridsStand ctx s u :=
  ⟨h'.grids.trans h.grids, h'.groups.trans h.groups, h'.gangs.trans h.gangs, h'.nextGrid.trans h.nextGrid,
    h'.events.trans h.events⟩

theorem gridsStand_queueError (err : Nat) : GridsStand ctx s (s.queueError ctx q err) where
  grids := rfl
  groups := rfl
  gangs := rfl
  nextGrid := rfl
  events := by
    have hc : (s.queueError ctx q err).context ctx = (s.context ctx).setQueue q _ := s.context_setContext_self ctx _
    rw [hc]; rfl

theorem State.examine_cases : s.examine ctx q = s ∨ ∃ err, s.examine ctx q = s.queueError ctx q err := by
  unfold State.examine
  dsimp only
  split
  · exact .inl rfl
  · split
    · exact .inr ⟨_, rfl⟩
    · split
      · exact .inr ⟨_, rfl⟩
      · exact .inl rfl

theorem gridsStand_examine : GridsStand ctx s (s.examine ctx q) := by
  obtain h | ⟨err, h⟩ := s.examine_cases ctx q
  · rw [h]; exact GridsStand.refl ctx s
  · rw [h]; exact gridsStand_queueError s ctx q err

/-- Examining a queue moves neither of its pointers. -/
theorem started_of_examine {s t : State} {ctx q : Nat} {run : List Started} (h : Started' s t ctx q run) :
    Started' s (t.examine ctx q) ctx q run := by
  obtain he | ⟨err, he⟩ := t.examine_cases ctx q
  · rwa [he]
  · rw [he, Started', State.queue_queueError]; exact h

/-- The queue whose head command starts. -/
def State.pastHead (s : State) (ctx q : Nat) (run : List Started) : State :=
  s.setContext ctx { (s.context ctx).setQueue q { s.queue ctx q with
      rptr := (s.queue ctx q).rptr + 1, running := (s.queue ctx q).running ++ run } with
    served := Sparse.set 0 (s.context ctx).served (s.queue ctx q).prio (q + 1) }

theorem State.startCommand_eq (run : List Started) : s.startCommand ctx q run = (s.pastHead ctx q run).examine ctx q := rfl

theorem started_startCommand (run : List Started) : Started' s (s.startCommand ctx q run) ctx q run := by
  rw [State.startCommand_eq]
  refine started_of_examine ?_
  have hq : (s.pastHead ctx q run).queue ctx q =
      { s.queue ctx q with rptr := (s.queue ctx q).rptr + 1, running := (s.queue ctx q).running ++ run } :=
    (State.queue_setContext s ctx q _).trans (Context.queue_setQueue _ _ _)
  rw [Started', hq]
  exact ⟨rfl, rfl, rfl⟩

theorem gridsStand_startCommand (run : List Started) : GridsStand ctx s (s.startCommand ctx q run) := by
  have h := gridsStand_examine (s.pastHead ctx q run) ctx q
  have hevents : ((s.pastHead ctx q run).context ctx).events = (s.context ctx).events := by
    rw [State.pastHead, State.context_setContext_self]; rfl
  exact ⟨h.grids, h.groups, h.gangs, h.nextGrid, h.events.trans hevents⟩

/-! ## Loading the image (R318) -/

/-- A load writes the images of its context and nothing that a launch reads or changes beside. -/
structure ImageLoaded (ctx : Nat) (s t : State) : Prop extends GridsStand ctx s t where
  queue : ∀ q, t.queue ctx q = s.queue ctx q

theorem imageLoaded_setContext {c : Context} (hq : c.queues = (s.context ctx).queues) (he : c.events = (s.context ctx).events) :
    ImageLoaded ctx s (s.setContext ctx c) where
  grids := rfl
  groups := rfl
  gangs := rfl
  nextGrid := rfl
  events := by rw [State.context_setContext_self, he]
  queue q := by rw [State.queue_setContext, Context.queue, hq]; rfl

theorem imageLoaded_loadImageAt (base : Nat) : ImageLoaded ctx s (s.loadImageAt ctx base).1 := by
  have hself : ImageLoaded ctx s s := ⟨GridsStand.refl ctx s, fun _ => rfl⟩
  unfold State.loadImageAt
  dsimp only
  split
  · exact hself
  · split
    · exact hself
    · split
      · exact imageLoaded_setContext s ctx rfl rfl
      · split
        · exact imageLoaded_setContext s ctx rfl rfl
        · exact imageLoaded_setContext s ctx rfl rfl

/-! ## Admission (R239, R319 to R322) -/

/-- What each step of a fold leaves alone, the fold leaves alone. -/
theorem foldl_keep {α β γ : Type} {f : β → α → β} (see : β → γ) (h : ∀ b x, see (f b x) = see b) (l : List α)
    (b : β) : see (l.foldl f b) = see b := by
  induction l generalizing b with
  | nil => rfl
  | cons x l ih => rw [List.foldl_cons, ih, h]

/-- Forming blocks writes quarters, so what does not see them sees no change. -/
theorem State.fuse_keep {α : Type} (see : State → α) (h : ∀ s q x, see (State.setQuarter s q x) = see s) (d : LaunchDesc)
    (p : Partition) (grid : Nat) : see (s.fuse d p grid) = see s :=
  foldl_keep see (fun s k => foldl_keep see (fun s b => foldl_keep see (fun s q => h s q _) b s) (d.formed p k) s) _ s

theorem gridsStand_fuse (d : LaunchDesc) (p : Partition) (grid : Nat) : GridsStand ctx s (s.fuse d p grid) where
  grids := s.fuse_keep State.grids (fun _ _ _ => rfl) d p grid
  groups := s.fuse_keep State.groups (fun _ _ _ => rfl) d p grid
  gangs := s.fuse_keep State.gangs (fun _ _ _ => rfl) d p grid
  nextGrid := s.fuse_keep State.nextGrid (fun _ _ _ => rfl) d p grid
  events := s.fuse_keep (fun s => (s.context ctx).events) (fun _ _ _ => rfl) d p grid

theorem State.queue_fuse (d : LaunchDesc) (p : Partition) (grid : Nat) : (s.fuse d p grid).queue ctx q = s.queue ctx q :=
  s.fuse_keep (fun s => s.queue ctx q) (fun _ _ _ => rfl) d p grid

/-- The grid of a descriptor and an image as it is admitted (R319 to R321). -/
def State.admitted (s : State) (ctx q evid : Nat) (d : LaunchDesc) (i : Image) : Grid :=
  { live := true, ctx := ctx, queue := q, evid := evid, prio := (s.queue ctx q).prio, image := i.base, entry := i.entry,
    datalen := i.dataLen, decl := i.decl, spans := d.spans, bands := d.bands, gangs := d.gangs, groups := d.groups,
    diemap := d.diemap.take d.spans, fmode := d.fmode.take d.spans, cor := d.cor, args := d.args,
    wsmap := (s.context ctx).wsmap, quarters := d.places (s.part (s.context ctx).part), left := [], dispatched := 0,
    retired := 0, lastRetire := 0, lastFlip := 0, savedBands := [] }

/-- The machine with the grid admitted, its event counting from 0, before its blocks form. -/
def State.withGrid (s : State) (ctx q evid : Nat) (d : LaunchDesc) (i : Image) : State :=
  { (s.setContext ctx { s.context ctx with events := Sparse.set 0 (s.context ctx).events evid 0 }).setGrid s.nextGrid
      (s.admitted ctx q evid d i) with nextGrid := s.nextGrid + 1 }

theorem State.startGrid_eq (evid : Nat) (d : LaunchDesc) (i : Image) : s.startGrid ctx q evid d i =
    ((s.withGrid ctx q evid d i).fuse d (s.part (s.context ctx).part) s.nextGrid).startCommand ctx q
      [⟨(s.queue ctx q).rptr, some s.nextGrid, none⟩] := rfl

section StartGrid
variable (evid : Nat) (d : LaunchDesc) (i : Image)

theorem State.context_withGrid : (s.withGrid ctx q evid d i).context ctx =
    { s.context ctx with events := Sparse.set 0 (s.context ctx).events evid 0 } :=
  s.context_setContext_self ctx { s.context ctx with events := Sparse.set 0 (s.context ctx).events evid 0 }

theorem State.queue_withGrid : (s.withGrid ctx q evid d i).queue ctx q = s.queue ctx q := by
  rw [State.queue, State.context_withGrid]; rfl

theorem State.withGrid_groups : (s.withGrid ctx q evid d i).groups = s.groups := by
  rw [State.withGrid, State.setGrid_groups, State.setContext_groups]

theorem State.withGrid_gangs : (s.withGrid ctx q evid d i).gangs = s.gangs := by
  rw [State.withGrid, State.setGrid_gangs, State.setContext_gangs]

theorem State.withGrid_nextGrid : (s.withGrid ctx q evid d i).nextGrid = s.nextGrid + 1 := rfl

theorem State.grid_withGrid (j : Nat) : (s.withGrid ctx q evid d i).grid j =
    if j = s.nextGrid then s.admitted ctx q evid d i else s.grid j :=
  Sparse.get_set (d := Grid.none) s.grids s.nextGrid j (s.admitted ctx q evid d i)

theorem gridsStand_startGrid : GridsStand ctx (s.withGrid ctx q evid d i) (s.startGrid ctx q evid d i) := by
  rw [State.startGrid_eq]
  exact (gridsStand_fuse _ ctx d _ _).trans (gridsStand_startCommand _ ctx q _)

theorem started_startGrid :
    Started' s (s.startGrid ctx q evid d i) ctx q [⟨(s.queue ctx q).rptr, some s.nextGrid, none⟩] := by
  rw [State.startGrid_eq]
  have h := started_startCommand ((s.withGrid ctx q evid d i).fuse d (s.part (s.context ctx).part) s.nextGrid) ctx q
    [⟨(s.queue ctx q).rptr, some s.nextGrid, none⟩]
  rwa [Started', State.queue_fuse, State.queue_withGrid] at h

theorem State.grid_startGrid (j : Nat) : (s.startGrid ctx q evid d i).grid j =
    if j = s.nextGrid then s.admitted ctx q evid d i else s.grid j := by
  rw [← s.grid_withGrid ctx q, State.grid, (gridsStand_startGrid s ctx q evid d i).grids]; rfl

theorem State.events_startGrid : Sparse.get 0 ((s.startGrid ctx q evid d i).context ctx).events evid = 0 := by
  rw [(gridsStand_startGrid s ctx q evid d i).events, State.context_withGrid, Sparse.get_set_self]

end StartGrid

/-! ## The gangs of a co-resident grid (R322) -/

theorem dispatched_dispatchCor (grid : Nat) : Dispatched grid s (s.dispatchCor grid) := by
  unfold State.dispatchCor
  dsimp only
  split
  · exact Dispatched.refl grid s
  · exact s.dispatched_dispatchGang grid _ _

theorem dispatched_dispatchAll (grid : Nat) : Dispatched grid s (s.dispatchAll grid) := by
  have key : ∀ (l : List Nat) (s : State), Dispatched grid s (l.foldl (fun s _ => s.dispatchCor grid) s) := by
    intro l
    induction l with
    | nil => exact fun s => Dispatched.refl grid s
    | cons k l ih => exact fun s => (dispatched_dispatchCor s grid).trans (ih _)
  unfold State.dispatchAll
  split
  · exact key _ s
  · exact Dispatched.refl grid s

theorem State.dispatchAll_not_cor {grid : Nat} (h : (s.grid grid).cor = false) : s.dispatchAll grid = s := by
  simp [State.dispatchAll, h]

/-! ## LAUNCH -/

section Launch
variable {s ctx q} {evid desc : Nat} (hs : Served s ctx q (.launch evid desc))
include hs

theorem execLaunch_unmapped (hd : s.descAt ctx desc = none) : exec (.launch ctx q) s = .next (s.queueError ctx q 2) := by
  obtain ⟨hhead, hserves⟩ := hs
  change execLaunch ctx q s = _
  simp only [execLaunch, hhead, hserves, hd, Bool.not_true, Bool.false_eq_true, if_false]

variable {d : LaunchDesc} (hd : s.descAt ctx desc = some d)
include hd

theorem execLaunch_noImage (hi : (s.loadImageAt ctx d.image).2 = none) :
    exec (.launch ctx q) s = .next ((s.loadImageAt ctx d.image).1.queueError ctx q 2) := by
  obtain ⟨hhead, hserves⟩ := hs
  change execLaunch ctx q s = _
  generalize hload : s.loadImageAt ctx d.image = load at hi ⊢
  obtain ⟨s1, _⟩ := load
  subst hi
  simp only [execLaunch, hhead, hserves, hd, hload, Bool.not_true, Bool.false_eq_true, if_false]

theorem execLaunch_image {i : Image} (hi : (s.loadImageAt ctx d.image).2 = some i) : exec (.launch ctx q) s = .next (
    if d.refused (s.part (s.context ctx).part) i.decl then (s.loadImageAt ctx d.image).1.queueError ctx q 2
    else ((s.loadImageAt ctx d.image).1.startGrid ctx q evid d i).dispatchAll s.nextGrid) := by
  obtain ⟨hhead, hserves⟩ := hs
  change execLaunch ctx q s = _
  generalize hload : s.loadImageAt ctx d.image = load at hi ⊢
  obtain ⟨s1, _⟩ := load
  subst hi
  simp only [execLaunch, hhead, hserves, hd, hload, Bool.not_true, Bool.false_eq_true, if_false]

end Launch

theorem launches : Claims.Launches := by
  intro s ctx q evid desc
  dsimp only
  intro hs
  refine ⟨fun hd => ⟨_, execLaunch_unmapped hs hd, stoppedWith_queueError 2 rfl rfl⟩, fun d hd => ?_⟩
  have hload := imageLoaded_loadImageAt s ctx d.image
  have hstop : StoppedWith s ((s.loadImageAt ctx d.image).1.queueError ctx q 2) ctx q 2 :=
    stoppedWith_queueError 2 (hload.queue q) hload.grids
  refine ⟨fun hi => ⟨_, execLaunch_noImage hs hd hi, hstop⟩, fun i hi => ?_⟩
  have hexec := execLaunch_image hs hd hi
  refine ⟨fun hr => ⟨_, hexec.trans (by rw [if_pos hr]), hstop⟩, fun hr => ?_⟩
  clear hstop
  rw [if_neg (by rw [hr]; exact Bool.false_ne_true)] at hexec
  generalize (s.loadImageAt ctx d.image).1 = s1 at hload hexec
  have hdisp := dispatched_dispatchAll (s1.startGrid ctx q evid d i) s.nextGrid
  have hgrid := hdisp.grid
  rw [State.grid_startGrid, if_pos hload.nextGrid.symm] at hgrid
  have hstart := started_startGrid s1 ctx q evid d i
  rw [Started', hload.queue, hload.nextGrid] at hstart
  have hstand := gridsStand_startGrid s1 ctx q evid d i
  have hprio : (s1.admitted ctx q evid d i).prio = (s.queue ctx q).prio := congrArg Queue.prio (hload.queue q)
  refine ⟨_, hexec, ?_⟩
  beta_reduce
  rw [hgrid]
  refine ⟨?_, ?_, ?_, rfl, rfl, rfl, rfl, hprio, rfl, rfl, rfl, rfl, rfl, rfl, rfl, rfl, rfl, fun j hj => ?_,
    fun hcor => ?_⟩
  · rwa [Started', hdisp.queue]
  · rw [hdisp.nextGrid, hstand.nextGrid, State.withGrid_nextGrid, hload.nextGrid]
  · rw [hdisp.context, State.events_startGrid]
  · rw [hdisp.others j hj, State.grid_startGrid, hload.nextGrid, if_neg hj, State.grid, hload.grids]; rfl
  · have hnone : (s1.startGrid ctx q evid d i).dispatchAll s.nextGrid = s1.startGrid ctx q evid d i :=
      State.dispatchAll_not_cor _ (by rw [State.grid_startGrid, if_pos hload.nextGrid.symm]; exact hcor)
    rw [hnone, State.grid_startGrid, if_pos hload.nextGrid.symm]
    exact ⟨rfl, by rw [hstand.groups, State.withGrid_groups, hload.groups],
      by rw [hstand.gangs, State.withGrid_gangs, hload.gangs]⟩

/-- Settles O55: a launch that is refused stops its queue, any other admits its grid, and dispatch starts the next gang of a
grid with fresh groups or does nothing. -/
theorem launchesAndGangs : Obligations.LaunchesAndGangs := ⟨launches, gangsStart⟩

end Sys2Proof.Machine
end

section
/-!
PROOF. Encoding and decoding agree (R35 to R55): what both directions share. A frame names the words of an instruction; the
fields of a word and the word that fields make up; offsets, registers and literals; the checks of R51 that a form passes.
-/

namespace Sys2Proof

open Machine

/-! ## Frames and their words (R35) -/

/-- The frame is one that LEN names: LEN stands in word 0, and what it leaves out is absent. -/
structure Frame.Named (f : Frame) : Prop where
  len : f.len = f.w0 % 4
  lit : f.lit.isSome = decide (2 ≤ f.len)
  ext : f.len % 2 = 0 → f.e1 = 0 ∧ f.e2 = 0

/-- The words of the frame have 32 bits, and its literal 64. -/
structure Frame.Bounded (f : Frame) : Prop where
  w0 : f.w0 < 2 ^ 32
  e1 : f.e1 < 2 ^ 32
  e2 : f.e2 < 2 ^ 32
  lit : ∀ x, f.lit = some x → x < 2 ^ 64

/-- Decoding reads the instruction back from its frame. -/
def Reads (i : Instr) : Prop :=
  i.wf = true → ∀ f, encodeFrame i = some f → f.Named ∧ decodeFrame f = .instr i

/-- The frame is the encoding of the instruction, which is well formed. -/
def Denotes (f : Frame) (i : Instr) : Prop := i.wf = true ∧ encodeFrame i = some f

theorem Reads.of_frame {i : Instr} {f : Frame} (he : encodeFrame i = some f)
    (h : i.wf = true → f.Named ∧ decodeFrame f = .instr i) : Reads i := by
  intro hw g hg
  rw [he] at hg
  exact Option.some.inj hg ▸ h hw

variable {f : Frame} {ws : List Nat} {i : Instr}

theorem Frame.ofWords_words (hn : f.Named) (rest : List Nat) : Frame.ofWords (f.words ++ rest) = some f := by
  obtain ⟨len, w0, e1, e2, lit⟩ := f
  obtain ⟨hlen, hlit, hext⟩ := hn
  dsimp only at hlen hlit hext
  have h4 : len = 0 ∨ len = 1 ∨ len = 2 ∨ len = 3 := by omega
  have hx (x : Nat) : x % 4294967296 + 4294967296 * (x / 4294967296) = x := Nat.mod_add_div x _
  rcases h4 with rfl | rfl | rfl | rfl <;> cases lit <;>
    simp_all [Frame.words, Frame.ofWords, ← hlen]

/-- The literal of two words: its halves are the words. -/
theorem literal_halves {lo hi : Nat} (hlo : lo < 2 ^ 32) (hhi : hi < 2 ^ 32) :
    (lo + 4294967296 * hi) % 4294967296 = lo ∧ (lo + 4294967296 * hi) / 4294967296 = hi ∧
      lo + 4294967296 * hi < 2 ^ 64 := by omega

theorem Frame.ofWords_some (hb : ∀ w ∈ ws, w < 2 ^ 32) (h : Frame.ofWords ws = some f) :
    f.Named ∧ f.Bounded ∧ f.words <+: ws := by
  unfold Frame.ofWords at h
  split at h
  · cases h
  · next w0 ws =>
    have h0 : w0 < 2 ^ 32 := hb _ (by simp)
    split at h
    · next hlen =>
      cases h
      exact ⟨⟨hlen.symm, rfl, fun _ => ⟨rfl, rfl⟩⟩, ⟨h0, by simp, by simp, by simp⟩, ws, rfl⟩
    split at h
    · next hlen =>
      split at h <;> cases h
      exact ⟨⟨hlen.symm, rfl, by simp⟩, ⟨h0, hb _ (by simp), hb _ (by simp), by simp⟩, _, rfl⟩
    split at h
    · next hlen =>
      split at h
      · next lo hi tail =>
        cases h
        obtain ⟨hlo, hhi, hlit⟩ := literal_halves (hb lo (by simp)) (hb hi (by simp))
        exact ⟨⟨hlen.symm, rfl, fun _ => ⟨rfl, rfl⟩⟩, ⟨h0, by simp, by simp, by simpa using hlit⟩,
          by simp [Frame.words, hlo, hhi]⟩
      · cases h
    · split at h
      · next e1 e2 lo hi tail =>
        cases h
        obtain ⟨hlo, hhi, hlit⟩ := literal_halves (hb lo (by simp)) (hb hi (by simp))
        exact ⟨⟨by dsimp only; omega, rfl, by simp⟩,
          ⟨h0, hb _ (by simp), hb _ (by simp), by simpa using hlit⟩, by simp [Frame.words, hlo, hhi]⟩
      · cases h

/-! ## The checks of R51 -/

variable {u : LitUse} {z : Bool} {r : Option Instr}

theorem form1_instr : form1 u f z r = .instr i ↔ lenOk1 u f = true ∧ z = true ∧ extZero f = true ∧ r = some i := by
  unfold form1
  cases lenOk1 u f <;> cases z <;> cases extZero f <;> cases r <;> simp

theorem formX_instr : formX u f z r = .instr i ↔ lenOkX u f = true ∧ z = true ∧ r = some i := by
  unfold formX
  cases lenOkX u f <;> cases z <;> cases r <;> simp

theorem allow_some {α : Type} {b : Bool} {x y : α} : allow b x = some y ↔ b = true ∧ x = y := by
  cases b <;> simp [allow]

theorem lenOk1_never : lenOk1 .never f = true ↔ f.lit = none := by simp [lenOk1]

theorem lenOk1_must : lenOk1 .must f = true ↔ ∃ x, f.lit = some x := Option.isSome_iff_exists

/-! ## Fields -/

theorem field_lt (x lo n : Nat) : field x lo n < 2 ^ n := Nat.mod_lt _ (by positivity)

/-- A field above the low bits of a word does not see them. -/
theorem field_above {x lo n : Nat} (k r : Nat) (hx : x % 2 ^ k = 0) (hr : r < 2 ^ k) (hk : k ≤ lo) :
    field (x + r) lo n = field x lo n := by
  obtain ⟨d, rfl⟩ := Nat.exists_eq_add_of_le hk
  obtain ⟨q, rfl⟩ := Nat.dvd_of_mod_eq_zero hx
  simp only [field, pow_add, ← Nat.div_div_eq_div_mul]
  rw [Nat.mul_add_div (by positivity), Nat.div_eq_of_lt hr, Nat.mul_div_cancel_left _ (by positivity), add_zero]

/-- A field of one bit is a Boolean. -/
theorem toNat_field1 (x lo : Nat) : (field x lo 1 == 1).toNat = field x lo 1 := by
  have h := field_lt x lo 1
  interval_cases field x lo 1 <;> rfl

@[simp] theorem toNat_beq_one (b : Bool) : (b.toNat == 1) = b := by cases b <;> rfl

/-! ## Signed fields (R62) -/

theorem patternOf_eq_toNat (n : Nat) (k : Int) : patternOf n k = (BitVec.ofInt n k).toNat := by
  rw [patternOf, BitVec.toNat_ofInt]

theorem patternOf_lt (n : Nat) (k : Int) : patternOf n k < 2 ^ n := by
  rw [patternOf_eq_toNat]
  exact BitVec.isLt _

theorem patternOf_signedOf {n x : Nat} (hx : x < 2 ^ n) : patternOf n (signedOf n x) = x := by
  rw [patternOf_eq_toNat, signedOf_eq_toInt, BitVec.ofInt_toInt, BitVec.toNat_ofNat, Nat.mod_eq_of_lt hx]

theorem signedOf_patternOf {n : Nat} {k : Int} (hn : 0 < n) (hl : -(2 ^ (n - 1) : Int) ≤ k) (hu : k < 2 ^ (n - 1)) :
    signedOf n (patternOf n k) = k := by
  rw [patternOf_eq_toNat, signedOf_eq_toInt, BitVec.ofNat_toNat, BitVec.setWidth_eq, BitVec.toInt_ofInt_eq_self hn hl hu]

theorem signedOf_bounds {n : Nat} (x : Nat) : -(2 ^ (n - 1) : Int) ≤ signedOf n x ∧ signedOf n x < 2 ^ (n - 1) := by
  rw [signedOf_eq_toInt]
  exact ⟨BitVec.le_toInt _, BitVec.toInt_lt⟩

/-! ## Offsets, registers and the literal that replaces them (R44, R46) -/

variable {n raw : Nat}

theorem Off.field_lt (t : Off) : t.field n < 2 ^ n := by
  cases t with
  | small k => exact patternOf_lt n k
  | lit x => exact Nat.two_pow_pos n

theorem offOf_field {t : Off} (hn : 0 < n) (ht : offOk n t = true) (hl : f.lit = t.lit?) : offOf n (t.field n) f = t := by
  cases t with
  | small k =>
    simp only [offOk, Bool.and_eq_true, decide_eq_true_eq] at ht
    simp only [offOf, hl, Off.lit?, Off.field, signedOf_patternOf hn ht.1 ht.2]
  | lit x => simp only [offOf, hl, Off.lit?]

theorem litZero_field {t : Off} (hl : f.lit = t.lit?) : litZero (t.field n) f = true := by
  cases t <;> simp [litZero, hl, Off.lit?, Off.field]

theorem offOk_offOf (hb : f.Bounded) : offOk n (offOf n raw f) = true := by
  unfold offOf
  split
  · simpa [offOk] using signedOf_bounds raw
  · next x hx => exact decide_eq_true (hb.lit x hx)

theorem field_offOf (hraw : raw < 2 ^ n) (hz : litZero raw f = true) : (offOf n raw f).field n = raw := by
  unfold offOf
  split
  · exact patternOf_signedOf hraw
  · next x hx =>
    have h0 : raw = 0 := by simpa [litZero, hx] using hz
    exact h0.symm

@[simp] theorem lit_offOf : (offOf n raw f).lit? = f.lit := by
  unfold offOf
  split <;> exact Eq.symm ‹_›

theorem regLitOf_regField {b : RegLit} (hl : f.lit = b.lit?) : regLitOf b.regField f = b := by
  cases b <;> simp [regLitOf, hl, RegLit.lit?, RegLit.regField]

theorem litZero_regField {b : RegLit} (hl : f.lit = b.lit?) : litZero b.regField f = true := by
  cases b <;> simp [litZero, hl, RegLit.lit?, RegLit.regField]

theorem RegLit.regField_lt {b : RegLit} (hb : regLitOk b = true) : b.regField < 64 := by
  cases b with
  | reg r => exact of_decide_eq_true hb
  | lit x => exact Nat.zero_lt_succ _

theorem regLitOk_regLitOf (hb : f.Bounded) (hraw : raw < 64) : regLitOk (regLitOf raw f) = true := by
  unfold regLitOf
  split
  · exact decide_eq_true hraw
  · next x hx => exact decide_eq_true (hb.lit x hx)

theorem regField_regLitOf (hz : litZero raw f = true) : (regLitOf raw f).regField = raw := by
  unfold regLitOf
  split
  · rfl
  · next x hx =>
    have h0 : raw = 0 := by simpa [litZero, hx] using hz
    exact h0.symm

@[simp] theorem lit_regLitOf : (regLitOf raw f).lit? = f.lit := by
  unfold regLitOf
  split <;> exact Eq.symm ‹_›

/-- The literal keeps within n bits in the frame as in the operand. -/
theorem litFits_iff : litFits n f = litBelow n (regLitOf raw f) := by
  unfold litFits regLitOf
  cases hf : f.lit with
  | none => rfl
  | some x => simp [litBelow, Bool.beq_eq_decide_eq, Nat.div_eq_zero_iff]

/-! ## Codes (R39, R50) -/

@[simp] theorem Ty.ofCode_code (t : Ty) : Ty.ofCode t.code = some t := by cases t <;> rfl
@[simp] theorem Rm.ofCode_code (m : Rm) : Rm.ofCode m.code = some m := by cases m <;> rfl
@[simp] theorem Comb.ofCode_code (c : Comb) : Comb.ofCode c.code = some c := by cases c <;> rfl
@[simp] theorem MemOrd.ofCode_code (o : MemOrd) : MemOrd.ofCode o.code = o := by cases o <;> rfl
@[simp] theorem Scope.ofCode_code (c : Scope) : Scope.ofCode c.code = some c := by cases c <;> rfl
@[simp] theorem Cls.ofCode_code (c : Cls) : Cls.ofCode c.code = some c := by cases c <;> rfl
@[simp] theorem Perm.ofCode_code (p : Perm) : Perm.ofCode p.code = some p := by cases p <;> rfl
@[simp] theorem SysReg.ofCode_code (y : SysReg) : SysReg.ofCode y.code = some y := by cases y <;> rfl
@[simp] theorem Cond.ofCode_code (c : Cond) : Cond.ofCode c.code = some c := by cases c <;> rfl
@[simp] theorem CollKind.ofCode_code (k : CollKind) : CollKind.ofCode k.code = k := by cases k <;> rfl
@[simp] theorem CollOp.ofCode_code (o : CollOp) : CollOp.ofCode o.code = some o := by cases o <;> rfl

theorem Ty.code_lt (t : Ty) : t.code < 12 := by cases t <;> decide
theorem Rm.code_lt (m : Rm) : m.code < 4 := by cases m <;> decide
theorem Comb.code_lt (c : Comb) : c.code < 7 := by cases c <;> decide
theorem MemOrd.code_lt (o : MemOrd) : o.code < 4 := by cases o <;> decide
theorem Scope.code_lt (c : Scope) : c.code < 7 := by cases c <;> decide
theorem Cls.code_lt (c : Cls) : c.code < 9 := by cases c <;> decide
theorem Perm.code_lt (p : Perm) : p.code < 4 := by cases p <;> decide
theorem SysReg.code_lt (y : SysReg) : y.code < 64 := by cases y <;> decide
theorem Cond.code_lt (c : Cond) : c.code < 8 := by cases c <;> decide
theorem CollKind.code_lt (k : CollKind) : k.code < 4 := by cases k <;> decide
theorem CollOp.code_lt (o : CollOp) : o.code < 3 := by cases o <;> decide

theorem Ty.code_of {n : Nat} {t : Ty} (h : Ty.ofCode n = some t) : t.code = n := by
  unfold Ty.ofCode at h
  split at h <;> cases h <;> rfl

theorem Rm.code_of {n : Nat} {m : Rm} (h : Rm.ofCode n = some m) : m.code = n := by
  unfold Rm.ofCode at h
  split at h <;> cases h <;> rfl

theorem Comb.code_of {n : Nat} {c : Comb} (h : Comb.ofCode n = some c) : c.code = n := by
  unfold Comb.ofCode at h
  split at h <;> cases h <;> rfl

theorem MemOrd.code_of {n : Nat} (h : n < 4) : (MemOrd.ofCode n).code = n := by
  interval_cases n <;> rfl

theorem Scope.code_of {n : Nat} {c : Scope} (h : Scope.ofCode n = some c) : c.code = n := by
  unfold Scope.ofCode at h
  split at h <;> cases h <;> rfl

theorem Cls.code_of {n : Nat} {c : Cls} (h : Cls.ofCode n = some c) : c.code = n := by
  unfold Cls.ofCode at h
  split at h <;> cases h <;> rfl

theorem Perm.code_of {n : Nat} {p : Perm} (h : Perm.ofCode n = some p) : p.code = n := by
  unfold Perm.ofCode at h
  split at h <;> cases h <;> rfl

theorem SysReg.code_of {n : Nat} {y : SysReg} (h : SysReg.ofCode n = some y) : y.code = n := by
  unfold SysReg.ofCode at h
  split at h <;> cases h <;> rfl

theorem Cond.code_of {n : Nat} {c : Cond} (h : Cond.ofCode n = some c) : c.code = n := by
  unfold Cond.ofCode at h
  split at h <;> cases h <;> rfl

theorem CollKind.code_of {n : Nat} (h : n < 4) : (CollKind.ofCode n).code = n := by
  interval_cases n <;> rfl

theorem CollOp.code_of {n : Nat} {o : CollOp} (h : CollOp.ofCode n = some o) : o.code = n := by
  unfold CollOp.ofCode at h
  split at h <;> cases h <;> rfl

end Sys2Proof
end

section
/-!
PROOF. The one-word formats (R41): word 0 of each, the encoding of a frame's own fields, and both directions for every form.
-/

namespace Sys2Proof

open Machine

variable {f : Frame} {i : Instr} {maj body : Nat} {h lit : Option Nat}

/-! ## What the one-word formats share -/

/-- The frame is one of a one-word format with this major, hint byte and literal, and body above bit 8 of word 0. -/
structure Frame.Is1 (f : Frame) (maj body : Nat) (h lit : Option Nat) : Prop where
  major : field f.w0 2 7 = maj
  above : ∀ lo n, 9 ≤ lo → field f.w0 lo n = field body lo n
  hint : hint1 f = h
  ext : extZero f = true
  lit : f.lit = lit

theorem len1_lt (h lit : Option Nat) : len1 h lit < 4 := by
  cases h <;> cases lit <;> simp [len1]

/-- How a form of a one-word format is shown to read back: its frame is named, and decoding needs only what Is1 says. -/
theorem enc1_reads (hm : maj < 128) (hb : body % 512 = 0) (hh : hintOk h = true)
    (hd : ∀ f, f.Is1 maj body h lit → decodeFrame f = .instr i) :
    (enc1 maj body h lit).Named ∧ decodeFrame (enc1 maj body h lit) = .instr i := by
  have hl4 := len1_lt h lit
  have hw : (enc1 maj body h lit).w0 = body + (maj * 4 + len1 h lit) := Nat.add_assoc ..
  refine ⟨⟨?_, ?_, ?_⟩, hd _ ⟨?_, fun lo n hlo => ?_, ?_, ?_, rfl⟩⟩
  · rw [hw]; show len1 h lit = _; omega
  · cases h <;> cases lit <;> rfl
  · cases h <;> cases lit <;> simp [enc1, len1]
  · rw [hw, field]; omega
  · rw [hw]; exact field_above 9 _ hb (by omega) hlo
  · cases h <;> cases lit <;> simp_all [enc1, len1, hint1, hintOk, Nat.mod_eq_of_lt]
  · cases h <;> simp_all [extZero, enc1, hintOk, Nat.div_eq_of_lt]

/-- A named frame whose extension words are as R37 asks is the encoding of its fields. -/
theorem enc1_of_frame (hn : f.Named) (hx : extZero f = true) (hm : field f.w0 2 7 = maj)
    (hw : f.w0 / 512 * 512 = body) : enc1 maj body (hint1 f) f.lit = f := by
  subst hw
  obtain ⟨len, w0, e1, e2, lit⟩ := f
  obtain ⟨hlen, hlit, hext⟩ := hn
  simp only [extZero, Bool.and_eq_true, beq_iff_eq] at hx
  simp only [field] at hm
  dsimp only at hlen hlit hext hx
  obtain ⟨hx1, rfl⟩ := hx
  have hw : w0 / 512 * 512 + maj * 4 + len = w0 := by omega
  have he : e1 % 256 = e1 := Nat.mod_eq_of_lt (by omega)
  have h4 : len < 4 := by omega
  clear hlen hm
  interval_cases len <;> cases lit <;> simp_all [enc1, len1, hint1]

@[simp] theorem hintOk_hint1 : hintOk (hint1 f) = true := by
  unfold hint1
  split <;> simp [hintOk, Nat.mod_lt]

@[simp] theorem field3_lt (x lo : Nat) : field x lo 3 < 8 := field_lt x lo 3
@[simp] theorem field4_lt (x lo : Nat) : field x lo 4 < 16 := field_lt x lo 4
@[simp] theorem field5_lt (x lo : Nat) : field x lo 5 < 32 := field_lt x lo 5
@[simp] theorem field6_lt (x lo : Nat) : field x lo 6 < 64 := field_lt x lo 6
@[simp] theorem field8_lt (x lo : Nat) : field x lo 8 < 256 := field_lt x lo 8

/-! ## Format X -/

/-- The frame is one of format X with these fields. -/
structure Frame.IsX (f : Frame) (mn va sa tok : Nat) (h lit : Option Nat) : Prop where
  minor : field f.w0 27 5 = mn
  va : field f.w0 19 8 = va
  sa : field f.w0 13 6 = sa
  tok : field f.w0 9 4 = tok
  hint : hint1 f = h
  ext : extZero f = true
  lit : f.lit = lit

theorem encX_reads {mn va sa tok : Nat} (he : encodeFrame i = some (encX mn va sa tok h lit))
    (hw : i.wf = true → mn < 32 ∧ va < 256 ∧ sa < 64 ∧ tok < 16 ∧ hintOk h = true ∧
      ∀ f, f.IsX mn va sa tok h lit → decodeX f = .instr i) : Reads i := by
  refine .of_frame he fun hwf => ?_
  obtain ⟨hmn, hva, hsa, htok, hh, hd⟩ := hw hwf
  refine enc1_reads (by decide) (by omega) hh fun f hf => ?_
  simp only [decodeFrame, hf.major]
  refine hd f ⟨?_, ?_, ?_, ?_, hf.hint, hf.ext, hf.lit⟩ <;>
    (rw [hf.above _ _ (by decide), field]; omega)

theorem encX_of_frame (hn : f.Named) (hb : f.Bounded) (hm : field f.w0 2 7 = 0) (hx : extZero f = true) :
    encX (field f.w0 27 5) (field f.w0 19 8) (field f.w0 13 6) (field f.w0 9 4) (hint1 f) f.lit = f :=
  enc1_of_frame hn hx hm (by have := hb.w0; simp only [field]; omega)

theorem sleep_reads (c : RegLit) (h : Option Nat) : Reads (.sleep c h) := by
  refine encX_reads rfl fun hw => ?_
  simp only [Instr.wf, Bool.and_eq_true] at hw
  refine ⟨by decide, by decide, RegLit.regField_lt hw.1, by decide, hw.2, fun f hf => ?_⟩
  simp [decodeX, form1_instr, lenOk1, hf.minor, hf.va, hf.sa, hf.tok, hf.hint, hf.ext, litZero_regField hf.lit,
    regLitOf_regField hf.lit]

theorem decodeX_denotes (hn : f.Named) (hb : f.Bounded) (hm : field f.w0 2 7 = 0) (hd : decodeX f = .instr i) :
    Denotes f i := by
  simp only [decodeX] at hd
  split at hd
  case h_6 hmn =>
    obtain ⟨-, hz, hx, hi⟩ := form1_instr.1 hd
    cases hi
    have hf := encX_of_frame hn hb hm hx
    simp only [Bool.and_eq_true, beq_iff_eq] at hz
    rw [hmn, hz.1.1, hz.1.2] at hf
    exact ⟨by simp [Instr.wf, regLitOk_regLitOf hb], by simpa [encodeFrame, regField_regLitOf hz.2] using hf⟩
  case h_1 hmn | h_2 hmn | h_3 hmn | h_4 hmn | h_5 hmn | h_7 hmn | h_8 hmn | h_9 hmn =>
    obtain ⟨hl, hz, hx, hi⟩ := form1_instr.1 hd
    cases hi
    have hf := encX_of_frame hn hb hm hx
    simp only [lenOk1_never, Bool.and_eq_true, beq_iff_eq] at hl hz
    simp only [hmn, hz, hl] at hf
    exact ⟨by simp [Instr.wf], congrArg some hf⟩
  case h_10 => cases hd

/-! ## Format J -/

theorem enc1_J_reads {call : Bool} {t : Off} (hm : maj = if call then 2 else 1)
    (he : encodeFrame i = some (enc1 maj (512 * t.field 23) h t.lit?))
    (hw : i.wf = true → offOk 23 t = true ∧ hintOk h = true)
    (hi : i = if call then .call t h else .br t h) : Reads i := by
  refine .of_frame he fun hwf => ?_
  obtain ⟨ht, hh⟩ := hw hwf
  refine enc1_reads (by subst hm; split <;> decide) (by omega) hh fun f hf => ?_
  have h9 : field f.w0 9 23 = t.field 23 := by
    have := t.field_lt (n := 23)
    rw [hf.above _ _ (by decide), field]
    omega
  have hJ : decodeFrame f = decodeJ call f := by
    cases call <;> simp only [decodeFrame, hf.major, hm] <;> rfl
  rw [hJ, hi]
  simp [decodeJ, form1_instr, lenOk1, h9, offOf_field (by decide) ht hf.lit, litZero_field hf.lit, hf.ext, hf.hint]

theorem decodeJ_denotes {call : Bool} (hn : f.Named) (hb : f.Bounded) (hm : field f.w0 2 7 = if call then 2 else 1)
    (hd : decodeJ call f = .instr i) : Denotes f i := by
  simp only [decodeJ] at hd
  obtain ⟨-, hz, hx, hi⟩ := form1_instr.1 hd
  have hf := enc1_of_frame (body := 512 * field f.w0 9 23) hn hx hm (by have := hb.w0; simp only [field]; omega)
  have ht : offOk 23 (offOf 23 (field f.w0 9 23) f) = true := offOk_offOf hb
  have hr := field_offOf (field_lt f.w0 9 23) hz
  cases call <;> cases hi <;> exact ⟨by simp [Instr.wf, ht], by simpa [encodeFrame, hr] using hf⟩

/-! ## Format BS (R138) -/

/-- A branch on a scalar: mk is the form, k its condition. -/
theorem encBS_reads {mk : Nat → Off → Option Nat → Instr} {k sa : Nat} {t : Off} (hk : k < 8)
    (he : encodeFrame (mk sa t h) = some (enc1 3 (k * 2 ^ 29 + sa * 2 ^ 23 + t.field 14 * 2 ^ 9) h t.lit?))
    (hw : (mk sa t h).wf = (decide (sa < 64) && offOk 14 t && hintOk h))
    (hd : ∀ f, field f.w0 29 3 = k → decodeBS f = form1 .may f (litZero (field f.w0 9 14) f)
      (some (mk (field f.w0 23 6) (offOf 14 (field f.w0 9 14) f) (hint1 f)))) : Reads (mk sa t h) := by
  refine .of_frame he fun hwf => ?_
  simp only [hw, Bool.and_eq_true, decide_eq_true_eq] at hwf
  obtain ⟨⟨hsa, ht⟩, hh⟩ := hwf
  have hoff := t.field_lt (n := 14)
  refine enc1_reads (by decide) (by omega) hh fun f hf => ?_
  have h29 : field f.w0 29 3 = k := by rw [hf.above _ _ (by decide), field]; omega
  have h23 : field f.w0 23 6 = sa := by rw [hf.above _ _ (by decide), field]; omega
  have h9 : field f.w0 9 14 = t.field 14 := by rw [hf.above _ _ (by decide), field]; omega
  simp only [decodeFrame, hf.major]
  rw [hd f h29, form1_instr, h23, h9, hf.hint, offOf_field (by decide) ht hf.lit]
  exact ⟨rfl, litZero_field hf.lit, hf.ext, rfl⟩

theorem encBS_of_frame (hn : f.Named) (hb : f.Bounded) (hm : field f.w0 2 7 = 3) (hx : extZero f = true) :
    enc1 3 (field f.w0 29 3 * 2 ^ 29 + field f.w0 23 6 * 2 ^ 23 + field f.w0 9 14 * 2 ^ 9) (hint1 f) f.lit = f :=
  enc1_of_frame hn hx hm (by have := hb.w0; simp only [field]; omega)

theorem decodeBS_denotes (hn : f.Named) (hb : f.Bounded) (hm : field f.w0 2 7 = 3) (hd : decodeBS f = .instr i) :
    Denotes f i := by
  simp only [decodeBS] at hd
  split at hd
  case h_1 hk | h_2 hk | h_3 hk | h_4 hk | h_5 hk | h_6 hk =>
    obtain ⟨-, hz, hx, hi⟩ := form1_instr.1 hd
    cases hi
    have hf := encBS_of_frame hn hb hm hx
    rw [hk] at hf
    have ht : offOk 14 (offOf 14 (field f.w0 9 14) f) = true := offOk_offOf hb
    exact ⟨by simp [Instr.wf, ht], by simpa [encodeFrame, field_offOf (field_lt f.w0 9 14) hz] using hf⟩
  case h_7 => cases hd

end Sys2Proof
end

section
/-!
PROOF. The one-word formats BM, SR, TR and SP: branches on masks, special registers, TRAP and SPAWN, in both directions.
-/

namespace Sys2Proof

open Machine

variable {f : Frame} {i : Instr} {maj body : Nat} {h lit : Option Nat}

/-! ## Format BM (R138 to R140) -/

/-- The frame is one of format BM with these fields. -/
structure Frame.IsBM (f : Frame) (m tok : Nat) (t : Off) (h : Option Nat) : Prop where
  mask : field f.w0 27 5 = m
  tok : field f.w0 23 4 = tok
  off : offOf 14 (field f.w0 9 14) f = t
  zero : litZero (field f.w0 9 14) f = true
  hint : hint1 f = h
  ext : extZero f = true

theorem encBM_reads {k : BMajor} {m tok : Nat} {t : Off} (hmaj : ∀ f, field f.w0 2 7 = maj → decodeFrame f = decodeBM k f)
    (hm : maj < 128) (he : encodeFrame i = some (enc1 maj (m * 2 ^ 27 + tok * 2 ^ 23 + t.field 14 * 2 ^ 9) h t.lit?))
    (hw : i.wf = true → (m ≤ 16 ∧ tok < 16 ∧ offOk 14 t = true ∧ hintOk h = true) ∧
      ∀ f, f.IsBM m tok t h → decodeBM k f = .instr i) : Reads i := by
  refine .of_frame he fun hwf => ?_
  obtain ⟨⟨hmk, htok, ht, hh⟩, hd⟩ := hw hwf
  have hoff := t.field_lt (n := 14)
  refine enc1_reads hm (by omega) hh fun f hf => ?_
  have h9 : field f.w0 9 14 = t.field 14 := by rw [hf.above _ _ (by decide), field]; omega
  rw [hmaj f hf.major]
  refine hd f ⟨?_, ?_, by rw [h9, offOf_field (by decide) ht hf.lit], by rw [h9, litZero_field hf.lit], hf.hint, hf.ext⟩ <;>
    (rw [hf.above _ _ (by decide), field]; omega)

theorem decodeBM_denotes {k : BMajor} (hn : f.Named) (hb : f.Bounded)
    (hm : field f.w0 2 7 = match k with | .brv => 4 | .brk => 5 | .ball => 6 | .bnone => 7)
    (hd : decodeBM k f = .instr i) : Denotes f i := by
  simp only [decodeBM] at hd
  have ht : offOk 14 (offOf 14 (field f.w0 9 14) f) = true := offOk_offOf hb
  have hf (hx : extZero f = true) := enc1_of_frame hn hx hm
    (body := field f.w0 27 5 * 2 ^ 27 + field f.w0 23 4 * 2 ^ 23 + field f.w0 9 14 * 2 ^ 9)
    (by have := hb.w0; simp only [field]; omega)
  split at hd
  case h_1 | h_2 =>
    obtain ⟨-, hz, hx, hi⟩ := form1_instr.1 hd
    obtain ⟨hmk, rfl⟩ := allow_some.1 hi
    exact ⟨by simp [Instr.wf, ht, of_decide_eq_true hmk],
      by simpa [encodeFrame, field_offOf (field_lt f.w0 9 14) hz] using hf hx⟩
  case h_3 | h_4 =>
    obtain ⟨-, hz, hx, hi⟩ := form1_instr.1 hd
    obtain ⟨hmk, rfl⟩ := allow_some.1 hi
    simp only [Bool.and_eq_true, beq_iff_eq] at hz
    rw [hz.2] at hf
    exact ⟨by simp [Instr.wf, ht, of_decide_eq_true hmk],
      by simpa [encodeFrame, field_offOf (field_lt f.w0 9 14) hz.1] using hf hx⟩

/-! ## Majors 0x08 to 0x0A: formats SR, TR and SP -/

theorem sysreg_reads {write vx : Bool} {reg : Nat} {sys : SysReg}
    (he : encodeFrame i = some (enc1 8 (write.toNat * 2 ^ 31 + vx.toNat * 2 ^ 30 + reg * 2 ^ 22 + sys.code * 2 ^ 12) h none))
    (hw : i.wf = ((if vx then decide (reg < 256) else decide (reg < 64)) && hintOk h))
    (hi : i = if write then .swr vx reg sys h else .srd vx reg sys h) : Reads i := by
  refine .of_frame he fun hwf => ?_
  rw [hw, Bool.and_eq_true] at hwf
  obtain ⟨hreg, hh⟩ := hwf
  have hr : reg < 256 ∧ (vx = true ∨ reg < 64) := by
    cases vx <;> simp only [Bool.false_eq_true, if_false, if_true, decide_eq_true_eq] at hreg <;> simp <;> omega
  have hsys := sys.code_lt
  have h1 := vx.toNat_lt
  have h2 := write.toNat_lt
  refine enc1_reads (by decide) (by omega) hh fun f hf => ?_
  have h31 : field f.w0 31 1 = write.toNat := by rw [hf.above _ _ (by decide), field]; omega
  have h30 : field f.w0 30 1 = vx.toNat := by rw [hf.above _ _ (by decide), field]; omega
  have h22 : field f.w0 22 8 = reg := by rw [hf.above _ _ (by decide), field]; omega
  have h12 : field f.w0 12 10 = sys.code := by rw [hf.above _ _ (by decide), field]; omega
  have h9 : field f.w0 9 3 = 0 := by rw [hf.above _ _ (by decide), field]; omega
  simp only [decodeFrame, hf.major, decodeSR, h31, h30, h22, h12, h9, form1_instr, lenOk1_never, hf.lit, hf.ext, hf.hint, hi]
  cases write <;> cases vx <;> simp_all [allow]

theorem decodeSR_denotes (hn : f.Named) (hb : f.Bounded) (hm : field f.w0 2 7 = 8) (hd : decodeSR f = .instr i) :
    Denotes f i := by
  simp only [decodeSR] at hd
  obtain ⟨hl, hz, hx, hi⟩ := form1_instr.1 hd
  simp only [Option.bind_eq_some_iff, allow_some] at hi
  obtain ⟨y, hy, hreg, rfl⟩ := hi
  simp only [lenOk1_never, beq_iff_eq] at hl hz
  have hf := enc1_of_frame hn hx hm (body := field f.w0 31 1 * 2 ^ 31 + field f.w0 30 1 * 2 ^ 30 +
    field f.w0 22 8 * 2 ^ 22 + field f.w0 12 10 * 2 ^ 12) (by have := hb.w0; simp only [field] at *; omega)
  rw [← SysReg.code_of hy, ← toNat_field1 f.w0 30, hl] at hf
  have hw : field f.w0 30 1 = 1 ∨ field f.w0 22 8 < 64 := by simpa using hreg
  split
  · next h1 =>
    rw [h1] at hf
    exact ⟨by simpa [Instr.wf] using hw, congrArg some hf⟩
  · next h1 =>
    have h0 : field f.w0 31 1 = 0 := by have := field_lt f.w0 31 1; omega
    rw [h0] at hf
    exact ⟨by simpa [Instr.wf] using hw, congrArg some hf⟩

theorem trap_reads (code : Nat) (h : Option Nat) : Reads (.trap code h) := by
  refine .of_frame rfl fun hw => ?_
  simp only [Instr.wf, Bool.and_eq_true, decide_eq_true_eq] at hw
  refine enc1_reads (by decide) (by omega) hw.1 fun f hf => ?_
  have h9 : field f.w0 9 16 = code := by rw [hf.above _ _ (by decide), field]; omega
  have h25 : field f.w0 25 7 = 0 := by rw [hf.above _ _ (by decide), field]; omega
  simp [decodeFrame, hf.major, decodeTR, form1_instr, lenOk1, h9, h25, hf.lit, hf.ext, hf.hint, allow, hw]

theorem decodeTR_denotes (hn : f.Named) (hb : f.Bounded) (hm : field f.w0 2 7 = 9) (hd : decodeTR f = .instr i) :
    Denotes f i := by
  simp only [decodeTR] at hd
  obtain ⟨hl, hz, hx, hi⟩ := form1_instr.1 hd
  obtain ⟨hc, rfl⟩ := allow_some.1 hi
  simp only [lenOk1_never, beq_iff_eq] at hl hz
  have hf := enc1_of_frame hn hx hm (body := field f.w0 9 16 * 2 ^ 9) (by have := hb.w0; simp only [field] at *; omega)
  rw [hl] at hf
  exact ⟨by simp [Instr.wf, of_decide_eq_true hc], congrArg some hf⟩

theorem spawn_reads (sd va entry : Nat) (h : Option Nat) : Reads (.spawn sd va entry h) := by
  refine .of_frame rfl fun hw => ?_
  simp only [Instr.wf, Bool.and_eq_true, decide_eq_true_eq] at hw
  refine enc1_reads (by decide) (by omega) hw.1.1.2 fun f hf => ?_
  have h26 : field f.w0 26 6 = sd := by rw [hf.above _ _ (by decide), field]; omega
  have h18 : field f.w0 18 8 = va := by rw [hf.above _ _ (by decide), field]; omega
  have h9 : field f.w0 9 9 = 0 := by rw [hf.above _ _ (by decide), field]; omega
  simp [decodeFrame, hf.major, decodeSP, form1_instr, lenOk1, h26, h18, h9, hf.lit, hf.ext, hf.hint, hw]

theorem decodeSP_denotes (hn : f.Named) (hb : f.Bounded) (hm : field f.w0 2 7 = 0xA) (hd : decodeSP f = .instr i) :
    Denotes f i := by
  simp only [decodeSP] at hd
  obtain ⟨hl, hz, hx, hi⟩ := form1_instr.1 hd
  cases hi
  obtain ⟨x, hl⟩ := lenOk1_must.1 hl
  simp only [hl, Option.getD_some, Bool.and_eq_true, beq_iff_eq] at hz
  have hf := enc1_of_frame hn hx hm (body := field f.w0 26 6 * 2 ^ 26 + field f.w0 18 8 * 2 ^ 18)
    (by have := hb.w0; simp only [field] at *; omega)
  rw [hl] at hf
  exact ⟨by simpa [Instr.wf, hl, hz] using hb.lit x hl, by simpa [encodeFrame, hl] using hf⟩

end Sys2Proof
end

section
/-!
PROOF. The one-word formats M and S: masks and scalars (R157, R164), in both directions.
-/

namespace Sys2Proof

open Machine

variable {f : Frame} {i : Instr} {maj body : Nat} {h lit : Option Nat}

/-! ## Formats M and S (R157, R164) -/

/-- The frame is one of format M or S with these fields. -/
structure Frame.IsS (f : Frame) (mn d a b : Nat) (h lit : Option Nat) : Prop where
  minor : field f.w0 27 5 = mn
  d : field f.w0 21 6 = d
  a : field f.w0 15 6 = a
  b : field f.w0 9 6 = b
  hint : hint1 f = h
  ext : extZero f = true
  lit : f.lit = lit

theorem encS_reads {mn d a b : Nat} {dec : Frame → Decoded} (hmaj : ∀ f, field f.w0 2 7 = maj → decodeFrame f = dec f)
    (hm : maj < 128) (he : encodeFrame i = some (encS maj mn d a b h lit))
    (hw : i.wf = true → (mn < 32 ∧ d < 64 ∧ a < 64 ∧ b < 64 ∧ hintOk h = true) ∧
      ∀ f, f.IsS mn d a b h lit → dec f = .instr i) : Reads i := by
  refine .of_frame he fun hwf => ?_
  obtain ⟨⟨hmn, hd, ha, hb, hh⟩, hdec⟩ := hw hwf
  refine enc1_reads hm (by omega) hh fun f hf => ?_
  rw [hmaj f hf.major]
  refine hdec f ⟨?_, ?_, ?_, ?_, hf.hint, hf.ext, hf.lit⟩ <;>
    (rw [hf.above _ _ (by decide), field]; omega)

theorem encS_of_frame (hn : f.Named) (hb : f.Bounded) (hm : field f.w0 2 7 = maj) (hx : extZero f = true) :
    encS maj (field f.w0 27 5) (field f.w0 21 6) (field f.w0 15 6) (field f.w0 9 6) (hint1 f) f.lit = f :=
  enc1_of_frame hn hx hm (by have := hb.w0; simp only [field]; omega)

theorem decodeFrame_M (hm : field f.w0 2 7 = 0x10) : decodeFrame f = decodeM f := by simp only [decodeFrame, hm]
theorem decodeFrame_S (hm : field f.w0 2 7 = 0x18) : decodeFrame f = decodeS f := by simp only [decodeFrame, hm]
theorem decodeFrame_SI (hm : field f.w0 2 7 = 0x19) : decodeFrame f = decodeSI f := by simp only [decodeFrame, hm]

theorem mset_reads (md : Nat) (b : RegLit) (h : Option Nat) : Reads (.mset md b h) := by
  refine encS_reads (fun _ => decodeFrame_M) (by decide) rfl fun hw => ?_
  simp only [Instr.wf, Bool.and_eq_true, decide_eq_true_eq] at hw
  obtain ⟨⟨⟨hmd, hb⟩, hh⟩, hlit⟩ := hw
  refine ⟨⟨by decide, by omega, by decide, RegLit.regField_lt hb, hh⟩, fun f hf => ?_⟩
  simp [decodeM, form1_instr, lenOk1, allow, dstMask, hf.minor, hf.d, hf.a, hf.b, hf.hint, hf.ext,
    litZero_regField hf.lit, regLitOf_regField hf.lit, litFits_iff (raw := b.regField), hmd, hlit]

theorem decodeM_denotes (hn : f.Named) (hb : f.Bounded) (hm : field f.w0 2 7 = 0x10) (hd : decodeM f = .instr i) :
    Denotes f i := by
  simp only [decodeM] at hd
  split at hd
  case h_7 hmn =>
    obtain ⟨-, hz, hx, hi⟩ := form1_instr.1 hd
    obtain ⟨hmd, rfl⟩ := allow_some.1 hi
    have hf := encS_of_frame hn hb hm hx
    simp only [Bool.and_eq_true, beq_iff_eq] at hz
    rw [hmn, hz.1.1, encS] at hf
    rw [litFits_iff (raw := field f.w0 9 6)] at hz
    exact ⟨by simpa [Instr.wf, dstMask, regLitOk_regLitOf hb, hz] using hmd,
      by simpa [encodeFrame, encM, regField_regLitOf hz.1.2] using hf⟩
  case h_1 hmn | h_2 hmn | h_3 hmn | h_4 hmn | h_5 hmn | h_6 hmn | h_8 hmn | h_9 hmn | h_10 hmn | h_11 hmn | h_12 hmn |
      h_13 hmn | h_14 hmn =>
    obtain ⟨hl, hz, hx, hi⟩ := form1_instr.1 hd
    obtain ⟨hmk, rfl⟩ := allow_some.1 hi
    have hf := encS_of_frame hn hb hm hx
    simp only [lenOk1_never, beq_iff_eq] at hl hz
    simp only [hmn, hz, hl] at hf
    simp only [dstMask, srcMask, evenMask, Bool.and_eq_true, decide_eq_true_eq, beq_iff_eq] at hmk
    exact ⟨by simp [Instr.wf]; omega, congrArg some hf⟩
  case h_15 => cases hd

/-- A form of major 0x18 with two sources: mk is the form, mn its minor opcode. -/
theorem scalar_reads {mk : Nat → Nat → Nat → Option Nat → Instr} {mn d a b : Nat} (hmn : mn < 32)
    (he : encodeFrame (mk d a b h) = some (encS 0x18 mn d a b h none))
    (hw : (mk d a b h).wf = (decide (d < 64) && decide (a < 64) && decide (b < 64) && hintOk h))
    (hd : ∀ f, field f.w0 27 5 = mn → decodeS f =
      form1 .never f true (some (mk (field f.w0 21 6) (field f.w0 15 6) (field f.w0 9 6) (hint1 f)))) :
    Reads (mk d a b h) := by
  refine encS_reads (fun _ => decodeFrame_S) (by decide) he fun hwf => ?_
  simp only [hw, Bool.and_eq_true, decide_eq_true_eq] at hwf
  obtain ⟨⟨⟨hsd, hsa⟩, hsb⟩, hh⟩ := hwf
  refine ⟨⟨hmn, hsd, hsa, hsb, hh⟩, fun f hf => ?_⟩
  rw [hd f hf.minor, form1_instr, hf.d, hf.a, hf.b, hf.hint, lenOk1_never]
  exact ⟨hf.lit, rfl, hf.ext, rfl⟩

/-- A form of major 0x19 with two sources: mk is the form, mn its minor opcode. -/
theorem scalarImm_reads {mk : Nat → Nat → Off → Option Nat → Instr} {mn d a : Nat} {b : Off} (hmn : mn < 32)
    (he : encodeFrame (mk d a b h) = some (encS 0x19 mn d a (b.field 6) h b.lit?))
    (hw : (mk d a b h).wf = (decide (d < 64) && decide (a < 64) && offOk 6 b && hintOk h))
    (hd : ∀ f, field f.w0 27 5 = mn → decodeSI f = form1 .may f (litZero (field f.w0 9 6) f)
      (some (mk (field f.w0 21 6) (field f.w0 15 6) (offOf 6 (field f.w0 9 6) f) (hint1 f)))) :
    Reads (mk d a b h) := by
  refine encS_reads (fun _ => decodeFrame_SI) (by decide) he fun hwf => ?_
  simp only [hw, Bool.and_eq_true, decide_eq_true_eq] at hwf
  obtain ⟨⟨⟨hsd, hsa⟩, hb⟩, hh⟩ := hwf
  refine ⟨⟨hmn, hsd, hsa, b.field_lt, hh⟩, fun f hf => ?_⟩
  rw [hd f hf.minor, form1_instr, hf.d, hf.a, hf.b, hf.hint, offOf_field (by decide) hb hf.lit]
  exact ⟨rfl, litZero_field hf.lit, hf.ext, rfl⟩

theorem scalar_denotes {mk : Nat → Nat → Nat → Option Nat → Instr} {mn : Nat} (hn : f.Named) (hb : f.Bounded)
    (hm : field f.w0 2 7 = 0x18) (hmn : field f.w0 27 5 = mn)
    (he : ∀ d a b h, encodeFrame (mk d a b h) = some (encS 0x18 mn d a b h none))
    (hw : ∀ d a b h, (mk d a b h).wf = (decide (d < 64) && decide (a < 64) && decide (b < 64) && hintOk h))
    (hd : form1 .never f true (some (mk (field f.w0 21 6) (field f.w0 15 6) (field f.w0 9 6) (hint1 f))) = .instr i) :
    Denotes f i := by
  obtain ⟨hl, -, hx, hi⟩ := form1_instr.1 hd
  cases hi
  have hf := encS_of_frame hn hb hm hx
  rw [hmn, lenOk1_never.1 hl] at hf
  exact ⟨by simp [hw], (he ..).trans (congrArg some hf)⟩

theorem scalarImm_denotes {mk : Nat → Nat → Off → Option Nat → Instr} {mn : Nat} (hn : f.Named) (hb : f.Bounded)
    (hm : field f.w0 2 7 = 0x19) (hmn : field f.w0 27 5 = mn)
    (he : ∀ d a b h, encodeFrame (mk d a b h) = some (encS 0x19 mn d a (b.field 6) h b.lit?))
    (hw : ∀ d a b h, (mk d a b h).wf = (decide (d < 64) && decide (a < 64) && offOk 6 b && hintOk h))
    (hd : form1 .may f (litZero (field f.w0 9 6) f)
      (some (mk (field f.w0 21 6) (field f.w0 15 6) (offOf 6 (field f.w0 9 6) f) (hint1 f))) = .instr i) :
    Denotes f i := by
  obtain ⟨-, hz, hx, hi⟩ := form1_instr.1 hd
  cases hi
  have hf := encS_of_frame hn hb hm hx
  rw [hmn] at hf
  exact ⟨by simp [hw, offOk_offOf hb], by simpa [he, field_offOf (field_lt f.w0 9 6) hz] using hf⟩

theorem decodeS_denotes (hn : f.Named) (hb : f.Bounded) (hm : field f.w0 2 7 = 0x18) (hd : decodeS f = .instr i) :
    Denotes f i := by
  simp only [decodeS] at hd
  split at hd
  case h_21 hmn | h_27 hmn | h_28 hmn | h_29 hmn | h_30 hmn =>
    obtain ⟨hl, hz, hx, hi⟩ := form1_instr.1 hd
    cases hi
    have hf := encS_of_frame hn hb hm hx
    simp only [lenOk1_never, beq_iff_eq] at hl hz
    simp only [hmn, hz, hl] at hf
    exact ⟨by simp [Instr.wf], congrArg some hf⟩
  case h_31 => cases hd
  all_goals exact scalar_denotes hn hb hm ‹_› (fun _ _ _ _ => rfl) (fun _ _ _ _ => rfl) hd

theorem decodeSI_denotes (hn : f.Named) (hb : f.Bounded) (hm : field f.w0 2 7 = 0x19) (hd : decodeSI f = .instr i) :
    Denotes f i := by
  simp only [decodeSI] at hd
  split at hd
  case h_21 hmn =>
    obtain ⟨-, hz, hx, hi⟩ := form1_instr.1 hd
    cases hi
    have hf := encS_of_frame hn hb hm hx
    simp only [Bool.and_eq_true, beq_iff_eq] at hz
    rw [hmn, hz.2] at hf
    exact ⟨by simp [Instr.wf, offOk_offOf hb], by simpa [encodeFrame, field_offOf (field_lt f.w0 9 6) hz.1] using hf⟩
  case h_27 => cases hd
  all_goals exact scalarImm_denotes hn hb hm ‹_› (fun _ _ _ _ => rfl) (fun _ _ _ _ => rfl) hd

theorem smovImm_reads (d : Nat) (b : Off) (h : Option Nat) : Reads (.smovImm d b h) := by
  refine encS_reads (fun _ => decodeFrame_SI) (by decide) rfl fun hw => ?_
  simp only [Instr.wf, Bool.and_eq_true, decide_eq_true_eq] at hw
  obtain ⟨⟨hd, hb⟩, hh⟩ := hw
  refine ⟨⟨by decide, hd, by decide, b.field_lt, hh⟩, fun f hf => ?_⟩
  simp [decodeSI, form1_instr, lenOk1, hf.minor, hf.d, hf.a, hf.b, hf.hint, hf.ext, litZero_field hf.lit,
    offOf_field (by decide) hb hf.lit]

end Sys2Proof
end

section
/-!
PROOF. The one-word formats WB, W, F, N and BA: windows, waits, fences, hints and barriers, in both directions.
-/

namespace Sys2Proof

open Machine

variable {f : Frame} {i : Instr} {maj body : Nat} {h lit : Option Nat}

/-! ## Formats WB, W, F and N (R202, R214, R219, R159) -/

theorem wbind_reads (w : Nat) (p : Perm) (sa : Nat) (lim : RegLit) (h : Option Nat) : Reads (.wbind w p sa lim h) := by
  refine .of_frame rfl fun hw => ?_
  simp only [Instr.wf, Bool.and_eq_true, decide_eq_true_eq] at hw
  obtain ⟨⟨⟨hw, hsa⟩, hlim⟩, hh⟩ := hw
  have hp := p.code_lt
  have hlim := RegLit.regField_lt hlim
  refine enc1_reads (by decide) (by omega) hh fun f hf => ?_
  have h27 : field f.w0 27 5 = 0 := by rw [hf.above _ _ (by decide), field]; omega
  have h24 : field f.w0 24 3 = w := by rw [hf.above _ _ (by decide), field]; omega
  have h21 : field f.w0 21 3 = p.code := by rw [hf.above _ _ (by decide), field]; omega
  have h15 : field f.w0 15 6 = sa := by rw [hf.above _ _ (by decide), field]; omega
  have h9 : field f.w0 9 6 = lim.regField := by rw [hf.above _ _ (by decide), field]; omega
  simp [decodeFrame, hf.major, decodeWB, form1_instr, lenOk1, h27, h24, h21, h15, h9, hf.hint, hf.ext,
    litZero_regField hf.lit, regLitOf_regField hf.lit]

theorem winv_reads (w : Nat) (h : Option Nat) : Reads (.winv w h) := by
  refine .of_frame rfl fun hw => ?_
  simp only [Instr.wf, Bool.and_eq_true, decide_eq_true_eq] at hw
  obtain ⟨hw, hh⟩ := hw
  refine enc1_reads (by decide) (by omega) hh fun f hf => ?_
  have h27 : field f.w0 27 5 = 1 := by rw [hf.above _ _ (by decide), field]; omega
  have h24 : field f.w0 24 3 = w := by rw [hf.above _ _ (by decide), field]; omega
  have h21 : field f.w0 21 3 = 0 := by rw [hf.above _ _ (by decide), field]; omega
  have h15 : field f.w0 15 6 = 0 := by rw [hf.above _ _ (by decide), field]; omega
  have h9 : field f.w0 9 6 = 0 := by rw [hf.above _ _ (by decide), field]; omega
  simp [decodeFrame, hf.major, decodeWB, form1_instr, lenOk1, h27, h24, h21, h15, h9, hf.hint, hf.ext, hf.lit]

theorem decodeWB_denotes (hn : f.Named) (hb : f.Bounded) (hm : field f.w0 2 7 = 0x61) (hd : decodeWB f = .instr i) :
    Denotes f i := by
  have hf (hx : extZero f = true) := enc1_of_frame hn hx hm (body := field f.w0 27 5 * 2 ^ 27 + field f.w0 24 3 * 2 ^ 24 +
    field f.w0 21 3 * 2 ^ 21 + field f.w0 15 6 * 2 ^ 15 + field f.w0 9 6 * 2 ^ 9)
    (by have := hb.w0; simp only [field]; omega)
  simp only [decodeWB] at hd
  split at hd
  case h_1 hmn =>
    obtain ⟨-, hz, hx, hi⟩ := form1_instr.1 hd
    obtain ⟨p, hp, rfl⟩ := Option.map_eq_some_iff.1 hi
    rw [hmn, ← Perm.code_of hp] at hf
    exact ⟨by simp [Instr.wf, regLitOk_regLitOf hb], by simpa [encodeFrame, regField_regLitOf hz] using hf hx⟩
  case h_2 hmn =>
    obtain ⟨hl, hz, hx, hi⟩ := form1_instr.1 hd
    cases hi
    simp only [lenOk1_never, Bool.and_eq_true, beq_iff_eq] at hl hz
    simp only [hmn, hz, hl] at hf
    exact ⟨by simp [Instr.wf], by simpa [encodeFrame] using hf hx⟩
  case h_3 => cases hd

theorem waitc_reads (c : Cls) (n : Nat) (h : Option Nat) : Reads (.waitc c n h) := by
  refine .of_frame rfl fun hw => ?_
  simp only [Instr.wf, Bool.and_eq_true, decide_eq_true_eq] at hw
  have hc := c.code_lt
  refine enc1_reads (by decide) (by omega) hw.1 fun f hf => ?_
  have h27 : field f.w0 27 5 = 0 := by rw [hf.above _ _ (by decide), field]; omega
  have h23 : field f.w0 23 4 = c.code := by rw [hf.above _ _ (by decide), field]; omega
  have h12 : field f.w0 12 11 = n := by rw [hf.above _ _ (by decide), field]; omega
  have h9 : field f.w0 9 3 = 0 := by rw [hf.above _ _ (by decide), field]; omega
  simp [decodeFrame, hf.major, decodeW, form1_instr, lenOk1, h27, h23, h12, h9, hf.hint, hf.ext, hf.lit]

theorem decodeW_denotes (hn : f.Named) (hb : f.Bounded) (hm : field f.w0 2 7 = 0x68) (hd : decodeW f = .instr i) :
    Denotes f i := by
  simp only [decodeW] at hd
  split at hd
  case h_1 hmn =>
    obtain ⟨hl, hz, hx, hi⟩ := form1_instr.1 hd
    obtain ⟨c, hc, rfl⟩ := Option.map_eq_some_iff.1 hi
    simp only [lenOk1_never, beq_iff_eq] at hl hz
    have hf := enc1_of_frame hn hx hm (body := field f.w0 23 4 * 2 ^ 23 + field f.w0 12 11 * 2 ^ 12)
      (by have := hb.w0; simp only [field] at *; omega)
    rw [← Cls.code_of hc, hl] at hf
    exact ⟨by simpa [Instr.wf] using field_lt f.w0 12 11, congrArg some hf⟩
  case h_2 => cases hd

theorem fence_reads (c : Scope) (o : MemOrd) (h : Option Nat) : Reads (.fence c o h) := by
  refine .of_frame rfl fun hw => ?_
  simp only [Instr.wf, Bool.and_eq_true, bne_iff_ne] at hw
  have hc := c.code_lt
  have ho := o.code_lt
  have h3 : o.code ≠ 3 := by cases o <;> simp_all [MemOrd.code]
  refine enc1_reads (by decide) (by omega) hw.1 fun f hf => ?_
  have h29 : field f.w0 29 3 = c.code := by rw [hf.above _ _ (by decide), field]; omega
  have h27 : field f.w0 27 2 = o.code := by rw [hf.above _ _ (by decide), field]; omega
  have h9 : field f.w0 9 18 = 0 := by rw [hf.above _ _ (by decide), field]; omega
  simp [decodeFrame, hf.major, decodeF, form1_instr, lenOk1, h29, h27, h9, hf.hint, hf.ext, hf.lit, allow, h3]

theorem decodeF_denotes (hn : f.Named) (hb : f.Bounded) (hm : field f.w0 2 7 = 0x6A) (hd : decodeF f = .instr i) :
    Denotes f i := by
  simp only [decodeF] at hd
  obtain ⟨hl, hz, hx, hi⟩ := form1_instr.1 hd
  simp only [Option.bind_eq_some_iff, allow_some] at hi
  obtain ⟨c, hc, ho, rfl⟩ := hi
  simp only [lenOk1_never, beq_iff_eq] at hl hz
  have hf := enc1_of_frame hn hx hm (body := field f.w0 29 3 * 2 ^ 29 + field f.w0 27 2 * 2 ^ 27)
    (by have := hb.w0; simp only [field] at *; omega)
  have ho4 := field_lt f.w0 27 2
  rw [← Scope.code_of hc, ← MemOrd.code_of ho4, hl] at hf
  have h3 : MemOrd.ofCode (field f.w0 27 2) ≠ .ar := by
    interval_cases field f.w0 27 2 <;> simp_all [MemOrd.ofCode]
  exact ⟨by simpa [Instr.wf] using h3, congrArg some hf⟩

theorem decodeN_denotes (hn : f.Named) (hb : f.Bounded) (hm : field f.w0 2 7 = 0x7F) (hd : decodeN f = .instr i) :
    Denotes f i := by
  simp only [decodeN] at hd
  split at hd
  case h_1 hmn | h_2 hmn | h_3 hmn =>
    obtain ⟨hl, hz, hx, hi⟩ := form1_instr.1 hd
    cases hi
    simp only [lenOk1_never, beq_iff_eq] at hl hz
    have hf := enc1_of_frame hn hx hm (body := field f.w0 27 5 * 2 ^ 27) (by have := hb.w0; simp only [field] at *; omega)
    rw [hmn, hl] at hf
    exact ⟨by simp [Instr.wf], congrArg some hf⟩
  case h_4 => cases hd

/-- A form of format N: mn is its minor opcode. -/
theorem formN_reads {mn : Nat} (hmn : mn < 32) (he : encodeFrame i = some (enc1 0x7F (mn * 2 ^ 27) h none))
    (hw : i.wf = hintOk h)
    (hd : ∀ f, field f.w0 27 5 = mn → hint1 f = h → decodeN f = form1 .never f (field f.w0 9 18 == 0) (some i)) :
    Reads i := by
  refine .of_frame he fun hwf => enc1_reads (by decide) (by omega) (hw ▸ hwf) fun f hf => ?_
  have h27 : field f.w0 27 5 = mn := by rw [hf.above _ _ (by decide), field]; omega
  have h9 : field f.w0 9 18 = 0 := by rw [hf.above _ _ (by decide), field]; omega
  simp only [decodeFrame, hf.major]
  rw [hd f h27 hf.hint, form1_instr, lenOk1_never, h9]
  exact ⟨hf.lit, rfl, hf.ext, rfl⟩

/-! ## Format BA (R215) -/

/-- The frame is one of format BA with these fields. -/
structure Frame.IsBA (f : Frame) (mn bar sd o : Nat) (crit : Bool) (h lit : Option Nat) : Prop where
  minor : field f.w0 27 5 = mn
  bar : field f.w0 22 5 = bar
  sd : field f.w0 16 6 = sd
  order : field f.w0 14 2 = o
  crit : field f.w0 13 1 = crit.toNat
  rest : field f.w0 9 4 = 0
  hint : hint1 f = h
  ext : extZero f = true
  lit : f.lit = lit

theorem encBA_reads {mn bar sd o : Nat} {crit : Bool} (he : encodeFrame i = some (encBA mn bar sd o crit h lit))
    (hw : i.wf = true → (mn < 32 ∧ bar < 32 ∧ sd < 64 ∧ o < 4 ∧ hintOk h = true) ∧
      ∀ f, f.IsBA mn bar sd o crit h lit → decodeBA f = .instr i) : Reads i := by
  refine .of_frame he fun hwf => ?_
  obtain ⟨⟨hmn, hbar, hsd, ho, hh⟩, hd⟩ := hw hwf
  have hc := crit.toNat_lt
  refine enc1_reads (by decide) (by omega) hh fun f hf => ?_
  simp only [decodeFrame, hf.major]
  refine hd f ⟨?_, ?_, ?_, ?_, ?_, ?_, hf.hint, hf.ext, hf.lit⟩ <;>
    (rw [hf.above _ _ (by decide), field]; omega)

theorem encBA_of_frame (hn : f.Named) (hb : f.Bounded) (hm : field f.w0 2 7 = 0x69) (hx : extZero f = true)
    (hz : field f.w0 9 4 = 0) : encBA (field f.w0 27 5) (field f.w0 22 5) (field f.w0 16 6) (field f.w0 14 2)
      (field f.w0 13 1 == 1) (hint1 f) f.lit = f := by
  rw [encBA, toNat_field1]
  exact enc1_of_frame hn hx hm (by have := hb.w0; simp only [field] at *; omega)

theorem decodeBA_denotes (hn : f.Named) (hb : f.Bounded) (hm : field f.w0 2 7 = 0x69) (hd : decodeBA f = .instr i) :
    Denotes f i := by
  simp only [decodeBA] at hd
  split at hd
  case h_1 hmn | h_2 hmn =>
    obtain ⟨-, hz, hx, hi⟩ := form1_instr.1 hd
    cases hi
    rw [litFits_iff (raw := field f.w0 16 6)] at hz
    simp only [Bool.and_eq_true, beq_iff_eq, Bool.not_eq_true'] at hz
    obtain ⟨⟨⟨⟨hr, ho⟩, hc⟩, hzero⟩, hfit⟩ := hz
    have hf := encBA_of_frame hn hb hm hx hr
    rw [hmn, ho, hc] at hf
    exact ⟨by simp [Instr.wf, regLitOk_regLitOf hb, hfit], by simpa [encodeFrame, regField_regLitOf hzero] using hf⟩
  case h_3 hmn | h_4 hmn =>
    obtain ⟨hl, hz, hx, hi⟩ := form1_instr.1 hd
    obtain ⟨ho, rfl⟩ := allow_some.1 hi
    simp only [lenOk1_never, Bool.and_eq_true, beq_iff_eq] at hl hz
    have hf := encBA_of_frame hn hb hm hx hz.1
    rw [hmn, hl] at hf
    simp only [Bool.or_eq_true, beq_iff_eq] at ho
    rcases ho with ho | ho <;> rw [ho] at hf ⊢
    · exact ⟨by simpa [Instr.wf, ho] using hz.2, congrArg some hf⟩
    · exact ⟨by simp [Instr.wf], congrArg some hf⟩
  case h_5 hmn =>
    obtain ⟨hl, hz, hx, hi⟩ := form1_instr.1 hd
    cases hi
    simp only [lenOk1_never, Bool.and_eq_true, beq_iff_eq, Bool.not_eq_true'] at hl hz
    have hf := encBA_of_frame hn hb hm hx hz.1.1
    rw [hmn, hz.1.2, hz.2, hl] at hf
    exact ⟨by simp [Instr.wf], congrArg some hf⟩
  case h_6 => cases hd

theorem testb_reads (sd bar : Nat) (h : Option Nat) : Reads (.testb sd bar h) := by
  refine encBA_reads rfl fun hw => ?_
  simp only [Instr.wf, Bool.and_eq_true, decide_eq_true_eq] at hw
  obtain ⟨⟨hsd, hbar⟩, hh⟩ := hw
  refine ⟨⟨by decide, hbar, hsd, by decide, hh⟩, fun f hf => ?_⟩
  simp [decodeBA, form1_instr, lenOk1, hf.minor, hf.bar, hf.sd, hf.order, hf.crit, hf.rest, hf.hint, hf.ext, hf.lit]

end Sys2Proof
end

section
/-!
PROOF. Format V (R42, R45, R160): the fields of a frame and the operand b they give, one lemma per shape of the decoder in each
direction, and the forms.
-/

namespace Sys2Proof

open Machine

variable {f : Frame} {i : Instr} {maj mn vd va vc m3 h w : Nat} {b : VOp} {t : Ty} {v : VFields}

/-- An extended form without a literal has LEN 1. -/
theorem lenOkX_never : lenOkX .never f = true ↔ f.len = 1 := by simp [lenOkX]

/-- The fields of a frame of format V whose operand b is b. -/
@[simps] def VFields.with (vd va : Nat) (b : VOp) (vc ty m3 h : Nat) : VFields :=
  ⟨vd, va, b.bk, b.vb, vc, ty, m3, b.imm32, 0, h⟩

/-! ## Frames of format V -/

/-- The frame is one of format V with these fields. -/
structure Frame.IsV (f : Frame) (mn : Nat) (v : VFields) : Prop where
  len : f.len = 1
  minor : field f.w0 27 5 = mn
  fields : vFields f = v

theorem VOp.bk_lt (b : VOp) : b.bk < 3 := by cases b <;> simp [VOp.bk]

theorem VOp.vb_lt (hb : vopOk w b = true) : b.vb < 256 := by
  cases b <;> simp_all [vopOk, VOp.vb]
  omega

theorem encV_reads {ty : Nat} {dec : Frame → Decoded} (hmaj : ∀ f, field f.w0 2 7 = maj → decodeFrame f = dec f)
    (hm : maj < 128) (he : encodeFrame i = some (encV maj mn vd va b vc ty m3 h))
    (hw : i.wf = true → (mn < 32 ∧ vd < 256 ∧ va < 256 ∧ b.vb < 256 ∧ vc < 256 ∧ ty < 16 ∧ m3 < 8 ∧ h < 256) ∧
      ∀ f, f.IsV mn (.with vd va b vc ty m3 h) → dec f = .instr i) : Reads i := by
  refine .of_frame he fun hwf => ?_
  obtain ⟨⟨hmn, hvd, hva, hvb, hvc, hty, hm3, hh⟩, hd⟩ := hw hwf
  have hbk := b.bk_lt
  refine ⟨⟨?_, rfl, by simp [encV]⟩, ?_⟩
  · simp only [encV]; omega
  rw [hmaj _ (by simp only [encV, field]; omega)]
  refine hd _ ⟨rfl, by simp only [encV, field]; omega, ?_⟩
  simp only [vFields, encV, field, hintX, VFields.with, VFields.mk.injEq]
  refine ⟨?_, ?_, ?_, ?_, ?_, ?_, ?_, trivial, ?_, ?_⟩ <;> omega

theorem encV_of_frame {ty : Nat} (hn : f.Named) (hb : f.Bounded) (hm : field f.w0 2 7 = maj)
    (hf : f.IsV mn (.with vd va b vc ty m3 h)) : encV maj mn vd va b vc ty m3 h = f := by
  obtain ⟨len, w0, e1, e2, lit⟩ := f
  obtain ⟨hlen, hmin, hfields⟩ := hf
  obtain ⟨hw0, he1, -, -⟩ := hb
  obtain ⟨hlen0, hlit, -⟩ := hn
  simp only [vFields, field, hintX, VFields.with, VFields.mk.injEq] at hlen hmin hm hfields hlit hlen0 hw0 he1
  subst hlen
  cases lit <;> simp at hlit
  simp only [encV, Frame.mk.injEq]
  refine ⟨trivial, ?_, ?_, by simp [hfields], trivial⟩ <;> omega

/-! ## Operand b and the type, read forward -/

section Forward

variable {p : Ty → Bool} {m : Rm} {c : Comb} {ty : Nat}

theorem VFields.with_bZero (hb : vopOk w b = true) : (VFields.with vd va b vc ty m3 h).bZero w = true := by
  cases b <;> simp_all [VFields.bZero, VOp.bk, VOp.vb, VOp.imm32, vopOk, Nat.div_eq_zero_iff]

theorem VFields.with_b (hb : vopOk w b = true) : (VFields.with vd va b vc ty m3 h).b w = some b := by
  cases b <;> simp_all [VFields.b, VOp.bk, VOp.vb, VOp.imm32, vopOk, allow]

@[simp] theorem VFields.with_noB : (VFields.with vd va vecZero vc ty m3 h).noB = true := rfl

@[simp] theorem VFields.with_ty : (VFields.with vd va b vc t.code m3 h).ty = some t := Ty.ofCode_code t

@[simp] theorem VFields.with_width : (VFields.with vd va b vc t.code m3 h).width = t.width := by
  simp [VFields.width]

@[simp] theorem VFields.with_rm : (VFields.with vd va b vc ty m.code h).rm = some m := Rm.ofCode_code m

theorem VFields.with_tyIn {rs : List Nat} (hp : p t = true) (he : evens t rs = true) :
    (VFields.with vd va b vc t.code m3 h).tyIn p rs = some t := by
  simp only [evens] at he
  simp only [VFields.tyIn, VFields.with_ty, Option.bind_some, allow_some, Bool.and_eq_true]
  exact ⟨⟨hp, he⟩, trivial⟩

theorem evens_narrow {rs : List Nat} (ht : t.width ≠ 64) : evens t rs = true := by simp [evens, ht]

theorem Ty.isFp3_narrow (ht : t.isFp3 = true) : t.width ≠ 64 := by cases t <;> simp_all [Ty.isFp3, Ty.width]

theorem Ty.is32_narrow (ht : t.is32 = true) : t.width ≠ 64 := by cases t <;> simp_all [Ty.is32, Ty.width]

end Forward

/-! ## Operand b and the type, read backward -/

section Backward

variable {p : Ty → Bool}

/-- The operand fields of v are those of b. -/
structure VFields.HasB (v : VFields) (b : VOp) : Prop where
  bk : v.bk = b.bk
  vb : v.vb = b.vb
  imm : v.imm = b.imm32

theorem VFields.HasB.eq_with (hB : v.HasB b) (h8 : v.bit8 = 0) : v = .with v.vd v.va b v.vc v.tyCode v.m3 v.h := by
  obtain ⟨vd, va, bk, vb, vc, ty, m3, imm, bit8, h⟩ := v
  obtain ⟨rfl, rfl, rfl⟩ := hB
  subst h8
  rfl

theorem hasB_of_noB (hB : v.noB = true) : v.HasB vecZero := by
  simp only [VFields.noB, Bool.and_eq_true, beq_iff_eq] at hB
  exact ⟨hB.1.1, hB.1.2, hB.2⟩

theorem hasB_of_b (hf : f.Bounded) (hz : (vFields f).bZero w = true) (hb : (vFields f).b w = some b) :
    (vFields f).HasB b ∧ vopOk w b = true := by
  have hvb : (vFields f).vb < 256 := field8_lt ..
  have himm : (vFields f).imm < 2 ^ 32 := hf.e2
  generalize vFields f = v at *
  unfold VFields.b at hb
  unfold VFields.bZero at hz
  split at hb
  case h_1 hbk =>
    obtain ⟨he, rfl⟩ := allow_some.1 hb
    exact ⟨⟨hbk, rfl, by simpa [hbk, VOp.imm32] using hz⟩, by simpa [vopOk, hvb] using he⟩
  case h_2 hbk =>
    obtain ⟨he, rfl⟩ := allow_some.1 hb
    simp only [hbk, Bool.and_eq_true, beq_iff_eq, decide_eq_true_eq] at hz
    exact ⟨⟨hbk, rfl, hz.1⟩, by simpa [vopOk, hz.2] using he⟩
  case h_3 hbk =>
    cases hb
    simp only [hbk, Bool.and_eq_true, Bool.or_eq_true, beq_iff_eq, decide_eq_true_eq, Nat.div_eq_zero_iff] at hz
    have hw : 32 ≤ w ∨ v.imm < 2 ^ w := by simpa using hz.2
    exact ⟨⟨hbk, hz.1, rfl⟩, by simp only [vopOk, Bool.and_eq_true, Bool.or_eq_true, decide_eq_true_eq]; exact ⟨himm, hw⟩⟩
  case h_4 => cases hb

theorem VFields.tyIn_some {rs : List Nat} (ht : v.tyIn p rs = some t) :
    v.tyCode = t.code ∧ v.width = t.width ∧ p t = true ∧ evens t rs = true := by
  simp only [VFields.tyIn, Option.bind_eq_some_iff, allow_some, Bool.and_eq_true] at ht
  obtain ⟨t', h1, ⟨h2, h3⟩, rfl⟩ := ht
  exact ⟨(Ty.code_of h1).symm, by simp [VFields.width, h1], h2, h3⟩

theorem vBin_instr {mk : VFields → VOp → Ty → Instr} (hf : f.Bounded) (hd : vBin f p mk = .instr i) :
    ∃ b t, f.IsV (field f.w0 27 5) (.with (vFields f).vd (vFields f).va b 0 t.code 0 (vFields f).h) ∧
      vopOk t.width b = true ∧ p t = true ∧ evens t [(vFields f).vd, (vFields f).va] = true ∧ i = mk (vFields f) b t := by
  obtain ⟨hl, hz, hi⟩ := formX_instr.1 hd
  simp only [Option.bind_eq_some_iff, allow_some, Bool.and_eq_true, beq_iff_eq] at hz hi
  obtain ⟨t, ht, b, hb, hm3, rfl⟩ := hi
  obtain ⟨⟨h8, hz⟩, hvc⟩ := hz
  obtain ⟨hty, hwidth, hp, he⟩ := VFields.tyIn_some ht
  obtain ⟨hB, hok⟩ := hasB_of_b hf (hwidth ▸ hz) hb
  have hv := hB.eq_with h8
  rw [hvc, hty, hm3] at hv
  exact ⟨b, t, ⟨lenOkX_never.1 hl, rfl, hv⟩, hok, hp, he, rfl⟩

theorem vTri_instr {mk : VFields → VOp → Ty → Instr} (hf : f.Bounded) (hd : vTri f p mk = .instr i) :
    ∃ b t, f.IsV (field f.w0 27 5) (.with (vFields f).vd (vFields f).va b (vFields f).vc t.code 0 (vFields f).h) ∧
      vopOk t.width b = true ∧ p t = true ∧ evens t [(vFields f).vd, (vFields f).va, (vFields f).vc] = true ∧
      i = mk (vFields f) b t := by
  obtain ⟨hl, hz, hi⟩ := formX_instr.1 hd
  simp only [Option.bind_eq_some_iff, allow_some, Bool.and_eq_true, beq_iff_eq] at hz hi
  obtain ⟨t, ht, b, hb, hm3, rfl⟩ := hi
  obtain ⟨h8, hz⟩ := hz
  obtain ⟨hty, hwidth, hp, he⟩ := VFields.tyIn_some ht
  obtain ⟨hB, hok⟩ := hasB_of_b hf (hwidth ▸ hz) hb
  have hv := hB.eq_with h8
  rw [hty, hm3] at hv
  exact ⟨b, t, ⟨lenOkX_never.1 hl, rfl, hv⟩, hok, hp, he, rfl⟩

theorem vUn_instr {mk : VFields → Ty → Instr} (hd : vUn f p mk = .instr i) :
    ∃ t, f.IsV (field f.w0 27 5) (.with (vFields f).vd (vFields f).va vecZero 0 t.code 0 (vFields f).h) ∧
      p t = true ∧ evens t [(vFields f).vd, (vFields f).va] = true ∧ i = mk (vFields f) t := by
  obtain ⟨hl, hz, hi⟩ := formX_instr.1 hd
  simp only [Option.bind_eq_some_iff, allow_some, Bool.and_eq_true, beq_iff_eq] at hz hi
  obtain ⟨t, ht, hm3, rfl⟩ := hi
  obtain ⟨⟨h8, hB⟩, hvc⟩ := hz
  obtain ⟨hty, -, hp, he⟩ := VFields.tyIn_some ht
  have hv := (hasB_of_noB hB).eq_with h8
  rw [hvc, hty, hm3] at hv
  exact ⟨t, ⟨lenOkX_never.1 hl, rfl, hv⟩, hp, he, rfl⟩

theorem vBinR_instr {mk : VFields → VOp → Ty → Rm → Instr} (hf : f.Bounded) (hd : vBinR f mk = .instr i) :
    ∃ b t m, f.IsV (field f.w0 27 5) (.with (vFields f).vd (vFields f).va b 0 t.code m.code (vFields f).h) ∧
      vopOk t.width b = true ∧ t.isFp3 = true ∧ i = mk (vFields f) b t m := by
  obtain ⟨hl, hz, hi⟩ := formX_instr.1 hd
  simp only [Option.bind_eq_some_iff, Option.map_eq_some_iff, Bool.and_eq_true, beq_iff_eq] at hz hi
  obtain ⟨t, ht, b, hb, m, hm3, rfl⟩ := hi
  obtain ⟨⟨h8, hz⟩, hvc⟩ := hz
  obtain ⟨hty, hwidth, hp, -⟩ := VFields.tyIn_some ht
  obtain ⟨hB, hok⟩ := hasB_of_b hf (hwidth ▸ hz) hb
  have hv := hB.eq_with h8
  rw [hvc, hty, ← Rm.code_of hm3] at hv
  exact ⟨b, t, m, ⟨lenOkX_never.1 hl, rfl, hv⟩, hok, hp, rfl⟩

theorem vTriR_instr {mk : VFields → VOp → Ty → Rm → Instr} (hf : f.Bounded) (hd : vTriR f mk = .instr i) :
    ∃ b t m, f.IsV (field f.w0 27 5) (.with (vFields f).vd (vFields f).va b (vFields f).vc t.code m.code (vFields f).h) ∧
      vopOk t.width b = true ∧ t.isFp3 = true ∧ i = mk (vFields f) b t m := by
  obtain ⟨hl, hz, hi⟩ := formX_instr.1 hd
  simp only [Option.bind_eq_some_iff, Option.map_eq_some_iff, Bool.and_eq_true, beq_iff_eq] at hz hi
  obtain ⟨t, ht, b, hb, m, hm3, rfl⟩ := hi
  obtain ⟨h8, hz⟩ := hz
  obtain ⟨hty, hwidth, hp, -⟩ := VFields.tyIn_some ht
  obtain ⟨hB, hok⟩ := hasB_of_b hf (hwidth ▸ hz) hb
  have hv := hB.eq_with h8
  rw [hty, ← Rm.code_of hm3] at hv
  exact ⟨b, t, m, ⟨lenOkX_never.1 hl, rfl, hv⟩, hok, hp, rfl⟩

theorem vUnR_instr {mk : VFields → Ty → Rm → Instr} (hd : vUnR f mk = .instr i) :
    ∃ t m, f.IsV (field f.w0 27 5) (.with (vFields f).vd (vFields f).va vecZero 0 t.code m.code (vFields f).h) ∧
      t.isFp3 = true ∧ i = mk (vFields f) t m := by
  obtain ⟨hl, hz, hi⟩ := formX_instr.1 hd
  simp only [Option.bind_eq_some_iff, Option.map_eq_some_iff, Bool.and_eq_true, beq_iff_eq] at hz hi
  obtain ⟨t, ht, m, hm3, rfl⟩ := hi
  obtain ⟨⟨h8, hB⟩, hvc⟩ := hz
  obtain ⟨hty, -, hp, -⟩ := VFields.tyIn_some ht
  have hv := (hasB_of_noB hB).eq_with h8
  rw [hvc, hty, ← Rm.code_of hm3] at hv
  exact ⟨t, m, ⟨lenOkX_never.1 hl, rfl, hv⟩, hp, rfl⟩

theorem vShift_instr {mk : VFields → VOp → Ty → Instr} (hf : f.Bounded) (hd : vShift f mk = .instr i) :
    ∃ b t, f.IsV (field f.w0 27 5) (.with (vFields f).vd (vFields f).va b 0 t.code 0 (vFields f).h) ∧
      vopOk t.width b = true ∧ notVec b = true ∧ t.is32 = true ∧ i = mk (vFields f) b t := by
  obtain ⟨hl, hz, hi⟩ := formX_instr.1 hd
  simp only [Option.bind_eq_some_iff, allow_some, Bool.and_eq_true, beq_iff_eq] at hz hi
  obtain ⟨t, ht, b, hb, ⟨hm3, hnv⟩, rfl⟩ := hi
  obtain ⟨⟨h8, hz⟩, hvc⟩ := hz
  obtain ⟨hty, hwidth, hp, he⟩ := VFields.tyIn_some ht
  obtain ⟨hB, hok⟩ := hasB_of_b hf (hwidth ▸ hz) hb
  have hv := hB.eq_with h8
  rw [hvc, hty, hm3] at hv
  exact ⟨b, t, ⟨lenOkX_never.1 hl, rfl, hv⟩, hok, hnv, hp, rfl⟩

theorem vComb_instr {mk : VFields → Comb → Ty → Instr} (hd : vComb f mk = .instr i) :
    ∃ c t, f.IsV (field f.w0 27 5) (.with (vFields f).vd (vFields f).va vecZero 0 t.code c.code (vFields f).h) ∧
      combOk c t = true ∧ i = mk (vFields f) c t := by
  obtain ⟨hl, hz, hi⟩ := formX_instr.1 hd
  simp only [Option.bind_eq_some_iff, allow_some, Bool.and_eq_true, beq_iff_eq] at hz hi
  obtain ⟨t, ht, c, hc, hok, rfl⟩ := hi
  obtain ⟨⟨h8, hB⟩, hvc⟩ := hz
  have hv := (hasB_of_noB hB).eq_with h8
  rw [hvc, ← Ty.code_of ht, ← Comb.code_of hc] at hv
  exact ⟨c, t, ⟨lenOkX_never.1 hl, rfl, hv⟩, hok, rfl⟩

end Backward

end Sys2Proof
end

section
/-!
PROOF. Format V from frames back to instructions: cross-lane, floating-point, integer and comparison forms.
-/

namespace Sys2Proof

open Machine

variable {f : Frame} {i : Instr} {maj mn vd va vc m3 h w : Nat} {b : VOp} {t : Ty} {v : VFields}

theorem vFields_vd_lt (f : Frame) : (vFields f).vd < 256 := field8_lt ..
theorem vFields_va_lt (f : Frame) : (vFields f).va < 256 := field8_lt ..
theorem vFields_vc_lt (f : Frame) : (vFields f).vc < 256 := field8_lt ..
theorem vFields_h_lt (f : Frame) : (vFields f).h < 256 := Nat.mod_lt _ (by decide)

theorem decodeCross_denotes (hn : f.Named) (hb : f.Bounded) (hm : field f.w0 2 7 = 0x12) (hd : decodeCross f = .instr i) :
    Denotes f i := by
  simp only [decodeCross] at hd
  split at hd
  case h_1 hmn =>
    obtain ⟨b, t, hv, hok, hp, he, rfl⟩ := vBin_instr hb hd
    rw [hmn] at hv
    exact ⟨by simp [Instr.wf, vFields_vd_lt, vFields_va_lt, vFields_h_lt, hok, hp, he],
      congrArg some (encV_of_frame hn hb hm hv)⟩
  case h_2 hmn | h_3 hmn | h_4 hmn | h_5 hmn =>
    obtain ⟨b, t, hv, hok, hnv, hp, rfl⟩ := vShift_instr hb hd
    rw [hmn] at hv
    exact ⟨by simp [Instr.wf, vFields_vd_lt, vFields_va_lt, vFields_h_lt, hok, hnv, hp, evens_narrow (Ty.is32_narrow hp)],
      congrArg some (encV_of_frame hn hb hm hv)⟩
  case h_6 hmn | h_7 hmn =>
    obtain ⟨c, t, hv, hok, rfl⟩ := vComb_instr hd
    rw [hmn] at hv
    exact ⟨by simp [Instr.wf, vFields_vd_lt, vFields_va_lt, vFields_h_lt, hok],
      congrArg some (encV_of_frame hn hb hm hv)⟩
  case h_8 => cases hd

theorem decodeVFp_denotes (hn : f.Named) (hb : f.Bounded) (hm : field f.w0 2 7 = 0x38) (hd : decodeVFp f = .instr i) :
    Denotes f i := by
  simp only [decodeVFp] at hd
  split at hd
  case h_1 hmn | h_2 hmn | h_3 hmn =>
    obtain ⟨b, t, m, hv, hok, hp, rfl⟩ := vBinR_instr hb hd
    rw [hmn] at hv
    exact ⟨by simp [Instr.wf, vFields_vd_lt, vFields_va_lt, vFields_h_lt, hok, hp, evens_narrow (Ty.isFp3_narrow hp)],
      congrArg some (encV_of_frame hn hb hm hv)⟩
  case h_4 hmn | h_5 hmn | h_6 hmn =>
    obtain ⟨b, t, m, hv, hok, hp, rfl⟩ := vTriR_instr hb hd
    rw [hmn] at hv
    exact ⟨by simp [Instr.wf, vFields_vd_lt, vFields_va_lt, vFields_vc_lt, vFields_h_lt, hok, hp,
      evens_narrow (Ty.isFp3_narrow hp)], congrArg some (encV_of_frame hn hb hm hv)⟩
  case h_7 hmn | h_8 hmn | h_11 hmn =>
    obtain ⟨b, t, hv, hok, hp, he, rfl⟩ := vBin_instr hb hd
    rw [hmn] at hv
    exact ⟨by simp [Instr.wf, vFields_vd_lt, vFields_va_lt, vFields_h_lt, hok, hp, he],
      congrArg some (encV_of_frame hn hb hm hv)⟩
  case h_12 hmn | h_13 hmn | h_14 hmn | h_22 hmn =>
    obtain ⟨t, m, hv, hp, rfl⟩ := vUnR_instr hd
    rw [hmn] at hv
    exact ⟨by simp [Instr.wf, vFields_vd_lt, vFields_va_lt, vFields_h_lt, hp, evens_narrow (Ty.isFp3_narrow hp)],
      congrArg some (encV_of_frame hn hb hm hv)⟩
  case h_25 => cases hd
  case h_9 hmn | h_10 hmn | h_15 hmn | h_16 hmn | h_17 hmn | h_18 hmn | h_19 hmn | h_20 hmn | h_21 hmn | h_23 hmn | h_24 hmn =>
    obtain ⟨t, hv, hp, he, rfl⟩ := vUn_instr hd
    rw [hmn] at hv
    exact ⟨by simp [Instr.wf, vFields_vd_lt, vFields_va_lt, vFields_h_lt, hp, he],
      congrArg some (encV_of_frame hn hb hm hv)⟩

theorem decodeVsel_denotes (hn : f.Named) (hb : f.Bounded) (hm : field f.w0 2 7 = 0x28) (hmn : field f.w0 27 5 = 24)
    (hd : decodeVsel f = .instr i) : Denotes f i := by
  obtain ⟨hl, hz, hi⟩ := formX_instr.1 hd
  simp only [Option.bind_eq_some_iff, allow_some, Bool.and_eq_true, beq_iff_eq, decide_eq_true_eq] at hz hi
  obtain ⟨t, ht, b, hb', ⟨hm3, hmc⟩, rfl⟩ := hi
  obtain ⟨⟨h8, hz⟩, -⟩ := hz
  obtain ⟨hty, hwidth, hp, -⟩ := VFields.tyIn_some ht
  obtain ⟨hB, hok⟩ := hasB_of_b hb (hwidth ▸ hz) hb'
  have hv := hB.eq_with h8
  rw [hty, hm3] at hv
  exact ⟨by simp [Instr.wf, vFields_vd_lt, vFields_va_lt, vFields_h_lt, hok, hmc, hp, evens_narrow (Ty.is32_narrow hp)],
    congrArg some (encV_of_frame hn hb hm ⟨lenOkX_never.1 hl, hmn, hv⟩)⟩

theorem decodeVmov_denotes (hn : f.Named) (hb : f.Bounded) (hm : field f.w0 2 7 = 0x28) (hmn : field f.w0 27 5 = 25)
    (hd : decodeVmov f = .instr i) : Denotes f i := by
  obtain ⟨hl, hz, hi⟩ := formX_instr.1 hd
  simp only [Option.bind_eq_some_iff, allow_some, Bool.and_eq_true, beq_iff_eq] at hz hi
  obtain ⟨t, ht, b, hb', hm3, rfl⟩ := hi
  obtain ⟨⟨⟨h8, hz⟩, hvc⟩, hva⟩ := hz
  obtain ⟨hty, hwidth, hp, -⟩ := VFields.tyIn_some ht
  obtain ⟨hB, hok⟩ := hasB_of_b hb (hwidth ▸ hz) hb'
  have hv := hB.eq_with h8
  rw [hva, hvc, hty, hm3] at hv
  exact ⟨by simp [Instr.wf, vFields_vd_lt, vFields_h_lt, hok, hp, evens_narrow (Ty.is32_narrow hp)],
    congrArg some (encV_of_frame hn hb hm ⟨lenOkX_never.1 hl, hmn, hv⟩)⟩

theorem Ty.isN32_iff : t.isN32 = true ↔ t = .n32 := by simp [Ty.isN32]

theorem decodeVInt_denotes (hn : f.Named) (hb : f.Bounded) (hm : field f.w0 2 7 = 0x28) (hd : decodeVInt f = .instr i) :
    Denotes f i := by
  simp only [decodeVInt] at hd
  split at hd
  case h_5 hmn =>
    obtain ⟨b, t, hv, hok, hp, he, rfl⟩ := vTri_instr hb hd
    rw [hmn] at hv
    exact ⟨by simp [Instr.wf, vFields_vd_lt, vFields_va_lt, vFields_vc_lt, vFields_h_lt, hok, hp, he],
      congrArg some (encV_of_frame hn hb hm hv)⟩
  case h_21 hmn | h_27 hmn =>
    obtain ⟨b, t, hv, hok, hp, -, rfl⟩ := vTri_instr hb hd
    cases Ty.isN32_iff.1 hp
    rw [hmn] at hv
    exact ⟨by simp [Instr.wf, vFields_vd_lt, vFields_va_lt, vFields_vc_lt, vFields_h_lt, show vopOk 32 b = true from hok],
      congrArg some (encV_of_frame hn hb hm hv)⟩
  case h_15 hmn =>
    obtain ⟨t, hv, hp, he, rfl⟩ := vUn_instr hd
    rw [hmn] at hv
    exact ⟨by simp [Instr.wf, vFields_vd_lt, vFields_va_lt, vFields_h_lt, hp, he],
      congrArg some (encV_of_frame hn hb hm hv)⟩
  case h_22 hmn | h_23 hmn | h_24 hmn =>
    obtain ⟨t, hv, hp, -, rfl⟩ := vUn_instr hd
    cases Ty.isN32_iff.1 hp
    rw [hmn] at hv
    exact ⟨by simp [Instr.wf, vFields_vd_lt, vFields_va_lt, vFields_h_lt], congrArg some (encV_of_frame hn hb hm hv)⟩
  case h_25 hmn => exact decodeVsel_denotes hn hb hm hmn hd
  case h_26 hmn => exact decodeVmov_denotes hn hb hm hmn hd
  case h_28 => cases hd
  all_goals
    next hmn =>
    obtain ⟨b, t, hv, hok, hp, he, rfl⟩ := vBin_instr hb hd
    rw [hmn] at hv
    exact ⟨by simp [Instr.wf, vFields_vd_lt, vFields_va_lt, vFields_h_lt, hok, hp, he],
      congrArg some (encV_of_frame hn hb hm hv)⟩

theorem decodeCmp_denotes (hn : f.Named) (hb : f.Bounded) (hm : field f.w0 2 7 = 0x11) (hd : decodeCmp f = .instr i) :
    Denotes f i := by
  obtain ⟨hl, hz, hi⟩ := formX_instr.1 hd
  simp only [Option.bind_eq_some_iff, allow_some, Bool.and_eq_true, beq_iff_eq, decide_eq_true_eq] at hz hi
  obtain ⟨c, hc, t, ht, b, hb', ⟨⟨hm3, hmd⟩, hcond⟩, rfl⟩ := hi
  obtain ⟨⟨⟨h8, hz⟩, hvc⟩, -⟩ := hz
  obtain ⟨hty, hwidth, hp, he⟩ := VFields.tyIn_some ht
  obtain ⟨hB, hok⟩ := hasB_of_b hb (hwidth ▸ hz) hb'
  have hv := hB.eq_with h8
  rw [hvc, hty, hm3] at hv
  exact ⟨by simpa [Instr.wf, vFields_va_lt, vFields_h_lt, hmd, hok, hp, he] using hcond,
    congrArg some (encV_of_frame hn hb hm ⟨lenOkX_never.1 hl, (Cond.code_of hc).symm, hv⟩)⟩

end Sys2Proof
end

section
/-!
PROOF. Format V from frames back to instructions: tangent forms and conversions (R177 to R183).
-/

namespace Sys2Proof

open Machine

variable {f : Frame} {i : Instr} {maj mn vd va vc m3 h w : Nat} {b : VOp} {t : Ty} {v : VFields}

theorem VFields.tan0_iff : v.tan0 = true ↔ v.tyCode = 0 ∧ v.m3 = 0 := by simp [VFields.tan0]

theorem decodeTan_denotes (hn : f.Named) (hb : f.Bounded) (hm : field f.w0 2 7 = 0x39) (hd : decodeTan f = .instr i) :
    Denotes f i := by
  simp only [decodeTan] at hd
  split at hd
  case h_1 hmn | h_4 hmn =>
    obtain ⟨hl, hz, hi⟩ := formX_instr.1 hd
    simp only [Option.bind_eq_some_iff, allow_some, VFields.tan0_iff, Bool.and_eq_true, beq_iff_eq] at hz hi
    obtain ⟨b, hb', ⟨hty, hm3⟩, rfl⟩ := hi
    obtain ⟨⟨⟨h8, hz⟩, hva⟩, hvc⟩ := hz
    obtain ⟨hB, hok⟩ := hasB_of_b hb hz hb'
    have hv := hB.eq_with h8
    rw [hva, hty, hm3] at hv
    have hk : (vFields f).vc % 8 = (vFields f).vc := by omega
    rw [hk]
    exact ⟨by simp [Instr.wf, vFields_vd_lt, vFields_h_lt, hok]; omega,
      congrArg some (encV_of_frame hn hb hm ⟨lenOkX_never.1 hl, hmn, hv⟩)⟩
  case h_2 hmn =>
    obtain ⟨hl, hz, hi⟩ := formX_instr.1 hd
    simp only [allow_some, VFields.tan0_iff, Bool.and_eq_true, beq_iff_eq] at hz hi
    obtain ⟨⟨hty, hm3⟩, rfl⟩ := hi
    obtain ⟨⟨⟨h8, hB⟩, hva⟩, hvc⟩ := hz
    have hv := (hasB_of_noB hB).eq_with h8
    rw [hva, hty, hm3] at hv
    have hf := encV_of_frame hn hb hm ⟨lenOkX_never.1 hl, hmn, hv⟩
    have hvc8 := vFields_vc_lt f
    split at hvc
    · next h128 =>
      have hk : (vFields f).vc = 128 := by simp only [beq_iff_eq] at hvc; omega
      rw [hk] at hf
      exact ⟨by simp [Instr.wf, vFields_vd_lt, vFields_h_lt, h128], by simpa [encodeFrame, h128] using hf⟩
    · next h128 =>
      have hk : (vFields f).vc % 8 = (vFields f).vc := by simp only [beq_iff_eq] at hvc; omega
      have hk8 : (vFields f).vc < 8 := by omega
      exact ⟨by simp [Instr.wf, vFields_vd_lt, vFields_h_lt, h128, hk, hk8], by simpa [encodeFrame, h128, hk] using hf⟩
  case h_3 hmn | h_5 hmn =>
    obtain ⟨hl, hz, hi⟩ := formX_instr.1 hd
    simp only [allow_some, VFields.tan0_iff, Bool.and_eq_true, beq_iff_eq] at hz hi
    obtain ⟨⟨hty, hm3⟩, rfl⟩ := hi
    obtain ⟨⟨⟨h8, hB⟩, hlow⟩, hhigh⟩ := hz
    have hv := (hasB_of_noB hB).eq_with h8
    rw [hty, hm3] at hv
    have hf := encV_of_frame hn hb hm ⟨lenOkX_never.1 hl, hmn, hv⟩
    refine ⟨by simp [Instr.wf, vFields_vd_lt, vFields_va_lt, vFields_h_lt]; omega, ?_⟩
    rw [encodeFrame, Option.some.injEq]
    refine Eq.trans ?_ hf
    congr 1
    omega
  case h_6 => cases hd

theorem decodeCvt_denotes (hn : f.Named) (hb : f.Bounded) (hm : field f.w0 2 7 = 0x50) (hd : decodeCvt f = .instr i) :
    Denotes f i := by
  have hvc8 := vFields_vc_lt f
  simp only [decodeCvt] at hd
  split at hd
  case h_1 hmn =>
    obtain ⟨hl, hz, hi⟩ := formX_instr.1 hd
    simp only [Option.bind_eq_some_iff, allow_some, Bool.and_eq_true, beq_iff_eq, bne_iff_ne] at hz hi
    obtain ⟨t, ht, ts, hts, m, hm3, ⟨⟨⟨hne, hed⟩, hea⟩, hr⟩, rfl⟩ := hi
    obtain ⟨⟨h8, hB⟩, hvc⟩ := hz
    have hv := (hasB_of_noB hB).eq_with h8
    have hk : (vFields f).vc % 16 = (vFields f).vc := by omega
    rw [← Ty.code_of ht, ← Rm.code_of hm3, ← hk, ← Ty.code_of hts] at hv
    have hed : evens t [(vFields f).vd] = true := by simpa [evens] using hed
    have hea : evens ts [(vFields f).va] = true := by simpa [evens] using hea
    exact ⟨by simpa [Instr.wf, vFields_vd_lt, vFields_va_lt, vFields_h_lt, hne, hed, hea] using hr,
      congrArg some (encV_of_frame hn hb hm ⟨lenOkX_never.1 hl, hmn, hv⟩)⟩
  case h_2 hmn =>
    obtain ⟨hl, hz, hi⟩ := formX_instr.1 hd
    simp only [Option.bind_eq_some_iff, allow_some, Bool.and_eq_true, beq_iff_eq, bne_iff_ne] at hz hi
    obtain ⟨t, ht, b, hb', ⟨⟨hm3, hne⟩, hw⟩, rfl⟩ := hi
    obtain ⟨h8, hz⟩ := hz
    obtain ⟨hB, hok⟩ := hasB_of_b hb hz hb'
    have hv := hB.eq_with h8
    rw [← Ty.code_of ht, hm3] at hv
    exact ⟨by simpa [Instr.wf, vFields_vd_lt, vFields_va_lt, vFields_vc_lt, vFields_h_lt, hok] using ⟨hne, hw⟩,
      congrArg some (encV_of_frame hn hb hm ⟨lenOkX_never.1 hl, hmn, hv⟩)⟩
  case h_3 hmn =>
    obtain ⟨hl, hz, hi⟩ := formX_instr.1 hd
    simp only [allow_some, Bool.and_eq_true, beq_iff_eq, bne_iff_ne] at hz hi
    obtain ⟨⟨⟨⟨⟨hty, hm3⟩, heven⟩, hne⟩, hne1⟩, rfl⟩ := hi
    obtain ⟨⟨h8, hB⟩, hvc⟩ := hz
    have hv := (hasB_of_noB hB).eq_with h8
    rw [hvc, hty, hm3] at hv
    exact ⟨by simpa [Instr.wf, vFields_vd_lt, vFields_va_lt, vFields_h_lt, heven] using ⟨hne, hne1⟩,
      congrArg some (encV_of_frame hn hb hm ⟨lenOkX_never.1 hl, hmn, hv⟩)⟩
  case h_4 hmn =>
    obtain ⟨hl, hz, hi⟩ := formX_instr.1 hd
    simp only [allow_some, Bool.and_eq_true, beq_iff_eq] at hz hi
    obtain ⟨⟨⟨⟨hty, hm3⟩, heva⟩, hevd⟩, rfl⟩ := hi
    obtain ⟨⟨h8, hB⟩, hvc⟩ := hz
    have hv := (hasB_of_noB hB).eq_with h8
    rw [hvc, hty, hm3] at hv
    exact ⟨by simp [Instr.wf, vFields_vd_lt, vFields_va_lt, vFields_h_lt, heva, hevd],
      congrArg some (encV_of_frame hn hb hm ⟨lenOkX_never.1 hl, hmn, hv⟩)⟩
  case h_5 hmn =>
    obtain ⟨hl, hz, hi⟩ := formX_instr.1 hd
    simp only [Option.bind_eq_some_iff, allow_some, Bool.and_eq_true, beq_iff_eq] at hz hi
    obtain ⟨t, ht, ts, hts, m, hm3, b, hb', ⟨⟨hpack, hs⟩, hr⟩, rfl⟩ := hi
    obtain ⟨⟨⟨h8, hz⟩, hvc⟩, hhi⟩ := hz
    obtain ⟨hB, hok⟩ := hasB_of_b hb hz hb'
    have hv := hB.eq_with h8
    have hk : (vFields f).vc = 16 * ((vFields f).vc / 16 == 1).toNat + (vFields f).vc % 16 := by
      have h2 : (vFields f).vc / 16 < 2 := by omega
      have hmod := Nat.div_add_mod (vFields f).vc 16
      interval_cases (vFields f).vc / 16 <;> simp <;> omega
    rw [← Ty.code_of ht, ← Rm.code_of hm3, hk, ← Ty.code_of hts] at hv
    have hp : packWide t = true ∧ ((vFields f).vc / 16 == 1) = false ∨ packNarrow t = true := by
      rw [show (vFields f).ty = some t from ht] at hhi
      simp only [Bool.or_eq_true, beq_iff_eq, Bool.not_eq_true'] at hhi hpack
      rcases hpack with hw | hw
      · exact .inl ⟨hw, by rw [hhi.resolve_right (by rw [hw]; decide)]; rfl⟩
      · exact .inr hw
    have hwf : (packWide t && !((vFields f).vc / 16 == 1) || packNarrow t) = true := by
      rcases hp with ⟨h1, h2⟩ | h1
      · rw [h1, h2]; rfl
      · rw [h1, Bool.or_true]
    exact ⟨by simp only [Instr.wf, vFields_vd_lt, vFields_va_lt, vFields_h_lt, hok, hwf, hs, hr]; rfl,
      congrArg some (encV_of_frame hn hb hm ⟨lenOkX_never.1 hl, hmn, hv⟩)⟩
  case h_6 hmn =>
    obtain ⟨hl, hz, hi⟩ := formX_instr.1 hd
    simp only [Option.bind_eq_some_iff, allow_some, Bool.and_eq_true, beq_iff_eq] at hz hi
    obtain ⟨t, ht, ts, hts, ⟨hm3, hok⟩, rfl⟩ := hi
    obtain ⟨⟨h8, hB⟩, hvc⟩ := hz
    have hv := (hasB_of_noB hB).eq_with h8
    have hk : (vFields f).vc = 16 * ((vFields f).vc / 16 % 4) + (vFields f).vc % 16 := by omega
    rw [← Ty.code_of ht, hm3, hk, ← Ty.code_of hts] at hv
    exact ⟨by simpa [Instr.wf, vFields_vd_lt, vFields_va_lt, vFields_h_lt, Nat.mod_lt] using hok,
      congrArg some (encV_of_frame hn hb hm ⟨lenOkX_never.1 hl, hmn, hv⟩)⟩
  case h_7 => cases hd

end Sys2Proof
end

section
/-!
PROOF. Format V from instructions to frames: the families that the decoder's shapes name.
-/

namespace Sys2Proof

open Machine

variable {f : Frame} {i : Instr} {maj mn vd va vc m3 h w : Nat} {b : VOp} {t : Ty} {v : VFields}

theorem decodeFrame_Cmp (hm : field f.w0 2 7 = 0x11) : decodeFrame f = decodeCmp f := by simp only [decodeFrame, hm]
theorem decodeFrame_Cross (hm : field f.w0 2 7 = 0x12) : decodeFrame f = decodeCross f := by simp only [decodeFrame, hm]
theorem decodeFrame_VInt (hm : field f.w0 2 7 = 0x28) : decodeFrame f = decodeVInt f := by simp only [decodeFrame, hm]
theorem decodeFrame_VFp (hm : field f.w0 2 7 = 0x38) : decodeFrame f = decodeVFp f := by simp only [decodeFrame, hm]
theorem decodeFrame_Tan (hm : field f.w0 2 7 = 0x39) : decodeFrame f = decodeTan f := by simp only [decodeFrame, hm]
theorem decodeFrame_Cvt (hm : field f.w0 2 7 = 0x50) : decodeFrame f = decodeCvt f := by simp only [decodeFrame, hm]

theorem Ty.code_lt16 (t : Ty) : t.code < 16 := t.code_lt.trans (by decide)
theorem Rm.code_lt8 (m : Rm) : m.code < 8 := m.code_lt.trans (by decide)
theorem Comb.code_lt8 (c : Comb) : c.code < 8 := c.code_lt.trans (by decide)
theorem vecZero_vb : vecZero.vb < 256 := by decide

theorem vcmp_reads (c : Cond) (md va : Nat) (b : VOp) (t : Ty) (h : Nat) : Reads (.vcmp c md va b t h) := by
  refine encV_reads (fun _ => decodeFrame_Cmp) (by decide) rfl fun hw => ?_
  simp only [Instr.wf, Bool.and_eq_true, decide_eq_true_eq] at hw
  obtain ⟨⟨⟨⟨⟨⟨hmd, hva⟩, hb⟩, hh⟩, hp⟩, he⟩, hc⟩ := hw
  have hc8 := c.code_lt
  refine ⟨⟨by omega, by omega, hva, VOp.vb_lt hb, by decide, t.code_lt16, by decide, hh⟩, fun f hf => ?_⟩
  have hd : md / 64 = 0 := by omega
  have hc : t.isFloat = false → c.code < 6 := fun h0 => by simpa [h0] using hc
  simpa [decodeCmp, formX_instr, lenOkX_never, hf.len, hf.fields, hf.minor, VFields.with_bZero hb, VFields.with_b hb,
    VFields.with_tyIn hp he, allow, hmd, hd] using hc

theorem vsel_reads (vd va : Nat) (b : VOp) (mc : Nat) (t : Ty) (h : Nat) : Reads (.vsel vd va b mc t h) := by
  refine encV_reads (fun _ => decodeFrame_VInt) (by decide) rfl fun hw => ?_
  simp only [Instr.wf, Bool.and_eq_true, decide_eq_true_eq] at hw
  obtain ⟨⟨⟨⟨⟨⟨hvd, hva⟩, hb⟩, hmc⟩, hh⟩, hp⟩, -⟩ := hw
  refine ⟨⟨by decide, hvd, hva, VOp.vb_lt hb, by omega, t.code_lt16, by decide, hh⟩, fun f hf => ?_⟩
  have hd : mc / 64 = 0 := by omega
  simp [decodeVInt, hf.minor, decodeVsel, formX_instr, lenOkX_never, hf.len, hf.fields, VFields.with_bZero hb,
    VFields.with_b hb, VFields.with_tyIn hp (evens_narrow (Ty.is32_narrow hp)), allow, hmc, hd]

theorem vmov_reads (vd : Nat) (b : VOp) (t : Ty) (h : Nat) : Reads (.vmov vd b t h) := by
  refine encV_reads (fun _ => decodeFrame_VInt) (by decide) rfl fun hw => ?_
  simp only [Instr.wf, Bool.and_eq_true, decide_eq_true_eq] at hw
  obtain ⟨⟨⟨⟨hvd, hb⟩, hh⟩, hp⟩, -⟩ := hw
  refine ⟨⟨by decide, hvd, by decide, VOp.vb_lt hb, by decide, t.code_lt16, by decide, hh⟩, fun f hf => ?_⟩
  simp [decodeVInt, hf.minor, decodeVmov, formX_instr, lenOkX_never, hf.len, hf.fields, VFields.with_bZero hb,
    VFields.with_b hb, VFields.with_tyIn hp (evens_narrow (Ty.is32_narrow hp)), allow]

section Families

variable {dec : Frame → Decoded} {p : Ty → Bool} {m : Rm} {c : Comb}

theorem bin_reads {mk : Nat → Nat → VOp → Ty → Nat → Instr} (hmaj : ∀ f, field f.w0 2 7 = maj → decodeFrame f = dec f)
    (hm : maj < 128) (hmn : mn < 32) (he : encodeFrame (mk vd va b t h) = some (encV maj mn vd va b 0 t.code 0 h))
    (hd : ∀ f, field f.w0 27 5 = mn → dec f = vBin f p fun v b t => mk v.vd v.va b t v.h)
    (hw : (mk vd va b t h).wf = true →
      vd < 256 ∧ va < 256 ∧ vopOk t.width b = true ∧ h < 256 ∧ p t = true ∧ evens t [vd, va] = true) :
    Reads (mk vd va b t h) := by
  refine encV_reads hmaj hm he fun hwf => ?_
  obtain ⟨hvd, hva, hb, hh, hp, hev⟩ := hw hwf
  refine ⟨⟨hmn, hvd, hva, VOp.vb_lt hb, by decide, t.code_lt16, by decide, hh⟩, fun f hf => ?_⟩
  simp [hd f hf.minor, vBin, formX, lenOkX_never, hf.len, hf.fields, VFields.with_bZero hb, VFields.with_b hb,
    VFields.with_tyIn hp hev, allow]

theorem tri_reads {mk : Nat → Nat → VOp → Nat → Ty → Nat → Instr}
    (hmaj : ∀ f, field f.w0 2 7 = maj → decodeFrame f = dec f) (hm : maj < 128) (hmn : mn < 32)
    (he : encodeFrame (mk vd va b vc t h) = some (encV maj mn vd va b vc t.code 0 h))
    (hd : ∀ f, field f.w0 27 5 = mn → dec f = vTri f p fun v b t => mk v.vd v.va b v.vc t v.h)
    (hw : (mk vd va b vc t h).wf = true → vd < 256 ∧ va < 256 ∧ vopOk t.width b = true ∧ vc < 256 ∧ h < 256 ∧
      p t = true ∧ evens t [vd, va, vc] = true) : Reads (mk vd va b vc t h) := by
  refine encV_reads hmaj hm he fun hwf => ?_
  obtain ⟨hvd, hva, hb, hvc, hh, hp, hev⟩ := hw hwf
  refine ⟨⟨hmn, hvd, hva, VOp.vb_lt hb, hvc, t.code_lt16, by decide, hh⟩, fun f hf => ?_⟩
  simp [hd f hf.minor, vTri, formX, lenOkX_never, hf.len, hf.fields, VFields.with_bZero hb, VFields.with_b hb,
    VFields.with_tyIn hp hev, allow]

theorem un_reads {mk : Nat → Nat → Ty → Nat → Instr} (hmaj : ∀ f, field f.w0 2 7 = maj → decodeFrame f = dec f)
    (hm : maj < 128) (hmn : mn < 32) (he : encodeFrame (mk vd va t h) = some (encV maj mn vd va vecZero 0 t.code 0 h))
    (hd : ∀ f, field f.w0 27 5 = mn → dec f = vUn f p fun v t => mk v.vd v.va t v.h)
    (hw : (mk vd va t h).wf = true → vd < 256 ∧ va < 256 ∧ h < 256 ∧ p t = true ∧ evens t [vd, va] = true) :
    Reads (mk vd va t h) := by
  refine encV_reads hmaj hm he fun hwf => ?_
  obtain ⟨hvd, hva, hh, hp, hev⟩ := hw hwf
  refine ⟨⟨hmn, hvd, hva, vecZero_vb, by decide, t.code_lt16, by decide, hh⟩, fun f hf => ?_⟩
  simp [hd f hf.minor, vUn, formX, lenOkX_never, hf.len, hf.fields, VFields.with_tyIn hp hev, allow]

theorem binR_reads {mk : Nat → Nat → VOp → Ty → Rm → Nat → Instr} (hmn : mn < 32)
    (he : encodeFrame (mk vd va b t m h) = some (encV 0x38 mn vd va b 0 t.code m.code h))
    (hd : ∀ f, field f.w0 27 5 = mn → decodeVFp f = vBinR f fun v b t m => mk v.vd v.va b t m v.h)
    (hw : (mk vd va b t m h).wf = true → vd < 256 ∧ va < 256 ∧ vopOk t.width b = true ∧ h < 256 ∧ t.isFp3 = true) :
    Reads (mk vd va b t m h) := by
  refine encV_reads (fun _ => decodeFrame_VFp) (by decide) he fun hwf => ?_
  obtain ⟨hvd, hva, hb, hh, hp⟩ := hw hwf
  refine ⟨⟨hmn, hvd, hva, VOp.vb_lt hb, by decide, t.code_lt16, m.code_lt8, hh⟩, fun f hf => ?_⟩
  simp [hd f hf.minor, vBinR, formX, lenOkX_never, hf.len, hf.fields, VFields.with_bZero hb, VFields.with_b hb,
    VFields.with_tyIn hp (evens_narrow (Ty.isFp3_narrow hp))]

theorem triR_reads {mk : Nat → Nat → VOp → Nat → Ty → Rm → Nat → Instr} (hmn : mn < 32)
    (he : encodeFrame (mk vd va b vc t m h) = some (encV 0x38 mn vd va b vc t.code m.code h))
    (hd : ∀ f, field f.w0 27 5 = mn → decodeVFp f = vTriR f fun v b t m => mk v.vd v.va b v.vc t m v.h)
    (hw : (mk vd va b vc t m h).wf = true →
      vd < 256 ∧ va < 256 ∧ vopOk t.width b = true ∧ vc < 256 ∧ h < 256 ∧ t.isFp3 = true) :
    Reads (mk vd va b vc t m h) := by
  refine encV_reads (fun _ => decodeFrame_VFp) (by decide) he fun hwf => ?_
  obtain ⟨hvd, hva, hb, hvc, hh, hp⟩ := hw hwf
  refine ⟨⟨hmn, hvd, hva, VOp.vb_lt hb, hvc, t.code_lt16, m.code_lt8, hh⟩, fun f hf => ?_⟩
  simp [hd f hf.minor, vTriR, formX, lenOkX_never, hf.len, hf.fields, VFields.with_bZero hb, VFields.with_b hb,
    VFields.with_tyIn hp (evens_narrow (Ty.isFp3_narrow hp))]

theorem unR_reads {mk : Nat → Nat → Ty → Rm → Nat → Instr} (hmn : mn < 32)
    (he : encodeFrame (mk vd va t m h) = some (encV 0x38 mn vd va vecZero 0 t.code m.code h))
    (hd : ∀ f, field f.w0 27 5 = mn → decodeVFp f = vUnR f fun v t m => mk v.vd v.va t m v.h)
    (hw : (mk vd va t m h).wf = true → vd < 256 ∧ va < 256 ∧ h < 256 ∧ t.isFp3 = true) : Reads (mk vd va t m h) := by
  refine encV_reads (fun _ => decodeFrame_VFp) (by decide) he fun hwf => ?_
  obtain ⟨hvd, hva, hh, hp⟩ := hw hwf
  refine ⟨⟨hmn, hvd, hva, vecZero_vb, by decide, t.code_lt16, m.code_lt8, hh⟩, fun f hf => ?_⟩
  simp [hd f hf.minor, vUnR, formX, lenOkX_never, hf.len, hf.fields,
    VFields.with_tyIn hp (evens_narrow (Ty.isFp3_narrow hp))]

theorem shift_reads {mk : Nat → Nat → VOp → Ty → Nat → Instr} (hmn : mn < 32)
    (he : encodeFrame (mk vd va b t h) = some (encV 0x12 mn vd va b 0 t.code 0 h))
    (hd : ∀ f, field f.w0 27 5 = mn → decodeCross f = vShift f fun v b t => mk v.vd v.va b t v.h)
    (hw : (mk vd va b t h).wf = true →
      vd < 256 ∧ va < 256 ∧ vopOk t.width b = true ∧ notVec b = true ∧ h < 256 ∧ t.is32 = true) :
    Reads (mk vd va b t h) := by
  refine encV_reads (fun _ => decodeFrame_Cross) (by decide) he fun hwf => ?_
  obtain ⟨hvd, hva, hb, hv, hh, hp⟩ := hw hwf
  refine ⟨⟨hmn, hvd, hva, VOp.vb_lt hb, by decide, t.code_lt16, by decide, hh⟩, fun f hf => ?_⟩
  simp [hd f hf.minor, vShift, formX, lenOkX_never, hf.len, hf.fields, VFields.with_bZero hb, VFields.with_b hb,
    VFields.with_tyIn hp (evens_narrow (Ty.is32_narrow hp)), allow, hv]

theorem comb_reads {mk : Nat → Nat → Comb → Ty → Nat → Instr} (hmn : mn < 32)
    (he : encodeFrame (mk vd va c t h) = some (encV 0x12 mn vd va vecZero 0 t.code c.code h))
    (hd : ∀ f, field f.w0 27 5 = mn → decodeCross f = vComb f fun v c t => mk v.vd v.va c t v.h)
    (hw : (mk vd va c t h).wf = true → vd < 256 ∧ va < 256 ∧ h < 256 ∧ combOk c t = true) :
    Reads (mk vd va c t h) := by
  refine encV_reads (fun _ => decodeFrame_Cross) (by decide) he fun hwf => ?_
  obtain ⟨hvd, hva, hh, hc⟩ := hw hwf
  refine ⟨⟨hmn, hvd, hva, vecZero_vb, by decide, t.code_lt16, c.code_lt8, hh⟩, fun f hf => ?_⟩
  simp [hd f hf.minor, vComb, formX, lenOkX_never, hf.len, hf.fields, allow, hc]

end Families

end Sys2Proof
end

section
/-!
PROOF. Format V from instructions to frames: tangent forms and conversions (R177 to R183).
-/

namespace Sys2Proof

open Machine

variable {f : Frame} {i : Instr} {maj mn vd va vc m3 h w : Nat} {b : VOp} {t : Ty} {v : VFields}

@[simp] theorem VFields.with_tan0 : (VFields.with vd va b vc 0 0 h).tan0 = true := rfl

theorem tzero_reads (vd : Nat) (slot : Option Nat) (h : Nat) : Reads (.tzero vd slot h) := by
  refine encV_reads (fun _ => decodeFrame_Tan) (by decide) rfl fun hw => ?_
  simp only [Instr.wf, Bool.and_eq_true, decide_eq_true_eq] at hw
  obtain ⟨⟨hvd, hh⟩, hs⟩ := hw
  cases slot with
  | none =>
    refine ⟨⟨by decide, hvd, by decide, vecZero_vb, by decide, by decide, by decide, hh⟩, fun f hf => ?_⟩
    simp [decodeTan, hf.minor, formX_instr, lenOkX_never, hf.len, hf.fields, allow]
  | some k =>
    have hk : k < 8 := of_decide_eq_true hs
    have h0 : k / 8 = 0 ∧ k % 8 = k ∧ k / 128 = 0 := by omega
    refine ⟨⟨by decide, hvd, by decide, vecZero_vb, by simp; omega, by decide, by decide, hh⟩, fun f hf => ?_⟩
    simp [decodeTan, hf.minor, formX_instr, lenOkX_never, hf.len, hf.fields, allow, h0]

theorem tget_reads (vd va k h : Nat) : Reads (.tget vd va k h) := by
  refine encV_reads (fun _ => decodeFrame_Tan) (by decide) rfl fun hw => ?_
  simp only [Instr.wf, Bool.and_eq_true, decide_eq_true_eq] at hw
  obtain ⟨⟨⟨hvd, hva⟩, hh⟩, hk⟩ := hw
  refine ⟨⟨by decide, hvd, hva, vecZero_vb, by omega, by decide, by decide, hh⟩, fun f hf => ?_⟩
  have h0 : 16 * k / 128 = 0 ∧ k % 8 = k := by omega
  simp [decodeTan, hf.minor, formX_instr, lenOkX_never, hf.len, hf.fields, allow, h0]

theorem tmov_reads (vd j va k h : Nat) : Reads (.tmov vd j va k h) := by
  refine encV_reads (fun _ => decodeFrame_Tan) (by decide) rfl fun hw => ?_
  simp only [Instr.wf, Bool.and_eq_true, decide_eq_true_eq] at hw
  obtain ⟨⟨⟨⟨hvd, hva⟩, hh⟩, hk⟩, hj⟩ := hw
  refine ⟨⟨by decide, hvd, hva, vecZero_vb, by omega, by decide, by decide, hh⟩, fun f hf => ?_⟩
  have h0 : (16 * k + j) / 8 % 2 = 0 ∧ (16 * k + j) / 128 = 0 ∧ (16 * k + j) % 8 = j ∧ (16 * k + j) / 16 % 8 = k := by omega
  simp [decodeTan, hf.minor, formX_instr, lenOkX_never, hf.len, hf.fields, allow, h0]

theorem vcvt_reads (vd va : Nat) (t ts : Ty) (m : Rm) (h : Nat) : Reads (.vcvt vd va t ts m h) := by
  refine encV_reads (fun _ => decodeFrame_Cvt) (by decide) rfl fun hw => ?_
  simp only [Instr.wf, Bool.and_eq_true, decide_eq_true_eq] at hw
  obtain ⟨⟨⟨⟨⟨⟨hvd, hva⟩, hh⟩, hne⟩, hed⟩, hea⟩, hr⟩ := hw
  have hts := ts.code_lt16
  refine ⟨⟨by decide, hvd, hva, vecZero_vb, by omega, t.code_lt16, m.code_lt8, hh⟩, fun f hf => ?_⟩
  have h0 : ts.code / 16 = 0 ∧ ts.code % 16 = ts.code := by omega
  simp only [evens, List.all_cons, List.all_nil, Bool.and_true] at hed hea
  simpa [decodeCvt, hf.minor, formX_instr, lenOkX_never, hf.len, hf.fields, allow_some, h0, and_assoc] using
    And.intro hne (And.intro hed (And.intro hea hr))

theorem vcvtsr_reads (vd va : Nat) (b : VOp) (n : Nat) (t : Ty) (h : Nat) : Reads (.vcvtsr vd va b n t h) := by
  refine encV_reads (fun _ => decodeFrame_Cvt) (by decide) rfl fun hw => ?_
  simp only [Instr.wf, Bool.and_eq_true, decide_eq_true_eq] at hw
  obtain ⟨⟨⟨⟨⟨⟨hvd, hva⟩, hb⟩, hh⟩, hvc⟩, hne⟩, hnw⟩ := hw
  refine ⟨⟨by decide, hvd, hva, VOp.vb_lt hb, hvc, t.code_lt16, by decide, hh⟩, fun f hf => ?_⟩
  simpa [decodeCvt, hf.minor, formX_instr, lenOkX_never, hf.len, hf.fields, VFields.with_bZero hb, VFields.with_b hb,
    allow_some] using And.intro hne hnw

theorem vrand_reads (vd va h : Nat) : Reads (.vrand vd va h) := by
  refine encV_reads (fun _ => decodeFrame_Cvt) (by decide) rfl fun hw => ?_
  simp only [Instr.wf, Bool.and_eq_true, decide_eq_true_eq] at hw
  obtain ⟨⟨⟨⟨⟨hvd, hva⟩, hh⟩, he⟩, hne⟩, hne1⟩ := hw
  refine ⟨⟨by decide, hvd, hva, vecZero_vb, by decide, by decide, by decide, hh⟩, fun f hf => ?_⟩
  simp [decodeCvt, hf.minor, formX_instr, lenOkX_never, hf.len, hf.fields, allow, he, hne, hne1]

theorem vrseed_reads (vd va h : Nat) : Reads (.vrseed vd va h) := by
  refine encV_reads (fun _ => decodeFrame_Cvt) (by decide) rfl fun hw => ?_
  simp only [Instr.wf, Bool.and_eq_true, decide_eq_true_eq] at hw
  obtain ⟨⟨⟨⟨hvd, hva⟩, hh⟩, hea⟩, hed⟩ := hw
  refine ⟨⟨by decide, hvd, hva, vecZero_vb, by decide, by decide, by decide, hh⟩, fun f hf => ?_⟩
  simp [decodeCvt, hf.minor, formX_instr, lenOkX_never, hf.len, hf.fields, allow, hea, hed]

theorem vpack_reads (vd va : Nat) (b : VOp) (t ts : Ty) (hi : Bool) (m : Rm) (h : Nat) :
    Reads (.vpack vd va b t ts hi m h) := by
  refine encV_reads (fun _ => decodeFrame_Cvt) (by decide) rfl fun hw => ?_
  simp only [Instr.wf, Bool.and_eq_true, decide_eq_true_eq] at hw
  obtain ⟨⟨⟨⟨⟨⟨hvd, hva⟩, hb⟩, hh⟩, hp⟩, hs⟩, hr⟩ := hw
  have hts := ts.code_lt16
  have h1 := hi.toNat_lt
  refine ⟨⟨by decide, hvd, hva, VOp.vb_lt hb, by omega, t.code_lt16, m.code_lt8, hh⟩, fun f hf => ?_⟩
  have h0 : (16 * hi.toNat + ts.code) / 32 = 0 ∧ (16 * hi.toNat + ts.code) / 16 = hi.toNat ∧
    (16 * hi.toNat + ts.code) % 16 = ts.code := by omega
  have hwide : (hi.toNat == 0 || !packWide t) = true ∧ (packWide t || packNarrow t) = true := by
    cases hi <;> cases t <;> simp_all [packWide, packNarrow]
  simpa [decodeCvt, hf.minor, formX_instr, lenOkX_never, hf.len, hf.fields, VFields.with_bZero hb, VFields.with_b hb,
    allow_some, h0, hs, and_assoc] using And.intro hwide.1 (And.intro hwide.2 hr)

theorem vunpk_reads (vd va k : Nat) (t ts : Ty) (h : Nat) : Reads (.vunpk vd va k t ts h) := by
  refine encV_reads (fun _ => decodeFrame_Cvt) (by decide) rfl fun hw => ?_
  simp only [Instr.wf, Bool.and_eq_true, decide_eq_true_eq] at hw
  obtain ⟨⟨⟨⟨hvd, hva⟩, hh⟩, hk⟩, hok⟩ := hw
  have hts := ts.code_lt16
  refine ⟨⟨by decide, hvd, hva, vecZero_vb, by omega, t.code_lt16, by decide, hh⟩, fun f hf => ?_⟩
  have h0 : (16 * k + ts.code) / 64 = 0 ∧ (16 * k + ts.code) / 16 % 4 = k ∧ (16 * k + ts.code) % 16 = ts.code := by omega
  simp [decodeCvt, hf.minor, formX_instr, lenOkX_never, hf.len, hf.fields, allow, h0, hok]

end Sys2Proof
end

section
/-!
PROOF. Format L (R42, R187, R194): the fields of a frame, its address and order, and the forms in both directions.
-/

namespace Sys2Proof

open Machine

variable {f : Frame} {i : Instr} {mn vd ty m3 vc h : Nat} {a : Addr} {du : Bool} {o : Sync} {t : Ty}

/-- The fields of a frame of format L with this address and order. -/
@[simps] def LFields.with (vd : Nat) (a : Addr) (du : Bool) (ty m3 vc : Nat) (o : Sync) (h : Nat) : LFields :=
  ⟨vd, a.base, a.scalar, du, a.off.field 16, ty, m3, 0, vc, o.ord.code, o.scope.code, o.crit, 0, h⟩

/-- The frame is one of format L with these fields. -/
structure Frame.IsL (f : Frame) (mn vd : Nat) (a : Addr) (du : Bool) (ty m3 vc : Nat) (o : Sync) (h : Nat) : Prop where
  len : lenOkX .may f = true
  minor : field f.w0 27 5 = mn
  fields : lFields f = .with vd a du ty m3 vc o h
  addr : (LFields.with vd a du ty m3 vc o h).addr f = a
  zero : (LFields.with vd a du ty m3 vc o h).zero f = true

/-- A plain access has scope code 0 and is not critical (R194). -/
def PlainOk (o : Sync) : Prop := o.ord = .plain → o.scope = .lane ∧ o.crit = false

theorem PlainOk.code (ho : PlainOk o) (h0 : o.ord.code = 0) : o.scope.code = 0 ∧ o.crit = false := by
  obtain ⟨ord, scope, crit⟩ := o
  cases ord <;> simp_all [PlainOk, MemOrd.code, Scope.code]

theorem LFields.zero_iff {l : LFields} : l.zero f = true ↔ l.bit8 = 0 ∧ l.rest = 0 ∧ (l.bsc = true → l.base < 64) ∧
    litZero l.off f = true ∧ (l.ord = 0 → l.scope = 0 ∧ l.crit = false) := by
  simp [LFields.zero, and_assoc, imp_iff_not_or]

theorem syncOk_iff {p : MemOrd → Bool} : syncOk p o = true ↔ p o.ord = true ∧ PlainOk o := by
  obtain ⟨ord, scope, crit⟩ := o
  cases ord <;> simp [syncOk, PlainOk]

theorem addrOk_iff : addrOk a = true ↔ (a.base < 256 ∧ (a.scalar = true → a.base < 64)) ∧ offOk 16 a.off = true := by
  obtain ⟨s, b, off⟩ := a
  cases s <;> simp [addrOk]
  omega

theorem encL_reads (he : encodeFrame i = some (encL mn vd a du ty m3 vc o h))
    (hw : i.wf = true → (mn < 32 ∧ vd < 256 ∧ addrOk a = true ∧ ty < 16 ∧ m3 < 8 ∧ vc < 256 ∧ PlainOk o ∧ h < 256) ∧
      ∀ f, f.IsL mn vd a du ty m3 vc o h → decodeL f = .instr i) : Reads i := by
  refine .of_frame he fun hwf => ?_
  obtain ⟨⟨hmn, hvd, ha, hty, hm3, hvc, ho, hh⟩, hd⟩ := hw hwf
  obtain ⟨⟨hbase, hsc⟩, hoff⟩ := addrOk_iff.1 ha
  have hoff16 := a.off.field_lt (n := 16)
  have hl := a.off.lit?.isSome.toNat_lt
  have hs := a.scalar.toNat_lt
  have hdu := du.toNat_lt
  have hord := o.ord.code_lt
  have hscope := o.scope.code_lt
  have hcrit := o.crit.toNat_lt
  refine ⟨⟨?_, ?_, ?_⟩, ?_⟩
  · simp only [encL]; omega
  · show a.off.lit?.isSome = decide (2 ≤ 1 + 2 * a.off.lit?.isSome.toNat)
    cases a.off.lit?.isSome <;> rfl
  · simp only [encL]; omega
  have hm : field (encL mn vd a du ty m3 vc o h).w0 2 7 = 0x58 := by simp only [encL, field]; omega
  simp only [decodeFrame, hm]
  have hlit : (encL mn vd a du ty m3 vc o h).lit = a.off.lit? := rfl
  refine hd _ ⟨?_, ?_, ?_, ?_, ?_⟩
  · simp only [lenOkX, encL]; cases a.off.lit? <;> rfl
  · simp only [encL, field]; omega
  · have h10 : field (encL mn vd a du ty m3 vc o h).w0 10 1 = a.scalar.toNat := by simp only [encL, field]; omega
    have h9 : field (encL mn vd a du ty m3 vc o h).w0 9 1 = du.toNat := by simp only [encL, field]; omega
    have h18 : field (encL mn vd a du ty m3 vc o h).e2 18 1 = o.crit.toNat := by simp only [encL, field]; omega
    simp only [lFields, h10, h9, h18, toNat_beq_one, LFields.with, LFields.mk.injEq]
    simp only [encL, field, hintX]
    refine ⟨?_, ?_, trivial, trivial, ?_, ?_, ?_, ?_, ?_, ?_, ?_, trivial, ?_, ?_⟩ <;> omega
  · simp [LFields.addr, offOf_field (by decide) hoff hlit]
  · exact LFields.zero_iff.2 ⟨rfl, rfl, hsc, litZero_field hlit, ho.code⟩

theorem LFields.with_ty {p : Ty → Bool} {rs : List Nat} (hp : p t = true) (he : evens t rs = true) :
    (LFields.with vd a du t.code m3 vc o h).ty p rs = some t := by
  simp only [evens] at he
  simp only [LFields.ty, LFields.with_tyCode, Ty.ofCode_code, Option.bind_some, allow_some, Bool.and_eq_true]
  exact ⟨⟨hp, he⟩, trivial⟩

theorem LFields.with_sync {p : MemOrd → Bool} (hp : p o.ord = true) :
    (LFields.with vd a du ty m3 vc o h).sync p = some o := by
  simp [LFields.sync, allow, hp]

/-! ## Frames back to encodings -/

theorem LFields.ty_some {l : LFields} {p : Ty → Bool} {rs : List Nat} (ht : l.ty p rs = some t) :
    l.tyCode = t.code ∧ p t = true ∧ evens t rs = true := by
  simp only [LFields.ty, Option.bind_eq_some_iff, allow_some, Bool.and_eq_true] at ht
  obtain ⟨t', h1, ⟨h2, h3⟩, rfl⟩ := ht
  exact ⟨(Ty.code_of h1).symm, h2, h3⟩

/-- The order fields of l are those of o. -/
structure LFields.HasSync (l : LFields) (o : Sync) : Prop where
  ord : l.ord = o.ord.code
  scope : l.scope = o.scope.code
  crit : l.crit = o.crit

theorem lFields_sync {p : MemOrd → Bool} (ho : (lFields f).sync p = some o) :
    (lFields f).HasSync o ∧ p o.ord = true := by
  have h4 : (lFields f).ord < 4 := field_lt ..
  simp only [LFields.sync, Option.bind_eq_some_iff, allow_some] at ho
  obtain ⟨c, hc, hp, rfl⟩ := ho
  exact ⟨⟨(MemOrd.code_of h4).symm, (Scope.code_of hc).symm, rfl⟩, hp⟩

/-- A form that takes no order has the fields of a plain access. -/
theorem LFields.hasSync_plain {l : LFields} (hz : l.zero f = true) (ho : l.ord = 0) : l.HasSync ⟨.plain, .lane, false⟩ := by
  obtain ⟨-, -, -, -, hp⟩ := LFields.zero_iff.1 hz
  exact ⟨ho, (hp ho).1, (hp ho).2⟩

theorem LFields.plainOk {l : LFields} (hz : l.zero f = true) (ho : l.HasSync o) : PlainOk o := by
  obtain ⟨-, -, -, -, hp⟩ := LFields.zero_iff.1 hz
  intro hord
  obtain ⟨hs, hc⟩ := hp (by rw [ho.ord, hord]; rfl)
  rw [ho.scope] at hs
  exact ⟨by cases hsc : o.scope <;> simp_all [Scope.code], ho.crit ▸ hc⟩

theorem addrOk_addr (hb : f.Bounded) (hz : (lFields f).zero f = true) : addrOk ((lFields f).addr f) = true := by
  obtain ⟨-, -, hbase, -, -⟩ := LFields.zero_iff.1 hz
  exact addrOk_iff.2 ⟨⟨field8_lt .., hbase⟩, offOk_offOf hb⟩

theorem encL_of_frame (hn : f.Named) (hb : f.Bounded) (hm : field f.w0 2 7 = 0x58) (hl : lenOkX .may f = true)
    (hz : (lFields f).zero f = true) (hmn : field f.w0 27 5 = mn) (ho : (lFields f).HasSync o) :
    encL mn (lFields f).vd ((lFields f).addr f) (lFields f).du (lFields f).tyCode (lFields f).m3 (lFields f).vc o
      (lFields f).h = f := by
  obtain ⟨h8, hrest, -, hlit, -⟩ := LFields.zero_iff.1 hz
  have hoff : ((lFields f).addr f).off.field 16 = field f.e1 16 16 := field_offOf (field_lt _ _ _) hlit
  have hlit' : ((lFields f).addr f).off.lit? = f.lit := lit_offOf
  have hsc : ((lFields f).addr f).scalar.toNat = field f.w0 10 1 := toNat_field1 ..
  have hdu : (lFields f).du.toNat = field f.w0 9 1 := toNat_field1 ..
  have hcrit : o.crit.toNat = field f.e2 18 1 := by rw [← ho.crit]; exact toNat_field1 ..
  rw [encL, hoff, hlit', hsc, hdu, hcrit, ← ho.ord, ← ho.scope]
  have hlen : f.len = 1 + 2 * f.lit.isSome.toNat := by
    have := hn.lit
    simp only [lenOkX, Bool.or_eq_true, beq_iff_eq] at hl
    rcases hl with hl | hl <;> rw [this, hl] <;> rfl
  have hlen0 := hn.len
  obtain ⟨len, w0, e1, e2, lit⟩ := f
  simp only [lFields, LFields.addr, field, hintX] at *
  obtain ⟨hw0, he1, he2, -⟩ := hb
  simp only [Frame.mk.injEq] at *
  refine ⟨hlen.symm, ?_, ?_, ?_, trivial⟩ <;> omega

theorem ldw_reads (vd : Nat) (a : Addr) (t : Ty) (h : Nat) : Reads (.ldw vd a t h) := by
  refine encL_reads rfl fun hw => ?_
  simp only [Instr.wf, Bool.and_eq_true, decide_eq_true_eq] at hw
  obtain ⟨⟨⟨hvd, ha⟩, hh⟩, he⟩ := hw
  refine ⟨⟨by decide, hvd, ha, t.code_lt16, by decide, by decide, fun _ => ⟨rfl, rfl⟩, hh⟩, fun f hf => ?_⟩
  simp [decodeL, hf.minor, formX_instr, hf.len, hf.fields, hf.zero, hf.addr, LFields.with_ty (p := anyTy) rfl he,
    MemOrd.code, allow]

theorem atom_reads (vd : Nat) (a : Addr) (vc : Nat) (op : Comb) (t : Ty) (o : Sync) (h : Nat) :
    Reads (.atom vd a vc op t o h) := by
  refine encL_reads rfl fun hw => ?_
  simp only [Instr.wf, Bool.and_eq_true, decide_eq_true_eq, syncOk_iff] at hw
  obtain ⟨⟨⟨⟨⟨⟨⟨hvd, ha⟩, hvc⟩, hh⟩, hty⟩, he⟩, hop⟩, hp, ho⟩ := hw
  refine ⟨⟨by decide, hvd, ha, t.code_lt16, op.code_lt8, hvc, ho, hh⟩, fun f hf => ?_⟩
  simp [decodeL, hf.minor, formX_instr, hf.len, hf.fields, hf.zero, hf.addr, LFields.with_ty hty he,
    LFields.with_sync hp, allow, hop]

theorem acas_reads (vd : Nat) (a : Addr) (vc : Nat) (t : Ty) (o : Sync) (h : Nat) : Reads (.acas vd a vc t o h) := by
  refine encL_reads rfl fun hw => ?_
  simp only [Instr.wf, Bool.and_eq_true, decide_eq_true_eq, syncOk_iff] at hw
  obtain ⟨⟨⟨⟨⟨⟨hvd, ha⟩, hvc⟩, hh⟩, hty⟩, he⟩, hp, ho⟩ := hw
  refine ⟨⟨by decide, hvd, ha, t.code_lt16, by decide, hvc, ho, hh⟩, fun f hf => ?_⟩
  simp [decodeL, hf.minor, formX_instr, hf.len, hf.fields, hf.zero, hf.addr, LFields.with_ty hty he,
    LFields.with_sync hp, allow]

theorem lFields_vd_lt (f : Frame) : (lFields f).vd < 256 := field8_lt ..
theorem lFields_vc_lt (f : Frame) : (lFields f).vc < 256 := field8_lt ..
theorem lFields_h_lt (f : Frame) : (lFields f).h < 256 := Nat.mod_lt _ (by decide)

theorem decodeL_denotes (hn : f.Named) (hb : f.Bounded) (hm : field f.w0 2 7 = 0x58) (hd : decodeL f = .instr i) :
    Denotes f i := by
  simp only [decodeL] at hd
  split at hd
  case h_1 hmn | h_2 hmn =>
    obtain ⟨hl, hz, hi⟩ := formX_instr.1 hd
    simp only [Option.bind_eq_some_iff, allow_some, Bool.and_eq_true, beq_iff_eq] at hz hi
    obtain ⟨t, ht, o, ho, ⟨hdu, hm3⟩, rfl⟩ := hi
    obtain ⟨hz, hvc⟩ := hz
    obtain ⟨hty, -, he⟩ := LFields.ty_some ht
    obtain ⟨hs, hp⟩ := lFields_sync ho
    have hf := encL_of_frame hn hb hm hl hz hmn hs
    rw [hvc, hty, hm3] at hf
    exact ⟨by simp [Instr.wf, syncOk_iff, lFields_vd_lt, lFields_h_lt, addrOk_addr hb hz, he, hdu, hp, LFields.plainOk hz hs],
      congrArg some hf⟩
  case h_3 hmn | h_4 hmn =>
    obtain ⟨hl, hz, hi⟩ := formX_instr.1 hd
    simp only [Option.bind_eq_some_iff, allow_some, Bool.and_eq_true, beq_iff_eq, decide_eq_true_eq] at hz hi
    obtain ⟨t, ht, ⟨⟨⟨⟨hdu, hm3⟩, hsc⟩, h1⟩, h32⟩, rfl⟩ := hi
    obtain ⟨hz, hord⟩ := hz
    obtain ⟨hty, hp, -⟩ := LFields.ty_some ht
    have hf := encL_of_frame hn hb hm hl hz hmn (LFields.hasSync_plain hz hord)
    rw [hty, hm3] at hf
    have hsc : ((lFields f).addr f).scalar = true := hsc
    exact ⟨by simp [Instr.wf, lFields_vd_lt, lFields_h_lt, addrOk_addr hb hz, hp, hdu, hsc, h1, h32], congrArg some hf⟩
  case h_5 hmn =>
    obtain ⟨hl, hz, hi⟩ := formX_instr.1 hd
    simp only [Option.bind_eq_some_iff, allow_some, Bool.and_eq_true, beq_iff_eq, Bool.not_eq_true'] at hz hi
    obtain ⟨t, ht, hm3, rfl⟩ := hi
    obtain ⟨⟨⟨hz, hord⟩, hdu⟩, hvc⟩ := hz
    obtain ⟨hty, -, he⟩ := LFields.ty_some ht
    have hf := encL_of_frame hn hb hm hl hz hmn (LFields.hasSync_plain hz hord)
    rw [hdu, hvc, hty, hm3] at hf
    exact ⟨by simp [Instr.wf, lFields_vd_lt, lFields_h_lt, addrOk_addr hb hz, he], congrArg some hf⟩
  case h_6 hmn | h_7 hmn =>
    obtain ⟨hl, hz, hi⟩ := formX_instr.1 hd
    simp only [Option.bind_eq_some_iff, allow_some, Bool.and_eq_true, beq_iff_eq, Bool.not_eq_true', decide_eq_true_eq] at hz hi
    obtain ⟨t, ht, o, ho, ⟨hm3, hsc⟩, rfl⟩ := hi
    obtain ⟨⟨⟨hz, hdu⟩, hvc⟩, hvd⟩ := hz
    obtain ⟨hty, -, -⟩ := LFields.ty_some ht
    obtain ⟨hs, hp⟩ := lFields_sync ho
    have hf := encL_of_frame hn hb hm hl hz hmn hs
    rw [hdu, hvc, hty, hm3] at hf
    have hsc : ((lFields f).addr f).scalar = true := hsc
    exact ⟨by simp [Instr.wf, syncOk_iff, hvd, lFields_h_lt, addrOk_addr hb hz, hsc, hp, LFields.plainOk hz hs],
      congrArg some hf⟩
  case h_8 hmn =>
    obtain ⟨hl, hz, hi⟩ := formX_instr.1 hd
    simp only [Option.bind_eq_some_iff, allow_some, Bool.and_eq_true, Bool.not_eq_true'] at hz hi
    obtain ⟨t, ht, op, hop, o, ho, hok, rfl⟩ := hi
    obtain ⟨hz, hdu⟩ := hz
    obtain ⟨hty, hat, he⟩ := LFields.ty_some ht
    obtain ⟨hs, hp⟩ := lFields_sync ho
    have hf := encL_of_frame hn hb hm hl hz hmn hs
    rw [hdu, hty, ← Comb.code_of hop] at hf
    exact ⟨by simp [Instr.wf, syncOk_iff, lFields_vd_lt, lFields_vc_lt, lFields_h_lt, addrOk_addr hb hz, hat, he, hok, hp,
      LFields.plainOk hz hs], congrArg some hf⟩
  case h_9 hmn =>
    obtain ⟨hl, hz, hi⟩ := formX_instr.1 hd
    simp only [Option.bind_eq_some_iff, allow_some, Bool.and_eq_true, beq_iff_eq, Bool.not_eq_true'] at hz hi
    obtain ⟨t, ht, o, ho, hm3, rfl⟩ := hi
    obtain ⟨hz, hdu⟩ := hz
    obtain ⟨hty, hat, he⟩ := LFields.ty_some ht
    obtain ⟨hs, hp⟩ := lFields_sync ho
    have hf := encL_of_frame hn hb hm hl hz hmn hs
    rw [hdu, hty, hm3] at hf
    exact ⟨by simp [Instr.wf, syncOk_iff, lFields_vd_lt, lFields_vc_lt, lFields_h_lt, addrOk_addr hb hz, hat, he, hp,
      LFields.plainOk hz hs], congrArg some hf⟩
  case h_10 => cases hd

end Sys2Proof
end

section
/-!
PROOF. Format E (R42, R49, R210 to R213): the fields of a frame and the forms, in both directions.
-/

namespace Sys2Proof

open Machine

variable {f : Frame} {i : Instr} {mn vd va o sa w ty op imm h : Nat} {bk : BarOp} {crit : Bool} {t : Ty} {e : EFields}

/-! ## 32-bit offsets -/

theorem off32_iff {k : Int} : off32 k = true ↔ -(2 ^ (32 - 1) : Int) ≤ k ∧ k < 2 ^ (32 - 1) := by
  simp [off32]

theorem signedOf_off32 {k : Int} (hk : off32 k = true) : signedOf 32 (patternOf 32 k) = k :=
  signedOf_patternOf (by decide) (off32_iff.1 hk).1 (off32_iff.1 hk).2

theorem off32_signedOf (x : Nat) : off32 (signedOf 32 x) = true := off32_iff.2 (signedOf_bounds x)

/-! ## Frames of format E -/

/-- The frame is one of format E with these fields. -/
structure Frame.IsE (f : Frame) (mn : Nat) (e : EFields) : Prop where
  len : f.len = 1
  minor : field f.w0 27 5 = mn
  fields : eFields f = e

theorem encE_reads (he : encodeFrame i = some (encE mn vd va o sa bk w ty op crit imm h))
    (hw : i.wf = true →
      (mn < 32 ∧ vd < 256 ∧ va < 256 ∧ o < 4 ∧ sa < 64 ∧ bk.bar < 32 ∧ w < 8 ∧ ty < 16 ∧ op < 16 ∧ h < 256) ∧
      ∀ f, f.IsE mn ⟨vd, va, o, sa, bk.bar, bk.be, w, ty, op, crit, imm, h⟩ → decodeE f = .instr i) : Reads i := by
  refine .of_frame he fun hwf => ?_
  obtain ⟨⟨hmn, hvd, hva, ho, hsa, hbar, hwin, hty, hop, hh⟩, hd⟩ := hw hwf
  have hbe := bk.be.toNat_lt
  have hcr := crit.toNat_lt
  refine ⟨⟨?_, rfl, by simp [encE]⟩, ?_⟩
  · simp only [encE]; omega
  have hm : field (encE mn vd va o sa bk w ty op crit imm h).w0 2 7 = 0x60 := by simp only [encE, field]; omega
  simp only [decodeFrame, hm]
  refine hd _ ⟨rfl, by simp only [encE, field]; omega, ?_⟩
  have h20 : field (encE mn vd va o sa bk w ty op crit imm h).e1 20 1 = bk.be.toNat := by simp only [encE, field]; omega
  have h8 : field (encE mn vd va o sa bk w ty op crit imm h).e1 8 1 = crit.toNat := by simp only [encE, field]; omega
  simp only [eFields, h20, h8, toNat_beq_one, EFields.mk.injEq]
  simp only [encE, field, hintX]
  refine ⟨?_, ?_, ?_, ?_, ?_, trivial, ?_, ?_, ?_, trivial, trivial, ?_⟩ <;> omega

theorem encE_of_frame (hn : f.Named) (hb : f.Bounded) (hm : field f.w0 2 7 = 0x60) (hlen : f.len = 1) :
    encE (field f.w0 27 5) (eFields f).vd (eFields f).va (eFields f).ord (eFields f).sa ⟨(eFields f).be, (eFields f).bar⟩
      (eFields f).win (eFields f).tyCode (eFields f).op (eFields f).crit (eFields f).imm (eFields f).h = f := by
  have hbe : (eFields f).be.toNat = field f.e1 20 1 := toNat_field1 ..
  have hcr : (eFields f).crit.toNat = field f.e1 8 1 := toNat_field1 ..
  rw [encE, hbe, hcr]
  have hlit : f.lit = none := by have := hn.lit; rw [hlen] at this; simpa using this
  have hlen0 := hn.len
  obtain ⟨len, w0, e1, e2, lit⟩ := f
  obtain ⟨hw0, he1, -, -⟩ := hb
  simp only [eFields, field, hintX, Frame.mk.injEq] at *
  refine ⟨hlen.symm, ?_, ?_, trivial, hlit.symm⟩ <;> omega

theorem EFields.ty_of {p : Ty → Bool} {rs : List Nat} (hty : e.tyCode = t.code) (hp : p t = true) (he : evens t rs = true) :
    e.ty p rs = some t := by
  simp only [evens] at he
  simp only [EFields.ty, hty, Ty.ofCode_code, Option.bind_some, allow_some, Bool.and_eq_true]
  exact ⟨⟨hp, he⟩, trivial⟩

theorem EFields.ty_some {p : Ty → Bool} {rs : List Nat} (ht : e.ty p rs = some t) :
    e.tyCode = t.code ∧ p t = true ∧ evens t rs = true := by
  simp only [EFields.ty, Option.bind_eq_some_iff, allow_some, Bool.and_eq_true] at ht
  obtain ⟨t', h1, ⟨h2, h3⟩, rfl⟩ := ht
  exact ⟨(Ty.code_of h1).symm, h2, h3⟩

theorem cpy_reads (sa : Nat) (bk : BarOp) (h : Nat) : Reads (.cpy sa bk h) := by
  refine encE_reads rfl fun hw => ?_
  simp only [Instr.wf, Bool.and_eq_true, decide_eq_true_eq] at hw
  obtain ⟨⟨hsa, hbar⟩, hh⟩ := hw
  refine ⟨⟨by decide, by decide, by decide, by decide, hsa, hbar, by decide, by decide, by decide, hh⟩, fun f hf => ?_⟩
  simp [decodeE, hf.minor, formX_instr, lenOkX_never, hf.len, hf.fields]

theorem coll_reads (k : CollKind) (op : CollOp) (t : Ty) (sa bar group h : Nat) : Reads (.coll k op t sa bar group h) := by
  refine encE_reads rfl fun hw => ?_
  simp only [Instr.wf, Bool.and_eq_true, decide_eq_true_eq] at hw
  obtain ⟨⟨⟨⟨⟨hsa, hbar⟩, hh⟩, hty⟩, hg⟩, hk⟩ := hw
  have hk4 := k.code_lt
  have hop := op.code_lt
  refine ⟨⟨by decide, by decide, by decide, by decide, hsa, hbar, by decide, t.code_lt16, by omega, hh⟩, fun f hf => ?_⟩
  have h0 : group / 65536 = 0 ∧ (4 * k.code + op.code) / 4 = k.code ∧ (4 * k.code + op.code) % 4 = op.code := by omega
  have hkind : k.code ≤ 1 ∨ op.code = 0 := by cases k <;> cases op <;> simp_all [CollKind.code, CollOp.code]
  simpa [decodeE, hf.minor, formX_instr, lenOkX_never, hf.len, hf.fields, allow_some, h0, hkind] using hty

/-! ## The shapes of the decoder -/

section Shapes

variable {off : Int} {c : Comb}

theorem lane_reads {mk : Nat → Nat → Nat → Int → Ty → Nat → Instr} (hmn : mn < 32)
    (he : encodeFrame (mk vd va w off t h) =
      some (encE mn vd va 0 0 ⟨false, 0⟩ w t.code 0 false (patternOf 32 off) h))
    (hd : ∀ f, field f.w0 27 5 = mn → decodeE f = eLane f fun e o t => mk e.vd e.va e.win o t e.h)
    (hw : (mk vd va w off t h).wf = true →
      vd < 256 ∧ va < 256 ∧ w < 8 ∧ off32 off = true ∧ h < 256 ∧ evens t [vd] = true) : Reads (mk vd va w off t h) := by
  refine encE_reads he fun hwf => ?_
  obtain ⟨hvd, hva, hw, hoff, hh, hev⟩ := hw hwf
  refine ⟨⟨hmn, hvd, hva, by decide, by decide, by decide, hw, t.code_lt16, by decide, hh⟩, fun f hf => ?_⟩
  have hty : (eFields f).ty anyTy [(eFields f).vd] = some t := EFields.ty_of (by rw [hf.fields]) rfl (by rwa [hf.fields])
  rw [hf.fields] at hty
  simp [hd f hf.minor, eLane, formX, lenOkX_never, hf.len, hf.fields, hty, signedOf_off32 hoff]

theorem Frame.IsE.atom {mk : EFields → Int → Comb → Ty → Instr} {e : EFields} {x : Bool} (hf : f.IsE mn e)
    (he : e = ⟨vd, va, o, 0, 0, false, w, t.code, c.code, crit, patternOf 32 off, h⟩) (hoff : off32 off = true)
    (hat : t.isAtomic = true) (hev : evens t [vd] = true) (hok : atomOk c t = true) (hx : (x || c != .xchg) = true) :
    eAtom f x mk = .instr (mk e off c t) := by
  have hty : e.ty Ty.isAtomic [e.vd] = some t := EFields.ty_of (by rw [he]) hat (by rwa [he])
  have hc := c.code_lt
  have h0 : c.code / 8 = 0 ∧ c.code % 8 = c.code := by omega
  subst he
  simpa [eAtom, formX_instr, lenOkX_never, hf.len, hf.fields, hty, h0, allow_some, hok, signedOf_off32 hoff] using hx

theorem tex_reads {mk : Nat → Nat → Nat → Bool → Nat → Instr} {l0 : Bool} (hmn : mn < 32)
    (he : encodeFrame (mk vd va sa l0 h) = some (encE mn vd va 0 sa ⟨false, 0⟩ 0 0 l0.toNat false 0 h))
    (hd : ∀ f, field f.w0 27 5 = mn → decodeE f = eTex f fun e l0 => mk e.vd e.va e.sa l0 e.h)
    (hw : (mk vd va sa l0 h).wf = true → vd < 256 ∧ va < 256 ∧ sa < 64 ∧ h < 256) : Reads (mk vd va sa l0 h) := by
  refine encE_reads he fun hwf => ?_
  obtain ⟨hvd, hva, hsa, hh⟩ := hw hwf
  have hl0 := l0.toNat_lt
  refine ⟨⟨hmn, hvd, hva, by decide, hsa, by decide, by decide, by decide, by omega, hh⟩, fun f hf => ?_⟩
  rw [hd f hf.minor]
  cases l0 <;> simp [eTex, formX, lenOkX_never, hf.len, hf.fields, allow]

theorem ray_reads {mk : Nat → Nat → Nat → BarOp → Nat → Instr} (hmn : mn < 32)
    (he : encodeFrame (mk vd va sa bk h) = some (encE mn vd va 0 sa bk 0 0 0 false 0 h))
    (hd : ∀ f, field f.w0 27 5 = mn → decodeE f = eRay f fun e => mk e.vd e.va e.sa ⟨e.be, e.bar⟩ e.h)
    (hw : (mk vd va sa bk h).wf = true → vd < 256 ∧ va < 256 ∧ sa < 64 ∧ bk.bar < 32 ∧ h < 256) :
    Reads (mk vd va sa bk h) := by
  refine encE_reads he fun hwf => ?_
  obtain ⟨hvd, hva, hsa, hbar, hh⟩ := hw hwf
  refine ⟨⟨hmn, hvd, hva, by decide, hsa, hbar, by decide, by decide, by decide, hh⟩, fun f hf => ?_⟩
  simp [hd f hf.minor, eRay, formX, lenOkX_never, hf.len, hf.fields, allow]

theorem eLane_instr {mk : EFields → Int → Ty → Instr} (hn : f.Named) (hb : f.Bounded) (hm : field f.w0 2 7 = 0x60)
    (hd : eLane f mk = .instr i) :
    ∃ t, encE (field f.w0 27 5) (eFields f).vd (eFields f).va 0 0 ⟨false, 0⟩ (eFields f).win t.code 0 false (eFields f).imm
        (eFields f).h = f ∧
      evens t [(eFields f).vd] = true ∧ i = mk (eFields f) (signedOf 32 (eFields f).imm) t := by
  obtain ⟨hl, hz, hi⟩ := formX_instr.1 hd
  simp only [Option.map_eq_some_iff, Bool.and_eq_true, beq_iff_eq, Bool.not_eq_true'] at hz hi
  obtain ⟨t, ht, rfl⟩ := hi
  obtain ⟨⟨⟨⟨⟨hsa, hbar⟩, hbe⟩, hop⟩, hord⟩, hcrit⟩ := hz
  obtain ⟨hty, -, he⟩ := EFields.ty_some ht
  have hf := encE_of_frame hn hb hm (lenOkX_never.1 hl)
  rw [hsa, hbar, hbe, hop, hord, hcrit, hty] at hf
  exact ⟨t, hf, he, rfl⟩

theorem eAtom_instr {mk : EFields → Int → Comb → Ty → Instr} {x : Bool} (hn : f.Named) (hb : f.Bounded)
    (hm : field f.w0 2 7 = 0x60) (hd : eAtom f x mk = .instr i) :
    ∃ t c, encE (field f.w0 27 5) (eFields f).vd (eFields f).va (eFields f).ord 0 ⟨false, 0⟩ (eFields f).win t.code c.code
        (eFields f).crit (eFields f).imm (eFields f).h = f ∧
      t.isAtomic = true ∧ evens t [(eFields f).vd] = true ∧ atomOk c t = true ∧ (x || c != .xchg) = true ∧
      i = mk (eFields f) (signedOf 32 (eFields f).imm) c t := by
  obtain ⟨hl, hz, hi⟩ := formX_instr.1 hd
  simp only [Option.bind_eq_some_iff, allow_some, Bool.and_eq_true, beq_iff_eq, Bool.not_eq_true'] at hz hi
  obtain ⟨t, ht, c, hc, ⟨hok, hx⟩, rfl⟩ := hi
  obtain ⟨⟨⟨hsa, hbar⟩, hbe⟩, hop⟩ := hz
  obtain ⟨hty, hat, he⟩ := EFields.ty_some ht
  have hop8 : (eFields f).op % 8 = (eFields f).op := by omega
  rw [hop8] at hc
  have hf := encE_of_frame hn hb hm (lenOkX_never.1 hl)
  rw [hsa, hbar, hbe, ← Comb.code_of hc, hty] at hf
  exact ⟨t, c, hf, hat, he, hok, hx, rfl⟩

theorem eTex_instr {mk : EFields → Bool → Instr} (hn : f.Named) (hb : f.Bounded) (hm : field f.w0 2 7 = 0x60)
    (hd : eTex f mk = .instr i) :
    ∃ l0 : Bool, encE (field f.w0 27 5) (eFields f).vd (eFields f).va 0 (eFields f).sa ⟨false, 0⟩ 0 0 l0.toNat false 0
        (eFields f).h = f ∧ i = mk (eFields f) l0 := by
  obtain ⟨hl, hz, hi⟩ := formX_instr.1 hd
  simp only [allow_some, Bool.and_eq_true, beq_iff_eq, Bool.not_eq_true', decide_eq_true_eq] at hz hi
  obtain ⟨⟨hty, hop2⟩, rfl⟩ := hi
  obtain ⟨⟨⟨⟨⟨⟨hbar, hbe⟩, hwin⟩, hop⟩, hord⟩, hcrit⟩, himm⟩ := hz
  have hl0 : ((eFields f).op % 4 == 1).toNat = (eFields f).op := by
    have h4 : (eFields f).op % 4 = (eFields f).op := by omega
    rw [h4] at hop2 ⊢
    interval_cases (eFields f).op <;> rfl
  have hf := encE_of_frame hn hb hm (lenOkX_never.1 hl)
  rw [hbar, hbe, hwin, ← hl0, hord, hcrit, himm, hty] at hf
  exact ⟨_, hf, rfl⟩

theorem eRay_instr {mk : EFields → Instr} (hn : f.Named) (hb : f.Bounded) (hm : field f.w0 2 7 = 0x60)
    (hd : eRay f mk = .instr i) :
    encE (field f.w0 27 5) (eFields f).vd (eFields f).va 0 (eFields f).sa ⟨(eFields f).be, (eFields f).bar⟩ 0 0 0 false 0
      (eFields f).h = f ∧ i = mk (eFields f) := by
  obtain ⟨hl, hz, hi⟩ := formX_instr.1 hd
  simp only [allow_some, Bool.and_eq_true, beq_iff_eq, Bool.not_eq_true'] at hz hi
  obtain ⟨hty, rfl⟩ := hi
  obtain ⟨⟨⟨⟨hwin, hop⟩, hord⟩, hcrit⟩, himm⟩ := hz
  have hf := encE_of_frame hn hb hm (lenOkX_never.1 hl)
  rw [hwin, hop, hord, hcrit, himm, hty] at hf
  exact ⟨hf, rfl⟩

end Shapes

theorem red_reads (vd va w : Nat) (off : Int) (op : Comb) (t : Ty) (ord : MemOrd) (crit : Bool) (h : Nat) :
    Reads (.red vd va w off op t ord crit h) := by
  refine encE_reads rfl fun hw => ?_
  simp only [Instr.wf, Bool.and_eq_true, decide_eq_true_eq] at hw
  obtain ⟨⟨⟨⟨⟨⟨⟨⟨hvd, hva⟩, hw⟩, hoff⟩, hh⟩, hat⟩, he⟩, hok⟩, hx⟩ := hw
  have hop := op.code_lt
  refine ⟨⟨by decide, hvd, hva, ord.code_lt, by decide, by decide, hw, t.code_lt16, by omega, hh⟩, fun f hf => ?_⟩
  simp only [decodeE, hf.minor]
  rw [hf.atom (x := false) rfl hoff hat he hok hx, MemOrd.ofCode_code]

theorem amg_reads (vd va w : Nat) (off : Int) (op : Comb) (t : Ty) (ord : MemOrd) (crit : Bool) (h : Nat) :
    Reads (.amg vd va w off op t ord crit h) := by
  refine encE_reads rfl fun hw => ?_
  simp only [Instr.wf, Bool.and_eq_true, decide_eq_true_eq] at hw
  obtain ⟨⟨⟨⟨⟨⟨⟨hvd, hva⟩, hw⟩, hoff⟩, hh⟩, hat⟩, he⟩, hok⟩ := hw
  have hop := op.code_lt
  refine ⟨⟨by decide, hvd, hva, ord.code_lt, by decide, by decide, hw, t.code_lt16, by omega, hh⟩, fun f hf => ?_⟩
  simp only [decodeE, hf.minor]
  rw [hf.atom rfl hoff hat he hok rfl, MemOrd.ofCode_code]

theorem eFields_vd_lt (f : Frame) : (eFields f).vd < 256 := field8_lt ..
theorem eFields_va_lt (f : Frame) : (eFields f).va < 256 := field8_lt ..
theorem eFields_sa_lt (f : Frame) : (eFields f).sa < 64 := field6_lt ..
theorem eFields_bar_lt (f : Frame) : (eFields f).bar < 32 := field5_lt ..
theorem eFields_win_lt (f : Frame) : (eFields f).win < 8 := field3_lt ..
theorem eFields_h_lt (f : Frame) : (eFields f).h < 256 := Nat.mod_lt _ (by decide)
theorem eFields_imm (hb : f.Bounded) : patternOf 32 (signedOf 32 (eFields f).imm) = (eFields f).imm := patternOf_signedOf hb.e2

theorem decodeE_denotes (hn : f.Named) (hb : f.Bounded) (hm : field f.w0 2 7 = 0x60) (hd : decodeE f = .instr i) :
    Denotes f i := by
  have ho4 : (eFields f).ord < 4 := field_lt ..
  simp only [decodeE] at hd
  split at hd
  case h_1 hmn =>
    obtain ⟨hl, hz, hi⟩ := formX_instr.1 hd
    cases hi
    simp only [Bool.and_eq_true, beq_iff_eq, Bool.not_eq_true'] at hz
    obtain ⟨⟨⟨⟨⟨⟨⟨hvd, hva⟩, hord⟩, hwin⟩, hty⟩, hop⟩, hcrit⟩, himm⟩ := hz
    have hf := encE_of_frame hn hb hm (lenOkX_never.1 hl)
    rw [hmn, hvd, hva, hord, hwin, hty, hop, hcrit, himm] at hf
    exact ⟨by simp [Instr.wf, eFields_sa_lt, eFields_bar_lt, eFields_h_lt], congrArg some hf⟩
  case h_2 hmn | h_3 hmn | h_4 hmn | h_5 hmn =>
    obtain ⟨t, hv, he, rfl⟩ := eLane_instr hn hb hm hd
    rw [hmn] at hv
    exact ⟨by simp [Instr.wf, eFields_vd_lt, eFields_va_lt, eFields_win_lt, eFields_h_lt, off32_signedOf, he],
      by rw [encodeFrame, eFields_imm hb]; exact congrArg some hv⟩
  case h_6 hmn =>
    obtain ⟨t, c, hv, hat, he, hok, hx, rfl⟩ := eAtom_instr hn hb hm hd
    rw [hmn] at hv
    exact ⟨by simpa [Instr.wf, eFields_vd_lt, eFields_va_lt, eFields_win_lt, eFields_h_lt, off32_signedOf, hat, he,
      hok] using hx,
      by rw [encodeFrame, eFields_imm hb, MemOrd.code_of ho4]; exact congrArg some hv⟩
  case h_7 hmn =>
    obtain ⟨t, c, hv, hat, he, hok, -, rfl⟩ := eAtom_instr hn hb hm hd
    rw [hmn] at hv
    exact ⟨by simp [Instr.wf, eFields_vd_lt, eFields_va_lt, eFields_win_lt, eFields_h_lt, off32_signedOf, hat, he, hok],
      by rw [encodeFrame, eFields_imm hb, MemOrd.code_of ho4]; exact congrArg some hv⟩
  case h_8 hmn | h_9 hmn =>
    obtain ⟨l0, hv, rfl⟩ := eTex_instr hn hb hm hd
    rw [hmn] at hv
    exact ⟨by simp [Instr.wf, eFields_vd_lt, eFields_va_lt, eFields_sa_lt, eFields_h_lt],
      congrArg some hv⟩
  case h_10 hmn | h_11 hmn =>
    obtain ⟨hv, rfl⟩ := eRay_instr hn hb hm hd
    rw [hmn] at hv
    exact ⟨by simp [Instr.wf, eFields_vd_lt, eFields_va_lt, eFields_sa_lt, eFields_bar_lt, eFields_h_lt],
      congrArg some hv⟩
  case h_12 hmn =>
    obtain ⟨hl, hz, hi⟩ := formX_instr.1 hd
    simp only [Option.bind_eq_some_iff, allow_some, Bool.and_eq_true, beq_iff_eq, Bool.not_eq_true', Bool.or_eq_true,
      decide_eq_true_eq] at hz hi
    obtain ⟨t, ht, c, hc, hok, rfl⟩ := hi
    obtain ⟨⟨⟨⟨⟨⟨⟨hvd, hva⟩, hord⟩, hwin⟩, hcrit⟩, hbe⟩, himm⟩, hkind⟩ := hz
    have hf := encE_of_frame hn hb hm (lenOkX_never.1 hl)
    have hop16 : (eFields f).op < 16 := field4_lt ..
    have hk4 : (eFields f).op / 4 < 4 := by omega
    have hop : 4 * (CollKind.ofCode ((eFields f).op / 4)).code + c.code = (eFields f).op := by
      rw [CollKind.code_of hk4, CollOp.code_of hc]; omega
    rw [hmn, hvd, hva, hord, hwin, hcrit, hbe, ← Ty.code_of ht, ← hop] at hf
    have himm : (eFields f).imm < 65536 := by omega
    have hk : CollKind.ofCode ((eFields f).op / 4) = .ared ∨ CollKind.ofCode ((eFields f).op / 4) = .rscat ∨ c = .sum := by
      rcases hkind with hk | hk
      · interval_cases (eFields f).op / 4 <;> simp [CollKind.ofCode]
      · rw [hk] at hc
        exact .inr (.inr (Option.some.inj hc).symm)
    exact ⟨by simpa [Instr.wf, eFields_sa_lt, eFields_bar_lt, eFields_h_lt, himm, or_assoc, hk] using hok, congrArg some hf⟩
  case h_13 => cases hd

end Sys2Proof
end

section
/-!
PROOF. Formats MX and FX (R42, R229, R261): the fields of a frame and the forms, in both directions.
-/

namespace Sys2Proof

open Machine

variable {f : Frame} {i : Instr} {mn t sa sb dir sc ty q imm h va : Nat} {bk : BarOp} {ty' : Ty}

/-! ## Format MX -/

/-- The frame is one of format MX with these fields. -/
structure Frame.IsMX (f : Frame) (mn : Nat) (m : MXFields) : Prop where
  len : f.len = 1
  minor : field f.w0 27 5 = mn
  fields : mxFields f = m

theorem encMX_reads (he : encodeFrame i = some (encMX mn t sa sb dir sc bk ty q imm h))
    (hw : i.wf = true → (mn < 32 ∧ t < 16 ∧ sa < 64 ∧ sb < 64 ∧ dir < 4 ∧ sc < 64 ∧ bk.bar < 32 ∧ ty < 16 ∧ q < 256 ∧
        h < 256) ∧
      ∀ f, f.IsMX mn ⟨t, sa, sb, dir, sc, bk.bar, bk.be, ty, q, imm, h⟩ → decodeMX f = .instr i) : Reads i := by
  refine .of_frame he fun hwf => ?_
  obtain ⟨⟨hmn, ht, hsa, hsb, hdir, hsc, hbar, hty, hq, hh⟩, hd⟩ := hw hwf
  have hbe := bk.be.toNat_lt
  refine ⟨⟨?_, rfl, by simp [encMX]⟩, ?_⟩
  · simp only [encMX]; omega
  have hm : field (encMX mn t sa sb dir sc bk ty q imm h).w0 2 7 = 0x6C := by simp only [encMX, field]; omega
  simp only [decodeFrame, hm]
  refine hd _ ⟨rfl, by simp only [encMX, field]; omega, ?_⟩
  have h20 : field (encMX mn t sa sb dir sc bk ty q imm h).e1 20 1 = bk.be.toNat := by simp only [encMX, field]; omega
  simp only [mxFields, h20, toNat_beq_one, MXFields.mk.injEq]
  simp only [encMX, field, hintX]
  refine ⟨?_, ?_, ?_, ?_, ?_, ?_, trivial, ?_, ?_, trivial, ?_⟩ <;> omega

theorem encMX_of_frame (hn : f.Named) (hb : f.Bounded) (hm : field f.w0 2 7 = 0x6C) (hlen : f.len = 1) :
    encMX (field f.w0 27 5) (mxFields f).t (mxFields f).sa (mxFields f).sb (mxFields f).dir (mxFields f).sc (mxFields f).bk
      (mxFields f).tyCode (mxFields f).q (mxFields f).imm (mxFields f).h = f := by
  have hbe : (mxFields f).bk.be.toNat = field f.e1 20 1 := toNat_field1 ..
  rw [encMX, hbe]
  have hlit : f.lit = none := by have := hn.lit; rw [hlen] at this; simpa using this
  have hlen0 := hn.len
  obtain ⟨len, w0, e1, e2, lit⟩ := f
  obtain ⟨hw0, he1, -, -⟩ := hb
  simp only [mxFields, MXFields.bk, field, hintX, Frame.mk.injEq] at *
  refine ⟨hlen.symm, ?_, ?_, trivial, hlit.symm⟩ <;> omega

theorem mstat_reads (ws : Bool) (src : StatSrc) (sc : Nat) (bk : BarOp) (ty : Ty) (off : Int) (h : Nat) :
    Reads (.mstat ws src sc bk ty off h) := by
  refine encMX_reads rfl fun hw => ?_
  simp only [Instr.wf, Bool.and_eq_true, decide_eq_true_eq] at hw
  obtain ⟨⟨⟨⟨⟨⟨hsc, hbar⟩, hoff⟩, hh⟩, hty⟩, hsrc⟩, hbf⟩ := hw
  have hws := ws.toNat_lt
  have hbf : sc = 0 ∨ ty.code ≠ 2 := by cases ty <;> simp_all [Ty.code]
  cases src with
  | base sa =>
    have hsa : sa < 64 := of_decide_eq_true hsrc
    have h0 : ws.toNat / 2 % 2 = 0 ∧ ws.toNat < 4 ∧ ws.toNat % 2 = ws.toNat := by omega
    refine ⟨⟨by decide, by decide, hsa, Nat.zero_lt_succ _, by decide, hsc, hbar, ty.code_lt16,
      by simp only [StatSrc.q]; omega, hh⟩, fun f hf => ?_⟩
    simpa [decodeMX, hf.minor, formX_instr, lenOkX_never, hf.len, hf.fields, StatSrc.sa, StatSrc.sb, StatSrc.q, allow_some,
      hty, MXFields.bk, signedOf_off32 hoff, h0] using hbf
  | ring r sb =>
    simp only [statOk, Bool.and_eq_true, decide_eq_true_eq] at hsrc
    have h0 : (ws.toNat + (2 + 4 * r)) / 2 % 2 = 1 ∧ (ws.toNat + (2 + 4 * r)) / 4 = r ∧
      (ws.toNat + (2 + 4 * r)) % 2 = ws.toNat := by omega
    refine ⟨⟨by decide, by decide, Nat.zero_lt_succ _, hsrc.2, by decide, hsc, hbar, ty.code_lt16,
      by simp only [StatSrc.q]; omega, hh⟩, fun f hf => ?_⟩
    simpa [decodeMX, hf.minor, formX_instr, lenOkX_never, hf.len, hf.fields, StatSrc.sa, StatSrc.sb, StatSrc.q, allow_some,
      hty, MXFields.bk, signedOf_off32 hoff, h0] using hbf

theorem mdrain_reads (t : Nat) (win : Option Nat) (sa sb : Nat) (add : Bool) (bk : BarOp) (ty : Ty) (off : Int) (h : Nat) :
    Reads (.mdrain t win sa sb add bk ty off h) := by
  refine encMX_reads rfl fun hw => ?_
  simp only [Instr.wf, Bool.and_eq_true, decide_eq_true_eq] at hw
  obtain ⟨⟨⟨⟨⟨⟨⟨⟨ht, hsa⟩, hsb⟩, hbar⟩, hoff⟩, hh⟩, hty⟩, hadd⟩, hwin⟩ := hw
  have ha := add.toNat_lt
  cases win with
  | none =>
    have h0 : add.toNat < 32 ∧ add.toNat < 4 ∧ add.toNat / 2 % 2 = 0 ∧ add.toNat % 2 = add.toNat := by omega
    refine ⟨⟨by decide, ht, hsa, hsb, by decide, by decide, hbar, ty.code_lt16, by simp only [Option.elim]; omega, hh⟩,
      fun f hf => ?_⟩
    simpa [decodeMX, hf.minor, formX_instr, lenOkX_never, hf.len, hf.fields, allow_some, hty, MXFields.bk,
      signedOf_off32 hoff, h0] using hadd
  | some w =>
    have hw : w < 8 := of_decide_eq_true hwin
    have h0 : (add.toNat + (2 + 4 * w)) / 32 = 0 ∧ (add.toNat + (2 + 4 * w)) / 4 = w ∧
      (add.toNat + (2 + 4 * w)) / 2 % 2 = 1 ∧ (add.toNat + (2 + 4 * w)) % 2 = add.toNat := by omega
    refine ⟨⟨by decide, ht, hsa, hsb, by decide, by decide, hbar, ty.code_lt16, by simp only [Option.elim]; omega, hh⟩,
      fun f hf => ?_⟩
    simpa [decodeMX, hf.minor, formX_instr, lenOkX_never, hf.len, hf.fields, allow_some, hty, MXFields.bk,
      signedOf_off32 hoff, h0] using hadd

theorem mloop_reads (t : Nat) (back : Bool) (sa sb sc : Nat) (bk : BarOp) (ty : Ty) (h : Nat) :
    Reads (.mloop t back sa sb sc bk ty h) := by
  refine encMX_reads rfl fun hw => ?_
  simp only [Instr.wf, Bool.and_eq_true, decide_eq_true_eq] at hw
  obtain ⟨⟨⟨⟨⟨⟨ht, hsa⟩, hsb⟩, hsc⟩, hbar⟩, hh⟩, hty⟩ := hw
  have hb := back.toNat_lt
  refine ⟨⟨by decide, ht, hsa, hsb, by omega, hsc, hbar, ty.code_lt16, by decide, hh⟩, fun f hf => ?_⟩
  cases back <;>
    simp [decodeMX, hf.minor, formX_instr, lenOkX_never, hf.len, hf.fields, allow_some, hty, MXFields.bk]

theorem mzero_reads (t first count : Nat) (bk : BarOp) (h : Nat) : Reads (.mzero t first count bk h) := by
  refine encMX_reads rfl fun hw => ?_
  simp only [Instr.wf, Bool.and_eq_true, decide_eq_true_eq] at hw
  obtain ⟨⟨⟨⟨⟨ht, hbar⟩, hh⟩, hfirst⟩, hpos⟩, hcount⟩ := hw
  refine ⟨⟨by decide, ht, by decide, by decide, by decide, by decide, hbar, by decide, by decide, hh⟩, fun f hf => ?_⟩
  have h0 : (first + 1024 * count) / 2097152 = 0 ∧ (first + 1024 * count) / 1024 = count ∧
    (first + 1024 * count) % 1024 = first := by omega
  simp [decodeMX, hf.minor, formX_instr, lenOkX_never, hf.len, hf.fields, allow_some, MXFields.bk, h0, hpos.ne']

theorem mbind_reads (t first count h : Nat) : Reads (.mbind t first count h) := by
  refine encMX_reads rfl fun hw => ?_
  simp only [Instr.wf, Bool.and_eq_true, decide_eq_true_eq] at hw
  obtain ⟨⟨⟨⟨ht, hh⟩, hfirst⟩, hpos⟩, hcount⟩ := hw
  refine ⟨⟨by decide, ht, by decide, by decide, by decide, by decide, by decide, by decide, by decide, hh⟩, fun f hf => ?_⟩
  have h0 : (first + 1024 * count) / 2097152 = 0 ∧ (first + 1024 * count) / 1024 = count ∧
    (first + 1024 * count) % 1024 = first := by omega
  simp [decodeMX, hf.minor, formX_instr, lenOkX_never, hf.len, hf.fields, allow_some, MXFields.noBar, h0, hpos.ne']

theorem mfree_reads (t h : Nat) : Reads (.mfree t h) := by
  refine encMX_reads rfl fun hw => ?_
  simp only [Instr.wf, Bool.and_eq_true, decide_eq_true_eq] at hw
  refine ⟨⟨by decide, hw.1, by decide, by decide, by decide, by decide, by decide, by decide, by decide, hw.2⟩, fun f hf => ?_⟩
  simp [decodeMX, hf.minor, formX_instr, lenOkX_never, hf.len, hf.fields, MXFields.noBar]

theorem mrinit_reads (ring k h : Nat) : Reads (.mrinit ring k h) := by
  refine encMX_reads rfl fun hw => ?_
  simp only [Instr.wf, Bool.and_eq_true, decide_eq_true_eq] at hw
  obtain ⟨⟨⟨hh, hring⟩, h1⟩, h8⟩ := hw
  refine ⟨⟨by decide, by decide, by decide, by decide, by decide, by decide, by decide, by decide, by omega, hh⟩, fun f hf => ?_⟩
  have h0 : k / 16 = 0 ∧ k ≠ 0 := by omega
  simp [decodeMX, hf.minor, formX_instr, lenOkX_never, hf.len, hf.fields, allow_some, MXFields.noBar, h0, h8]

theorem mrpush_reads (ring sa sb h : Nat) : Reads (.mrpush ring sa sb h) := by
  refine encMX_reads rfl fun hw => ?_
  simp only [Instr.wf, Bool.and_eq_true, decide_eq_true_eq] at hw
  obtain ⟨⟨⟨hsa, hsb⟩, hh⟩, hring⟩ := hw
  refine ⟨⟨by decide, by decide, hsa, hsb, by decide, by decide, by decide, by decide, by omega, hh⟩, fun f hf => ?_⟩
  simp [decodeMX, hf.minor, formX_instr, lenOkX_never, hf.len, hf.fields, MXFields.noBar]

theorem mrrel_reads (ring sb h : Nat) : Reads (.mrrel ring sb h) := by
  refine encMX_reads rfl fun hw => ?_
  simp only [Instr.wf, Bool.and_eq_true, decide_eq_true_eq] at hw
  obtain ⟨⟨hsb, hh⟩, hring⟩ := hw
  refine ⟨⟨by decide, by decide, by decide, hsb, by decide, by decide, by decide, by decide, by omega, hh⟩, fun f hf => ?_⟩
  simp [decodeMX, hf.minor, formX_instr, lenOkX_never, hf.len, hf.fields, MXFields.noBar]

theorem mqsr_reads (sd sel h : Nat) : Reads (.mqsr sd sel h) := by
  refine encMX_reads rfl fun hw => ?_
  simp only [Instr.wf, Bool.and_eq_true, decide_eq_true_eq] at hw
  obtain ⟨⟨hsd, hh⟩, hsel⟩ := hw
  refine ⟨⟨by decide, by decide, by decide, by decide, by decide, hsd, by decide, by decide, by omega, hh⟩, fun f hf => ?_⟩
  simp [decodeMX, hf.minor, formX_instr, lenOkX_never, hf.len, hf.fields, MXFields.noBar, hsel]

theorem mxFields_t_lt (f : Frame) : (mxFields f).t < 16 := field4_lt ..
theorem mxFields_sa_lt (f : Frame) : (mxFields f).sa < 64 := field6_lt ..
theorem mxFields_sb_lt (f : Frame) : (mxFields f).sb < 64 := field6_lt ..
theorem mxFields_sc_lt (f : Frame) : (mxFields f).sc < 64 := field6_lt ..
theorem mxFields_q_lt (f : Frame) : (mxFields f).q < 256 := field8_lt ..
theorem mxFields_bar_lt (f : Frame) : (mxFields f).bk.bar < 32 := field5_lt ..
theorem mxFields_h_lt (f : Frame) : (mxFields f).h < 256 := Nat.mod_lt _ (by decide)
theorem mxFields_imm (hb : f.Bounded) : patternOf 32 (signedOf 32 (mxFields f).imm) = (mxFields f).imm := patternOf_signedOf hb.e2

theorem MXFields.bk_of_noBar {m : MXFields} (hm : m.noBar = true) : m.bk = ⟨false, 0⟩ := by
  obtain ⟨hbar, hbe⟩ : m.bar = 0 ∧ m.be = false := by simpa [MXFields.noBar] using hm
  rw [MXFields.bk, hbar, hbe]

/-- The lowest bit of a number, and the rest. -/
theorem lowBit_toNat (q : Nat) : (q % 2 == 1).toNat = q % 2 := by
  rcases Nat.mod_two_eq_zero_or_one q with h | h <;> rw [h] <;> rfl

theorem mstat_denotes (hn : f.Named) (hb : f.Bounded) (hm : field f.w0 2 7 = 0x6C) (hmn : field f.w0 27 5 = 0)
    (hd : decodeMX f = .instr i) : Denotes f i := by
  simp only [decodeMX, hmn] at hd
  obtain ⟨hl, hz, hi⟩ := formX_instr.1 hd
  simp only [Option.bind_eq_some_iff, allow_some, Bool.and_eq_true, Bool.or_eq_true, beq_iff_eq, bne_iff_ne] at hz hi
  obtain ⟨ty, hty, hmat, rfl⟩ := hi
  obtain ⟨⟨⟨ht, hdir⟩, hsrc⟩, hsc⟩ := hz
  have hq := mxFields_q_lt f
  have hf := encMX_of_frame hn hb hm (lenOkX_never.1 hl)
  have hlow := lowBit_toNat (mxFields f).q
  have hbf : (mxFields f).sc = 0 ∨ ty ≠ .bf16 := hsc.imp_right fun h2 hty2 => h2 (by rw [← Ty.code_of hty, hty2]; rfl)
  rw [hmn, ht, hdir, ← Ty.code_of hty] at hf
  split at hsrc
  · next hv =>
    have hsa : (mxFields f).sa = 0 := by simpa using hsrc
    have hsplit : ((mxFields f).q % 2 == 1).toNat + (2 + 4 * ((mxFields f).q / 4)) = (mxFields f).q := by
      omega
    rw [hsa, ← hsplit] at hf
    rw [if_pos hv]
    exact ⟨by simpa [Instr.wf, mxFields_sc_lt, mxFields_bar_lt, mxFields_h_lt, off32_signedOf, hmat, statOk, mxFields_sb_lt,
      (by omega : (mxFields f).q / 4 < 64)] using hbf, by rw [encodeFrame, mxFields_imm hb]; exact congrArg some hf⟩
  · next hv =>
    obtain ⟨hsb, hq4⟩ : (mxFields f).sb = 0 ∧ (mxFields f).q / 4 = 0 := by simpa using hsrc
    have hsplit : ((mxFields f).q % 2 == 1).toNat + 0 = (mxFields f).q := by
      omega
    rw [hsb, ← hsplit] at hf
    rw [if_neg hv]
    exact ⟨by simpa [Instr.wf, mxFields_sc_lt, mxFields_bar_lt, mxFields_h_lt, off32_signedOf, hmat, statOk, mxFields_sa_lt]
      using hbf, by rw [encodeFrame, mxFields_imm hb]; exact congrArg some hf⟩

theorem decodeMX_denotes (hn : f.Named) (hb : f.Bounded) (hm : field f.w0 2 7 = 0x6C) (hd : decodeMX f = .instr i) :
    Denotes f i := by
  have hd0 := hd
  simp only [decodeMX] at hd
  split at hd
  case h_1 hmn => exact mstat_denotes hn hb hm hmn hd0
  case h_2 hmn =>
    obtain ⟨hl, hz, hi⟩ := formX_instr.1 hd
    simp only [Option.bind_eq_some_iff, allow_some, Bool.and_eq_true, Bool.or_eq_true, beq_iff_eq] at hz hi
    obtain ⟨ty, hty, ⟨hmat, hdir⟩, rfl⟩ := hi
    have hf := encMX_of_frame hn hb hm (lenOkX_never.1 hl)
    have hback : 1 + ((mxFields f).dir == 2).toNat = (mxFields f).dir := by rcases hdir with h | h <;> rw [h] <;> rfl
    rw [hmn, hz.1, hz.2, ← Ty.code_of hty, ← hback] at hf
    exact ⟨by simp [Instr.wf, mxFields_t_lt, mxFields_sa_lt, mxFields_sb_lt, mxFields_sc_lt, mxFields_bar_lt, mxFields_h_lt, hmat],
      congrArg some hf⟩
  case h_3 hmn =>
    obtain ⟨hl, hz, hi⟩ := formX_instr.1 hd
    simp only [allow_some, Bool.and_eq_true, beq_iff_eq, bne_iff_ne] at hz hi
    obtain ⟨hcount, rfl⟩ := hi
    obtain ⟨⟨⟨⟨⟨⟨hsa, hsb⟩, hdir⟩, hsc⟩, hty⟩, hq⟩, hhigh⟩ := hz
    have hf := encMX_of_frame hn hb hm (lenOkX_never.1 hl)
    rw [hmn, hsa, hsb, hdir, hsc, hty, hq, ← Nat.mod_add_div (mxFields f).imm 1024] at hf
    exact ⟨by simp [Instr.wf, mxFields_t_lt, mxFields_bar_lt, mxFields_h_lt]; omega, congrArg some hf⟩
  case h_4 hmn =>
    obtain ⟨hl, hz, hi⟩ := formX_instr.1 hd
    simp only [Option.bind_eq_some_iff, allow_some, Bool.and_eq_true, Bool.or_eq_true, beq_iff_eq] at hz hi
    obtain ⟨ty, hty, ⟨hfl, hadd⟩, rfl⟩ := hi
    obtain ⟨⟨⟨hdir, hsc⟩, h32⟩, hwin⟩ := hz
    have hlow := lowBit_toNat (mxFields f).q
    have hf := encMX_of_frame hn hb hm (lenOkX_never.1 hl)
    rw [hmn, hdir, hsc, ← Ty.code_of hty] at hf
    have hadd : ((mxFields f).q % 2 == 1) = false ∨ ty = .f32 ∨ ty = .bf16 := by
      rcases hadd with (h0 | h0) | h0
      · exact .inl (by rw [h0]; rfl)
      · exact .inr (.inl h0)
      · exact .inr (.inr h0)
    split
    · next hv =>
      have hsplit : ((mxFields f).q % 2 == 1).toNat + (2 + 4 * ((mxFields f).q / 4)) = (mxFields f).q := by omega
      rw [← hsplit] at hf
      exact ⟨by simpa [Instr.wf, mxFields_t_lt, mxFields_sa_lt, mxFields_sb_lt, mxFields_bar_lt, mxFields_h_lt, off32_signedOf,
        hfl, or_assoc, (by omega : (mxFields f).q / 4 < 8)] using hadd,
        by rw [encodeFrame, mxFields_imm hb]; exact congrArg some hf⟩
    · next hv =>
      have hsplit : ((mxFields f).q % 2 == 1).toNat + 0 = (mxFields f).q := by omega
      rw [← hsplit] at hf
      exact ⟨by simpa [Instr.wf, mxFields_t_lt, mxFields_sa_lt, mxFields_sb_lt, mxFields_bar_lt, mxFields_h_lt, off32_signedOf,
        hfl, or_assoc] using hadd, by rw [encodeFrame, mxFields_imm hb]; exact congrArg some hf⟩
  case h_5 hmn =>
    obtain ⟨hl, hz, hi⟩ := formX_instr.1 hd
    simp only [allow_some, Bool.and_eq_true, beq_iff_eq, bne_iff_ne] at hz hi
    obtain ⟨hcount, rfl⟩ := hi
    obtain ⟨⟨⟨⟨⟨⟨⟨hsa, hsb⟩, hdir⟩, hsc⟩, hty⟩, hq⟩, hbar⟩, hhigh⟩ := hz
    have hf := encMX_of_frame hn hb hm (lenOkX_never.1 hl)
    rw [hmn, hsa, hsb, hdir, hsc, MXFields.bk_of_noBar hbar, hty, hq, ← Nat.mod_add_div (mxFields f).imm 1024] at hf
    exact ⟨by simp [Instr.wf, mxFields_t_lt, mxFields_h_lt]; omega, congrArg some hf⟩
  case h_6 hmn =>
    obtain ⟨hl, hz, hi⟩ := formX_instr.1 hd
    cases hi
    simp only [Bool.and_eq_true, beq_iff_eq] at hz
    obtain ⟨⟨⟨⟨⟨⟨⟨hsa, hsb⟩, hdir⟩, hsc⟩, hty⟩, hq⟩, hbar⟩, himm⟩ := hz
    have hf := encMX_of_frame hn hb hm (lenOkX_never.1 hl)
    rw [hmn, hsa, hsb, hdir, hsc, MXFields.bk_of_noBar hbar, hty, hq, himm] at hf
    exact ⟨by simp [Instr.wf, mxFields_t_lt, mxFields_h_lt], congrArg some hf⟩
  case h_7 hmn =>
    obtain ⟨hl, hz, hi⟩ := formX_instr.1 hd
    simp only [allow_some, Bool.and_eq_true, beq_iff_eq, bne_iff_ne, decide_eq_true_eq] at hz hi
    obtain ⟨⟨hk0, hk8⟩, rfl⟩ := hi
    obtain ⟨⟨⟨⟨⟨⟨⟨⟨ht, hsa⟩, hsb⟩, hdir⟩, hsc⟩, hty⟩, hbar⟩, hq4⟩, himm⟩ := hz
    have hq := mxFields_q_lt f
    have hring : 4 * ((mxFields f).q / 4) = (mxFields f).q := by omega
    have hf := encMX_of_frame hn hb hm (lenOkX_never.1 hl)
    rw [hmn, ht, hsa, hsb, hdir, hsc, MXFields.bk_of_noBar hbar, hty, ← hring] at hf
    exact ⟨by simp [Instr.wf, mxFields_h_lt]; omega, congrArg some hf⟩
  case h_8 hmn =>
    obtain ⟨hl, hz, hi⟩ := formX_instr.1 hd
    cases hi
    simp only [Bool.and_eq_true, beq_iff_eq] at hz
    obtain ⟨⟨⟨⟨⟨⟨ht, hdir⟩, hsc⟩, hty⟩, hbar⟩, hq4⟩, himm⟩ := hz
    have hq := mxFields_q_lt f
    have hring : 4 * ((mxFields f).q / 4) = (mxFields f).q := by omega
    have hf := encMX_of_frame hn hb hm (lenOkX_never.1 hl)
    rw [hmn, ht, hdir, hsc, MXFields.bk_of_noBar hbar, hty, himm, ← hring] at hf
    exact ⟨by simp [Instr.wf, mxFields_sa_lt, mxFields_sb_lt, mxFields_h_lt]; omega, congrArg some hf⟩
  case h_9 hmn =>
    obtain ⟨hl, hz, hi⟩ := formX_instr.1 hd
    cases hi
    simp only [Bool.and_eq_true, beq_iff_eq] at hz
    obtain ⟨⟨⟨⟨⟨⟨⟨ht, hsa⟩, hdir⟩, hsc⟩, hty⟩, hbar⟩, hq4⟩, himm⟩ := hz
    have hq := mxFields_q_lt f
    have hring : 4 * ((mxFields f).q / 4) = (mxFields f).q := by omega
    have hf := encMX_of_frame hn hb hm (lenOkX_never.1 hl)
    rw [hmn, ht, hsa, hdir, hsc, MXFields.bk_of_noBar hbar, hty, himm, ← hring] at hf
    exact ⟨by simp [Instr.wf, mxFields_sb_lt, mxFields_h_lt]; omega, congrArg some hf⟩
  case h_10 hmn =>
    obtain ⟨hl, hz, hi⟩ := formX_instr.1 hd
    cases hi
    simp only [Bool.and_eq_true, beq_iff_eq] at hz
    obtain ⟨⟨⟨⟨⟨⟨⟨ht, hsa⟩, hsb⟩, hdir⟩, hty⟩, hbar⟩, hq4⟩, himm⟩ := hz
    have hf := encMX_of_frame hn hb hm (lenOkX_never.1 hl)
    rw [hmn, ht, hsa, hsb, hdir, MXFields.bk_of_noBar hbar, hty, himm] at hf
    exact ⟨by simp [Instr.wf, mxFields_sc_lt, mxFields_h_lt]; omega, congrArg some hf⟩
  case h_11 => cases hd

/-! ## Format FX -/

/-- The frame is one of format FX with these fields. -/
structure Frame.IsFX (f : Frame) (mn : Nat) (x : FXFields) : Prop where
  len : f.len = 1
  minor : field f.w0 27 5 = mn
  fields : fxFields f = x

theorem encFX_reads {fh : Nat} (he : encodeFrame i = some (encFX mn fh va sa q imm h))
    (hw : i.wf = true → (mn < 32 ∧ fh < 4 ∧ va < 256 ∧ sa < 64 ∧ q < 256 ∧ h < 256) ∧
      ∀ f, f.IsFX mn ⟨fh, va, sa, 0, 0, q, 0, 0, imm, h⟩ → decodeFX f = .instr i) : Reads i := by
  refine .of_frame he fun hwf => ?_
  obtain ⟨⟨hmn, hfh, hva, hsa, hq, hh⟩, hd⟩ := hw hwf
  refine ⟨⟨?_, rfl, by simp [encFX]⟩, ?_⟩
  · simp only [encFX]; omega
  have hm : field (encFX mn fh va sa q imm h).w0 2 7 = 0x74 := by simp only [encFX, field]; omega
  simp only [decodeFrame, hm]
  refine hd _ ⟨rfl, by simp only [encFX, field]; omega, ?_⟩
  simp only [fxFields, encFX, field, hintX, FXFields.mk.injEq]
  refine ⟨?_, ?_, ?_, ?_, ?_, ?_, ?_, ?_, trivial, ?_⟩ <;> omega

theorem encFX_of_frame (hn : f.Named) (hb : f.Bounded) (hm : field f.w0 2 7 = 0x74) (hlen : f.len = 1)
    (hz : (fxFields f).rest = 0 ∧ (fxFields f).vb = 0 ∧ (fxFields f).rest1 = 0) (hty : (fxFields f).tyCode = 0) :
    encFX (field f.w0 27 5) (fxFields f).f (fxFields f).va (fxFields f).sa (fxFields f).q (fxFields f).imm
      (fxFields f).h = f := by
  have hlit : f.lit = none := by have := hn.lit; rw [hlen] at this; simpa using this
  have hlen0 := hn.len
  obtain ⟨len, w0, e1, e2, lit⟩ := f
  obtain ⟨hw0, he1, -, -⟩ := hb
  simp only [encFX, fxFields, field, hintX, Frame.mk.injEq] at *
  refine ⟨hlen.symm, ?_, ?_, trivial, hlit.symm⟩ <;> omega

/-- What a form of format FX has passed: its own zero fields z, and the fields that no form has. -/
theorem formFX_instr {z : Bool} {x : Instr} (hn : f.Named) (hb : f.Bounded) (hm : field f.w0 2 7 = 0x74)
    (hd : formX .never f ((fxFields f).rest == 0 && (fxFields f).vb == 0 && (fxFields f).rest1 == 0 && z)
      (allow ((fxFields f).tyCode == 0) x) = .instr i) :
    z = true ∧ x = i ∧ encFX (field f.w0 27 5) (fxFields f).f (fxFields f).va (fxFields f).sa (fxFields f).q
      (fxFields f).imm (fxFields f).h = f := by
  obtain ⟨hl, hz, hi⟩ := formX_instr.1 hd
  simp only [allow_some, Bool.and_eq_true, beq_iff_eq] at hz hi
  obtain ⟨⟨⟨hrest, hvb⟩, hrest1⟩, hz⟩ := hz
  exact ⟨hz, hi.2, encFX_of_frame hn hb hm (lenOkX_never.1 hl) ⟨hrest, hvb, hrest1⟩ hi.1⟩

theorem finit_reads (fh slot n h : Nat) : Reads (.finit fh slot n h) := by
  refine encFX_reads rfl fun hw => ?_
  simp only [Instr.wf, Bool.and_eq_true, decide_eq_true_eq] at hw
  obtain ⟨⟨⟨hf4, hh⟩, hslot⟩, hn⟩ := hw
  refine ⟨⟨by decide, hf4, by decide, by decide, by decide, hh⟩, fun f hf => ?_⟩
  have h0 : (slot + 256 * n) / 8 % 32 = 0 ∧ (slot + 256 * n) / 65536 = 0 ∧ (slot + 256 * n) % 8 = slot ∧
    (slot + 256 * n) / 256 = n := by omega
  simp [decodeFX, hf.minor, formX_instr, lenOkX_never, hf.len, hf.fields, allow_some, h0]

theorem fsolve_reads (fh va : Nat) (tr : Bool) (h : Nat) : Reads (.fsolve fh va tr h) := by
  refine encFX_reads rfl fun hw => ?_
  simp only [Instr.wf, Bool.and_eq_true, decide_eq_true_eq] at hw
  obtain ⟨⟨hf4, hva⟩, hh⟩ := hw
  have htr := tr.toNat_lt
  refine ⟨⟨by decide, hf4, hva, by decide, by omega, hh⟩, fun f hf => ?_⟩
  simp [decodeFX, hf.minor, formX_instr, lenOkX_never, hf.len, hf.fields, allow_some, htr]

theorem flogdet_reads (fh sd h : Nat) : Reads (.flogdet fh sd h) := by
  refine encFX_reads rfl fun hw => ?_
  simp only [Instr.wf, Bool.and_eq_true, decide_eq_true_eq] at hw
  obtain ⟨⟨hf4, hsd⟩, hh⟩ := hw
  refine ⟨⟨by decide, hf4, by decide, hsd, by decide, hh⟩, fun f hf => ?_⟩
  simp [decodeFX, hf.minor, formX_instr, lenOkX_never, hf.len, hf.fields, allow_some]

theorem ffree_reads (fh h : Nat) : Reads (.ffree fh h) := by
  refine encFX_reads rfl fun hw => ?_
  simp only [Instr.wf, Bool.and_eq_true, decide_eq_true_eq] at hw
  refine ⟨⟨by decide, hw.1, by decide, by decide, by decide, hw.2⟩, fun f hf => ?_⟩
  simp [decodeFX, hf.minor, formX_instr, lenOkX_never, hf.len, hf.fields, allow_some]

theorem fxFields_f_lt (f : Frame) : (fxFields f).f < 4 := field_lt ..
theorem fxFields_va_lt (f : Frame) : (fxFields f).va < 256 := field8_lt ..
theorem fxFields_sa_lt (f : Frame) : (fxFields f).sa < 64 := field6_lt ..
theorem fxFields_h_lt (f : Frame) : (fxFields f).h < 256 := Nat.mod_lt _ (by decide)
theorem fxFields_imm (hb : f.Bounded) : patternOf 32 (signedOf 32 (fxFields f).imm) = (fxFields f).imm := patternOf_signedOf hb.e2

theorem decodeFX_denotes (hn : f.Named) (hb : f.Bounded) (hm : field f.w0 2 7 = 0x74) (hd : decodeFX f = .instr i) :
    Denotes f i := by
  simp only [decodeFX] at hd
  split at hd
  case h_1 hmn =>
    obtain ⟨hz, rfl, hf⟩ := formFX_instr hn hb hm hd
    simp only [Bool.and_eq_true, beq_iff_eq] at hz
    obtain ⟨⟨⟨⟨hva, hsa⟩, hq⟩, h32⟩, hhigh⟩ := hz
    have himm : (fxFields f).imm % 8 + 256 * ((fxFields f).imm / 256) = (fxFields f).imm := by omega
    rw [hmn, hva, hsa, hq, ← himm] at hf
    exact ⟨by simp [Instr.wf, fxFields_f_lt, fxFields_h_lt]; omega, congrArg some hf⟩
  case h_2 hmn | h_3 hmn =>
    obtain ⟨hz, rfl, hf⟩ := formFX_instr hn hb hm hd
    simp only [Bool.and_eq_true, beq_iff_eq] at hz
    rw [hmn, hz.1.1, hz.1.2, hz.2] at hf
    exact ⟨by simp [Instr.wf, fxFields_f_lt, fxFields_va_lt, fxFields_h_lt], congrArg some hf⟩
  case h_4 hmn =>
    obtain ⟨hz, rfl, hf⟩ := formFX_instr hn hb hm hd
    simp only [Bool.and_eq_true, beq_iff_eq] at hz
    have hq : ((fxFields f).q == 1).toNat = (fxFields f).q := by
      have hq2 : (fxFields f).q < 2 := by omega
      interval_cases (fxFields f).q <;> rfl
    rw [hmn, hz.1.1, ← hq, hz.2] at hf
    exact ⟨by simp [Instr.wf, fxFields_f_lt, fxFields_va_lt, fxFields_h_lt], congrArg some hf⟩
  case h_5 hmn =>
    obtain ⟨hz, rfl, hf⟩ := formFX_instr hn hb hm hd
    simp only [Bool.and_eq_true, beq_iff_eq] at hz
    rw [hmn, hz.1.1, hz.1.2, hz.2] at hf
    exact ⟨by simp [Instr.wf, fxFields_f_lt, fxFields_sa_lt, fxFields_h_lt], congrArg some hf⟩
  case h_6 hmn | h_7 hmn =>
    obtain ⟨hz, rfl, hf⟩ := formFX_instr hn hb hm hd
    simp only [Bool.and_eq_true, beq_iff_eq] at hz
    rw [hmn, hz.1, hz.2] at hf
    exact ⟨by simp [Instr.wf, fxFields_f_lt, fxFields_sa_lt, fxFields_h_lt, off32_signedOf],
      by rw [encodeFrame, fxFields_imm hb]; exact congrArg some hf⟩
  case h_8 hmn =>
    obtain ⟨hz, rfl, hf⟩ := formFX_instr hn hb hm hd
    simp only [Bool.and_eq_true, beq_iff_eq] at hz
    rw [hmn, hz.1.1.1, hz.1.1.2, hz.1.2, hz.2] at hf
    exact ⟨by simp [Instr.wf, fxFields_f_lt, fxFields_h_lt], congrArg some hf⟩
  case h_9 => cases hd

end Sys2Proof
end

section
/-!
PROOF. The round trip of the encoding: every form reads back (O1), and every frame that decodes is the encoding of the
instruction it decodes to (O2).
-/

namespace Sys2Proof

open Machine

variable {f : Frame} {i : Instr}

/-- Every form reads back, through the lemma of its format. -/
theorem reads (i : Instr) : Reads i := by
  cases i with
  | join | ret | exit | tret | yield | bri | calli | briv =>
    refine encX_reads rfl fun hw => ?_
    simp [Instr.wf] at hw
    refine ⟨by decide, by omega, by omega, by omega, by simp [hw], fun f hf => ?_⟩
    simp [decodeX, form1_instr, lenOk1, hf.minor, hf.va, hf.sa, hf.tok, hf.hint, hf.ext, hf.lit]
  | sleep c h => exact sleep_reads c h
  | br t h => exact enc1_J_reads (call := false) rfl rfl (by simp [Instr.wf]) rfl
  | call t h => exact enc1_J_reads (call := true) rfl rfl (by simp [Instr.wf]) rfl
  | bz | bnz | bltz | bgez | bgtz | blez => exact encBS_reads (by decide) rfl rfl fun f hk => by simp only [decodeBS, hk]
  | brv m t tok h | brk m t tok h =>
    refine encBM_reads (m := m) (tok := tok) (t := t) (fun f hf => by simp only [decodeFrame, hf]; rfl) (by decide) rfl
      fun hw => ?_
    simp only [Instr.wf, Bool.and_eq_true, decide_eq_true_eq] at hw
    refine ⟨by tauto, fun f hf => ?_⟩
    simp [decodeBM, form1_instr, lenOk1, allow, hf.mask, hf.tok, hf.off, hf.zero, hf.hint, hf.ext, hw]
  | ball m t h | bnone m t h =>
    refine encBM_reads (m := m) (tok := 0) (t := t) (fun f hf => by simp only [decodeFrame, hf]; rfl) (by decide) rfl
      fun hw => ?_
    simp only [Instr.wf, Bool.and_eq_true, decide_eq_true_eq] at hw
    refine ⟨⟨hw.1.1, by decide, hw.1.2, hw.2⟩, fun f hf => ?_⟩
    simp [decodeBM, form1_instr, lenOk1, allow, hf.mask, hf.tok, hf.off, hf.zero, hf.hint, hf.ext, hw]
  | srd => exact sysreg_reads (write := false) rfl rfl rfl
  | swr => exact sysreg_reads (write := true) rfl rfl rfl
  | trap => exact trap_reads _ _
  | spawn => exact spawn_reads _ _ _ _
  | mmov | mand | mor | mxor | mandn | mnot | mpop | mfirst | ballot | vany | vall | msave | mrestore =>
    refine encS_reads (fun _ => decodeFrame_M) (by decide) rfl fun hw => ?_
    simp [Instr.wf] at hw
    refine ⟨⟨by decide, by omega, by omega, by omega, by simp [hw]⟩, fun f hf => ?_⟩
    simp [decodeM, form1_instr, lenOk1, allow, dstMask, srcMask, evenMask, hf.minor, hf.d, hf.a, hf.b, hf.hint, hf.ext,
       hf.lit, hw]
  | mset => exact mset_reads _ _ _
  | sadd | ssub | smul | smulh | sdiv | sdivu | srem | sremu | sand | sor | sxor | sandn | sshl | sshr | ssra | srot
  | smin | smax | sminu | smaxu | sseq | sslt | ssltu | sbfx | sbfi =>
     exact scalar_reads (by decide) rfl rfl fun f hf => by simp only [decodeS, hf]
  | saddImm | ssubImm | smulImm | smulhImm | sdivImm | sdivuImm | sremImm | sremuImm | sandImm | sorImm | sxorImm
  | sandnImm | sshlImm | sshrImm | ssraImm | srotImm | sminImm | smaxImm | sminuImm | smaxuImm | sseqImm | ssltImm
  | ssltuImm | sbfxImm | sbfiImm =>
     exact scalarImm_reads (by decide) rfl rfl fun f hf => by simp only [decodeSI, hf]
  | smov | sclz | sctz | spop | sbrev =>
    refine encS_reads (fun _ => decodeFrame_S) (by decide) rfl fun hw => ?_
    simp [Instr.wf] at hw
    refine ⟨⟨by decide, by omega, by omega, by omega, by simp [hw]⟩, fun f hf => ?_⟩
    simp [decodeS, form1_instr, lenOk1, hf.minor, hf.d, hf.a, hf.b, hf.hint, hf.ext, hf.lit]
  | smovImm => exact smovImm_reads _ _ _
  | wbind => exact wbind_reads _ _ _ _ _
  | winv => exact winv_reads _ _
  | waitc => exact waitc_reads _ _ _
  | fence => exact fence_reads _ _ _
  | nop | hint | pref => exact formN_reads (by decide) rfl rfl fun f hm hh => by simp only [decodeN, hm, hh]
  | binit bar n h | expect bar n h =>
    refine encBA_reads rfl fun hw => ?_
    simp only [Instr.wf, Bool.and_eq_true, decide_eq_true_eq] at hw
    obtain ⟨⟨⟨hbar, hreg⟩, hh⟩, hlit⟩ := hw
    refine ⟨⟨by decide, hbar, RegLit.regField_lt hreg, by decide, hh⟩, fun f hf => ?_⟩
    simp [decodeBA, form1_instr, lenOk1, hf.minor, hf.bar, hf.sd, hf.order, hf.crit, hf.rest, hf.hint, hf.ext,
      litZero_regField hf.lit, regLitOf_regField hf.lit, litFits_iff (raw := n.regField), hlit]
  | arrive sd bar acq crit h | waitb sd bar acq crit h =>
    refine encBA_reads rfl fun hw => ?_
    simp only [Instr.wf, Bool.and_eq_true, decide_eq_true_eq] at hw
    obtain ⟨⟨⟨hsd, hbar⟩, hh⟩, hcrit⟩ := hw
    have ha := acq.toNat_lt
    refine ⟨⟨by decide, hbar, hsd, by omega, hh⟩, fun f hf => ?_⟩
    simp only [decodeBA, form1_instr, lenOk1_never, hf.minor, hf.bar, hf.sd, hf.order, hf.crit, hf.rest, hf.hint, hf.ext,
      hf.lit]
    cases acq with
    | false => simpa [allow] using hcrit
    | true => simp [allow]
  | testb => exact testb_reads _ _ _
  | vcmp => exact vcmp_reads _ _ _ _ _ _
  | vsel => exact vsel_reads _ _ _ _ _ _
  | vmov => exact vmov_reads _ _ _ _
  | vshfl =>
    exact bin_reads (fun _ => decodeFrame_Cross) (by decide) (by decide) rfl
      (fun f hf => by simp only [decodeCross, hf]; rfl) (by simp [Instr.wf, and_assoc])
  | vshup | vshdn | vshxor | vbcast =>
    exact shift_reads (by decide) rfl (fun f hf => by simp only [decodeCross, hf]) (by simp +contextual [Instr.wf])
  | vgred | vscan =>
    exact comb_reads (by decide) rfl (fun f hf => by simp only [decodeCross, hf]) (by simp [Instr.wf, and_assoc])
  | vaddInt | vsubInt | vmulInt | vmulh | vabsd | vadds | vsubs | vminInt | vmaxInt | vand | vor | vxor | vandn | vshl | vshr
  | vsra | vrot | vbfx =>
    exact bin_reads (fun _ => decodeFrame_VInt) (by decide) (by decide) rfl
      (fun f hf => by simp only [decodeVInt, hf]; rfl) (by simp [Instr.wf, and_assoc])
  | vmad =>
    exact tri_reads (fun _ => decodeFrame_VInt) (by decide) (by decide) rfl
      (fun f hf => by simp only [decodeVInt, hf]; rfl) (by simp [Instr.wf, and_assoc])
  | vbfi =>
    exact tri_reads (mk := fun vd va b vc _ h => .vbfi vd va b vc h) (t := .n32) (fun _ => decodeFrame_VInt) (by decide)
      (by decide) rfl (fun f hf => by simp only [decodeVInt, hf]; rfl)
      (by simp +contextual [Instr.wf, Ty.isN32, evens, Ty.width])
  | vprmt =>
    exact tri_reads (mk := fun vd va b vc _ h => .vprmt vd va b vc h) (t := .n32) (fun _ => decodeFrame_VInt) (by decide)
      (by decide) rfl (fun f hf => by simp only [decodeVInt, hf]; rfl)
      (by simp +contextual [Instr.wf, Ty.isN32, evens, Ty.width])
  | vclz =>
    exact un_reads (mk := fun vd va _ h => .vclz vd va h) (t := .n32) (fun _ => decodeFrame_VInt) (by decide) (by decide) rfl
      (fun f hf => by simp only [decodeVInt, hf]; rfl) (by simp +contextual [Instr.wf, Ty.isN32, evens, Ty.width])
  | vpop =>
    exact un_reads (mk := fun vd va _ h => .vpop vd va h) (t := .n32) (fun _ => decodeFrame_VInt) (by decide) (by decide) rfl
      (fun f hf => by simp only [decodeVInt, hf]; rfl) (by simp +contextual [Instr.wf, Ty.isN32, evens, Ty.width])
  | vbrev =>
    exact un_reads (mk := fun vd va _ h => .vbrev vd va h) (t := .n32) (fun _ => decodeFrame_VInt) (by decide) (by decide) rfl
      (fun f hf => by simp only [decodeVInt, hf]; rfl) (by simp +contextual [Instr.wf, Ty.isN32, evens, Ty.width])
  | vnot =>
    exact un_reads (fun _ => decodeFrame_VInt) (by decide) (by decide) rfl
      (fun f hf => by simp only [decodeVInt, hf]; rfl) (by simp [Instr.wf, and_assoc])
  | vaddFp | vsubFp | vmulFp =>
    exact binR_reads (by decide) rfl (fun f hf => by simp only [decodeVFp, hf]) (by simp +contextual [Instr.wf])
  | vfma | vfms | vfnma =>
    exact triR_reads (by decide) rfl (fun f hf => by simp only [decodeVFp, hf]) (by simp +contextual [Instr.wf])
  | vminFp | vmaxFp | vcpysgn =>
    exact bin_reads (fun _ => decodeFrame_VFp) (by decide) (by decide) rfl
      (fun f hf => by simp only [decodeVFp, hf]; rfl) (by simp [Instr.wf, and_assoc])
  | vrcp | vrsq | vsqrt | vround =>
    exact unR_reads (by decide) rfl (fun f hf => by simp only [decodeVFp, hf]) (by simp +contextual [Instr.wf])
  | vabs | vneg | vexp2 | vlog2 | vsin | vcos | vfloor | vceil | vtrunc | vfract | vclass =>
    exact un_reads (fun _ => decodeFrame_VFp) (by decide) (by decide) rfl
      (fun f hf => by simp only [decodeVFp, hf]; rfl) (by simp [Instr.wf, and_assoc])
  | tzero => exact tzero_reads _ _ _
  | tseed vd k b h | tset vd k b h =>
    refine encV_reads (fun _ => decodeFrame_Tan) (by decide) rfl fun hw => ?_
    simp only [Instr.wf, Bool.and_eq_true, decide_eq_true_eq] at hw
    obtain ⟨⟨⟨hvd, hb⟩, hh⟩, hk⟩ := hw
    refine ⟨⟨by decide, hvd, by decide, VOp.vb_lt hb, by omega, by decide, by decide, hh⟩, fun f hf => ?_⟩
    have h0 : k / 8 = 0 ∧ k % 8 = k := by omega
    simp [decodeTan, hf.minor, formX_instr, lenOkX_never, hf.len, hf.fields, VFields.with_bZero hb, VFields.with_b hb,
      allow, h0]
  | tget => exact tget_reads _ _ _ _
  | tmov => exact tmov_reads _ _ _ _ _
  | vcvt => exact vcvt_reads _ _ _ _ _ _
  | vcvtsr => exact vcvtsr_reads _ _ _ _ _ _
  | vrand => exact vrand_reads _ _ _
  | vrseed => exact vrseed_reads _ _ _
  | vpack => exact vpack_reads _ _ _ _ _ _ _ _
  | vunpk => exact vunpk_reads _ _ _ _ _ _
  | ld vd a t du o h | st vd a t du o h =>
    refine encL_reads rfl fun hw => ?_
    simp only [Instr.wf, Bool.and_eq_true, decide_eq_true_eq, syncOk_iff] at hw
    obtain ⟨⟨⟨⟨⟨hvd, ha⟩, hh⟩, he⟩, hdu⟩, hp, ho⟩ := hw
    refine ⟨⟨by decide, hvd, ha, t.code_lt16, by decide, by decide, ho, hh⟩, fun f hf => ?_⟩
    simp [decodeL, hf.minor, formX_instr, hf.len, hf.fields, hf.zero, hf.addr, LFields.with_ty (p := anyTy) rfl he,
      LFields.with_sync hp, allow, hdu]
  | ldt vd a t du n h | stt vd a t du n h =>
    refine encL_reads rfl fun hw => ?_
    simp only [Instr.wf, Bool.and_eq_true, decide_eq_true_eq] at hw
    obtain ⟨⟨⟨⟨⟨⟨⟨hvd, ha⟩, hh⟩, hty⟩, hdu⟩, hsc⟩, h1⟩, h32⟩ := hw
    refine ⟨⟨by decide, hvd, ha, t.code_lt16, by decide, by omega, fun _ => ⟨rfl, rfl⟩, hh⟩, fun f hf => ?_⟩
    simp [decodeL, hf.minor, formX_instr, hf.len, hf.fields, hf.zero, hf.addr,
      LFields.with_ty hty (evens_narrow (Ty.is32_narrow hty)), MemOrd.code, allow, hdu, hsc, h1, h32]
  | sld sd a t o h | sst sd a t o h =>
    refine encL_reads rfl fun hw => ?_
    simp only [Instr.wf, Bool.and_eq_true, decide_eq_true_eq, syncOk_iff] at hw
    obtain ⟨⟨⟨⟨hsd, ha⟩, hh⟩, hsc⟩, hp, ho⟩ := hw
    refine ⟨⟨by decide, by omega, ha, t.code_lt16, by decide, by decide, ho, hh⟩, fun f hf => ?_⟩
    simp [decodeL, hf.minor, formX_instr, hf.len, hf.fields, hf.zero, hf.addr,
      LFields.with_ty (p := anyTy) (rs := []) rfl (by simp [evens]), LFields.with_sync hp, allow, hsd, hsc]
  | ldw => exact ldw_reads _ _ _ _
  | atom => exact atom_reads _ _ _ _ _ _ _
  | acas => exact acas_reads _ _ _ _ _ _
  | cpy => exact cpy_reads _ _ _
  | gath | scat | pld | pst =>
    exact lane_reads (by decide) rfl (fun f hf => by simp only [decodeE, hf]) (by simp [Instr.wf, and_assoc])
  | red => exact red_reads _ _ _ _ _ _ _ _ _
  | amg => exact amg_reads _ _ _ _ _ _ _ _ _
  | tex | texg =>
    exact tex_reads (by decide) rfl (fun f hf => by simp only [decodeE, hf]) (by simp [Instr.wf, and_assoc])
  | isect | visq =>
    exact ray_reads (by decide) rfl (fun f hf => by simp only [decodeE, hf]) (by simp [Instr.wf, and_assoc])
  | coll => exact coll_reads _ _ _ _ _ _ _
  | mzero => exact mzero_reads _ _ _ _ _
  | mbind => exact mbind_reads _ _ _ _
  | mfree => exact mfree_reads _ _
  | mrinit => exact mrinit_reads _ _ _
  | mrpush => exact mrpush_reads _ _ _ _
  | mrrel => exact mrrel_reads _ _ _
  | mqsr => exact mqsr_reads _ _ _
  | finit => exact finit_reads _ _ _ _
  | fsolve => exact fsolve_reads _ _ _ _
  | fupd fh va h | fdown fh va h =>
    refine encFX_reads rfl fun hw => ?_
    simp only [Instr.wf, Bool.and_eq_true, decide_eq_true_eq] at hw
    obtain ⟨⟨hf4, hva⟩, hh⟩ := hw
    refine ⟨⟨by decide, hf4, hva, by decide, by decide, hh⟩, fun f hf => ?_⟩
    simp [decodeFX, hf.minor, formX_instr, lenOkX_never, hf.len, hf.fields, allow_some]
  | fdrain fh sa off h | fload fh sa off h =>
    refine encFX_reads rfl fun hw => ?_
    simp only [Instr.wf, Bool.and_eq_true, decide_eq_true_eq] at hw
    obtain ⟨⟨⟨hf4, hsa⟩, hoff⟩, hh⟩ := hw
    refine ⟨⟨by decide, hf4, by decide, hsa, by decide, hh⟩, fun f hf => ?_⟩
    simp [decodeFX, hf.minor, formX_instr, lenOkX_never, hf.len, hf.fields, allow_some, signedOf_off32 hoff]
  | flogdet => exact flogdet_reads _ _ _
  | ffree => exact ffree_reads _ _
  | mstat => exact mstat_reads _ _ _ _ _ _ _
  | mloop => exact mloop_reads _ _ _ _ _ _ _ _
  | mdrain => exact mdrain_reads _ _ _ _ _ _ _ _ _
  | _ => exact fun _ f hf => by cases hf

theorem decodeFrame_denotes (hn : f.Named) (hb : f.Bounded) (hd : decodeFrame f = .instr i) : Denotes f i := by
  simp only [decodeFrame] at hd
  split at hd
  case h_1 hm => exact decodeX_denotes hn hb hm hd
  case h_2 hm => exact decodeJ_denotes (call := false) hn hb hm hd
  case h_3 hm => exact decodeJ_denotes (call := true) hn hb hm hd
  case h_4 hm => exact decodeBS_denotes hn hb hm hd
  case h_5 hm => exact decodeBM_denotes (k := .brv) hn hb hm hd
  case h_6 hm => exact decodeBM_denotes (k := .brk) hn hb hm hd
  case h_7 hm => exact decodeBM_denotes (k := .ball) hn hb hm hd
  case h_8 hm => exact decodeBM_denotes (k := .bnone) hn hb hm hd
  case h_9 hm => exact decodeSR_denotes hn hb hm hd
  case h_10 hm => exact decodeTR_denotes hn hb hm hd
  case h_11 hm => exact decodeSP_denotes hn hb hm hd
  case h_12 hm => exact decodeM_denotes hn hb hm hd
  case h_13 hm => exact decodeCmp_denotes hn hb hm hd
  case h_14 hm => exact decodeCross_denotes hn hb hm hd
  case h_15 hm => exact decodeS_denotes hn hb hm hd
  case h_16 hm => exact decodeSI_denotes hn hb hm hd
  case h_17 hm => exact decodeVInt_denotes hn hb hm hd
  case h_18 hm => exact decodeVFp_denotes hn hb hm hd
  case h_19 hm => exact decodeTan_denotes hn hb hm hd
  case h_20 hm => exact decodeCvt_denotes hn hb hm hd
  case h_21 hm => exact decodeL_denotes hn hb hm hd
  case h_22 hm => exact decodeE_denotes hn hb hm hd
  case h_23 hm => exact decodeWB_denotes hn hb hm hd
  case h_24 hm => exact decodeW_denotes hn hb hm hd
  case h_25 hm => exact decodeBA_denotes hn hb hm hd
  case h_26 hm => exact decodeF_denotes hn hb hm hd
  case h_27 hm => exact decodeMX_denotes hn hb hm hd
  case h_28 hm => exact decodeFX_denotes hn hb hm hd
  case h_29 hm => exact decodeN_denotes hn hb hm hd
  case h_30 => cases hd

theorem encodeWords_of_frame (hf : encodeFrame i = some f) : encodeWords i = f.words := by
  simp [encodeWords, hf]

/-- Settles O1: the words of a named frame are read as that frame, whatever follows, and every form reads back from its
frame. -/
theorem decodeReadsEncode : Obligations.DecodeReadsEncode := by
  unfold Obligations.DecodeReadsEncode
  intro i rest hw hs
  obtain ⟨f, hf⟩ := Option.isSome_iff_exists.1 hs
  obtain ⟨hn, hd⟩ := reads i hw f hf
  rw [encodeWords_of_frame hf, decodeWords, Frame.ofWords_words hn rest]
  exact hd

/-- Settles O2: the frame read from words below 2^32 is named, begins them, and is the encoding of what it decodes to. -/
theorem wordsHaveOneMeaning : Obligations.WordsHaveOneMeaning := by
  unfold Obligations.WordsHaveOneMeaning
  intro ws i hb hd
  simp only [decodeWords] at hd
  split at hd
  · next f hf =>
    obtain ⟨hn, hbound, hpre⟩ := Frame.ofWords_some hb hf
    obtain ⟨hw, he⟩ := decodeFrame_denotes hn hbound hd
    exact ⟨hw, by simp [he], by rwa [encodeWords_of_frame he]⟩
  · cases hd

end Sys2Proof
end

section
/-!
PROOF. Where the whole split goes (R138, R142 to R144): direct targets, a change of the PC alone, a write of s63 with it, and the
end of a recipe.
-/

namespace Sys2Proof.Machine

open Sys2Proof.Claims

variable (s : State)

/-! ## Targets -/

theorem targetOk_iff (t : Off) : targetOk t = true ↔ okTarget t := by
  cases t <;> simp [targetOk, okTarget]

theorem offIsLit_eq (t : Off) : offIsLit t = isLit t := by cases t <;> rfl

/-- A literal offset modulo 2^52 is its low bits (R44). -/
theorem State.target_eq (t : Off) : s.target t = targetPc s t := by
  cases t with
  | small k => rfl
  | lit x =>
    have hlow : BitVec.ofInt 52 (signedOf 64 x) = BitVec.ofNat 52 x := by
      rw [signedOf_eq_toInt]
      exact (BitVec.signExtend_eq_setWidth_of_le _ (by decide)).trans (BitVec.setWidth_ofNat_of_le (by decide) x)
    simp only [State.target, targetPc, targetBytes, hlow]

theorem State.onlyPc_goto (a : Addr52) : OnlyPc s (s.goto a) a := by
  refine ⟨s.goto_only a, ⟨?_, fun e he => ?_⟩, ?_⟩
  · simp
  · rw [State.grp_goto, Group.split_setSplit_ne _ _ he]
  · simp [Group.setSplit]

theorem State.onlyPc_next (h : Option Nat) (lit : Bool) : OnlyPc s (s.advance (words1 h lit)) (nextPc s h lit) := by
  rw [← State.pcPlus_words1]
  exact s.onlyPc_advance _

/-- A uniform branch does as its condition says (R138). -/
theorem branches_of_exec {i : Instr} {b : Bool} {t : Off} {h : Option Nat} {taken : Prop} (hx : exec i s = branchIf b t h s)
    (hb : b = true ↔ taken) (ht : okTarget t) : Branches s i t h taken := by
  rw [branchIf, if_pos ((targetOk_iff t).2 ht)] at hx
  refine ⟨fun htaken => ⟨_, hx, ?_⟩, fun hnot => ⟨_, hx, ?_⟩⟩
  · rw [if_pos (hb.2 htaken), s.target_eq]
    exact s.onlyPc_goto _
  · rw [if_neg (mt hb.1 hnot), offIsLit_eq]
    exact s.onlyPc_next h (isLit t)

/-! ## Changes of the group with the PC -/

variable {s} {u : State} {a : Addr52}

theorem spl_of_onlyGroup (ho : OnlyGroup s u) : u.spl = u.grp.split s.cur.entry := by
  rw [State.spl, ho.1]

/-- Where the split table is that of the issuing split gone to a PC, the split stands there and the others as they were. -/
theorem splitAt_of_splits (ho : OnlyGroup s u)
    (hs : u.grp.splits = (s.grp.setSplit s.cur.entry { s.spl with pc := a }).splits) : SplitAt s u a := by
  refine ⟨?_, fun e he => ?_⟩
  · rw [spl_of_onlyGroup ho, Group.split_congr hs, Group.split_setSplit_self]
  · rw [Group.split_congr hs, Group.split_setSplit_ne _ _ he]

theorem onlyGroup_goto_setGrp (s : State) (a : Addr52) (g : Group) : OnlyGroup s ((s.goto a).setGrp g) :=
  ⟨rfl, fun k hk => by simp [State.goto, State.group_setGrp, hk]⟩

theorem onlyGroup_setGrp_goto (s : State) (a : Addr52) (g : Group) : OnlyGroup s ((s.setGrp g).goto a) :=
  ⟨rfl, fun k hk => by simp [State.goto, State.group_setGrp, hk]⟩

theorem grp_setGrp_goto {g : Group} (hg : g.splits = s.grp.splits) :
    ((s.setGrp g).goto a).grp = g.setSplit s.cur.entry { s.spl with pc := a } := by
  have hspl : g.split s.cur.entry = s.spl := Group.split_congr hg _
  simp [hspl]

/-- A write of a scalar and any PC. -/
theorem putsScalar_goto (s : State) (d : Nat) (x : Word64) (a : Addr52) : PutsScalar s ((s.putS d x).goto a) d x a := by
  have hg : ((s.grp.writeS d x).noteWrite (.s d)).splits = s.grp.splits := by simp
  have hgrp : ((s.putS d x).goto a).grp = _ := grp_setGrp_goto hg
  have ho : OnlyGroup s ((s.putS d x).goto a) := onlyGroup_setGrp_goto s a _
  refine ⟨ho, splitAt_of_splits ho ?_, ?_, fun r => ?_, ?_⟩
  · rw [hgrp, Group.setSplit, hg]; rfl
  · rw [hgrp, Group.noteWrite_writeS_keep]; rfl
  · rw [hgrp, ← Group.readS_writeS]
    simp [Group.readS]
  · simp [RewindAfter, hgrp, Group.noteWrite_rewind_inSaved]

/-! ## The end of a recipe (R30) -/

theorem endRecipe_of_none {g : Group} {em : Word32} (h : ∀ r rest, g.recipes = r :: rest → r.point ≠ a) :
    g.endRecipe em a = g := by
  unfold Group.endRecipe
  cases hr : g.recipes with
  | nil => rfl
  | cons r rest => exact if_neg (h r rest hr)

theorem endRecipe_of_point {g : Group} {em : Word32} {r : Recipe} {rest : List Recipe} (hr : g.recipes = r :: rest)
    (hp : r.point = a) : g.endRecipe em a =
      if r.lanes &&& ~~~em = 0 then { g.unlinkOne r with recipes := rest }
      else { g with recipes := { r with lanes := r.lanes &&& ~~~em } :: rest } := by
  simp only [Group.endRecipe, Group.leaveRecipe, hr, if_pos hp]

/-- s63 as the saved set has it, where the recipe has saved it. -/
theorem unlinkOne_keep (g : Group) (r : Recipe) :
    g.unlinkOne r = { g with s := (g.unlinkOne r).s, rewind := (g.unlinkOne r).rewind } := by
  unfold Group.unlinkOne
  split
  · next x _ =>
    have h := Group.noteWrite_writeS_keep g 63 x (.s 63)
    have hs : ((g.writeS 63 x).noteWrite (.s 63)).s = (g.writeS 63 x).s := by simp
    rw [hs]
    exact h
  · rfl

theorem readS_unlinkOne (g : Group) (r : Recipe) (k : Nat) :
    (g.unlinkOne r).readS k = if k = 63 then r.link.getD (g.readS 63) else g.readS k := by
  unfold Group.unlinkOne
  cases r.link with
  | none => by_cases hk : k = 63 <;> simp [hk]
  | some x =>
    have hs : ((g.writeS 63 x).noteWrite (.s 63)).readS k = (g.writeS 63 x).readS k := by simp [Group.readS]
    exact hs.trans ((Group.readS_writeS g 63 k x).trans (by simp))

theorem rewind_unlinkOne (g : Group) (r : Recipe) :
    (g.unlinkOne r).rewind = (g.rewind && !(r.link.isSome && inSaved g (.s 63))) := by
  unfold Group.unlinkOne
  cases r.link with
  | none => simp
  | some x => simp [Group.noteWrite_rewind_inSaved]

/-- RET to the point of the recipe that runs, in the words of the statement: g0 is the group with the split table sp. -/
theorem endRecipe_spec {g0 : Group} (sp : Sparse Split) {em : Word32} {r : Recipe} {rest : List Recipe}
    (hr : g0.recipes = r :: rest) (hp : r.point = a) :
    let t := { g0 with splits := sp }.endRecipe em a
    let gone := r.lanes &&& ~~~em = 0
    t = { g0 with splits := t.splits, s := t.s, recipes := t.recipes, rewind := t.rewind } ∧ t.splits = sp ∧
    t.rewind = (g0.rewind && !(if gone ∧ r.link.isSome = true then [RegId.s 63] else []).any (inSaved g0)) ∧
    (gone → t.recipes = rest) ∧ (¬ gone → t.recipes = { r with lanes := r.lanes &&& ~~~em } :: rest) ∧
    ∀ k, t.readS k = if k = 63 then
      (match r.link with
        | some x => if gone then x else g0.readS 63
        | none => g0.readS 63) else g0.readS k := by
  intro t gone
  have ht : t = _ := endRecipe_of_point (g := { g0 with splits := sp }) hr hp
  by_cases hgone : gone
  · rw [if_pos hgone] at ht
    refine ⟨by rw [ht, unlinkOne_keep], by rw [ht, unlinkOne_keep], ?_, fun _ => by rw [ht], fun hnot => absurd hgone hnot,
      fun k => ?_⟩
    · rw [ht]
      refine (rewind_unlinkOne _ r).trans ?_
      cases r.link <;> simp [hgone, inSaved]
    · rw [ht]
      refine (readS_unlinkOne _ r k).trans ?_
      cases r.link <;> simp [hgone, Group.readS]
  · rw [if_neg hgone] at ht
    refine ⟨by rw [ht], by rw [ht], by rw [ht]; simp [hgone], fun h => absurd h hgone, fun _ => by rw [ht], fun k => ?_⟩
    rw [ht]
    split
    · next hk => cases r.link <;> simp [hk, Group.readS]
    · rfl

/-- RET to the point of the recipe that runs, on the machine. -/
theorem ret_at_point {r : Recipe} {rest : List Recipe} (hr : s.grp.recipes = r :: rest) (hp : r.point = a) :
    let u := (s.goto a).setGrp ((s.goto a).grp.endRecipe s.em a)
    let gone := r.lanes &&& ~~~s.em = 0
    OnlyGroup s u ∧ SplitAt s u a ∧
    u.grp = { s.grp with splits := u.grp.splits, s := u.grp.s, recipes := u.grp.recipes, rewind := u.grp.rewind } ∧
    RewindAfter s u (if r.lanes &&& ~~~s.em = 0 ∧ r.link.isSome = true then [.s 63] else []) ∧
    (gone → u.grp.recipes = rest) ∧
    (¬ gone → u.grp.recipes = { r with lanes := r.lanes &&& ~~~s.em } :: rest) ∧
    ∀ k, u.grp.readS k = if k = 63 then
      (match r.link with
        | some x => if r.lanes &&& ~~~s.em = 0 then x else s.grp.readS 63
        | none => s.grp.readS 63) else s.grp.readS k := by
  intro u gone
  obtain ⟨hkeep, hsp, hrewind, hrest, hmore, hread⟩ :=
    endRecipe_spec (s.grp.setSplit s.cur.entry { s.spl with pc := a }).splits (em := s.em) hr hp
  have hu : u.grp = (s.grp.setSplit s.cur.entry { s.spl with pc := a }).endRecipe s.em a := by
    rw [State.grp_setGrp, State.grp_goto]
  have hsplits : u.grp.splits = (s.grp.setSplit s.cur.entry { s.spl with pc := a }).splits :=
    (congrArg Group.splits hu).trans hsp
  have ho : OnlyGroup s u := onlyGroup_goto_setGrp s a _
  refine ⟨ho, splitAt_of_splits ho hsplits, ?_, (congrArg Group.rewind hu).trans hrewind,
    fun h => (congrArg Group.recipes hu).trans (hrest h), fun h => (congrArg Group.recipes hu).trans (hmore h),
    fun k => (congrArg (Group.readS · k) hu).trans (hread k)⟩
  rw [hu]
  exact hkeep

/-! ## The uniform forms -/

theorem uniformBranches : Claims.UniformBranches := by
  intro s sa m t h ht x k a
  refine ⟨branches_of_exec s rfl (by simp) ht, branches_of_exec s rfl decide_eq_true_iff ht,
    branches_of_exec s rfl decide_eq_true_iff ht, branches_of_exec s rfl decide_eq_true_iff ht,
    branches_of_exec s rfl decide_eq_true_iff ht, branches_of_exec s rfl decide_eq_true_iff ht,
    branches_of_exec s rfl decide_eq_true_iff ht, branches_of_exec s rfl decide_eq_true_iff ht,
    branches_of_exec s rfl decide_eq_true_iff ht, ?_, fun ha => ?_⟩
  · have hcall : exec (.call t h) s = execCall t h s := rfl
    rw [execCall, if_pos ((targetOk_iff t).2 ht), s.target_eq, State.pcPlus_words1, offIsLit_eq] at hcall
    exact ⟨_, hcall, putsScalar_goto s 63 _ _⟩
  · have haligned : pcAligned (s.scalarTarget sa) = true := decide_eq_true ha
    have hbri : exec (.bri sa h) s = .next (s.goto a) := congrArg _ (if_pos haligned)
    have hret : exec (.ret sa h) s = .next ((s.goto a).setGrp ((s.goto a).grp.endRecipe s.em a)) :=
      congrArg _ (if_pos haligned)
    refine ⟨⟨_, hbri, s.onlyPc_goto a⟩, fun hno => ⟨_, hret, ?_⟩, fun r rest hr hp => ⟨_, hret, ret_at_point hr hp⟩⟩
    have hsame : (s.goto a).grp.endRecipe s.em a = (s.goto a).grp := endRecipe_of_none (by rw [State.grp_goto]; exact hno)
    obtain ⟨-, ⟨hspl, hsplits⟩, hgrp⟩ := s.onlyPc_goto a
    have ho := onlyGroup_goto_setGrp s a ((s.goto a).grp.endRecipe s.em a)
    refine ⟨ho, splitAt_of_splits ho ?_, ?_⟩ <;> rw [State.grp_setGrp, hsame]
    · rw [State.grp_goto]
    · exact hgrp

end Sys2Proof.Machine
end

section
/-!
PROOF. Branches that divide the split (R113, R139), and where control instructions trap or fault twice (R112, R121, R123).
-/

namespace Sys2Proof.Machine

open Sys2Proof.Claims

variable {s : State}

/-! ## Parts and divides (R113) -/

theorem State.goesAndSettles (s : State) (a : Addr52) : GoesAndSettles s (s.goto a).settled a :=
  ⟨onlyGroup_goto_setGrp s a _, by rw [State.settled, State.grp_setGrp, State.grp_goto]⟩

theorem sendParts_one (t : Nat) (opens : Bool) (m : Word32) (a : Addr52) :
    s.sendParts t opens [(m, a)] = some (s.goto a) := by
  simp [State.sendParts]

theorem sendParts_same (t : Nat) (opens : Bool) (m n : Word32) (a : Addr52) :
    s.sendParts t opens [(m, a), (n, a)] = some (s.goto a) := by
  simp [State.sendParts]

theorem sendParts_two (t : Nat) (opens : Bool) (m n : Word32) {a b : Addr52} (hab : b ≠ a) :
    s.sendParts t opens [(m, a), (n, b)] = (s.grp.divide s.cur.entry t s.pc opens [(m, a), (n, b)]).map s.setGrp := by
  simp only [State.sendParts, List.all_cons, List.all_nil, Bool.and_true, decide_eq_true_eq, if_neg hab]
  cases s.grp.divide s.cur.entry t s.pc opens [(m, a), (n, b)] <;> rfl

theorem freeEntries_eq_nil {g : Group} (h : ∀ e, e < 4 → (g.split e).v = true) : g.freeEntries = [] := by
  simpa [Group.freeEntries] using h

/-- The lowest free entry comes first. -/
theorem freeEntries_eq_cons {g : Group} {f : Nat} (hf : f < 4) (hfree : (g.split f).v = false)
    (hlow : ∀ e, e < f → (g.split e).v = true) : ∃ fs, g.freeEntries = f :: fs := by
  have h4 : List.range 4 = List.range f ++ f :: (List.range (3 - f)).map (f + 1 + ·) := by
    interval_cases f <;> rfl
  have hnone : (List.range f).filter (fun e => !(g.split e).v) = [] := by simpa using hlow
  exact ⟨_, by rw [Group.freeEntries, h4, List.filter_append, hnone, List.nil_append, List.filter_cons_of_pos (by simp [hfree])]⟩

section Divide

variable (g : Group) (e t : Nat) (pc a b : Addr52) (m n : Word32)

/-- A divide in two that opens a region passes depth 30. -/
theorem divide_full {g : Group}
    (h : 30 ≤ g.stack.length ∨ 29 ≤ g.stack.length ∧ ∀ e, e < 4 → (g.split e).v = true) :
    g.divide e t pc true [(m, a), (n, b)] = none := by
  refine if_pos ?_
  rcases h with h | ⟨h, hall⟩
  · simp only [Group.depth, if_true]; omega
  · rw [freeEntries_eq_nil hall]; simp only [Group.depth, if_true, List.length_cons, List.length_nil]; omega

/-- The second part takes the lowest free entry. -/
theorem divide_free {g : Group} {f : Nat} (hf : f < 4) (hfree : (g.split f).v = false)
    (hlow : ∀ k, k < f → (g.split k).v = true) (hd : g.stack.length + 1 ≤ 30) :
    let x := g.split e
    g.divide e t pc true [(m, a), (n, b)] = some
      ((({ g with stack := ⟨0, t, .join, x.sup, x.mask, pc, 0⟩ :: g.stack }).setSplit e
        { x with mask := m, pc := a, tok := t }).setSplit f (Split.run b n t x.sup)) := by
  obtain ⟨fs, hfs⟩ := freeEntries_eq_cons hf hfree hlow
  simp only [Group.divide, hfs]
  refine (if_neg ?_).trans ?_
  · simp only [Group.depth, if_true, List.length_cons, List.length_nil]; omega
  · simp
    rfl

/-- With no entry free the second part is deferred. -/
theorem divide_deferred {g : Group} (hall : ∀ k, k < 4 → (g.split k).v = true) (hd : g.stack.length + 2 ≤ 30) :
    let x := g.split e
    g.divide e t pc true [(m, a), (n, b)] = some
      (({ g with stack := ⟨0, t, .deferred, x.sup, n, b, 0⟩ :: ⟨0, t, .join, x.sup, x.mask, pc, 0⟩ :: g.stack }).setSplit e
        { x with mask := m, pc := a, tok := t }) := by
  simp only [Group.divide, freeEntries_eq_nil hall]
  refine (if_neg ?_).trans ?_
  · simp only [Group.depth, if_true, List.length_cons, List.length_nil]; omega
  · simp
    rfl

end Divide

/-! ## BRV (R139) -/

theorem nonempty_cons {m : Word32} (hm : m ≠ 0) (a : Addr52) (ps : List (Word32 × Addr52)) :
    nonempty ((m, a) :: ps) = (m, a) :: nonempty ps := List.filter_cons_of_pos (decide_eq_true hm)

theorem nonempty_cons_zero {m : Word32} (hm : m = 0) (a : Addr52) (ps : List (Word32 × Addr52)) :
    nonempty ((m, a) :: ps) = nonempty ps := List.filter_cons_of_neg (by simpa using hm)

theorem and_ne_zero_of_and_not {em k : Word32} (hem : em ≠ 0) (h : em &&& ~~~k = 0) : em &&& k ≠ 0 := fun h0 => hem <| by
  have hsplit : em = (em &&& k) ||| (em &&& ~~~k) := by
    rw [← BitVec.and_or_distrib_left, BitVec.or_not_self, BitVec.and_allOnes]
  rw [hsplit, h0, h]; rfl

section Brv

variable {m tok : Nat} {t : Off} {h : Option Nat} (ht : okTarget t)
include ht

theorem execBrv_idle (hem : s.em = 0) : exec (.brv m t tok h) s = .next (s.goto (nextPc s h (isLit t))) := by
  have hx : exec (.brv m t tok h) s = execBrv m t tok h s := rfl
  rw [hx, execBrv]
  simp only [(targetOk_iff t).2 ht, Bool.not_true, Bool.false_eq_true, if_false, if_pos hem, offIsLit_eq,
    State.pcPlus_words1]

theorem execBrv_sends {u : Option State} (hem : s.em ≠ 0)
    (hu : s.sendParts tok true (nonempty [(s.em &&& ~~~s.maskOp m, nextPc s h (isLit t)),
      (s.em &&& s.maskOp m, targetPc s t)]) = u) :
    exec (.brv m t tok h) s = .next (u.elim (s.trapAll 0x21) State.settled) := by
  have hx : exec (.brv m t tok h) s = execBrv m t tok h s := rfl
  rw [hx, execBrv]
  simp only [(targetOk_iff t).2 ht, Bool.not_true, Bool.false_eq_true, if_false, if_neg hem, offIsLit_eq,
    State.pcPlus_words1, State.target_eq, hu]
  cases u <;> rfl

end Brv

theorem divergentBranch : Claims.DivergentBranch := by
  intro s m t tok h ht k next stay gone x record kept branch
  have hone {a : Addr52} (hem : s.em ≠ 0) (hparts : s.sendParts tok true (nonempty [(stay, next), (gone, targetPc s t)]) =
      some (s.goto a)) : Completes (.brv m t tok h) s fun u => GoesAndSettles s u a :=
    ⟨_, execBrv_sends ht hem hparts, s.goesAndSettles a⟩
  have htwo {g : Group} (hpc : targetPc s t ≠ next) (hs : stay ≠ 0) (hg : gone ≠ 0)
      (hd : s.grp.divide s.cur.entry tok s.pc true [(stay, next), (gone, targetPc s t)] = some g) :
      Completes (.brv m t tok h) s fun u => OnlyGroup s u ∧ u.grp = g.settle := by
    have hem : s.em ≠ 0 := fun h0 => hg (by simp only [gone, h0]; exact BitVec.zero_and)
    have hparts : s.sendParts tok true (nonempty [(stay, next), (gone, targetPc s t)]) = some (s.setGrp g) := by
      rw [nonempty_cons hs, nonempty_cons hg]
      exact (sendParts_two _ _ _ _ hpc).trans (by rw [hd]; rfl)
    refine ⟨_, execBrv_sends ht hem hparts, ⟨rfl, fun k hk => ?_⟩, ?_⟩
    · simp [State.settled, State.group_setGrp, hk]
    · simp [State.settled]
  refine ⟨fun hem => ⟨_, execBrv_idle ht hem, s.onlyPc_goto _⟩, fun hem hg => hone hem ?_, fun hem hs => hone hem ?_,
    fun hpc hem => hone hem ?_, fun hpc hs hg f hf hfree hlow hd => htwo hpc hs hg ?_,
    fun hpc hs hg hall hd => htwo hpc hs hg ?_⟩
  · have hs : stay ≠ 0 := fun hs => and_ne_zero_of_and_not hem hs hg
    rw [nonempty_cons hs, nonempty_cons_zero hg]
    exact sendParts_one ..
  · have hg : gone ≠ 0 := and_ne_zero_of_and_not hem hs
    rw [nonempty_cons_zero hs, nonempty_cons hg]
    exact sendParts_one ..
  · rw [hpc]
    by_cases hs : stay = 0
    · rw [nonempty_cons_zero hs, nonempty_cons (and_ne_zero_of_and_not hem hs)]
      exact sendParts_one ..
    · rw [nonempty_cons hs]
      by_cases hg : gone = 0
      · rw [nonempty_cons_zero hg]
        exact sendParts_one ..
      · rw [nonempty_cons hg]
        exact sendParts_same ..
  · exact divide_free s.cur.entry tok s.pc next (targetPc s t) stay gone hf hfree hlow hd
  · exact divide_deferred s.cur.entry tok s.pc next (targetPc s t) stay gone hall hd

/-- Settles O39: the uniform branches and the dividing one. -/
theorem branchForms : Obligations.BranchForms := ⟨uniformBranches, divergentBranch⟩

end Sys2Proof.Machine
end

section
/-!
PROOF. TRAP and words that are no instruction, and where control instructions trap or fault twice (R51, R112, R121, R123).
-/

namespace Sys2Proof.Machine

open Sys2Proof.Claims

variable {s : State}

/-! ## The trap of the whole split, whatever its cause -/

/-- A trap that brings no lane fault entries leaves the lane fault file, whether its cause files them or not. -/
theorem State.trap_nil (s : State) (gid e : Nat) (fm : Word32) (cause : Nat) (pc : Addr52) :
    s.trap gid e fm cause pc [] =
      if 32 < (s.group gid).depth + (if ((s.group gid).split e).mask &&& ~~~fm = 0 then 1 else 2) then s.doubleFault gid
      else s.setGroup gid ({ s.group gid with rewind := false }.pushTrap e fm cause pc
        (s.context (s.group gid).ctx).handler) := by
  simp only [State.trap, List.foldl_nil, ite_self]

theorem State.trapAll_pushes (s : State) (cause : Nat) : s.trapAll cause =
    if 32 < s.grp.stack.length + 1 then s.doubleFault s.cur.gid
    else s.setGrp ({ s.grp with rewind := false }.pushTrap s.cur.entry s.em cause s.pc (s.context s.grp.ctx).handler) := by
  have hrest : ((s.group s.cur.gid).split s.cur.entry).mask &&& ~~~s.em = 0 := BitVec.and_not_self _
  rw [State.trapAll, State.trapCur, State.trap_nil, if_pos hrest]
  rfl

/-- A trap of every lane with room on the stack (R121 with Fm = em). -/
theorem State.trapTaken (s : State) (cause : Nat) (hd : s.grp.stack.length + 1 ≤ 32) : TrapTaken s (s.trapAll cause) cause := by
  have hrest : (({ s.grp with rewind := false } : Group).split s.cur.entry).mask &&& ~~~s.em = 0 := BitVec.and_not_self _
  have hpush := Group.pushTrap_whole { s.grp with rewind := false } cause s.pc (s.context s.grp.ctx).handler hrest
  rw [State.trapAll_pushes, if_neg (by omega)]
  refine ⟨s.onlyGroup_setGrp _, ?_, ?_, fun e he hne => ?_, ?_⟩
  · rw [State.grp_setGrp, hpush]; rfl
  · rw [State.spl_setGrp, Group.split_pushTrap_self]; rfl
  · rw [State.grp_setGrp, Group.split_pushTrap_other _ _ _ _ _ he hne]; rfl
  · rw [State.grp_setGrp, hpush]
    by_cases hm : s.em = 0
    · exact .inl ⟨hm, by rw [hm]; exact lowLane_zero⟩
    · obtain ⟨-, hbit, hlow⟩ := lowLane_lowest hm
      exact .inr ⟨hbit, hlow⟩

theorem completes_trapAll {i : Instr} {cause : Nat} (hx : exec i s = .next (s.trapAll cause))
    (hd : s.grp.stack.length + 1 ≤ 32) : Completes i s fun u => TrapTaken s u cause := ⟨_, hx, s.trapTaken cause hd⟩

/-! ## Double faults (R123) -/

theorem faultContext_groups (s : State) (c : Nat) : (s.faultContext c).groups = s.groups := by
  unfold State.faultContext
  dsimp only
  split
  · rfl
  · split <;> rfl

theorem faultContext_cur (s : State) (c : Nat) : (s.faultContext c).cur = s.cur := by
  unfold State.faultContext
  dsimp only
  split
  · rfl
  · split <;> rfl

/-- A context that groups may issue in is faulted and gives up its partition (R333). -/
theorem faultContext_of_issues {c : Nat} (h : (s.context c).state = .resident ∨ (s.context c).state = .switching) :
    (s.faultContext c).context c = { s.context c with state := .faulted } ∧
      ((s.faultContext c).part (s.context c).part).resident ≠ some c ∧
      (s.faultContext c).notices = s.notices ++ [.faulted c] := by
  have hissues : (s.context c).issues = true := by simpa [Context.issues] using h
  let s1 := s.setContext c { s.context c with state := .faulted }
  have hctx : s1.context c = { s.context c with state := .faulted } := s.context_setContext_self c _
  unfold State.faultContext
  simp only [hissues, Bool.not_true, Bool.false_eq_true, if_false]
  split
  · have hgone := s1.part_setPart_self (s.context c).part { s1.part (s.context c).part with resident := none, last := some c }
    exact ⟨hctx, fun h => by simpa using (congrArg Partition.resident hgone).symm.trans h, rfl⟩
  · next hnot => exact ⟨hctx, hnot, rfl⟩

theorem faultContext_of_not_issues {c : Nat} (h : (s.context c).state ≠ .resident) (h' : (s.context c).state ≠ .switching) :
    s.faultContext c = s := by
  have hissues : (s.context c).issues = false := by simp [Context.issues, h, h']
  unfold State.faultContext
  simp [hissues]

theorem doubleFaulted (s : State) : DoubleFaulted s (s.doubleFault s.cur.gid) := by
  let u := s.setGrp { s.grp with life := .frozen }
  have hgroups : (s.doubleFault s.cur.gid).groups = u.groups := faultContext_groups u s.grp.ctx
  have hcur : (s.doubleFault s.cur.gid).cur = u.cur := faultContext_cur u s.grp.ctx
  refine ⟨?_, fun k hk => ?_, fun hissues => ?_, fun hres hsw => ?_⟩
  · have hu : u.grp = { s.grp with life := .frozen } := s.grp_setGrp _
    rw [← hu, State.grp, State.group, hgroups, hcur]; rfl
  · rw [State.group, hgroups]
    exact (s.onlyGroup_setGrp _).2 k hk
  · obtain ⟨hctx, hpart, hnotes⟩ := faultContext_of_issues (s := u) (c := s.grp.ctx) hissues
    exact ⟨hctx, hpart, (congrArg (· ++ [_]) hnotes).trans (List.append_assoc ..)⟩
  · have hsame : u.faultContext s.grp.ctx = u := faultContext_of_not_issues hres hsw
    have hd : s.doubleFault s.cur.gid = u.notify (.doubleFault s.grp.ctx s.cur.gid) :=
      congrArg (State.notify · (.doubleFault s.grp.ctx s.cur.gid)) hsame
    rw [hd]
    exact ⟨rfl, rfl⟩

theorem State.trapAll_doubleFaults (s : State) (cause : Nat) (hd : s.grp.stack.length = 32) :
    s.trapAll cause = s.doubleFault s.cur.gid := by
  rw [State.trapAll_pushes, if_pos (by omega)]

theorem completes_doubleFault {i : Instr} (hx : exec i s = .next (s.doubleFault s.cur.gid)) :
    Completes i s fun u => DoubleFaulted s u := ⟨_, hx, doubleFaulted s⟩

theorem completes_trapAll_full {i : Instr} {cause : Nat} (hx : exec i s = .next (s.trapAll cause))
    (hd : s.grp.stack.length = 32) : Completes i s fun u => DoubleFaulted s u :=
  completes_doubleFault (hx.trans (by rw [s.trapAll_doubleFaults cause hd]))

/-! ## TRAP and words that are no instruction (R51, R148) -/

/-- A code by which no handler asks Umber or the host driver. -/
theorem execTrap_plain {code : Nat} {h : Option Nat} (hc : s.spl.sup = true → code ≠ 0x7E00 ∧ code < 0x7F00) :
    exec (.trap code h) s = .next (s.trapAll (0x8000 + code)) := by
  have hx : exec (.trap code h) s = execTrap code h s := rfl
  have hask : ¬ (s.spl.sup = true ∧ code = 0x7E00) := fun ha => (hc ha.1).1 ha.2
  have hhost : ¬ (s.spl.sup = true ∧ 0x7F00 ≤ code) := fun ha => absurd (hc ha.1).2 (Nat.not_lt.2 ha.2)
  simp only [hx, execTrap, if_neg hask, if_neg hhost]

theorem trapsTaken : Claims.TrapsTaken := fun _ _ _ _ hd =>
  ⟨fun hc => completes_trapAll (execTrap_plain hc) hd, completes_trapAll rfl hd⟩

/-! ## Control instructions (R112, R123, R135, R149) -/

theorem covers_iff {tok : Nat} {em : Word32} {x : StackEntry} :
    covers tok em x = true ↔ x.kind = .join ∧ x.tok = tok ∧ em &&& ~~~x.mask = 0 := by
  simp [covers, and_assoc]

theorem any_covers_iff {tok : Nat} {em : Word32} {l : List StackEntry} :
    l.any (covers tok em) = true ↔ Covered l tok em := by
  simp only [List.any_eq_true, covers_iff, Covered]

theorem execTret_user {h : Option Nat} (hs : s.spl.sup = false) : exec (.tret h) s = .next (s.trapAll 0x20) := by
  have hx : exec (.tret h) s = execTret h s := rfl
  simp [hx, execTret, hs]

theorem execTret_stuck {h : Option Nat} (hs : s.spl.sup = true) (hno : s.grp.mayLeave s.cur.entry = false) :
    exec (.tret h) s = .next (s.doubleFault s.cur.gid) := by
  have hx : exec (.tret h) s = execTret h s := rfl
  simp [hx, execTret, hs, hno]

theorem execExit_stuck {h : Option Nat} (hs : s.spl.sup = true) (hno : s.grp.mayLeave s.cur.entry = false) :
    exec (.exit h) s = .next (s.doubleFault s.cur.gid) := by
  have hx : exec (.exit h) s = execExit h s := rfl
  simp [hx, execExit, hs, hno]

theorem mayLeave_of_top {g : Group} {e : Nat} (h : ∃ r rest, g.stack = r :: rest ∧ r.kind ≠ .trap) :
    g.mayLeave e = false := by
  obtain ⟨r, rest, hs, hr⟩ := h
  simp [Group.mayLeave, hs, hr]

theorem mayLeave_of_other {g : Group} {e : Nat}
    (h : ∃ k, k < 4 ∧ k ≠ e ∧ (g.split k).v = true ∧ (g.split k).sup = true) : g.mayLeave e = false := by
  obtain ⟨k, hk, hne, hv, hsup⟩ := h
  refine Bool.and_eq_false_iff.2 (.inr (List.all_eq_false.2 ⟨k, List.mem_range.2 hk, ?_⟩))
  simp [hne, hv, hsup]

theorem execBrv_full {m tok : Nat} {t : Off} {h : Option Nat} (ht : okTarget t)
    (hpc : targetPc s t ≠ nextPc s h (isLit t)) (hgone : s.em &&& s.maskOp m ≠ 0) (hstay : s.em &&& ~~~s.maskOp m ≠ 0)
    (hfull : 30 ≤ s.grp.stack.length ∨ 29 ≤ s.grp.stack.length ∧ ∀ e, e < 4 → (s.grp.split e).v = true) :
    exec (.brv m t tok h) s = .next (s.trapAll 0x21) := by
  have hem : s.em ≠ 0 := fun h0 => hgone (by rw [h0]; exact BitVec.zero_and)
  refine execBrv_sends (u := none) ht hem ?_
  rw [nonempty_cons hstay, nonempty_cons hgone]
  exact (sendParts_two _ _ _ _ hpc).trans (by rw [divide_full _ _ _ _ _ _ _ hfull]; rfl)

/-- The form of BRK that opens a region, with no room for its record. -/
theorem execBrk_full {m tok : Nat} {t : Off} {h : Option Nat} (ht : okTarget t) (hfull : 30 ≤ s.grp.stack.length)
    (hem : s.em ≠ 0) (hbrk : s.em &&& s.maskOp m = 0) (hcov : ¬ Covered s.grp.stack tok s.em) :
    exec (.brk m t tok h) s = .next (s.trapAll 0x21) := by
  have hx : exec (.brk m t tok h) s = execBrk m t tok h s := rfl
  have hdepth : 30 < s.grp.depth + 1 := by simp only [Group.depth]; omega
  rw [hx, execBrk]
  simp only [(targetOk_iff t).2 ht, Bool.not_true, Bool.false_eq_true, if_false, if_neg hem, if_pos hbrk,
    if_neg (mt any_covers_iff.1 hcov), if_pos hdepth]

theorem controlTraps : Claims.ControlTraps := by
  intro s sa m tok code detail t h k
  refine ⟨fun hd => ⟨fun hs => completes_trapAll (execTret_user hs) hd, fun ha => ?_, fun ht hpc hgone hstay hfull => ?_,
    fun ht hfull hem hbrk hcov => ?_, fun x hx => ?_⟩, fun hd => ⟨?_, fun hc => ?_, fun hs => ?_⟩,
    fun hs htop => ?_, fun hs hother => ?_⟩
  · have hmis : ¬ pcAligned (s.scalarTarget sa) = true := by simpa [pcAligned, State.scalarTarget] using ha
    exact ⟨completes_trapAll (congrArg _ (if_neg hmis)) hd, completes_trapAll (congrArg _ (if_neg hmis)) hd⟩
  · exact completes_trapAll (execBrv_full ht hpc hgone hstay hfull) hd
  · exact completes_trapAll (execBrk_full ht hfull hem hbrk hcov) hd
  · have hbad : ¬ targetOk (.lit x) = true := by simpa [targetOk] using hx
    exact ⟨completes_trapAll (congrArg _ (if_neg hbad)) hd, completes_trapAll (congrArg _ (if_neg hbad)) hd⟩
  · exact completes_trapAll_full rfl hd
  · exact completes_trapAll_full (execTrap_plain hc) hd
  · exact completes_trapAll_full (execTret_user hs) hd
  · exact ⟨completes_doubleFault (execTret_stuck hs (mayLeave_of_top htop)),
      completes_doubleFault (execExit_stuck hs (mayLeave_of_top htop))⟩
  · exact ⟨completes_doubleFault (execTret_stuck hs (mayLeave_of_other hother)),
      completes_doubleFault (execExit_stuck hs (mayLeave_of_other hother))⟩

end Sys2Proof.Machine
end

section
/-!
PROOF. The budget C (R51, R52): every form that names vector registers guards them, and a register that is not below C makes it
the illegal-instruction trap.
-/

namespace Sys2Proof.Machine

open Sys2Proof.Claims

variable {s : State} {i : Instr}

/-! ## The registers that a form names -/

theorem bRegs_eq (ty : Ty) (b : VOp) : bRegs ty b = vopRegs ty b := by cases b <;> rfl

theorem pairOf_eq (ty : Ty) (r : Nat) : pairOf ty r = regsOf ty r := rfl

theorem regsOf_narrow {ty : Ty} (h : ty.width ≠ 64) (r : Nat) : regsOf ty r = [r] := if_neg h

theorem vopRegs_narrow {ty : Ty} (h : ty.width ≠ 64) (b : VOp) : vopRegs ty b = vopRegs .n32 b := by
  cases b with
  | vec r => exact regsOf_narrow h r
  | _ => rfl

theorem combOk_narrow {op : Comb} {ty : Ty} (h : combOk op ty = true) : ty.width ≠ 64 := by
  cases op <;> cases ty <;> simp_all [combOk, Ty.isFp3, Ty.isInt32, Ty.width]

theorem unpkOk_narrow {ty ts : Ty} {k : Nat} (h : unpkOk ty ts k = true) : ty.width ≠ 64 := by
  cases ty <;> simp_all [unpkOk, Ty.isInt32, Ty.width]

/-! ## The trap -/

theorem fits_eq_false {rs : List Nat} (hr : ∃ r ∈ rs, s.grp.decl.c ≤ r) : s.fits rs = false := by
  simpa [State.fits] using hr

/-- A form that guards the registers rs and is else carried out as t. -/
theorem budgetTrap {rs : List Nat} {t : State} (hr : ∃ r ∈ laneRegs s i, s.grp.decl.c ≤ r)
    (hd : s.grp.stack.length + 1 ≤ 32) (hx : exec i s = .next (if s.fits rs then t else s.illegal 6))
    (hsub : ∀ r ∈ laneRegs s i, r ∈ rs) : Completes i s fun u => TrapTaken s u 0x16 := by
  obtain ⟨r, hmem, hc⟩ := hr
  have hno : ¬ s.fits rs = true := by simp [fits_eq_false ⟨r, hsub r hmem, hc⟩]
  exact completes_trapAll (hx.trans (congrArg _ (if_neg hno))) hd

/-- A tangent form, whose slots are guarded with its registers. -/
theorem budgetTrap_tangent {b : Bool} {rs : List Nat} {t : State} (hr : ∃ r ∈ laneRegs s i, s.grp.decl.c ≤ r)
    (hd : s.grp.stack.length + 1 ≤ 32) (hx : exec i s = .next (if b && s.fits rs then t else s.illegal 6))
    (hsub : ∀ r ∈ laneRegs s i, r ∈ rs) : Completes i s fun u => TrapTaken s u 0x16 := by
  obtain ⟨r, hmem, hc⟩ := hr
  have hno : ¬ (b && s.fits rs) = true := by simp [fits_eq_false ⟨r, hsub r hmem, hc⟩]
  exact completes_trapAll (hx.trans (congrArg _ (if_neg hno))) hd

/-- SRD and SWR guard the vector register that they name. -/
theorem budgetTrap_system {vx : Bool} {reg : Nat} {t : State} (hr : ∃ r ∈ (if vx then [reg] else []), s.grp.decl.c ≤ r)
    (hd : s.grp.stack.length + 1 ≤ 32) (hx : exec i s = .next (if vx && !s.fits [reg] then s.illegal 6 else t)) :
    Completes i s fun u => TrapTaken s u 0x16 := by
  cases vx with
  | false => simp at hr
  | true =>
    have hno : (true && !s.fits [reg]) = true := by simp [fits_eq_false (rs := [reg]) hr]
    exact completes_trapAll (hx.trans (congrArg _ (if_pos hno))) hd

theorem fdim_eq (g : Group) (f : Nat) : g.fdim f = (g.factor f).elim 1 Prod.snd := by
  unfold Group.fdim
  cases g.factor f <;> rfl

/-- A bad count of random bits is detail 6 as well. -/
theorem execVcvtsr_budget {vd va n h : Nat} {b : VOp} {ty : Ty} (hr : ∃ r ∈ [vd, va] ++ vopRegs .n32 b, s.grp.decl.c ≤ r) :
    exec (.vcvtsr vd va b n ty h) s = .next (s.illegal 6) := by
  have hx : exec (.vcvtsr vd va b n ty h) s = execVcvtsr vd va b n ty h s := rfl
  rw [hx, execVcvtsr]
  split
  · exact s.guardRegs_not _ hr
  · rfl

theorem execSpawn_budget {sd va entry : Nat} {h : Option Nat} (hr : ∃ r ∈ span va 8, s.grp.decl.c ≤ r) :
    exec (.spawn sd va entry h) s = .next (s.illegal 6) := by
  have hx : exec (.spawn sd va entry h) s = execSpawn sd va entry h s := rfl
  simp [hx, execSpawn, fits_eq_false hr]

theorem budgetTraps : Claims.BudgetTraps := by
  intro s i hw hr hd
  cases i with
  | calli | briv => exact budgetTrap hr hd rfl fun r h => h
  | vaddInt | vsubInt | vmulInt | vmulh | vabsd | vadds | vsubs | vminInt | vmaxInt | vand | vor | vxor | vandn | vshl | vshr
  | vsra | vrot | vbfx =>
    exact budgetTrap hr hd rfl fun r h => by simpa [laneRegs, bRegs_eq, pairOf_eq, or_assoc] using h
  | vnot | vcvt | vcmp => exact budgetTrap hr hd rfl fun r h => by simpa [laneRegs, bRegs_eq, pairOf_eq, or_assoc] using h
  | vmad => exact budgetTrap hr hd rfl fun r h => by simp [laneRegs, bRegs_eq, pairOf_eq] at h ⊢; tauto
  | vaddFp vd va b ty | vsubFp vd va b ty | vmulFp vd va b ty | vminFp vd va b ty | vmaxFp vd va b ty | vcpysgn vd va b ty =>
    simp only [Instr.wf, Bool.and_eq_true] at hw
    obtain ⟨⟨-, hty⟩, -⟩ := hw
    have ht := Ty.isFp3_narrow hty
    exact budgetTrap hr hd rfl fun r h => by
      simpa [laneRegs, bRegs_eq, pairOf_eq, regsOf_narrow ht, or_assoc] using h
  | vfma vd va b vc ty | vfms vd va b vc ty | vfnma vd va b vc ty =>
    simp only [Instr.wf, Bool.and_eq_true] at hw
    obtain ⟨⟨-, hty⟩, -⟩ := hw
    have ht := Ty.isFp3_narrow hty
    exact budgetTrap hr hd rfl fun r h => by
      simp [laneRegs, bRegs_eq, pairOf_eq, regsOf_narrow ht] at h ⊢; tauto
  | vabs vd va ty | vneg vd va ty | vrcp vd va ty | vrsq vd va ty | vsqrt vd va ty | vexp2 vd va ty | vlog2 vd va ty
  | vsin vd va ty | vcos vd va ty | vfloor vd va ty | vceil vd va ty | vtrunc vd va ty | vround vd va ty | vfract vd va ty
  | vclass vd va ty =>
    simp only [Instr.wf, Bool.and_eq_true] at hw
    obtain ⟨⟨-, hty⟩, -⟩ := hw
    have ht := Ty.isFp3_narrow hty
    exact budgetTrap hr hd rfl fun r h => by simpa [laneRegs, pairOf_eq, regsOf_narrow ht] using h
  | vgred vd va op ty | vscan vd va op ty =>
    simp only [Instr.wf, Bool.and_eq_true] at hw
    obtain ⟨-, hc⟩ := hw
    have ht := combOk_narrow hc
    exact budgetTrap hr hd rfl fun r h => by simpa [laneRegs, pairOf_eq, regsOf_narrow ht] using h
  | vshfl vd va b ty | vshup vd va b ty | vshdn vd va b ty | vshxor vd va b ty | vbcast vd va b ty | vsel vd va b mc ty =>
    simp only [Instr.wf, Bool.and_eq_true] at hw
    obtain ⟨⟨-, hty⟩, -⟩ := hw
    have ht := Ty.is32_narrow hty
    exact budgetTrap hr hd rfl fun r h => by
      simpa [laneRegs, bRegs_eq, pairOf_eq, regsOf_narrow ht, vopRegs_narrow ht, or_assoc] using h
  | vmov vd b ty =>
    simp only [Instr.wf, Bool.and_eq_true] at hw
    obtain ⟨⟨-, hty⟩, -⟩ := hw
    have ht := Ty.is32_narrow hty
    exact budgetTrap hr hd rfl fun r h => by simpa [laneRegs, bRegs_eq, pairOf_eq, regsOf_narrow ht] using h
  | vbfi | vprmt =>
    exact budgetTrap hr hd rfl fun r h => by
      simp [laneRegs, bRegs_eq, regsOf_narrow (ty := .n32) (by decide)] at h ⊢; tauto
  | vclz | vpop | vbrev => exact budgetTrap hr hd rfl fun r h => h
  | vcvtsr vd va b n ty =>
    simp only [Instr.wf, Bool.and_eq_true, bne_iff_ne] at hw
    obtain ⟨-, ht⟩ := hw
    refine completes_trapAll (execVcvtsr_budget ?_) hd
    simpa [laneRegs, bRegs_eq, pairOf_eq, regsOf_narrow ht, vopRegs_narrow ht, or_assoc] using hr
  | vrand | vrseed => exact budgetTrap hr hd rfl fun r h => by simpa [laneRegs, regRange, List.range_succ] using h
  | vpack vd va b ty ts =>
    simp only [Instr.wf, Bool.and_eq_true] at hw
    obtain ⟨⟨-, hty⟩, -⟩ := hw
    have ht := Ty.is32_narrow hty
    exact budgetTrap hr hd rfl fun r h => by simpa [laneRegs, bRegs_eq, pairOf_eq, regsOf_narrow ht] using h
  | vunpk vd va k ty ts =>
    simp only [Instr.wf, Bool.and_eq_true] at hw
    obtain ⟨-, hk⟩ := hw
    have ht := unpkOk_narrow hk
    exact budgetTrap hr hd rfl fun r h => by simpa [laneRegs, pairOf_eq, regsOf_narrow ht] using h
  | gath | scat | pld | pst | red | amg => exact budgetTrap hr hd rfl fun r h => h
  | ld | st | ldw => exact budgetTrap hr hd rfl fun r h => h
  | atom | acas => exact budgetTrap hr hd rfl fun r h => h
  | ldt vd a ty du n | stt vd a ty du n =>
    simp only [Instr.wf, Bool.and_eq_true] at hw
    have hsc : a.scalar = true := by tauto
    exact budgetTrap hr hd rfl fun r h => by simpa [laneRegs, baseRegs, hsc, regRange, span] using h
  | sld vd a | sst vd a =>
    simp only [Instr.wf, Bool.and_eq_true] at hw
    have hsc : a.scalar = true := by tauto
    simp [laneRegs, baseRegs, hsc] at hr
  | tex | texg | isect | visq => exact budgetTrap hr hd rfl fun r h => h
  | fupd | fdown | fsolve => exact budgetTrap hr hd rfl fun r h => by rw [vectorRegs, fdim_eq]; exact h
  | tseed | tset =>
    exact budgetTrap_tangent hr hd rfl fun r h => by
      simpa [laneRegs, bRegs_eq, vopRegs_narrow (ty := .f32) (by decide)] using h
  | tzero | tget | tmov => exact budgetTrap_tangent hr hd rfl fun r h => h
  | srd | swr => exact budgetTrap_system hr hd rfl
  | spawn => exact completes_trapAll (execSpawn_budget hr) hd
  | _ => simp [laneRegs] at hr

/-- Settles O40, clause by clause. -/
theorem trapsRaised : Obligations.TrapsRaised := ⟨trapsTaken, controlTraps, budgetTraps⟩

end Sys2Proof.Machine
end

section
/-!
PROOF. The tangent forms (R52, R177, R178): what the work of one lane shows, and the lane form it makes up.
-/

namespace Sys2Proof.Machine

open Sys2Proof.Claims

/-! ## Lane forms by the rules of one lane -/

/-- What the lanes of a form show, where every lane's work follows a rule on groups of the same declaration. -/
theorem Group.eachLane_rule_of_decl (g : Group) {α : Type} (em : Word32) (f : Group → Nat → Group → Group)
    (see : Nat → Group → α) (rule : Nat → α → α) (hdecl : ∀ l acc, (f g l acc).decl = acc.decl)
    (hf : ∀ l k acc, acc.decl = g.decl → l < 32 → k < 32 →
      see k (f g l acc) = if k = l then rule k (see k acc) else see k acc) {k : Nat} (hk : k < 32) :
    see k (g.eachLane em f) = if em.getLsbD k then rule k (see k g) else see k g := by
  let seen : Nat → Group → Option α := fun k acc => if acc.decl = g.decl ∧ k < 32 then some (see k acc) else none
  have other : ∀ l k acc, l < 32 → l ≠ k → seen k (f g l acc) = seen k acc := fun l k acc hl hne => by
    by_cases hc : acc.decl = g.decl ∧ k < 32
    · simp only [seen, hdecl, if_pos hc, hf l k acc hc.1 hl hc.2, if_neg (Ne.symm hne)]
    · simp only [seen, hdecl, if_neg hc]
  have same : ∀ l acc acc', l < 32 → seen l acc = seen l acc' → seen l (f g l acc) = seen l (f g l acc') :=
    fun l acc acc' hl h => by
      by_cases hc : acc.decl = g.decl <;> by_cases hc' : acc'.decl = g.decl <;>
        simp_all [seen, hf l l]
  have hpair := g.eachLane_lane em f seen other same hk
  have hdecl' : (g.eachLane em f).decl = g.decl := Group.eachLane_keep g em f Group.decl hdecl
  simp only [seen, hdecl, hdecl', true_and, hk, if_true, hf k k g rfl hk hk, ← apply_ite some, Option.some.injEq] at hpair
  exact hpair

/-- The rules of a lane's work: in lane l registers of ds take elements and, in the dual range, slots below D, and TLOST is
set where a tangent is lost; all else stands. -/
structure LaneRules (s : State) (ds : List Nat) (f : Group → Nat → Group → Group) (val : Nat → Nat → Word32 → Word32)
    (tan : Nat → Nat → Nat → Word32 → Word32) (lost : Nat → Bool) : Prop where
  keep : ∀ l acc, (f s.grp l acc).butLanes = acc.butLanes
  elem : ∀ l k acc q, acc.decl = s.grp.decl → l < 32 → k < 32 → (f s.grp l acc).readV q k =
    if k = l then (if q ∈ ds then val q k (acc.readV q k) else acc.readV q k) else acc.readV q k
  slot : ∀ l k acc q d, acc.decl = s.grp.decl → l < 32 → k < 32 → q < 256 → (f s.grp l acc).readT q d k =
    if k = l then (if q ∈ ds ∧ q < s.grp.decl.n ∧ d < s.grp.decl.d then tan q d k (acc.readT q d k) else acc.readT q d k)
    else acc.readT q d k
  tlost : ∀ l k acc, acc.decl = s.grp.decl → l < 32 → k < 32 → (f s.grp l acc).tlost.getLsbD k =
    if k = l then (acc.tlost.getLsbD k || lost k) else acc.tlost.getLsbD k

theorem LaneRules.lanesDone {s : State} {ds : List Nat} {f : Group → Nat → Group → Group} {val : Nat → Nat → Word32 → Word32}
    {tan : Nat → Nat → Nat → Word32 → Word32} {lost : Nat → Bool} (hf : LaneRules s ds f val tan lost)
    {val' : Nat → Nat → Word32} {tan' : Nat → Nat → Nat → Word32} {lost' : Nat → Bool}
    (hval : ∀ r ∈ ds, ∀ l, val r l (s.grp.readV r l) = val' r l)
    (htan : ∀ r ∈ ds, ∀ d l, d < s.grp.decl.d → tan r d l (s.grp.readT r d l) = tan' r d l)
    (hloses : ∀ l, lost l = lost' l) : LanesDone s (s.laneOp 3 ds f) ds val' tan' lost' fun _ => false := by
  have hdecl : ∀ l acc, (f s.grp l acc).decl = acc.decl := fun l acc => congrArg (fun g => g.decl) (hf.keep l acc)
  have hkeep := Group.eq_of_butLanes (Group.eachLane_keep s.grp s.em f Group.butLanes hf.keep)
  obtain ⟨honly, hsplit, hgrp, hwrote, hidle⟩ := s.laneOp_spec 3 ds (f := f) (by rw [hkeep]) (by rw [hkeep]) (by rw [hkeep])
    (by rw [hkeep])
  obtain ⟨hv, ht, hd⟩ := Group.lanes_of_eq hgrp
  have hlost : (s.laneOp 3 ds f).grp.tlost = (s.grp.eachLane s.em f).tlost :=
    (congrArg Group.tlost hgrp).trans rfl
  have hedge : (s.laneOp 3 ds f).grp.edge = s.grp.edge := (congrArg Group.edge hgrp).trans (by rw [hkeep])
  refine ⟨honly, hsplit, ?_, fun r l hl => ?_, fun r d l hr hl => ?_, fun l hl => ?_, fun l hl => ?_, hwrote, hidle⟩
  · rw [hv, ht, hlost, hedge]
    exact hgrp.trans (by rw [hkeep])
  · rw [Group.readV_congr hv, s.grp.eachLane_rule_of_decl s.em f (fun k g => g.readV r k)
      (fun k x => if r ∈ ds then val r k x else x) hdecl (fun l k acc ha hl hk => hf.elem l k acc r ha hl hk) hl]
    by_cases hr : r ∈ ds
    · simp only [hr, if_true, true_and, hval r hr]
    · simp [hr]
  · rw [Group.readT_congr hd ht, s.grp.eachLane_rule_of_decl s.em f (fun k g => g.readT r d k)
      (fun k x => if r ∈ ds ∧ r < s.grp.decl.n ∧ d < s.grp.decl.d then tan r d k x else x) hdecl
      (fun l k acc ha hl hk => hf.slot l k acc r d ha hl hk hr) hl]
    by_cases hin : r ∈ ds ∧ r < s.grp.decl.n ∧ d < s.grp.decl.d
    · obtain ⟨hds, hn, hd⟩ := hin
      simp [hds, hn, hd, htan r hds d l hd]
    · simp only [if_neg hin, ite_self]
      exact (if_neg fun ⟨hds, _, hn, hd⟩ => hin ⟨hds, hn, hd⟩).symm
  · rw [hlost, s.grp.eachLane_rule_of_decl s.em f (fun k g => g.tlost.getLsbD k) (fun k x => x || lost k) hdecl hf.tlost hl, hloses]
    by_cases hem : s.em.getLsbD l = true <;> simp [hem]
  · simp [hedge]

/-! ## One slot (R178) -/

section Slot

variable (g : Group) (r d l : Nat) (t : Word32)

@[simp] theorem Group.readT_tlostIf (b : Bool) (q c k : Nat) : (g.tlostIf b l).readT q c k = g.readT q c k := by
  unfold Group.tlostIf; split <;> rfl

theorem Group.putSlot_keep :
    g.putSlot r d l t = { g with tan := (g.putSlot r d l t).tan, tlost := (g.putSlot r d l t).tlost } := by
  unfold Group.putSlot
  split
  · rw [Group.writeT_keep]
  · unfold Group.tlostIf; split <;> rfl

@[simp] theorem Group.readV_putSlot (q k : Nat) : (g.putSlot r d l t).readV q k = g.readV q k := by
  rw [Group.putSlot_keep]; rfl

theorem Group.readT_putSlot {r l q k : Nat} (hr : r < 256) (hl : l < 32) (hq : q < 256) (hk : k < 32) (c : Nat) :
    (g.putSlot r d l t).readT q c k =
      if k = l then (if q = r ∧ g.dual r = true ∧ c = d then t else g.readT q c k) else g.readT q c k := by
  unfold Group.putSlot
  split
  · next hdual =>
    rw [Group.readT_writeT _ _ hl hk hr hq, hdual]
    by_cases hkl : k = l <;> simp [hkl]
  · next hdual =>
    rw [Group.readT_tlostIf]
    simp [hdual]

theorem Group.tlost_putSlot {k : Nat} (hk : k < 32) : (g.putSlot r d l t).tlost.getLsbD k =
    if k = l then (g.tlost.getLsbD k || (!g.dual r && !tanZero g.decl.bf16 t)) else g.tlost.getLsbD k := by
  unfold Group.putSlot
  cases hdual : g.dual r with
  | true => rw [if_pos rfl, Group.writeT_keep]; simp
  | false =>
    rw [if_neg (by simp)]
    unfold Group.tlostIf
    split
    next h => rw [Group.tlost_setTlost _ hk]; by_cases hkl : k = l <;> simp [hkl, h]
    next h => rw [Bool.not_eq_true] at h; simp [h]

end Slot

/-! ## What the tangent forms do in a lane -/

section Forms

variable {s : State} {vd j : Nat} {t : Nat → Word32} {f : Group → Nat → Group → Group}

theorem dualOnly_eq (s : State) (vd : Nat) : s.grp.dualOnly vd = if vd < s.grp.decl.n then [vd] else [] := by
  simp [Group.dualOnly, Group.dual]

theorem mem_dualOnly {q : Nat} : q ∈ s.grp.dualOnly vd ↔ q = vd ∧ vd < s.grp.decl.n := by
  rw [dualOnly_eq]
  by_cases h : vd < s.grp.decl.n <;> simp [h]

theorem dual_of_decl {g : Group} (h : g.decl = s.grp.decl) (r : Nat) : g.dual r = decide (r < s.grp.decl.n) := by
  rw [Group.dual, h]

/-- A discarded tangent is lost where it is not exactly zero. -/
theorem lostIn_slot (hj : j < s.grp.decl.d) (l : Nat) : lostIn s vd (fun d l => if d = j then t l else 0) l =
    (!s.grp.dual vd && !tanZero s.grp.decl.bf16 (t l)) := by
  have hany : ((List.range s.grp.decl.d).any fun d => !tanZero s.grp.decl.bf16 (if d = j then t l else 0)) =
      !tanZero s.grp.decl.bf16 (t l) := by
    cases hz : tanZero s.grp.decl.bf16 (t l) with
    | true =>
      refine List.any_eq_false.2 fun d _ => ?_
      by_cases hd : d = j
      · simp [hd, hz]
      · simp [hd, tanZero]
    | false => exact List.any_eq_true.2 ⟨j, List.mem_range.2 hj, by simp [hz]⟩
  have hdual : decide (s.grp.decl.n ≤ vd) = !s.grp.dual vd := by
    rw [Group.dual, ← decide_not]; simp
  rw [← hany, ← hdual]; rfl

/-- TSET and TMOV put one slot. -/
theorem laneRules_putSlot (hvd : vd < 256) (hj : j < s.grp.decl.d)
    (hf : ∀ l acc, f s.grp l acc = acc.putSlot vd j l (t l)) : LaneRules s (s.grp.dualOnly vd) f (fun _ _ x => x)
      (fun _ d l x => if d = j then t l else x) fun l => !s.grp.dual vd && !tanZero s.grp.decl.bf16 (t l) where
  keep l acc := by rw [hf, Group.putSlot_keep]; rfl
  elem l k acc q _ _ _ := by simp [hf]
  slot l k acc q d ha hl hk hq := by
    rw [hf, Group.readT_putSlot _ _ _ hvd hl hq hk, dual_of_decl ha]
    by_cases hkl : k = l
    · subst hkl
      simp only [mem_dualOnly, if_true, decide_eq_true_eq]
      grind
    · simp [hkl]
  tlost l k acc ha hl hk := by
    rw [hf, Group.tlost_putSlot _ _ _ _ _ hk, dual_of_decl ha, ha, Group.dual]
    by_cases hkl : k = l <;> simp [hkl]

/-- TSEED clears the register's slots first. -/
theorem laneRules_seedSlot (hvd : vd < 256) (hj : j < s.grp.decl.d)
    (hf : ∀ l acc, f s.grp l acc = (acc.zeroTan [vd] l).putSlot vd j l (t l)) :
    LaneRules s (s.grp.dualOnly vd) f (fun _ _ x => x) (fun _ d l _ => if d = j then t l else 0)
      fun l => !s.grp.dual vd && !tanZero s.grp.decl.bf16 (t l) where
  keep l acc := by rw [hf, Group.putSlot_keep, Group.zeroTan_singleton, Group.writeSlots_keep]; rfl
  elem l k acc q _ _ _ := by simp [hf, Group.zeroTan_singleton]
  slot l k acc q d ha hl hk hq := by
    rw [hf, Group.zeroTan_singleton, Group.readT_putSlot _ _ _ hvd hl hq hk, Group.readT_writeSlots _ _ _ hvd hl hq hk,
      Group.dual_writeSlots, dual_of_decl ha, ha]
    by_cases hkl : k = l
    · subst hkl
      simp only [mem_dualOnly, if_true, decide_eq_true_eq]
      grind
    · simp [hkl]
  tlost l k acc ha hl hk := by
    rw [hf, Group.zeroTan_singleton, Group.tlost_putSlot _ _ _ _ _ hk, Group.writeSlots_decl, Group.dual_writeSlots,
      dual_of_decl ha, ha, Group.dual, Group.writeSlots_keep]
    by_cases hkl : k = l <;> simp [hkl]

/-- TZERO of every slot. -/
theorem laneRules_zero (hvd : vd < 256) (hf : ∀ l acc, f s.grp l acc = acc.zeroTan [vd] l) :
    LaneRules s (s.grp.dualOnly vd) f (fun _ _ x => x) (fun _ _ _ _ => 0) fun _ => false where
  keep l acc := by rw [hf, Group.zeroTan_singleton, Group.writeSlots_keep]; rfl
  elem l k acc q _ _ _ := by simp [hf, Group.zeroTan_singleton]
  slot l k acc q d ha hl hk hq := by
    rw [hf, Group.zeroTan_singleton, Group.readT_writeSlots _ _ _ hvd hl hq hk, dual_of_decl ha, ha]
    by_cases hkl : k = l
    · subst hkl
      simp only [mem_dualOnly, if_true, decide_eq_true_eq]
      grind
    · simp [hkl]
  tlost l k acc ha hl hk := by rw [hf, Group.zeroTan_singleton, Group.writeSlots_keep]; simp

/-- TGET writes the element and clears the register's slots. -/
theorem laneRules_writeZero (hvd : vd < 256) (hf : ∀ l acc, f s.grp l acc = (acc.writeV vd l (t l)).zeroTan [vd] l) :
    LaneRules s [vd] f (fun _ l _ => t l) (fun _ _ _ _ => 0) fun _ => false where
  keep l acc := by rw [hf, Group.zeroTan_singleton, Group.writeSlots_keep]; rfl
  elem l k acc q _ hl hk := by
    rw [hf, Group.zeroTan_singleton, Group.readV_writeSlots, Group.readV_writeV _ _ hl hk]
    by_cases hkl : k = l <;> simp [hkl]
  slot l k acc q d ha hl hk hq := by
    rw [hf, Group.zeroTan_singleton, Group.readT_writeSlots _ _ _ hvd hl hq hk, Group.readT_writeV,
      dual_of_decl (g := acc.writeV vd l (t l)) ha, show (acc.writeV vd l (t l)).decl = s.grp.decl from ha]
    by_cases hkl : k = l
    · subst hkl
      simp only [List.mem_singleton, if_true, decide_eq_true_eq]
      grind
    · simp [hkl]
  tlost l k acc ha hl hk := by rw [hf, Group.zeroTan_singleton, Group.writeSlots_keep]; simp [Group.writeV]

end Forms

/-! ## The forms (R52, R177) -/

/-- A slot that is cleared discards nothing that TLOST tells of. -/
theorem Group.writeT_zero (g : Group) (r d l : Nat) : g.writeT r d l 0 = g.putSlot r d l 0 := by
  unfold Group.putSlot
  split
  · rfl
  · next h => simp [Group.writeT, h, Group.tlostIf, tanZero]

section Guards

variable {s : State} {slots regs dests : List Nat} {f : Group → Nat → Group → Group}

theorem tanForm_ok (hslots : ∀ k ∈ slots, k < s.grp.decl.d) (hregs : ∀ r ∈ regs, r < s.grp.decl.c) :
    tanForm slots regs dests f s = .next (s.laneOp 3 dests f) := by
  have hs : s.slotsOk slots = true := by simpa [State.slotsOk] using hslots
  have hr : s.fits regs = true := by simpa [State.fits] using hregs
  simp [tanForm, hs, hr]

/-- A slot at or above D (R52). -/
theorem tanForm_slot (hslot : ∃ k ∈ slots, s.grp.decl.d ≤ k) : tanForm slots regs dests f s = .next (s.illegal 6) := by
  have hs : s.slotsOk slots = false := by simpa [State.slotsOk] using hslot
  simp [tanForm, hs]

end Guards

/-- Settles O19: each form is the lane form of its rule, and a slot at or above D makes it the trap. -/
theorem tangentForms : Obligations.TangentForms := by
  unfold Obligations.TangentForms
  intro s vd va j k b h hfits seed none old lost keep ds wide
  have hvd : vd < s.grp.decl.c ∧ vd < 256 := hfits vd (by simp)
  have hva : va < s.grp.decl.c := (hfits va (by simp)).1
  have hb : ∀ r ∈ vd :: vopRegs .f32 b, r < s.grp.decl.c := fun r hr =>
    (hfits r (by simp [bRegs_eq] at hr ⊢; tauto)).1
  have hds : s.grp.dualOnly vd = ds := dualOnly_eq s vd
  refine ⟨fun hj => ?_, fun hk hd i hi => ?_⟩
  · have hone : ∀ d ∈ [j], d < s.grp.decl.d := by simpa using hj
    have hslot {t : Nat → Word32} := lostIn_slot (s := s) (vd := vd) (t := t) hj
    have hold : ∀ r ∈ s.grp.dualOnly vd, ∀ d l, s.grp.readT r d l = old d l := fun r hr d l => by
      rw [(mem_dualOnly.1 hr).1]
    rw [← hds]
    refine ⟨⟨_, tanForm_ok hone hb, ?_⟩, ⟨_, tanForm_ok hone hb, ?_⟩, ⟨_, tanForm_ok hone (by simpa using hvd.1), ?_⟩,
      ⟨_, tanForm_ok (by simpa using Nat.zero_lt_of_lt hj) (by simpa using hvd.1), ?_⟩,
      ⟨_, tanForm_ok hone (by simpa using ⟨hvd.1, hva⟩), ?_⟩,
      fun hk => ⟨_, tanForm_ok (by simpa using ⟨hj, hk⟩) (by simpa using ⟨hvd.1, hva⟩), ?_⟩⟩
    · exact (laneRules_seedSlot (t := seed) hvd.2 hj fun _ _ => rfl).lanesDone (fun _ _ _ => rfl) (fun _ _ _ _ _ => rfl)
        fun l => (hslot l).symm
    · exact (laneRules_putSlot (t := seed) hvd.2 hj fun _ _ => rfl).lanesDone (fun _ _ _ => rfl)
        (fun r hr d l _ => by rw [hold r hr]) fun l => (hslot l).symm
    · exact (laneRules_putSlot (t := fun _ => 0) hvd.2 hj fun l acc => acc.writeT_zero vd j l).lanesDone (fun _ _ _ => rfl)
        (fun r hr d l _ => by rw [hold r hr]) fun l => by simp [tanZero, none]
    · exact (laneRules_zero hvd.2 fun _ _ => rfl).lanesDone (fun _ _ _ => rfl) (fun _ _ _ _ _ => rfl) fun _ => rfl
    · exact (laneRules_writeZero (t := wide) hvd.2 fun _ _ => rfl).lanesDone (fun _ _ _ => rfl) (fun _ _ _ _ _ => rfl)
        fun _ => rfl
    · exact (laneRules_putSlot (t := fun l => s.grp.readT va k l) hvd.2 hj fun _ _ => rfl).lanesDone (fun _ _ _ => rfl)
        (fun r hr d l _ => by rw [hold r hr]) fun l => (hslot l).symm
  · obtain rfl | rfl | rfl | rfl | rfl | rfl | ⟨h0, rfl⟩ := hi
    iterate 6 exact completes_trapAll (tanForm_slot ⟨k, by simp, hk⟩) hd
    exact completes_trapAll (tanForm_slot ⟨0, by simp, h0.le⟩) hd

end Sys2Proof.Machine
end

section
/-!
PROOF. Words written out from the tables of the encoding (O3): the decoder runs on them.
-/

namespace Sys2Proof

/-- Settles O3: the decoder is evaluated on the words of each example. -/
theorem wordsOfTheTables : Obligations.WordsOfTheTables := by
  unfold Obligations.WordsOfTheTables
  exact ⟨rfl, rfl, rfl, rfl, rfl, rfl, rfl, rfl, rfl, rfl, rfl, rfl, rfl⟩

end Sys2Proof
end

section
/-!
PROOF. What a turn carries out (O4): the merges before a slot issues keep the clock and the slots taken up, the leaves that
a fetch caches keep the groups, and a try answers what the words at the split's PC call for.
-/

namespace Sys2Proof.Machine

open Sys2Proof.Claims

variable {s m : State} {c : Cursor} {o : Out}

/-! ## What merges and cached leaves leave unchanged -/

theorem mergeTwo_clock_busy (s : State) (gid i j : Nat) :
    (s.mergeTwo gid i j).clock = s.clock ∧ (s.mergeTwo gid i j).busy = s.busy := by
  unfold State.mergeTwo
  dsimp only
  split <;> simp

theorem mergeAll_clock_busy (s : State) (gid : Nat) (ps : List (Nat × Nat)) :
    (ps.foldl (fun s p => s.mergeTwo gid p.1 p.2) s).clock = s.clock ∧
      (ps.foldl (fun s p => s.mergeTwo gid p.1 p.2) s).busy = s.busy := by
  induction ps generalizing s with
  | nil => exact ⟨rfl, rfl⟩
  | cons p ps ih => simp [ih, mergeTwo_clock_busy]

theorem coalesceN_clock_busy (n : Nat) (s : State) (gid : Nat) :
    (State.coalesceN n s gid).clock = s.clock ∧ (State.coalesceN n s gid).busy = s.busy := by
  induction n generalizing s with
  | zero => exact ⟨rfl, rfl⟩
  | succ n ih =>
    unfold State.coalesceN
    split
    · simp [ih, mergeAll_clock_busy]
    · exact ⟨rfl, rfl⟩

theorem coalesceSlot_clock_busy (s : State) (slot : Nat) :
    (s.coalesceSlot slot).clock = s.clock ∧ (s.coalesceSlot slot).busy = s.busy := by
  unfold State.coalesceSlot
  generalize slotGroups slot = gids
  induction gids generalizing s with
  | nil => exact ⟨rfl, rfl⟩
  | cons gid gids ih =>
    simp only [List.foldl_cons, ih]
    split
    · exact coalesceN_clock_busy 36 s gid
    · exact ⟨rfl, rfl⟩

theorem cache_groups_cur (s : State) (q : Nat) (e : TlbEntry) :
    (s.cache q e).groups = s.groups ∧ (s.cache q e).cur = s.cur := by
  unfold State.cache
  dsimp only
  split <;> simp

theorem cacheLeaves_groups_cur (s : State) (q : Nat) (es : List TlbEntry) :
    (es.foldl (fun s e => s.cache q e) s).groups = s.groups ∧ (es.foldl (fun s e => s.cache q e) s).cur = s.cur := by
  induction es generalizing s with
  | nil => exact ⟨rfl, rfl⟩
  | cons e es ih => simp [ih, cache_groups_cur]

/-- What a split may run is told by its group alone, which cached leaves leave unchanged. -/
theorem legal_cacheLeaves (s : State) (q : Nat) (es : List TlbEntry) (i : Instr) :
    let t := es.foldl (fun s e => s.cache q e) s
    t.grp.legal t.spl.sup i = s.grp.legal s.spl.sup i := by
  obtain ⟨hgroups, hcur⟩ := cacheLeaves_groups_cur s q es
  simp only [State.grp, State.spl, State.group, hgroups, hcur]

/-! ## Tries -/

/-- An answer that the conditions of a try allow is the one that the model gives. -/
theorem eq_issueSplit_of_tries {slot : Nat} (h : Tries m slot c o) : o = State.issueSplit slot exec c m := by
  obtain ⟨hheld, hfault, hok⟩ := h
  unfold State.issueSplit
  cases hw : m.wordsOfSplit c.gid c.entry with
  | error e =>
    cases e with
    | held => exact hheld hw
    | fault a => exact hfault a hw
  | ok p =>
    obtain ⟨ws, es⟩ := p
    obtain ⟨hinstr, hreject⟩ := hok ws es hw
    have hlegal := legal_cacheLeaves (m.chosen c) (quarterOf c.gid) es
    dsimp only at hlegal ⊢
    cases hd : decodeWords ws with
    | reject r =>
      simp only [State.readWords, hd]
      exact hreject r hd
    | instr i =>
      obtain ⟨hyes, hno⟩ := hinstr i hd
      simp only [State.readWords, hd, hlegal]
      cases hl : (m.chosen c).grp.legal (m.chosen c).spl.sup i with
      | false => exact hno hl
      | true =>
        rw [hyes hl, fetched]
        rcases (State.occupy _ slot i).pointHere with ⟨t, _ | _⟩ <;> rfl

theorem issues_issueFrom (m : State) (slot n : Nat) (cs : List Cursor) :
    Issues m slot n cs (State.issueFrom slot exec (n + 1) cs m) := by
  refine ⟨fun hnone => by simp only [State.issueFrom, hnone], fun c o hc ho t ht => ?_⟩
  rw [eq_issueSplit_of_tries ho] at ht
  simp only [State.issueFrom, hc, ht]
  exact ⟨fun hgo => by simp [hgo], fun hstands => by simp [hstands]⟩

theorem issueFrom_of_select_none {slot : Nat} (hnone : m.select slot = none) :
    State.issueFrom slot exec (m.readySplits slot).length (m.readySplits slot) m = .next m := by
  cases (m.readySplits slot).length with
  | zero => rfl
  | succ n => exact (issues_issueFrom m slot n _).1 hnone

/-! ## The turn of a slot -/

theorem issueWith_of_busy {slot : Nat} (h : (s.coalesceSlot slot).clock < Sparse.get 0 (s.coalesceSlot slot).busy slot) :
    s.issueWith slot exec = .next (s.coalesceSlot slot) := by
  obtain ⟨hclock, hbusy⟩ := coalesceSlot_clock_busy s slot
  rw [hclock, hbusy] at h
  simp only [State.issueWith, if_pos h]

theorem issueWith_of_free {slot : Nat} (h : Sparse.get 0 (s.coalesceSlot slot).busy slot ≤ (s.coalesceSlot slot).clock) :
    s.issueWith slot exec = State.issueFrom slot exec ((s.coalesceSlot slot).readySplits slot).length
      ((s.coalesceSlot slot).readySplits slot) (s.coalesceSlot slot) := by
  obtain ⟨hclock, hbusy⟩ := coalesceSlot_clock_busy s slot
  rw [hclock, hbusy] at h
  simp only [State.issueWith, if_neg h.not_gt]

theorem step_of_issue {slot : Nat} (h : s.nextTurn.1.who = .issue slot) :
    step s = thenDo ((s.nextTurn.2.begin s.nextTurn.1).issueWith slot exec) afterIssue := by
  simp only [step, State.runTurn, h]

/-- Settles O4: each kind of turn is carried out as runTurn has it, and a slot's turn goes on as its first try answers. -/
theorem stepRunsDecoded : Obligations.StepRunsDecoded := by
  unfold Obligations.StepRunsDecoded
  intro s t u
  refine ⟨fun i hi hev => ?_, fun hidle => ?_, fun slot hslot => ?_, issues_issueFrom⟩
  · exact (show step s = u.runTurn exec t from rfl).trans (by simp only [State.runTurn, hi, hev, if_true])
  · exact (show step s = u.runTurn exec t from rfl).trans (by simp only [State.runTurn, hidle])
  · intro m
    have hstep := step_of_issue hslot
    refine ⟨fun hnot => ?_, fun hfree => by rw [hstep, issueWith_of_free hfree]; rfl⟩
    by_cases hbusy : m.clock < Sparse.get 0 m.busy slot
    · rw [hstep, issueWith_of_busy hbusy]; rfl
    · rw [hstep, issueWith_of_free (not_lt.1 hbusy)]
      exact congrArg (thenDo · afterIssue) (issueFrom_of_select_none (hnot.resolve_left hbusy))

end Sys2Proof.Machine
end

section
/-!
PROOF. Lane forms that write elements, tangents and both flags: the rules of one lane's work, and the lane form that they make
up (R31, R161). The two usual shapes are a result with +0 tangents (R87) and a result with tangents (R84).
-/

namespace Sys2Proof.Machine

open Sys2Proof.Claims

/-! ## Elements (R63) -/

section Elements

variable (g : Group) (ty : Ty) (r l x : Nat)

theorem extend32_eq_wordIn (hw : ty.width ≠ 64) (q : Nat) : extend32 ty x = wordIn ty r q x := by
  rw [wordIn, if_neg hw, extend32]
  split
  · rw [signedOf_eq_toInt, BitVec.signExtend]
  · rfl

/-- A write of an element changes vector registers and nothing else. -/
theorem Group.putElem_keep : g.putElem ty r l x = { g with v := (g.putElem ty r l x).v } := by
  unfold Group.putElem; split <;> rfl

@[simp] theorem Group.putElem_decl : (g.putElem ty r l x).decl = g.decl := by rw [Group.putElem_keep]

theorem Group.readV_putElem {l k : Nat} (hl : l < 32) (hk : k < 32) (q : Nat) :
    (g.putElem ty r l x).readV q k = if q ∈ regsOf ty r ∧ k = l then wordIn ty r q x else g.readV q k := by
  by_cases hw : ty.width = 64
  · rw [Group.putElem, if_pos hw, Group.readV_writeV _ _ hl hk, Group.readV_writeV _ _ hl hk, regsOf, if_pos hw, wordIn, if_pos hw]
    grind
  · rw [Group.putElem, if_neg hw, Group.readV_writeV _ _ hl hk, regsOf_narrow hw, extend32_eq_wordIn ty r x hw q]
    simp only [List.mem_singleton]

end Elements

/-! ## Flags and cleared tangents -/

section Flags

variable (g : Group) (b : Bool) (l : Nat)

theorem Group.tlostIf_keep : g.tlostIf b l = { g with tlost := (g.tlostIf b l).tlost } := by
  unfold Group.tlostIf; split <;> rfl

theorem Group.edgeIf_keep : g.edgeIf b l = { g with edge := (g.edgeIf b l).edge } := by
  unfold Group.edgeIf; split <;> rfl

theorem Group.tlost_tlostIf {k : Nat} (hk : k < 32) :
    (g.tlostIf b l).tlost.getLsbD k = (g.tlost.getLsbD k || (decide (k = l) && b)) := by
  cases b with
  | true => simp [Group.tlostIf, Group.tlost_setTlost _ hk]
  | false => simp [Group.tlostIf]

theorem Group.edge_edgeIf {k : Nat} (hk : k < 32) :
    (g.edgeIf b l).edge.getLsbD k = (g.edge.getLsbD k || (decide (k = l) && b)) := by
  cases b with
  | true => simp [Group.edgeIf, Group.edge_setEdge _ hk]
  | false => simp [Group.edgeIf]

theorem Group.zeroTan_cons (r : Nat) (rs : List Nat) : g.zeroTan (r :: rs) l = (g.zeroTan [r] l).zeroTan rs l := rfl

theorem Group.zeroTan_keep (rs : List Nat) : g.zeroTan rs l = { g with tan := (g.zeroTan rs l).tan } := by
  induction rs generalizing g with
  | nil => rfl
  | cons r rs ih => rw [Group.zeroTan_cons, ih, Group.zeroTan_singleton, Group.writeSlots_keep]

/-- Slots of the registers of the dual range among rs become +0 in lane l. -/
theorem Group.readT_zeroTan {rs : List Nat} (hrs : ∀ r ∈ rs, r < 256) {l k q : Nat} (hl : l < 32) (hk : k < 32) (hq : q < 256)
    (c : Nat) : (g.zeroTan rs l).readT q c k =
      if q ∈ rs ∧ k = l ∧ q < g.decl.n ∧ c < g.decl.d then 0 else g.readT q c k := by
  induction rs generalizing g with
  | nil => simp [Group.zeroTan]
  | cons r rs ih =>
    rw [Group.zeroTan_cons, ih _ fun r hr => hrs r (List.mem_cons_of_mem _ hr), Group.zeroTan_singleton,
      Group.readT_writeSlots _ _ _ (hrs r List.mem_cons_self) hl hq hk, Group.writeSlots_decl, Group.dual]
    grind

end Flags

/-! ## The rules of a lane's work -/

/-- A group without what the work of lanes writes. -/
def Group.butWork (g : Group) : Group := { g with v := [], tan := [], tlost := 0, edge := 0 }

theorem Group.eq_of_butWork {g g' : Group} (h : g.butWork = g'.butWork) :
    g = { g' with v := g.v, tan := g.tan, tlost := g.tlost, edge := g.edge } :=
  congrArg (fun x : Group => { x with v := g.v, tan := g.tan, tlost := g.tlost, edge := g.edge }) h

/-- The rules of a lane's work that may set EDGE: in lane l the registers of ds take elements and, in the dual range, slots below
D, and flags are set; all else stands. -/
structure LaneEffect (s : State) (ds : List Nat) (f : Group → Nat → Group → Group) (val : Nat → Nat → Word32)
    (tan : Nat → Nat → Nat → Word32) (lost edge : Nat → Bool) : Prop where
  keep : ∀ l acc, (f s.grp l acc).butWork = acc.butWork
  elem : ∀ l k acc q, acc.decl = s.grp.decl → l < 32 → k < 32 →
    (f s.grp l acc).readV q k = if q ∈ ds ∧ k = l then val q k else acc.readV q k
  slot : ∀ l k acc q d, acc.decl = s.grp.decl → l < 32 → k < 32 → q < 256 → (f s.grp l acc).readT q d k =
    if q ∈ ds ∧ k = l ∧ q < s.grp.decl.n ∧ d < s.grp.decl.d then tan q d k else acc.readT q d k
  tlost : ∀ l k acc, acc.decl = s.grp.decl → l < 32 → k < 32 →
    (f s.grp l acc).tlost.getLsbD k = (acc.tlost.getLsbD k || (decide (k = l) && lost k))
  edge : ∀ l k acc, acc.decl = s.grp.decl → l < 32 → k < 32 →
    (f s.grp l acc).edge.getLsbD k = (acc.edge.getLsbD k || (decide (k = l) && edge k))

section Forms

variable {s : State} {ds : List Nat} {f : Group → Nat → Group → Group} {val : Nat → Nat → Word32}
  {tan : Nat → Nat → Nat → Word32} {lost edge : Nat → Bool}

/-- The lane form of a lane's work, with results that agree with the given ones on the registers that it writes. -/
theorem LaneEffect.lanesDone (hf : LaneEffect s ds f val tan lost edge) {val' : Nat → Nat → Word32}
    {tan' : Nat → Nat → Nat → Word32} {lost' edge' : Nat → Bool} (hval : ∀ r ∈ ds, ∀ l, val r l = val' r l)
    (htan : ∀ r ∈ ds, ∀ d l, tan r d l = tan' r d l) (hlost : ∀ l, lost l = lost' l) (hedge : ∀ l, edge l = edge' l) :
    LanesDone s (s.laneOp 3 ds f) ds val' tan' lost' edge' := by
  have hdecl : ∀ l acc, (f s.grp l acc).decl = acc.decl := fun l acc => congrArg (fun g => g.decl) (hf.keep l acc)
  have hkeep := Group.eq_of_butWork (Group.eachLane_keep s.grp s.em f Group.butWork hf.keep)
  obtain ⟨honly, hsplit, hgrp, hwrote, hidle⟩ := s.laneOp_spec 3 ds (f := f) (by rw [hkeep]) (by rw [hkeep]) (by rw [hkeep])
    (by rw [hkeep])
  obtain ⟨hv, ht, hd⟩ := Group.lanes_of_eq hgrp
  have hflag : (s.laneOp 3 ds f).grp.tlost = (s.grp.eachLane s.em f).tlost ∧
      (s.laneOp 3 ds f).grp.edge = (s.grp.eachLane s.em f).edge := by rw [hgrp]; exact ⟨rfl, rfl⟩
  refine ⟨honly, hsplit, ?_, fun r l hl => ?_, fun r d l hr hl => ?_, fun l hl => ?_, fun l hl => ?_, hwrote, hidle⟩
  · rw [hv, ht, hflag.1, hflag.2]
    exact hgrp.trans (by rw [hkeep])
  · rw [Group.readV_congr hv, s.grp.eachLane_rule_of_decl s.em f (fun k g => g.readV r k)
      (fun k x => if r ∈ ds then val r k else x) hdecl (fun l k acc ha hl hk => by rw [hf.elem l k acc r ha hl hk]; grind) hl]
    grind
  · rw [Group.readT_congr hd ht, s.grp.eachLane_rule_of_decl s.em f (fun k g => g.readT r d k)
      (fun k x => if r ∈ ds ∧ r < s.grp.decl.n ∧ d < s.grp.decl.d then tan r d k else x) hdecl
      (fun l k acc ha hl hk => by rw [hf.slot l k acc r d ha hl hk hr]; grind) hl]
    grind
  · rw [hflag.1, s.grp.eachLane_rule_of_decl s.em f (fun k g => g.tlost.getLsbD k) (fun k x => x || lost k) hdecl
      (fun l k acc ha hl hk => by rw [hf.tlost l k acc ha hl hk]; grind) hl, hlost]
    grind
  · rw [hflag.2, s.grp.eachLane_rule_of_decl s.em f (fun k g => g.edge.getLsbD k) (fun k x => x || edge k) hdecl
      (fun l k acc ha hl hk => by rw [hf.edge l k acc ha hl hk]; grind) hl, hedge]
    grind

/-- A result with +0 tangents: w writes the elements. -/
theorem laneEffect_clears {w : Nat → Group → Group} (hds : ∀ r ∈ ds, r < 256) (hw : ∀ l acc, w l acc = { acc with v := (w l acc).v })
    (hread : ∀ l k acc q, l < 32 → k < 32 → (w l acc).readV q k = if q ∈ ds ∧ k = l then val q k else acc.readV q k)
    (hf : ∀ l acc, f s.grp l acc = (((w l acc).zeroTan ds l).tlostIf (lost l) l).edgeIf (edge l) l) :
    LaneEffect s ds f val (fun _ _ _ => 0) lost edge where
  keep l acc := by rw [hf, Group.edgeIf_keep, Group.tlostIf_keep, Group.zeroTan_keep, hw]; rfl
  elem l k acc q _ hl hk := by
    rw [hf, Group.edgeIf_keep, Group.tlostIf_keep, Group.zeroTan_keep]
    exact hread l k acc q hl hk
  slot l k acc q d ha hl hk hq := by
    have hdecl : (w l acc).decl = s.grp.decl := by rw [hw]; exact ha
    have htan : (w l acc).readT q d k = acc.readT q d k := by rw [hw]; rfl
    rw [hf, Group.edgeIf_keep, Group.tlostIf_keep]
    refine (Group.readT_zeroTan _ hds hl hk hq d).trans ?_
    rw [hdecl, htan]
  tlost l k acc _ _ hk := by
    rw [hf, Group.edgeIf_keep]
    refine (Group.tlost_tlostIf _ _ _ hk).trans ?_
    rw [Group.zeroTan_keep, hw]
    grind
  edge l k acc _ _ hk := by
    rw [hf, Group.edge_edgeIf _ _ _ hk, Group.tlostIf_keep, Group.zeroTan_keep, hw]
    grind

/-- An element with +0 tangents (R87). -/
theorem laneEffect_putElem {ty : Ty} {vd : Nat} {x : Nat → Nat} (hds : ∀ r ∈ regsOf ty vd, r < 256)
    (hf : ∀ l acc, f s.grp l acc =
      (((acc.putElem ty vd l (x l)).zeroTan (regsOf ty vd) l).tlostIf (lost l) l).edgeIf (edge l) l) :
    LaneEffect s (regsOf ty vd) f (fun r l => wordIn ty vd r (x l)) (fun _ _ _ => 0) lost edge :=
  laneEffect_clears hds (fun l acc => acc.putElem_keep ty vd l (x l))
    (fun l k acc q hl hk => by rw [acc.readV_putElem ty vd (x l) hl hk q]; grind) hf

/-- A narrow element with tangents, which a register outside the dual range drops (R84, R92). -/
theorem laneEffect_giveTan {ty : Ty} {vd : Nat} {x : Nat → Nat} {t : Nat → Nat → Word32} (hty : ty.width ≠ 64) (hvd : vd < 256)
    (hf : ∀ l acc, f s.grp l acc = (acc.putElem ty vd l (x l)).giveTan vd l (fun d => t d l)) :
    LaneEffect s (regsOf ty vd) f (fun r l => wordIn ty vd r (x l)) (fun _ d l => t d l) (lostIn s vd t) fun _ => false where
  keep l acc := by rw [hf, Group.giveTan_keep, Group.putElem_keep]; rfl
  elem l k acc q _ hl hk := by
    rw [hf, Group.readV_giveTan, Group.readV_putElem _ _ _ _ hl hk]
    grind
  slot l k acc q d ha hl hk hq := by
    have htan : (acc.putElem ty vd l (x l)).readT q d k = acc.readT q d k := by rw [Group.putElem_keep]; rfl
    rw [hf, Group.readT_giveTan _ _ hvd hl hq hk, Group.putElem_decl, htan, Group.dual, Group.putElem_decl, ha, regsOf_narrow hty]
    grind
  tlost l k acc ha _ hk := by
    have hlost : lostIn s vd t l = (!(acc.putElem ty vd l (x l)).dual vd &&
        (List.range s.grp.decl.d).any fun d => !tanZero s.grp.decl.bf16 (t d l)) := by
      rw [Group.dual, Group.putElem_decl, ha, ← decide_not, lostIn]
      simp only [Nat.not_lt]
      rfl
    rw [hf, Group.tlost_giveTan _ _ _ _ hk, Group.putElem_decl, ha, Bool.and_assoc, ← hlost, Group.putElem_keep]
    grind
  edge l k acc _ _ _ := by
    rw [hf, Group.giveTan_keep, Group.putElem_keep]
    simp

end Forms

/-- Tangents that are exactly zero are not lost. -/
theorem lostIn_zero (s : State) (vd l : Nat) : lostIn s vd (fun _ _ => 0) l = false := by
  simp [lostIn]

theorem carries_eq_anyTan (s : State) (rs : List Nat) (l : Nat) : carries s rs l = s.grp.anyTan rs l := rfl

end Sys2Proof.Machine
end

section
/-!
PROOF. Conversions, the generator, VPACK and VUNPK (R66, R179 to R183): the converted patterns in the words of the statements,
and each form as the work of one lane.
-/

namespace Sys2Proof.Machine

open Sys2Proof.Claims

/-! ## Patterns -/

/-- An integer is rounded to itself in every mode. -/
theorem toInt_ofInt (m : Rnd) (lo hi i : Int) : XVal.toInt m lo hi (XVal.ofInt i) = max lo (min hi i) := by
  have hup : roundsUp m (decide (i < 0)) i.natAbs 0 1 = false := by
    cases m with
    | sr bits n => simpa [roundsUp] using Nat.mod_lt bits (Nat.two_pow_pos n)
    | _ => simp [roundsUp]
  have hround : roundToInt m (decide (i < 0)) i.natAbs 1 = i := by
    simp only [roundToInt, Nat.div_one, Nat.mod_one, hup, signedNum, decide_eq_true_eq, Bool.false_eq_true, if_false]
    split <;> omega
  rw [XVal.ofInt, XVal.toInt, hround]

/-- The magnitude is rounded and takes the sign. -/
theorem roundToInt_eq (m : Rnd) (neg : Bool) (n d : Nat) :
    roundToInt m neg n d = signedNum neg (n / d + if roundsUp m neg (n / d) (n % d) d then 1 else 0) := by
  simp only [roundToInt]
  split <;> rfl

/-- Into an integer type every source goes through its value (R66). -/
theorem convert_of_int {ty ts : Ty} (hty : ty.isFloat = false) (m : Rnd) (x : Nat) :
    convert ty ts m x = patternOf ty.width (XVal.toInt m (intMin ty) (intMax ty) (valueOf ts x)) := by
  cases hts : ts.isFloat with
  | true => simp [convert, hty, hts]
  | false => simp [convert, hty, hts, valueOf, toInt_ofInt, sat, min_comm]

theorem convert_of_float {ty : Ty} (hty : ty.isFloat = true) (ts : Ty) (m : Rnd) (x : Nat) :
    convert ty ts m x = roundTo (fmtOf ty) m (valueOf ts x) := if_pos hty

/-- A rounded E4M3 magnitude is at most 448 (R60). -/
theorem roundMagnitude_e4m3_le (m : Rnd) (neg : Bool) (n d : Nat) : roundMagnitude Fmt.e4m3Fmt m neg n d ≤ 0x7E := by
  unfold roundMagnitude
  dsimp only
  generalize (if _ < 2 ^ Fmt.e4m3Fmt.frac then _ else _ : Nat) = b
  by_cases hb : Fmt.e4m3Fmt.maxBits < b
  · rw [if_pos hb]; exact Nat.le_refl _
  · rw [if_neg hb]; exact Nat.le_of_not_lt hb

theorem roundTo_e4m3_lt (m : Rnd) (x : XVal) : roundTo Fmt.e4m3Fmt m x < 2 ^ 8 := by
  cases x with
  | nan => exact (by decide : Fmt.e4m3Fmt.canonicalNaN < 2 ^ 8)
  | inf neg => cases neg <;> simp [roundTo, Fmt.e4m3Fmt, Fmt.maxBits, Fmt.signBit]
  | fin neg n d =>
    have hmag := roundMagnitude_e4m3_le m neg n d
    have hsign : (if neg = true then Fmt.e4m3Fmt.signBit else 0) ≤ 128 := by cases neg <;> decide
    simp only [roundTo]
    split
    · split <;> omega
    · split <;> omega

/-- A conversion into an 8-bit type gives 8 bits. -/
theorem convert_lt_of_width8 {ty : Ty} (hw : ty.width = 8) (ts : Ty) (m : Rnd) (x : Nat) : convert ty ts m x < 2 ^ 8 := by
  cases hty : ty.isFloat with
  | true =>
    have : ty = .e4m3 := by cases ty <;> simp_all [Ty.width, Ty.isFloat]
    rw [this]
    exact roundTo_e4m3_lt m _
  | false => rw [convert_of_int hty, hw]; exact patternOf_lt 8 _

/-- Two bytes take their place beside the half of the old word that is kept (R182). -/
theorem packWord_width8 {ty : Ty} (hw : ty.width = 8) (hi : Bool) {old x y : Nat} (hold : old < 2 ^ 32) (hx : x < 2 ^ 8)
    (hy : y < 2 ^ 8) : packWord ty hi old x y =
      if hi then old % 2 ^ 16 + 2 ^ 16 * x + 2 ^ 24 * y else x + 2 ^ 8 * y + old / 2 ^ 16 * 2 ^ 16 := by
  cases hi <;> simp [packWord, hw, putField] <;> omega

/-- Of a product and an addend below the second factor, a modulus that is a multiple of that factor reduces the first factor. -/
theorem mul_add_mod_mul {a b c z : Nat} (hc : c < b) : (z * b + c) % (a * b) = z % a * b + c := by
  rcases Nat.eq_zero_or_pos a with rfl | ha
  · simp
  · have hlt : z % a * b + c < a * b := by
      have := Nat.mul_le_mul_right b (Nat.succ_le_of_lt (Nat.mod_lt z ha))
      rw [Nat.succ_mul] at this
      omega
    have hsplit : z * b + c = a * b * (z / a) + (z % a * b + c) := by
      conv_lhs => rw [← Nat.div_add_mod z a]
      ring
    rw [hsplit, Nat.mul_add_mod, Nat.mod_eq_of_lt hlt]

/-- A rotation to the right as one to the left by what is missing to 32 (R181). -/
theorem rotateLeft_eq_rotateRight (y : Nat) {k : Nat} (hk : k < 32) :
    BitVec.ofNat 32 (rotateLeft 32 y ((32 - k % 32) % 32)) = (BitVec.ofNat 32 y).rotateRight k := by
  have hy : y % 2 ^ 32 < 2 ^ 32 := Nat.mod_lt _ (by decide)
  apply BitVec.eq_of_toNat_eq
  rw [BitVec.toNat_rotateRight, BitVec.toNat_ofNat, BitVec.toNat_ofNat, rotateLeft, Nat.mod_mod, Nat.mod_eq_of_lt hk]
  generalize y % 2 ^ 32 = z at hy
  rcases Nat.eq_zero_or_pos k with rfl | hpos
  · simp only [Nat.sub_zero, Nat.mod_self, Nat.zero_mod, Nat.pow_zero, Nat.mul_one, Nat.shiftRight_zero, Nat.shiftLeft_eq,
      Nat.mul_mod_left, Nat.or_zero, Nat.div_eq_of_lt hy, Nat.add_zero, Nat.mod_eq_of_lt hy]
  · have hmul : (2 : Nat) ^ 32 = 2 ^ k * 2 ^ (32 - k) := by rw [← Nat.pow_add]; congr 1; omega
    have hquot : z / 2 ^ k < 2 ^ (32 - k) := Nat.div_lt_of_lt_mul (hmul ▸ hy)
    have hhigh : z <<< (32 - k) % 2 ^ 32 = (z % 2 ^ k) <<< (32 - k) := by
      rw [Nat.shiftLeft_eq, Nat.shiftLeft_eq, hmul, Nat.mul_mod_mul_right]
    rw [Nat.mod_eq_of_lt (show 32 - k < 32 by omega), Nat.mod_eq_of_lt (show 32 - k < 32 by omega),
      show 32 - (32 - k) = k by omega, hhigh, Nat.lor_comm, Nat.shiftRight_eq_div_pow, ← Nat.shiftLeft_add_eq_or_of_lt hquot,
      Nat.shiftLeft_eq, hmul, mul_add_mod_mul hquot]

theorem Group.elem_lt (g : Group) (ty : Ty) (r l : Nat) : g.elem ty r l < 2 ^ ty.width := by
  unfold Group.elem
  split
  · next hw =>
    rw [hw]
    omega
  · exact Nat.mod_lt _ (Nat.two_pow_pos _)

theorem rngBits_word {x : Nat} (hx : x < 2 ^ 64) : BitVec.ofNat 32 (rngBits x) =
    (BitVec.ofNat 32 (((x / 2 ^ 18) ^^^ x) / 2 ^ 27)).rotateRight (x / 2 ^ 59) :=
  rotateLeft_eq_rotateRight _ (by omega)

/-- An element of a 32-bit bit pattern as a register holds it. -/
theorem wordIn_n32 (vd r x : Nat) : wordIn .n32 vd r x = BitVec.ofNat 32 x :=
  BitVec.eq_of_toNat_eq (by simp [wordIn, Ty.width, Ty.isSigned])

theorem wordIn_n64 (vd r x : Nat) : wordIn .n64 vd r x = BitVec.ofNat 32 (x / if r = vd then 1 else 2 ^ 32) := rfl

/-! ## The forms -/

section Forms

variable {s : State}

/-- Tangents of a conversion between floating types are delivered; into an integer type a floating source with a tangent sets
EDGE (R88). -/
theorem laneEffect_cvt {ty ts : Ty} {vd va : Nat} {x : Nat → Nat} {f : Group → Nat → Group → Group}
    (hds : ∀ r ∈ regsOf ty vd, r < 256)
    (hf : ∀ l acc, f s.grp l acc = s.grp.cvtTan ty ts vd va l (acc.putElem ty vd l (x l))) :
    let tan : Nat → Nat → Word32 := fun d l => if ts.isFloat && ty.isFloat then s.grp.readT va d l else 0
    LaneEffect s (regsOf ty vd) f (fun r l => wordIn ty vd r (x l)) (fun _ d l => tan d l) (lostIn s vd tan)
      fun l => ts.isFloat && ty.isInt && carries s [va] l := by
  intro tan
  by_cases hfl : (ts.isFloat && ty.isFloat) = true
  · have hty : ty.isFloat = true := (Bool.and_eq_true _ _ ▸ hfl).2
    have hw : ty.width ≠ 64 := by cases ty <;> simp_all [Ty.width, Ty.isFloat]
    have htan : tan = fun d l => s.grp.readT va d l := by funext d l; exact if_pos hfl
    have hedge : (fun l => ts.isFloat && ty.isInt && carries s [va] l) = fun _ => false := by
      funext l; simp [Ty.isInt, hty]
    rw [htan, hedge]
    exact laneEffect_giveTan hw (hds vd (by simp [regsOf_narrow hw])) fun l acc => by rw [hf, Group.cvtTan, if_pos hfl]
  · have htan : tan = fun _ _ => 0 := by funext d l; exact if_neg hfl
    have hlost : lostIn s vd (fun _ _ => 0) = fun _ => false := funext (lostIn_zero s vd)
    rw [htan, hlost]
    refine laneEffect_putElem hds fun l acc => ?_
    rw [hf, Group.cvtTan, if_neg hfl, carries_eq_anyTan]
    have hedge : (ts.isFloat && ty.isInt && s.grp.anyTan [va] l) = (ts.isFloat && s.grp.hasTan va l) := by
      cases hts : ts.isFloat with
      | true => simp_all [Ty.isInt, Group.anyTan]
      | false => rfl
    rw [hedge]
    rfl

theorem vecForm_fits {regs dests : List Nat} {f : Group → Nat → Group → Group} (h : Fits s regs) :
    vecForm regs dests f s = .next (s.laneOp 3 dests f) := vecForm_ok s fun r hr => (h r hr).1

end Forms

/-- VCVT and VCVTSR (R66, R88, R179, R180). -/
theorem conversions : Claims.Conversions := by
  intro s vd va n b ty ts rm h lo hi val conv tan edge
  have hconv : ∀ src m x, convert ty src m x = conv ty src m x := by
    intro src m x
    cases hty : ty.isFloat with
    | true => rw [convert_of_float hty]; simp only [conv, hty, if_true]; rfl
    | false =>
      have hmin : intMin ty = lo ty := by simp only [intMin, lo]; push_cast; rfl
      have hmax : intMax ty = hi ty := by simp only [intMax, hi]; push_cast; rfl
      have hval : val src x = valueOf src x := rfl
      rw [convert_of_int hty, hmin, hmax]
      simp only [conv, hty, hval]
      cases valueOf src x with
      | nan => rfl
      | inf g => simp [XVal.toInt, patternOf]
      | fin g p q =>
        rw [XVal.toInt, roundToInt_eq, patternOf, Nat.cast_pow, Nat.cast_ofNat]
        rfl
  refine ⟨fun _ hfits => ⟨_, vecForm_fits hfits, ?_⟩, fun h1 hn hw hfits => ?_⟩
  · exact (laneEffect_cvt (fun r hr => (hfits r (List.mem_append_left _ hr)).2) fun _ _ => rfl).lanesDone
      (fun r _ l => by rw [hconv]) (fun _ _ _ _ => rfl) (fun _ => rfl) fun _ => rfl
  · have hw64 : ty.width ≠ 64 := by omega
    have hx : exec (.vcvtsr vd va b n ty h) s = .next (s.laneOp 3 [vd] _) :=
      (if_pos ⟨h1, hn⟩).trans (vecForm_fits (by rwa [bRegs_eq] at hfits))
    refine ⟨_, hx, ?_⟩
    rw [← regsOf_narrow hw64 vd]
    exact (laneEffect_cvt (fun r hr => (hfits r (by rw [regsOf_narrow hw64] at hr; simp_all)).2) fun _ _ => rfl).lanesDone
      (fun r _ l => by rw [hconv]) (fun _ _ _ _ => rfl) (fun _ => rfl) fun _ => rfl

/-- The generator (R181), VPACK and VUNPK (R182, R183). -/
theorem randomAndPacked : Claims.RandomAndPacked := by
  intro s vd va k b ty ts hi rm h step none zero cvt S old p q
  refine ⟨fun hfits hva hva1 => ⟨_, vecForm_fits hfits, ?_⟩, fun hfits => ⟨_, vecForm_fits hfits, ?_⟩,
    fun hfits hts hw => ⟨_, vecForm_fits (by rwa [bRegs_eq] at hfits), ?_⟩, fun hfits hty hw => ⟨_, vecForm_fits hfits, ?_⟩⟩
  · refine (laneEffect_clears (val := fun r l => if r = vd then wordIn .n32 vd r (rngBits (S l)) else wordIn .n64 va r (step (S l)))
      (w := fun l acc => (acc.putElem .n32 vd l (rngBits (S l))).putElem .n64 va l (step (S l)))
      (fun r hr => (hfits r hr).2) (fun l acc => ?_) (fun l k acc q hl hk => ?_) (fun _ _ => rfl)).lanesDone
      (fun r _ l => ?_) (fun _ _ _ _ => rfl) (fun _ => rfl) fun _ => rfl
    · rw [Group.putElem_keep, Group.putElem_keep]
    · rw [Group.readV_putElem _ _ _ _ hl hk, Group.readV_putElem _ _ _ _ hl hk]
      rw [show regsOf .n64 va = [va, va + 1] from rfl, show regsOf .n32 vd = [vd] from rfl]
      grind
    · rw [wordIn_n32, wordIn_n64, rngBits_word (s.grp.elem_lt .n64 va l)]
  · refine (laneEffect_putElem (ty := .n64) (fun r hr => (hfits r (by simp [regsOf, Ty.width] at hr; simp; tauto)).2)
      (fun _ _ => rfl)).lanesDone (fun r _ l => ?_) (fun _ _ _ _ => rfl) (fun _ => rfl) fun _ => rfl
    rw [wordIn_n64, rngSeed, Nat.mod_eq_of_lt (show _ < 2 ^ 32 from s.grp.elem_lt .n32 va l)]
    rfl
  · refine (laneEffect_putElem (ty := .n32) (fun r hr => (hfits r (by simp_all [regsOf, Ty.width])).2)
      (fun _ _ => rfl)).lanesDone (fun r _ l => ?_) (fun _ _ _ _ => rfl) (fun l => ?_) fun _ => rfl
    · have hold : old l < 2 ^ 32 := s.grp.elem_lt .n32 vd l
      rw [wordIn_n32]
      by_cases hw16 : ty.width = 16
      · rw [if_pos hw16, packWord, if_pos hw16]
      · have hw8 : ty.width = 8 := by cases ty <;> simp_all [Ty.width]
        rw [if_neg hw16, packWord_width8 hw8 hi hold (convert_lt_of_width8 hw8 ..) (convert_lt_of_width8 hw8 ..)]
    · rw [bRegs_eq]; rfl
  · have hw64 : ty.width ≠ 64 := by cases ty <;> simp_all [Ty.width, Ty.is32]
    rw [← regsOf_narrow hw64 vd]
    exact (laneEffect_putElem (fun r hr => (hfits r (by rw [regsOf_narrow hw64] at hr; simp_all)).2) (fun _ _ => rfl)).lanesDone
      (fun r _ l => rfl) (fun _ _ _ _ => rfl) (fun _ => rfl) fun _ => rfl

/-- Settles O46: each form is the lane form of its element, with the tangents and flags of R87 and R88. -/
theorem conversionsAndRandom : Obligations.ConversionsAndRandom := ⟨conversions, randomAndPacked⟩

end Sys2Proof.Machine
end

section
/-!
PROOF. The steps of a loop over tiles (R237), which write every element at most once, and what the landing of an operation leaves
alone (R204, R215): the waking of splits changes no operation, no vector register and no quarter.
-/

namespace Sys2Proof.Machine

open Sys2Proof.Claims

/-! ## Folds that write each place once -/

section Folds

variable {σ ι α : Type} {f : σ → ι → σ} {see : σ → α} {l : List ι}

theorem foldl_see_none (h : ∀ z, ∀ a ∈ l, see (f z a) = see z) (z : σ) : see (l.foldl f z) = see z := by
  induction l generalizing z with
  | nil => rfl
  | cons a l ih =>
    rw [List.foldl_cons, ih (fun z b hb => h z b (List.mem_cons_of_mem _ hb)), h z a List.mem_cons_self]

/-- Where one step alone changes what is seen, the fold shows what that step makes of it. -/
theorem foldl_see_own {own : α → α} {a : ι} (hl : l.Nodup) (ha : a ∈ l) (hown : ∀ z, see (f z a) = own (see z))
    (hother : ∀ z, ∀ b ∈ l, b ≠ a → see (f z b) = see z) (z : σ) : see (l.foldl f z) = own (see z) := by
  obtain ⟨before, after, rfl⟩ := List.append_of_mem ha
  have hmem : ∀ b, b ∈ before ∨ b ∈ after → b ∈ before ++ a :: after := by simp; tauto
  have hne : ∀ b, b ∈ before ∨ b ∈ after → b ≠ a := by
    rintro b hb rfl
    rw [List.nodup_append, List.nodup_cons] at hl
    obtain ⟨-, ⟨hafter, -⟩, hdisj⟩ := hl
    exact hb.elim (fun h => hdisj b h b List.mem_cons_self rfl) hafter
  rw [List.foldl_append, List.foldl_cons,
    foldl_see_none fun z b hb => hother z b (hmem b (.inr hb)) (hne b (.inr hb)), hown,
    foldl_see_none fun z b hb => hother z b (hmem b (.inl hb)) (hne b (.inl hb))]

end Folds

/-! ## Tiles after the steps of a loop -/

section Steps

variable {s : State} {gang mode : Nat} {st : Stationary} {ty : Ty} {back : Bool}

theorem Quarter.readTile_writeTile (z : Quarter) (w : Word32) {k j i e : Nat} (hi : i < 1024) (he : e < 1024) :
    (z.writeTile j i w).readTile k e = if k = j ∧ e = i then w else z.readTile k e := by
  have hkey : 1024 * k + e = 1024 * j + i ↔ k = j ∧ e = i := by omega
  simp only [Quarter.readTile, Quarter.writeTile, Sparse.get_set, hkey]

theorem outputs_eq (mode : Nat) (ty : Ty) (back : Bool) : outputs mode ty back = 32 * (outputs mode ty back / 32) := by
  have hcols : blockCols mode = 32 * (blockCols mode / 32) := by unfold blockCols; split <;> rfl
  have hrows : blockRows mode = 32 * (blockRows mode / 32) := by unfold blockRows; split <;> rfl
  unfold outputs blockK
  split
  · split <;> omega
  · exact hcols

/-- The bits that one pass leaves for output o of a row, where the bits w stood. -/
def passWord (mode : Nat) (ty : Ty) (back : Bool) (p : PassIn) (o : Nat) (w : Word32) : Word32 :=
  BitVec.ofNat 32 (onePass mode ty back p o w.toNat)

/-- Row i of a step into the tiles from first on. -/
def Quarter.addRow (mode : Nat) (ty : Ty) (back : Bool) (p : PassIn) (first i : Nat) (z : Quarter) : Quarter :=
  (List.range (outputs mode ty back)).foldl (fun z o =>
    z.writeTile (first + o / 32) (32 * i + o % 32)
      (passWord mode ty back p o (z.readTile (first + o / 32) (32 * i + o % 32)))) z

theorem State.loopStep_eq (s : State) (gang mode : Nat) (st : Stationary) (ty : Ty) (back : Bool) (blk first : Nat) (z : Quarter) :
    s.loopStep gang mode st ty back blk first z = (List.range 32).foldl (fun z i =>
      z.addRow mode ty back (s.passIn gang mode st (rowLength mode ty back) blk i) first i) z := rfl

/-- A row writes the elements of its own row in the tiles of its outputs. -/
theorem readTile_addRow (p : PassIn) (first : Nat) {i k e : Nat} (hi : i < 32) (he : e < 1024) (z : Quarter) :
    (z.addRow mode ty back p first i).readTile k e =
      if i = e / 32 ∧ first ≤ k ∧ k < first + outputs mode ty back / 32 then
        passWord mode ty back p (32 * (k - first) + e % 32) (z.readTile k e)
      else z.readTile k e := by
  have houts := outputs_eq mode ty back
  have hwrite : ∀ (z : Quarter) (w : Word32) (o : Nat), (z.writeTile (first + o / 32) (32 * i + o % 32) w).readTile k e =
      if k = first + o / 32 ∧ e = 32 * i + o % 32 then w else z.readTile k e :=
    fun z w o => z.readTile_writeTile w (by omega) he
  unfold Quarter.addRow
  by_cases hown : i = e / 32 ∧ first ≤ k ∧ k < first + outputs mode ty back / 32
  · rw [if_pos hown]
    refine foldl_see_own (see := fun z : Quarter => z.readTile k e)
      (own := passWord mode ty back p (32 * (k - first) + e % 32)) (a := 32 * (k - first) + e % 32) List.nodup_range
      (List.mem_range.2 (by omega)) (fun z => ?_) (fun z o ho hne => ?_) z
    · have htile : first + (32 * (k - first) + e % 32) / 32 = k := by omega
      have hrow : 32 * i + (32 * (k - first) + e % 32) % 32 = e := by omega
      refine (hwrite _ _ _).trans ((if_pos (by omega)).trans ?_)
      rw [htile, hrow]
    · exact (hwrite _ _ _).trans (if_neg (by omega))
  · rw [if_neg hown]
    refine foldl_see_none (see := fun z : Quarter => z.readTile k e) (fun z o ho => ?_) z
    have := List.mem_range.1 ho
    exact (hwrite _ _ _).trans (if_neg (by omega))

/-- One step adds one pass of each row to the elements of its outputs (R237). -/
theorem readTile_loopStep (blk first : Nat) (z : Quarter) (k : Nat) {e : Nat} (he : e < 1024) :
    (s.loopStep gang mode st ty back blk first z).readTile k e =
      if first ≤ k ∧ k < first + outputs mode ty back / 32 then
        passWord mode ty back (s.passIn gang mode st (rowLength mode ty back) blk (e / 32)) (32 * (k - first) + e % 32)
          (z.readTile k e)
      else z.readTile k e := by
  have hrow : e / 32 < 32 := by omega
  rw [State.loopStep_eq]
  by_cases hk : first ≤ k ∧ k < first + outputs mode ty back / 32
  · rw [if_pos hk]
    refine foldl_see_own (see := fun z : Quarter => z.readTile k e) (own := passWord mode ty back _ _) (a := e / 32)
      List.nodup_range (List.mem_range.2 hrow) (fun z => ?_) (fun z i hi hne => ?_) z
    · exact (readTile_addRow _ _ hrow he z).trans (if_pos ⟨rfl, hk⟩)
    · exact (readTile_addRow _ _ (List.mem_range.1 hi) he z).trans (if_neg fun h => hne h.1)
  · rw [if_neg hk]
    exact foldl_see_none (see := fun z : Quarter => z.readTile k e)
      (fun z i hi => (readTile_addRow _ _ (List.mem_range.1 hi) he z).trans (if_neg fun h => hk h.2)) z

/-- A quarter without what stands in its tiles. -/
def Quarter.butTiles (x : Quarter) : Quarter := { x with tiles := [] }

theorem Quarter.eq_of_butTiles {x y : Quarter} (h : x.butTiles = y.butTiles) : x = { y with tiles := x.tiles } :=
  congrArg (fun z : Quarter => { z with tiles := x.tiles }) h

theorem Quarter.butTiles_addRow (p : PassIn) (first i : Nat) (z : Quarter) :
    (z.addRow mode ty back p first i).butTiles = z.butTiles := by
  unfold Quarter.addRow
  refine foldl_see_none (see := Quarter.butTiles) (fun z o _ => ?_) z
  rfl

theorem Quarter.butTiles_loopStep (blk first : Nat) (z : Quarter) :
    (s.loopStep gang mode st ty back blk first z).butTiles = z.butTiles := by
  rw [State.loopStep_eq]
  exact foldl_see_none (see := Quarter.butTiles) (fun z _ _ => z.butTiles_addRow _ _ _) z

/-- The quarter after n steps, step j from the block at blk j into the tiles from first + j inc on. -/
def State.loopSteps (s : State) (gang mode : Nat) (st : Stationary) (ty : Ty) (back : Bool) (blk : Nat → Nat) (first inc n : Nat)
    (z : Quarter) : Quarter :=
  (List.range n).foldl (fun z (j : Nat) => s.loopStep gang mode st ty back (blk j) (first + j * inc) z) z

theorem Quarter.butTiles_loopSteps (blk : Nat → Nat) (first inc n : Nat) (z : Quarter) :
    (s.loopSteps gang mode st ty back blk first inc n z).butTiles = z.butTiles :=
  foldl_see_none (see := Quarter.butTiles) (fun z _ _ => Quarter.butTiles_loopStep _ _ z) z

/-- A tile of no step stands. -/
theorem readTile_loopSteps_out {blk : Nat → Nat} {first inc n k e : Nat} (he : e < 1024)
    (hk : ∀ j c, j < n → c < outputs mode ty back / 32 → k ≠ first + j * inc + c) (z : Quarter) :
    (s.loopSteps gang mode st ty back blk first inc n z).readTile k e = z.readTile k e := by
  refine foldl_see_none (see := fun z : Quarter => z.readTile k e) (fun z j hj => ?_) z
  refine (readTile_loopStep _ _ z k he).trans (if_neg fun ⟨hlow, hhigh⟩ => ?_)
  exact hk j (k - (first + j * inc)) (List.mem_range.1 hj) (by omega) (by omega)

/-- Where steps do not share tiles, a tile of step j has been given that step's pass. -/
theorem readTile_loopSteps {blk : Nat → Nat} {first inc n j c e : Nat} (he : e < 1024) (hinc : outputs mode ty back / 32 ≤ inc)
    (hj : j < n) (hc : c < outputs mode ty back / 32) (z : Quarter) :
    (s.loopSteps gang mode st ty back blk first inc n z).readTile (first + j * inc + c) e =
      passWord mode ty back (s.passIn gang mode st (rowLength mode ty back) (blk j) (e / 32)) (32 * c + e % 32)
        (z.readTile (first + j * inc + c) e) := by
  refine foldl_see_own (see := fun z : Quarter => z.readTile (first + j * inc + c) e) (own := passWord mode ty back _ _)
    List.nodup_range (List.mem_range.2 hj) (fun z => ?_) (fun z i _ hne => ?_) z
  · have hout : first + j * inc + c - (first + j * inc) = c := by omega
    rw [readTile_loopStep _ _ z _ he, if_pos (by omega), hout]
  · refine (readTile_loopStep _ _ z _ he).trans (if_neg fun ⟨hlow, hhigh⟩ => ?_)
    rcases Nat.lt_or_gt_of_ne hne with h | h
    all_goals
      have := Nat.mul_le_mul_right inc (Nat.succ_le_of_lt h)
      rw [Nat.succ_mul] at this
      omega

/-- The bank after the steps, where it stood as in x before. -/
theorem tilesAre_loopSteps {blk : Nat → Nat} {first inc n : Nat} (hinc : outputs mode ty back / 32 ≤ inc) {x z : Quarter}
    (hz : z.tiles = x.tiles ∧ z.live = x.live ∧ z.owned = x.owned ∧ z.octx = x.octx ∧ z.fuse = x.fuse) :
    TilesAre x (s.loopSteps gang mode st ty back blk first inc n z)
      ((List.range n).flatMap fun j => (List.range (outputs mode ty back / 32)).map (first + j * inc + ·))
      (fun k e w => ∀ j c, j < n → c < outputs mode ty back / 32 → k = first + j * inc + c →
        w = passWord mode ty back (s.passIn gang mode st (rowLength mode ty back) (blk j) (e / 32)) (32 * c + e % 32)
          (x.readTile k e)) x.isLive := by
  obtain ⟨htiles, hlive, howned, hoctx, hfuse⟩ := hz
  have hread : ∀ k e, z.readTile k e = x.readTile k e := fun k e => by simp only [Quarter.readTile, htiles]
  have hkeep := Quarter.eq_of_butTiles (Quarter.butTiles_loopSteps (s := s) (gang := gang) (mode := mode) (st := st) (ty := ty)
    (back := back) blk first inc n z)
  refine ⟨fun k e he => ?_, fun k => ?_, ?_, ?_, ?_⟩
  · split
    · rintro j c hj hc rfl
      rw [readTile_loopSteps he hinc hj hc, hread]
    · next hk =>
      rw [readTile_loopSteps_out he (fun j c hj hc hjc => hk ?_), hread]
      exact List.mem_flatMap.2 ⟨j, List.mem_range.2 hj, List.mem_map.2 ⟨c, List.mem_range.2 hc, hjc.symm⟩⟩
  · rw [ite_self, Quarter.isLive, Quarter.isLive, hkeep, ← hlive]
  · rw [hkeep, ← howned]
  · rw [hkeep, ← hoctx]
  · rw [hkeep, ← hfuse]

end Steps

/-! ## What the end of an operation leaves alone -/

/-- Quarters, the operations of every group and its vector registers are the same: all that waking splits may change is control. -/
def SameWork (s t : State) : Prop :=
  t.quarters = s.quarters ∧ ∀ k, (t.group k).ops = (s.group k).ops ∧ (t.group k).v = (s.group k).v

theorem SameWork.refl (s : State) : SameWork s s := ⟨rfl, fun _ => ⟨rfl, rfl⟩⟩

theorem SameWork.trans {s t u : State} (h : SameWork s t) (h' : SameWork t u) : SameWork s u :=
  ⟨h'.1.trans h.1, fun k => ⟨(h'.2 k).1.trans (h.2 k).1, (h'.2 k).2.trans (h.2 k).2⟩⟩

theorem sameWork_of_eq {s t : State} (hq : t.quarters = s.quarters) (hg : t.groups = s.groups) : SameWork s t :=
  ⟨hq, fun k => by simp only [State.group, hg, and_self]⟩

theorem sameWork_setGroup (s : State) {gid : Nat} {g : Group} (hops : g.ops = (s.group gid).ops) (hv : g.v = (s.group gid).v) :
    SameWork s (s.setGroup gid g) := by
  refine ⟨rfl, fun k => ?_⟩
  rw [State.group_setGroup]
  split
  · next h => rw [h]; exact ⟨hops, hv⟩
  · exact ⟨rfl, rfl⟩

theorem sameWork_foldl {ι : Type} {f : State → ι → State} (h : ∀ s a, SameWork s (f s a)) (l : List ι) (s : State) :
    SameWork s (l.foldl f s) := by
  induction l generalizing s with
  | nil => exact .refl s
  | cons a l ih => exact (h s a).trans (ih _)

theorem sameWork_faultContext (s : State) (c : Nat) : SameWork s (s.faultContext c) := by
  refine sameWork_of_eq ?_ (faultContext_groups s c)
  unfold State.faultContext
  dsimp only
  split
  · rfl
  · split <;> rfl

theorem sameWork_trap (s : State) (gid e : Nat) (fm : Word32) (cause : Nat) (pc : Addr52) (faults : List (Nat × LaneFault)) :
    SameWork s (s.trap gid e fm cause pc faults) := by
  obtain ⟨-, ht⟩ | ⟨-, g, ht, hg, -⟩ := s.trap_cases gid e fm cause pc faults
  · rw [ht]
    have hfrozen : SameWork s (s.setGroup gid { s.group gid with life := .frozen }) := sameWork_setGroup s rfl rfl
    exact (hfrozen.trans (sameWork_faultContext _ _)).trans (sameWork_of_eq rfl rfl)
  · rw [ht]
    refine sameWork_setGroup s ?_ ?_ <;> rw [Group.pushTrap_keep, hg]

theorem sameWork_finishCounter (s : State) (gid e : Nat) (cls : Cls) (next : Addr52) :
    SameWork s (s.finishCounter gid e cls next) := by
  unfold State.finishCounter
  dsimp only
  split
  · exact (sameWork_setGroup s (by rfl) (by rfl)).trans (sameWork_trap _ _ _ _ _ _ _)
  · exact sameWork_setGroup s rfl rfl

/-- What the end of a WAITB makes of the group: horizons, critical depth and a scalar register. -/
theorem Group.work_critStep (g : Group) (clock : Nat) (o : MemOrd) (crit : Bool) :
    (g.critStep clock o crit).ops = g.ops ∧ (g.critStep clock o crit).v = g.v := by
  unfold Group.critStep Group.raiseCrit Group.lowerCrit
  grind

theorem Group.work_joinHorizons (g : Group) : g.joinHorizons.ops = g.ops ∧ g.joinHorizons.v = g.v := by
  simp only [Group.joinHorizons, and_self]

theorem Group.work_waited (g : Group) (r : Nat) (x : Word64) (q : RegId) (τ : Stamp) :
    (((g.writeS r x).noteWrite q).mergeHorizon τ).ops = g.ops ∧ (((g.writeS r x).noteWrite q).mergeHorizon τ).v = g.v := by
  rw [Group.noteWrite_keep, Group.writeS_keep]
  exact ⟨rfl, rfl⟩

theorem sameWork_finishBarrier (s : State) (gid e bar gen sd : Nat) (acq crit : Bool) (next : Addr52) :
    SameWork s (s.finishBarrier gid e bar gen sd acq crit next) := by
  unfold State.finishBarrier
  dsimp only
  generalize hu : (if acq = true ∧ ((s.gang (s.group gid).gang).bar bar).collSince gen = true then
    s.setDie (dieOf gid) { s.die (dieOf gid) with peerBuf := [] } else s) = u
  have hkeep : SameWork s u := by
    rw [← hu]
    split
    · exact sameWork_of_eq rfl rfl
    · exact .refl s
  refine hkeep.trans (sameWork_setGroup u ?_ ?_)
  · rw [Group.setSplit_ops, (hkeep.2 gid).1]
    split
    · rw [(Group.work_critStep _ _ _ _).1, (Group.work_joinHorizons _).1, (Group.work_waited _ _ _ _ _).1]
    · exact (Group.work_waited _ _ _ _ _).1
  · rw [Group.setSplit_v, (hkeep.2 gid).2]
    split
    · rw [(Group.work_critStep _ _ _ _).2, (Group.work_joinHorizons _).2, (Group.work_waited _ _ _ _ _).2]
    · exact (Group.work_waited _ _ _ _ _).2

theorem sameWork_wakeSplit (s : State) (gid e : Nat) : SameWork s (s.wakeSplit gid e) := by
  unfold State.wakeSplit
  dsimp only
  split
  · split
    · split
      · exact sameWork_finishCounter _ _ _ _ _
      · exact .refl s
    · split
      · exact sameWork_finishBarrier _ _ _ _ _ _ _ _ _
      · exact .refl s
    · exact .refl s
  · exact .refl s

theorem sameWork_wakeGang (s : State) (gang : Nat) : SameWork s (s.wakeGang gang) := by
  have hgroup : ∀ (s : State) (gid : Nat), SameWork s (s.wakeGroup gid) := fun s gid =>
    sameWork_foldl (f := fun s e => s.wakeSplit gid e) (fun s e => sameWork_wakeSplit s gid e) (List.range 4) s
  exact sameWork_foldl (f := fun s (p : Nat × Group) => s.wakeGroup p.1) (fun s p => hgroup s p.1) _ s

theorem sameWork_checkBarrier (s : State) (gang b : Nat) (x : Barrier) : SameWork s (s.checkBarrier gang b x) := by
  unfold State.checkBarrier
  dsimp only
  have hset : SameWork s (s.setGang gang ((s.gang gang).setBar b x.check.1)) := sameWork_of_eq rfl rfl
  split
  · refine hset.trans (SameWork.trans ?_ (sameWork_wakeGang _ _))
    exact sameWork_of_eq rfl rfl
  · exact hset

/-! ## An operation that has been carried out -/

theorem Group.op?_setOp {g : Group} {o x : Op} (h : g.op? x.id = some o) : (g.setOp x).op? x.id = some x := by
  have hid : ((fun y : Op => decide (y.id = x.id)) ∘ fun y => if y.id = x.id then x else y) = fun y => decide (y.id = x.id) := by
    funext y
    by_cases hy : y.id = x.id <;> simp [hy]
  have hfound : g.ops.find? (fun y => decide (y.id = x.id)) = some o := h
  have hoid : o.id = x.id := by simpa using List.find?_some hfound
  rw [Group.op?, Group.setOp, List.find?_map, hid, hfound]
  simp [hoid]

/-- The operation of a group is put back as carried out, whatever has been counted of it. -/
theorem carriedOut_setOp {s u : State} {gid st : Nat} {o : Op} {ws : List Pending} (hu : u.group gid = s.group gid)
    (ho : (s.group gid).op? o.id = some o) (c : Nat) :
    CarriedOut s (u.setOp gid { { o with begun := true, writes := ws }.raise st with counted := c }) gid o st ws := by
  refine ⟨{ { o with begun := true, writes := ws }.raise st with counted := c }, ?_, rfl, rfl, rfl, rfl, rfl, ?_⟩
  · rw [State.setOp, State.group_setGroup_self, hu]
    exact Group.op?_setOp (x := { { o with begun := true, writes := ws }.raise st with counted := c }) ho
  · rw [State.setOp, State.group_setGroup_self, hu]
    rfl

/-- A landing puts the operation back and at most wakes splits. -/
theorem landed_sameWork (u : State) (gid : Nat) (x : Op) (n : Nat) (τ : Stamp) :
    ∃ c, SameWork (u.setOp gid { x with counted := c }) (u.landed gid x n τ) := by
  unfold State.landed
  by_cases h : failing x.status ∨ n = 0
  · exact ⟨x.counted, by rw [if_pos h]; exact .refl _⟩
  · refine ⟨x.counted + n, ?_⟩
    rw [if_neg h]
    dsimp only
    split
    · exact sameWork_checkBarrier _ _ _ _
    · exact .refl _

/-- Landing wakes splits, and leaves the operation as it has been carried out. -/
theorem carriedOut_of_sameWork {s t u : State} {gid st : Nat} {o : Op} {ws : List Pending} (h : CarriedOut s t gid o st ws)
    (hu : SameWork t u) : CarriedOut s u gid o st ws := by
  obtain ⟨o', hop, hbegun, hstatus, hwrites, hkind, hdone, hv⟩ := h
  exact ⟨o', by rw [Group.op?, (hu.2 gid).1]; exact hop, hbegun, hstatus, hwrites, hkind, hdone, (hu.2 gid).2.trans hv⟩

theorem executed_spec {s u : State} {gid st n : Nat} {o : Op} {ws : List Pending} (hu : u.group gid = s.group gid)
    (ho : (s.group gid).op? o.id = some o) :
    CarriedOut s (u.executed gid o st n ws) gid o st ws ∧ (u.executed gid o st n ws).quarters = u.quarters := by
  obtain ⟨c, hland⟩ := landed_sameWork u gid ({ o with begun := true, writes := ws }.raise st) n []
  exact ⟨carriedOut_of_sameWork (carriedOut_setOp hu ho c) hland, hland.1⟩

end Sys2Proof.Machine
end

section
/-!
PROOF. MLOOP as the sequencer carries it out (R224, R226, R232, R237), and what the statement says of one state.
-/

namespace Sys2Proof.Machine

open Sys2Proof.Claims

/-! ## The one operation that the sequencer may take -/

theorem mem_of_mem_firstOfGroups {l : List OpRef} {r : OpRef} (h : r ∈ firstOfGroups l) : r ∈ l := by
  induction l with
  | nil => exact h
  | cons a l ih =>
    rcases List.mem_cons.1 h with rfl | h
    · exact List.mem_cons_self
    · exact List.mem_cons_of_mem _ (ih (List.mem_filter.1 h).1)

/-- Where all waiting operations are of one group, only the oldest may go first. -/
theorem firstOfGroups_of_one {r : OpRef} {l : List OpRef} (h : ∀ x ∈ l, x.gid = r.gid) : firstOfGroups (r :: l) = [r] := by
  rw [firstOfGroups, List.filter_eq_nil_iff.2 fun x hx => by simp [h x (mem_of_mem_firstOfGroups hx)]]

theorem State.draining_eq_false {s : State} {q : Nat}
    (h : ∀ p ∈ s.groups, p.1 / 1024 = q → ∀ z ∈ p.2.ops, z.cls = .mx → z.done = false → z.writes = []) :
    s.draining q = false := by
  simp only [State.draining, List.any_eq_false, Bool.and_eq_true, decide_eq_true_eq, quarterOf, not_and, List.any_eq_true,
    not_exists, Bool.not_eq_true', beq_iff_eq, and_imp]
  exact fun p hp hq z hz hcls hdone hwrites => hwrites (h p hp (of_decide_eq_true hq) z hz hcls hdone)

/-- The state once the operation has left the sequencer. -/
def State.taken (s : State) (q : Nat) (r : OpRef) : State :=
  s.setQuarter q { s.quarter q with seq := (s.quarter q).seq.erase r }

theorem exec_nextAtArray {s : State} {q gid : Nat} {o : Op} {m : MatrixOp} {rest : List OpRef}
    (h : NextAtArray s q gid o m rest) :
    exec (.matrixOperationExecute q) s = .next ((s.taken q ⟨gid, o.id⟩).doMatrix gid o m) := by
  obtain ⟨hseq, hrest, -, hop, hkind, hclock, hpower, hwrites, hblocked⟩ := h
  have hwait : firstOfGroups (s.quarter q).seq = [⟨gid, o.id⟩] := by rw [hseq]; exact firstOfGroups_of_one hrest
  have hpick : [(⟨gid, o.id⟩ : OpRef)][s.pick 1]? = some ⟨gid, o.id⟩ := by rw [State.pick, Nat.mod_one]; rfl
  have hexec : exec (.matrixOperationExecute q) s = execMatrixOperationExecute q s := rfl
  rw [hexec, execMatrixOperationExecute]
  simp only [hwait, List.length_singleton, hpick, hop, hkind, hclock, State.draining_eq_false hwrites, hpower, hblocked,
    Bool.not_true, Bool.or_self, Bool.false_eq_true, if_false]
  rfl

/-! ## The operand and the status -/

section Stat

variable {x : Quarter} {ctx : Nat}

/-- The operand of the context itself is as it was, where the table is in canonical form. -/
theorem stat_staleOthers (hwf : Sparse.wf none x.stat = true) :
    Sparse.get none (x.staleOthers ctx).stat ctx = Sparse.get none x.stat ctx := by
  rw [Quarter.staleOthers, Sparse.get_mapVals _ hwf]
  split
  · next h => exact h.symm
  · exact if_pos rfl

/-- FUSE, SHAD and TYPE of an MLOOP (R226). -/
def loopFault (lead : Bool) (ty : Ty) (st : Option Stationary) : Nat :=
  (if lead then 0 else 0x1000) + match st with
    | none => 0x800
    | some st => if st.ty = ty then 0 else 0x2000

theorem specialBits_and (w : Nat) : specialBits .f32 w &&& 0xFFFFFCFF = 0 := by
  unfold specialBits
  split <;> rfl

/-- Bits that no step of a fold sets are not set. -/
theorem foldl_and_eq_zero {ι : Type} {f : Nat → ι → Nat} {mask : Nat} {l : List ι}
    (hf : ∀ st a, st &&& mask = 0 → f st a &&& mask = 0) {st : Nat} (hst : st &&& mask = 0) : l.foldl f st &&& mask = 0 := by
  induction l generalizing st with
  | nil => exact hst
  | cons a l ih => exact ih (hf st a hst)

/-- INF and NAN are the only bits of what tiles hold. -/
theorem special_and (x : Quarter) (ks : List Nat) : x.special ks &&& 0xFFFFFCFF = 0 := by
  unfold Quarter.special
  refine foldl_and_eq_zero (fun st k hst => foldl_and_eq_zero (fun st w hst => ?_) hst) (Nat.zero_and _)
  rw [Nat.and_or_distrib_right, hst, specialBits_and, Nat.zero_or]

end Stat

/-! ## MLOOP carried out -/

section Mloop

variable {u : State} {gid : Nat} {o : Op} {r : Nat × Nat} {back : Bool} {ty : Ty} {addr : Nat} {incS : Int} {incA n : Nat}

/-- The quarter of the group once MLOOP has marked the operands of other contexts stale (R232). -/
def State.loopQuarter (u : State) (gid : Nat) : Quarter := (u.quarter (quarterOf gid)).staleOthers (u.group gid).ctx

theorem doMloop_faults (hn : 0 < n) {bad : Nat} (hbad : bad ≠ 0)
    (hfault : loopFault ((u.loopQuarter gid).leads (quarterOf gid)) ty
      (Sparse.get none (u.loopQuarter gid).stat (u.group gid).ctx) = bad) :
    u.doMloop gid o (some r) back ty addr incS incA n =
      (u.setQuarter (quarterOf gid) (u.loopQuarter gid)).executed gid o bad 0 [] := by
  unfold State.loopQuarter at hfault ⊢
  unfold State.doMloop
  dsimp only
  cases hst : Sparse.get none ((u.quarter (quarterOf gid)).staleOthers (u.group gid).ctx).stat (u.group gid).ctx with
  | none =>
    rw [hst] at hfault
    subst hfault
    simp only [if_neg hn.ne', Option.isNone_none, if_true]
    rfl
  | some st =>
    rw [hst] at hfault
    subst hfault
    simp only [if_neg hn.ne', Option.isNone_some]
    exact if_pos hbad

/-- The quarter after the steps of a loop whose operand is st (R237). -/
def State.loopEnd (u : State) (gid : Nat) (st : Stationary) (back : Bool) (addr : Nat) (incS : Int) (first incA n : Nat) : Quarter :=
  let x := u.loopQuarter gid
  u.loopSteps (u.group gid).gang x.fuse st st.ty back (fun j => ((addr : Int) + (j : Int) * incS).toNat) first incA n
    { x with stat := Sparse.set none x.stat (u.group gid).ctx (some st) }

theorem doMloop_runs (hn : 0 < n) {st : Stationary} (hlead : (u.loopQuarter gid).leads (quarterOf gid) = true)
    (hst : Sparse.get none (u.loopQuarter gid).stat (u.group gid).ctx = some st) (hstale : st.stale = false) :
    ∃ ks, u.doMloop gid o (some r) back st.ty addr incS incA n =
      (u.setQuarter (quarterOf gid) (u.loopEnd gid st back addr incS r.1 incA n)).executed gid o
        (u.blockStatus (u.group gid).gang (u.loopQuarter gid).fuse st.ty back addr incS n |||
          (u.loopEnd gid st back addr incS r.1 incA n).special ks) o.nominal [] := by
  refine ⟨(List.range n).flatMap fun k => span (r.1 + k * incA) (outputs (u.loopQuarter gid).fuse st.ty back / 32), ?_⟩
  unfold State.loopEnd State.loopQuarter at *
  unfold State.doMloop
  dsimp only
  rw [hst]
  simp only [hlead, if_true, if_neg hn.ne', Option.isNone_some, hstale, Bool.false_eq_true, if_false, ne_eq, not_true,
    Nat.zero_or]
  rfl

end Mloop

end Sys2Proof.Machine
end

section
/-!
PROOF. The statement on MLOOP (O30), state by state: it holds where the table of stationary operands is in canonical form, and a
state whose table is not shows that it does not hold of all.
-/

namespace Sys2Proof.Machine

open Sys2Proof.Claims

/-- What the statement says of one state. -/
def MatrixLoopsAt (s : State) (q gid : Nat) (o : Op) (m : MatrixOp) (rest : List OpRef) : Prop :=
  NextAtArray s q gid o m rest →
  let x := s.quarter q
  let g := s.group gid
  let lead := if x.fuse = 0 then q % 4 else x.lead
  ∀ (r : Nat × Nat) (back : Bool) (ty : Ty) (addr : Nat) (incS : Int) (incA n : Nat),
  m = .mloop (some r) back ty addr incS incA n → 0 < n →
  (∀ bad, bad = (if lead = q % 4 then 0 else 0x1000) + (match Sparse.get none x.stat g.ctx with
      | none => 0x800
      | some st => if st.ty = ty then 0 else 0x2000) → bad ≠ 0 →
    Completes (.matrixOperationExecute q) s fun t => CarriedOut s t gid o bad [] ∧
      TilesAre x (t.quarter q) [] (fun _ _ _ => True) fun _ => true) ∧
  (∀ st, lead = q % 4 → Sparse.get none x.stat g.ctx = some st → st.ty = ty → st.stale = false →
    let outs := if back then depthOf x.fuse ty else colsOf x.fuse
    let row := if back then colsOf x.fuse else depthOf x.fuse ty
    let read := (List.range n).foldl (fun st (k : Nat) => st |||
      (s.gang g.gang).spadStatus ((addr : Int) + (k : Int) * incS).toNat (blockOf ty row)) 0
    outs / 32 ≤ incA →
    Completes (.matrixOperationExecute q) s fun t =>
      (∃ b, b &&& 0xFFFFFCFF = 0 ∧ CarriedOut s t gid o (read ||| b) []) ∧
      TilesAre x (t.quarter q) ((List.range n).flatMap fun k => (List.range (outs / 32)).map (r.1 + k * incA + ·))
        (fun k e w => ∀ j c, j < n → c < outs / 32 → k = r.1 + j * incA + c →
          w = BitVec.ofNat 32 (onePass x.fuse ty back
            (s.passIn g.gang x.fuse st row ((addr : Int) + (j : Int) * incS).toNat (e / 32)) (32 * c + e % 32)
            (x.readTile k e).toNat))
        x.isLive)

theorem matrixLoops_iff : Obligations.MatrixLoops ↔ ∀ s q gid o m rest, MatrixLoopsAt s q gid o m rest := Iff.rfl

section Canonical

variable {s : State} {q gid : Nat} {o : Op} {m : MatrixOp} {rest : List OpRef}

theorem loopQuarter_taken (hq : gid / 1024 = q) (r : OpRef) : (s.taken q r).loopQuarter gid =
    ({ s.quarter q with seq := (s.quarter q).seq.erase r } : Quarter).staleOthers (s.group gid).ctx := by
  have hquarter : (s.taken q r).quarter (quarterOf gid) = { s.quarter q with seq := (s.quarter q).seq.erase r } := by
    rw [show quarterOf gid = q from hq]
    exact State.quarter_setQuarter_self ..
  rw [State.loopQuarter, hquarter]
  rfl

/-- The sequencer and the statement see the same lead, and in a canonical table the same operand. -/
theorem leads_loopQuarter (hq : gid / 1024 = q) (r : OpRef) : ((s.taken q r).loopQuarter gid).leads (quarterOf gid) =
    decide ((if (s.quarter q).fuse = 0 then q % 4 else (s.quarter q).lead) = q % 4) := by
  rw [loopQuarter_taken hq, show quarterOf gid = q from hq]
  rfl

theorem stat_loopQuarter (hq : gid / 1024 = q) (hwf : Sparse.wf none (s.quarter q).stat = true) (r : OpRef) :
    Sparse.get none ((s.taken q r).loopQuarter gid).stat (s.group gid).ctx =
      Sparse.get none (s.quarter q).stat (s.group gid).ctx := by
  rw [loopQuarter_taken hq]
  exact stat_staleOthers (x := { s.quarter q with seq := _ }) hwf

/-- The operation is carried out with a status, and leaves w as the quarter. -/
theorem executed_onQuarter (hop : (s.group gid).op? o.id = some o) (r : OpRef) (w : Quarter) (st n : Nat) :
    CarriedOut s (((s.taken q r).setQuarter q w).executed gid o st n []) gid o st [] ∧
      (((s.taken q r).setQuarter q w).executed gid o st n []).quarter q = w := by
  obtain ⟨hdone, hquarters⟩ := executed_spec (s := s) (u := (s.taken q r).setQuarter q w) (st := st) (n := n) (ws := []) rfl hop
  refine ⟨hdone, ?_⟩
  rw [State.quarter, hquarters]
  exact State.quarter_setQuarter_self ..

/-- The steps of a loop start from a bank that stands as the sequencer found it. -/
theorem loopEnd_taken (hq : gid / 1024 = q) (r : OpRef) (st : Stationary) (back : Bool) (addr : Nat) (incS : Int)
    (first incA n : Nat) : ∃ z : Quarter,
      (s.taken q r).loopEnd gid st back addr incS first incA n =
        (s.taken q r).loopSteps (s.group gid).gang (s.quarter q).fuse st st.ty back
          (fun j => ((addr : Int) + (j : Int) * incS).toNat) first incA n z ∧
      z.tiles = (s.quarter q).tiles ∧ z.live = (s.quarter q).live ∧ z.owned = (s.quarter q).owned ∧
      z.octx = (s.quarter q).octx ∧ z.fuse = (s.quarter q).fuse := by
  rw [State.loopEnd, loopQuarter_taken hq]
  exact ⟨_, rfl, rfl, rfl, rfl, rfl, rfl⟩

/-- Where the table of stationary operands is in canonical form, the statement holds of the state. -/
theorem matrixLoopsAt_of_canonical (hwf : Sparse.wf none (s.quarter q).stat = true) : MatrixLoopsAt s q gid o m rest := by
  intro hnext x g lead r back ty addr incS incA n hm hn
  subst hm
  have hexec := exec_nextAtArray hnext
  obtain ⟨-, -, hq, hop, -⟩ := hnext
  have hstat := stat_loopQuarter hq hwf ⟨gid, o.id⟩
  have hleads := leads_loopQuarter (s := s) hq ⟨gid, o.id⟩
  have hquarterOf : quarterOf gid = q := hq
  refine ⟨fun bad hbad hbad0 => ?faults, fun st hlead hst hty hstale => ?runs⟩
  case faults =>
    have hfault : loopFault (((s.taken q ⟨gid, o.id⟩).loopQuarter gid).leads (quarterOf gid)) ty
        (Sparse.get none ((s.taken q ⟨gid, o.id⟩).loopQuarter gid).stat g.ctx) = bad := by
      rw [hstat, hleads, hbad]
      exact congrArg₂ (· + ·) (by simp only [decide_eq_true_eq, lead, x]) rfl
    have hrun := doMloop_faults (o := o) (r := r) (back := back) (addr := addr) (incS := incS) (incA := incA) hn hbad0 hfault
    rw [hquarterOf] at hrun
    obtain ⟨hdone, hquarter⟩ := executed_onQuarter (q := q) hop ⟨gid, o.id⟩ ((s.taken q ⟨gid, o.id⟩).loopQuarter gid) bad 0
    refine ⟨_, hexec.trans (congrArg _ hrun), hdone, ?_⟩
    rw [hquarter, loopQuarter_taken hq]
    exact ⟨fun _ _ _ => rfl, fun _ => rfl, rfl, rfl, rfl⟩
  case runs =>
    subst hty
    intro outs row read hinc
    obtain ⟨ks, hrun⟩ := doMloop_runs (o := o) (r := r) (back := back) (addr := addr) (incS := incS) (incA := incA) hn
      (by rw [hleads]; exact decide_eq_true hlead) (hstat.trans hst) hstale
    have hread : (s.taken q ⟨gid, o.id⟩).blockStatus g.gang ((s.taken q ⟨gid, o.id⟩).loopQuarter gid).fuse st.ty back addr incS n =
        read := by rw [loopQuarter_taken hq]; rfl
    rw [show (s.taken q ⟨gid, o.id⟩).group gid = g from rfl, hquarterOf, hread] at hrun
    obtain ⟨hdone, hquarter⟩ := executed_onQuarter (q := q) hop ⟨gid, o.id⟩
      ((s.taken q ⟨gid, o.id⟩).loopEnd gid st back addr incS r.1 incA n) (read ||| Quarter.special _ ks) o.nominal
    obtain ⟨z, hend, hz⟩ := loopEnd_taken (s := s) hq ⟨gid, o.id⟩ st back addr incS r.1 incA n
    refine ⟨_, hexec.trans (congrArg _ hrun), ⟨_, special_and _ ks, hdone⟩, ?_⟩
    rw [hquarter, hend]
    exact tilesAre_loopSteps hinc hz

end Canonical

/-! ## A table that is not in canonical form -/

/-- An MLOOP of E4M3 by group 0. -/
def shadowedLoop : MatrixOp := .mloop (some (0, 8)) false .e4m3 0 0 8 1

def shadowedOp : Op :=
  { State.reset.newOp .mx (.matrix shadowedLoop) with id := 5 }

/-- The table of quarter 0 lists for context 0 an entry that reads as none, and behind it an operand of BF16. -/
def shadowed : State :=
  { State.reset with
    groups := [(0, { Group.free with ops := [shadowedOp] })]
    dies := [(0, { Die.reset with grants := [⟨.op 0 5, 1, 0⟩] })]
    quarters := [(0, { Quarter.reset with
      seq := [⟨0, 5⟩], stat := [(0, none), (0, some ⟨0, .bf16, false, 0, 0, [], [], [], false⟩)] })] }

theorem shadowed_next : NextAtArray shadowed 0 0 shadowedOp shadowedLoop [] := by unfold NextAtArray; decide +kernel

/-- The sequencer finds the operand behind the entry, and it is of another type. -/
theorem shadowed_fault : loopFault (((shadowed.taken 0 ⟨0, 5⟩).loopQuarter 0).leads 0) .e4m3
    (Sparse.get none ((shadowed.taken 0 ⟨0, 5⟩).loopQuarter 0).stat 0) = 0x2000 := by decide +kernel

theorem shadowed_runs : exec (.matrixOperationExecute 0) shadowed = .next (((shadowed.taken 0 ⟨0, 5⟩).setQuarter 0
    ((shadowed.taken 0 ⟨0, 5⟩).loopQuarter 0)).executed 0 shadowedOp 0x2000 0 []) :=
  (exec_nextAtArray shadowed_next).trans (congrArg Host.Outcome.next
    (doMloop_faults (u := shadowed.taken 0 ⟨0, 5⟩) (r := (0, 8)) (back := false) (addr := 0) (incS := 0) (incA := 8)
      (n := 1) (by decide) (by decide) shadowed_fault))

/-- Refutes O30: where the operand table is not in canonical form the loop meets an operand where the statement reads none, and
its status is TYPE where the statement has SHAD. -/
theorem not_matrixLoops : ¬ Obligations.MatrixLoops := by
  intro h
  obtain ⟨t, ht, ⟨o', hop, -, hshad, -⟩, -⟩ :=
    (h shadowed 0 0 shadowedOp shadowedLoop [] shadowed_next (0, 8) false .e4m3 0 0 8 1 rfl (by decide)).1 0x800
      (by decide +kernel) (by decide)
  obtain ⟨⟨o'', hop', -, htype, -⟩, -⟩ := executed_onQuarter (s := shadowed) (q := 0) (gid := 0) (o := shadowedOp)
    (by decide +kernel) ⟨0, 5⟩ ((shadowed.taken 0 ⟨0, 5⟩).loopQuarter 0) 0x2000 0
  have hsame : t = _ := Host.Outcome.next.inj (ht.symm.trans shadowed_runs)
  rw [hsame, hop', Option.some.injEq] at hop
  rw [← hop, htype] at hshad
  exact absurd hshad (by decide)

end Sys2Proof.Machine
end

section
/-!
PROOF. Choice, move and compare (R169, R170, R176): the variants of a lane's work that these and later lane forms have, and a
comparison in the words of the statement.
-/

namespace Sys2Proof.Machine

open Sys2Proof.Claims

/-! ## Variants of a lane's work -/

section Variants

variable {s : State} {ds : List Nat} {f f' : Group → Nat → Group → Group} {val : Nat → Nat → Word32}
  {tan : Nat → Nat → Nat → Word32} {lost edge : Nat → Bool}

/-- An element whose tangents go with it where they find a place, and are dropped without a flag elsewhere (R169). -/
theorem laneEffect_passTan {ty : Ty} {vd : Nat} {x : Nat → Nat} {t : Nat → Nat → Word32} (hty : ty.width ≠ 64) (hvd : vd < 256)
    (hf : ∀ l acc, f s.grp l acc = (acc.putElem ty vd l (x l)).passTan vd l (fun d => t d l)) :
    LaneEffect s [vd] f (fun r l => wordIn ty vd r (x l)) (fun _ d l => t d l) (fun _ => false) fun _ => false := by
  have hpass : ∀ l (acc : Group), (acc.putElem ty vd l (x l)).passTan vd l (fun d => t d l) =
      { acc.putElem ty vd l (x l) with tan := ((acc.putElem ty vd l (x l)).passTan vd l fun d => t d l).tan } := by
    intro l acc
    unfold Group.passTan
    split
    next hdual => rw [Group.giveTan_dual _ _ _ _ hdual, Group.writeSlots_keep]
    · rfl
  constructor
  case keep => intro l acc; rw [hf, hpass, Group.putElem_keep]; rfl
  case elem =>
    intro l k acc q _ hl hk
    have hread : (f s.grp l acc).readV q k = (acc.putElem ty vd l (x l)).readV q k := by rw [hf, hpass]; rfl
    rw [hread, Group.readV_putElem _ _ _ _ hl hk, regsOf_narrow hty]
    grind
  case slot =>
    intro l k acc q d hdecl hl hk hq
    have hold : (acc.putElem ty vd l (x l)).readT q d k = acc.readT q d k := by rw [Group.putElem_keep]; rfl
    have hdual : (acc.putElem ty vd l (x l)).dual vd = decide (vd < s.grp.decl.n) := by
      rw [Group.dual, Group.putElem_decl, hdecl]
    rw [hf, Group.passTan]
    by_cases hin : vd < s.grp.decl.n
    · rw [if_pos (by simp [hdual, hin]), Group.readT_giveTan _ _ hvd hl hq hk, Group.putElem_decl, hdual, hold, hdecl]
      grind
    · rw [if_neg (by simp [hdual, hin]), hold]
      grind
  case tlost => intro l k acc _ _ _; rw [hf, hpass, Group.putElem_keep]; simp
  case edge => intro l k acc _ _ _; rw [hf, hpass, Group.putElem_keep]; simp

end Variants

/-! ## Comparison (R176) -/

section Compare

variable {u v : XVal}

/-- Only ordered operands are less, greater or equal. -/
theorem XVal.lt_ordered : XVal.lt u v = (!u.isNaN && !v.isNaN && XVal.lt u v) := by
  cases u <;> cases v <;> rfl

theorem XVal.gt_ordered : XVal.lt v u = (!u.isNaN && !v.isNaN && XVal.lt v u) := by
  cases u <;> cases v <;> rfl

theorem XVal.eq_ordered : XVal.eq u v = (!u.isNaN && !v.isNaN && XVal.eq u v) := by
  cases u <;> cases v <;> rfl

theorem XVal.eq_swap : XVal.eq v u = XVal.eq u v := by
  cases u <;> cases v <;> simp [XVal.eq, eq_comm]

theorem XVal.le_ordered : XVal.le u v = (!u.isNaN && !v.isNaN && (XVal.lt u v || XVal.eq u v)) := by
  rw [XVal.le, Bool.and_or_distrib_left, ← XVal.lt_ordered, ← XVal.eq_ordered]

theorem XVal.ge_ordered : XVal.le v u = (!u.isNaN && !v.isNaN && (XVal.lt v u || XVal.eq u v)) := by
  rw [XVal.le, Bool.and_or_distrib_left, ← XVal.gt_ordered, ← XVal.eq_ordered, XVal.eq_swap]

end Compare

/-- The flags of a comparison: EDGE in the lanes of em where a floating operand carries a tangent (R90). -/
def State.cmpEdges (s : State) (ty : Ty) (srcs : List Nat) : Group :=
  s.grp.eachLane s.em fun g l acc => acc.edgeIf (ty.isFloat && g.anyTan srcs l) l

/-- The mask of a comparison: its results in the lanes of em (R176). -/
def State.cmpMask (s : State) (c : Cond) (md va : Nat) (b : VOp) (ty : Ty) : Word32 :=
  maskOf fun l => if s.em.getLsbD l then condOf c ty (s.grp.elem ty va l) (s.grp.opB ty b l) else (s.grp.readM md).getLsbD l

/-- The group after a comparison. -/
def State.compared (s : State) (c : Cond) (md va : Nat) (b : VOp) (ty : Ty) : Group :=
  let g := s.cmpEdges ty (pairOf ty va ++ bRegs ty b)
  if s.em = 0 then g else (g.writeM md (s.cmpMask c md va b ty)).noteWrite (.m md)

/-- A group without its EDGE flags. -/
def Group.butEdge (g : Group) : Group := { g with edge := 0 }

section Vcmp

variable (s : State) (c : Cond) (md va : Nat) (b : VOp) (ty : Ty) (srcs : List Nat)

theorem State.cmpEdges_keep : s.cmpEdges ty srcs = { s.grp with edge := (s.cmpEdges ty srcs).edge } := by
  have hkeep := Group.eachLane_keep s.grp s.em (fun g l acc => acc.edgeIf (ty.isFloat && g.anyTan srcs l) l) Group.butEdge
    fun l acc => by rw [Group.edgeIf_keep]; rfl
  exact congrArg (fun x : Group => { x with edge := (s.cmpEdges ty srcs).edge }) hkeep

theorem State.edge_cmpEdges {l : Nat} (hl : l < 32) : (s.cmpEdges ty srcs).edge.getLsbD l =
    (s.grp.edge.getLsbD l || (s.em.getLsbD l && ty.isFloat && carries s srcs l)) := by
  refine (s.grp.eachLane_rule s.em _ (fun k g => g.edge.getLsbD k)
    (fun _ k x => x || (ty.isFloat && carries s srcs k))
    (fun l acc => by rw [Group.edgeIf_keep]) (fun l k acc _ hk => ?_) hl).trans (by grind)
  rw [Group.edge_edgeIf _ _ _ hk, carries_eq_anyTan]
  grind

theorem State.compared_keep : s.compared c md va b ty = { s.grp with
    m := (s.compared c md va b ty).m, edge := (s.cmpEdges ty (pairOf ty va ++ bRegs ty b)).edge,
    rewind := (s.compared c md va b ty).rewind } := by
  unfold State.compared
  dsimp only
  split
  · rw [s.cmpEdges_keep]
  · rw [Group.noteWrite_keep, Group.writeM, State.cmpEdges_keep]

theorem State.readM_compared_ne {j : Nat} (hj : j ≠ md) : (s.compared c md va b ty).readM j = s.grp.readM j := by
  unfold State.compared
  dsimp only
  split
  · rw [State.cmpEdges_keep]; rfl
  · rw [Group.noteWrite_keep]
    refine (Group.readM_writeM _ _ _ _).trans ((if_neg hj).trans ?_)
    rw [State.cmpEdges_keep]; rfl

theorem State.readM_compared {l : Nat} (hl : l < 32) : ((s.compared c md va b ty).readM md).getLsbD l =
    if s.em.getLsbD l then condOf c ty (s.grp.elem ty va l) (s.grp.opB ty b l) else (s.grp.readM md).getLsbD l := by
  unfold State.compared
  dsimp only
  split
  next hem => rw [State.cmpEdges_keep, hem]; simp [Group.readM]
  next =>
    rw [Group.noteWrite_keep]
    refine (congrArg (BitVec.getLsbD · l) ((Group.readM_writeM _ _ _ _).trans (if_pos rfl))).trans ?_
    rw [State.cmpMask, getLsbD_maskOf _ hl]

theorem State.compared_rewind (hem : s.em ≠ 0) :
    (s.compared c md va b ty).rewind = (s.grp.rewind && !inSaved s.grp (.m md)) := by
  rw [State.compared, if_neg hem, Group.noteWrite_rewind_inSaved, Group.writeM, State.cmpEdges_keep]
  rfl

/-- VCMP leaves all but one mask and EDGE alone, and notes the mask where a lane has compared (R31, R176, R334). -/
theorem completes_vcmp (h : Nat) (hfit : Fits s (pairOf ty va ++ bRegs ty b)) :
    Completes (.vcmp c md va b ty h) s fun t => OnlyGroup s t ∧ SplitAt s t (s.pc + 12) ∧
      t.grp = { s.compared c md va b ty with splits := t.grp.splits } := by
  have hrun : exec (.vcmp c md va b ty h) s = .next ((s.setGrp (s.compared c md va b ty)).advance 3) := by
    have hgroup : s.compared c md va b ty = if s.em = 0 then s.cmpEdges ty (regsOf ty va ++ vopRegs ty b) else
        ((s.cmpEdges ty (regsOf ty va ++ vopRegs ty b)).writeM md (s.cmpMask c md va b ty)).noteWrite (.m md) := by
      rw [State.compared, bRegs_eq]; rfl
    rw [bRegs_eq, pairOf_eq] at hfit
    change execVcmp c md va b ty h s = _
    rw [execVcmp, s.guardRegs_ok _ fun r hr => (hfit r hr).1, hgroup]
    rfl
  refine ⟨_, hrun, s.setGrp_advance_spec ?_ 3⟩
  rw [State.compared_keep]

end Vcmp

/-- Settles O18: VSEL and VMOV are the lane forms of the delivered element and its tangents; VCMP is its mask and its EDGE. -/
theorem selectMoveCompare : Obligations.SelectMoveCompare := by
  intro s vd va mc md b ty c h k tb tsel
  constructor
  · intro hty hfits
    have hw : ty.width ≠ 64 := by cases ty <;> simp_all [Ty.width, Ty.is32]
    have hvd : vd < 256 := (hfits vd (by simp)).2
    have htb : ∀ d l, s.grp.tanB b d l = tb d l := fun d l => by cases b <;> rfl
    rw [bRegs_eq] at hfits
    refine ⟨⟨_, vecForm_fits hfits, ?_⟩, ⟨_, vecForm_fits fun r hr => hfits r (by simp at hr ⊢; tauto), ?_⟩⟩
    · refine (laneEffect_passTan (x := fun l => if k.getLsbD l then s.grp.elem ty va l else s.grp.opB ty b l) (t := tsel)
        hw hvd fun l acc => ?_).lanesDone (fun _ _ _ => rfl) (fun _ _ _ _ => rfl) (fun _ => rfl) fun _ => rfl
      rw [show s.maskOp mc = k from rfl]
      simp only [tsel]
      split
      · rfl
      · simp only [htb]
    · rw [← regsOf_narrow hw vd]
      refine (laneEffect_giveTan (t := tb) hw hvd fun l acc => ?_).lanesDone (fun _ _ _ => rfl) (fun _ _ _ _ => rfl)
        (fun _ => rfl) fun _ => rfl
      simp only [htb]
  · intro hfits hc x y holds
    have hcond : ∀ l, condOf c ty (x l) (y l) = holds l := by
      intro l
      simp only [condOf, holds]
      split
      · cases c with
        | eq => exact XVal.eq_ordered
        | ne => exact congrArg (!·) XVal.eq_ordered
        | lt => exact XVal.lt_ordered
        | le => exact XVal.le_ordered
        | gt => exact XVal.gt_ordered
        | ge => exact XVal.ge_ordered
        | ord => exact Bool.not_or _ _
        | uno => simp [condF]
      next hint =>
        have := hc (by simpa [Ty.isInt] using hint)
        cases c <;> simp_all [condI]
    obtain ⟨t, hrun, honly, hsplit, hgrp⟩ := completes_vcmp s c md va b ty h hfits
    refine ⟨t, hrun, honly, hsplit, ?_, fun j hj => ?_, fun hem => ?_, fun l hl => ?_, fun l hl => ?_⟩
    · rw [hgrp, State.compared_keep]
    · rw [hgrp]; exact s.readM_compared_ne c md va b ty hj
    · rw [RewindAfter, hgrp]; simpa using s.compared_rewind c md va b ty hem
    · rw [hgrp, ← hcond]; exact s.readM_compared c md va b ty hl
    · rw [hgrp, State.compared_keep]; exact s.edge_cmpEdges ty _ hl

end Sys2Proof.Machine
end

section
/-!
PROOF. Elements that go from lane to lane (R184, R185): a permute as the work of one lane, the model's levels as the fixed tree, and
what two combinations of related operands keep.
-/

namespace Sys2Proof.Machine

open Sys2Proof.Claims

/-! ## The work of the lanes of em -/

section Lanes

/-- What the lanes of em do decides, on groups of the declaration. -/
theorem Group.eachLane_congr {g : Group} {em : Word32} {f f' : Group → Nat → Group → Group}
    (hdecl : ∀ l acc, (f' g l acc).decl = acc.decl)
    (h : ∀ l acc, em.getLsbD l = true → acc.decl = g.decl → f g l acc = f' g l acc) : g.eachLane em f = g.eachLane em f' := by
  suffices hfold : ∀ (ls : List Nat) (acc : Group), (∀ l ∈ ls, em.getLsbD l = true) → acc.decl = g.decl →
      ls.foldl (fun acc l => f g l acc) acc = ls.foldl (fun acc l => f' g l acc) acc from
    hfold _ g (fun l hl => (mem_lanesOf.1 hl).2) rfl
  intro ls
  induction ls with
  | nil => exact fun _ _ _ => rfl
  | cons l ls ih =>
    intro acc hls hacc
    rw [List.foldl_cons, List.foldl_cons, h l acc (hls l List.mem_cons_self) hacc]
    exact ih _ (fun k hk => hls k (List.mem_cons_of_mem _ hk)) ((hdecl l acc).trans hacc)

theorem State.laneOp_congr {s : State} {ds : List Nat} {f f' : Group → Nat → Group → Group} (n : Nat)
    (hdecl : ∀ l acc, (f' s.grp l acc).decl = acc.decl)
    (h : ∀ l acc, s.em.getLsbD l = true → acc.decl = s.grp.decl → f s.grp l acc = f' s.grp l acc) :
    s.laneOp n ds f = s.laneOp n ds f' := by
  rw [State.laneOp, State.laneOp, Group.eachLane_congr hdecl h]

variable (g : Group) (r l : Nat)

/-- Only the slots below D are delivered. -/
theorem Group.giveTan_congr {t t' : Nat → Word32} (h : ∀ d, d < g.decl.d → t d = t' d) : g.giveTan r l t = g.giveTan r l t' := by
  have hslots : (List.range g.decl.d).foldl (fun g d => g.writeT r d l (t d)) g =
      (List.range g.decl.d).foldl (fun g d => g.writeT r d l (t' d)) g :=
    List.foldl_ext _ _ _ fun acc d hd => by rw [h d (List.mem_range.1 hd)]
  have hany : ((List.range g.decl.d).any fun d => !tanZero g.decl.bf16 (t d)) =
      (List.range g.decl.d).any fun d => !tanZero g.decl.bf16 (t' d) :=
    Bool.eq_iff_iff.2 (by
      rw [List.any_eq_true, List.any_eq_true]
      exact exists_congr fun d => and_congr_right fun hd => by rw [h d (List.mem_range.1 hd)])
  rw [Group.giveTan, Group.giveTan, hslots, hany]

/-- Tangents +0 are delivered as they are cleared, and dropped without a flag. -/
theorem Group.giveTan_zero : g.giveTan r l (fun _ => 0) = g.zeroTan [r] l := by
  cases hr : g.dual r with
  | true => rw [Group.giveTan_dual _ _ _ _ hr, Group.zeroTan_singleton]
  | false =>
    have hslots : ∀ n, g.writeSlots r l (fun _ => 0) n = g := by
      intro n
      induction n with
      | zero => rfl
      | succ n ih => rw [Group.writeSlots_succ, ih, Group.writeT, hr]; rfl
    rw [Group.zeroTan_singleton, hslots, Group.giveTan_not_dual _ _ _ _ hr]
    simp [tanZero, Group.tlostIf]

/-- A register as an element of 32 bits. -/
theorem Group.writeV_eq_putElem (x : Word32) : g.writeV r l x = g.putElem .n32 r l x.toNat := by
  rw [Group.putElem, if_neg (by decide), extend32_eq_wordIn _ r _ (by decide) r, wordIn_n32, BitVec.ofNat_toNat, BitVec.setWidth_eq]

end Lanes

/-! ## Permutes (R184) -/

/-- A permuting form delivers element and tangents of the source lane, or zeros. -/
theorem completes_shuffle {s : State} {vd va : Nat} {b : VOp} {ty : Ty} {i : Instr} {from' : Nat → Nat → Int} {src : Nat → Int}
    (hfits : Fits s ([vd, va] ++ bRegs ty b)) (hrun : exec i s = shuffle from' vd va b ty s)
    (hsrc : ∀ l, from' l (s.grp.opB ty b l) = src l) :
    let good := fun l => 0 ≤ src l ∧ src l < 32 ∧ s.em.getLsbD (src l).toNat = true
    let tan := fun d l => if good l then s.grp.readT va d (src l).toNat else 0
    Completes i s fun t => LanesDone s t [vd] (fun _ l => if good l then s.grp.readV va (src l).toNat else 0)
      (fun _ d l => tan d l) (lostIn s vd tan) (fun _ => false) := by
  intro good tan
  rw [bRegs_eq] at hfits
  refine ⟨_, hrun.trans (vecForm_fits hfits), ?_⟩
  refine (laneEffect_giveTan (ty := .n32) (x := fun l => (if good l then s.grp.readV va (src l).toNat else 0 : Word32).toNat)
    (t := tan) (by decide) (hfits vd (by simp)).2 fun l acc => ?_).lanesDone (fun r _ l => ?_) (fun _ _ _ _ => rfl)
    (fun _ => rfl) fun _ => rfl
  · dsimp only
    rw [hsrc, ← Group.writeV_eq_putElem]
    by_cases hgood : good l
    · simp only [tan, if_pos hgood]
      exact if_pos hgood
    · simp only [tan, if_neg hgood, Group.giveTan_zero]
      exact if_neg hgood
  · simp [wordIn_n32]

theorem lanePermutes : Claims.LanePermutes := by
  intro s vd va b ty h hfits _ q moved
  refine ⟨completes_shuffle (from' := fun _ x => ((x % 32 : Nat) : Int)) hfits rfl fun l => Int.natCast_mod _ _,
    completes_shuffle (from' := fun l x => (l : Int) - ((x % 64 : Nat) : Int)) hfits rfl fun l => ?_,
    completes_shuffle (from' := fun l x => ((l + x % 64 : Nat) : Int)) hfits rfl fun l => ?_,
    completes_shuffle (from' := fun l x => ((l ^^^ x % 32 : Nat) : Int)) hfits rfl fun l => rfl,
    completes_shuffle (from' := fun _ x => ((x % 32 : Nat) : Int)) hfits rfl fun l => Int.natCast_mod _ _⟩
  · push_cast; rfl
  · push_cast; rfl

/-! ## Combining (R39, R86, R185) -/

section Combining

variable {op : Comb} {ty : Ty}

theorem combine_eq_combineOf (hop : op ≠ .xchg) (hty : ty.isFloat = false → ty.width = 32) (x y : Nat) :
    combine op ty x y = combineOf op ty x y := by
  cases hfl : ty.isFloat with
  | true =>
    cases op with
    | xchg => exact absurd rfl hop
    | add | min | max => simp only [combine, combineOf, hfl, if_true]; rfl
    | and | or | xor => rfl
  | false => cases op <;> simp_all [combine, combineOf, addV, minV, maxV]

/-- Slots that lie below D, as a list and one by one. -/
def SlotOf (D d : Nat) (a : Dual) (b : Nat × Word32) : Prop := a.2.length = D ∧ b = (a.1, a.2.getD d 0)

theorem slotOf_dualAt (s : State) (va : Nat) {d : Nat} (hd : d < s.grp.decl.d) (k : Nat) :
    SlotOf s.grp.decl.d d (s.grp.dualAt ty va k) (s.grp.elem ty va k, s.grp.readT va d k) :=
  ⟨by simp [Group.dualAt], by simp [Group.dualAt, hd]⟩

/-- A combination goes slot by slot. -/
theorem slotOf_combineDual (s : State) (hop : op ≠ .xchg) (hty : ty.isFloat = false → ty.width = 32) {D d : Nat} (hd : d < D)
    {a a' : Dual} {b b' : Nat × Word32} (h : SlotOf D d a b) (h' : SlotOf D d a' b') :
    SlotOf D d (s.grp.combineDual op ty a a') (combineTan s op ty b b') := by
  obtain ⟨hlen, rfl⟩ := h
  obtain ⟨hlen', rfl⟩ := h'
  constructor
  · cases op <;> simp only [Group.combineDual] <;> grind
  · refine Prod.ext (combine_eq_combineOf hop hty a.1 a'.1).symm ?_
    cases op with
    | add => simp [Group.combineDual, combineTan, hlen, hlen', hd]
    | min => simp only [Group.combineDual, combineTan, apply_ite (fun t : List Word32 => t.getD d 0)]; rfl
    | max => simp only [Group.combineDual, combineTan, apply_ite (fun t : List Word32 => t.getD d 0)]; rfl
    | and | or | xor | xchg => rfl

end Combining

/-! ## The tree and the scan -/

section Orders

variable {α β : Type} {f : α → α → α}

/-- What a node of the tree passes on. -/
def mergeNode (f : α → α → α) : Option α → Option α → Option α
  | some u, some v => some (f u v)
  | some u, none => some u
  | none, w => w

theorem treeOf_succ (x : Nat → Option α) (n base : Nat) :
    treeOf f x (n + 1) base = mergeNode f (treeOf f x n base) (treeOf f x n (base + 2 ^ n)) := by
  rw [treeOf, mergeNode.eq_def] <;> rfl

theorem treeLevel_cons (a b : Option α) (l : List (Option α)) : treeLevel f (a :: b :: l) = mergeNode f a b :: treeLevel f l := by
  cases a <;> cases b <;> rfl

theorem treeLevel_range (x : Nat → Option α) (n : Nat) : treeLevel f ((List.range (2 * n)).map x) =
    (List.range n).map fun i => mergeNode f (x (2 * i)) (x (2 * i + 1)) := by
  induction n generalizing x with
  | zero => rfl
  | succ n ih =>
    rw [show 2 * (n + 1) = 2 * n + 1 + 1 by omega, List.range_succ_eq_map, List.range_succ_eq_map, List.range_succ_eq_map]
    simp only [List.map_cons, List.map_map, treeLevel_cons, List.cons.injEq]
    exact ⟨trivial, (ih fun i => x (i + 1 + 1)).trans rfl⟩

/-- The levels of the model end in the root of the fixed tree. -/
theorem treeFold_range (x : Nat → Option α) : treeFold f ((List.range 32).map x) = treeOf f x 5 0 := by
  have hlevel : ∀ n k, treeLevel f ((List.range (2 * n)).map fun i => treeOf f x k (2 ^ k * i)) =
      (List.range n).map fun i => treeOf f x (k + 1) (2 ^ (k + 1) * i) := by
    intro n k
    rw [treeLevel_range]
    refine List.map_congr_left fun i _ => ?_
    rw [treeOf_succ, show 2 ^ (k + 1) * i = 2 ^ k * (2 * i) by rw [Nat.pow_succ]; ring,
      show 2 ^ k * (2 * i + 1) = 2 ^ k * (2 * i) + 2 ^ k by ring]
  have hleaves : (List.range 32).map x = (List.range (2 * 16)).map fun i => treeOf f x 0 (2 ^ 0 * i) := by
    simp [treeOf]
  rw [treeFold, hleaves, hlevel, hlevel 8 1, hlevel 4 2, hlevel 2 3, hlevel 1 4]
  rfl

theorem mergeNode_rel {R : α → β → Prop} {f' : β → β → β} (hf : ∀ a b a' b', R a b → R a' b' → R (f a a') (f' b b'))
    {a c : Option α} {b d : Option β} (hab : Option.Rel R a b) (hcd : Option.Rel R c d) :
    Option.Rel R (mergeNode f a c) (mergeNode f' b d) := by
  cases hab with
  | none => exact hcd
  | some hab =>
    cases hcd with
    | none => exact .some hab
    | some hcd => exact .some (hf _ _ _ _ hab hcd)

/-- The tree keeps a relation of the operands that combining keeps. -/
theorem treeOf_rel {R : α → β → Prop} {f' : β → β → β} (hf : ∀ a b a' b', R a b → R a' b' → R (f a a') (f' b b'))
    {x : Nat → Option α} {y : Nat → Option β} (hxy : ∀ k, Option.Rel R (x k) (y k)) (n base : Nat) :
    Option.Rel R (treeOf f x n base) (treeOf f' y n base) := by
  induction n generalizing base with
  | zero => exact hxy base
  | succ n ih =>
    rw [treeOf_succ, treeOf_succ]
    exact mergeNode_rel hf (ih base) (ih _)

theorem scanFold_eq (l : List α) : scanFold f l = scanOf f l := by cases l <;> rfl

/-- So does the scan. -/
theorem scanOf_rel {R : α → β → Prop} {f' : β → β → β} (hf : ∀ a b a' b', R a b → R a' b' → R (f a a') (f' b b'))
    {x : Nat → α} {y : Nat → β} {l : List Nat} (hxy : ∀ k, R (x k) (y k)) :
    Option.Rel R (scanOf f (l.map x)) (scanOf f' (l.map y)) := by
  cases l with
  | nil => exact .none
  | cons k l =>
    refine .some ?_
    have hfold : ∀ a b, R a b → R ((l.map x).foldl f a) ((l.map y).foldl f' b) := by
      induction l with
      | nil => exact fun _ _ h => h
      | cons j l ih => exact fun a b h => ih _ _ (hf _ _ _ _ h (hxy j))
    exact hfold _ _ (hxy k)

end Orders

/-! ## Reductions (R185) -/

theorem treeOf_isSome {α : Type} {f : α → α → α} {x : Nat → Option α} {k : Nat} (hk : (x k).isSome) {n base : Nat} (hbase : base ≤ k)
    (hlt : k < base + 2 ^ n) : (treeOf f x n base).isSome := by
  induction n generalizing base with
  | zero => rw [show base = k by omega]; exact hk
  | succ n ih =>
    rw [treeOf_succ]
    rw [Nat.pow_succ] at hlt
    by_cases hleft : k < base + 2 ^ n
    · have hu := ih hbase hleft
      revert hu
      cases treeOf f x n base <;> cases treeOf f x n (base + 2 ^ n) <;> simp [mergeNode]
    · have hv := ih (base := base + 2 ^ n) (by omega) (by omega)
      revert hv
      cases treeOf f x n base <;> cases treeOf f x n (base + 2 ^ n) <;> simp [mergeNode]

section Reductions

variable {s : State} {vd va : Nat} {ty : Ty} {i : Instr} {f : Group → Nat → Group → Group} {res : Nat → Option Dual}
  {val : Nat → Option Nat} {dual : Nat → Nat → Option (Nat × Word32)}

/-- A form that puts combined elements into the lanes of em, each of which has one. -/
theorem completes_reduction (hfits : Fits s [vd, va]) (hty : ty.width ≠ 64) (hrun : exec i s = vecForm [vd, va] [vd] f s)
    (hf : ∀ l acc, f s.grp l acc = (res l).elim acc fun x => s.grp.putDual ty vd va l x acc)
    (hsome : ∀ l, s.em.getLsbD l = true → (res l).isSome)
    (hval : ∀ l, Option.Rel (fun a b => a.1 = b) (res l) (val l))
    (hdual : ∀ d, d < s.grp.decl.d → ∀ l, Option.Rel (SlotOf s.grp.decl.d d) (res l) (dual d l)) :
    let tan := fun d l => if ty.isFloat then ((dual d l).getD (0, 0)).2 else 0
    Completes i s fun t => LanesDone s t [vd] (fun r l => wordIn ty vd r ((val l).getD 0)) (fun _ d l => tan d l)
      (fun l => if ty.isFloat then lostIn s vd tan l else carries s [va] l) (fun _ => false) := by
  intro tan
  have hvd : vd < 256 := (hfits vd (by simp)).2
  have hres : ∀ l, s.em.getLsbD l = true → ∃ x, res l = some x ∧ val l = some x.1 ∧
      ∀ d, d < s.grp.decl.d → dual d l = some (x.1, x.2.getD d 0) := by
    intro l hl
    obtain ⟨x, hx⟩ := Option.isSome_iff_exists.1 (hsome l hl)
    have hv := hval l
    rw [hx] at hv
    cases hv' : val l with
    | none => rw [hv'] at hv; cases hv
    | some v =>
      rw [hv'] at hv
      cases hv with
      | some hv =>
        refine ⟨x, hx, by rw [hv], fun d hd => ?_⟩
        have hslot := hdual d hd l
        rw [hx] at hslot
        cases hd' : dual d l with
        | none => rw [hd'] at hslot; cases hslot
        | some u =>
          rw [hd'] at hslot
          cases hslot with
          | some hu => rw [hu.2]
  refine ⟨_, hrun.trans (vecForm_fits hfits), ?_⟩
  cases hfl : ty.isFloat with
  | true =>
    rw [State.laneOp_congr (f' := fun _ l acc => (acc.putElem ty vd l ((val l).getD 0)).giveTan vd l fun d => tan d l) 3
      (fun l acc => by simp) fun l acc hl hacc => ?_]
    · rw [← regsOf_narrow hty vd]
      exact (laneEffect_giveTan (t := tan) hty hvd fun _ _ => rfl).lanesDone (fun _ _ _ => rfl) (fun _ _ _ _ => rfl)
        (fun _ => rfl) fun _ => rfl
    · obtain ⟨x, hx, hv, hslot⟩ := hres l hl
      rw [hf, hx, hv, Option.elim, Group.putDual, if_pos hfl]
      refine Group.giveTan_congr _ _ _ fun d hd => ?_
      rw [Group.putElem_decl, hacc] at hd
      simp [tan, hfl, hslot d hd]
  | false =>
    have htan : ∀ d l, tan d l = 0 := fun d l => if_neg (by simp [hfl])
    rw [State.laneOp_congr (f' := fun _ l acc => s.grp.intTan [vd] [va] l (acc.putElem ty vd l ((val l).getD 0))) 3
      (fun l acc => by rw [Group.intTan, Group.tlostIf_keep, Group.zeroTan_keep, Group.putElem_keep]) fun l acc hl hacc => ?_]
    · rw [← regsOf_narrow hty vd]
      exact (laneEffect_putElem (edge := fun _ => false) (fun r hr => by rw [regsOf_narrow hty] at hr; simp_all)
        fun _ _ => rfl).lanesDone (fun _ _ _ => rfl) (fun _ _ d l => (htan d l).symm) (fun _ => rfl) fun _ => rfl
    · obtain ⟨x, hx, hv, -⟩ := hres l hl
      rw [hf, hx, hv, Option.elim, Group.putDual, if_neg (by simp [hfl])]
      rfl

end Reductions

theorem laneReductions : Claims.LaneReductions := by
  intro s vd va op ty h hfits hop hty x upTo f slot done
  have hw : ty.width ≠ 64 := by cases ty <;> simp_all [Ty.width, Ty.isFp3]
  have hint : ty.isFloat = false → ty.width = 32 := by cases ty <;> simp_all [Ty.width, Ty.isFp3, Ty.isFloat]
  have hvalue : ∀ (a : Dual) (b : Nat) (a' : Dual) (b' : Nat), a.1 = b → a'.1 = b' →
      (s.grp.combineDual op ty a a').1 = f b b' := by
    rintro a _ a' _ rfl rfl
    exact combine_eq_combineOf hop hint _ _
  have hslot : ∀ d, d < s.grp.decl.d → ∀ (a : Dual) (b : Nat × Word32) (a' : Dual) (b' : Nat × Word32),
      SlotOf s.grp.decl.d d a b → SlotOf s.grp.decl.d d a' b' →
      SlotOf s.grp.decl.d d (s.grp.combineDual op ty a a') (combineTan s op ty b b') :=
    fun d hd a b a' b' => slotOf_combineDual s hop hint hd
  constructor
  · refine completes_reduction (res := fun _ => treeOf (s.grp.combineDual op ty)
        (fun k => if s.em.getLsbD k then some (s.grp.dualAt ty va k) else none) 5 0) hfits hw rfl (fun l acc => ?_)
      (fun l hl => ?_) (fun l => ?_) fun d hd l => ?_
    · rw [← treeFold_range]
      cases treeFold (s.grp.combineDual op ty) _ <;> rfl
    · exact treeOf_isSome (k := l) (by simp [hl]) (Nat.zero_le _) (by simpa using BitVec.lt_of_getLsbD hl)
    · refine treeOf_rel hvalue (fun k => ?_) 5 0
      split
      · exact .some rfl
      · exact .none
    · refine treeOf_rel (hslot d hd) (fun k => ?_) 5 0
      split
      · exact .some (slotOf_dualAt s va hd k)
      · exact .none
  · have hupTo : ∀ l, (lanesOf s.em).filter (fun k => decide (k ≤ l)) = upTo l := by
      intro l
      simp only [lanesOf, upTo, List.filter_filter, Bool.and_comm]
    refine completes_reduction (res := fun l => scanOf (s.grp.combineDual op ty) ((upTo l).map (s.grp.dualAt ty va))) hfits hw rfl
      (fun l acc => ?_) (fun l hl => ?_) (fun l => scanOf_rel hvalue fun _ => rfl)
      fun d hd l => scanOf_rel (hslot d hd) fun k => slotOf_dualAt s va hd k
    · rw [← hupTo, ← scanFold_eq]
      cases scanFold (s.grp.combineDual op ty) _ <;> rfl
    · have hmem : l ∈ upTo l := by simp [upTo, hl, BitVec.lt_of_getLsbD hl]
      revert hmem
      cases upTo l <;> simp [scanOf]

/-- Settles O47: a permute is the lane form of its source lanes; a reduction that of the values of the tree and of the scan. -/
theorem crossLanes : Obligations.CrossLanes := ⟨lanePermutes, laneReductions⟩

end Sys2Proof.Machine
end

section
/-!
PROOF. Functions of floating-point lanes (R85, R90, R171, R172): a form of one operand as the work of one lane, its special
operands, rounding to an integral value, and the smallest results of VEXP2, which rest on bounds of the model's series.
-/

namespace Sys2Proof.Machine

open Sys2Proof.Claims

/-! ## The form of one operand -/

section Form

variable {s : State} {ds : List Nat} {f f' : Group → Nat → Group → Group} {val : Nat → Nat → Word32}
  {tan : Nat → Nat → Nat → Word32} {lost edge : Nat → Bool}

/-- A lane's work that sets no EDGE, and then EDGE. -/
theorem LaneEffect.thenEdge (hf : LaneEffect s ds f val tan lost fun _ => false)
    (hf' : ∀ l acc, f' s.grp l acc = (f s.grp l acc).edgeIf (edge l) l) : LaneEffect s ds f' val tan lost edge where
  keep l acc := by rw [hf', Group.edgeIf_keep]; exact hf.keep l acc
  elem l k acc q hd hl hk := by rw [hf', Group.edgeIf_keep]; exact hf.elem l k acc q hd hl hk
  slot l k acc q d hd hl hk hq := by rw [hf', Group.edgeIf_keep]; exact hf.slot l k acc q d hd hl hk hq
  tlost l k acc hd hl hk := by rw [hf', Group.edgeIf_keep]; exact hf.tlost l k acc hd hl hk
  edge l k acc hd hl hk := by
    rw [hf', Group.edge_edgeIf _ _ _ hk, hf.edge l k acc hd hl hk]
    grind

theorem width_of_isFp3 {ty : Ty} (h : ty.isFp3 = true) : ty.width ≠ 64 := by
  cases ty <;> simp_all [Ty.width, Ty.isFp3]

/-- The form of one operand: its value, the tangents of R85 rounded by RoundT, and EDGE where it sets it. -/
theorem floatForm_fpUn {vd va : Nat} {ty : Ty} {i : Instr} {sets : Bool} {y : Fmt → Nat → Nat}
    {e : Fmt → XVal → Nat → Nat → XVal} (hok : FpOk s ty [vd, va]) (hrun : exec i s = fpUn sets y e vd va ty s) :
    let a := fun l => s.grp.elem ty va l
    FloatForm s i ty vd (fun l => y (fmtOf ty) (a l))
      (fun d l => s.grp.roundT (e (fmtOf ty) (tanOf s va d l) (a l) (y (fmtOf ty) (a l)))) (fun l => sets && carries s [va] l) := by
  intro a
  obtain ⟨hty, hfits⟩ := hok
  have hw := width_of_isFp3 hty
  refine ⟨_, hrun.trans (vecForm_fits hfits), ?_⟩
  rw [← regsOf_narrow hw vd]
  refine LaneEffect.lanesDone (LaneEffect.thenEdge
    (laneEffect_giveTan (f := fun _ l acc => (acc.putElem ty vd l (y (fmtOf ty) (a l))).giveTan vd l fun d =>
      s.grp.roundT (e (fmtOf ty) (tanOf s va d l) (a l) (y (fmtOf ty) (a l))))
      (t := fun d l => s.grp.roundT (e (fmtOf ty) (tanOf s va d l) (a l) (y (fmtOf ty) (a l)))) hw (hfits vd (by simp)).2
      fun _ _ => rfl) fun _ _ => rfl)
    (fun _ _ _ => rfl) (fun _ _ _ _ => rfl) (fun _ => rfl) fun l => ?_
  rw [carries_eq_anyTan, Group.anyTan, List.any_cons, List.any_nil, Bool.or_false]

end Form

/-! ## Values and their roundings -/

section Values

variable {ty : Ty}

theorem fmtOf_e4m3 (h : ty.isFp3 = true) : (fmtOf ty).e4m3 = false := by cases ty <;> simp_all [Ty.isFp3] <;> rfl

theorem fmtOf_signBit (h : ty.isFp3 = true) : (fmtOf ty).signBit = 2 ^ (ty.width - 1) := by
  cases ty <;> simp_all [Ty.isFp3] <;> rfl

@[simp] theorem roundTo_nan (f : Fmt) (m : Rnd) : roundTo f m .nan = f.canonicalNaN := rfl

theorem roundTo_inf (h : ty.isFp3 = true) (m : Rnd) (g : Bool) :
    roundTo (fmtOf ty) m (.inf g) = (fmtOf ty).infBits + if g then 2 ^ (ty.width - 1) else 0 := by
  rw [roundTo, fmtOf_e4m3 h, fmtOf_signBit h]; rfl

theorem roundTo_zero (h : ty.isFp3 = true) (m : Rnd) (g : Bool) (d : Nat) :
    roundTo (fmtOf ty) m (.fin g 0 d) = if g then 2 ^ (ty.width - 1) else 0 := by
  simp [roundTo, fmtOf_e4m3 h, fmtOf_signBit h]

@[simp] theorem Group.roundT_zero (g : Group) : g.roundT XVal.zero = 0 := by
  have h : roundTo g.tanFmt .rne XVal.zero = 0 := by simp [roundTo, XVal.zero]
  simp [Group.roundT, h]

/-- A finite value below the top binades is an integer of frac + 1 bits over a power of two, and every other one an integer. -/
theorem Fmt.value_fin {f : Fmt} (hf : f.e4m3 = false) {b : Nat} {g : Bool} {n d : Nat} (h : f.value b = .fin g n d) :
    0 < d ∧ (d = 1 ∨ n < 2 ^ (f.frac + 1)) := by
  have hscale : ∀ m e, m < 2 ^ (f.frac + 1) → 0 < (scale2 m 1 e).2 ∧ ((scale2 m 1 e).2 = 1 ∨ (scale2 m 1 e).1 < 2 ^ (f.frac + 1)) := by
    intro m e hm
    unfold scale2
    split
    · exact ⟨Nat.one_pos, .inl rfl⟩
    · exact ⟨by positivity, .inr hm⟩
  have hfr : field b 0 f.frac < 2 ^ f.frac := Nat.mod_lt _ (Nat.two_pow_pos _)
  rw [Fmt.value, hf] at h
  simp only [Bool.false_and, Bool.false_eq_true, if_false, Bool.not_false, Bool.true_and, decide_eq_true_eq] at h
  have hpow : 2 ^ (f.frac + 1) = 2 * 2 ^ f.frac := by rw [Nat.pow_succ, Nat.mul_comm]
  split at h
  · split at h <;> cases h
  · split at h
    · obtain ⟨-, rfl, rfl⟩ := XVal.fin.inj h
      exact hscale _ _ (by omega)
    · obtain ⟨-, rfl, rfl⟩ := XVal.fin.inj h
      exact hscale _ _ (by omega)

end Values

/-! ## Integral values (R171, R172) -/

section Integral

theorem natAbs_signedNum (g : Bool) (n : Nat) : (signedNum g n).natAbs = n := by
  cases g <;> simp [signedNum]

/-- The floor of a signed fraction, as rounding down gives it. -/
theorem signedNum_floor (g : Bool) (n : Nat) {d : Nat} (hd : 0 < d) :
    signedNum g (n / d + if roundsUp .rdn g (n / d) (n % d) d then 1 else 0) = signedNum g n / (d : Int) := by
  have hd' : (0 : Int) < d := by exact_mod_cast hd
  cases g with
  | false => simp [signedNum, roundsUp]
  | true =>
    have hdm : (d : Int) * ((n / d : Nat) : Int) + ((n % d : Nat) : Int) = n := by exact_mod_cast Nat.div_add_mod n d
    have hlt : ((n % d : Nat) : Int) < d := by exact_mod_cast Nat.mod_lt n hd
    simp only [signedNum, if_true, roundsUp, Bool.true_and, decide_eq_true_eq]
    symm
    by_cases hr : n % d = 0
    · refine ((Int.ediv_emod_unique (r := 0) hd').2 ⟨?_, le_refl _, hd'⟩).1
      rw [if_neg (by simpa using hr), ← hdm, hr]
      push_cast; ring
    · refine ((Int.ediv_emod_unique (r := (d : Int) - ((n % d : Nat) : Int)) hd').2 ⟨?_, by omega, by omega⟩).1
      rw [if_pos (by simpa using hr)]
      rw [← hdm]
      push_cast; ring

/-- VFRACT of a finite operand: what is left above the floor (R172). -/
theorem fract_fin (f : Fmt) (g : Bool) (n : Nat) {d : Nat} (hd : 0 < d) :
    roundTo f .rdn (XVal.sub (.fin g n d) (XVal.integral .rdn (.fin g n d))) =
      roundTo f .rdn (.fin false (signedNum g n - signedNum g n / (d : Int) * d).toNat d) := by
  have hd' : (d : Int) ≠ 0 := by exact_mod_cast hd.ne'
  have hneg : ∀ m, signedNum (!g) m = -signedNum g m := by intro m; cases g <;> simp [signedNum]
  have ht : signedNum g n * ((1 : Nat) : Int) + signedNum (!g) (roundToInt .rdn g n d).natAbs * (d : Int) =
      signedNum g n % (d : Int) := by
    rw [hneg, roundToInt_eq, natAbs_signedNum, signedNum_floor g n hd, Int.emod_def]
    push_cast; ring
  have hrem : signedNum g n - signedNum g n / (d : Int) * d = signedNum g n % (d : Int) := by
    rw [Int.emod_def]; ring
  have hnonneg := Int.emod_nonneg (signedNum g n) hd'
  rw [hrem]
  simp only [XVal.integral, XVal.sub, XVal.neg, XVal.add, XVal.addIn, ht]
  by_cases hz : signedNum g n % (d : Int) = 0
  · simp [hz, roundTo]
  · have hpos : ¬ signedNum g n % (d : Int) < 0 := by omega
    rw [if_neg hz, Nat.mul_one, decide_eq_false hpos, show (signedNum g n % (d : Int)).natAbs = (signedNum g n % (d : Int)).toNat by omega]

end Integral

theorem floatToIntegral : Claims.FloatToIntegral := by
  intro s vd va ty rm h hok f a edge whole near down up zero rounds
  have hfp := hok.1
  have hwhole : ∀ (m : Rnd) (l : Nat), integralF m f (s.grp.elem ty va l) = whole (roundsUp m) l := by
    intro m l
    change roundTo f .rne (XVal.integral m (a l)) = _
    simp only [whole]
    cases a l with
    | nan => rfl
    | inf g => exact roundTo_inf hfp _ g
    | fin g n d => simp only [XVal.integral, roundToInt_eq, natAbs_signedNum]
  have hform : ∀ {i : Instr} (m : Rnd), exec i s = fpUn true (integralF m) tanNone vd va ty s →
      FloatForm s i ty vd (whole (roundsUp m)) (fun _ _ => 0) edge := by
    intro i m hrun
    have hval : whole (roundsUp m) = fun l => integralF m f (s.grp.elem ty va l) := funext fun l => (hwhole m l).symm
    rw [hval]
    simpa only [tanNone, Group.roundT_zero, Bool.true_and] using floatForm_fpUn hok hrun
  refine ⟨hform .rdn rfl, hform .rup rfl, hform .rtz rfl, ?_, ?_⟩
  · have hrounds : rounds = roundsUp (rndOf rm) := by cases rm <;> rfl
    rw [hrounds]
    exact hform (rndOf rm) rfl
  · have hform := floatForm_fpUn (i := .vfract vd va ty h) hok rfl
    refine Eq.mp (congrArg (fun y => FloatForm s _ ty vd y _ _) (funext fun l => ?_)) hform
    change roundTo f .rdn (XVal.sub (a l) (XVal.integral .rdn (a l))) = _
    cases ha : a l with
    | nan => rfl
    | inf g => cases g <;> rfl
    | fin g n d => exact fract_fin f g n (Fmt.value_fin (fmtOf_e4m3 hfp) ha).1

/-! ## Bounds of the series of VEXP2 -/

section Series

variable (p : Nat)

/-- The terms of atanh 1/3, from below. -/
theorem atanhSum_le {zz : Nat} (hzz : (zz : ℝ) ≤ 2 ^ p * (1 / 3) ^ 2) (fuel k t : Nat) (ht : (t : ℝ) ≤ 2 ^ p * (1 / 3) ^ (2 * k + 1)) :
    (atanhSum p zz fuel k t : ℝ) ≤ 2 ^ p * ∑ j ∈ Finset.range fuel, (1 / 3 : ℝ) ^ (2 * (k + j) + 1) / (2 * (k + j : ℕ) + 1) := by
  induction fuel generalizing k t with
  | zero => simp [atanhSum]
  | succ fuel ih =>
    have hp : (0 : ℝ) < 2 ^ p := by positivity
    have hnext : ((t * zz / 2 ^ p : Nat) : ℝ) ≤ 2 ^ p * (1 / 3) ^ (2 * (k + 1) + 1) := by
      calc ((t * zz / 2 ^ p : Nat) : ℝ) ≤ (t * zz : Nat) / (2 ^ p : Nat) := Nat.cast_div_le
        _ = t * zz / 2 ^ p := by push_cast; ring
        _ ≤ 2 ^ p * (1 / 3) ^ (2 * k + 1) * (2 ^ p * (1 / 3) ^ 2) / 2 ^ p := by gcongr
        _ = 2 ^ p * (1 / 3) ^ (2 * (k + 1) + 1) := by field_simp; ring
    have hterm : ((t / (2 * k + 1) : Nat) : ℝ) ≤ 2 ^ p * ((1 / 3) ^ (2 * k + 1) / (2 * k + 1)) := by
      calc ((t / (2 * k + 1) : Nat) : ℝ) ≤ t / (2 * k + 1 : Nat) := Nat.cast_div_le
        _ ≤ 2 ^ p * (1 / 3) ^ (2 * k + 1) / (2 * k + 1 : Nat) := by gcongr
        _ = 2 ^ p * ((1 / 3) ^ (2 * k + 1) / (2 * k + 1)) := by push_cast; ring
    rw [atanhSum, Finset.sum_range_succ', mul_add, Nat.cast_add, add_comm]
    refine add_le_add ?_ (by simpa using hterm)
    simpa only [Nat.add_assoc, Nat.add_comm 1] using ih (k + 1) _ hnext

/-- ln 2 of the model lies below the number. -/
theorem ln2Fix_le_log : (ln2Fix p : ℝ) ≤ 2 ^ p * Real.log 2 := by
  have hthird : ((2 ^ p / 3 : Nat) : ℝ) ≤ 2 ^ p * (1 / 3) := by
    refine Nat.cast_div_le.trans (le_of_eq ?_)
    push_cast; ring
  have hzz : ((2 ^ p / 3 * (2 ^ p / 3) / 2 ^ p : Nat) : ℝ) ≤ 2 ^ p * (1 / 3) ^ 2 := by
    calc ((2 ^ p / 3 * (2 ^ p / 3) / 2 ^ p : Nat) : ℝ) ≤ (2 ^ p / 3 * (2 ^ p / 3) : Nat) / (2 ^ p : Nat) := Nat.cast_div_le
      _ ≤ 2 ^ p * (1 / 3) * (2 ^ p * (1 / 3)) / 2 ^ p := by push_cast at hthird ⊢; gcongr
      _ = 2 ^ p * (1 / 3) ^ 2 := by field_simp
  have hsum := atanhSum_le p hzz (p / 3 + 4) 0 (2 ^ p / 3) (by simpa using hthird)
  have hlog := Real.hasSum_log_sub_log_of_abs_lt_one (x := 1 / 3) (by norm_num [abs_lt])
  have hpart := sum_le_hasSum (Finset.range (p / 3 + 4)) (fun k _ => by positivity) hlog
  have htwo : Real.log (1 + 1 / 3) - Real.log (1 - 1 / 3) = Real.log 2 := by
    rw [← Real.log_div (by norm_num) (by norm_num)]; norm_num
  rw [htwo] at hpart
  rw [ln2Fix, atanhFix]
  push_cast
  calc (2 : ℝ) * (atanhSum p (2 ^ p / 3 * (2 ^ p / 3) / 2 ^ p) (p / 3 + 4) 0 (2 ^ p / 3) : ℝ)
      ≤ 2 * (2 ^ p * ∑ j ∈ Finset.range (p / 3 + 4), (1 / 3 : ℝ) ^ (2 * (0 + j) + 1) / (2 * (0 + j : ℕ) + 1)) := by gcongr
    _ = 2 ^ p * ∑ j ∈ Finset.range (p / 3 + 4), 2 * (1 / (2 * (j : ℝ) + 1)) * (1 / 3) ^ (2 * j + 1) := by
        rw [← mul_assoc, mul_comm 2, mul_assoc, Finset.mul_sum]
        congr 1
        refine Finset.sum_congr rfl fun j _ => ?_
        rw [Nat.zero_add]; ring
    _ ≤ 2 ^ p * Real.log 2 := by gcongr

theorem expSum_le (x fuel k t : Nat) (ht : (t : ℝ) ≤ 2 ^ p * ((x / 2 ^ p : ℝ) ^ k / k.factorial)) :
    (expSum p x fuel k t : ℝ) ≤ 2 ^ p * ∑ j ∈ Finset.range fuel, (x / 2 ^ p : ℝ) ^ (k + j) / (k + j).factorial := by
  induction fuel generalizing k t with
  | zero => simp [expSum]
  | succ fuel ih =>
    have hnext : ((t * x / 2 ^ p / (k + 1) : Nat) : ℝ) ≤ 2 ^ p * ((x / 2 ^ p : ℝ) ^ (k + 1) / (k + 1).factorial) := by
      calc ((t * x / 2 ^ p / (k + 1) : Nat) : ℝ) ≤ ((t * x / 2 ^ p : Nat) : ℝ) / (k + 1 : Nat) := Nat.cast_div_le
        _ ≤ ((t * x : Nat) : ℝ) / (2 ^ p : Nat) / (k + 1 : Nat) := by gcongr; exact Nat.cast_div_le
        _ = t * (x / 2 ^ p) / (k + 1 : Nat) := by push_cast; ring
        _ ≤ 2 ^ p * ((x / 2 ^ p : ℝ) ^ k / k.factorial) * (x / 2 ^ p) / (k + 1 : Nat) := by gcongr
        _ = 2 ^ p * ((x / 2 ^ p : ℝ) ^ (k + 1) / (k + 1).factorial) := by
            rw [Nat.factorial_succ, pow_succ]; push_cast; field_simp
    rw [expSum, Finset.sum_range_succ', mul_add, Nat.cast_add, add_comm]
    refine add_le_add ?_ (by simpa using ht)
    simpa only [Nat.add_assoc, Nat.add_comm 1] using ih (k + 1) _ hnext

/-- e^x of the model lies below the number. -/
theorem expFix_le_exp (x : Nat) : (expFix p x : ℝ) ≤ 2 ^ p * Real.exp (x / 2 ^ p) := by
  refine (expSum_le p x (p / 2 + 8) 0 (2 ^ p) (by simp)).trans ?_
  gcongr
  simpa using Real.sum_le_exp_of_nonneg (x := (x / 2 ^ p : ℝ)) (by positivity) (p / 2 + 8)

/-- Its first two terms lie below it. -/
theorem le_expFix (x : Nat) : 2 ^ p + x ≤ expFix p x := by
  rw [expFix, show p / 2 + 8 = (p / 2 + 6) + 1 + 1 by omega, expSum, expSum, Nat.mul_div_cancel_left _ (Nat.two_pow_pos p)]
  omega

/-- 2^(r / d) of the model is at most 2. -/
theorem expFix_le_two {r d : Nat} (hr : r ≤ d) : expFix p (r * ln2Fix p / d) ≤ 2 * 2 ^ p := by
  have hexp : ((r * ln2Fix p / d : Nat) : ℝ) / 2 ^ p ≤ Real.log 2 := by
    rw [div_le_iff₀ (by positivity)]
    calc ((r * ln2Fix p / d : Nat) : ℝ) ≤ (ln2Fix p : Nat) := by
          exact_mod_cast Nat.div_le_of_le_mul (Nat.mul_le_mul_right _ hr)
      _ ≤ Real.log 2 * 2 ^ p := by rw [mul_comm]; exact ln2Fix_le_log p
  have hle : (expFix p (r * ln2Fix p / d) : ℝ) ≤ (2 * 2 ^ p : Nat) := by
    calc (expFix p (r * ln2Fix p / d) : ℝ) ≤ 2 ^ p * Real.exp (((r * ln2Fix p / d : Nat) : ℝ) / 2 ^ p) := expFix_le_exp p _
      _ ≤ 2 ^ p * Real.exp (Real.log 2) := by gcongr
      _ = (2 * 2 ^ p : Nat) := by rw [Real.exp_log (by norm_num)]; push_cast; ring
  exact_mod_cast hle

theorem le_ln2Fix (hp : 3 ≤ p) : 2 ^ (p - 1) ≤ ln2Fix p := by
  have hpow : 2 ^ p = 8 * 2 ^ (p - 3) := by rw [← Nat.pow_sub_mul_pow 2 hp, Nat.mul_comm]
  have hhalf : 2 ^ (p - 1) = 4 * 2 ^ (p - 3) := by
    rw [← Nat.pow_sub_mul_pow 2 (show 2 ≤ p - 1 by omega), Nat.mul_comm]; rfl
  have hpos := Nat.two_pow_pos (p - 3)
  have hfirst : 2 ^ p / 3 ≤ atanhFix p (2 ^ p / 3) := by
    rw [atanhFix, show p / 3 + 4 = (p / 3 + 3) + 1 by omega, atanhSum, Nat.mul_zero, Nat.zero_add, Nat.div_one]
    exact Nat.le_add_right _ _
  rw [ln2Fix]
  omega

end Series

/-! ## The smallest magnitudes (R64) -/

/-- The smallest magnitude of the format is 2^-least. -/
def Fmt.least (f : Fmt) : Nat := f.bias + f.frac - 1

section Least

variable {f : Fmt}

theorem floorLog2_le (n d : Nat) : floorLog2 n d ≤ (n.log2 : Int) - d.log2 := by
  simp only [floorLog2]
  split <;> omega

theorem log2_add_le {n d k : Nat} (hn : n ≠ 0) (h : n * 2 ^ k ≤ d) : n.log2 + k ≤ d.log2 := by
  have hpos : 0 < n * 2 ^ k := Nat.mul_pos (Nat.pos_of_ne_zero hn) (Nat.two_pow_pos k)
  refine (Nat.le_log2 (by omega)).2 (le_trans ?_ h)
  rw [Nat.pow_add]
  exact Nat.mul_le_mul_right _ (Nat.log2_self_le hn)

/-- Up to the smallest magnitude the grid is that of the subnormals. -/
theorem gridExponent_least (hfrac : 1 ≤ f.frac) (hbias : 1 ≤ f.bias) {n d : Nat} (hn : n ≠ 0) (h : n * 2 ^ f.least ≤ d) :
    gridExponent f n d = -(f.least : Int) := by
  have hlog := log2_add_le hn h
  have hfloor := floorLog2_le n d
  have hleast : f.least = f.bias + f.frac - 1 := rfl
  rw [gridExponent, max_eq_right (by omega)]
  omega

/-- What lies at or below half of the smallest magnitude rounds to zero, what lies above half of it to the smallest. -/
theorem roundTo_least (he : f.e4m3 = false) (hfrac : 1 ≤ f.frac) (hbias : 1 ≤ f.bias) (hmax : 1 ≤ f.maxBits) {n d : Nat}
    (h : n * 2 ^ f.least ≤ d) :
    roundTo f .rne (.fin false n d) = if d < 2 * (n * 2 ^ f.least) then 1 else 0 := by
  rcases Nat.eq_zero_or_pos n with rfl | hn
  · simp [roundTo]
  · have hpow : 1 < 2 ^ f.frac := Nat.one_lt_two_pow (by omega)
    have hscale : scale2 n d (- -(f.least : Int)) = (n * 2 ^ f.least, d) := by
      rw [scale2, if_pos (by omega)]; simp
    have hmag : roundMagnitude f .rne false n d = if d < 2 * (n * 2 ^ f.least) then 1 else 0 := by
      rw [roundMagnitude, gridExponent_least hfrac hbias hn.ne' h, hscale]
      have hm : 0 < n * 2 ^ f.least := Nat.mul_pos hn (Nat.two_pow_pos _)
      generalize n * 2 ^ f.least = m at h hm
      rcases Nat.lt_or_eq_of_le h with hlt | rfl
      · simp only [Nat.div_eq_of_lt hlt, Nat.mod_eq_of_lt hlt, roundsUp]
        by_cases hup : d < 2 * m
        · simp [hup, hpow]; omega
        · simp [hup]
      · simp only [Nat.div_self hm, Nat.mod_self, roundsUp]
        rw [if_pos (show m < 2 * m by omega)]
        simp [hm.ne, hpow]
        omega
    simp [roundTo, he, hn.ne', hmag]

end Least

/-! ## The smallest results of VEXP2 (R172) -/

section Exp2

variable {f : Fmt}

/-- The end of an enclosure at some precision decides. -/
theorem roundEnclosed_mem (m : Rnd) (enclose : Nat → Int × Int) {ps : List Nat} (hps : ps ≠ []) :
    ∃ p ∈ ps, roundEnclosed f m enclose ps = roundTo f m (fixedValue p (enclose p).1) := by
  induction ps with
  | nil => exact absurd rfl hps
  | cons p ps ih =>
    cases ps with
    | nil => exact ⟨p, List.mem_cons_self, rfl⟩
    | cons q qs =>
      rw [roundEnclosed]
      by_cases hsame : roundTo f m (fixedValue p (enclose p).1) = roundTo f m (fixedValue p (enclose p).2)
      · exact ⟨p, List.mem_cons_self, if_pos hsame⟩
      · obtain ⟨x, hx, heq⟩ := ih (by simp)
        exact ⟨x, List.mem_cons_of_mem _ hx, (if_neg hsame).trans heq⟩
      · simp

theorem le_of_mem_precisions {p : Nat} (hp : p ∈ precisions) : 192 ≤ p := by
  simp only [precisions, List.mem_cons, List.not_mem_nil, or_false] at hp
  omega

/-- The lower end for a negative exponent. -/
theorem encloseExp2_fst {k : Nat} (hk : 0 < k) (r d p : Nat) :
    fixedValue p (encloseExp2 (-(k : Int)) r d p).1 = .fin false (expFix p (r * ln2Fix p / d) / 2 ^ k) (2 ^ p) := by
  have hneg : ¬ (0 : Int) ≤ -(k : Int) := by omega
  have hnat : ¬ ((expFix p (r * ln2Fix p / d) / 2 ^ k : Nat) : Int) < 0 := Int.not_lt.2 (Int.natCast_nonneg _)
  simp only [encloseExp2, if_neg hneg, Int.neg_neg, Int.toNat_natCast, fixedValue, decide_eq_false hnat, Int.natAbs_natCast]

/-- A negative fraction as an integer and what is left above it. -/
theorem exists_ceil (n : Nat) {d : Nat} (hd : 0 < d) :
    ∃ k r, n + r = k * d ∧ r < d ∧ signedNum true n / (d : Int) = -(k : Int) ∧ (signedNum true n % (d : Int)).toNat = r := by
  have hdiv := Nat.div_add_mod (n + (d - 1)) d
  have hlt := Nat.mod_lt (n + (d - 1)) hd
  refine ⟨(n + (d - 1)) / d, d - 1 - (n + (d - 1)) % d, ?_, by omega, ?_⟩
  · rw [Nat.mul_comm]; omega
  · have hquot := (Int.ediv_emod_unique (a := signedNum true n) (r := ((d - 1 - (n + (d - 1)) % d : Nat) : Int))
      (q := -(((n + (d - 1)) / d : Nat) : Int)) (b := (d : Int)) (by exact_mod_cast hd)).2 ⟨?_, by omega, by omega⟩
    · exact ⟨hquot.1, by rw [hquot.2, Int.toNat_natCast]⟩
    · have hsum : n + (d - 1 - (n + (d - 1)) % d) = d * ((n + (d - 1)) / d) := by omega
      have hcast : (n : Int) + ((d - 1 - (n + (d - 1)) % d : Nat) : Int) = d * (((n + (d - 1)) / d : Nat) : Int) := by
        exact_mod_cast hsum
      simp only [signedNum, if_true]
      linarith

/-- An integral power below the smallest magnitude and at it. -/
theorem roundTo_two_pow_neg (he : f.e4m3 = false) (hfrac : 1 ≤ f.frac) (hbias : 1 ≤ f.bias) (hmax : 1 ≤ f.maxBits) {k : Nat}
    (hk : f.least ≤ k) : roundTo f .rne (.fin false 1 (2 ^ k)) = if k = f.least then 1 else 0 := by
  rw [roundTo_least he hfrac hbias hmax (by rw [Nat.one_mul]; exact Nat.pow_le_pow_right (by omega) hk), Nat.one_mul,
    ← Nat.pow_succ']
  simp only [Nat.pow_lt_pow_iff_right (a := 2) (by omega)]
  grind

/-- What the enclosure gives below the smallest magnitude, and just below it. -/
theorem roundTo_encloseExp2 (he : f.e4m3 = false) (hfrac : 1 ≤ f.frac) (hbias : 1 ≤ f.bias) (hmax : 1 ≤ f.maxBits)
    (hlow : f.least ≤ 149) {k r d p : Nat} (hp : 192 ≤ p) (hk : f.least + 1 ≤ k) (hr : 0 < r) (hrd : r < d) (hd : d ≤ 2 ^ 20) :
    roundTo f .rne (fixedValue p (encloseExp2 (-(k : Int)) r d p).1) = if k = f.least + 1 then 1 else 0 := by
  rw [encloseExp2_fst (by omega)]
  have hupper := expFix_le_two p (Nat.le_of_lt hrd)
  have hlower : 2 ^ p + 2 ^ (f.least + 1) ≤ expFix p (r * ln2Fix p / d) := by
    refine le_trans (Nat.add_le_add_left ?_ _) (le_expFix p _)
    rw [Nat.le_div_iff_mul_le (by omega)]
    calc 2 ^ (f.least + 1) * d ≤ 2 ^ (f.least + 1) * 2 ^ 20 := Nat.mul_le_mul_left _ hd
      _ = 2 ^ (f.least + 1 + 20) := (Nat.pow_add ..).symm
      _ ≤ 2 ^ (p - 1) := Nat.pow_le_pow_right (by omega) (by omega)
      _ ≤ ln2Fix p := le_ln2Fix p (by omega)
      _ ≤ r * ln2Fix p := Nat.le_mul_of_pos_left _ hr
  generalize expFix p (r * ln2Fix p / d) = v at hupper hlower
  have hpow : 2 ^ (f.least + 1) = 2 * 2 ^ f.least := Nat.pow_succ'
  have hdown : v / 2 ^ k * 2 ^ k ≤ v := Nat.div_mul_le_self v _
  have hmono : v / 2 ^ k * 2 ^ (f.least + 1) ≤ v / 2 ^ k * 2 ^ k :=
    Nat.mul_le_mul_left _ (Nat.pow_le_pow_right (by omega) hk)
  have hdouble : v / 2 ^ k * 2 ^ (f.least + 1) = 2 * (v / 2 ^ k * 2 ^ f.least) := by rw [hpow]; ring
  rw [roundTo_least he hfrac hbias hmax (by omega)]
  by_cases hat : k = f.least + 1
  · have hup : v < (v / 2 ^ k + 1) * 2 ^ k := by
      rw [Nat.mul_comm]; exact Nat.lt_mul_div_succ v (Nat.two_pow_pos k)
    rw [Nat.add_mul, Nat.one_mul] at hup
    subst hat
    rw [if_pos rfl, if_pos (by omega)]
  · have hquad : v / 2 ^ k * 2 ^ (f.least + 2) ≤ v / 2 ^ k * 2 ^ k :=
      Nat.mul_le_mul_left _ (Nat.pow_le_pow_right (by omega) (by omega))
    have hfour : v / 2 ^ k * 2 ^ (f.least + 2) = 4 * (v / 2 ^ k * 2 ^ f.least) := by rw [Nat.pow_add]; ring
    rw [if_neg hat, if_neg (by omega)]

/-- The smallest results: zero from one binade below the smallest magnitude on, and that magnitude above. -/
theorem exp2Round_least (he : f.e4m3 = false) (hfrac : 1 ≤ f.frac) (hfrac' : f.frac ≤ 23) (hbias : 1 ≤ f.bias) (hmax : 1 ≤ f.maxBits)
    (hlow : f.least ≤ 149) (hhigh : 24 ≤ f.least) {n d : Nat} (hd : 0 < d) (hnd : d = 1 ∨ n < 2 ^ (f.frac + 1))
    (hn : f.least * d ≤ n) : exp2Round f (.fin true n d) = if n < (f.least + 1) * d then 1 else 0 := by
  by_cases hfar : 4096 * d ≤ n
  · have hnot : ¬ n < (f.least + 1) * d := by
      have : (f.least + 1) * d ≤ 150 * d := Nat.mul_le_mul_right _ (by omega)
      omega
    rw [if_neg hnot]
    simp only [exp2Round, if_pos hfar, if_true]
  · obtain ⟨k, r, hsum, hrd, hquot, hrem⟩ := exists_ceil n hd
    simp only [exp2Round, if_neg hfar, hquot, hrem]
    by_cases hr : r = 0
    · subst hr
      have hkl : f.least ≤ k := Nat.le_of_mul_le_mul_right (by omega) hd
      have hscale : scale2 1 1 (-(k : Int)) = (1, 2 ^ k) := by
        rw [scale2, if_neg (by omega), Int.neg_neg, Int.toNat_natCast, Nat.one_mul]
      rw [if_pos rfl, hscale, roundTo_two_pow_neg he hfrac hbias hmax hkl]
      have hiff : n < (f.least + 1) * d ↔ k = f.least := by
        rw [← Nat.add_zero n, hsum, Nat.mul_lt_mul_right hd]; omega
      simp only [hiff]
    · have hkl : f.least + 1 ≤ k := Nat.lt_of_mul_lt_mul_right (a := d) (by omega)
      have hsmall : d ≤ 2 ^ 20 := by
        have hpow : 2 ^ (f.frac + 1) ≤ 2 ^ 24 := Nat.pow_le_pow_right (by omega) (by omega)
        have hmul : 24 * d ≤ f.least * d := Nat.mul_le_mul_right _ hhigh
        omega
      obtain ⟨p, hp, hround⟩ := roundEnclosed_mem (f := f) .rne (encloseExp2 (-(k : Int)) r d) (ps := precisions) (by decide)
      rw [if_neg hr, hround, roundTo_encloseExp2 he hfrac hbias hmax hlow (le_of_mem_precisions hp) hkl (by omega) hrd hsmall]
      have hiff : n < (f.least + 1) * d ↔ k = f.least + 1 := by
        constructor
        · intro hlt
          have : k < f.least + 1 + 1 := Nat.lt_of_mul_lt_mul_right (a := d) (by rw [Nat.add_mul (f.least + 1)]; omega)
          omega
        · rintro rfl; omega
      simp only [hiff]

end Exp2

/-! ## The forms -/

section Special

variable {ty : Ty}

/-- The special operands of 1 / √a. -/
theorem rsqrt_special (hfp : ty.isFp3 = true) (m : Rnd) (x : XVal) :
    let f := fmtOf ty
    let y := roundTo f m (rsqrtX x)
    (x = .nan → y = f.canonicalNaN) ∧ ((x.isNeg && !x.isZero) = true → y = f.canonicalNaN) ∧
      (∀ g d, x = .fin g 0 d → y = f.infBits + if g then 2 ^ (ty.width - 1) else 0) ∧ (x = .inf false → y = 0) ∧
      ∀ n d, x = .fin false n d → n ≠ 0 → y = roundTo f m (XVal.sqrt (.fin false d n)) := by
  refine ⟨?_, fun hneg => ?_, ?_, ?_, ?_⟩
  · rintro rfl; rfl
  · cases x with
    | nan => rfl
    | inf g => simp_all [XVal.isNeg, XVal.isZero, rsqrtX]
    | fin g n d => simp_all [XVal.isNeg, XVal.isZero, rsqrtX]
  · rintro g d rfl; exact roundTo_inf hfp m g
  · rintro rfl; simpa [rsqrtX, XVal.zero] using roundTo_zero hfp m false 1
  · rintro n d rfl hn; simp [rsqrtX, hn]

/-- The special operands of √a. -/
theorem sqrt_special (hfp : ty.isFp3 = true) (m : Rnd) (x : XVal) :
    let f := fmtOf ty
    let y := roundTo f m (XVal.sqrt x)
    (x = .nan → y = f.canonicalNaN) ∧ ((x.isNeg && !x.isZero) = true → y = f.canonicalNaN) ∧
      (∀ g d, x = .fin g 0 d → y = if g then 2 ^ (ty.width - 1) else 0) ∧
      (x = .inf false → y = f.infBits + if false then 2 ^ (ty.width - 1) else 0) := by
  refine ⟨?_, fun hneg => ?_, ?_, ?_⟩
  · rintro rfl; rfl
  · cases x with
    | nan => rfl
    | inf g => simp_all [XVal.isNeg, XVal.isZero, XVal.sqrt]
    | fin g n d => simp_all [XVal.isNeg, XVal.isZero, XVal.sqrt]
  · rintro g d rfl; simpa [XVal.sqrt] using roundTo_zero hfp m g 1
  · rintro rfl; exact roundTo_inf hfp m false

theorem fmtOf_least : ty.isFp3 = true → (fmtOf ty).least = match ty with
    | .f32 => 149
    | .f16 => 24
    | _ => 133 := by
  cases ty <;> decide

theorem fmtOf_bounds (hfp : ty.isFp3 = true) : 1 ≤ (fmtOf ty).frac ∧ (fmtOf ty).frac ≤ 23 ∧ 1 ≤ (fmtOf ty).bias ∧
    1 ≤ (fmtOf ty).maxBits ∧ (fmtOf ty).least ≤ 149 ∧ 24 ≤ (fmtOf ty).least := by
  revert hfp
  cases ty <;> decide

/-- The special operands and the smallest results of VEXP2. -/
theorem exp2_special (hfp : ty.isFp3 = true) (b : Nat) :
    let f := fmtOf ty
    let x := f.value b
    let y := exp2Round f x
    (x = .nan → y = f.canonicalNaN) ∧ (x = .inf true → y = 0) ∧
      (x = .inf false → y = f.infBits + if false then 2 ^ (ty.width - 1) else 0) ∧
      ∀ n d, x = .fin true n d → ((f.least + 1) * d ≤ n → y = 0) ∧ (f.least * d ≤ n → n < (f.least + 1) * d → y = 1) := by
  intro f x y
  refine ⟨fun h => by simp only [y, h]; rfl, fun h => by simp only [y, h]; rfl, fun h => by simp only [y, h]; rfl, fun n d h => ?_⟩
  obtain ⟨hd, hnd⟩ := Fmt.value_fin (fmtOf_e4m3 hfp) h
  obtain ⟨hfrac, hfrac', hbias, hmax, hlow, hhigh⟩ := fmtOf_bounds hfp
  have hy : f.least * d ≤ n → y = if n < (f.least + 1) * d then 1 else 0 := by
    intro hn
    simp only [y, h]
    exact exp2Round_least (fmtOf_e4m3 hfp) hfrac hfrac' hbias hmax hlow hhigh hd hnd hn
  rw [Nat.add_mul, Nat.one_mul] at hy ⊢
  exact ⟨fun hn => (hy (by omega)).trans (if_neg (by omega)), fun hn hlt => (hy hn).trans (if_pos hlt)⟩

/-- The special operands of log₂ a. -/
theorem log2_special (hfp : ty.isFp3 = true) (x : XVal) :
    let f := fmtOf ty
    let y := log2Round f x
    (x = .nan → y = f.canonicalNaN) ∧ ((x.isNeg && !x.isZero) = true → y = f.canonicalNaN) ∧
      (∀ g d, x = .fin g 0 d → y = f.infBits + if true then 2 ^ (ty.width - 1) else 0) ∧
      (x = .inf false → y = f.infBits + if false then 2 ^ (ty.width - 1) else 0) ∧
      ∀ d, x = .fin false d d → 0 < d → y = 0 := by
  refine ⟨?_, fun hneg => ?_, ?_, ?_, ?_⟩
  · rintro rfl; rfl
  · cases x with
    | nan => rfl
    | inf g => simp_all [XVal.isNeg, XVal.isZero, log2Round]
    | fin g n d => simp_all [XVal.isNeg, XVal.isZero, log2Round]
  · rintro g d rfl; simp [log2Round, fmtOf_signBit hfp]
  · rintro rfl; rfl
  · rintro d rfl hd
    have hscale : scale2 d d 0 = (d, d) := by simp [scale2]
    have hlog : floorLog2 d d = 0 := by simp [floorLog2, hscale]
    simpa [log2Round, hd.ne', hlog, hscale, XVal.ofInt] using roundTo_zero hfp .rne false 1

/-- The special operands of sin a and cos a. -/
theorem trig_special (hfp : ty.isFp3 = true) (x : XVal) :
    let f := fmtOf ty
    (x = .nan → sinRound f x = f.canonicalNaN ∧ cosRound f x = f.canonicalNaN) ∧
      (∀ g, x = .inf g → sinRound f x = f.canonicalNaN ∧ cosRound f x = f.canonicalNaN) ∧
      ∀ g d, x = .fin g 0 d → sinRound f x = (if g then 2 ^ (ty.width - 1) else 0) ∧
        cosRound f x = roundTo f .rne (.fin false 1 1) := by
  refine ⟨?_, ?_, ?_⟩
  · rintro rfl; exact ⟨rfl, rfl⟩
  · rintro g rfl; exact ⟨rfl, rfl⟩
  · rintro g d rfl; exact ⟨by simp [sinRound, fmtOf_signBit hfp], rfl⟩

end Special

theorem floatFunctionForms : Claims.FloatFunctionForms := by
  intro s vd va ty rm h hok f a T none one inf zero ln2 slope neg least
  have hfp := hok.1
  have hleast : least = f.least := (fmtOf_least hfp).symm
  let x := fun l => s.grp.elem ty va l
  have form := fun (i : Instr) (y : Fmt → Nat → Nat) (e : Fmt → XVal → Nat → Nat → XVal)
    (hrun : exec i s = fpUn false y e vd va ty s) => floatForm_fpUn hok hrun
  rw [hleast]
  refine ⟨?_, ⟨fun l => rsqF rm f (x l), fun l => rsqrt_special hfp _ (a l), ?_⟩, ⟨fun l => sqrt_special hfp _ (a l), ?_⟩,
    ⟨fun l => exp2F f (x l), fun l => exp2_special hfp (x l), ?_⟩, ⟨fun l => log2F f (x l), fun l => log2_special hfp (a l), ?_⟩,
    ⟨fun l => sinF f (x l), fun l => cosF f (x l), fun l => trig_special hfp (a l), ?_, ?_⟩⟩
  · exact form (.vrcp vd va ty rm h) (rcpF rm) tanRcp rfl
  · exact form (.vrsq vd va ty rm h) (rsqF rm) tanRsq rfl
  · exact form (.vsqrt vd va ty rm h) (sqrtF rm) (fun f ta _ y => sz ta (recipSlope two (f.value y))) rfl
  · exact form (.vexp2 vd va ty h) exp2F (fun f ta _ y => sz ta (XVal.mul lnTwo (f.value y))) rfl
  · exact form (.vlog2 vd va ty h) log2F (fun f ta a _ => sz ta (recipSlope lnTwo (f.value a))) rfl
  · exact form (.vsin vd va ty h) sinF (fun f ta a _ => sz ta (f.value (cosF f a))) rfl
  · exact form (.vcos vd va ty h) cosF (fun f ta a _ => sz ta (f.value (sinF f a)).neg) rfl

/-- Settles O45: each form is the form of one operand with its function; the special operands are cases of the functions, and the
smallest results of VEXP2 follow from the bounds of its series. -/
theorem floatFunctions : Obligations.FloatFunctions := ⟨floatFunctionForms, floatToIntegral⟩

end Sys2Proof.Machine
end

section
/-!
PROOF. Writes of the scratchpad (R63, R96, R205): what bytes, errors and elements a list of writes leaves, and the elements and
tangents of the forms that store.
-/

namespace Sys2Proof.Machine

open Sys2Proof.Claims

/-! ## Bytes of a number (R63) -/

section Bytes

@[simp] theorem length_bytesOf (n x : Nat) : (bytesOf n x).length = n := by
  induction n generalizing x with
  | zero => rfl
  | succ n ih => rw [bytesOf, List.length_cons, ih]

theorem ofBytes_bytesOf (n x : Nat) : ofBytes (bytesOf n x) = x % 2 ^ (8 * n) := by
  induction n generalizing x with
  | zero => simp [bytesOf, ofBytes, Nat.mod_one]
  | succ n ih =>
    have hpow : 2 ^ (8 * (n + 1)) = 256 * 2 ^ (8 * n) := by rw [Nat.mul_succ, Nat.pow_add]; ring
    rw [bytesOf, ofBytes, ih, BitVec.toNat_ofNat, hpow, Nat.mod_mul]

/-- Bytes read one by one are a number again. -/
theorem getRange_eq {m : Memory} {a : Nat} {bs : List Byte} (h : ∀ i (hi : i < bs.length), Sparse.get 0 m (a + i) = bs[i]) :
    Sparse.getRange 0 m a bs.length = bs := by
  refine List.ext_getElem (by simp [Sparse.getRange]) fun i hi hi' => ?_
  simp only [Sparse.getRange, List.getElem_map, List.getElem_range, h i hi']

/-- What is read depends on the bytes read. -/
theorem getRange_congr {m m' : Memory} {a n : Nat} (h : ∀ k, a ≤ k → k < a + n → Sparse.get 0 m k = Sparse.get 0 m' k) :
    Sparse.getRange 0 m a n = Sparse.getRange 0 m' a n :=
  List.map_congr_left fun _ hi => h _ (Nat.le_add_right _ _) (Nat.add_lt_add_left (List.mem_range.1 hi) _)

theorem Sparse.get_clearRange {α : Type} (d : α) (m : Sparse α) (lo hi k : Nat) :
    Sparse.get d (Sparse.clearRange m lo hi) k = if lo ≤ k ∧ k < hi then d else Sparse.get d m k := by
  induction m with
  | nil => simp [Sparse.clearRange]
  | cons p m ih =>
    obtain ⟨j, v⟩ := p
    rw [Sparse.clearRange] at ih ⊢
    rw [List.filter_cons]
    by_cases hout : j < lo ∨ hi ≤ j
    · rw [if_pos (by simpa using hout), Sparse.get, Sparse.get, ih]
      by_cases hjk : j = k
      · rw [if_pos hjk, if_pos hjk, if_neg (by omega)]
      · rw [if_neg hjk, if_neg hjk]
    · rw [if_neg (by simpa using hout), ih, Sparse.get]
      by_cases hin : lo ≤ k ∧ k < hi
      · rw [if_pos hin, if_pos hin]
      · rw [if_neg hin, if_neg hin, if_neg (by omega)]

end Bytes

/-! ## A list of writes -/

/-- Bytes written one run after another. -/
def Gang.putAll (y : Gang) (ws : List (Nat × List Byte)) : Gang := ws.foldl (fun y w => y.putSpad w.1 w.2) y

/-- Does the write reach byte k? -/
def Reaches (w : Nat × List Byte) (k : Nat) : Prop := w.1 ≤ k ∧ k < w.1 + w.2.length

section PutAll

variable (y : Gang) (ws : List (Nat × List Byte))

theorem Gang.putAll_cons (w : Nat × List Byte) : y.putAll (w :: ws) = (y.putSpad w.1 w.2).putAll ws := rfl

theorem Gang.putAll_append (vs : List (Nat × List Byte)) : y.putAll (ws ++ vs) = (y.putAll ws).putAll vs := by
  rw [Gang.putAll, List.foldl_append]; rfl

theorem Gang.putAll_keep : y.putAll ws = { y with spad := (y.putAll ws).spad, errs := (y.putAll ws).errs } := by
  induction ws generalizing y with
  | nil => rfl
  | cons w ws ih => rw [Gang.putAll_cons, ih]; rfl

/-- A byte that no write reaches keeps its value and its error. -/
theorem Gang.putAll_out {k : Nat} (h : ∀ w ∈ ws, ¬ Reaches w k) :
    Sparse.get 0 (y.putAll ws).spad k = Sparse.get 0 y.spad k ∧ Sparse.get 0 (y.putAll ws).errs k = Sparse.get 0 y.errs k := by
  induction ws generalizing y with
  | nil => exact ⟨rfl, rfl⟩
  | cons w ws ih =>
    obtain ⟨hspad, herrs⟩ := ih (y.putSpad w.1 w.2) fun v hv => h v (List.mem_cons_of_mem _ hv)
    have hw : ¬ (w.1 ≤ k ∧ k < w.1 + w.2.length) := h w List.mem_cons_self
    rw [Gang.putAll_cons, hspad, herrs]
    exact ⟨Sparse.get_setRange_out _ (by omega), (Sparse.get_clearRange _ _ _ _ _).trans (if_neg hw)⟩

/-- No error stands in a byte that a write reaches (R205). -/
theorem Gang.putAll_errs {k : Nat} (h : (∃ w ∈ ws, Reaches w k) ∨ Sparse.get 0 y.errs k = 0) :
    Sparse.get 0 (y.putAll ws).errs k = 0 := by
  induction ws generalizing y with
  | nil => exact h.resolve_left (by simp)
  | cons w ws ih =>
    rw [Gang.putAll_cons]
    refine ih _ ?_
    have hstep : Sparse.get 0 (y.putSpad w.1 w.2).errs k =
        if w.1 ≤ k ∧ k < w.1 + w.2.length then 0 else Sparse.get 0 y.errs k := Sparse.get_clearRange _ _ _ _ _
    rcases h with ⟨v, hv, hk⟩ | hold
    · rcases List.mem_cons.1 hv with rfl | hv
      · exact .inr (hstep.trans (if_pos hk))
      · exact .inl ⟨v, hv, hk⟩
    · exact .inr (by rw [hstep, hold]; simp)

/-- The bytes of a write that every other one leaves alone stand afterwards. -/
theorem Gang.putAll_get {a : Nat} {bs : List Byte} (hothers : ∀ w ∈ ws, w = (a, bs) ∨ ∀ k, Reaches w k → ¬ Reaches (a, bs) k)
    {i : Nat} (hi : i < bs.length) (h : (a, bs) ∈ ws ∨ Sparse.get 0 y.spad (a + i) = bs[i]) :
    Sparse.get 0 (y.putAll ws).spad (a + i) = bs[i] := by
  induction ws generalizing y with
  | nil => exact h.resolve_left (by simp)
  | cons w ws ih =>
    rw [Gang.putAll_cons]
    refine ih _ (fun v hv => hothers v (List.mem_cons_of_mem _ hv)) ?_
    rcases hothers w List.mem_cons_self with rfl | hdisj
    · exact .inr (Sparse.get_setRange_in _ hi)
    · rcases h with hmem | hold
      · rcases List.mem_cons.1 hmem with rfl | hmem
        · exact .inr (Sparse.get_setRange_in _ hi)
        · exact .inl hmem
      · have hout : ¬ Reaches w (a + i) := fun hw => hdisj _ hw ⟨Nat.le_add_right _ _, Nat.add_lt_add_left hi _⟩
        rw [Reaches] at hout
        exact .inr ((Sparse.get_setRange_out _ (by omega)).trans hold)

theorem Gang.readSpad_putAll {a : Nat} {bs : List Byte} (hmem : (a, bs) ∈ ws)
    (hothers : ∀ w ∈ ws, w = (a, bs) ∨ ∀ k, Reaches w k → ¬ Reaches (a, bs) k) : (y.putAll ws).readSpad a bs.length = ofBytes bs := by
  rw [Gang.readSpad, getRange_eq fun i hi => y.putAll_get ws hothers hi (.inl hmem)]

end PutAll

/-! ## Elements and their tangents (R96, R97) -/

section Elements

/-- What storing the element of register r in lane l at byte a writes: the element, and in a dual form its tangents. -/
def elemWrites (g : Group) (ty : Ty) (du : Bool) (i : Nat × Nat × Nat) : List (Nat × List Byte) :=
  let (r, a, l) := i
  (a, bytesOf ty.bytes (g.elem ty r l)) ::
    if du then (List.range g.decl.d).map fun d => (g.decl.tanAddr d a, bytesOf g.decl.tanBytes (g.readT r d l).toNat) else []

theorem Gang.storeLanes_eq (y : Gang) (g : Group) (vd : Nat) (ty : Ty) (du : Bool) (addr : Nat → Nat) (order : List Nat) :
    y.storeLanes g vd ty du addr order = y.putAll ((order.map fun l => (vd, addr l, l)).flatMap (elemWrites g ty du)) := by
  rw [Gang.storeLanes]
  induction order generalizing y with
  | nil => rfl
  | cons l order ih =>
    rw [List.map_cons, List.flatMap_cons, Gang.putAll_append, ← ih, List.foldl_cons]
    congr 1
    cases du with
    | false => rfl
    | true => rw [elemWrites, if_pos rfl, Gang.putAll_cons, if_pos rfl, Gang.putAll, List.foldl_map]; rfl

variable {s : State} {ty : Ty} {du : Bool} {is : List (Nat × Nat × Nat)}

theorem tanAddr_eq (d a : Nat) : s.grp.decl.tanAddr d a = slotAddr s d a := rfl

theorem tanBytes_eq : s.grp.decl.tanBytes = slotBytes s := rfl

/-- The bytes that stores reach, in the words of the statements. -/
theorem reaches_elemWrites (i : Nat × Nat × Nat) (k : Nat) :
    (∃ w ∈ elemWrites s.grp ty du i, Reaches w k) ↔ inElement s du ty.bytes i.2.1 k := by
  obtain ⟨r, a, l⟩ := i
  cases du with
  | false => simp [elemWrites, Reaches, inElement]
  | true =>
    simp only [elemWrites, if_true, List.mem_cons, List.mem_map, List.mem_range, exists_eq_or_imp, Reaches, length_bytesOf,
      inElement, true_and, tanAddr_eq, tanBytes_eq]
    refine or_congr Iff.rfl ⟨?_, ?_⟩
    · rintro ⟨_, ⟨d, hd, rfl⟩, hk⟩
      exact ⟨d, hd, by simpa using hk⟩
    · rintro ⟨d, hd, hk⟩
      exact ⟨_, ⟨d, hd, rfl⟩, by simpa using hk⟩

theorem elem_mod_bytes (g : Group) (ty : Ty) (r l : Nat) : g.elem ty r l % 2 ^ (8 * ty.bytes) = g.elem ty r l := by
  have hw : 8 * ty.bytes = ty.width := by cases ty <;> rfl
  rw [hw]
  exact Nat.mod_eq_of_lt (g.elem_lt ty r l)

/-- A slot lies in its own part of the dual region, behind the values (R95, R96). -/
theorem slotAddr_range (s : State) {a d : Nat} (ha : a % 4 = 0) (hin : a + 4 ≤ s.grp.decl.spad) :
    ∃ S off, slotAddr s d a = s.grp.decl.spad + d * S + off ∧ off + slotBytes s ≤ S ∧
      S = (if s.grp.decl.bf16 then s.grp.decl.spad / 2 else s.grp.decl.spad) ∧ off = (if s.grp.decl.bf16 then a / 2 else a) := by
  refine ⟨_, _, ?_, ?_, rfl, rfl⟩
  · cases hbf : s.grp.decl.bf16 <;> simp only [slotAddr, hbf, if_true, if_false, Bool.false_eq_true] <;> omega
  · cases hbf : s.grp.decl.bf16 <;> simp [slotBytes, hbf] <;> omega

/-- Two slots have a common byte only where slot and element agree. -/
theorem slotAddr_disjoint (s : State) {a d a' d' k : Nat} (ha : a % 4 = 0) (ha' : a' % 4 = 0) (hin : a + 4 ≤ s.grp.decl.spad)
    (hin' : a' + 4 ≤ s.grp.decl.spad) (hk : slotAddr s d a ≤ k ∧ k < slotAddr s d a + slotBytes s)
    (hk' : slotAddr s d' a' ≤ k ∧ k < slotAddr s d' a' + slotBytes s) : d = d' ∧ a = a' := by
  obtain ⟨S, off, haddr, hoff, hS, ho⟩ := slotAddr_range s (d := d) ha hin
  obtain ⟨S', off', haddr', hoff', hS', ho'⟩ := slotAddr_range s (d := d') ha' hin'
  obtain rfl : S = S' := hS.trans hS'.symm
  have hd : d = d' := by
    rcases Nat.lt_trichotomy d d' with hlt | heq | hlt
    · have := Nat.mul_le_mul_right S (Nat.succ_le_of_lt hlt)
      rw [Nat.succ_mul] at this
      omega
    · exact heq
    · have := Nat.mul_le_mul_right S (Nat.succ_le_of_lt hlt)
      rw [Nat.succ_mul] at this
      omega
  subst hd
  refine ⟨rfl, ?_⟩
  have hbytes : slotBytes s = if s.grp.decl.bf16 then 2 else 4 := rfl
  cases hbf : s.grp.decl.bf16 <;> simp only [hbf, if_true, if_false, Bool.false_eq_true] at ho ho' hbytes <;> omega

/-- Where the elements of a store lie: aligned, inside the bound, and in a dual form words. -/
structure Placed (s : State) (ty : Ty) (du : Bool) (is : List (Nat × Nat × Nat)) : Prop where
  aligned : ∀ i ∈ is, i.2.1 % ty.bytes = 0
  words : du = true → ty.bytes = 4
  inside : du = true → ∀ i ∈ is, i.2.1 + 4 ≤ s.grp.decl.spad

/-- Elements of one size at two multiples of it have no common byte. -/
theorem aligned_disjoint {n a b k : Nat} (ha : a % n = 0) (hb : b % n = 0) (hne : a ≠ b) (hk : a ≤ k ∧ k < a + n) :
    ¬ (b ≤ k ∧ k < b + n) := by
  obtain ⟨p, rfl⟩ := Nat.dvd_of_mod_eq_zero ha
  obtain ⟨q, rfl⟩ := Nat.dvd_of_mod_eq_zero hb
  rintro ⟨hlo, hhi⟩
  refine hne (congrArg (n * ·) ?_)
  have h1 : q < p + 1 := Nat.lt_of_mul_lt_mul_left (a := n) (by rw [Nat.mul_succ]; omega)
  have h2 : p < q + 1 := Nat.lt_of_mul_lt_mul_left (a := n) (by rw [Nat.mul_succ]; omega)
  omega

/-- An element stored alone at its address stands there, and so do its tangents. -/
theorem readSpad_stored (hplaced : Placed s ty du is) (y : Gang) {r a l : Nat} (hmem : (r, a, l) ∈ is)
    (halone : ∀ i ∈ is, i ≠ (r, a, l) → i.2.1 ≠ a) :
    (y.putAll (is.flatMap (elemWrites s.grp ty du))).readSpad a ty.bytes = s.grp.elem ty r l ∧
    (du = true → ∀ d, d < s.grp.decl.d → (y.putAll (is.flatMap (elemWrites s.grp ty du))).readSpad (slotAddr s d a) (slotBytes s) =
      (s.grp.readT r d l).toNat % 2 ^ (8 * slotBytes s)) := by
  constructor
  · have hread := y.readSpad_putAll (is.flatMap (elemWrites s.grp ty du)) (a := a) (bs := bytesOf ty.bytes (s.grp.elem ty r l))
      (List.mem_flatMap.2 ⟨_, hmem, List.mem_cons_self⟩) fun w hw => ?_
    · rw [length_bytesOf, ofBytes_bytesOf, elem_mod_bytes] at hread
      exact hread
    · obtain ⟨⟨r', a', l'⟩, hi, hw⟩ := List.mem_flatMap.1 hw
      rcases List.mem_cons.1 hw with rfl | hw
      · by_cases hsame : (r', a', l') = (r, a, l)
        · cases hsame; exact .inl rfl
        · right
          intro k hk hk'
          simp only [Reaches, length_bytesOf] at hk hk'
          exact aligned_disjoint (hplaced.aligned _ hi) (hplaced.aligned _ hmem) (halone _ hi hsame) hk hk'
      · right
        intro k hk hk'
        cases hdu : du with
        | false => simp [hdu] at hw
        | true =>
          rw [hdu, if_pos rfl, List.mem_map] at hw
          obtain ⟨d, -, rfl⟩ := hw
          obtain ⟨S, off, haddr, -⟩ := slotAddr_range s (d := d) (by rw [← hplaced.words hdu]; exact hplaced.aligned _ hi)
            (hplaced.inside hdu _ hi)
          have hwords := hplaced.words hdu
          have hin := hplaced.inside hdu _ hmem
          simp only [Reaches, length_bytesOf, tanAddr_eq] at hk hk' hin haddr
          omega
  · rintro rfl d hd
    have hwords := hplaced.words rfl
    have hread := y.readSpad_putAll (is.flatMap (elemWrites s.grp ty true)) (a := slotAddr s d a)
      (bs := bytesOf (slotBytes s) (s.grp.readT r d l).toNat)
      (List.mem_flatMap.2 ⟨_, hmem, List.mem_cons_of_mem _ (List.mem_map.2 ⟨d, List.mem_range.2 hd, rfl⟩)⟩) fun w hw => ?_
    · rw [length_bytesOf, ofBytes_bytesOf] at hread
      exact hread
    · obtain ⟨⟨r', a', l'⟩, hi, hw⟩ := List.mem_flatMap.1 hw
      have hal := hplaced.aligned _ hi
      have hal0 := hplaced.aligned _ hmem
      have hin := hplaced.inside rfl _ hi
      have hin0 := hplaced.inside rfl _ hmem
      rw [hwords] at hal hal0
      rcases List.mem_cons.1 hw with rfl | hw
      · right
        intro k hk hk'
        obtain ⟨S, off, haddr, -⟩ := slotAddr_range s (d := d) hal0 hin0
        simp only [Reaches, length_bytesOf] at hk hk' hin
        rw [haddr] at hk'
        omega
      · obtain ⟨d', hd', rfl⟩ := List.mem_map.1 hw
        by_cases hsame : d' = d ∧ a' = a
        · obtain ⟨rfl, rfl⟩ := hsame
          by_cases hi' : (r', a', l') = (r, a', l)
          · cases hi'; exact .inl rfl
          · exact absurd rfl (halone _ hi hi')
        · right
          intro k hk hk'
          simp only [Reaches, length_bytesOf] at hk hk'
          exact hsame (slotAddr_disjoint s hal hal0 hin hin0 hk hk')

end Elements

end Sys2Proof.Machine
end

section
/-!
PROOF. What lane accesses leave of the issuing group (R92, R130, R199, R280, R334): the registers that a load writes, the flags of
the data that a store takes, the order of the access, and the state that it ends in.
-/

namespace Sys2Proof.Machine

open Sys2Proof.Claims

/-! ## The order of an access (R130, R280) -/

section Ordered

variable (g : Group) (clock : Nat) (o : Sync)

theorem Group.joinFor_keep (sc : Scope) : g.joinFor o.ord sc = { g with
    horizon := (g.joinFor o.ord sc).horizon, groupHorizon := (g.joinFor o.ord sc).groupHorizon } := by
  unfold Group.joinFor
  split
  · simp only [Group.joinHorizons]
  · rfl

theorem Group.critStep_keep (ord : MemOrd) (crit : Bool) : g.critStep clock ord crit = { g with
    crit := (g.critStep clock ord crit).crit, critSince := (g.critStep clock ord crit).critSince,
    critSpent := (g.critStep clock ord crit).critSpent } := by
  unfold Group.critStep
  split
  · cases ord <;> rfl
  · rfl

/-- An order changes the horizons and the critical depth, and nothing else. -/
theorem Group.ordered_keep : g.ordered clock o = { g with
    horizon := (g.ordered clock o).horizon, groupHorizon := (g.ordered clock o).groupHorizon,
    crit := (g.ordered clock o).crit, critSince := (g.ordered clock o).critSince,
    critSpent := (g.ordered clock o).critSpent } := by
  rw [Group.ordered, Group.critStep_keep, Group.joinFor_keep]

theorem Group.ordered_plain (sc : Scope) : g.ordered clock ⟨.plain, sc, false⟩ = g := by
  simp [Group.ordered, Group.joinFor, Group.critStep]

/-- The critical depth after an order (R130). -/
theorem Group.crit_critStep (ord : MemOrd) (crit : Bool) : (g.critStep clock ord crit).crit =
    if crit then
      (match ord with
        | .acq => min 15 (g.crit + 1)
        | .rel => g.crit - 1
        | _ => g.crit)
    else g.crit := by
  cases crit with
  | false => rfl
  | true => cases ord <;> rfl

theorem joinsLanes_iff (sc : Scope) : joinsLanes sc = true ↔ sc ≠ .lane := by cases sc <;> simp [joinsLanes]

/-- The joined horizons rest on the horizons (R280). -/
theorem Group.joinFor_horizons {g g' : Group} (hh : g.horizon = g'.horizon) (hg : g.groupHorizon = g'.groupHorizon) :
    let j := if o.ord ≠ .plain ∧ o.scope ≠ .lane then g'.joinHorizons else g'
    (g.joinFor o.ord o.scope).horizon = j.horizon ∧ (g.joinFor o.ord o.scope).groupHorizon = j.groupHorizon := by
  have hlane : g.laneHorizon = g'.laneHorizon := funext fun l => by rw [Group.laneHorizon, hh]; rfl
  intro j
  rw [Group.joinFor]
  by_cases hjoin : o.ord ≠ .plain ∧ joinsLanes o.scope
  · have hj : j = g'.joinHorizons := if_pos ⟨hjoin.1, (joinsLanes_iff _).1 hjoin.2⟩
    rw [if_pos hjoin, hj, Group.joinHorizons, Group.joinHorizons, hlane, hh, hg]
    exact ⟨rfl, rfl⟩
  · have hj : j = g' := if_neg fun h => hjoin ⟨h.1, (joinsLanes_iff _).2 h.2⟩
    rw [if_neg hjoin, hj]
    exact ⟨hh, hg⟩

/-- What the order leaves rests on horizons and critical depth alone. -/
theorem ordered_of_eq {s t : State} {G : Group} (ht : ∃ sp, t.grp = { G.ordered s.clock o with splits := sp })
    (hh : G.horizon = s.grp.horizon) (hg : G.groupHorizon = s.grp.groupHorizon) (hc : G.crit = s.grp.crit)
    (hcs : G.critSince = s.grp.critSince) (hcp : G.critSpent = s.grp.critSpent) : Ordered s t o := by
  obtain ⟨sp, ht⟩ := ht
  obtain ⟨hjh, hjg⟩ := Group.joinFor_horizons o hh hg
  have hjoin := G.joinFor_keep o o.scope
  rw [Ordered, ht]
  refine ⟨?_, ?_, ?_, fun hnot => ?_⟩
  · rw [← hjh, Group.ordered, Group.critStep_keep]
  · rw [← hjg, Group.ordered, Group.critStep_keep]
  · refine (Group.crit_critStep _ _ _ _).trans ?_
    rw [hjoin, hc] <;> rfl
  · have hsame : G.ordered s.clock o = G.joinFor o.ord o.scope := by
      unfold Group.ordered Group.critStep
      rw [hnot]; rfl
    rw [hsame, hjoin]
    exact ⟨hcs, hcp⟩

end Ordered

/-! ## Registers that lanes write -/

/-- The lanes of em have written the registers ds of acc: g is what they leave. -/
structure Wrote (s : State) (ds : List Nat) (val : Nat → Nat → Word32) (tan : Nat → Nat → Nat → Word32) (lost : Nat → Bool)
    (acc g : Group) : Prop where
  keep : g.butWork = acc.butWork
  edge : g.edge = acc.edge
  elem : ∀ q k, k < 32 → g.readV q k = if q ∈ ds ∧ s.em.getLsbD k then val q k else acc.readV q k
  slot : ∀ q d k, q < 256 → k < 32 → g.readT q d k =
    if q ∈ ds ∧ s.em.getLsbD k ∧ q < s.grp.decl.n ∧ d < s.grp.decl.d then tan q d k else acc.readT q d k
  tlost : ∀ k, k < 32 → g.tlost.getLsbD k = (acc.tlost.getLsbD k || (s.em.getLsbD k && lost k))

section Wrote

variable {s : State} {ds : List Nat} {f : Group → Nat → Group → Group} {val : Nat → Nat → Word32}
  {tan : Nat → Nat → Nat → Word32} {lost : Nat → Bool} {acc g : Group}

theorem Wrote.decl (h : Wrote s ds val tan lost acc g) : g.decl = acc.decl := by
  have hkeep := congrArg (fun x : Group => x.decl) h.keep
  exact hkeep

/-- The lanes of em do the work of one lane each. -/
theorem LaneEffect.wrote (hf : LaneEffect s ds f val tan lost fun _ => false) (hacc : acc.decl = s.grp.decl) :
    Wrote s ds val tan lost acc ((lanesOf s.em).foldl (fun a l => f s.grp l a) acc) := by
  have hfold : (lanesOf s.em).foldl (fun a l => f s.grp l a) acc = acc.eachLane s.em fun _ => f s.grp := rfl
  have hdecl : ∀ l a, (f s.grp l a).decl = a.decl := fun l a => congrArg (fun g => g.decl) (hf.keep l a)
  have hkeep := Group.eachLane_keep acc s.em (fun _ => f s.grp) Group.butWork hf.keep
  rw [hfold]
  refine ⟨hkeep, BitVec.eq_of_getLsbD_eq fun k hk => ?_, fun q k hk => ?_, fun q d k hq hk => ?_, fun k hk => ?_⟩
  · rw [acc.eachLane_rule_of_decl s.em (fun _ => f s.grp) (fun k g => g.edge.getLsbD k) (fun _ x => x) hdecl
      (fun l k a ha hl hk => by rw [hf.edge l k a (ha.trans hacc) hl hk]; simp) hk]
    simp
  · rw [acc.eachLane_rule_of_decl s.em (fun _ => f s.grp) (fun k g => g.readV q k) (fun k x => if q ∈ ds then val q k else x) hdecl
      (fun l k a ha hl hk => by rw [hf.elem l k a q (ha.trans hacc) hl hk]; grind) hk]
    grind
  · rw [acc.eachLane_rule_of_decl s.em (fun _ => f s.grp) (fun k g => g.readT q d k)
      (fun k x => if q ∈ ds ∧ q < s.grp.decl.n ∧ d < s.grp.decl.d then tan q d k else x) hdecl
      (fun l k a ha hl hk => by rw [hf.slot l k a q d (ha.trans hacc) hl hk hq]; grind) hk]
    grind
  · rw [acc.eachLane_rule_of_decl s.em (fun _ => f s.grp) (fun k g => g.tlost.getLsbD k) (fun k x => x || lost k) hdecl
      (fun l k a ha hl hk => by rw [hf.tlost l k a (ha.trans hacc) hl hk]; grind) hk]
    grind

theorem Wrote.refl (acc : Group) : Wrote s [] val tan (fun _ => false) acc acc :=
  ⟨rfl, rfl, by simp, by simp, by simp⟩

/-- More registers, of the same results. -/
theorem Wrote.trans {es : List Nat} {lost' : Nat → Bool} {g' : Group} (h : Wrote s ds val tan lost acc g)
    (h' : Wrote s es val tan lost' g g') : Wrote s (ds ++ es) val tan (fun k => lost k || lost' k) acc g' where
  keep := h'.keep.trans h.keep
  edge := h'.edge.trans h.edge
  elem q k hk := by rw [h'.elem q k hk, h.elem q k hk]; grind
  slot q d k hq hk := by rw [h'.slot q d k hq hk, h.slot q d k hq hk]; grind
  tlost k hk := by rw [h'.tlost k hk, h.tlost k hk]; grind

theorem Wrote.congr {val' : Nat → Nat → Word32} {tan' : Nat → Nat → Nat → Word32} {lost' : Nat → Bool}
    (h : Wrote s ds val tan lost acc g) (hval : ∀ r ∈ ds, ∀ l, val r l = val' r l)
    (htan : ∀ r ∈ ds, ∀ d l, tan r d l = tan' r d l) (hlost : ∀ l, lost l = lost' l) : Wrote s ds val' tan' lost' acc g where
  keep := h.keep
  edge := h.edge
  elem q k hk := by rw [h.elem q k hk]; grind
  slot q d k hq hk := by rw [h.slot q d k hq hk]; grind
  tlost k hk := by rw [h.tlost k hk, hlost]

theorem Wrote.eq (h : Wrote s ds val tan lost acc g) : g = { acc with v := g.v, tan := g.tan, tlost := g.tlost } :=
  (Group.eq_of_butWork h.keep).trans (by rw [h.edge])

end Wrote

/-! ## Loads -/

section Loads

variable {s : State} {i : Instr} {o : Sync} {n after : Nat} {ds : List Nat} {val : Nat → Nat → Word32}
  {tan : Nat → Nat → Nat → Word32} {lost : Nat → Bool} {G : Group}

theorem Group.noteAll_keep (g : Group) (rs : List RegId) : g.noteAll rs = { g with rewind := (g.noteAll rs).rewind } := by
  rw [Group.noteAll, Group.noteWrites]

theorem Group.noteAll_rewind (g : Group) (rs : List RegId) : (g.noteAll rs).rewind = (g.rewind && !rs.any (inSaved g)) := by
  rw [Group.noteAll, Group.noteWrites]; rfl

/-- An access that no lane makes leaves only its order, and the next PC (R33). -/
def OnlyOrdered (s t : State) (n : Nat) (o : Sync) : Prop :=
  OnlyGroup s t ∧ SplitAt s t (s.pcPlus n) ∧ t.grp = { s.grp.ordered s.clock o with splits := t.grp.splits }

theorem onlyOrdered_setGrp (s : State) (n : Nat) (o : Sync) : OnlyOrdered s ((s.setGrp (s.grp.ordered s.clock o)).advance n) n o :=
  s.setGrp_advance_spec (by rw [Group.ordered_keep]) n

theorem onlyOrdered_advance (s : State) (n : Nat) (sc : Scope) : OnlyOrdered s (s.advance n) n ⟨.plain, sc, false⟩ := by
  rw [OnlyOrdered, Group.ordered_plain]
  exact s.onlyPc_advance n

/-- A load: what the lanes of em have written is noted and pends; an empty em leaves only the order. -/
theorem completes_load (hwrote : Wrote s ds val tan lost s.grp G)
    (hempty : s.em = 0 → ∃ t, exec i s = .next t ∧ OnlyOrdered s t n o)
    (hrun : s.em ≠ 0 → ∃ lat, after ≤ lat ∧ exec i s = .next ((s.setGrp
      (((G.noteAll (ds.map RegId.v)).deliver s.clock lat (ds.map RegId.v)).ordered s.clock o)).advance n)) :
    Completes i s fun t => OnlyGroup s t ∧ SplitAt s t (s.pcPlus n) ∧ AccessKeeps s t ∧ Ordered s t o ∧
      Loaded s t ds val tan lost after ∧ (s.em ≠ 0 → RewindAfter s t (ds.map RegId.v)) := by
  by_cases hem : s.em = 0
  · obtain ⟨t, hexec, honly, hsplit, hgrp⟩ := hempty hem
    refine ⟨t, hexec, ?_⟩
    have hv : t.grp.v = s.grp.v := by rw [hgrp, Group.ordered_keep]
    have ht : t.grp.tan = s.grp.tan := by rw [hgrp, Group.ordered_keep]
    have hd : t.grp.decl = s.grp.decl := by rw [hgrp, Group.ordered_keep]
    refine ⟨honly, hsplit, ?_, ordered_of_eq o ⟨_, hgrp⟩ rfl rfl rfl rfl rfl, ⟨fun r l _ => ?_, fun r d l _ _ => ?_, fun l _ => ?_,
      fun _ => ?_, fun h => absurd hem h⟩, fun h => absurd hem h⟩
    · rw [AccessKeeps, hgrp, Group.ordered_keep]
    · rw [hem, Group.readV_congr hv]; simp
    · rw [hem, Group.readT_congr hd ht]; simp
    · rw [hgrp, Group.ordered_keep, hem]; simp
    · rw [hgrp, Group.ordered_keep]
  · obtain ⟨lat, hlat, hexec⟩ := hrun hem
    refine ⟨_, hexec, ?_⟩
    have hG := hwrote.eq
    have hfinal : (((G.noteAll (ds.map RegId.v)).deliver s.clock lat (ds.map RegId.v)).ordered s.clock o).splits = s.grp.splits := by
      rw [Group.ordered_keep, Group.deliver, Group.noteAll_keep, hG]
    obtain ⟨honly, hsplit, hgrp⟩ := s.setGrp_advance_spec hfinal n
    have hnoted : (G.noteAll (ds.map RegId.v)).deliver s.clock lat (ds.map RegId.v) =
        { s.grp with v := G.v, tan := G.tan, tlost := G.tlost, rewind := (G.noteAll (ds.map RegId.v)).rewind,
                     deliveries := s.grp.deliveries ++ [⟨ds.map RegId.v, s.clock + lat⟩] } := by
      rw [Group.deliver, Group.noteAll_keep, hG]
    rw [hnoted] at hgrp honly hsplit ⊢
    generalize (s.setGrp (Group.ordered _ s.clock o)).advance n = t at honly hsplit hgrp ⊢
    have hv : t.grp.v = G.v := by rw [hgrp, Group.ordered_keep]
    have ht : t.grp.tan = G.tan := by rw [hgrp, Group.ordered_keep]
    have hd : t.grp.decl = G.decl := by rw [hgrp, Group.ordered_keep, hwrote.decl]
    refine ⟨honly, hsplit, ?_, ordered_of_eq o ⟨_, hgrp⟩ rfl rfl rfl rfl rfl, ⟨fun r l hl => ?_, fun r d l hr hl => ?_, fun l hl => ?_,
      fun h => absurd h hem, fun _ => ⟨s.clock + lat, by omega, ?_⟩⟩, fun _ => ?_⟩
    · rw [AccessKeeps, hgrp, Group.ordered_keep]
    · rw [Group.readV_congr hv]; exact hwrote.elem r l hl
    · rw [Group.readT_congr hd ht]; exact hwrote.slot r d l hr hl
    · rw [hgrp, Group.ordered_keep]; exact hwrote.tlost l hl
    · rw [hgrp, Group.ordered_keep]
    · rw [RewindAfter, hgrp, Group.ordered_keep]
      exact (G.noteAll_rewind _).trans (by rw [hG]; rfl)

end Loads

/-! ## Stores -/

section Stores

variable {s : State} {i : Instr} {o : Sync} {n : Nat} {ws : List (Nat × List Byte)} {lost : Nat → Bool} {touched : Nat → Prop}

/-- Data that a store takes from registers of the dual range drops its tangents (R92). -/
theorem Group.dropData_keep (g : Group) (rs : List Nat) (ok : Word32) : g.dropData rs ok = { g with tlost := (g.dropData rs ok).tlost } := by
  have hkeep : ∀ (ls : List Nat) (acc : Group), ls.foldl (fun acc l => acc.tlostIf (g.anyTan rs l) l) acc =
      { acc with tlost := (ls.foldl (fun acc l => acc.tlostIf (g.anyTan rs l) l) acc).tlost } := by
    intro ls
    induction ls with
    | nil => exact fun _ => rfl
    | cons l ls ih =>
      intro acc
      rw [List.foldl_cons, ih, Group.tlostIf_keep]
  exact hkeep _ _

theorem Group.tlost_dropData (s : State) (rs : List Nat) {l : Nat} (hl : l < 32) : (s.grp.dropData rs s.em).tlost.getLsbD l =
    (s.grp.tlost.getLsbD l || (s.em.getLsbD l && carries s rs l)) := by
  refine (s.grp.eachLane_rule s.em (fun g l acc => acc.tlostIf (g.anyTan rs l) l) (fun k g => g.tlost.getLsbD k)
    (fun _ k x => x || carries s rs k) (fun l acc => by rw [Group.tlostIf_keep]) (fun l k acc _ hk => ?_) hl).trans (by grind)
  rw [Group.tlost_tlostIf _ _ _ hk, carries_eq_anyTan]
  grind

/-- The state that a store ends in, which has written ws into the scratchpad of the gang. -/
def State.storedBy (s : State) (ws : List (Nat × List Byte)) (g : Group) : State :=
  (s.setGang s.grp.gang ((s.gang s.grp.gang).putAll ws)).setGrp g

/-- What a store leaves alone, and what it leaves in the bytes that it reaches. -/
theorem State.storedBy_spec (s : State) {g : Group} (hsplits : g.splits = s.grp.splits) (hgang : g.gang = s.grp.gang)
    (hrewind : s.em ≠ 0 → g.rewind = false) (htouched : ∀ k, touched k ↔ ∃ w ∈ ws, Reaches w k) (n : Nat) :
    let t := (s.storedBy ws g).advance n
    SplitAt s t (s.pcPlus n) ∧ t.grp = { g with splits := t.grp.splits } ∧ Stored s t touched ∧
      ∀ a k, spadAt t a k = ((s.gang s.grp.gang).putAll ws).readSpad a k := by
  intro t
  let u := s.setGang s.grp.gang ((s.gang s.grp.gang).putAll ws)
  have hgangs : ∀ j, t.gang j = if j = s.grp.gang then (s.gang s.grp.gang).putAll ws else s.gang j :=
    fun j => Sparse.get_set _ _ _ _
  obtain ⟨⟨hall, honly⟩, hsplit, hgrp⟩ := u.setGrp_advance_spec (g := g) hsplits n
  have htgang : t.grp.gang = s.grp.gang := (congrArg (fun g : Group => g.gang) hgrp).trans hgang
  refine ⟨hsplit, hgrp, ⟨hall, honly, fun j hj => ?_, ?_, fun a ha => ?_, fun a ha => ?_, fun hem => ?_⟩, fun a k => ?_⟩
  · rw [hgangs, if_neg hj]
  · rw [hgangs, if_pos rfl]; exact Gang.putAll_keep _ _
  · rw [hgangs, if_pos rfl]
    exact Gang.putAll_out _ _ fun w hw hr => ha ((htouched a).2 ⟨w, hw, hr⟩)
  · rw [hgangs, if_pos rfl]
    exact Gang.putAll_errs _ _ (.inl ((htouched a).1 ha))
  · exact (congrArg (fun g : Group => g.rewind) hgrp).trans (hrewind hem)
  · rw [spadAt, State.readSpad, htgang, hgangs, if_pos rfl]

/-- Where only the group has changed and no byte is reached, nothing is stored. -/
theorem stored_of_onlyGroup {t : State} (honly : OnlyGroup s t) (hnone : ∀ k, ¬ touched k) (hem : s.em = 0) : Stored s t touched := by
  have hgangs : ∀ j, t.gang j = s.gang j := fun j => by rw [honly.1]; rfl
  refine ⟨by rw [honly.1], honly.2, fun j _ => hgangs j, ?_, fun a _ => ?_, fun a ha => absurd ha (hnone a), fun h => absurd hem h⟩
  · rw [hgangs]
  · rw [hgangs]; exact ⟨rfl, rfl⟩

/-- A store: the scratchpad takes the writes, the flags those of the dropped data; an empty em leaves only the order. -/
theorem completes_store {x : Word32} (hlost : ∀ l, l < 32 → x.getLsbD l = (s.grp.tlost.getLsbD l || (s.em.getLsbD l && lost l)))
    (hempty : s.em = 0 → ∃ t, exec i s = .next t ∧ OnlyOrdered s t n o)
    (hrun : s.em ≠ 0 →
      exec i s = .next ((s.storedBy ws (Group.ordered { s.grp with tlost := x, rewind := false } s.clock o)).advance n))
    (hnone : s.em = 0 → ws = []) (htouched : ∀ k, touched k ↔ ∃ w ∈ ws, Reaches w k) :
    Completes i s fun t => SplitAt s t (s.pcPlus n) ∧ AccessKeeps s t ∧ Ordered s t o ∧ Stored s t touched ∧
      (∀ a k, spadAt t a k = ((s.gang s.grp.gang).putAll ws).readSpad a k) ∧
      (∀ r l, l < 32 → t.grp.readV r l = s.grp.readV r l) ∧
      ∀ l, l < 32 → t.grp.tlost.getLsbD l = (s.grp.tlost.getLsbD l || (s.em.getLsbD l && lost l)) := by
  by_cases hem : s.em = 0
  · obtain ⟨t, hexec, honly, hsplit, hgrp⟩ := hempty hem
    refine ⟨t, hexec, ?_⟩
    have hv : t.grp.v = s.grp.v := by rw [hgrp, Group.ordered_keep]
    have hnot : ∀ k, ¬ touched k := fun k hk => by
      obtain ⟨w, hw, -⟩ := (htouched k).1 hk
      rw [hnone hem] at hw
      exact absurd hw List.not_mem_nil
    refine ⟨hsplit, ?_, ordered_of_eq o ⟨_, hgrp⟩ rfl rfl rfl rfl rfl, stored_of_onlyGroup honly hnot hem, fun a k => ?_,
      fun r l _ => Group.readV_congr hv r l, fun l _ => ?_⟩
    · rw [AccessKeeps, hgrp, Group.ordered_keep]
    · have hgang : t.grp.gang = s.grp.gang := by rw [hgrp, Group.ordered_keep]
      rw [spadAt, State.readSpad, hgang, honly.1, hnone hem]; rfl
    · rw [hgrp, Group.ordered_keep, hem]; simp
  · refine ⟨_, hrun hem, ?_⟩
    obtain ⟨hsplit, hgrp, hstored, hspad⟩ := s.storedBy_spec (g := Group.ordered { s.grp with tlost := x, rewind := false } s.clock o)
      (by rw [Group.ordered_keep]) (by rw [Group.ordered_keep]) (fun _ => by rw [Group.ordered_keep]) htouched n
    generalize (s.storedBy ws (Group.ordered _ s.clock o)).advance n = t at hsplit hgrp hstored hspad ⊢
    have hv : t.grp.v = s.grp.v := by rw [hgrp, Group.ordered_keep]
    refine ⟨hsplit, ?_, ordered_of_eq o ⟨_, hgrp⟩ rfl rfl rfl rfl rfl, hstored, hspad, fun r l _ => Group.readV_congr hv r l,
      fun l hl => ?_⟩
    · rw [AccessKeeps, hgrp, Group.ordered_keep]
    · rw [hgrp, Group.ordered_keep]; exact hlost l hl

end Stores

end Sys2Proof.Machine
end

section
/-!
PROOF. LD and ST, LDT and STT, LDW, SLD and SST (R195 to R197, R200): each load as the elements that its lanes take, each store as
the writes that it makes.
-/

namespace Sys2Proof.Machine

open Sys2Proof.Claims

section Forms

variable {s : State} {vd n : Nat} {a : Addr} {ty : Ty} {du : Bool} {o : Sync}

/-! ## Checks that pass -/

theorem laneCheck_inside {w bound : Nat} (hin : Inside s (addrOf s a) w w bound) {l : Nat} (hl : s.em.getLsbD l = true) :
    laneCheck s a bound w l = none := by
  obtain ⟨hal, hlo, hhi⟩ := hin l (BitVec.lt_of_getLsbD hl) hl
  rw [laneCheck, spadCheck, if_neg (by simpa using hal), if_neg (by omega)]

theorem rowCheck_inside {bound : Nat} (hin : Inside s (rowAddr (addrOf s a 0) n) 4 (4 * n) bound) {l : Nat}
    (hl : s.em.getLsbD l = true) : rowCheck s a bound n l = none := by
  obtain ⟨hal, hlo, hhi⟩ := hin l (BitVec.lt_of_getLsbD hl) hl
  rw [rowCheck, spadCheck, if_neg (by simpa using hal), if_neg (by omega)]

theorem passing_all {chk : Nat → Option Nat} (h : ∀ l, s.em.getLsbD l = true → chk l = none) : s.passing chk = s.em :=
  State.passing_eq fun l _ => ⟨fun hl => ⟨hl, h l hl⟩, fun hl => hl.1⟩

/-- A lane access all of whose lanes pass. -/
theorem LaneAccess.runs_all {i : Instr} {k acc space : Nat} {addr : Nat → Int} {chk : Nat → Option Nat} {work : Word32 → State → State}
    (h : LaneAccess s i k acc space addr chk work) (hchk : ∀ l, s.em.getLsbD l = true → chk l = none) (hem : s.em ≠ 0) :
    exec i s = .next ((work s.em s).advance k) := by
  rw [h.runs s (Narrower.refl hem), s.checkedLanes_all (passing_all hchk) hem]

/-- With an empty em nothing is checked and nothing accessed (R33). -/
theorem checkedLanes_empty {s : State} (hem : s.em = 0) {k acc space : Nat} {addr : Nat → Int} {chk : Nat → Option Nat}
    {work : Word32 → State → State} : s.checkedLanes k acc space addr chk work = s.advance k := by
  have hpass : s.passing chk = 0 := State.passing_eq fun l _ => by simp [hem]
  simp [State.checkedLanes, hpass, hem]

/-- The state with another group whose split is the same holds the same lanes. -/
theorem em_setGrp {g : Group} (hg : g.splits = s.grp.splits) : (s.setGrp g).em = s.em := by
  simp [State.em, State.spl, Group.split, hg]

/-! ## LD -/

theorem le_bankCycles (ws : List Nat) : 1 ≤ bankCycles ws := by
  have h : ∀ (f : Nat → Nat) (l : List Nat) (m : Nat), m ≤ l.foldl (fun m b => Nat.max m (f b)) m := by
    intro f l
    induction l with
    | nil => exact fun m => Nat.le_refl m
    | cons b l ih => exact fun m => Nat.le_trans (Nat.le_max_left m (f b)) (ih _)
  exact h _ _ _

/-- One lane of a load: the element, with stored or +0 tangents. -/
theorem laneEffect_load {ty : Ty} {x : Nat → Nat} {t : Nat → Nat → Word32} {f : Group → Nat → Group → Group}
    (hds : ∀ r ∈ regsOf ty vd, r < 256) (hdu : du = true → ty.width ≠ 64)
    (hf : ∀ l acc, f s.grp l acc = if du then (acc.putElem ty vd l (x l)).giveTan vd l fun d => t d l
      else (acc.putElem ty vd l (x l)).zeroTan (regsOf ty vd) l) :
    LaneEffect s (regsOf ty vd) f (fun r l => wordIn ty vd r (x l)) (fun _ d l => if du then t d l else 0)
      (fun l => du && lostIn s vd t l) fun _ => false := by
  cases du with
  | true => exact laneEffect_giveTan (hdu rfl) (hds vd (by rw [regsOf_narrow (hdu rfl)]; simp)) hf
  | false => exact laneEffect_putElem hds hf

theorem exec_ld_empty (h : Nat) (hfit : Fits s (regsOf ty vd ++ addrRegs a)) (hr : mayAccess s false o) (hem : s.em = 0) :
    ∃ t, exec (.ld vd a ty du o h) s = .next t ∧ OnlyOrdered s t (words3 a.off) o := by
  have hem' : (s.setGrp (s.grp.ordered s.clock o)).em = 0 := (em_setGrp (by rw [Group.ordered_keep])).trans hem
  refine ⟨_, ?_, onlyOrdered_setGrp s _ o⟩
  change execLd vd a ty du o h s = _
  rw [execLd, s.guardRegs_ok _ fun r hr => (hfit r hr).1]
  simp only [show s.spadReady false o = true from hr, Bool.not_true, Bool.false_eq_true, if_false, if_pos hem]
  exact congrArg Host.Outcome.next (checkedLanes_empty hem')

/-! ## ST -/

theorem exec_st_empty (h : Nat) (hfit : Fits s (regsOf ty vd ++ addrRegs a)) (hr : mayAccess s true o) (hem : s.em = 0) :
    ∃ t, exec (.st vd a ty du o h) s = .next t ∧ OnlyOrdered s t (words3 a.off) o := by
  have hem' : (s.setGrp (s.grp.ordered s.clock o)).em = 0 := (em_setGrp (by rw [Group.ordered_keep])).trans hem
  refine ⟨_, ?_, onlyOrdered_setGrp s _ o⟩
  change execSt vd a ty du o h s = _
  rw [execSt, s.guardRegs_ok _ fun r hr => (hfit r hr).1]
  simp only [show s.spadReady true o = true from hr, Bool.not_true, Bool.false_eq_true, if_false, if_pos hem]
  exact congrArg Host.Outcome.next (checkedLanes_empty hem')

theorem mem_insertLane {key : Nat → Nat} {l k : Nat} {ls : List Nat} : k ∈ insertLane key l ls ↔ k = l ∨ k ∈ ls := by
  induction ls with
  | nil => simp [insertLane]
  | cons j ls ih =>
    rw [insertLane]
    split
    · simp
    · simp [ih]; tauto

/-- The lanes of a store are those of the mask, in some order (R31). -/
theorem State.mem_storeOrder {m : Word32} {l : Nat} : l ∈ s.storeOrder m ↔ l < 32 ∧ m.getLsbD l = true := by
  have h : ∀ ls : List Nat, l ∈ ls.foldr (insertLane fun l => (Config.freeWord s.fresh (4096 + l)).toNat) [] ↔ l ∈ ls := by
    intro ls
    induction ls with
    | nil => rfl
    | cons k ls ih => rw [List.foldr_cons, mem_insertLane, ih, List.mem_cons]
  rw [State.storeOrder, h, mem_lanesOf]

/-- The flags that the data of a store leave: none of a dual form. -/
theorem tlost_stored (s : State) (du : Bool) (rs : List Nat) {l : Nat} (hl : l < 32) :
    (if du then s.grp else s.grp.dropData rs s.em).tlost.getLsbD l =
      (s.grp.tlost.getLsbD l || (s.em.getLsbD l && (!du && carries s rs l))) := by
  cases du with
  | true => simp
  | false => simpa using Group.tlost_dropData s rs hl

theorem irrevocable_stored (s : State) (du : Bool) (rs : List Nat) (ok : Word32) :
    (if du then s.grp else s.grp.dropData rs ok).irrevocable =
      { s.grp with tlost := (if du then s.grp else s.grp.dropData rs ok).tlost, rewind := false } := by
  cases du with
  | true => rfl
  | false =>
    simp only [Bool.false_eq_true, if_false]
    conv_lhs => rw [Group.dropData_keep]
    rfl

/-- The elements of a store of the lanes of em, by lane. -/
def State.stItems (s : State) (vd : Nat) (a : Addr) : List (Nat × Nat × Nat) :=
  (s.storeOrder s.em).map fun l => (vd, s.grp.byteAddr a l, l)

theorem stWork_eq : stWork vd a ty du o s.em s = s.storedBy ((s.stItems vd a).flatMap (elemWrites s.grp ty du))
    (Group.ordered { s.grp with tlost := (if du then s.grp else s.grp.dropData (regsOf ty vd) s.em).tlost, rewind := false }
      s.clock o) := by
  rw [stWork, Gang.storeLanes_eq, irrevocable_stored]
  rfl

end Forms

theorem byteAddr_eq (s : State) (a : Addr) (l : Nat) : s.grp.byteAddr a l = (addrOf s a l).toNat := by
  rw [Group.byteAddr, s.laneAddr_eq]

theorem bytes_pos (ty : Ty) : 0 < ty.bytes := by cases ty <;> decide

/-- A byte address as a number keeps the alignment. -/
theorem toNat_mod {x : Int} {n : Nat} (hx : 0 ≤ x) (hal : x % (n : Int) = 0) : x.toNat % n = 0 := by
  obtain ⟨m, rfl⟩ := Int.eq_ofNat_of_zero_le hx
  rw [Int.toNat_natCast]
  exact_mod_cast hal

theorem plainLoadsAndStores : Claims.PlainLoadsAndStores := by
  intro s vd a ty du o h n addr at' next stored alone hfits hdu hin
  have haddr : ∀ l, s.grp.byteAddr a l = at' l := byteAddr_eq s a
  have hnext : s.pcPlus (words3 a.off) = next := s.pcPlus_words3 a.off
  have hchk : ∀ l, s.em.getLsbD l = true → laneCheck s a (boundOf s du) ty.bytes l = none := fun l => laneCheck_inside hin
  have hregs : ∀ r ∈ regsOf ty vd, r < 256 := fun r hr => (hfits r (List.mem_append_left _ hr)).2
  have hwidth : du = true → ty.width ≠ 64 := fun hd => by rw [hdu hd]; decide
  rw [← hnext]
  constructor
  · intro hmay
    have heff := laneEffect_load (s := s) (f := fun g l acc =>
        if du then (acc.putElem ty vd l (s.readSpad g.gang (s.grp.byteAddr a l) ty.bytes)).giveTan vd l fun d =>
          s.storedTan g (s.grp.byteAddr a l) d
        else (acc.putElem ty vd l (s.readSpad g.gang (s.grp.byteAddr a l) ty.bytes)).zeroTan (regsOf ty vd) l)
      (x := fun l => s.readSpad s.grp.gang (s.grp.byteAddr a l) ty.bytes) (t := fun d l => s.storedTan s.grp (s.grp.byteAddr a l) d)
      hregs hwidth fun _ _ => rfl
    have hstored : (fun d l => s.storedTan s.grp (s.grp.byteAddr a l) d) = stored := by
      funext d l; rw [haddr]; rfl
    have hload : Wrote s (regsOf ty vd) (fun r l => wordIn ty vd r (spadAt s (at' l) n)) (fun _ d l => if du then stored d l else 0)
        (fun l => du && lostIn s vd stored l) s.grp (s.loadLanes vd ty du (s.grp.byteAddr a) s.em) :=
      (heff.wrote rfl).congr (fun r _ l => by rw [haddr]; rfl) (fun _ _ d l => by rw [← hstored]) (fun l => by rw [hstored])
    exact completes_load hload (exec_ld_empty h hfits hmay) fun hem =>
      ⟨_, Nat.add_le_add_left (le_bankCycles _) 19, (laneAccess_ld h hfits hmay).runs_all hchk hem⟩
  · intro hmay
    have hplaced : Placed s ty du (s.stItems vd a) := by
      have hmem : ∀ i ∈ s.stItems vd a, ∃ l, l < 32 ∧ s.em.getLsbD l = true ∧ i = (vd, at' l, l) := by
        intro i hi
        obtain ⟨l, hl, rfl⟩ := List.mem_map.1 hi
        obtain ⟨hl32, hl⟩ := State.mem_storeOrder.1 hl
        exact ⟨l, hl32, hl, by rw [haddr]⟩
      refine ⟨fun i hi => ?_, fun hd => by rw [hdu hd]; rfl, fun hd i hi => ?_⟩
      · obtain ⟨l, hl32, hl, rfl⟩ := hmem i hi
        obtain ⟨hal, hlo, -⟩ := hin l hl32 hl
        exact toNat_mod hlo hal
      · obtain ⟨l, hl32, hl, rfl⟩ := hmem i hi
        obtain ⟨-, hlo, hhi⟩ := hin l hl32 hl
        rw [hd] at hhi
        have hn : n = 4 := by simp only [n]; rw [hdu hd]; rfl
        rw [hn] at hhi
        change addr l + 4 ≤ (s.grp.decl.spad : Int) at hhi
        change (addr l).toNat + 4 ≤ s.grp.decl.spad
        omega
    have htouched : ∀ k, (∃ l, l < 32 ∧ s.em.getLsbD l = true ∧ inElement s du n (at' l) k) ↔
        ∃ w ∈ (s.stItems vd a).flatMap (elemWrites s.grp ty du), Reaches w k := by
      intro k
      simp only [List.mem_flatMap, State.stItems, List.mem_map, State.mem_storeOrder]
      constructor
      · rintro ⟨l, hl32, hl, hk⟩
        obtain ⟨w, hw, hr⟩ := (reaches_elemWrites (ty := ty) (du := du) (vd, s.grp.byteAddr a l, l) k).2 (by rw [haddr]; exact hk)
        exact ⟨w, ⟨_, ⟨l, ⟨hl32, hl⟩, rfl⟩, hw⟩, hr⟩
      · rintro ⟨w, ⟨_, ⟨l, ⟨hl32, hl⟩, rfl⟩, hw⟩, hr⟩
        exact ⟨l, hl32, hl, by rw [← haddr]; exact (reaches_elemWrites (vd, s.grp.byteAddr a l, l) k).1 ⟨w, hw, hr⟩⟩
    obtain ⟨t, hrun, hsplit, hkeep, hord, hst, hspad, hv, hlost⟩ := completes_store (i := .st vd a ty du o h) (o := o)
      (lost := fun l => !du && carries s (pairOf ty vd) l) (ws := (s.stItems vd a).flatMap (elemWrites s.grp ty du))
      (fun l hl => tlost_stored s du (regsOf ty vd) hl) (exec_st_empty h hfits hmay)
      (fun hem => by rw [(laneAccess_st h hfits hmay).runs_all hchk hem, stWork_eq])
      (fun hem => by rw [State.stItems, hem]; rfl) htouched
    refine ⟨t, hrun, hsplit, hkeep, hord, hst, fun l hl32 hl hal => ?_, hv, fun l hl => by rw [hlost l hl, Bool.and_assoc]⟩
    have hothers : ∀ i ∈ s.stItems vd a, i ≠ (vd, at' l, l) → i.2.1 ≠ at' l := by
      intro i hi hne
      obtain ⟨k, hk, rfl⟩ := List.mem_map.1 hi
      obtain ⟨hk32, hk⟩ := State.mem_storeOrder.1 hk
      rw [haddr] at hne ⊢
      have hkl : k ≠ l := by rintro rfl; exact hne rfl
      have hdiff := hal k hk32 hk hkl
      have h1 := (hin k hk32 hk).2.1
      have h2 := (hin l hl32 hl).2.1
      change (addr k).toNat ≠ (addr l).toNat
      omega
    obtain ⟨helem, hslots⟩ := readSpad_stored hplaced (s.gang s.grp.gang) (List.mem_map.2
      ⟨l, State.mem_storeOrder.2 ⟨hl32, hl⟩, by rw [haddr]⟩) hothers
    exact ⟨(hspad _ _).trans helem, fun hd d hdd => (hspad _ _).trans (hslots hd d hdd)⟩

/-! ## LDT and STT (R196) -/

section Rows

variable {s : State} {vd n : Nat} {a : Addr} {ty : Ty} {du : Bool}

theorem exec_ldt_empty (h : Nat) (hfit : Fits s (span vd n)) (hr : s.accessReady false = true) (hem : s.em = 0) :
    ∃ t, exec (.ldt vd a ty du n h) s = .next t ∧ OnlyOrdered s t (words3 a.off) ⟨.plain, .lane, false⟩ := by
  refine ⟨_, ?_, onlyOrdered_advance s _ _⟩
  change execLdt vd a ty du n h s = _
  rw [execLdt, s.guardRegs_ok _ fun r hr => (hfit r hr).1]
  simp only [hr, Bool.not_true, Bool.false_eq_true, if_false]
  exact congrArg Host.Outcome.next (checkedLanes_empty hem)

theorem exec_stt_empty (h : Nat) (hfit : Fits s (span vd n)) (hr : s.accessReady true = true) (hem : s.em = 0) :
    ∃ t, exec (.stt vd a ty du n h) s = .next t ∧ OnlyOrdered s t (words3 a.off) ⟨.plain, .lane, false⟩ := by
  refine ⟨_, ?_, onlyOrdered_advance s _ _⟩
  change execStt vd a ty du n h s = _
  rw [execStt, s.guardRegs_ok _ fun r hr => (hfit r hr).1]
  simp only [hr, Bool.not_true, Bool.false_eq_true, if_false]
  exact congrArg Host.Outcome.next (checkedLanes_empty hem)

/-- The registers of a row, one after another. -/
theorem wrote_loadRows (hw : ty.width ≠ 64) (hds : ∀ r ∈ span vd n, r < 256) {m : Nat} (hm : m ≤ n) :
    Wrote s (span vd m) (fun r l => wordIn ty r r (s.readSpad s.grp.gang (s.grp.rowByte a n l + 4 * (r - vd)) 4))
      (fun r d l => if du then s.storedTan s.grp (s.grp.rowByte a n l + 4 * (r - vd)) d else 0)
      (fun l => du && (span vd m).any fun r => lostIn s r (fun d l => s.storedTan s.grp (s.grp.rowByte a n l + 4 * (r - vd)) d) l)
      s.grp ((List.range m).foldl (fun acc j => (lanesOf s.em).foldl (s.loadRow vd n a ty du j) acc) s.grp) := by
  induction m with
  | zero =>
    exact Wrote.congr (val := fun _ _ => 0) (tan := fun _ _ _ => 0) (Wrote.refl s.grp) (by simp [span]) (by simp [span]) (by simp [span])
  | succ m ih =>
    have hprev := ih (by omega)
    have hvd : vd + m < 256 := hds _ (List.mem_map.2 ⟨m, List.mem_range.2 (by omega), rfl⟩)
    have heff := laneEffect_load (s := s) (vd := vd + m) (du := du) (f := fun _ l acc => s.loadRow vd n a ty du m acc l)
      (x := fun l => s.readSpad s.grp.gang (s.grp.rowByte a n l + 4 * m) 4)
      (t := fun d l => s.storedTan s.grp (s.grp.rowByte a n l + 4 * m) d) (ty := ty)
      (by rw [regsOf_narrow hw]; simpa using hvd) (fun _ => hw) fun l acc => by rw [regsOf_narrow hw]; rfl
    rw [regsOf_narrow hw] at heff
    have hstep := heff.wrote hprev.decl
    rw [List.range_succ, List.foldl_append, List.foldl_cons, List.foldl_nil, span, List.range_succ, List.map_append]
    refine (hprev.trans (hstep.congr (fun r hr l => ?_) (fun r hr d l => ?_) fun l => rfl)).congr (fun _ _ _ => rfl)
      (fun _ _ _ _ => rfl) fun l => ?_
    · obtain rfl := List.mem_singleton.1 hr
      rw [Nat.add_sub_cancel_left]
    · obtain rfl := List.mem_singleton.1 hr
      rw [Nat.add_sub_cancel_left]
    · simp only [span, List.any_append, List.map_cons, List.map_nil, List.any_cons, List.any_nil, Bool.or_false,
        Nat.add_sub_cancel_left, Bool.and_or_distrib_left]

/-- The elements of a store of rows, column by column. -/
def State.sttItems (s : State) (vd n : Nat) (a : Addr) : List (Nat × Nat × Nat) :=
  (List.range n).flatMap fun j => (lanesOf s.em).map fun l => (vd + j, s.grp.rowByte a n l + 4 * j, l)

theorem mem_sttItems {i : Nat × Nat × Nat} : i ∈ s.sttItems vd n a ↔
    ∃ j l, j < n ∧ l < 32 ∧ s.em.getLsbD l = true ∧ i = (vd + j, s.grp.rowByte a n l + 4 * j, l) := by
  simp only [State.sttItems, List.mem_flatMap, List.mem_range, List.mem_map, mem_lanesOf]
  constructor
  · rintro ⟨j, hj, l, ⟨hl32, hl⟩, rfl⟩
    exact ⟨j, l, hj, hl32, hl, rfl⟩
  · rintro ⟨j, l, hj, hl32, hl, rfl⟩
    exact ⟨j, hj, l, ⟨hl32, hl⟩, rfl⟩

theorem sttWork_eq : sttWork vd n a ty du s.em s = s.storedBy ((s.sttItems vd n a).flatMap (elemWrites s.grp ty du))
    (Group.ordered { s.grp with tlost := (if du then s.grp else s.grp.dropData (span vd n) s.em).tlost, rewind := false }
      s.clock ⟨.plain, .lane, false⟩) := by
  have hfold : ∀ (js : List Nat) (y : Gang), js.foldl (fun y j =>
      y.storeLanes s.grp (vd + j) ty du (fun l => s.grp.rowByte a n l + 4 * j) (lanesOf s.em)) y =
      y.putAll ((js.flatMap fun j => (lanesOf s.em).map fun l => (vd + j, s.grp.rowByte a n l + 4 * j, l)).flatMap
        (elemWrites s.grp ty du)) := by
    intro js
    induction js with
    | nil => exact fun _ => rfl
    | cons j js ih =>
      intro y
      rw [List.foldl_cons, ih, List.flatMap_cons, List.flatMap_append, Gang.putAll_append, Gang.storeLanes_eq]
  rw [sttWork, hfold, irrevocable_stored, Group.ordered_plain]
  rfl

end Rows

/-- An element of 32 bits as a register holds it. -/
theorem wordIn_width32 {ty : Ty} (hw : ty.width = 32) (vd r x : Nat) : wordIn ty vd r x = BitVec.ofNat 32 x := by
  have hmod : BitVec.ofNat 32 (x % 2 ^ 32) = BitVec.ofNat 32 x := BitVec.eq_of_toNat_eq (by simp)
  cases ty with
  | i32 => exact BitVec.signExtend_eq _
  | f32 | n32 => exact hmod
  | _ => simp [Ty.width] at hw

/-- Places of a row-major array are apart (R196). -/
theorem row_place_inj {n l l' j j' : Nat} (hj : j < n) (hj' : j' < n) (h : n * l' + j' = n * l + j) : l' = l ∧ j' = j := by
  have hn : 0 < n := by omega
  have hl : l' = l := by
    have hdiv := congrArg (· / n) h
    simpa only [Nat.mul_add_div hn, Nat.div_eq_of_lt hj, Nat.div_eq_of_lt hj', Nat.add_zero] using hdiv
  subst hl
  exact ⟨rfl, by omega⟩

theorem transposedAccess : Claims.TransposedAccess := by
  intro s vd n a ty du h row at' ds next stored hn1 hn32 hw hscalar hfits hin
  have hw64 : ty.width ≠ 64 := by omega
  have hbytes : ty.bytes = 4 := by rw [Ty.bytes, hw]
  have hrow : ∀ l, s.grp.rowByte a n l = (row l).toNat := fun l => by rw [Group.rowByte, s.laneAddr_eq]; rfl
  have hchk : ∀ l, s.em.getLsbD l = true → rowCheck s a (boundOf s du) n l = none := fun l => rowCheck_inside hin
  have hnext : s.pcPlus (words3 a.off) = next := s.pcPlus_words3 a.off
  rw [← hnext]
  constructor
  · intro hready
    have hload := (wrote_loadRows (s := s) (a := a) (du := du) hw64 (fun r hr => (hfits r hr).2) (Nat.le_refl n)).congr
      (val' := fun r l => BitVec.ofNat 32 (spadAt s (at' l (r - vd)) 4)) (tan' := fun r d l => if du then stored r d l else 0)
      (lost' := fun l => du && ds.any fun r => lostIn s r (fun d l => stored r d l) l)
      (fun r _ l => by rw [hrow, wordIn_width32 hw]; rfl) (fun r _ d l => by rw [hrow]; rfl) (fun l => by simp only [hrow]; rfl)
    exact completes_load hload (exec_ldt_empty h hfits hready) fun hem =>
      ⟨_, Nat.add_le_add_left (le_bankCycles _) 19, by
        rw [(laneAccess_ldt h hfits hready).runs_all hchk hem, Group.ordered_plain]; rfl⟩
  · intro hready
    have hplaced : Placed s ty du (s.sttItems vd n a) := by
      refine ⟨fun i hi => ?_, fun _ => hbytes, fun hd i hi => ?_⟩
      · obtain ⟨j, l, hj, hl32, hl, rfl⟩ := mem_sttItems.1 hi
        obtain ⟨hal, hlo, -⟩ := hin l hl32 hl
        have hmod := toNat_mod hlo hal
        rw [hbytes]
        change (s.grp.rowByte a n l + 4 * j) % 4 = 0
        rw [hrow]
        omega
      · obtain ⟨j, l, hj, hl32, hl, rfl⟩ := mem_sttItems.1 hi
        obtain ⟨-, hlo, hhi⟩ := hin l hl32 hl
        rw [hd] at hhi
        change row l + ((4 * n : Nat) : Int) ≤ (s.grp.decl.spad : Int) at hhi
        change s.grp.rowByte a n l + 4 * j + 4 ≤ s.grp.decl.spad
        rw [hrow]
        omega
    have htouched : ∀ k, (∃ l j, l < 32 ∧ s.em.getLsbD l = true ∧ j < n ∧ inElement s du 4 (at' l j) k) ↔
        ∃ w ∈ (s.sttItems vd n a).flatMap (elemWrites s.grp ty du), Reaches w k := by
      intro k
      simp only [List.mem_flatMap, mem_sttItems]
      constructor
      · rintro ⟨l, j, hl32, hl, hj, hk⟩
        obtain ⟨w, hw, hr⟩ := (reaches_elemWrites (ty := ty) (du := du) (vd + j, s.grp.rowByte a n l + 4 * j, l) k).2
          (by rw [hrow, hbytes]; exact hk)
        exact ⟨w, ⟨_, ⟨j, l, hj, hl32, hl, rfl⟩, hw⟩, hr⟩
      · rintro ⟨w, ⟨_, ⟨j, l, hj, hl32, hl, rfl⟩, hw⟩, hr⟩
        have hk := (reaches_elemWrites (vd + j, s.grp.rowByte a n l + 4 * j, l) k).1 ⟨w, hw, hr⟩
        rw [hrow, hbytes] at hk
        exact ⟨l, j, hl32, hl, hj, hk⟩
    obtain ⟨t, hrun, hsplit, hkeep, hord, hst, hspad, hv, hlost⟩ := completes_store (i := .stt vd a ty du n h)
      (o := ⟨.plain, .lane, false⟩) (lost := fun l => !du && carries s ds l)
      (ws := (s.sttItems vd n a).flatMap (elemWrites s.grp ty du))
      (fun l hl => tlost_stored s du ds hl) (exec_stt_empty h hfits hready)
      (fun hem => by rw [(laneAccess_stt h hfits hready).runs_all hchk hem, sttWork_eq]; rfl)
      (fun hem => by
        rw [List.eq_nil_iff_forall_not_mem]
        intro w hw
        obtain ⟨i, hi, -⟩ := List.mem_flatMap.1 hw
        obtain ⟨j, l, -, -, hl, -⟩ := mem_sttItems.1 hi
        simp [hem] at hl) htouched
    refine ⟨t, hrun, hsplit, hkeep, hord, hst, fun l j hl32 hl hj => ?_, hv, fun l hl => by rw [hlost l hl, Bool.and_assoc]⟩
    have hothers : ∀ i ∈ s.sttItems vd n a, i ≠ (vd + j, at' l j, l) → i.2.1 ≠ at' l j := by
      intro i hi hne heq
      obtain ⟨j', l', hj', hl32', hl', rfl⟩ := mem_sttItems.1 hi
      have hbase : ∀ k, row k = addrOf s a 0 + 4 * ((n * k : Nat) : Int) := fun k => by
        simp only [row]; push_cast; ring
      have h1 := (hin l hl32 hl).2.1
      have h2 := (hin l' hl32' hl').2.1
      rw [hrow] at heq
      change (row l').toNat + 4 * j' = (row l).toNat + 4 * j at heq
      change 0 ≤ row l at h1
      change 0 ≤ row l' at h2
      rw [hbase] at heq h1 h2
      rw [hbase] at heq
      obtain ⟨rfl, rfl⟩ := row_place_inj hj hj' (show n * l' + j' = n * l + j by omega)
      exact hne (by rw [hrow])
    obtain ⟨helem, hslots⟩ := readSpad_stored hplaced (s.gang s.grp.gang) (r := vd + j) (a := at' l j) (l := l)
      (mem_sttItems.2 ⟨j, l, hj, hl32, hl, by rw [hrow]⟩) hothers
    rw [hbytes] at helem
    refine ⟨((hspad _ _).trans helem).trans ?_, fun hd d hdd => (hspad _ _).trans (hslots hd d hdd)⟩
    rw [Group.elem, if_neg hw64, hw]
    exact Nat.mod_eq_of_lt (BitVec.isLt _)

/-! ## SLD and SST (R197) -/

section Scalar

variable {s : State} {r : Nat} {a : Addr} {ty : Ty} {o : Sync}

theorem spadCheck_inside {bound w : Nat} {x : Int} (hal : x % (w : Int) = 0) (hlo : 0 ≤ x) (hhi : x + (w : Int) ≤ (bound : Int)) :
    spadCheck bound w w x = none := by
  rw [spadCheck, if_neg (by simpa using hal), if_neg (by omega)]

theorem extend64_eq (ty : Ty) {x : Nat} (hx : x < 2 ^ ty.width) :
    extend64 ty x = if ty.isSigned then (BitVec.ofNat ty.width x).signExtend 64 else BitVec.ofNat 64 x := by
  rw [extend64, signedOf_eq_toInt, Nat.mod_eq_of_lt hx]
  rfl

theorem ofBytes_lt (bs : List Byte) : ofBytes bs < 2 ^ (8 * bs.length) := by
  induction bs with
  | nil => simp [ofBytes]
  | cons b bs ih =>
    have hpow : 2 ^ (8 * (bs.length + 1)) = 256 * 2 ^ (8 * bs.length) := by rw [Nat.mul_succ, Nat.pow_add]; ring
    have hb := b.isLt
    rw [ofBytes, List.length_cons, hpow]
    omega

theorem spadAt_lt (s : State) (b : Nat) (ty : Ty) : spadAt s b ty.bytes < 2 ^ ty.width := by
  have hlen : (Sparse.getRange (0 : Byte) (s.gang s.grp.gang).spad b ty.bytes).length = ty.bytes := by simp [Sparse.getRange]
  have hlt := ofBytes_lt (Sparse.getRange 0 (s.gang s.grp.gang).spad b ty.bytes)
  have hw : 8 * ty.bytes = ty.width := by cases ty <;> rfl
  rw [hlen, hw] at hlt
  exact hlt

/-- The group after SLD, before its order: the scalar, pending. -/
def State.loadedScalar (s : State) (r : Nat) (x : Word64) : Group :=
  let g := (s.grp.writeS r x).noteWrite (.s r)
  if r = 0 then g else g.deliver s.clock 20 [.s r]

theorem State.loadedScalar_eq (s : State) (r : Nat) (x : Word64) : s.loadedScalar r x = { s.grp with
    s := (s.grp.writeS r x).s, rewind := (s.grp.rewind && !inSaved s.grp (.s r)),
    deliveries := s.grp.deliveries ++ if r = 0 then [] else [⟨[.s r], s.clock + 20⟩] } := by
  have hnote : (s.grp.writeS r x).noteWrite (.s r) =
      { s.grp with s := (s.grp.writeS r x).s, rewind := (s.grp.rewind && !inSaved s.grp (.s r)) } := by
    rw [Group.noteWrite_writeS_keep, Group.noteWrite_rewind_inSaved, Group.inSaved_writeS, Group.writeS_keep]
  rw [State.loadedScalar, hnote]
  by_cases hr : r = 0
  · simp only [if_pos hr, List.append_nil]
  · simp only [if_neg hr, Group.deliver]

theorem exec_sld (h : Nat) (hr : mayAccess s false o)
    (hcheck : spadCheck (boundOf s false) ty.bytes ty.bytes (addrOf s a 0) = none) : exec (.sld r a ty o h) s =
      .next ((s.setGrp ((s.loadedScalar r (extend64 ty (spadAt s (addrOf s a 0).toNat ty.bytes))).ordered s.clock o)).advance
        (words3 a.off)) := by
  have hbound : s.grp.decl.occupancy = boundOf s false := s.bound_eq false
  change execSld r a ty o h s = _
  simp only [execSld, show s.spadReady false o = true from hr, Bool.not_true, Bool.false_eq_true, if_false, hbound, s.laneAddr_eq,
    hcheck]
  rfl

theorem exec_sst (h : Nat) (hr : mayAccess s true o)
    (hcheck : spadCheck (boundOf s false) ty.bytes ty.bytes (addrOf s a 0) = none) : exec (.sst r a ty o h) s =
      .next ((s.storedBy [((addrOf s a 0).toNat, bytesOf ty.bytes (s.grp.readS r).toNat)]
        (Group.ordered { s.grp with rewind := false } s.clock o)).advance (words3 a.off)) := by
  have hbound : s.grp.decl.occupancy = boundOf s false := s.bound_eq false
  change execSst r a ty o h s = _
  simp only [execSst, show s.spadReady true o = true from hr, Bool.not_true, Bool.false_eq_true, if_false, hbound, s.laneAddr_eq,
    hcheck]
  rfl

/-- SLD: the scalar that the bytes are, and the order. -/
theorem completes_sld (h : Nat) (hr : mayAccess s false o)
    (hcheck : spadCheck (boundOf s false) ty.bytes ty.bytes (addrOf s a 0) = none) :
    Completes (.sld r a ty o h) s fun t => OnlyGroup s t ∧ SplitAt s t (s.pcPlus (words3 a.off)) ∧ Ordered s t o ∧
      (∀ q, t.grp.readS q = if q = r ∧ r ≠ 0 then extend64 ty (spadAt s (addrOf s a 0).toNat ty.bytes) else s.grp.readS q) ∧
      t.grp = { s.grp with s := t.grp.s, splits := t.grp.splits, rewind := t.grp.rewind,
                           deliveries := t.grp.deliveries, horizon := t.grp.horizon,
                           groupHorizon := t.grp.groupHorizon, crit := t.grp.crit, critSince := t.grp.critSince,
                           critSpent := t.grp.critSpent } ∧
      t.grp.deliveries = s.grp.deliveries ++ (if r = 0 then [] else [⟨[.s r], s.clock + 20⟩]) ∧ RewindAfter s t [.s r] := by
  refine ⟨_, exec_sld h hr hcheck, ?_⟩
  generalize extend64 ty (spadAt s (addrOf s a 0).toNat ty.bytes) = x
  have hsplits : ((s.loadedScalar r x).ordered s.clock o).splits = s.grp.splits := by
    rw [Group.ordered_keep, State.loadedScalar_eq]
  obtain ⟨honly, hsplit, hgrp⟩ := s.setGrp_advance_spec hsplits (words3 a.off)
  generalize (s.setGrp ((s.loadedScalar r x).ordered s.clock o)).advance (words3 a.off) = t at honly hsplit hgrp ⊢
  have hord : Ordered s t o := ordered_of_eq o ⟨_, hgrp⟩ (by rw [State.loadedScalar_eq]) (by rw [State.loadedScalar_eq])
    (by rw [State.loadedScalar_eq]) (by rw [State.loadedScalar_eq]) (by rw [State.loadedScalar_eq])
  rw [Group.ordered_keep, State.loadedScalar_eq] at hgrp
  have hs : t.grp.s = (s.grp.writeS r x).s := by rw [hgrp]
  refine ⟨honly, hsplit, hord, fun q => ?_, ?_, ?_, ?_⟩
  · rw [← Group.readS_writeS]
    simp only [Group.readS, hs]
  · rw [hgrp]
  · rw [hgrp]
  · rw [RewindAfter, hgrp]; simp

/-- SST: the bytes of the scalar, and the order. -/
theorem completes_sst (h : Nat) (hr : mayAccess s true o)
    (hcheck : spadCheck (boundOf s false) ty.bytes ty.bytes (addrOf s a 0) = none) :
    let touched := fun k => (addrOf s a 0).toNat ≤ k ∧ k < (addrOf s a 0).toNat + ty.bytes
    Completes (.sst r a ty o h) s fun t => SplitAt s t (s.pcPlus (words3 a.off)) ∧ AccessKeeps s t ∧ Ordered s t o ∧
      Stored s t touched ∧ spadAt t (addrOf s a 0).toNat ty.bytes = (s.grp.readS r).toNat % 2 ^ ty.width ∧ t.grp.rewind = false := by
  intro touched
  let w : Nat × List Byte := ((addrOf s a 0).toNat, bytesOf ty.bytes (s.grp.readS r).toNat)
  have htouched : ∀ k, touched k ↔ ∃ v ∈ [w], Reaches v k := fun k => by simp [touched, w, Reaches]
  refine ⟨_, exec_sst h hr hcheck, ?_⟩
  obtain ⟨hsplit, hgrp, hstored, hspad⟩ := s.storedBy_spec (g := Group.ordered { s.grp with rewind := false } s.clock o)
    (by rw [Group.ordered_keep]) (by rw [Group.ordered_keep]) (fun _ => by rw [Group.ordered_keep]) htouched (words3 a.off)
  generalize (s.storedBy [w] (Group.ordered { s.grp with rewind := false } s.clock o)).advance (words3 a.off) = t
    at hsplit hgrp hstored hspad ⊢
  refine ⟨hsplit, ?_, ordered_of_eq o ⟨_, hgrp⟩ rfl rfl rfl rfl rfl, hstored, ?_, ?_⟩
  · rw [AccessKeeps, hgrp, Group.ordered_keep]
  · have hread := (s.gang s.grp.gang).readSpad_putAll [w] (a := w.1) (bs := w.2) List.mem_cons_self fun v hv => .inl (by simpa using hv)
    have hwidth : 8 * ty.bytes = ty.width := by cases ty <;> rfl
    rw [length_bytesOf, ofBytes_bytesOf, hwidth] at hread
    rw [hspad]
    exact hread
  · rw [hgrp, Group.ordered_keep]

end Scalar

/-! ## LDW (R200) -/

section Weights

variable {s : State} {r : Nat} {a : Addr} {ty : Ty}

/-- Each byte through the entry that holds it (R349). -/
theorem readWs_eq {map : List WsEntry} {die b n : Nat} {vals : List Byte} (hlen : vals.length = n)
    (hbytes : ∀ j, j < n → (wsByte map die (b + j)).map (fun off => Sparse.get 0 (s.die die).ws off) = some (vals.getD j 0)) :
    s.readWs map die b n = some vals := by
  have hlist : (span b n).map (fun k => (wsByte map die k).map fun off => Sparse.get 0 (s.die die).ws off) = vals.map some := by
    refine List.ext_getElem (by simp [span, hlen]) fun j hj hj' => ?_
    have hjn : j < n := by simpa [span] using hj
    rw [List.getElem_map, List.getElem_map]
    simp only [span, List.getElem_map, List.getElem_range]
    rw [hbytes j hjn, List.getD_eq_getElem _ _ (by omega)]
  simp only [State.readWs, hlist]
  simp [Function.comp_def]

theorem exec_ldw_empty (h : Nat) (hfit : Fits s (regsOf ty r ++ addrRegs a)) (hr : s.accessReady false = true) (hem : s.em = 0) :
    ∃ t, exec (.ldw r a ty h) s = .next t ∧ OnlyOrdered s t (words3 a.off) ⟨.plain, .lane, false⟩ := by
  refine ⟨_, ?_, onlyOrdered_advance s _ _⟩
  change execLdw r a ty h s = _
  rw [execLdw, s.guardRegs_ok _ fun q hq => (hfit q hq).1]
  simp only [hr, Bool.not_true, Bool.false_eq_true, if_false]
  exact congrArg Host.Outcome.next (checkedLanes_empty hem)

theorem le_ldwCycles (clock : Nat) (addrs : List Nat) : 48 ≤ ldwCycles clock addrs := by
  rw [ldwCycles]; split <;> omega

end Weights

theorem scalarAndWeightAccess : Claims.ScalarAndWeightAccess := by
  intro s r a ty o h n b next x map die byte
  have hnext : s.pcPlus (words3 a.off) = next := s.pcPlus_words3 a.off
  rw [← hnext]
  constructor
  · intro hscalar hal hlo hhi
    have hcheck : spadCheck (boundOf s false) ty.bytes ty.bytes (addrOf s a 0) = none := spadCheck_inside hal hlo hhi
    constructor
    · intro hmay
      obtain ⟨t, hexec, honly, hsplit, hord, hs, hgrp, hdel, hrew⟩ := completes_sld h hmay hcheck
      refine ⟨t, hexec, honly, hsplit, hord, fun q => ?_, hgrp, hdel, hrew⟩
      rw [hs, extend64_eq ty (spadAt_lt s _ ty)]
    · intro hmay
      obtain ⟨t, hexec, hsplit, hkeep, hord, ⟨hall, hgroups, hgangs, hgang, hout, herrs, -⟩, hval, hrew⟩ :=
        completes_sst (r := r) h hmay hcheck
      exact ⟨t, hexec, hsplit, hkeep, hord, hall, hgroups, hgangs, hgang, hout, fun k hlo hhi => herrs k ⟨hlo, hhi⟩, hval, hrew⟩
  · intro hready vals hfits hvals
    have hregs : ∀ q ∈ regsOf ty r, q < 256 := fun q hq => (hfits q (List.mem_append_left _ hq)).2
    have hread : ∀ l, s.em.getLsbD l = true → s.readWs s.wsMap s.wsDie (addrOf s a l).toNat ty.bytes = some (vals l) := by
      intro l hl
      obtain ⟨-, -, hlen, hbytes⟩ := hvals l (BitVec.lt_of_getLsbD hl) hl
      refine readWs_eq hlen fun j hj => ?_
      obtain ⟨e, -, hfind, hrd, hdie, hv⟩ := hbytes j hj
      have hentry : wsEntry s.wsMap ((addrOf s a l).toNat + j) = some e := by
        rw [← hfind, wsEntry]
        congr 1
        funext e
        simp [bne, Bool.beq_eq_decide_eq]
      have hplace : wsByte s.wsMap s.wsDie ((addrOf s a l).toNat + j) = some ((addrOf s a l).toNat + j - e.base + e.phys) := by
        rw [wsByte, hentry]
        simp only
        rw [if_pos]
        rw [hrd, Bool.true_and, bitAt_eq_testBit]
        exact hdie
      rw [hplace, hv]
      rfl
    have hchk : ∀ l, s.em.getLsbD l = true → s.wsCheck s.wsMap s.wsDie ty.bytes (addrOf s a l) = none := by
      intro l hl
      obtain ⟨hal, hlo, -⟩ := hvals l (BitVec.lt_of_getLsbD hl) hl
      rw [State.wsCheck, if_neg (by simpa using hal), if_neg (by simp [hread l hl]; omega)]
    have heff : LaneEffect s (regsOf ty r) (fun _ l acc => (acc.putElem ty r l (ofBytes (vals l))).zeroTan (regsOf ty r) l)
        (fun q l => wordIn ty r q (ofBytes (vals l))) (fun _ _ _ => 0) (fun _ => false) fun _ => false :=
      laneEffect_putElem hregs fun _ _ => rfl
    have hsame : s.loadElems r a ty s.em = s.grp.eachLane s.em fun _ l acc =>
        (acc.putElem ty r l (ofBytes (vals l))).zeroTan (regsOf ty r) l :=
      Group.eachLane_congr (f := fun g l acc => (acc.putElem ty r l
          (ofBytes ((s.readWs s.wsMap s.wsDie (g.byteAddr a l) ty.bytes).getD []))).zeroTan (regsOf ty r) l)
        (fun l acc => by rw [Group.zeroTan_keep, Group.putElem_keep])
        fun l acc hl _ => by rw [byteAddr_eq, hread l hl]; rfl
    have hload : Wrote s (regsOf ty r) (fun q l => wordIn ty r q (ofBytes (vals l))) (fun _ _ _ => 0) (fun _ => false) s.grp
        (s.loadElems r a ty s.em) := hsame ▸ heff.wrote rfl
    exact completes_load hload (exec_ldw_empty h hfits hready) fun hem =>
      ⟨_, le_ldwCycles _ _, by rw [(laneAccess_ldw h hfits hready).runs_all hchk hem, Group.ordered_plain]; rfl⟩

/-- Settles O48: a load is the elements that its lanes take, a store the writes that it makes; SLD and SST are one of each. -/
theorem loadsAndStores : Obligations.LoadsAndStores := ⟨plainLoadsAndStores, transposedAccess, scalarAndWeightAccess⟩

end Sys2Proof.Machine
end

section
/-!
PROOF. ATOM and ACAS (R198): the read-modify-write of one lane, what a run of them leaves alone, and what a lane that has its address
to itself takes and leaves.
-/

namespace Sys2Proof.Machine

open Sys2Proof.Claims

/-! ## One lane -/

section Lane

variable {vd : Nat} {ty : Ty} {addr : Nat → Nat} {upd : Nat → Nat → Nat}

/-- What the scratchpad holds at the address of lane l, as the lane reads it. -/
def State.heldAt (z : State) (ty : Ty) (addr : Nat → Nat) (l : Nat) : Nat := z.readSpad z.grp.gang (addr l) ty.bytes

/-- The write of one lane. -/
def State.atomWrite (z : State) (ty : Ty) (addr : Nat → Nat) (upd : Nat → Nat → Nat) (l : Nat) : Nat × List Byte :=
  (addr l, bytesOf ty.bytes (upd l (z.heldAt ty addr l)))

theorem State.grp_atomLane (z : State) (l : Nat) : (State.atomLane vd ty addr upd z l).grp =
    (z.grp.putElem ty vd l (z.heldAt ty addr l)).zeroTan (regsOf ty vd) l :=
  State.grp_setGrp _ _

theorem State.grp_atomLane_keep (z : State) (l : Nat) : (State.atomLane vd ty addr upd z l).grp = { z.grp with
    v := (State.atomLane vd ty addr upd z l).grp.v, tan := (State.atomLane vd ty addr upd z l).grp.tan } := by
  rw [State.grp_atomLane, Group.zeroTan_keep, Group.putElem_keep]

theorem State.gang_atomLane (z : State) (l j : Nat) : (State.atomLane vd ty addr upd z l).gang j =
    if j = z.grp.gang then (z.gang z.grp.gang).putAll [z.atomWrite ty addr upd l] else z.gang j :=
  Sparse.get_set _ _ _ _

/-- The lane's own element of memory takes the new value, and its register the old one. -/
theorem State.heldAt_atomLane_self (z : State) (l : Nat) :
    (State.atomLane vd ty addr upd z l).heldAt ty addr l = upd l (z.heldAt ty addr l) % 2 ^ (8 * ty.bytes) := by
  have hgang : (State.atomLane vd ty addr upd z l).grp.gang = z.grp.gang := by rw [State.grp_atomLane_keep]
  have hread := (z.gang z.grp.gang).readSpad_putAll [z.atomWrite ty addr upd l] (a := addr l)
    (bs := bytesOf ty.bytes (upd l (z.heldAt ty addr l))) List.mem_cons_self fun w hw => .inl (List.mem_singleton.1 hw)
  rw [length_bytesOf, ofBytes_bytesOf] at hread
  rw [State.heldAt, State.readSpad, hgang, State.gang_atomLane, if_pos rfl, hread]

/-- Elements of other lanes that lie apart stand. -/
theorem State.heldAt_atomLane_ne (z : State) {l k : Nat}
    (hdisj : ∀ b, addr l ≤ b → b < addr l + ty.bytes → ¬ (addr k ≤ b ∧ b < addr k + ty.bytes)) :
    (State.atomLane vd ty addr upd z k).heldAt ty addr l = z.heldAt ty addr l := by
  have hgang : (State.atomLane vd ty addr upd z k).grp.gang = z.grp.gang := by rw [State.grp_atomLane_keep]
  rw [State.heldAt, State.readSpad, hgang, State.gang_atomLane, if_pos rfl, Gang.readSpad, getRange_congr fun b hlo hhi =>
    (Gang.putAll_out _ [z.atomWrite ty addr upd k] fun w hw => ?_).1]
  · rfl
  · rw [List.mem_singleton.1 hw, Reaches, State.atomWrite, length_bytesOf]
    exact hdisj b hlo hhi

end Lane

/-! ## A run of lanes -/

/-- What a run of read-modify-writes leaves alone; ws are its writes. -/
structure AtomRun (s t : State) (ws : List (Nat × List Byte)) : Prop where
  all : t = { s with groups := t.groups, gangs := t.gangs }
  groups : ∀ k, k ≠ s.cur.gid → t.group k = s.group k
  gangs : ∀ j, j ≠ s.grp.gang → t.gang j = s.gang j
  gang : t.gang s.grp.gang = (s.gang s.grp.gang).putAll ws
  grp : t.grp = { s.grp with v := t.grp.v, tan := t.grp.tan }

section Run

variable {vd : Nat} {ty : Ty} {addr : Nat → Nat} {upd : Nat → Nat → Nat}

theorem atomRun_lane (z : State) (l : Nat) : AtomRun z (State.atomLane vd ty addr upd z l) [z.atomWrite ty addr upd l] where
  all := rfl
  groups _ hk := (State.group_setGrp _ _ _).trans (if_neg hk)
  gangs j hj := (z.gang_atomLane l j).trans (if_neg hj)
  gang := (z.gang_atomLane l _).trans (if_pos rfl)
  grp := z.grp_atomLane_keep l

theorem AtomRun.trans {s t u : State} {ws vs : List (Nat × List Byte)} (h : AtomRun s t ws) (h' : AtomRun t u vs) :
    AtomRun s u (ws ++ vs) := by
  have hcur : t.cur = s.cur := by rw [h.all]
  have hgang : t.grp.gang = s.grp.gang := by rw [h.grp]
  refine ⟨?_, fun k hk => ?_, fun j hj => ?_, ?_, ?_⟩
  · rw [h'.all, h.all]
  · rw [h'.groups k (by rwa [hcur]), h.groups k hk]
  · rw [h'.gangs j (by rwa [hgang]), h.gangs j hj]
  · rw [Gang.putAll_append, ← h.gang, ← hgang, h'.gang]
  · rw [h'.grp, h.grp]

/-- Each lane writes one element, at its address. -/
theorem atomRun_lanes (ls : List Nat) (z : State) : ∃ ws, AtomRun z (z.atomLanes vd ty addr upd ls) ws ∧
    ∀ k, (∃ w ∈ ws, Reaches w k) ↔ ∃ l ∈ ls, addr l ≤ k ∧ k < addr l + ty.bytes := by
  rw [State.atomLanes_eq]
  induction ls generalizing z with
  | nil => exact ⟨[], ⟨rfl, fun _ _ => rfl, fun _ _ => rfl, rfl, rfl⟩, by simp⟩
  | cons l ls ih =>
    obtain ⟨ws, hrun, hws⟩ := ih (State.atomLane vd ty addr upd z l)
    refine ⟨_, (atomRun_lane z l).trans hrun, fun k => ?_⟩
    rw [List.singleton_append, List.exists_mem_cons_iff, List.exists_mem_cons_iff, hws, Reaches, State.atomWrite, length_bytesOf]

/-- Registers and tangents of lanes and registers that no lane of the run writes. -/
theorem readV_atomLanes_other {ls : List Nat} (hls : ∀ l ∈ ls, l < 32) {q k : Nat} (hk : k < 32)
    (hout : ¬ (q ∈ regsOf ty vd ∧ k ∈ ls)) (z : State) : (z.atomLanes vd ty addr upd ls).grp.readV q k = z.grp.readV q k := by
  rw [State.atomLanes_eq]
  refine foldl_see_none (see := fun z : State => z.grp.readV q k) (fun z l hl => ?_) z
  rw [State.grp_atomLane, Group.zeroTan_keep]
  refine (Group.readV_putElem _ _ _ _ (hls l hl) hk q).trans (if_neg ?_)
  rintro ⟨hq, rfl⟩
  exact hout ⟨hq, hl⟩

/-- Tangents of the written registers become +0 (R198). -/
theorem readT_atomLanes {ls : List Nat} (hls : ∀ l ∈ ls, l < 32) (hregs : ∀ r ∈ regsOf ty vd, r < 256) {q c k : Nat} (hq : q < 256)
    (hk : k < 32) (z : State) : (z.atomLanes vd ty addr upd ls).grp.readT q c k =
      if q ∈ regsOf ty vd ∧ k ∈ ls ∧ c < z.grp.decl.d then 0 else z.grp.readT q c k := by
  rw [State.atomLanes_eq]
  induction ls generalizing z with
  | nil => simp
  | cons l ls ih =>
    have hdecl : (State.atomLane vd ty addr upd z l).grp.decl = z.grp.decl := by rw [State.grp_atomLane_keep]
    have hput : (z.grp.putElem ty vd l (z.heldAt ty addr l)).readT q c k = z.grp.readT q c k := by rw [Group.putElem_keep]; rfl
    have hundual : ¬ q < z.grp.decl.n → z.grp.readT q c k = 0 := fun hn => by simp [Group.readT, Group.dual, hn]
    rw [List.foldl_cons, ih (fun j hj => hls j (List.mem_cons_of_mem _ hj)), hdecl, State.grp_atomLane,
      Group.readT_zeroTan _ hregs (hls l List.mem_cons_self) hk hq, hput, Group.putElem_decl]
    by_cases hn : q < z.grp.decl.n
    · grind
    · rw [hundual hn]; simp

/-- A lane apart from the others takes the old element and leaves the new one. -/
theorem atomLanes_alone {ls : List Nat} (hnodup : ls.Nodup) (hls : ∀ l ∈ ls, l < 32) {l : Nat} (hl : l ∈ ls)
    (hapart : ∀ k ∈ ls, k ≠ l → ∀ b, addr l ≤ b → b < addr l + ty.bytes → ¬ (addr k ≤ b ∧ b < addr k + ty.bytes)) (z : State) :
    (z.atomLanes vd ty addr upd ls).heldAt ty addr l = upd l (z.heldAt ty addr l) % 2 ^ (8 * ty.bytes) ∧
    ∀ r ∈ regsOf ty vd, (z.atomLanes vd ty addr upd ls).grp.readV r l = wordIn ty vd r (z.heldAt ty addr l) := by
  have hread : ∀ z k, k ∈ ls → ∀ r, (State.atomLane vd ty addr upd z k).grp.readV r l =
      if r ∈ regsOf ty vd ∧ l = k then wordIn ty vd r (z.heldAt ty addr k) else z.grp.readV r l := by
    intro z k hk r
    rw [State.grp_atomLane, Group.zeroTan_keep]
    exact Group.readV_putElem _ _ _ _ (hls k hk) (hls l hl) r
  have hown := foldl_see_own (f := State.atomLane vd ty addr upd)
    (see := fun z : State => (z.heldAt ty addr l, fun r => z.grp.readV r l))
    (own := fun x => (upd l x.1 % 2 ^ (8 * ty.bytes), fun r => if r ∈ regsOf ty vd then wordIn ty vd r x.1 else x.2 r)) hnodup hl
    (fun z => Prod.ext (z.heldAt_atomLane_self l) (funext fun r => (hread z l hl r).trans (by simp)))
    (fun z k hk hne => Prod.ext (z.heldAt_atomLane_ne (hapart k hk hne))
      (funext fun r => (hread z k hk r).trans (if_neg fun h => hne h.2.symm))) z
  refine ⟨congrArg Prod.fst hown, fun r hr => ?_⟩
  exact (congrFun (congrArg Prod.snd hown) r).trans (if_pos hr)

end Run

/-! ## The forms -/

section Forms

variable {s : State} {vd vc : Nat} {a : Addr} {op : Comb} {ty : Ty} {o : Sync} {upd : Group → Nat → Nat → Nat}

theorem le_sameWord (ws : List Nat) : 1 ≤ sameWord ws := by
  have h : ∀ (f : Nat → Nat) (l : List Nat) (m : Nat), m ≤ l.foldl (fun m b => Nat.max m (f b)) m := by
    intro f l
    induction l with
    | nil => exact fun m => Nat.le_refl m
    | cons b l ih => exact fun m => Nat.le_trans (Nat.le_max_left m (f b)) (ih _)
  exact h _ _ _

theorem atomForm_empty (hfit : Fits s (regsOf ty vd ++ regsOf ty vc ++ addrRegs a)) (hr : mayAccess s true o) (hem : s.em = 0) :
    atomForm vd a vc ty o upd s = .next ((s.setGrp (s.grp.ordered s.clock o)).advance (words3 a.off)) := by
  have hem' : (s.setGrp (s.grp.ordered s.clock o)).em = 0 := (em_setGrp (by rw [Group.ordered_keep])).trans hem
  rw [atomForm, s.guardRegs_ok _ fun r hr => (hfit r hr).1]
  simp only [show s.spadReady true o = true from hr, Bool.not_true, Bool.false_eq_true, if_false, if_pos hem]
  exact congrArg Host.Outcome.next (checkedLanes_empty hem')

/-- The state in which the lanes begin: the data have dropped their tangents (R92), and nothing rewinds (R334). -/
def State.atomStart (s : State) (vc : Nat) (ty : Ty) : State := s.setGrp (s.grp.dropData (regsOf ty vc) s.em).irrevocable

theorem State.grp_atomStart (s : State) (vc : Nat) (ty : Ty) : (s.atomStart vc ty).grp =
    { s.grp with tlost := (s.grp.dropData (regsOf ty vc) s.em).tlost, rewind := false } := by
  rw [State.atomStart, State.grp_setGrp]
  conv_lhs => rw [Group.dropData_keep]
  rfl

/-- What the statement says of the state after ATOM or ACAS. -/
def AtomDone (s t : State) (vd vc : Nat) (a : Addr) (ty : Ty) (o : Sync) (left : Nat → Nat) : Prop :=
  let n := ty.bytes
  let addr := addrOf s a
  let at' := fun l => (addr l).toNat
  let alone := fun l => ∀ k, k < 32 → s.em.getLsbD k = true → k ≠ l → addr k ≠ addr l
  let old := fun l => spadAt s (at' l) n
  SplitAt s t (s.pcPlus (words3 a.off)) ∧ AccessKeeps s t ∧ Ordered s t o ∧
    Stored s t (fun k => ∃ l, l < 32 ∧ s.em.getLsbD l = true ∧ at' l ≤ k ∧ k < at' l + n) ∧
    (∀ l, l < 32 → s.em.getLsbD l = true → alone l → spadAt t (at' l) n = left l ∧
      ∀ r, r ∈ pairOf ty vd → t.grp.readV r l = wordIn ty vd r (old l)) ∧
    (∀ r l, l < 32 → ¬ (r ∈ pairOf ty vd ∧ s.em.getLsbD l) → t.grp.readV r l = s.grp.readV r l) ∧
    (∀ r d l, r < 256 → l < 32 → t.grp.readT r d l =
      if r ∈ pairOf ty vd ∧ s.em.getLsbD l ∧ d < s.grp.decl.d then 0 else s.grp.readT r d l) ∧
    (s.em ≠ 0 → ∃ due, s.clock + 28 ≤ due ∧
      t.grp.deliveries = s.grp.deliveries ++ [⟨(pairOf ty vd).map RegId.v, due⟩]) ∧
    (∀ l, l < 32 → t.grp.tlost.getLsbD l =
      (s.grp.tlost.getLsbD l || (s.em.getLsbD l && carries s (pairOf ty vc) l)))

theorem atomDone_empty {t : State} {left : Nat → Nat} (hem : s.em = 0) (h : OnlyOrdered s t (words3 a.off) o) :
    AtomDone s t vd vc a ty o left := by
  obtain ⟨honly, hsplit, hgrp⟩ := h
  have hord : Ordered s t o := ordered_of_eq o ⟨_, hgrp⟩ rfl rfl rfl rfl rfl
  rw [Group.ordered_keep] at hgrp
  have hv : t.grp.v = s.grp.v := by rw [hgrp]
  have ht : t.grp.tan = s.grp.tan := by rw [hgrp]
  have hd : t.grp.decl = s.grp.decl := by rw [hgrp]
  refine ⟨hsplit, ?_, hord, stored_of_onlyGroup honly (fun k => ?_) hem, fun l _ hl => ?_, fun r l _ _ => Group.readV_congr hv r l,
    fun r d l _ _ => ?_, fun h => absurd hem h, fun l _ => ?_⟩
  · rw [AccessKeeps, hgrp]
  · simp [hem]
  · simp [hem] at hl
  · rw [Group.readT_congr hd ht, hem]; simp
  · rw [hgrp, hem]; simp

/-- The group that ATOM and ACAS end in, from the one that their lanes leave. -/
theorem atomGroup_eq (g : Group) (rs : List RegId) (clock lat : Nat) (o : Sync) (hg : g.rewind = false) :
    ((g.noteAll rs).deliver clock lat rs).ordered clock o =
      Group.ordered { g with deliveries := g.deliveries ++ [⟨rs, clock + lat⟩] } clock o := by
  have hnote : g.noteAll rs = g := by
    rw [Group.noteAll_keep, Group.noteAll_rewind, hg, Bool.false_and, ← hg]
  rw [hnote, Group.deliver]

/-- What the lanes of em leave when they have read, combined and written one after another. -/
structure AtomLeft (s t : State) (vd vc : Nat) (at' : Nat → Nat) (ty : Ty) (left : Nat → Nat) : Prop where
  all : t = { s with groups := t.groups, gangs := t.gangs }
  groups : ∀ k, k ≠ s.cur.gid → t.group k = s.group k
  grp : t.grp = { s.grp with v := t.grp.v, tan := t.grp.tan, tlost := (s.grp.dropData (regsOf ty vc) s.em).tlost, rewind := false }
  gangs : ∀ j, j ≠ s.grp.gang → t.gang j = s.gang j
  gang : ∃ ws, t.gang s.grp.gang = (s.gang s.grp.gang).putAll ws ∧
    ∀ k, (∃ l, l < 32 ∧ s.em.getLsbD l = true ∧ at' l ≤ k ∧ k < at' l + ty.bytes) ↔ ∃ w ∈ ws, Reaches w k
  alone : ∀ l, l < 32 → s.em.getLsbD l = true → (∀ k, k < 32 → s.em.getLsbD k = true → k ≠ l → at' k ≠ at' l) →
    spadAt t (at' l) ty.bytes = left l ∧ ∀ r ∈ regsOf ty vd, t.grp.readV r l = wordIn ty vd r (spadAt s (at' l) ty.bytes)
  readV : ∀ r l, l < 32 → ¬ (r ∈ regsOf ty vd ∧ s.em.getLsbD l) → t.grp.readV r l = s.grp.readV r l
  readT : ∀ r d l, r < 256 → l < 32 → t.grp.readT r d l =
    if r ∈ regsOf ty vd ∧ s.em.getLsbD l ∧ d < s.grp.decl.d then 0 else s.grp.readT r d l

theorem atomLeft_lanes {at' left : Nat → Nat} (hregs : ∀ r ∈ regsOf ty vd, r < 256)
    (hal : ∀ l, l < 32 → s.em.getLsbD l = true → at' l % ty.bytes = 0)
    (hleft : ∀ l, upd s.grp l (spadAt s (at' l) ty.bytes) % 2 ^ (8 * ty.bytes) = left l) :
    AtomLeft s ((s.atomStart vc ty).atomLanes vd ty at' (upd s.grp) (lanesOf s.em)) vd vc at' ty left := by
  have hlanes : ∀ l ∈ lanesOf s.em, l < 32 := fun l hl => (mem_lanesOf.1 hl).1
  have hstart := s.grp_atomStart vc ty
  have hgang : (s.atomStart vc ty).grp.gang = s.grp.gang := by rw [hstart]
  obtain ⟨ws, hrun, hws⟩ := atomRun_lanes (vd := vd) (ty := ty) (addr := at') (upd := upd s.grp) (lanesOf s.em) (s.atomStart vc ty)
  have hgrp := hrun.grp
  rw [hstart] at hgrp
  have hspad : ∀ k, (s.atomStart vc ty).heldAt ty at' k = spadAt s (at' k) ty.bytes := fun k => by
    rw [State.heldAt, hgang]; rfl
  refine ⟨hrun.all, fun k hk => (hrun.groups k hk).trans ((State.group_setGrp _ _ _).trans (if_neg hk)), hgrp,
    fun j hj => hrun.gangs j (by rwa [hgang]), ⟨ws, by rw [← hgang]; exact hrun.gang, fun k => ?_⟩, fun l hl hem hapart => ?_,
    fun r l hl hr => ?_, fun r d l hr hl => ?_⟩
  · rw [hws]; simp [mem_lanesOf, and_assoc]
  · have hdone := atomLanes_alone (vd := vd) (ty := ty) (addr := at') (upd := upd s.grp) (lanesOf_nodup s.em) hlanes
      (mem_lanesOf.2 ⟨hl, hem⟩) (fun k hk hne b hlo hhi => ?_) (s.atomStart vc ty)
    · rw [hspad, hleft] at hdone
      exact hdone
    · obtain ⟨hk32, hkm⟩ := mem_lanesOf.1 hk
      exact aligned_disjoint (hal l hl hem) (hal k hk32 hkm) (hapart k hk32 hkm hne).symm ⟨hlo, hhi⟩
  · refine (readV_atomLanes_other hlanes hl (by simpa [mem_lanesOf, hl] using hr) _).trans ?_
    exact Group.readV_congr (by rw [hstart]) r l
  · refine (readT_atomLanes hlanes hregs hr hl _).trans ?_
    rw [show (s.atomStart vc ty).grp.decl = s.grp.decl by rw [hstart],
      Group.readT_congr (g := (s.atomStart vc ty).grp) (h := s.grp) (by rw [hstart]) (by rw [hstart])]
    simp [mem_lanesOf, hl]

/-- The end of ATOM and ACAS, from the state t that the lanes leave. -/
def atomEnd (s t : State) (vd : Nat) (a : Addr) (ty : Ty) (o : Sync) : State :=
  let rs := (regsOf ty vd).map RegId.v
  t.setGrp (((t.grp.noteAll rs).deliver s.clock (27 + sameWord ((lanesOf s.em).map fun l => s.grp.byteAddr a l / 4)) rs).ordered
    s.clock o)

theorem AtomLeft.done {t : State} {left : Nat → Nat} (h : AtomLeft s t vd vc (s.grp.byteAddr a) ty left)
    (hin : Inside s (addrOf s a) ty.bytes ty.bytes (boundOf s false)) :
    AtomDone s ((atomEnd s t vd a ty o).advance (words3 a.off)) vd vc a ty o left := by
  have haddr := byteAddr_eq s a
  have hcur : t.cur = s.cur := by rw [h.all]
  rw [atomEnd, atomGroup_eq _ _ _ _ _ (by rw [h.grp])]
  obtain ⟨⟨hall, honly⟩, hsplit, hgrp⟩ := t.setGrp_advance_spec (g := Group.ordered { t.grp with
      deliveries := t.grp.deliveries ++
        [⟨(regsOf ty vd).map RegId.v, s.clock + (27 + sameWord ((lanesOf s.em).map fun l => s.grp.byteAddr a l / 4))⟩] } s.clock o)
    (by rw [Group.ordered_keep]) (words3 a.off)
  generalize (t.setGrp (Group.ordered _ s.clock o)).advance (words3 a.off) = u at hall honly hsplit hgrp ⊢
  have hlat := le_sameWord ((lanesOf s.em).map fun l => s.grp.byteAddr a l / 4)
  have hkeep := hgrp
  rw [Group.ordered_keep, h.grp] at hkeep
  have hv : u.grp.v = t.grp.v := by rw [hkeep]
  have ht : u.grp.tan = t.grp.tan := by rw [hkeep]
  have hd : u.grp.decl = t.grp.decl := by rw [hkeep, h.grp]
  have hgang : u.gangs = t.gangs := by rw [hall]
  have hgangs : ∀ j, u.gang j = t.gang j := fun j => by rw [State.gang, hgang]; rfl
  have hspad : ∀ b n, spadAt u b n = spadAt t b n := fun b n => by
    rw [spadAt, spadAt, State.readSpad, State.readSpad, hgangs, hkeep, h.grp]
  have hspl : t.spl = s.spl := by rw [State.spl, State.spl, hcur, h.grp]; rfl
  have hsplit : SplitAt s u (s.pcPlus (words3 a.off)) := by
    rw [SplitAt, hspl, hcur, State.pcPlus, State.pc, hspl, h.grp] at hsplit
    exact hsplit
  obtain ⟨ws, hws, hreach⟩ := h.gang
  simp only [haddr] at hreach
  refine ⟨hsplit, ?_, ordered_of_eq o ⟨_, hgrp⟩ ?_ ?_ ?_ ?_ ?_, ⟨?_, fun k hk => ?_, fun j hj => ?_, ?_, fun k hk => ?_,
    fun k hk => ?_, fun _ => ?_⟩, fun l hl hm hal => ?_, fun r l hl hr => ?_, fun r d l hr hl => ?_, fun _ => ?_, fun l hl => ?_⟩
  · rw [AccessKeeps, hkeep]
  · rw [h.grp]
  · rw [h.grp]
  · rw [h.grp]
  · rw [h.grp]
  · rw [h.grp]
  · rw [hall, h.all]
  · rw [honly k (by rwa [hcur]), h.groups k hk]
  · rw [hgangs, h.gangs j hj]
  · rw [hgangs, hws]; exact Gang.putAll_keep _ _
  · rw [hgangs, hws]
    exact Gang.putAll_out _ _ fun w hw hr => hk ((hreach k).2 ⟨w, hw, hr⟩)
  · rw [hgangs, hws]
    exact Gang.putAll_errs _ _ (.inl ((hreach k).1 hk))
  · rw [hkeep]
  · obtain ⟨hnew, hold⟩ := h.alone l hl hm fun k hk hkm hne heq => hal k hk hkm hne (by
      have h1 := (hin k hk hkm).2.1
      have h2 := (hin l hl hm).2.1
      rw [haddr, haddr] at heq
      omega)
    rw [haddr] at hnew hold
    exact ⟨(hspad _ _).trans hnew, fun r hr => (Group.readV_congr hv r l).trans (hold r hr)⟩
  · rw [Group.readV_congr hv]; exact h.readV r l hl hr
  · rw [Group.readT_congr hd ht]; exact h.readT r d l hr hl
  · refine ⟨s.clock + (27 + sameWord ((lanesOf s.em).map fun l => s.grp.byteAddr a l / 4)), by omega, ?_⟩
    rw [hkeep]; rfl
  · rw [hkeep]; exact Group.tlost_dropData s _ hl

/-- The lanes of em one after another. -/
theorem atomDone_work {left : Nat → Nat} (hregs : ∀ r ∈ regsOf ty vd, r < 256)
    (hin : Inside s (addrOf s a) ty.bytes ty.bytes (boundOf s false))
    (hleft : ∀ l, upd s.grp l (spadAt s (addrOf s a l).toNat ty.bytes) % 2 ^ (8 * ty.bytes) = left l) :
    AtomDone s ((atomWork vd vc a ty o upd s.em s).advance (words3 a.off)) vd vc a ty o left := by
  have hlanes := atomLeft_lanes (vd := vd) (vc := vc) (at' := s.grp.byteAddr a) (upd := upd) (left := left) hregs
    (fun l hl hm => by rw [byteAddr_eq]; exact toNat_mod (hin l hl hm).2.1 (hin l hl hm).1)
    (fun l => by rw [byteAddr_eq]; exact hleft l)
  exact hlanes.done hin

end Forms

/-! ## The values that are left -/

theorem bytes_width (ty : Ty) : 8 * ty.bytes = ty.width := by cases ty <;> rfl

/-- A rounded binary32 value is a pattern of 32 bits. -/
theorem roundTo_f32_lt (x : XVal) : roundTo .f32 .rne x < 2 ^ 32 := by
  have hover : ∀ neg, overflowBits .f32 .rne neg ≤ Fmt.f32.infBits := by decide
  have hmax : Fmt.f32.maxBits ≤ Fmt.f32.infBits := by decide
  have hmag : ∀ neg n d, roundMagnitude .f32 .rne neg n d ≤ Fmt.f32.infBits := by
    intro neg n d
    have hclamp : ∀ b, (if Fmt.f32.maxBits < b then overflowBits .f32 .rne neg else b) ≤ Fmt.f32.infBits := by
      intro b
      split
      · exact hover neg
      · next hle => exact Nat.le_trans (Nat.le_of_not_lt hle) hmax
    exact hclamp _
  have hsign : ∀ neg : Bool, (if neg then Fmt.f32.signBit else 0) ≤ 2 ^ 31 := by decide
  have hinf : Fmt.f32.infBits < 2 ^ 31 := by decide
  cases x with
  | nan => decide
  | inf neg => cases neg <;> decide
  | fin neg n d =>
    have hb : (if n = 0 then 0 else roundMagnitude .f32 .rne neg n d) ≤ Fmt.f32.infBits := by
      split
      · exact Nat.zero_le _
      · exact hmag neg n d
    have hs := hsign neg
    change (if n = 0 then 0 else roundMagnitude .f32 .rne neg n d) + (if neg then Fmt.f32.signBit else 0) < 2 ^ 32
    omega

theorem combineOf_lt {ty : Ty} (hat : ty.isAtomic = true) {op : Comb} (hop : op ≠ .add) {x y : Nat} (hx : x < 2 ^ ty.width)
    (hy : y < 2 ^ ty.width) : combineOf op ty x y < 2 ^ ty.width := by
  have hnan : ty.isFloat = true → (fmtOf ty).canonicalNaN < 2 ^ ty.width := by cases ty <;> simp_all [Ty.isAtomic] <;> decide
  cases op with
  | add => exact absurd rfl hop
  | min | max => simp only [combineOf]; split_ifs <;> simp_all
  | and => exact Nat.and_lt_two_pow _ hy
  | or => exact Nat.or_lt_two_pow hx hy
  | xor | xchg => exact Nat.xor_lt_two_pow hx hy

theorem combine_eq_combineOf_of_ne_add {op : Comb} {ty : Ty} (hadd : op ≠ .add) (hop : op ≠ .xchg) (x y : Nat) :
    combine op ty x y = combineOf op ty x y := by
  cases op with
  | add => exact absurd rfl hadd
  | xchg => exact absurd rfl hop
  | min | max => cases hfl : ty.isFloat <;> simp only [combine, combineOf, hfl, minV, maxV, if_true] <;> rfl
  | and | or | xor => rfl

/-- What an update makes of the element, as the statement has it. -/
theorem combine_eq_combined {ty : Ty} (hat : ty.isAtomic = true) (op : Comb) (x y : Nat) : combine op ty x y = match op with
    | .xchg => y
    | .add => if ty = .f32 then combineOf .add .f32 x y else (x + y) % 2 ^ ty.width
    | _ => combineOf op ty x y := by
  cases op with
  | xchg => rfl
  | add =>
    by_cases hf : ty = .f32
    · subst hf; rfl
    · have hint : ty.isFloat = false := by cases ty <;> simp_all [Ty.isAtomic] <;> rfl
      simp [combine, hint, hf, addV]
  | min | max | and | or | xor => exact combine_eq_combineOf_of_ne_add (by decide) (by decide) x y

/-- What ATOM leaves, as the statement has it. -/
theorem atomValue_mod (s : State) {ty : Ty} (hat : ty.isAtomic = true) (op : Comb) (vc l : Nat) {x : Nat} (hx : x < 2 ^ ty.width) :
    atomValue vc op ty s.grp l x % 2 ^ (8 * ty.bytes) = match op with
      | .xchg => s.grp.elem ty vc l
      | .add => if ty = .f32 then combineOf .add .f32 x (s.grp.elem ty vc l) else (x + s.grp.elem ty vc l) % 2 ^ ty.width
      | _ => combineOf op ty x (s.grp.elem ty vc l) := by
  have hy := s.grp.elem_lt ty vc l
  rw [bytes_width, atomValue, combine_eq_combined hat]
  refine Nat.mod_eq_of_lt ?_
  cases op with
  | xchg => exact hy
  | add =>
    dsimp only
    split
    · next hf => subst hf; exact roundTo_f32_lt _
    · exact Nat.mod_lt _ (Nat.two_pow_pos _)
  | min | max | and | or | xor => exact combineOf_lt hat (by decide) hx hy

theorem acasValue_mod (s : State) (ty : Ty) (vd vc l : Nat) {x : Nat} (hx : x < 2 ^ ty.width) :
    acasValue vd vc ty s.grp l x % 2 ^ (8 * ty.bytes) = if x = s.grp.elem ty vd l then s.grp.elem ty vc l else x := by
  rw [bytes_width, acasValue]
  split
  · exact Nat.mod_eq_of_lt (s.grp.elem_lt ty vc l)
  · exact Nat.mod_eq_of_lt hx

theorem completes_atomForm {s : State} {i : Instr} {vd vc : Nat} {a : Addr} {ty : Ty} {o : Sync} {upd : Group → Nat → Nat → Nat}
    {left : Nat → Nat} (hfit : Fits s (regsOf ty vd ++ regsOf ty vc ++ addrRegs a)) (hr : mayAccess s true o)
    (hin : Inside s (addrOf s a) ty.bytes ty.bytes (boundOf s false)) (hexec : exec i s = atomForm vd a vc ty o upd s)
    (hacc : LaneAccess s i (words3 a.off) 2 0 (addrOf s a) (laneCheck s a (boundOf s false) ty.bytes) (atomWork vd vc a ty o upd))
    (hleft : ∀ l, upd s.grp l (spadAt s (addrOf s a l).toNat ty.bytes) % 2 ^ (8 * ty.bytes) = left l) :
    Completes i s fun t => AtomDone s t vd vc a ty o left := by
  by_cases hem : s.em = 0
  · exact ⟨_, hexec.trans (atomForm_empty hfit hr hem), atomDone_empty hem (onlyOrdered_setGrp s _ o)⟩
  · refine ⟨_, hacc.runs_all (fun l hl => laneCheck_inside hin hl) hem, atomDone_work (fun r hr => (hfit r ?_).2) hin hleft⟩
    simp [hr]

/-- Settles O20: the lanes go one after another, and one that has its address to itself finds its element as it was. -/
theorem atomics : Obligations.Atomics := by
  intro s vd vc a op ty o h n addr at' next alone old new combined done hat hfit hmay hin
  have hnext : s.pcPlus (words3 a.off) = next := s.pcPlus_words3 a.off
  have hold : ∀ l, old l < 2 ^ ty.width := fun l => spadAt_lt s _ ty
  have hdone : ∀ t left, AtomDone s t vd vc a ty o left → done t left := fun t left hd => by
    rw [AtomDone, hnext] at hd; exact hd
  constructor
  · obtain ⟨t, hexec, hd⟩ := completes_atomForm hfit hmay hin rfl (laneAccess_atom (h := h) (op := op) hfit hmay)
      (fun l => atomValue_mod s hat op vc l (hold l))
    exact ⟨t, hexec, hdone t _ hd⟩
  · obtain ⟨t, hexec, hd⟩ := completes_atomForm hfit hmay hin rfl (laneAccess_acas (h := h) hfit hmay)
      (fun l => acasValue_mod s ty vd vc l (hold l))
    exact ⟨t, hexec, hdone t _ hd⟩

end Sys2Proof.Machine
end

section
/-!
PROOF. A command with an empty em that ends a wait for the factor counter (R206, R214, R260): the completion of its operation wakes
the splits of the group, and one whose WAITC fx meets the factor fault latch traps, which ends rewind-allowed (R121, R334).
-/

namespace Sys2Proof.Machine

open Sys2Proof.Claims

/-- Split 0 issues with an empty em. Split 1 waits until no factor operation is in flight, which holds, and the latch is set. -/
def latched : State :=
  { State.reset with groups := [(0, { Group.free with
      life := .resident
      decl := { Group.free.decl with c := 16, spad := 64 }
      splits := [(0, Split.run 0 0 16 false), (1, { Split.run 0 1 16 false with state := .waiting, wait := .counter .fx 0 0 })]
      latch := some 0
      rewind := true })] }

/-- Rewind-allowed of the issuing group after an instruction that goes on. -/
def rewindAfterwards : Out → Option Bool
  | .next t => some t.grp.rewind
  | _ => none

theorem latched_noneWaits : NoneWaits latched := by
  have hcounter : ∀ e, e < 4 → e ≠ latched.cur.entry → (latched.grp.split e).wait = .counter .fx 0 0 ∨
      (latched.grp.split e).wait = .none := by decide +kernel
  intro e he hne _ bar gen sd acq crit next hwait
  rcases hcounter e he hne with h | h <;> simp [hwait] at h

/-- An instruction whose completion ends rewind-allowed there does not complete at once. -/
theorem not_completesAtOnce_latched {i : Instr} (h : rewindAfterwards (exec i latched) = some false) :
    ¬ CompletesAtOnce i latched := by
  rintro ⟨t, hexec, -, -, -, -, hrewind⟩
  rw [hexec, rewindAfterwards, hrewind latched_noneWaits] at h
  exact absurd h (by decide +kernel)

theorem latched_gath : rewindAfterwards (exec (.gath 0 0 0 0 .n32 0) latched) = some false := by decide +kernel

theorem latched_tex : rewindAfterwards (exec (.tex 0 0 0 false 0) latched) = some false := by decide +kernel

theorem latched_mayIssue : mayIssue latched := by unfold mayIssue; decide +kernel

theorem latched_runnable : latched.spl.state = .runnable := by decide +kernel

/-- The registers v0 to v15 are the group's. -/
theorem latched_fits {rs : List Nat} (h : ∀ r ∈ rs, r < 16) : Fits latched rs := fun r hr =>
  ⟨Nat.lt_of_lt_of_le (h r hr) (by decide +kernel), by have := h r hr; omega⟩

/-- Refutes O23: the completion of a GATH with an empty em wakes a split that waits for the factor counter, which traps on the
latch, and rewind-allowed ends although no split waits at a barrier. -/
theorem not_laneEngineCommands : ¬ Obligations.LaneEngineCommands := by
  intro h
  obtain ⟨hempty, -⟩ := h latched 0 0 0 0 .add .n32 .plain false 0 latched_runnable (latched_fits (by decide)) latched_mayIssue
  obtain ⟨hgath, -⟩ := hempty (by decide +kernel)
  exact not_completesAtOnce_latched latched_gath hgath

/-- Refutes O26: so it is with a TEX with an empty em. -/
theorem not_textureAndRays : ¬ Obligations.TextureAndRays := by
  intro h
  obtain ⟨htex, -⟩ := h latched 0 0 0 false ⟨false, 0⟩ 0 (by unfold DescriptorAt; decide +kernel) latched_mayIssue latched_runnable
  obtain ⟨-, hempty⟩ := htex (latched_fits (by decide))
  obtain ⟨honce, -⟩ := hempty (by decide +kernel)
  exact not_completesAtOnce_latched latched_tex honce

end Sys2Proof.Machine
end

section
/-!
PROOF. The completion of an operation (R203): its results land and its counters retire; the waits and fences that end then change no
register of a vector, no operation, no scratchpad and no byte of memory.
-/

namespace Sys2Proof.Machine

open Sys2Proof.Claims

/-! ## What waits and fences leave alone -/

/-- The operations and the vector registers of a group. -/
def Group.work (g : Group) : List Op × Sparse Word32 × Sparse Word32 × Decl := (g.ops, g.v, g.tan, g.decl)

/-- What operations work on: the memory of the dies, the scratchpads, and the groups' operations and vector registers. -/
def State.work (s : State) : (Nat → Memory) × Sparse Gang × (Nat → List Op × Sparse Word32 × Sparse Word32 × Decl) :=
  (fun d => (s.die d).mem, s.gangs, fun k => (s.group k).work)

section Work

variable {s t : State} {gid : Nat}

theorem State.mem_of_work (h : t.work = s.work) (d : Nat) : (t.die d).mem = (s.die d).mem :=
  congrFun (congrArg Prod.fst h) d

theorem State.gang_of_work (h : t.work = s.work) (k : Nat) : t.gang k = s.gang k := by
  have hgangs : t.gangs = s.gangs := congrArg (fun x => x.2.1) h
  rw [State.gang, hgangs]; rfl

theorem State.group_of_work (h : t.work = s.work) (k : Nat) : (t.group k).work = (s.group k).work :=
  congrFun (congrArg (fun x => x.2.2) h) k

theorem Group.of_work {g h : Group} (hw : g.work = h.work) : g.ops = h.ops ∧ g.v = h.v ∧ g.tan = h.tan ∧ g.decl = h.decl := by
  simpa [Group.work] using hw

theorem State.work_of_eq (hd : t.dies = s.dies) (hy : t.gangs = s.gangs) (hg : t.groups = s.groups) : t.work = s.work := by
  simp only [State.work, State.die, State.group, hd, hy, hg]

theorem State.work_setGroup {g : Group} (h : g.work = (s.group gid).work) : (s.setGroup gid g).work = s.work := by
  have hgroups : ∀ k, ((s.setGroup gid g).group k).work = (s.group k).work := fun k => by
    rw [State.group_setGroup]
    split
    · next hk => rw [h, hk]
    · rfl
  exact Prod.ext rfl (Prod.ext rfl (funext hgroups))

theorem State.work_setDie {d : Nat} {x : Die} (h : x.mem = (s.die d).mem) : (s.setDie d x).work = s.work := by
  have hmem : ∀ k, ((s.setDie d x).die k).mem = (s.die k).mem := fun k => by
    rw [State.die_setDie]
    split
    · next hk => rw [h, hk]
    · rfl
  exact Prod.ext (funext hmem) rfl

theorem State.work_faultContext (s : State) (c : Nat) : (s.faultContext c).work = s.work := by
  unfold State.faultContext
  dsimp only
  split
  · rfl
  · split <;> rfl

theorem State.work_trap (s : State) (gid e : Nat) (fm : Word32) (cause : Nat) (pc : Addr52) (faults : List (Nat × LaneFault)) :
    (s.trap gid e fm cause pc faults).work = s.work := by
  obtain ⟨-, ht⟩ | ⟨-, g, ht, hg, -⟩ := s.trap_cases gid e fm cause pc faults
  · rw [ht]
    have hfrozen : (s.setGroup gid { s.group gid with life := .frozen }).work = s.work := State.work_setGroup (by rfl)
    exact (State.work_faultContext _ _).trans hfrozen
  · rw [ht]
    refine State.work_setGroup ?_
    rw [Group.pushTrap_keep, hg]; rfl

theorem State.work_finishCounter (s : State) (gid e : Nat) (cls : Cls) (next : Addr52) :
    (s.finishCounter gid e cls next).work = s.work := by
  unfold State.finishCounter
  dsimp only
  split
  · exact (State.work_trap _ _ _ _ _ _ _).trans (State.work_setGroup (by rfl))
  · exact State.work_setGroup (by rfl)

theorem Group.work_setSplit (g : Group) (e : Nat) (x : Split) : (g.setSplit e x).work = g.work := rfl

theorem Group.critStep_work (g : Group) (clock : Nat) (o : MemOrd) (crit : Bool) : (g.critStep clock o crit).work = g.work := by
  rw [Group.critStep_keep]; rfl

theorem Group.joinHorizons_work (g : Group) : g.joinHorizons.work = g.work := by
  simp only [Group.joinHorizons, Group.work]

theorem Group.waited_work (g : Group) (r : Nat) (x : Word64) (q : RegId) (τ : Stamp) :
    (((g.writeS r x).noteWrite q).mergeHorizon τ).work = g.work := by
  rw [Group.noteWrite_keep, Group.writeS_keep]; rfl

theorem State.work_finishBarrier (s : State) (gid e bar gen sd : Nat) (acq crit : Bool) (next : Addr52) :
    (s.finishBarrier gid e bar gen sd acq crit next).work = s.work := by
  unfold State.finishBarrier
  dsimp only
  generalize hu : (if acq = true ∧ ((s.gang (s.group gid).gang).bar bar).collSince gen = true then
    s.setDie (dieOf gid) { s.die (dieOf gid) with peerBuf := [] } else s) = u
  have hkeep : u.work = s.work := by
    rw [← hu]
    split
    · exact State.work_setDie (by rfl)
    · rfl
  have hgroup := State.group_of_work hkeep gid
  refine (State.work_setGroup ?_).trans hkeep
  rw [hgroup, Group.work_setSplit]
  split
  · rw [Group.critStep_work, Group.joinHorizons_work, Group.waited_work]
  · rw [Group.waited_work]

theorem State.work_wakeSplit (s : State) (gid e : Nat) : (s.wakeSplit gid e).work = s.work := by
  unfold State.wakeSplit
  dsimp only
  split
  · split
    · split
      · exact State.work_finishCounter _ _ _ _ _
      · rfl
    · split
      · exact State.work_finishBarrier _ _ _ _ _ _ _ _ _
      · rfl
    · rfl
  · rfl

theorem State.work_wakeGroup (s : State) (gid : Nat) : (s.wakeGroup gid).work = s.work :=
  foldl_see_none (see := State.work) (fun s e _ => State.work_wakeSplit s gid e) s

theorem State.work_tryFence (s : State) (gid : Nat) (f : Fence) : (s.tryFence gid f).work = s.work := by
  have hpass : ((s.group gid).passFence f).work = (s.group gid).work := by
    have hjoin : (if joinsLanes f.scope then (s.group gid).joinHorizons else s.group gid).work = (s.group gid).work := by
      split
      · exact Group.joinHorizons_work _
      · rfl
    unfold Group.passFence
    dsimp only
    rw [← hjoin]
    split <;> rfl
  unfold State.tryFence
  dsimp only
  split
  · have hset : (s.setGroup gid ((s.group gid).passFence f)).work = s.work := State.work_setGroup hpass
    split
    · exact (State.work_setDie (by rfl)).trans hset
    · exact hset
  · rfl

theorem State.work_tryFences (s : State) (gid : Nat) : (s.tryFences gid).work = s.work :=
  foldl_see_none (see := State.work) (fun s f _ => State.work_tryFence s gid f) s

theorem State.work_count (s : State) (ctx k n : Nat) : (s.count ctx k n).work = s.work := by
  unfold State.count
  dsimp only
  split <;> rfl

theorem State.work_endGrant (s : State) (gid id : Nat) : (s.endGrant gid id).work = s.work :=
  (State.work_count _ _ _ _).trans (State.work_setDie (by rfl))

/-! ## Completion -/

/-- An operation that has no barrier and has not failed completes: what is seen afterwards is what its group has made of it. -/
theorem State.work_completeOp {o : Op} (hbar : o.bar = none) (hok : failing o.status = false) :
    (s.completeOp gid o).work = (s.setGroup gid ((s.group gid).complete o)).work := by
  unfold State.completeOp
  simp only [hbar, hok, Bool.false_eq_true, if_false]
  rw [State.work_wakeGroup, State.work_tryFences, State.work_endGrant, State.work_count]
  rfl

end Work

section Completed

variable {s : State} {gid : Nat} {o : Op}

/-- A result that lands writes vector registers and tangents alone, and no operation. -/
theorem Group.land_ops (g : Group) (r : RegId × Nat × Nat) : (g.land r).ops = g.ops ∧ (g.land r).decl = g.decl := by
  unfold Group.land
  split
  · rw [Group.noteWrite_keep, Group.zeroTan_keep]; exact ⟨rfl, rfl⟩
  · rw [Group.noteWrite_keep, Group.writeS_keep]; exact ⟨rfl, rfl⟩
  · exact ⟨rfl, rfl⟩

theorem Group.foldl_land_ops (rs : List (RegId × Nat × Nat)) (g : Group) :
    (rs.foldl Group.land g).ops = g.ops ∧ (rs.foldl Group.land g).decl = g.decl := by
  induction rs generalizing g with
  | nil => exact ⟨rfl, rfl⟩
  | cons r rs ih =>
    obtain ⟨hops, hdecl⟩ := ih (g.land r)
    exact ⟨hops.trans (g.land_ops r).1, hdecl.trans (g.land_ops r).2⟩

theorem mem_of_mem_retire {x : Op} (os : List Op) (held : List Cls) (h : x ∈ (retire held os).1) : x ∈ os := by
  induction os generalizing held with
  | nil => exact h
  | cons o os ih =>
    rw [retire] at h
    split at h
    · exact List.mem_cons_of_mem _ (ih _ h)
    · rcases List.mem_cons.1 h with rfl | h
      · exact List.mem_cons_self
      · exact List.mem_cons_of_mem _ (ih _ h)

/-- The completion of an operation seen in its group: its results have landed, and it is done. -/
theorem Group.complete_work (g : Group) (o : Op) : (g.complete o).work =
    ((retire [] (g.setOp { o with done := true, results := [] }).ops).1, (o.results.foldl Group.land g).v,
      (o.results.foldl Group.land g).tan, g.decl) := by
  obtain ⟨hops, hdecl⟩ := Group.foldl_land_ops o.results g
  unfold Group.complete
  dsimp only
  split <;> simp only [Group.retireOps, Group.setOp, Group.mergeHorizon, Group.work, hops, hdecl]

/-- An operation of the group that has the number of one put back is that one. -/
theorem Group.eq_of_mem_setOp {g : Group} {x y : Op} (h : y ∈ (g.setOp x).ops) (hid : y.id = x.id) : y = x := by
  obtain ⟨z, -, hz⟩ := List.mem_map.1 h
  by_cases hzid : z.id = x.id
  · rw [if_pos hzid] at hz; exact hz.symm
  · rw [if_neg hzid] at hz
    exact absurd (hz ▸ hid) hzid

section

variable (s gid) (hbar : o.bar = none) (hok : failing o.status = false)

include hbar hok

/-- The group after the completion. -/
theorem State.group_completeOp :
    ((s.completeOp gid o).group gid).ops = (retire [] ((s.group gid).setOp { o with done := true, results := [] }).ops).1 ∧
    ((s.completeOp gid o).group gid).v = (o.results.foldl Group.land (s.group gid)).v ∧
    ((s.completeOp gid o).group gid).tan = (o.results.foldl Group.land (s.group gid)).tan ∧
    ((s.completeOp gid o).group gid).decl = (s.group gid).decl := by
  have hwork := State.group_of_work (State.work_completeOp (s := s) (gid := gid) hbar hok) gid
  rw [State.group_setGroup_self, Group.complete_work, Group.work, Prod.mk.injEq, Prod.mk.injEq, Prod.mk.injEq] at hwork
  exact hwork

/-- A completed operation is over (R203). -/
theorem over_completeOp : Over (s.completeOp gid o) gid o.id := by
  obtain ⟨hops, -⟩ := State.group_completeOp s gid hbar hok
  intro x hx
  rw [Group.op?, hops] at hx
  have hid : x.id = o.id := by simpa using List.find?_some hx
  rw [Group.eq_of_mem_setOp (mem_of_mem_retire _ _ (List.mem_of_find?_eq_some hx)) hid]

theorem State.readV_completeOp (r l : Nat) : ((s.completeOp gid o).group gid).readV r l =
    (o.results.foldl Group.land (s.group gid)).readV r l := by
  obtain ⟨-, hv, -⟩ := State.group_completeOp s gid hbar hok
  exact Group.readV_congr hv r l

theorem State.readT_completeOp (r d l : Nat) : ((s.completeOp gid o).group gid).readT r d l =
    (o.results.foldl Group.land (s.group gid)).readT r d l := by
  obtain ⟨-, -, ht, hd⟩ := State.group_completeOp s gid hbar hok
  exact Group.readT_congr (hd.trans (Group.foldl_land_ops _ _).2.symm) ht r d l

theorem State.mem_completeOp (d : Nat) : ((s.completeOp gid o).die d).mem = (s.die d).mem :=
  State.mem_of_work (s := s.setGroup gid ((s.group gid).complete o)) (State.work_completeOp hbar hok) d

theorem State.gang_completeOp (k : Nat) : (s.completeOp gid o).gang k = s.gang k :=
  State.gang_of_work (s := s.setGroup gid ((s.group gid).complete o)) (State.work_completeOp hbar hok) k

end

end Completed

end Sys2Proof.Machine
end

section
/-!
PROOF. What the engines write and read of HBM (R276, R281, R282): a write of one run of bytes by a die, at which dies it stands at
once, and a read of bytes that are neither poisoned nor bad.
-/

namespace Sys2Proof.Machine

open Sys2Proof.Claims

/-! ## A run of bytes on a die -/

section Bytes

variable {d : Die} {pa : Nat} {bs : List Byte} {m : Mark}

/-- The bytes of a write stand where no later write stood (R276). -/
theorem Die.putBytes_in (h : ∀ k, pa ≤ k → k < pa + bs.length → (d.mark k).seq ≤ m.seq) {i : Nat} (hi : i < bs.length) :
    Sparse.get 0 (d.putBytes pa m bs).mem (pa + i) = bs[i] := by
  induction bs generalizing d pa i with
  | nil => exact absurd hi (Nat.not_lt_zero i)
  | cons b bs ih =>
    rw [List.length_cons] at h hi
    have hlater : ∀ k, k ≠ pa → (d.putByte pa b m).mark k = d.mark k := fun k hk => (d.putBytes_out pa m [b] (by simp; omega)).2
    cases i with
    | zero =>
      refine ((d.putByte pa b m).putBytes_out (pa + 1) m bs (.inl (Nat.lt_succ_self pa))).1.trans ?_
      rw [d.putByte_mem pa b m (h pa (Nat.le_refl _) (by omega)), if_pos rfl]; rfl
    | succ i =>
      have hrest := ih (d := d.putByte pa b m) (pa := pa + 1) (i := i)
        (fun k hlo hhi => by rw [hlater k (by omega)]; exact h k (by omega) (by omega)) (by omega)
      rw [show pa + (i + 1) = pa + 1 + i by omega]
      exact hrest

/-- A die that takes a write of one run of bytes. -/
def HeldWrite.ofRun (e : Nat) (σ : Stamp) (seq pa : Nat) (bs : List Byte) : HeldWrite := ⟨e, σ, seq, [⟨pa, bs, false⟩]⟩

theorem Die.mem_apply (d : Die) (e : Nat) (σ : Stamp) (seq pa : Nat) (bs : List Byte) :
    (d.apply (.ofRun e σ seq pa bs)).mem = (d.putBytes pa ⟨seq, σ, false, false⟩ bs).mem := rfl

end Bytes

/-! ## The write of a die -/

section Write

variable (s : State) {e : Nat} (now : List Nat) (pa : Nat) (bs : List Byte) (carry : Stamp)

/-- The stamp of the write. -/
def State.writeStamp (s : State) (e : Nat) (carry : Stamp) : Stamp :=
  Sparse.set 0 (Stamp.max (s.die e).vc carry) e ((s.die e).vc.at e + 1)

/-- What die k makes of a write of die e: it applies it at once, or holds it. -/
def Die.tookWrite (d : Die) (e : Nat) (now : List Nat) (w : HeldWrite) (k : Nat) : Die :=
  if k = e ∨ k ∈ now then d.apply w else { d with held := d.held ++ [w] }

/-- The dies take a write one after another. -/
def State.takeWrite (e : Nat) (now : List Nat) (w : HeldWrite) (s : State) (k : Nat) : State :=
  if k = e ∨ k ∈ now then s.setDie k ((s.die k).apply w) else s.setDie k { (s.die k) with held := (s.die k).held ++ [w] }

theorem State.die_takeWrite (e : Nat) (now : List Nat) (w : HeldWrite) (s : State) (k j : Nat) :
    (s.takeWrite e now w k).die j = if j = k then (s.die k).tookWrite e now w k else s.die j := by
  unfold State.takeWrite Die.tookWrite
  split <;> exact State.die_setDie _ _ _ _

theorem State.die_foldl_takeWrite (e : Nat) (now : List Nat) (w : HeldWrite) (s : State) (j : Nat) :
    ((List.range 8).foldl (State.takeWrite e now w) s).die j = if j < 8 then (s.die j).tookWrite e now w j else s.die j := by
  split
  · next hj =>
    refine foldl_see_own (see := fun z : State => z.die j) (own := fun d => d.tookWrite e now w j) List.nodup_range
      (List.mem_range.2 hj) (fun z => ?_) (fun z k _ hk => ?_) s
    · exact (z.die_takeWrite e now w j j).trans (if_pos rfl)
    · exact (z.die_takeWrite e now w k j).trans (if_neg (Ne.symm hk))
  · next hj =>
    refine foldl_see_none (see := fun z : State => z.die j) (fun z k hk => ?_) s
    have := List.mem_range.1 hk
    exact (z.die_takeWrite e now w k j).trans (if_neg (by omega))

/-- A write of HBM by die e: which groups, scratchpads and bytes of memory stand after it. -/
theorem State.writeHbm_eq (hlt : e < 8) : ∃ u, s.writeHbm e now pa bs carry false = (u, s.writeStamp e carry) ∧
    u.groups = s.groups ∧ u.gangs = s.gangs ∧
    ∀ k, (u.die k).mem = if k = e ∨ (k < 8 ∧ k ∈ now)
      then ((s.die k).putBytes pa ⟨s.nextSeq + 1, s.writeStamp e carry, false, false⟩ bs).mem else (s.die k).mem := by
  let w : HeldWrite := .ofRun e (s.writeStamp e carry) (s.nextSeq + 1) pa bs
  refine ⟨(List.range 8).foldl (State.takeWrite e now w) { s with nextSeq := s.nextSeq + 1 }, rfl, ?_, ?_, fun k => ?_⟩
  · refine foldl_see_none (see := fun z : State => z.groups) (fun z k _ => ?_) _
    unfold State.takeWrite; split <;> rfl
  · refine foldl_see_none (see := fun z : State => z.gangs) (fun z k _ => ?_) _
    unfold State.takeWrite; split <;> rfl
  · rw [State.die_foldl_takeWrite]
    unfold Die.tookWrite
    by_cases htakes : k = e ∨ k ∈ now
    · rw [if_pos htakes]
      by_cases hk : k < 8
      · rw [if_pos hk, if_pos (by tauto)]; exact Die.mem_apply _ _ _ _ _ _
      · rw [if_neg hk, if_neg (by rintro (rfl | h) <;> omega)]; rfl
    · have hnot : ¬ (k = e ∨ (k < 8 ∧ k ∈ now)) := fun h => htakes (h.imp_right And.right)
      rw [if_neg htakes, if_neg hnot]
      split <;> rfl

end Write

/-! ## Reads of clean bytes -/

section Read

variable {s : State} {die home pa n : Nat}

theorem Die.read_clean (h : Clean s die pa n) : ((s.die die).read pa n).bytes = Sparse.getRange 0 (s.die die).mem pa n ∧
    ((s.die die).read pa n).status = 0 := by
  have hpoison : ((span pa n).any fun k => ((s.die die).mark k).poison) = false := by
    simpa [span] using fun k hk => (h k hk).1
  have hbad : ((span pa n).any fun k => ((s.die die).mark k).bad) = false := by
    simpa [span] using fun k hk => (h k hk).2
  simp [Die.read, hpoison, hbad]

theorem Die.num_read_clean (h : Clean s die pa n) : ((s.die die).read pa n).num = hbmAt s die pa n := by
  rw [Got.num, (Die.read_clean h).1]; rfl

/-- A read of HBM is served by the die or by the home (R282). -/
theorem State.readHbm_clean (hdie : Clean s die pa n) (hhome : Clean s home pa n) (carry : Stamp) (least : Nat → Nat) :
    ((s.readHbm die home carry pa n least).num = hbmAt s die pa n ∨ (s.readHbm die home carry pa n least).num = hbmAt s home pa n) ∧
    (s.readHbm die home carry pa n least).status = 0 := by
  unfold State.readHbm
  split
  · exact ⟨.inr (Die.num_read_clean hhome), (Die.read_clean hhome).2⟩
  · exact ⟨.inl (Die.num_read_clean hdie), (Die.read_clean hdie).2⟩

end Read

end Sys2Proof.Machine
end

section
/-!
PROOF. ENGINE_OPERATION_COMPLETE for a lane form with one lane in HBM (R203, R210, R211, R281, R282).
-/

namespace Sys2Proof.Machine

open Sys2Proof.Claims

/-! ## Results that land (R99, R127) -/

section Land

variable (g : Group) {k l q j : Nat}

theorem Group.land_v (k l x : Nat) : g.land (.v k, l, x) = ((g.writeV k l (BitVec.ofNat 32 x)).zeroTan [k] l).noteWrite (.v k) := rfl

theorem Group.readV_land (x : Nat) (hl : l < 32) (hj : j < 32) : (g.land (.v k, l, x)).readV q j =
    if q = k ∧ j = l then BitVec.ofNat 32 x else g.readV q j := by
  have hland : (g.land (.v k, l, x)).readV q j = (g.writeV k l (BitVec.ofNat 32 x)).readV q j := by
    refine Group.readV_congr ?_ q j
    rw [Group.land_v, Group.noteWrite_keep, Group.zeroTan_keep]
  rw [hland, Group.readV_writeV _ _ hl hj]

theorem Group.readT_land (x : Nat) (hk : k < 256) (hl : l < 32) (hq : q < 256) (hj : j < 32) (c : Nat) :
    (g.land (.v k, l, x)).readT q c j = if q = k ∧ j = l ∧ q < g.decl.n ∧ c < g.decl.d then 0 else g.readT q c j := by
  have hland : (g.land (.v k, l, x)).readT q c j = ((g.writeV k l (BitVec.ofNat 32 x)).zeroTan [k] l).readT q c j := by
    refine Group.readT_congr ?_ ?_ q c j <;> rw [Group.land_v, Group.noteWrite_keep]
  rw [hland, Group.readT_zeroTan _ (by simpa using hk) hl hj hq]
  simp only [List.mem_singleton]
  rfl

/-- The results of one lane of a type: the element in its registers, with +0 tangents. -/
theorem Group.land_resultOf {ty : Ty} {vd x : Nat} (hvd : vd + 1 < 256) (hl : l < 32) {r : Nat} (hr : r ∈ pairOf ty vd) :
    ((resultOf ty vd l x).foldl Group.land g).readV r l = wordIn ty vd r x ∧
    ∀ c, r < g.decl.n → c < g.decl.d → ((resultOf ty vd l x).foldl Group.land g).readT r c l = 0 := by
  by_cases hw : ty.width = 64
  · have hdecl := (g.land_ops (.v vd, l, x % 2 ^ 32)).2
    rw [pairOf, if_pos hw, List.mem_cons, List.mem_singleton] at hr
    rw [resultOf, if_pos hw, List.foldl_cons, List.foldl_cons, List.foldl_nil, wordIn, if_pos hw]
    constructor
    · rw [Group.readV_land _ _ hl hl, Group.readV_land _ _ hl hl]
      rcases hr with rfl | rfl
      · rw [if_neg (by omega), if_pos ⟨rfl, rfl⟩, if_pos rfl, Nat.div_one]
        exact BitVec.eq_of_toNat_eq (by simp)
      · rw [if_pos ⟨rfl, rfl⟩, if_neg (by omega)]
    · intro c hn hc
      rw [Group.readT_land _ _ hvd hl (by omega) hl, Group.readT_land _ _ (by omega) hl (by omega) hl, hdecl]
      rcases hr with rfl | rfl
      · rw [if_neg (by omega), if_pos ⟨rfl, rfl, hn, hc⟩]
      · rw [if_pos ⟨rfl, rfl, hn, hc⟩]
  · rw [pairOf, if_neg hw, List.mem_singleton] at hr
    subst hr
    rw [resultOf, if_neg hw, List.foldl_cons, List.foldl_nil]
    constructor
    · rw [Group.readV_land _ _ hl hl, if_pos ⟨rfl, rfl⟩, ← extend32_eq_wordIn ty r x hw r]
      exact BitVec.ofNat_toNat _ _
    · intro c hn hc
      rw [Group.readT_land _ _ (by omega) hl (by omega) hl, if_pos ⟨rfl, rfl, hn, hc⟩]

end Land

theorem delivered_completeOp {s : State} {gid : Nat} {o : Op} {ty : Ty} {vd l x : Nat} (hbar : o.bar = none)
    (hok : failing o.status = false) (hres : o.results = resultOf ty vd l x) (hvd : vd + 1 < 256) (hl : l < 32) :
    Delivered (s.completeOp gid o) gid ty vd l x := by
  obtain ⟨-, -, -, hdecl⟩ := State.group_completeOp s gid hbar hok
  intro r hr
  obtain ⟨hv, ht⟩ := (s.group gid).land_resultOf (x := x) hvd hl hr
  rw [State.readV_completeOp s gid hbar hok, hres]
  refine ⟨hv, fun _ hn d hd => ?_⟩
  rw [State.readT_completeOp s gid hbar hok, hres]
  rw [hdecl] at hn hd
  exact ht d hn hd

/-! ## The one lane of the operation -/

/-- The operation o of the group in state u, whose one lane has moved: its results are rs, and it has not failed. -/
structure LaneMoved (u : State) (gid : Nat) (o o' : Op) (rs : List (RegId × Nat × Nat)) : Prop where
  op : (u.group gid).op? o.id = some o'
  id : o'.id = o.id
  done : o'.done = false
  bar : o'.bar = none
  ok : failing o'.status = false
  results : o'.results = rs
  kind : ∃ form vd ty op ord crit, o'.kind = .lanes form vd ty op ord crit []

section Finish

variable {s u : State} {gid : Nat} {o o' : Op} {rs : List (RegId × Nat × Nat)}

/-- An operation with no lane left completes. -/
theorem LaneMoved.finish (h : LaneMoved u gid o o' rs) : u.finishOp gid o.id = u.completeOp gid o' := by
  obtain ⟨form, vd, ty, op, ord, crit, hkind⟩ := h.kind
  have hready : u.opReady ⟨gid, o.id⟩ o' = true := by rw [State.opReady, Op.remaining, hkind]; rfl
  have hland : u.landRays gid o' = u := by rw [State.landRays, hkind]
  simp only [State.finishOp, h.op, h.done, hready, hland, Bool.not_false, Bool.and_self, if_true]

end Finish

section OneLane

variable {s : State} {gid : Nat} {o : Op} {form : LaneForm} {vd : Nat} {ty : Ty} {op : Comb} {it : LaneItem} {pa home : Nat}

/-- Where no older operation of the class is in progress, none blocks. -/
theorem blocked_none {z : Op} {f : Op → List (Place × Nat)} (h : ∀ y ∈ (s.group gid).ops, y.cls = z.cls → y.id < z.id → y.done = true)
    (p : Place) (n : Nat) : (s.group gid).blocked f z p n = false := by
  have hnone : (s.group gid).olderOf z = [] := List.filter_eq_nil_iff.2 fun y hy => by
    simp only [Bool.and_eq_true, beq_iff_eq, decide_eq_true_eq, Bool.not_eq_true', not_and, Bool.not_eq_false, and_imp]
    exact h y hy
  rw [Group.blocked, hnone]; rfl

/-- The event moves the lane and completes the operation. -/
theorem exec_oneLane (h : InProgress s gid o) (hkind : o.kind = .lanes form vd ty op .plain false [it])
    (hplace : it.place = .phys pa) (hhbm : physKind pa = .hbm home)
    (hready : s.placeReady (gid / 4096) it.carry (.phys pa) ty.bytes ((s.group gid).least it.lane) = true)
    (hupdate : form.updates = true → s.updateOk (gid / 4096) it.carry (.phys pa) ty.bytes = true) :
    exec (.engineOperationComplete gid o.id) s = .next ((s.moveItem gid o form vd ty op it [] false
      fun l => .lanes form vd ty op .plain false l).finishOp gid o.id) := by
  obtain ⟨hop, hdone, hstatus, holder, hstands⟩ := id h
  have hprepare : s.prepare gid o.id = s := by simp only [State.prepare, hop, hdone, hkind]; rfl
  have hpick : [it][s.pick [it].length]? = some it := by rw [State.pick, List.length_singleton, Nat.mod_one]; rfl
  have hfirst : firstAt [it] (s.pick [it].length) = some it := by rw [firstAt, hpick]; simp
  have hgo : s.peerGo gid o it.place ty.bytes (it.asks form ty op []) = .go := by
    have hlost : o.loses (.phys pa) = false := by rw [Op.loses, hhbm]
    rw [hplace]
    simp only [State.peerGo, hlost, hhbm]; rfl
  have hblock : ((s.group gid).blocked opTouches o it.place ty.bytes || !s.placeReady (dieOf gid) it.carry it.place ty.bytes
      ((s.group gid).least it.lane) || (form.updates && !s.updateOk (dieOf gid) it.carry it.place ty.bytes)) = false := by
    rw [blocked_none holder, hplace, show dieOf gid = gid / 4096 from rfl, hready]
    cases hup : form.updates with
    | true => rw [hupdate hup]; rfl
    | false => rfl
  have hmove : s.moveOne gid o.id = s.moveItem gid o form vd ty op it [] false fun l => .lanes form vd ty op .plain false l := by
    simp only [State.moveOne, hop, hdone, hkind, State.moveLane, hfirst, hblock, List.erase_cons_head, hgo]
    rfl
  change Host.Outcome.next (if s.channelStands gid then s else s.runOp gid o.id) = _
  rw [hstands, State.runOp, hprepare, hop]
  simp only [Op.remaining, hkind, List.length_singleton, State.moveMany, hmove]
  rfl

end OneLane

/-! ## What each form leaves -/

section Forms

variable {s : State} {gid : Nat} {o : Op} {vd : Nat} {ty : Ty} {op : Comb} {it : LaneItem} {pa home : Nat}
  {re : List LaneItem → OpKind}

theorem State.work_noteRead (s : State) (gid obs : Nat) (carry : Stamp) (p : Place) (n : Nat) :
    (s.noteRead gid obs carry p n).work = s.work := by
  unfold State.noteRead
  split
  · split
    · dsimp only
      split
      · exact State.work_setGroup (by rfl)
      · rfl
    · rfl
  · rfl

theorem op?_of_work {t : State} (h : t.work = s.work) (k id : Nat) : (t.group k).op? id = (s.group k).op? id := by
  rw [Group.op?, (Group.of_work (State.group_of_work h k)).1]; rfl

/-- The operation once its lane has moved: what is left of it, its results, its status and its stamps. -/
def Op.laneEnd (o : Op) (pa n : Nat) (kind : OpKind) (rs : List (RegId × Nat × Nat)) (st l : Nat) (σ : Stamp) : Op :=
  ({ o.used (.phys pa) n with kind := kind, results := o.results ++ rs }.raise st).stampLane l σ

/-- An operation put back as it is once its one lane has moved. -/
theorem laneMoved_setOp {u : State} {rs : List (RegId × Nat × Nat)} {n l : Nat} {σ : Stamp} {kind : OpKind}
    (hop : (u.group gid).op? o.id = some o) (hdone : o.done = false) (hstatus : o.status = 0) (hbar : o.bar = none)
    (hres : o.results = []) (hkind : ∃ form vd ty op ord crit, kind = .lanes form vd ty op ord crit []) :
    LaneMoved (u.setOp gid (o.laneEnd pa n kind rs 0 l σ)) gid o (o.laneEnd pa n kind rs 0 l σ) rs where
  op := by
    rw [State.setOp, State.group_setGroup_self]
    exact Group.op?_setOp (x := o.laneEnd pa n kind rs 0 l σ) hop
  id := rfl
  done := hdone
  bar := hbar
  ok := by
    change failing (o.status ||| BitVec.ofNat 32 0) = false
    rw [hstatus]; decide
  results := by
    change o.results ++ rs = rs
    rw [hres, List.nil_append]
  kind := hkind

theorem LaneMoved.noteWrote {u : State} {o' : Op} {rs : List (RegId × Nat × Nat)} (h : LaneMoved u gid o o' rs) (σ : Stamp) :
    LaneMoved (u.setGroup gid ((u.group gid).noteWrote σ)) gid o o' rs :=
  { h with op := by rw [State.group_setGroup_self]; exact h.op }

/-- A load (R210): what is read comes from the die or from the home. -/
theorem moveItem_load (h : InProgress s gid o) (hplace : it.place = .phys pa) (hhbm : physKind pa = .hbm home) (hbar : o.bar = none)
    (hres : o.results = []) (hhome : Clean s home pa ty.bytes) (hdie : Clean s (gid / 4096) pa ty.bytes)
    (hre : ∃ form vd ty op ord crit, re [] = .lanes form vd ty op ord crit []) :
    ∃ x o', (x = hbmAt s (gid / 4096) pa ty.bytes ∨ x = hbmAt s home pa ty.bytes) ∧
      LaneMoved (s.moveItem gid o .load vd ty op it [] false re) gid o o' (resultOf ty vd it.lane x) ∧
      ∀ k, ((s.moveItem gid o .load vd ty op it [] false re).die k).mem = (s.die k).mem := by
  obtain ⟨hop, hdone, hstatus, -, -⟩ := h
  have hread : s.readFor (dieOf gid) o it.carry it.place ty.bytes ((s.group gid).least it.lane) =
      s.readHbm (gid / 4096) home it.carry pa ty.bytes ((s.group gid).least it.lane) := by
    rw [hplace]
    simp only [State.readFor, State.readPlace, State.readPhys, hhbm]; rfl
  obtain ⟨hnum, hok⟩ := State.readHbm_clean hdie hhome it.carry ((s.group gid).least it.lane)
  have hnoted := s.work_noteRead gid it.lane it.carry it.place ty.bytes
  have hmove : s.moveItem gid o .load vd ty op it [] false re = (s.noteRead gid it.lane it.carry it.place ty.bytes).setOp gid
      (o.laneEnd pa ty.bytes (re []) (resultOf ty vd it.lane
        (s.readHbm (gid / 4096) home it.carry pa ty.bytes ((s.group gid).least it.lane)).num) 0 it.lane
        (s.readHbm (gid / 4096) home it.carry pa ty.bytes ((s.group gid).least it.lane)).stamp) := by
    simp only [State.moveItem, hread, hok]
    rw [hplace]
    rfl
  rw [hmove]
  refine ⟨_, _, hnum, laneMoved_setOp ?_ hdone hstatus hbar hres hre, fun k => ?_⟩
  · rw [op?_of_work hnoted, hop]
  · exact State.mem_of_work hnoted k

/-- The bytes of a die after a write of all of them. -/
theorem hbmAt_of_putBytes {t : State} {d : Die} {k n : Nat} {m : Mark} {bs : List Byte} (hmem : (t.die k).mem = (d.putBytes pa m bs).mem)
    (hseq : ∀ a, (d.mark a).seq ≤ m.seq) (hlen : bs.length = n) : hbmAt t k pa n = ofBytes bs := by
  subst hlen
  rw [hbmAt, hmem, getRange_eq fun i hi => Die.putBytes_in (fun a _ _ => hseq a) hi]

/-- A store (R210, R281): the element stands on the die of the group. -/
theorem moveItem_store (h : InProgress s gid o) (hplace : it.place = .phys pa) (hhbm : physKind pa = .hbm home) (hbar : o.bar = none)
    (hres : o.results = []) (hgid : gid < 32768) (hnum : Numbered s)
    (hre : ∃ form vd ty op ord crit, re [] = .lanes form vd ty op ord crit []) :
    ∃ o', LaneMoved (s.moveItem gid o .store vd ty op it [] false re) gid o o' [] ∧
      hbmAt (s.moveItem gid o .store vd ty op it [] false re) (gid / 4096) pa ty.bytes = it.data % 2 ^ (8 * ty.bytes) ∧
      ∀ a, ¬ (pa ≤ a ∧ a < pa + ty.bytes) → Sparse.get 0
        ((s.moveItem gid o .store vd ty op it [] false re).die (gid / 4096)).mem a = Sparse.get 0 (s.die (gid / 4096)).mem a := by
  obtain ⟨hop, hdone, hstatus, -, -⟩ := h
  obtain ⟨u, hu, hgroups, -, hmem⟩ := s.writeHbm_eq (e := gid / 4096) [] pa (bytesOf ty.bytes it.data) it.carry (by omega)
  have hwrite : s.writeFor (dieOf gid) o it.carry it.place (bytesOf ty.bytes it.data) false =
      (u, s.writeStamp (gid / 4096) it.carry, 0) := by
    rw [hplace]
    simp only [State.writeFor, State.writePlace, State.writePhys, hhbm]
    rw [show dieOf gid = gid / 4096 from rfl, hu]
  have hmoved := laneMoved_setOp (u := u) (gid := gid) (o := o) (pa := pa) (rs := []) (n := ty.bytes) (l := it.lane)
    (σ := s.writeStamp (gid / 4096) it.carry) (by rw [State.group, hgroups]; exact hop) hdone hstatus hbar hres hre
  have hmove : s.moveItem gid o .store vd ty op it [] false re =
      (u.setOp gid (o.laneEnd pa ty.bytes (re []) [] 0 it.lane (s.writeStamp (gid / 4096) it.carry))).setGroup gid
        (((u.setOp gid (o.laneEnd pa ty.bytes (re []) [] 0 it.lane (s.writeStamp (gid / 4096) it.carry))).group gid).noteWrote
          (s.writeStamp (gid / 4096) it.carry)) := by
    simp only [State.moveItem, hwrite]
    rw [hplace, Op.laneEnd, List.append_nil]
    rfl
  have hown := hmem (gid / 4096)
  rw [if_pos (.inl rfl)] at hown
  rw [hmove]
  refine ⟨_, hmoved.noteWrote _, ?_, fun a ha => ?_⟩
  · refine (hbmAt_of_putBytes hown (fun a => Nat.le_succ_of_le (hnum.1 _ _)) (length_bytesOf _ _)).trans (ofBytes_bytesOf _ _)
  · refine (congrArg (fun m => Sparse.get 0 m a) hown).trans ?_
    exact (Die.putBytes_out _ _ _ _ (by rw [length_bytesOf]; omega)).1

/-- An indivisible update at the home (R211): what it makes of the element stands there and on the die of the group. -/
theorem updateFor_hbm {f : List Byte → List Byte} (hplace : it.place = .phys pa) (hhbm : physKind pa = .hbm home)
    (hgid : gid < 32768) (hhome : Clean s home pa ty.bytes) : ∃ u old σ,
      s.updateFor (dieOf gid) o it.carry it.place ty.bytes f = (u, old, σ) ∧ old.num = hbmAt s home pa ty.bytes ∧ old.status = 0 ∧
      u.groups = s.groups ∧ ∀ k, (u.die k).mem = if k = gid / 4096 ∨ k = home
        then ((s.die k).putBytes pa ⟨s.nextSeq + 1, σ, false, false⟩ (f old.bytes)).mem else (s.die k).mem := by
  have hlt : home < 8 := by
    unfold physKind at hhbm
    split at hhbm
    · next h => cases hhbm; exact h.1
    · split at hhbm
      · cases hhbm
      · split at hhbm <;> cases hhbm
  obtain ⟨hbytes, hok⟩ := Die.read_clean hhome
  obtain ⟨u, hu, hgroups, -, hmem⟩ := s.writeHbm_eq (e := gid / 4096) [home] pa (f ((s.die home).read pa ty.bytes).bytes) it.carry
    (by omega)
  refine ⟨u, (s.die home).read pa ty.bytes, s.writeStamp (gid / 4096) it.carry, ?_, Die.num_read_clean hhome, hok, hgroups,
    fun k => ?_⟩
  · rw [hplace]
    simp only [State.updateFor, State.updatePlace, State.updatePhys, hhbm, hok]
    rw [show dieOf gid = gid / 4096 from rfl]
    simp [hu]
  · rw [hmem k]
    simp only [List.mem_singleton]
    by_cases hk : k = home
    · simp [hk, hlt]
    · simp [hk]

/-- RED and AMG (R211): what is combined stands at the home and on the die of the group; AMG has what it replaced. -/
theorem moveItem_update {form : LaneForm} (hform : form = .red ∨ form = .amg) (h : InProgress s gid o) (hplace : it.place = .phys pa)
    (hhbm : physKind pa = .hbm home) (hbar : o.bar = none) (hres : o.results = []) (hgid : gid < 32768)
    (hhome : Clean s home pa ty.bytes) (hre : ∃ form vd ty op ord crit, re [] = .lanes form vd ty op ord crit []) :
    let t := s.moveItem gid o form vd ty op it [] false re
    ∃ o' σ, LaneMoved t gid o o' (if form = .amg then resultOf ty vd it.lane (hbmAt s home pa ty.bytes) else []) ∧
      ∀ k, (t.die k).mem = if k = gid / 4096 ∨ k = home
        then ((s.die k).putBytes pa ⟨s.nextSeq + 1, σ, false, false⟩
          (bytesOf ty.bytes (combine op ty (hbmAt s home pa ty.bytes) it.data))).mem else (s.die k).mem := by
  obtain ⟨hop, hdone, hstatus, -, -⟩ := h
  obtain ⟨u, old, σ, hu, hnum, hok, hgroups, hmem⟩ := updateFor_hbm (s := s) (o := o) (gid := gid)
    (f := fun b => bytesOf ty.bytes (combine op ty (ofBytes b) it.data)) hplace hhbm hgid hhome
  have hold : ofBytes old.bytes = hbmAt s home pa ty.bytes := hnum
  rw [hold] at hmem
  have hopu : (u.group gid).op? o.id = some o := by rw [State.group, hgroups]; exact hop
  let τ := Stamp.max old.stamp σ
  let left := fun rs => o.laneEnd pa ty.bytes (re []) rs 0 it.lane τ
  have hmoved := fun rs => laneMoved_setOp (u := u) (gid := gid) (pa := pa) (n := ty.bytes) (l := it.lane) (σ := τ) (rs := rs)
    hopu hdone hstatus hbar hres hre
  have hstate : ∀ rs, rs = (if form = .amg then resultOf ty vd it.lane (hbmAt s home pa ty.bytes) else []) →
      s.moveItem gid o form vd ty op it [] false re =
        (u.setOp gid (left rs)).setGroup gid (((u.setOp gid (left rs)).group gid).noteWrote σ) := by
    rintro rs rfl
    rcases hform with rfl | rfl
    · simp only [State.moveItem, List.filter_nil, List.foldl_nil, hu, hok]
      rw [hplace, if_neg (by decide)]
      simp only [left, Op.laneEnd, List.append_nil]
      rfl
    · simp only [State.moveItem, hu, hok, hnum]
      rw [hplace]
      rfl
  intro t
  rw [show t = _ from hstate _ rfl]
  exact ⟨_, σ, (hmoved _).noteWrote σ, hmem⟩

end Forms

theorem enginesMoveLanes : Claims.EnginesMoveLanes := by
  intro s gid o form vd ty op it pa home die n old combined hprog hkind hplace hbar hres _ hlane hgid hvd hnum hhbm hready hhome hdie
  let re : List LaneItem → OpKind := fun l => .lanes form vd ty op .plain false l
  have hre : ∃ form vd ty op ord crit, re [] = .lanes form vd ty op ord crit [] := ⟨_, _, _, _, _, _, rfl⟩
  obtain ⟨t, ht⟩ : ∃ t, exec (.engineOperationComplete gid o.id) s = .next t := ⟨_, rfl⟩
  have hends : ∀ {o' : Op} {rs : List (RegId × Nat × Nat)}, LaneMoved (s.moveItem gid o form vd ty op it [] false re) gid o o' rs →
      (form.updates = true → s.updateOk (gid / 4096) it.carry (.phys pa) ty.bytes = true) →
      Over t gid o.id ∧
      (∀ k, (t.die k).mem = ((s.moveItem gid o form vd ty op it [] false re).die k).mem) ∧
      ∀ x, rs = resultOf ty vd it.lane x → Delivered t gid ty vd it.lane x := by
    intro o' rs h hup
    have hend : t = (s.moveItem gid o form vd ty op it [] false re).completeOp gid o' := Host.Outcome.next.inj
      (ht.symm.trans ((exec_oneLane hprog hkind hplace hhbm hready hup).trans (congrArg _ h.finish)))
    refine ⟨?_, fun k => ?_, fun x hx => ?_⟩
    · rw [hend, ← h.id]; exact over_completeOp _ gid h.bar h.ok
    · rw [hend, State.mem_completeOp _ gid h.bar h.ok]
    · rw [hend]; exact delivered_completeOp h.bar h.ok (h.results.trans hx) hvd hlane
  refine ⟨t, ht, fun hform => ?load, fun hform => ?store, fun hform hhr hat _ => ?update⟩
  case load =>
    subst hform
    obtain ⟨x, o', hx, hmoved, hmem⟩ := moveItem_load (vd := vd) (ty := ty) (op := op) (re := re) hprog hplace hhbm hbar hres hhome hdie hre
    obtain ⟨hover, hkeep, hgot⟩ := hends hmoved fun h => absurd h (by decide)
    exact ⟨hover, fun k => (hkeep k).trans (hmem k), x, hx, hgot x rfl⟩
  case store =>
    subst hform
    obtain ⟨o', hmoved, hin, hout⟩ := moveItem_store (vd := vd) (ty := ty) (op := op) (re := re) hprog hplace hhbm hbar hres hgid hnum hre
    obtain ⟨hover, hkeep, -⟩ := hends hmoved fun h => absurd h (by decide)
    refine ⟨hover, ?_, fun a ha => ?_⟩
    · rw [hbmAt, hkeep]; exact hin
    · rw [hkeep]; exact hout a ha
  case update =>
    have hup : s.updateOk (gid / 4096) it.carry (.phys pa) ty.bytes = true := by
      rw [State.placeReady, hhbm, Bool.and_eq_true] at hready
      rw [State.updateOk, State.updateReady, hhbm, Bool.and_eq_true]
      exact ⟨hready.1, hhr⟩
    obtain ⟨o', σ, hmoved, hmem⟩ := moveItem_update (vd := vd) (op := op) (re := re) hform hprog hplace hhbm hbar hres hgid hhome hre
    obtain ⟨hover, hkeep, hgot⟩ := hends hmoved fun _ => hup
    have hcombined : combine op ty old it.data = combined := combine_eq_combined hat op old it.data
    have hin : ∀ k, k = die ∨ k = home → hbmAt t k pa n = combined % 2 ^ (8 * n) := by
      intro k hk
      have htook := (hkeep k).trans ((hmem k).trans (if_pos hk))
      rw [← hcombined, hbmAt_of_putBytes htook (fun a => Nat.le_succ_of_le (hnum.1 _ _)) (length_bytesOf _ _), ofBytes_bytesOf]
    refine ⟨hover, hin home (.inr rfl), hin die (.inl rfl), fun hamg => hgot old (if_pos hamg), fun k a ha => ?_⟩
    rw [hkeep, hmem]
    split
    · exact (Die.putBytes_out _ _ _ _ (by rw [length_bytesOf]; omega)).1
    · rfl

end Sys2Proof.Machine
end

section
/-!
PROOF. Rays (R383, R387): RAY_ADMIT, RAY_COMPLETE, and the end of an operation whose rays have all ended.
-/

namespace Sys2Proof.Machine

open Sys2Proof.Claims

section Rays

variable {s : State} {gid lane vd d : Nat} {vis : Bool} {win : Window} {o : Op} {rays : List Ray} {r : Ray}

/-- An operation of the group is put back, and nothing else has changed. -/
theorem becomes_setOp {x : Op} {kind : OpKind} (hop : (s.group gid).op? o.id = some o) (hid : x.id = o.id) (hkind : x.kind = kind)
    (hdone : x.done = false) : OnlyGroupOf s (s.setOp gid x) gid ∧
      ∃ o', ((s.setOp gid x).group gid).op? o.id = some o' ∧ o'.kind = kind ∧ o'.done = false := by
  refine ⟨⟨rfl, fun k hk => (State.group_setGroup _ _ _ _).trans (if_neg hk)⟩, x, ?_, hkind, hdone⟩
  rw [State.setOp, State.group_setGroup_self, ← hid]
  exact Group.op?_setOp (o := o) (by rw [hid]; exact hop)

/-- The first ray of the lane without a result is that of the lane. -/
theorem find_ray (hmem : r ∈ rays) (hlane : r.lane = lane) (hres : r.result = none) (hone : ∀ x ∈ rays, x.lane = lane → x = r) :
    (rays.find? fun x => decide (x.lane = lane) && x.result.isNone) = some r := by
  cases hfind : rays.find? fun x => decide (x.lane = lane) && x.result.isNone with
  | none => simpa [hlane, hres] using List.find?_eq_none.1 hfind r hmem
  | some x =>
    have hx := List.find?_some hfind
    rw [Bool.and_eq_true, decide_eq_true_eq] at hx
    rw [hone x (List.mem_of_find?_eq_some hfind) hx.1]

theorem not_refused (h : vis = true ∨ rayRefused r.args = none) : (if vis then none else rayRefused r.args) = none := by
  rcases h with rfl | h
  · rfl
  · rw [h, ite_self]

/-! ## RAY_ADMIT -/

theorem exec_rayAdmit (h : InProgress s gid o) (hkind : o.kind = .ray vis vd d win rays) :
    exec (.rayAdmit gid o.id lane) s = .next (
      if s.firstQueued (gid / 1024) (s.group gid).ctx o.id lane = true ∧
          s.stacksHeld (gid / 1024) (s.group gid).ctx < Sparse.get 0 (s.quarter (gid / 1024)).quota (s.group gid).ctx ∧
          s.stacksTaken (gid / 1024) < 256 ∧
          (rays.any fun x => decide (x.lane = lane) && !x.admitted && x.result.isNone && !x.refused vis) = true then
        s.setOp gid { o with kind := .ray vis vd d win (setRay lane (fun x => { x with admitted := true }) rays) }
      else s) := by
  obtain ⟨hop, hdone, -, -, hstands⟩ := h
  change execRayAdmit gid o.id lane s = _
  simp only [execRayAdmit, hop, hkind, hdone, hstands, show quarterOf gid = gid / 1024 from rfl, Bool.not_false, Bool.true_and,
    Bool.and_true, Bool.and_eq_true, decide_eq_true_eq, and_assoc]

/-! ## RAY_COMPLETE -/

/-- The end of the ray of a lane, by whether R383 refuses it and what its traversal finds. -/
theorem exec_rayComplete (h : InProgress s gid o) (hkind : o.kind = .ray vis vd d win rays)
    (hfind : (rays.find? fun x => decide (x.lane = lane) && x.result.isNone) = some r) :
    exec (.rayComplete gid o.id lane) s = .next (match (if vis then none else rayRefused r.args) with
      | some st => s.endRay gid o vis vd d win rays lane ⟨missWords vis st, [], 0⟩
      | none => if r.admitted && s.ready (gid / 4096) ((s.group gid).carryRead o r.carry) then
          match (if vis then s.castSample ⟨gid, o.sup, win, (s.group gid).carryRead o r.carry, o⟩ d r.args
              else s.castRay ⟨gid, o.sup, win, (s.group gid).carryRead o r.carry, o⟩ d r.args) with
            | some x => match asksOf x.status with
              | some pa => s.askFetch gid o ((s.group gid).carryRead o r.carry) pa
              | none => s.endRay gid o vis vd d win rays lane x
            | none => s
          else s) := by
  obtain ⟨hop, hdone, -, -, hstands⟩ := h
  change execRayComplete gid o.id lane s = _
  simp only [execRayComplete, hop, hkind, hfind, hdone, hstands, Bool.false_eq_true, if_false, Bool.not_false, Bool.and_true]
  rfl

theorem becomes_endRay (h : InProgress s gid o) (x : RayEnd) : OnlyGroupOf s (s.endRay gid o vis vd d win rays lane x) gid ∧
    ∃ o', ((s.endRay gid o vis vd d win rays lane x).group gid).op? o.id = some o' ∧
      o'.kind = .ray vis vd d win (rays.map fun y => if y.lane = lane then { y with result := some x.words } else y) ∧ o'.done = false := by
  obtain ⟨hop, hdone, -⟩ := h
  exact becomes_setOp hop rfl rfl hdone

/-! ## The end of the operation -/

/-- The results of a ray that has ended: its words, in registers from vd + n on. -/
def wordResults (vd l : Nat) (ws : List Nat) (n : Nat) : List (RegId × Nat × Nat) :=
  (ws.zipIdx n).map fun p => (RegId.v (vd + p.2), l, p.1)

theorem readV_wordResults {vd l : Nat} (ws : List Nat) (hl : l < 32) (q n : Nat) (g : Group) :
    ((wordResults vd l ws n).foldl Group.land g).readV q l =
      if vd + n ≤ q ∧ q < vd + n + ws.length then BitVec.ofNat 32 (ws.getD (q - (vd + n)) 0) else g.readV q l := by
  induction ws generalizing g n with
  | nil => rw [if_neg (by simp)]; rfl
  | cons w ws ih =>
    have hcons : (wordResults vd l (w :: ws) n).foldl Group.land g =
        (wordResults vd l ws (n + 1)).foldl Group.land (g.land (.v (vd + n), l, w)) := rfl
    have hfirst : (g.land (.v (vd + n), l, w)).readV q l = if q = vd + n then BitVec.ofNat 32 w else g.readV q l := by
      rw [Group.readV_land _ _ hl hl]; simp
    rw [hcons, ih, hfirst, List.length_cons]
    by_cases hq : q = vd + n
    · rw [if_neg (by omega), if_pos hq, if_pos (by omega), hq, Nat.sub_self]; rfl
    · rw [if_neg hq]
      by_cases hlater : vd + (n + 1) ≤ q ∧ q < vd + (n + 1) + ws.length
      · rw [if_pos hlater, if_pos (by omega), show q - (vd + n) = q - (vd + (n + 1)) + 1 by omega]; rfl
      · rw [if_neg hlater, if_neg (by omega)]

/-- A landing of an operation that has not failed and has no barrier counts bytes. -/
theorem landed_counts {u : State} {x : Op} {n : Nat} (hok : failing x.status = false) (hn : n ≠ 0) (hbar : x.bar = none) (σ : Stamp) :
    u.landed gid x n σ = u.setOp gid { x with counted := x.counted + n } := by
  have hcounts : ¬ (failing x.status ∨ n = 0) := by simp [hok, hn]
  rw [State.landed, if_neg hcounts]
  dsimp only
  rw [hbar]

/-- An operation of one ray that has ended, and landed its words. -/
def Op.withWords (o : Op) (vd l : Nat) (ws : List Nat) : Op :=
  { o with results := wordResults vd l ws 0, counted := o.counted + 20 }

theorem State.landRays_ray (u : State) (hkind : o.kind = .ray vis vd d win rays) : u.landRays gid o =
    u.landed gid { o with results := rays.flatMap fun x => wordResults vd x.lane (x.result.getD []) 0 } (20 * rays.length) o.stamp := by
  cases o
  cases hkind
  rfl

/-- The operation of one ray that has ended completes (R387). -/
theorem exec_rayEnded {u : State} {o' : Op} {words : List Nat} (hop : (u.group gid).op? o'.id = some o') (hdone : o'.done = false)
    (hok : failing o'.status = false) (hstands : u.channelStands gid = false) (hbar : o'.bar = none) (hwrites : o'.writes = [])
    (hkind : o'.kind = .ray vis vd d win [{ r with result := some words }]) :
    exec (.engineOperationComplete gid o'.id) u = .next ((u.setOp gid (o'.withWords vd r.lane words)).completeOp gid
      (o'.withWords vd r.lane words)) := by
  have hleft : o'.remaining = 0 := by simp only [Op.remaining, hkind, hwrites]; rfl
  have hprepare : u.prepare gid o'.id = u := by simp only [State.prepare, hop, hdone, hkind]; rfl
  have hready : u.opReady ⟨gid, o'.id⟩ o' = true := by rw [State.opReady, hleft, hkind]; rfl
  have hland : u.landRays gid o' = u.setOp gid (o'.withWords vd r.lane words) := by
    rw [State.landRays_ray u hkind, List.flatMap_singleton]
    exact landed_counts (x := { o' with results := wordResults vd r.lane words 0 }) hok (Nat.succ_ne_zero 19) hbar _
  have hopened : ((u.setOp gid (o'.withWords vd r.lane words)).group gid).op? o'.id = some (o'.withWords vd r.lane words) := by
    rw [State.setOp, State.group_setGroup_self]
    exact Group.op?_setOp (x := o'.withWords vd r.lane words) hop
  change Host.Outcome.next (if u.channelStands gid then u else u.runOp gid o'.id) = _
  rw [hstands, State.runOp, hprepare, hop]
  simp only [hleft, State.moveMany, State.finishOp, hop, hdone, hready, hland, hopened, Bool.not_false, Bool.and_self, if_true]
  rfl

theorem raysRun : Claims.RaysRun := by
  intro s gid lane vd d vis win o rays r q ctx taken rays' becomes hprog hkind hmem hlane hres hone
  have hfind := find_ray hmem hlane hres hone
  refine ⟨fun hadm href hfirst => ⟨fun hquota htaken => ?_, fun hfull => ?_⟩, fun st hvis href => ?_, fun x hadm href hcast hasks => ?_,
    fun hadm href => ?_, fun words hbar hlen hvd hlane32 hresults hwrites hrays o' ho' => ?_⟩
  · have hany : (rays.any fun x => decide (x.lane = lane) && !x.admitted && x.result.isNone && !x.refused vis) = true := by
      refine List.any_eq_true.2 ⟨r, hmem, ?_⟩
      have hnot : r.refused vis = false := by
        rcases href with rfl | href
        · rfl
        · simp [Ray.refused, href]
      simp [hlane, hadm, hres, hnot]
    refine ⟨_, (exec_rayAdmit hprog hkind).trans (congrArg _ (if_pos ⟨hfirst, hquota, htaken, hany⟩)), ?_⟩
    obtain ⟨hop, hdone, -⟩ := hprog
    exact becomes_setOp hop rfl rfl hdone
  · refine (exec_rayAdmit hprog hkind).trans (congrArg _ (if_neg ?_))
    rintro ⟨-, hquota, htaken, -⟩
    exact hfull.elim (fun h => absurd hquota (Nat.not_lt.2 h)) fun h => absurd htaken (Nat.not_lt.2 h)
  · subst hvis
    refine ⟨_, ?_, becomes_endRay hprog ⟨missWords false st, [], 0⟩⟩
    rw [exec_rayComplete hprog hkind hfind]
    simp only [href]
    rfl
  · obtain ⟨hready, hcast⟩ := hcast
    refine ⟨_, ?_, becomes_endRay hprog x⟩
    rw [exec_rayComplete hprog hkind hfind, not_refused href, hadm, hready, hcast]
    simp only [hasks]
    rfl
  · rw [exec_rayComplete hprog hkind hfind, not_refused href, hadm]
    rfl
  · obtain ⟨hop, hdone, hstatus, -, hstands⟩ := hprog
    have hid : o'.id = o.id := by rw [ho']
    have hput : ((s.setOp gid o').group gid).op? o'.id = some o' := by
      rw [State.setOp, State.group_setGroup_self]
      exact Group.op?_setOp (o := o) (by rw [hid]; exact hop)
    have hok : failing o'.status = false := by rw [ho', hstatus]; decide
    have hbar' : o'.bar = none := by rw [ho', hbar]
    have hexec := exec_rayEnded (r := r) (words := words) hput (by rw [ho', hdone]) hok hstands hbar' (by rw [ho', hwrites])
      (by rw [ho'])
    have hover := over_completeOp ((s.setOp gid o').setOp gid (o'.withWords vd r.lane words)) gid
      (o := o'.withWords vd r.lane words) hbar' hok
    rw [hid] at hexec
    refine ⟨_, hexec, fun x hx => hover x (by rw [show (o'.withWords vd r.lane words).id = o.id from hid]; exact hx), fun k hk => ?_⟩
    rw [State.readV_completeOp _ gid (o := o'.withWords vd r.lane words) hbar' hok]
    rw [← hlane]
    refine (readV_wordResults words (hlane ▸ hlane32) (vd + k) 0 _).trans ?_
    rw [if_pos (by omega), show vd + k - (vd + 0) = k by omega]

end Rays

end Sys2Proof.Machine
end

section
/-!
PROOF. A copy within a scratchpad (R207, R208): it begins by reading all of its sources, and its writes are then performed one after
another, in whatever order (log 62), until none is left and the operation completes.
-/

namespace Sys2Proof.Machine

open Sys2Proof.Claims

/-! ## One write -/

/-- The write of bytes into a scratchpad, as an operation has it prepared. -/
def spadPending (k : Nat) (ty : Ty) (w : Nat × List Byte) : Pending := ⟨.spad k w.1, w.2, false, [], ty⟩

theorem spadPending_injective (k : Nat) (ty : Ty) : Function.Injective (spadPending k ty) := by
  rintro ⟨a, bs⟩ ⟨b, cs⟩ h
  simpa [spadPending] using h

/-- In state u the copy o of the group has begun, its writes `done` have been performed, and `left` are still to be. -/
structure Copying (s u : State) (gid k : Nat) (ty : Ty) (o : Op) (done left : List (Nat × List Byte)) : Prop where
  op : ∃ o', (u.group gid).op? o.id = some o' ∧ o'.id = o.id ∧ o'.cls = o.cls ∧ o'.kind = o.kind ∧ o'.begun = true ∧
    o'.done = false ∧ o'.bar = none ∧ o'.status = 0 ∧ o'.writes = left.map (spadPending k ty)
  older : ∀ x ∈ (u.group gid).ops, x.cls = o.cls → x.id < o.id → x.done = true
  dies : u.dies = s.dies
  gang : u.gang k = (s.gang k).putAll done
  others : ∀ j, j ≠ k → u.gang j = s.gang j

section Moves

variable {s u : State} {gid k : Nat} {ty : Ty} {o x : Op} {work : CopyWork} {done left : List (Nat × List Byte)}

/-- An operation that is put back is not older than itself. -/
theorem older_setOp (h : ∀ y ∈ (u.group gid).ops, y.cls = o.cls → y.id < o.id → y.done = true) (hid : x.id = o.id) :
    ∀ y ∈ ((u.setOp gid x).group gid).ops, y.cls = o.cls → y.id < o.id → y.done = true := by
  intro y hy hcls hlt
  rw [State.setOp, State.group_setGroup_self] at hy
  obtain ⟨z, hz, rfl⟩ := List.mem_map.1 hy
  by_cases hzx : z.id = x.id
  · rw [if_pos hzx] at hlt
    exact absurd (hid ▸ hlt) (Nat.lt_irrefl _)
  · rw [if_neg hzx] at hcls hlt ⊢
    exact h z hz hcls hlt

/-- The operation after one of its writes. -/
def Op.wrote (x : Op) (p : Pending) : Op :=
  { { x with writes := x.writes.erase p, stamp := Stamp.max x.stamp [] }.raise 0 with counted := x.counted + p.bytes.length }

/-- The state after one write of a copy into a scratchpad. -/
def State.movedWrite (u : State) (gid k : Nat) (x : Op) (ty : Ty) (w : Nat × List Byte) : State :=
  let v := u.setGang k ((u.gang k).putSpad w.1 w.2)
  (v.setGroup gid ((v.group gid).noteWrote [])).setOp gid (x.wrote (spadPending k ty w))

theorem moveWrite_spad (hpower : u.hasPower gid x = true)
    (hold : ∀ y ∈ (u.group gid).ops, y.cls = x.cls → y.id < x.id → y.done = true) (hok : x.status = 0) (hbar : x.bar = none)
    (hwrites : x.writes = left.map (spadPending k ty)) (hsome : left ≠ []) (hbytes : ∀ w ∈ left, w.2 ≠ []) :
    ∃ w ∈ left, u.moveWrite gid x = u.movedWrite gid k x ty w := by
  have hlen : x.writes.length = left.length := by rw [hwrites, List.length_map]
  have hpos : 0 < x.writes.length := by rw [hlen]; exact List.length_pos_iff.2 hsome
  have hget : ∀ i, i < left.length → ∃ w ∈ left, x.writes[i]? = some (spadPending k ty w) := fun i hi =>
    ⟨left[i], List.getElem_mem hi, by rw [hwrites]; simp [hi]⟩
  obtain ⟨w, hw, hpick⟩ := hget (u.pick x.writes.length) (hlen ▸ Nat.mod_lt _ hpos)
  have hspots : (spadPending k ty w).spots = [(.spad k w.1, w.2.length)] := rfl
  have hheld : (!u.hasPower gid x || (spadPending k ty w).spots.any fun y => (u.group gid).blocked opTouches x y.1 y.2) = false := by
    rw [hspots, hpower, List.any_cons, blocked_none hold]; rfl
  have hready : u.pendingReady (dieOf gid) x.carry (spadPending k ty w) = true := by
    rw [State.pendingReady, hspots]; rfl
  have hgo : u.pendingGo gid x (spadPending k ty w) = .go := rfl
  have hdo : u.doPending (dieOf gid) x x.carry (spadPending k ty w) = (u.setGang k ((u.gang k).putSpad w.1 w.2), [], 0) := rfl
  have hsize : (spadPending k ty w).size ≠ 0 := fun h => hbytes w hw (List.eq_nil_of_length_eq_zero h)
  have hlanded := landed_counts (gid := gid) (u := (u.setGang k ((u.gang k).putSpad w.1 w.2)).setGroup gid
      (((u.setGang k ((u.gang k).putSpad w.1 w.2)).group gid).noteWrote []))
    (x := { x with writes := x.writes.erase (spadPending k ty w), stamp := Stamp.max x.stamp [] }.raise 0)
    (by
      change failing (x.status ||| BitVec.ofNat 32 0) = false
      rw [hok]; decide) hsize hbar []
  refine ⟨w, hw, ?_⟩
  simp only [State.moveWrite, hpick, hheld, hready, hgo, hdo, Bool.not_true, Bool.false_eq_true, if_false]
  exact hlanded

/-- A step of the copy performs one of the writes that are left. -/
theorem Copying.step (h : Copying s u gid k ty o done left) (hkind : o.kind = .copy work) (hpower : s.hasPower gid o = true)
    (hsome : left ≠ []) (hbytes : ∀ w ∈ left, w.2 ≠ []) :
    ∃ w ∈ left, Copying s (u.moveOne gid o.id) gid k ty o (done ++ [w]) (left.erase w) := by
  obtain ⟨x, hop, hid, hcls, hxkind, hbegun, hdone, hbar, hok, hwrites⟩ := h.op
  have hpow : u.hasPower gid x = true := by
    rw [State.hasPower, hxkind, hid, State.die, h.dies]; exact hpower
  obtain ⟨w, hw, hmove⟩ := moveWrite_spad hpow (by rw [hcls, hid]; exact h.older) hok hbar hwrites hsome hbytes
  have hone : u.moveOne gid o.id = u.movedWrite gid k x ty w := by
    simp only [State.moveOne, hop, hdone, hxkind.trans hkind, hbegun, hmove, Bool.false_eq_true, if_false, if_true]
  let v := u.setGang k ((u.gang k).putSpad w.1 w.2)
  let z := v.setGroup gid ((v.group gid).noteWrote [])
  have hgroup : z.group gid = (v.group gid).noteWrote [] := State.group_setGroup_self ..
  have hgangs : ∀ j, v.gang j = if j = k then (u.gang k).putSpad w.1 w.2 else u.gang j := fun j => Sparse.get_set _ _ _ _
  have hopz : (z.group gid).op? (x.wrote (spadPending k ty w)).id = some x := by
    rw [hgroup, show (x.wrote (spadPending k ty w)).id = o.id from hid]
    exact hop
  refine ⟨w, hw, ?_⟩
  rw [hone]
  refine ⟨⟨x.wrote (spadPending k ty w), ?_, hid, hcls, hxkind, hbegun, hdone, hbar, ?_, ?_⟩, ?_, h.dies, ?_, fun j hj => ?_⟩
  · rw [← hid]
    exact (congrArg (fun g : Group => g.op? x.id) (State.group_setGroup_self ..)).trans
      (Group.op?_setOp (x := x.wrote (spadPending k ty w)) hopz)
  · change x.status ||| BitVec.ofNat 32 0 = 0
    rw [hok]; decide
  · change x.writes.erase (spadPending k ty w) = _
    rw [hwrites, List.map_erase (spadPending_injective k ty)]
  · exact older_setOp (u := z) (by rw [hgroup]; exact h.older) hid
  · refine (hgangs k).trans ?_
    rw [if_pos rfl, h.gang, Gang.putAll_append]; rfl
  · refine (hgangs j).trans ?_
    rw [if_neg hj, h.others j hj]

/-- All of the writes that are left, in some order. -/
theorem Copying.steps (hkind : o.kind = .copy work) (hpower : s.hasPower gid o = true) (n : Nat) (hn : left.length = n)
    (hbytes : ∀ w ∈ left, w.2 ≠ []) (h : Copying s u gid k ty o done left) :
    ∃ ws, (done ++ left).Perm ws ∧ Copying s (u.moveMany gid o.id n) gid k ty o ws [] := by
  induction n generalizing u done left with
  | zero =>
    have hnil := List.eq_nil_of_length_eq_zero hn
    subst hnil
    exact ⟨done, by simp, h⟩
  | succ n ih =>
    have hsome : left ≠ [] := by rintro rfl; simp at hn
    obtain ⟨w, hw, hstep⟩ := h.step hkind hpower hsome hbytes
    obtain ⟨ws, hperm, hend⟩ := ih (by rw [List.length_erase_of_mem hw, hn]; rfl)
      (fun v hv => hbytes v (List.mem_of_mem_erase hv)) hstep
    refine ⟨ws, List.Perm.trans ?_ hperm, hend⟩
    rw [List.append_assoc]
    exact (List.perm_cons_erase hw).append_left done

/-- When no write is left the operation completes. -/
theorem Copying.finish (h : Copying s u gid k ty o done []) (hkind : o.kind = .copy work) :
    Over (u.finishOp gid o.id) gid o.id ∧ (u.finishOp gid o.id).gang k = (s.gang k).putAll done ∧
    (∀ j, j ≠ k → (u.finishOp gid o.id).gang j = s.gang j) ∧ ∀ d, ((u.finishOp gid o.id).die d).mem = (s.die d).mem := by
  obtain ⟨x, hop, hid, -, hxkind, hbegun, hdone, hbar, hok, hwrites⟩ := h.op
  have hcopy := hxkind.trans hkind
  have hfails : failing x.status = false := by rw [hok]; decide
  have hready : u.opReady ⟨gid, o.id⟩ x = true := by rw [State.opReady, Op.remaining, hcopy, hwrites, hbegun]; rfl
  have hland : u.landRays gid x = u := by rw [State.landRays, hcopy]
  have hfinish : u.finishOp gid o.id = u.completeOp gid x := by
    simp only [State.finishOp, hop, hdone, hready, hland, Bool.not_false, Bool.and_self, if_true]
  rw [hfinish]
  refine ⟨hid ▸ over_completeOp u gid hbar hfails, ?_, fun j hj => ?_, fun d => ?_⟩
  · rw [State.gang_completeOp u gid hbar hfails, h.gang]
  · rw [State.gang_completeOp u gid hbar hfails, h.others j hj]
  · rw [State.mem_completeOp u gid hbar hfails, State.die, h.dies]; rfl

end Moves

/-! ## The beginning -/

section Begin

variable {s : State} {gid k : Nat} {o : Op} {w : CopyWork}

/-- A copy within scratchpad k that moves elements of one type as they are. -/
structure PlainCopy (s : State) (k : Nat) (w : CopyWork) : Prop where
  src : w.src = .spad k
  dst : w.dst = .spad k
  skind : (copyDesc w.raw).skind = 0
  map : (copyDesc w.raw).map = false
  dual : (copyDesc w.raw).dual = false
  ty : (copyDesc w.raw).src = (copyDesc w.raw).dst
  errs : (s.gang k).errs = []

theorem PlainCopy.recs (h : PlainCopy s k w) : w.recs = [] := by rw [CopyWork.recs, h.map]; rfl

theorem PlainCopy.tangents (h : PlainCopy s k w) : w.tangents = 0 := by simp [CopyWork.tangents, h.dual]

theorem PlainCopy.reads (h : PlainCopy s k w) : ∀ t ∈ copyReads w, ∃ a, t.1 = .spad k a := by
  intro t ht
  rw [copyReads, CopyWork.slots, h.tangents, h.src] at ht
  simp only [h.skind, List.range_zero, List.map_nil] at ht
  have hnil : (List.flatMap (fun _ => ([] : List (Place × Nat))) (copyDesc w.raw).elements) = [] := by simp
  rw [if_neg (by decide), hnil, List.append_nil] at ht
  obtain ⟨x, -, rfl⟩ := List.mem_map.1 ht
  exact ⟨x.1.toNat, rfl⟩

theorem dupPair_nil (i : Nat) : dupPair [] i = none := by
  have hempty : dupEntries 0 = [] := by decide
  rw [dupPair, List.getD_nil, hempty]; rfl

/-- The write that an element of the copy stands for. -/
def copyWrite (s : State) (k : Nat) (w : CopyWork) (e : Nat × Nat) : Nat × List Byte :=
  (((copyDesc w.raw).dstAt e.1 e.2).toNat, bytesOf (copyDesc w.raw).srcTy.bytes
    (s.readSpad k ((copyDesc w.raw).srcAt e.1 e.2).toNat (copyDesc w.raw).srcTy.bytes))

theorem readSpad_mod (s : State) (k a n : Nat) : s.readSpad k a n % 2 ^ (8 * n) = s.readSpad k a n := by
  have hlt := ofBytes_lt (Sparse.getRange 0 (s.gang k).spad a n)
  have hlen : (Sparse.getRange (0 : Byte) (s.gang k).spad a n).length = n := by simp [Sparse.getRange]
  rw [hlen] at hlt
  exact Nat.mod_eq_of_lt hlt

theorem PlainCopy.opRead (h : PlainCopy s k w) (a n : Nat) : s.opRead gid o (.spad k a) n = ⟨bytesOf n (s.readSpad k a n), [], 0⟩ := by
  have hclean : (s.gang k).spadStatus a n = 0 := by
    rw [Gang.spadStatus, h.errs, Sparse.getRange]
    generalize List.range n = ls
    induction ls with
    | nil => rfl
    | cons i ls ih =>
      rw [List.map_cons, List.foldl_cons, show Sparse.get 0 ([] : Sparse Nat) (a + i) = 0 from rfl, Nat.or_self]
      exact ih
  simp only [State.opRead, Op.loses, State.readFor, State.readPlace, hclean]
  rfl

theorem PlainCopy.copyValue (h : PlainCopy s k w) (drawn : List ((Nat × Nat) × Nat)) (e : Nat × Nat) :
    (s.copyValue gid o w drawn e).1.status = 0 ∧
    (s.copyValue gid o w drawn e).2 = spadPending k (copyDesc w.raw).dstTy (copyWrite s k w e) := by
  have hty : (copyDesc w.raw).srcTy = (copyDesc w.raw).dstTy := by rw [CopyDesc.srcTy, CopyDesc.dstTy, h.ty]
  have hsource : dupSource [] e.2 = e.2 := by rw [dupSource, dupPair_nil]
  have hread : s.opRead gid o (placeAt w.src ((copyDesc w.raw).srcAt e.1 (dupSource w.recs e.2))) (copyDesc w.raw).srcTy.bytes =
      ⟨bytesOf (copyDesc w.raw).srcTy.bytes (s.readSpad k ((copyDesc w.raw).srcAt e.1 e.2).toNat (copyDesc w.raw).srcTy.bytes), [], 0⟩ := by
    rw [h.recs, hsource, h.src]
    exact h.opRead _ _
  have hconvert : ∀ bits x, (copyDesc w.raw).convertElem (dupPair w.recs e.2).isSome bits x = x := fun bits x => by
    rw [h.recs, dupPair_nil, CopyDesc.convertElem, if_neg (by decide), if_pos h.ty]
  simp only [State.copyValue, hread, hconvert]
  refine ⟨trivial, ?_⟩
  rw [Got.num, ofBytes_bytesOf, readSpad_mod, h.dst, ← hty]
  rfl

theorem PlainCopy.copyAll (h : PlainCopy s k w) : (∀ p ∈ s.copyAll gid o w, p.1.status = 0) ∧
    (s.copyAll gid o w).map Prod.snd =
      ((copyDesc w.raw).elements.map (copyWrite s k w)).map (spadPending k (copyDesc w.raw).dstTy) := by
  have hall : s.copyAll gid o w = (copyDesc w.raw).elements.map (s.copyValue gid o w ((copyDesc w.raw).drawn w.recs)) := by
    simp only [State.copyAll, h.tangents, List.range_zero, List.map_nil]
    exact List.map_eq_flatMap.symm
  rw [hall]
  refine ⟨fun p hp => ?_, ?_⟩
  · obtain ⟨e, -, rfl⟩ := List.mem_map.1 hp
    exact (h.copyValue _ e).1
  · rw [List.map_map, List.map_map]
    exact List.map_congr_left fun e _ => (h.copyValue _ e).2

/-- Nothing of a scratchpad is asked for over a link, and no read of it is noted. -/
theorem askAll_spads {l : List (Place × Nat)} (hl : ∀ t ∈ l, ∃ a, t.1 = .spad k a) (id : Nat) : s.askAll gid id l = (s, true) := by
  refine foldl_see_none (see := fun z => z) (fun r t ht => ?_) (s, true)
  obtain ⟨a, ha⟩ := hl t ht
  have hgo : ∀ o, r.1.peerGo gid o t.1 t.2 .read = .go := fun o => by rw [ha]; rfl
  split
  · rfl
  · rw [hgo]

theorem foldl_noteRead_spads {l : List (Place × Nat)} (hl : ∀ t ∈ l, ∃ a, t.1 = .spad k a) (carry : Stamp) :
    l.foldl (fun s x => s.noteRead gid 32 carry x.1 x.2) s = s := by
  refine foldl_see_none (see := fun z => z) (fun z t ht => ?_) s
  obtain ⟨a, ha⟩ := hl t ht
  rw [ha]; rfl

theorem foldl_raise_zero {l : List (Got × Pending)} (hl : ∀ p ∈ l, p.1.status = 0) (x : Op) :
    l.foldl (fun o p => o.raise p.1.status) x = x := by
  refine foldl_see_none (see := fun z => z) (fun z p hp => ?_) x
  rw [hl p hp, Op.raise]
  simp

/-- The copy begins: its writes stand ready. -/
theorem copying_begun (hprog : InProgress s gid o) (hkind : o.kind = .copy w) (hbegun : o.begun = false) (hbar : o.bar = none)
    (h : PlainCopy s k w) (hpower : s.hasPower gid o = true) :
    Copying s (s.prepare gid o.id) gid k (copyDesc w.raw).dstTy o [] ((copyDesc w.raw).elements.map (copyWrite s k w)) := by
  obtain ⟨hop, hdone, hstatus, holder, -⟩ := hprog
  have hready : s.copyReady gid o w = true := by
    refine List.all_eq_true.2 fun t ht => ?_
    obtain ⟨a, ha⟩ := h.reads t ht
    rw [ha, blocked_none holder]; rfl
  obtain ⟨hok, hwrites⟩ := h.copyAll (gid := gid) (o := o)
  let x : Op := { o with
    begun := true, asked := [], got := [], writes := (s.copyAll gid o w).map Prod.snd,
    stamp := (s.copyAll gid o w).foldl (fun σ p => Stamp.max σ p.1.stamp) o.stamp }
  have hbegin : s.beginCopy gid o w = s.setOp gid x := by
    simp only [State.beginCopy, foldl_noteRead_spads h.reads, foldl_raise_zero hok]
    rfl
  have hprepare : s.prepare gid o.id = s.setOp gid x := by
    simp only [State.prepare, hop, hdone, hkind, hbegun, hpower, hready, askAll_spads h.reads, hbegin]
    rfl
  rw [hprepare]
  refine ⟨⟨x, ?_, rfl, rfl, rfl, rfl, hdone, hbar, hstatus, hwrites⟩, older_setOp holder rfl, rfl, rfl, fun _ _ => rfl⟩
  rw [State.setOp, State.group_setGroup_self]
  exact Group.op?_setOp (x := x) hop

end Begin

/-! ## The copy as a whole -/

/-- Destinations of a descriptor that R209 does not refuse: aligned, not below zero, and no two the same. -/
theorem dstAt_wellFormed {c : CopyDesc} {decl : Decl} (h : c.illFormed decl [] = false) (hkind : c.dkind = 0) :
    (∀ e ∈ c.elements, 0 ≤ c.dstAt e.1 e.2 ∧ c.dstAt e.1 e.2 % (c.dstTy.bytes : Int) = 0) ∧
    (c.elements.map fun e => c.dstAt e.1 e.2).Nodup := by
  simp only [CopyDesc.illFormed, Bool.or_eq_false_iff, Bool.not_eq_false', decide_eq_true_eq] at h
  obtain ⟨⟨-, hplaces⟩, hnodup⟩ := h
  refine ⟨fun e he => ?_, hnodup⟩
  have hplace := List.any_eq_false.1 hplaces e he
  simp only [Bool.or_eq_true, not_or, hkind, inside, decide_true, Bool.true_and, Bool.not_eq_true', Bool.not_eq_false,
    Bool.and_eq_true, decide_eq_true_eq, not_not] at hplace
  exact ⟨hplace.2.1, hplace.1.1.2⟩

theorem copiesMove : Claims.CopiesMove := by
  intro s gid k o w c n src dst hprog hkind hbegun hwrites hbar hsrc hdst hskind hdkind hmap hdual hty hwell hpower herrs
  have hplain : PlainCopy s k w := ⟨hsrc, hdst, hskind, hmap, hdual, hty, herrs⟩
  obtain ⟨hplaces, hnodup⟩ := dstAt_wellFormed hwell hdkind
  have htys : c.dstTy.bytes = n := by simp only [n]; rw [CopyDesc.srcTy, CopyDesc.dstTy, hty]
  let write := copyWrite s k w
  have hlen : ∀ e, (write e).2.length = n := fun e => length_bytesOf _ _
  have hbytes : ∀ v ∈ c.elements.map write, v.2 ≠ [] := by
    intro v hv hnil
    obtain ⟨e, -, rfl⟩ := List.mem_map.1 hv
    exact Nat.ne_of_gt (bytes_pos c.srcTy) ((hlen e).symm.trans (congrArg List.length hnil))
  have hbegins := copying_begun hprog hkind hbegun hbar hplain hpower
  obtain ⟨ws, hperm, hmoved⟩ := hbegins.steps hkind hpower _ rfl hbytes
  obtain ⟨hover, hgang, hothers, hmem⟩ := hmoved.finish hkind
  have hws : ∀ v, v ∈ ws ↔ ∃ e ∈ c.elements, write e = v := fun v => hperm.mem_iff.symm.trans List.mem_map
  obtain ⟨x, hop, -, -, hxkind, -, -, -, -, hxwrites⟩ := hbegins.op
  have hexec : exec (.engineOperationComplete gid o.id) s = .next (((s.prepare gid o.id).moveMany gid o.id
      (c.elements.map write).length).finishOp gid o.id) := by
    obtain ⟨-, -, -, -, hstands⟩ := hprog
    change Host.Outcome.next (if s.channelStands gid then s else s.runOp gid o.id) = _
    rw [hstands, State.runOp, hop]
    simp only [Op.remaining, hxkind.trans hkind, hxwrites, List.length_map]
    rfl
  have hapart : ∀ e ∈ c.elements, ∀ v ∈ ws, v = write e ∨ ∀ a, Reaches v a → ¬ Reaches (write e) a := by
    intro e he v hv
    obtain ⟨e', he', rfl⟩ := (hws v).1 hv
    by_cases hsame : e' = e
    · exact .inl (hsame ▸ rfl)
    · obtain ⟨hlo, hal⟩ := hplaces e he
      obtain ⟨hlo', hal'⟩ := hplaces e' he'
      have hne : c.dstAt e'.1 e'.2 ≠ c.dstAt e.1 e.2 := fun h => hsame (List.inj_on_of_nodup_map hnodup he' he h)
      refine .inr fun a ha ha' => ?_
      rw [Reaches, hlen] at ha ha'
      rw [htys] at hal hal'
      exact aligned_disjoint (toNat_mod hlo' hal') (toNat_mod hlo hal) (by omega) ha ha'
  refine ⟨_, hexec, hover, fun e he => ?_, fun a ha => ?_, hothers, hmem⟩
  · have hread := (s.gang k).readSpad_putAll ws ((hws _).2 ⟨e, he, rfl⟩) (hapart e he)
    rw [length_bytesOf] at hread
    rw [State.readSpad, hgang]
    exact hread.trans ((ofBytes_bytesOf _ _).trans (readSpad_mod _ _ _ _))
  · rw [hgang]
    refine ((s.gang k).putAll_out ws fun v hv hr => ?_).1
    obtain ⟨e, he, rfl⟩ := (hws v).1 hv
    rw [Reaches, hlen] at hr
    exact ha e he hr

/-- Settles O54: lane operations, copies and rays each do what their event says. -/
theorem enginesRun : Obligations.EnginesRun := ⟨enginesMoveLanes, copiesMove, raysRun⟩

end Sys2Proof.Machine
end
